-- ==== Sys2Proof/Word.lean ====
section
/-! DEFINITION. The words of the machine and the plain records that operations and events carry. -/

namespace Sys2Proof

/-- A byte of memory. -/
abbrev Byte := BitVec 8
/-- A 32-bit word: a scalar register, one lane of a vector register, a control word (R5, R56). -/
abbrev Word := BitVec 32
/-- A 64-bit value: a pair of words, device time, a translation entry (R19, R130). -/
abbrev DWord := BitVec 64
/-- One bit for each of the 64 lanes of a group (R26). -/
abbrev LaneMask := BitVec 64
/-- An 8-bit register field (R159, R165). -/
abbrev Reg := BitVec 8
/-- A word offset in a control or lane section (R82). -/
abbrev Pc := BitVec 24

/-- The fields of a lane word other than its opcode (R165). -/
structure LaneForm where
  /-- w0 23:16, the destination. -/
  d : Reg
  /-- w0 15:8, the first source. -/
  a : Reg
  /-- w0 7:0, the second source. -/
  b : Reg
  /-- w1 31:24, the third source or qualifier. -/
  c : Reg
  /-- w1 23:21, the guard predicate. -/
  guard : BitVec 3
  /-- w1 20, guard negate. -/
  neg : Bool
  /-- w1 19:16, the type. -/
  ty : BitVec 4
  /-- w1 15:12, the modifier. -/
  mod : BitVec 4
  /-- w1 11:10, the flag select. -/
  flag : BitVec 2
  /-- w1 9:7, the memory scope. -/
  scope : BitVec 3
  /-- w1 6:0. -/
  sub : BitVec 7
  /-- w2. -/
  imm : Word
deriving DecidableEq, Repr, Inhabited

/-- An image that the boot checks (R393): the SHA3-512 digest of its key, whether its signature over its digest holds, its
security version, and its own SHA3-512 digest (R394). -/
structure SignedImage where
  key : BitVec 512
  signed : Bool
  version : DWord
  digest : BitVec 512
deriving DecidableEq, Repr, Inhabited

/-- What a step of the boot finds (R393, R394). -/
structure BootImage where
  /-- The first stage that the source tried first offers, if it offers any, and that of the other source. -/
  first : Option SignedImage
  second : Option SignedImage
  /-- The firmware of the other control cores. -/
  cores : List SignedImage
  /-- The digests of the control-core firmware and of the configuration. -/
  firmware : BitVec 512
  config : BitVec 512
deriving DecidableEq, Repr, Inhabited

/-- An access of a peer device to this device (R352): a read, a write or a read-modify-write within one line. -/
structure PeerAccess where
  /-- The requesting device. -/
  peer : BitVec 12
  asid : BitVec 16
  mapgen : BitVec 16
  /-- Virtual address in that space. -/
  va : DWord
  /-- Bytes of the access. -/
  size : Nat
  /-- The bytes written; none for a read. -/
  data : Option (List Byte)
  /-- A read-modify-write of a word (R310): numeric version 1, the operator, operand and comparand. -/
  rmw : Option (Bool × Nat × Word × Word)
deriving DecidableEq, Repr, Inhabited

/-- A peer's answer to a request of this device (R352). -/
inductive PeerAnswer where
  /-- Performed: the bytes read (old values for an atomic), and the completion time at the peer (R320). -/
  | done (data : List Byte) (time : DWord)
  /-- A page was absent: retry after the resolution notice. -/
  | retry
  /-- Failure, carrying the fault code at the target. -/
  | failure (code : BitVec 8)
deriving DecidableEq, Repr, Inhabited

/-- The junction temperature that a die reports, in °C (R400). -/
structure DieTemp where
  die : BitVec 1
  temp : Nat
deriving DecidableEq, Repr, Inhabited

/-- A register outside the contexts that the debug port reads (R399). -/
inductive DebugReg where
  /-- A 32-bit register at an offset of BAR0, read without the effect of a host read (R384, R385). -/
  | bar0 (off : Nat)
  | pwrslope
  | tokpool
  | slicectl (core : Nat)
  | ecnt (core : Nat)
deriving DecidableEq, Repr, Inhabited

/-- An access of the debug port (R105, R399). -/
inductive DebugAccess where
  /-- As-owner: a granule, for a context and one of its allocations; the bytes written by a debug write. -/
  | asOwner (ctx kind granule : Nat) (data : List Byte)
  /-- Raw: a granule, for a context. -/
  | raw (ctx granule : Nat)
  /-- A path table entry of a context, an engine operation's state record, the records in a context's save area (R123), and the
  marker (R397). -/
  | path (ctx entry : Nat)
  | engineState (op : Nat)
  | saveArea (ctx : Nat)
  | marker
  /-- A context's own state, in the layout of its save area; its system register of a number; its ages and region length
  (R54, R156, R157). -/
  | context (ctx : Nat)
  | system (ctx n : Nat)
  | ages (ctx : Nat)
  | register (r : DebugReg)
  /-- The allocation tables of a core's rows, tiles and weight slots and of a vault's units (R131). -/
  | rowTable (core : Nat)
  | tileTable (core : Nat)
  | slotTable (core : Nat)
  | unitTable (vault : Nat)
  /-- A core's deque with its spill-ring control, popped frame and latch, its L1 lines with their leases, its generation counter;
  a vault's generation counter and share. -/
  | deque (core : Nat)
  | leases (core : Nat)
  | coreCounters (core : Nat)
  | vaultCounters (vault : Nat)
  /-- The versions of a core's tiles (R93). -/
  | versions (core : Nat)
  /-- The operations of a core's MATRIX queue; a weight slot, with its valid bit (R94, R117). -/
  | matrixQueue (core : Nat)
  | slotBytes (core slot : Nat)
  /-- The requests and posted writes on their way to a peer, and the accesses of peers that wait for their page (R107, R352). -/
  | fabric (peer : Nat)
  | inbound
  /-- The HBM lines that a vault caches (R91). -/
  | deviceCache (vault : Nat)
  /-- The base of the address space table (R130). -/
  | spaceTable
  /-- Telemetry: allocations that waited for a generation, the junction temperatures, the power cap, the churns that ended (R104, R366,
  R369, R400). -/
  | telemetry
  /-- A cluster's SLOPE, grants, releasing barriers and droop count. -/
  | cluster (cluster : Nat)
  /-- A host queue, a launch, a region block, a control-core mailbox, the fault queue's and the error queue's control words, an
  entry of the error queue. -/
  | queue (qid : Nat)
  | launch (id : Nat)
  | region (addr : Nat)
  | mailbox (src dst : Nat)
  | faultQueue
  | errorQueue
  | errorEntry (n : Nat)
  /-- The lease horizon of a line and the writes that wait at its home (R311). -/
  | home (line : Nat)
  /-- Access counter of a region of remote memory (R98). -/
  | accessCounter (n : Nat)
  /-- The same read by the host, through the debug window of BAR0 (R384, R399). -/
  | window (r : DebugAccess)
  /-- Sets or clears halt-on-break for a group (R233). -/
  | haltOnBreak (ctx : Nat) (on : Bool)
  /-- Clears ECNT of a core (R75). -/
  | clearEcnt (core : Nat)
deriving DecidableEq, Repr, Inhabited

/-- A control register that a write sets and that has no event of its own (R90, R118, R119, R130, R349,
R366, R369, R384). -/
inductive RegTarget where
  /-- An offset of BAR0 other than DBELL, QCTL and STCMD. -/
  | bar0 (off : Nat)
  | pwrslope
  /-- The power cap that the host sets, in W (R366). -/
  | powerCap
  /-- The base of the address space table, and the base and size of the fault queue, which the memory manager sets. -/
  | spaceTable
  | faultBase
  | faultLog
  /-- A cluster that system software excludes from placement, or takes back (R349). -/
  | exclude (cluster : Nat)
  /-- The error-handler core has taken this many of the oldest error records (R119, R339). -/
  | errorsTaken
  /-- The memory manager's vault allocation for a region, by the address of its block: units of a vault, 0 to free it (R90). -/
  | regionVault (node vault : Nat)
  /-- The HBM frames that the memory manager charges to a region, by the address of its block (R53, R133; log entry 100). -/
  | regionFrames (node : Nat)
  /-- The security core's policy for a tenant, by the address of its block: host debug through BAR0, or not with 0 (R399). -/
  | hostDebug (tenant : Nat)
deriving DecidableEq, Repr, Inhabited

end Sys2Proof
end

