-- ==== Sys2Proof/Syntax.lean ====
section
/-! DEFINITION. Every operation and event of the opcode table, one constructor a row. Control words carry `sp`, the
live-mask word of a safe point (present exactly when S = 1, R161), lane words carry the fields of R165, and the events of
the device's agents carry the unit, context or outside value they concern (log entry 1). -/

namespace Sys2Proof

/-- The operations and events of the ZV9200. -/
inductive Instr where
  -- control words (R184)
  /-- R194. -/
  | add (sp : Option Word) (d a b : Reg)
  /-- R194. -/
  | sub (sp : Option Word) (d a b : Reg)
  /-- R194. -/
  | mul (sp : Option Word) (d a b : Reg)
  /-- R194. -/
  | mulh (sp : Option Word) (d a b : Reg)
  /-- R194. -/
  | mulhu (sp : Option Word) (d a b : Reg)
  /-- R194. -/
  | andr (sp : Option Word) (d a b : Reg)
  /-- R194. -/
  | orr (sp : Option Word) (d a b : Reg)
  /-- R194. -/
  | xorr (sp : Option Word) (d a b : Reg)
  /-- R194. -/
  | shl (sp : Option Word) (d a b : Reg)
  /-- R194. -/
  | shr (sp : Option Word) (d a b : Reg)
  /-- R194. -/
  | sar (sp : Option Word) (d a b : Reg)
  /-- R194. -/
  | minr (sp : Option Word) (d a b : Reg)
  /-- R194. -/
  | maxr (sp : Option Word) (d a b : Reg)
  /-- R194. -/
  | minu (sp : Option Word) (d a b : Reg)
  /-- R194. -/
  | maxu (sp : Option Word) (d a b : Reg)
  /-- R194. -/
  | slt (sp : Option Word) (d a b : Reg)
  /-- R194. -/
  | sltu (sp : Option Word) (d a b : Reg)
  /-- R194. -/
  | seq (sp : Option Word) (d a b : Reg)
  /-- R194. -/
  | clz (sp : Option Word) (d a : Reg)
  /-- R194. -/
  | popc (sp : Option Word) (d a : Reg)
  /-- R194. -/
  | divu (sp : Option Word) (d a b : Reg)
  /-- R194. -/
  | remu (sp : Option Word) (d a b : Reg)
  /-- R194. -/
  | bfx (sp : Option Word) (d a b : Reg)
  /-- R195. -/
  | addi (sp : Option Word) (d a : Reg) (i : BitVec 8)
  /-- R195. -/
  | andi (sp : Option Word) (d a : Reg) (i : BitVec 8)
  /-- R195. -/
  | ori (sp : Option Word) (d a : Reg) (i : BitVec 8)
  /-- R195. -/
  | xori (sp : Option Word) (d a : Reg) (i : BitVec 8)
  /-- R195. -/
  | shli (sp : Option Word) (d a : Reg) (i : BitVec 5)
  /-- R195. -/
  | shri (sp : Option Word) (d a : Reg) (i : BitVec 5)
  /-- R195. -/
  | sari (sp : Option Word) (d a : Reg) (i : BitVec 5)
  /-- R195. -/
  | slti (sp : Option Word) (d a : Reg) (i : BitVec 8)
  /-- R196. -/
  | movi (sp : Option Word) (d : Reg) (m : BitVec 16)
  /-- R196. -/
  | movhi (sp : Option Word) (d : Reg) (m : BitVec 16)
  /-- R196. -/
  | movl (sp : Option Word) (d : Reg) (lit : Word)
  /-- R196. -/
  | addiw (sp : Option Word) (d : Reg) (m : BitVec 16)
  /-- R197. -/
  | lds (sp : Option Word) (d a : Reg) (i : BitVec 8)
  /-- R197. -/
  | sts (sp : Option Word) (d a : Reg) (i : BitVec 8)
  /-- R199. -/
  | sbld (sp : Option Word) (d a : Reg) (b : BitVec 7)
  /-- R199. -/
  | sbst (sp : Option Word) (d a : Reg) (b : BitVec 7)
  /-- R200. -/
  | satom (sp : Option Word) (d a : Reg) (b : BitVec 7) (lit : Word)
  /-- R202. -/
  | grow (sp : Option Word) (m : BitVec 16)
  /-- R204. -/
  | br (sp : Option Word) (sc : BitVec 3) (off : BitVec 13)
  /-- R204. -/
  | bz (sp : Option Word) (sc : BitVec 3) (a : Reg) (off : BitVec 13)
  /-- R204. -/
  | bnz (sp : Option Word) (sc : BitVec 3) (a : Reg) (off : BitVec 13)
  /-- R204. -/
  | bltz (sp : Option Word) (sc : BitVec 3) (a : Reg) (off : BitVec 13)
  /-- R204. -/
  | bgez (sp : Option Word) (sc : BitVec 3) (a : Reg) (off : BitVec 13)
  /-- R49. -/
  | buni (sp : Option Word) (sc n : BitVec 3) (off : BitVec 13)
  /-- R206. -/
  | call (sp : Option Word) (sc : BitVec 3) (off : BitVec 13)
  /-- R206. -/
  | ret (sp : Option Word) (sc : BitVec 3)
  /-- R207. -/
  | loop (sp : Option Word) (sc : BitVec 3) (a : Reg) (off : BitVec 12)
  /-- R207. -/
  | loopNext (sp : Option Word) (sc : BitVec 3)
  /-- R207. -/
  | loopLeave (sp : Option Word) (sc : BitVec 3)
  /-- R208. -/
  | endc (sp : Option Word) (sc : BitVec 3)
  /-- R43. -/
  | brl (sp : Option Word) (sc n : BitVec 3) (off : BitVec 13)
  /-- R43. -/
  | meet (sp : Option Word) (sc : BitVec 3) (off : BitVec 13)
  /-- R210. -/
  | lane (sp : Option Word) (d : Reg) (m : BitVec 16)
  /-- R211. -/
  | lsync (sp : Option Word)
  /-- R213. -/
  | ptos (sp : Option Word) (d : Reg) (n : BitVec 3)
  /-- R213. -/
  | vtos (sp : Option Word) (d a : Reg) (l : BitVec 6)
  /-- R213. -/
  | vtosPair (sp : Option Word) (d a : Reg) (l : BitVec 6)
  /-- R213. -/
  | vtosFirst (sp : Option Word) (d a : Reg)
  /-- R47. -/
  | exmr (sp : Option Word) (d : Reg)
  /-- R47. -/
  | exmw (sp : Option Word) (a : Reg)
  /-- R34. -/
  | down (sp : Option Word) (d : Reg) (m : BitVec 16)
  /-- R216. -/
  | segend (sp : Option Word)
  /-- R37. -/
  | up (sp : Option Word) (a : Reg) (op : BitVec 3)
  /-- R37. -/
  | gather (sp : Option Word) (d : Reg) (op : BitVec 3)
  /-- R218. -/
  | bar (sp : Option Word) (n : BitVec 4)
  /-- R218. -/
  | barc (sp : Option Word) (n : BitVec 2)
  /-- R212. -/
  | waitf (sp : Option Word) (m : BitVec 12)
  /-- R145. -/
  | waite (sp : Option Word) (cls : BitVec 2) (t : BitVec 6)
  /-- R221. -/
  | waita (sp : Option Word) (d a b : Reg)
  /-- R222. -/
  | tryw (sp : Option Word) (d a : Reg) (b : BitVec 7) (lit : Word)
  /-- R223. -/
  | fence (sp : Option Word) (kind : BitVec 2) (sc : BitVec 3)
  /-- R224. -/
  | spawn (sp : Option Word) (d : Reg)
  /-- R225. -/
  | joinc (sp : Option Word) (d a b : Reg) (lit : Word)
  /-- R227. -/
  | tcopy (sp : Option Word) (d a b : Reg)
  /-- R227. -/
  | gcopy (sp : Option Word) (d a b : Reg)
  /-- R230. -/
  | wbload (sp : Option Word) (d a b : Reg)
  /-- R230. -/
  | rcopy (sp : Option Word) (d a b : Reg)
  /-- R69. -/
  | getsr (sp : Option Word) (d : Reg) (m : BitVec 16)
  /-- R232. -/
  | setsr (sp : Option Word) (d : Reg) (m : BitVec 16)
  /-- R233. -/
  | trap (sp : Option Word) (m : BitVec 16)
  /-- R234. -/
  | sigchk (sp : Option Word) (lit : Word)
  /-- R233. -/
  | brk (sp : Option Word) (m : BitVec 16)
  /-- R235. -/
  | nop (sp : Option Word)
  -- lane words (R190)
  /-- R237. -/
  | vadd (f : LaneForm)
  /-- R237. -/
  | vsub (f : LaneForm)
  /-- R237. -/
  | vmul (f : LaneForm)
  /-- R237. -/
  | vmulh (f : LaneForm)
  /-- R237. -/
  | vmulhu (f : LaneForm)
  /-- R239. -/
  | vmad (f : LaneForm)
  /-- R237. -/
  | vand (f : LaneForm)
  /-- R237. -/
  | vor (f : LaneForm)
  /-- R237. -/
  | vxor (f : LaneForm)
  /-- R237. -/
  | vshl (f : LaneForm)
  /-- R237. -/
  | vshr (f : LaneForm)
  /-- R237. -/
  | vsar (f : LaneForm)
  /-- R237. -/
  | vmin (f : LaneForm)
  /-- R237. -/
  | vmax (f : LaneForm)
  /-- R237. -/
  | vminu (f : LaneForm)
  /-- R237. -/
  | vmaxu (f : LaneForm)
  /-- R239. -/
  | vabs (f : LaneForm)
  /-- R239. -/
  | vclz (f : LaneForm)
  /-- R239. -/
  | vpopc (f : LaneForm)
  /-- R239. -/
  | vbfx (f : LaneForm)
  /-- R239. -/
  | vbfi (f : LaneForm)
  /-- R239. -/
  | vsel (f : LaneForm)
  /-- R239. -/
  | vmov (f : LaneForm)
  /-- R240. -/
  | vcmp (f : LaneForm)
  /-- R238. -/
  | vadds (f : LaneForm)
  /-- R241. -/
  | plog (f : LaneForm)
  /-- R280. -/
  | fadd (f : LaneForm)
  /-- R280. -/
  | fsub (f : LaneForm)
  /-- R280. -/
  | fmul (f : LaneForm)
  /-- R280. -/
  | ffma (f : LaneForm)
  /-- R281. -/
  | fmin (f : LaneForm)
  /-- R281. -/
  | fmax (f : LaneForm)
  /-- R282. -/
  | fcmp (f : LaneForm)
  /-- R283. -/
  | frcp (f : LaneForm)
  /-- R283. -/
  | frsq (f : LaneForm)
  /-- R283. -/
  | fsqrt (f : LaneForm)
  /-- R284. -/
  | fexp (f : LaneForm)
  /-- R283. -/
  | flog (f : LaneForm)
  /-- R285. -/
  | frint (f : LaneForm)
  /-- R285. -/
  | fldexp (f : LaneForm)
  /-- R284. -/
  | fexpx (f : LaneForm)
  /-- R286. -/
  | fclass (f : LaneForm)
  /-- R287. -/
  | hadd2 (f : LaneForm)
  /-- R287. -/
  | hmul2 (f : LaneForm)
  /-- R287. -/
  | hfma2 (f : LaneForm)
  /-- R288. -/
  | cvt (f : LaneForm)
  /-- R291. -/
  | quant (f : LaneForm)
  /-- R290. -/
  | packb (f : LaneForm)
  /-- R290. -/
  | unpkb (f : LaneForm)
  /-- R242. -/
  | shfl (f : LaneForm)
  /-- R242. -/
  | shflx (f : LaneForm)
  /-- R243. -/
  | vote (f : LaneForm)
  /-- R244. -/
  | redux (f : LaneForm)
  /-- R244. -/
  | scan (f : LaneForm)
  /-- R250. -/
  | bld (f : LaneForm)
  /-- R250. -/
  | bst (f : LaneForm)
  /-- R258. -/
  | batom (f : LaneForm)
  /-- R253. -/
  | bpf (f : LaneForm)
  /-- R254. -/
  | lld (f : LaneForm)
  /-- R254. -/
  | lst (f : LaneForm)
  /-- R259. -/
  | latom (f : LaneForm)
  /-- R255. -/
  | pld (f : LaneForm)
  /-- R255. -/
  | pst (f : LaneForm)
  /-- R256. -/
  | vld (f : LaneForm)
  /-- R256. -/
  | vst (f : LaneForm)
  /-- R294. -/
  | mma (f : LaneForm)
  /-- R300. -/
  | accrd (f : LaneForm)
  /-- R301. -/
  | accwr (f : LaneForm)
  /-- R302. -/
  | accz (f : LaneForm)
  /-- R192. -/
  | lnop (f : LaneForm)
  -- events of the agents
  /-- R141. -/
  | clauseHead (c : Nat)
  /-- R140. -/
  | laneCompletion (c op : Nat) (lanes : LaneMask)
  /-- R36. -/
  | segmentStart (c : Nat)
  /-- R33. -/
  | endMarker (c : Nat)
  /-- R33. -/
  | contextEnd (c : Nat)
  /-- R50. -/
  | gridRetire (l : Nat)
  /-- R35. -/
  | descentUnstall (c : Nat)
  /-- R218. -/
  | barrierOpen (owner n : Nat)
  /-- R219. -/
  | reelWave (cl : Nat)
  /-- R221. -/
  | waitaWake (c : Nat)
  /-- R222. -/
  | trywWake (c : Nat)
  /-- R222. -/
  | trywTimeout (c : Nat)
  /-- R84. -/
  | growGrant (c : Nat)
  /-- R110. -/
  | ownerPop (k : Nat)
  /-- R114. -/
  | steal (k : Nat)
  /-- R114. -/
  | stealRetry (k : Nat)
  /-- R51. -/
  | taskStart (k : Nat)
  /-- R117. -/
  | engineOpStart (k cls : Nat)
  /-- R153. -/
  | ringSlotTake (op : Nat)
  /-- R151. -/
  | landing (op blk : Nat)
  /-- R144. -/
  | engineRetire (c cls : Nat)
  /-- R231. -/
  | engineResume (op : Nat)
  /-- R299. -/
  | weightDelivery (k i : Nat)
  /-- R295. -/
  | octetStart (k i : Nat)
  /-- R295. -/
  | octetComplete (k i : Nat)
  /-- R302. -/
  | acczPerform (k i : Nat)
  /-- R311. -/
  | homeWrite (i : Nat)
  /-- R88. -/
  | l1WriteBack (k line : Nat) (bad : Bool)
  /-- R91. -/
  | deviceCacheEviction (line : Nat)
  /-- R62. -/
  | tagRewrite (k row : Nat)
  /-- R104. -/
  | skim (g : Nat)
  /-- R98. -/
  | accessCounterHalve
  /-- R98. -/
  | regionMigrate (asid region frame free : Nat) (full : Bool)
  /-- R324. -/
  | mapChange (asid table : Nat) (edits : List (Nat × DWord))
  /-- R137. -/
  | faultBatchServed
  /-- R333. -/
  | pageReplay (c : Nat)
  /-- R332. -/
  | atomicReissue (c : Nat)
  /-- R401. -/
  | fetchRetry (c : Nat)
  /-- R341. -/
  | kill
  /-- R342. -/
  | preemption (l : Nat)
  /-- R346. -/
  | restore (l : Nat)
  /-- R365. -/
  | growDeadlock (k : Nat)
  /-- R357. -/
  | lattolExpiry (l : Nat)
  /-- R358. -/
  | placement (l : Nat)
  /-- R355. -/
  | tokenGrant (l : Nat)
  /-- R155. -/
  | depNotification
  /-- R362. -/
  | activeSetSwap (c : Nat)
  /-- R363. -/
  | agelimSwap (c : Nat)
  /-- R387. -/
  | doorbell (v : DWord)
  /-- R386. -/
  | queueCreate (v : DWord)
  /-- R386. -/
  | queueDestroy (v : DWord)
  /-- R400. -/
  | thermalHoldRelease (v : DWord) (t : DieTemp)
  /-- R120. -/
  | queueSlotTake (q : Nat)
  /-- R354. -/
  | queueWake
  /-- R388. -/
  | nopPacket (q : Nat)
  /-- R135. -/
  | launchPacket (q : Nat)
  /-- R388. -/
  | waitPacket (q : Nat)
  /-- R388. -/
  | signalPacket (q : Nat)
  /-- R134. -/
  | regionPacket (q : Nat)
  /-- R388. -/
  | unknownPacket (q : Nat)
  /-- R121. -/
  | queueUnpark (q : Nat)
  /-- R395. -/
  | selfTest (v : DWord)
  /-- R395. -/
  | selfTestEnd (r : List Word)
  /-- R385. -/
  | devstatRead
  /-- R384. -/
  | registerWrite (t : RegTarget) (v : DWord)
  /-- R368. -/
  | slopeWrite (cl : Nat) (lim : BitVec 16)
  /-- R356. -/
  | tokpoolWrite (v : Word)
  /-- R366. -/
  | slicectlWrite (k : Nat) (v : Word)
  /-- R366. -/
  | powerCheck (draw : Nat)
  /-- R367. -/
  | droop (cl : Nat) (on : Bool)
  /-- R369. -/
  | churn (on : Bool)
  /-- R400. -/
  | thermalThrottle (t : DieTemp)
  /-- R400. -/
  | thermalShutdown (t : DieTemp)
  /-- R396, measured by the device time of die `die`. -/
  | supplyLoss (die : BitVec 1)
  /-- R398. -/
  | supplyResume (lost : BitVec 48)
  /-- R158. -/
  | coldReset
  /-- R393. -/
  | boot (img : BootImage)
  /-- R394. -/
  | getMeasurements
  /-- R389. -/
  | mailboxSend (src dst taken : Nat) (d : List Word)
  /-- R390. -/
  | flitReplay (p count : Nat)
  /-- R392. -/
  | retrain (p : Nat) (failed : BitVec 8) (peer : BitVec 12)
  /-- R352. -/
  | inboundPeerAccess (r : PeerAccess)
  /-- R352. -/
  | remoteResolutionNotice (id : Nat)
  /-- R352. -/
  | rtimeout (id : Nat)
  /-- R321. -/
  | hostWrite (addr : Nat) (d : List Byte)
  /-- R323. -/
  | hostSnoop (line : Nat)
  /-- R105. -/
  | debugRead (r : DebugAccess)
  /-- R105. -/
  | debugWrite (r : DebugAccess)
  /-- R233. -/
  | debugResume (c : Nat)
  /-- R398. -/
  | auxiliaryRailFailure
  /-- R400. -/
  | thermalHoldTemperatureFall (t : DieTemp)
  /-- R396. -/
  | partnerRetention (p : Nat)
  /-- R90. -/
  | cacheShareChange (v share : Nat)
  /-- R352. -/
  | remoteAnswer (id : Nat) (ans : PeerAnswer)
  /-- R349. -/
  | pcieRecovery (ok : Bool)
deriving DecidableEq, Repr, Inhabited

end Sys2Proof
end

