-- ==== Sys2Proof/Config.lean ====
section
/-! DEFINITION. What the spec leaves to the part or to the world outside it: whose turn it is, how much device time a
step takes, and the free values (R14, R21, R402). -/

namespace Sys2Proof

/-- The agent that acts in a step: the control stream of a context, the lane stream of a group or task, or another
agent of the device or the world outside it, whose step is an event of the opcode table. -/
inductive Turn where
  | ctrl (ctx : Nat)
  /-- Within a control stream's turn alone: its instruction would consume an uncorrectable scalar register (R347). -/
  | ctrlUe (ctx : Nat)
  | lane (ctx : Nat)
  | event (i : Instr)
deriving DecidableEq, Repr, Inhabited

/-- Whose turn comes after step `n`: free, so that every schedule and every input of the outside world is one of its
values (R14, R48, R361; log entry 1). -/
opaque Config.freeTurn : Nat → Turn

/-- The device time, in ns, that step `n` takes on each die: free (R19, R21; log entry 1). -/
opaque Config.freeDelta : Nat → Nat × Nat

/-- The 64-byte granules that an uncorrectable error strikes in step `n`: free (R347; log entry 4). -/
opaque Config.freeUpset : Nat → List Nat

/-- The scalar registers that an uncorrectable error strikes in step `n`, each by context and number: free (R347; log entry 4). -/
opaque Config.freeScalarUpset : Nat → List (Nat × Nat)

/-- The cores in which a correctable error is corrected in step `n`: free (R75, R347; log entry 4). -/
opaque Config.freeCorrected : Nat → List Nat

/-- The SHA3-512 digest of the boot ROM: each part's own, and never stated (R394; log entry 112). -/
opaque Config.romDigest : BitVec 512

/-- The attestation key that the first stage derives from the fused secret, and the signature that a key makes over a response:
the spec names no algorithm for either (R394; log entry 145). -/
opaque Config.attestationKey : BitVec 512 → BitVec 512
opaque Config.signature : BitVec 512 → List (BitVec 512) → BitVec 512

/-- A free 32-bit value for a result on which the spec is silent (log entry 2). -/
opaque Config.freeWord : Nat → Word

end Sys2Proof
end

