-- ==== Sys2Proof/Machine/State.lean ====
section
/-! DEFINITION. The state of the device as plain data: everything the spec names (INVENTORY.md, State), the two reasons a
step can stop, and the state after reset. -/

namespace Sys2Proof.Machine

/-- A finite table by number: pairs with strictly rising keys, none holding the table's default value. -/
abbrev Sparse (α : Type) := List (Nat × α)

/-- Why a step stops outside the spec's own faults. -/
inductive Fault where
  /-- A translation entry, the address space table or a command names a physical HBM byte at or beyond 640 GiB, which the
  part does not have (R17, R97). Raised by every access through translation. Safe: the model stops. -/
  | noFrame (addr : Nat)
deriving DecidableEq, Repr

/-- Why the model gives a step no meaning. -/
inductive Refusal where
  /-- The arm of an instruction that has no meaning yet. Raised by `exec` alone. Safe: the model stops. -/
  | notModelled (mnemonic : String)
deriving DecidableEq, Repr

/-- Where a byte lives: in this device or in host memory (a key of `State.mem`), or on a peer device (R130, R310). -/
inductive Place where
  | here (key : Nat)
  | peer (dev : BitVec 12) (addr : Nat)
deriving DecidableEq, Repr, Inhabited

/-- What names an L1 line (R88). -/
structure LineTag where
  asid : BitVec 16
  mapgen : BitVec 16
  line : Place
deriving DecidableEq, Repr, Inhabited

/-- A path-table entry (R42, R132). A block, cluster or grid sequencer has one, for its pc and s252 to s255. -/
structure PathEntry where
  /-- 0 free, 1 running, 2 ready, 3 waiting at its meeting point. -/
  state : BitVec 2
  pc : Pc
  /-- EXM while the path runs (R47). -/
  mask : LaneMask
  held : LaneMask
  age : Word
  /-- s252 to s255. -/
  priv : List Word
  sig : Word
  /-- The meeting stack, bottom first. -/
  meets : List (Pc × LaneMask)
deriving DecidableEq, Repr, Inhabited

/-- A descent-queue entry (R109). -/
inductive Descent where
  | segment (off : BitVec 16) (args : List Word)
  | marker
deriving DecidableEq, Repr, Inhabited

/-- One child's entry of the gather state (R345): the child, whether it is live, its standing report. -/
structure Report where
  child : Nat
  live : Bool
  standing : Option (BitVec 3 × Word)
deriving DecidableEq, Repr, Inhabited

/-- A clause of the lane clause queue (R108). -/
structure Clause where
  id : Nat
  /-- Header offset in lane words. -/
  off : BitVec 16
  k : List Word
  mask : LaneMask
  nbv : BitVec 2
  /-- STALEPOL when LANE executed: VLT, ACC, SCR, REG from bit 3 down (R81). -/
  pols : BitVec 4
  path : Nat
  /-- The live-mask word of the region that enqueued it, and the vector registers that it describes (R202, R331). -/
  live : Option Word
  liveRegs : Nat
  /-- Checked at the head of the queue (R141). -/
  started : Bool
  /-- Its header's w0, once it has started (R169). -/
  head : Word
  /-- Index of the next instruction to issue. -/
  next : Nat
  count : Nat
  /-- Issued its first instruction, so its wait mask has been met. -/
  issued : Bool
deriving DecidableEq, Repr, Inhabited

/-- One lane's access of a memory instruction in flight: where, none when out of bounds, and the bytes of the group's own
region store buffer that it returns (R116, R249). -/
structure LaneAcc where
  lane : Nat
  place : Option Place
  own : List (Option Byte)
  /-- Generation of the core-store or vault allocation it reads (R100). -/
  gen : BitVec 12
  /-- Its line fetch counts in the access counters (R98). -/
  counted : Bool
deriving DecidableEq, Repr, Inhabited

/-- What a lane instruction in flight is (R140, R142, R190). -/
inductive FlightKind where
  /-- A fixed-latency instruction tied to a flag: its effect is done. -/
  | fixed
  | load
  | atomic
  /-- Waits for its operations in the MATRIX queue (R300 to R302). -/
  | matrix
deriving DecidableEq, Repr, Inhabited

/-- A lane instruction that has issued and not completed (R140, R142). -/
structure Flight where
  id : Nat
  clause : Nat
  /-- Its place, in the TRAPPC layout (R340). -/
  pc : Word
  /-- The completion flag it is tied to. -/
  flag : Option Nat
  kind : FlightKind
  opcode : Nat
  form : LaneForm
  nbv : BitVec 2
  /-- Lanes not yet performed. -/
  accs : List LaneAcc
  /-- Lanes with a pending write (R142), and the registers. -/
  pend : LaneMask
  firstReg : Nat
  nRegs : Nat
  /-- Acquire order: later loads wait for it (R246). -/
  acq : Bool
  /-- Release to memory at scope, for atomics. -/
  scope : Nat
  /-- Operations before this one that a FENCE ordered ahead of it (R223). -/
  fence : Nat
  /-- The address space and map generation of its accesses (R88). -/
  asid : BitVec 16
  mapgen : BitVec 16
  /-- Operand words of an atomic, by lane. -/
  operands : List (Nat × Word × Word)
deriving DecidableEq, Repr, Inhabited

/-- An entry of the region store buffer: one line (R116, R252). -/
structure BufEntry where
  /-- The line (a key divided by 128), or a peer line. -/
  line : Place
  /-- Its virtual line, for a line of an address space. -/
  va : Nat
  bytes : Sparse Byte
  scope : BitVec 3
  release : Bool
  asid : BitVec 16
  mapgen : BitVec 16
  /-- A core-store or vault line: the generation it writes under; none for a global line. -/
  gen : Option (BitVec 12)
  /-- Lane accesses with a smaller identity were issued before its last store (R249). -/
  stamp : Nat
deriving DecidableEq, Repr, Inhabited

/-- A checkpoint (R329, R330). -/
structure Checkpoint where
  paths : List PathEntry
  run : Nat
  calls : List Pc
  loops : List (Word × Pc)
  /-- Clauses with a smaller identity were enqueued before it. -/
  clause : Nat
  preds : Option (List LaneMask)
  /-- The marks of R347 of the paths' scalars and of the predicates, as they stood. -/
  bad : List Nat
  /-- The four argument words of a segment start (R330). -/
  seg : Option (List Word)
  /-- TRAPCAUSE 15:0, TRAPPC and TRAPADDR at trap entry (R330). -/
  trap : Option (Word × Word × Word)
deriving DecidableEq, Repr, Inhabited

/-- What a context is doing. -/
inductive Mode where
  | run
  /-- Idles with an empty descent queue (R36). -/
  | idle
  /-- A DOWN waits for a full queue (R35). -/
  | down (off : BitVec 16) (args : List Word) (len : Nat)
  /-- END performed its marker step and waits (R33, R208). -/
  | ending
  /-- Arrived at a barrier (R218): its owner and number. -/
  | barrier (owner n : Nat) (i : Instr) (len : Nat)
  /-- Released by an opened barrier, waiting for its wave (R219). -/
  | reel (i : Instr) (len : Nat)
  /-- Suspended in WAITA (R221); how many suspensions came before. -/
  | waita (i : Instr) (len order : Nat)
  /-- Suspended in TRYW since a device time (R222). -/
  | tryw (i : Instr) (len since : Nat)
  /-- Waiting in GROW (R202). -/
  | grow (i : Instr) (len : Nat)
  /-- A replayable fault waits for its batch (R333). -/
  | page (batch : Nat)
  /-- A retried remote access waits for the notice of a request (R352). -/
  | notice (req : Nat)
  /-- An instruction fetch waits for its batch (R401). -/
  | fetch (batch : Nat)
  /-- A batch of records waits for room in the fault queue (R118); it is an instruction fetch's or a page fault's. -/
  | batch (records : List (List Word)) (isFetch : Bool)
  /-- The trap segment waits for issued work to complete (R337). -/
  | trap
  /-- Halted at BRK by the debug port (R233). -/
  | halted (len : Nat)
  /-- Pre-empted from its register rows at a GROW deadlock (R365). -/
  | evicted
  /-- A fatal fault; the kill has not acted (R335). -/
  | faulted
  /-- Ended (R33). -/
  | ended
deriving DecidableEq, Repr, Inhabited

/-- What the lane stream of a group is doing. -/
inductive LaneMode where
  | run
  /-- An atomic waits for its batch (R332). -/
  | atomic (batch : Nat)
  /-- A fetch of a lane word waits for its batch (R401). -/
  | fetch (batch : Nat)
  /-- A batch of the lane stream waits for room in the fault queue (R118). -/
  | batch (records : List (List Word)) (isFetch : Bool)
  /-- A retried remote atomic waits for the notice of a request (R332, R352). -/
  | notice (req : Nat)
deriving DecidableEq, Repr, Inhabited

/-- A context: a grid, cluster or block sequencer, a group or a task (R25, R29, R56). -/
structure Ctx where
  id : Nat
  /-- Scope code: 1 group or task, 2 block, 3 cluster, 4 grid (R73). -/
  level : BitVec 3
  task : Bool
  launch : Nat
  parent : Option Nat
  die : BitVec 1
  cluster : Nat
  /-- Physical core and slot of a group or task. -/
  core : Nat
  slot : Nat
  childIx : Nat
  groupIx : Nat
  blockIx : Nat
  cctx : Nat
  /-- CLUSTERIX.CLUSTER, which a restore leaves as it was (R74, R82). -/
  clusterIx : Nat
  mode : Mode
  /-- How far the instruction at the pc has got, for one that waits between effects: SPAWN, JOINC, a task's end. -/
  phase : Nat
  /-- The batch that the end of a task, a JOINC or a grid's retirement waits for. -/
  served : Option Nat
  /-- Its batch, while that waits for room in the fault queue (R118). -/
  owing : Option (List (List Word))
  /-- A continuation frame that waits for room in the core's deque (R225, R226). -/
  pushing : Option (List Word)
  /-- s0 to s251 that are not zero. -/
  sregs : Sparse Word
  /-- Scalars and predicates that hold uncorrectable data (R347): 0 to 251, 256 + 4 × path + i for s252 to s255 of a path, and
  512 + n for pn. -/
  sregBad : List Nat
  paths : List PathEntry
  run : Nat
  calls : List Pc
  loops : List (Word × Pc)
  descent : List Descent
  dhead : Nat
  gather : List Report
  /-- TIMEHI and WCTHI shadows (R71). -/
  timeHi : Option Word
  wctHi : Option Word
  nbv : BitVec 2
  agelim : BitVec 13
  /-- STALEPOL: this context's own VLT, ACC, SCR and REG bits (R81). -/
  polVlt : Bool
  polAcc : Bool
  polScr : Bool
  polReg : Bool
  trapCause : Word
  trapPc : Word
  trapAddr : Word
  /-- Present lanes (R26), V, register base row and generation (R60, R75). -/
  lanes : Nat
  vregs : Nat
  regBase : Nat
  regGen : BitVec 12
  /-- First row of the buffer-record table, first scratchpad row, rows and generation (R76, R85). -/
  table : Nat
  tableGen : BitVec 12
  scrRow : Nat
  scrRows : Nat
  scrGen : BitVec 12
  /-- Tile and weight-slot runs (R93, R94). -/
  tileBase : Nat
  tiles : Nat
  tileGen : BitVec 12
  slotBase : Nat
  wslots : Nat
  /-- Cores that hold the block, for a block (R27). -/
  cores : List Nat
  /-- p1 to p7. -/
  preds : List LaneMask
  dmk : LaneMask
  exited : LaneMask
  wct : Nat
  clauses : List Clause
  laneMode : LaneMode
  flights : List Flight
  /-- Completion flag counts cf0 to cf11 that are not zero (R140). -/
  flags : Sparse Nat
  /-- Operation identities of each engine class not yet retired, in issue order: class and identity (R143). -/
  engines : List (BitVec 2 × Nat)
  rsb : List BufEntry
  /-- The commit at a safe point has begun, and entries of the buffer are still to be released (R329). -/
  committing : Bool
  /-- The replay set: tile and version of each operation accepted since the safe point (R149, R303). -/
  replay : List (Nat × BitVec 8)
  /-- The set that the replay in progress, if any, began with. -/
  reissue : List (Nat × BitVec 8)
  regionLen : Nat
  /-- Issue slots used, for the pending ages of the partition (R156; log entry 93). -/
  issues : Nat
  live : Option Word
  /-- The vector registers that the live-mask word describes: after a GROW those below the smaller V (R202). -/
  liveRegs : Nat
  ckpt : Checkpoint
  /-- A handler-eligible fault is fatal until the trap segment commits (R338). -/
  armed : Bool
  /-- Pinned lines (R253). -/
  pins : List LineTag
  /-- A FENCE with acquire orders later loads behind operations with a smaller identity (R223). -/
  loadFence : Nat
  /-- System-scope acquire fences whose retirement of the core's clean lines is still due, by the identity that they stand at:
  it comes after the loads before them and before any load behind them (R316, R322). -/
  retire : List Nat
  /-- Pending age, active-set mark and order of entry (R156, R362, R363). -/
  pendAge : BitVec 16
  active : Bool
  entered : Nat
  /-- The frame that a task started from (R343), its join link and its nesting depth (R128, R225). -/
  frame : List Word
  join : Nat
  depth : Nat
  haltOnBreak : Bool
  /-- Its region was cancelled by a change of a space while it was halted or saved: it is replayed when it goes on (R324, R333). -/
  cancelled : Bool
deriving DecidableEq, Repr, Inhabited

/-- A run of rows, tiles, weight slots or vault units and the generation that owns it (R99, R131). -/
structure Run where
  first : Nat
  count : Nat
  gen : BitVec 12
  /-- Kind of R131: 1 registers, 2 block allocation, 3 task scratchpad, 6 tiles, 7 weight slots. R131 lists none for the units of a
  vault; their kind is 2 (log entry 121). -/
  kind : BitVec 3
  /-- The stale-read policy bit (R81). -/
  policy : Bool
  /-- The context that holds it, or the launch for a grid's table or vault run. -/
  owner : Nat
deriving DecidableEq, Repr, Inhabited

/-- An L1 line (R88). -/
structure Line where
  asid : BitVec 16
  mapgen : BitVec 16
  /-- Physical line: a key divided by 128, or a peer's line. -/
  line : Place
  leaseEnd : Nat
  /-- The bytes held, by offset; the fetched bytes of a line with no lease are not read. -/
  bytes : Sparse Byte
  /-- Offsets written by stores not yet at the home. -/
  dirty : BitVec 128
  scope : BitVec 3
  owner : BitVec 12
  pinned : Bool
  /-- The granules of the line, low and high, that were fetched uncorrectable (R347). -/
  bad : BitVec 2
deriving DecidableEq, Repr, Inhabited

def Line.tag (x : Line) : LineTag := ⟨x.asid, x.mapgen, x.line⟩

/-- Version, open bit and open count of a tile (R93, R147, R275). -/
structure Tile where
  version : BitVec 8
  opened : Bool
  count : Nat
deriving DecidableEq, Repr, Inhabited

/-- An operation in the MATRIX queue of a core: one octet of an MMA, ACCRD or ACCWR, or one tile of an ACCZ (R293, R300 to
R302). -/
structure MatOp where
  id : Nat
  ctx : Nat
  /-- The lane opcode, 0x60 to 0x63. -/
  opcode : Nat
  /-- The instruction's operation identity: an engine operation for MMA, a flight for the others. -/
  parent : Nat
  tile : Nat
  /-- The first tile's name index, for TRAPADDR. -/
  name : Nat
  ver : BitVec 8
  octet : Nat
  /-- Rows active at issue. -/
  rows : BitVec 8
  close : Bool
  nbv : BitVec 2
  /-- Physical first weight slot. -/
  slot : Nat
  pair : List Byte
  ascale : List Byte
  bscale : List Byte
  arows : List (List Byte)
  /-- The bytes of B, as the octet operation reads them when it starts. -/
  bbytes : List Byte
  /-- The first weight slot that it read with a parity error (R296). -/
  bad : Option Nat
  /-- Column slice of ACCRD and ACCWR, and the first register. -/
  slice : Nat
  reg : Nat
  gen : BitVec 12
  policy : Bool
  /-- WBLOADs that have named a slot of its B since it was issued (R299). -/
  loads : Nat
  /-- The operation for which its B tile was delivered: itself, or one that it fuses with (R299, R364). -/
  delivery : Option Nat
  started : Bool
  /-- The instruction's place, for a fault. -/
  pc : Word
deriving DecidableEq, Repr, Inhabited

/-- Where an engine operation stands (R138, R144). -/
inductive EngStage where
  | queued
  | ringWait
  | started
  /-- Stopped at its unit by a page fault, until a batch is passed (R231). -/
  | stopped (batch : Nat)
  /-- Stopped so, while its batch waits for room in the fault queue (R118). -/
  | owing (records : List (List Word))
  | complete
  | cancelled
deriving DecidableEq, Repr, Inhabited

/-- An engine operation of class COPY, GATHER or COLL, or an MMA (class MATRIX) counted until it retires (R143, R228). -/
structure EngOp where
  id : Nat
  ctx : Nat
  launch : Nat
  core : Nat
  slot : Nat
  /-- The block or task that holds the weight slots. -/
  holder : Nat
  cls : BitVec 2
  opcode : Nat
  /-- The descriptor copy and the index list (R124). -/
  desc : List Word
  idx : List Word
  /-- Source and destination coordinates, innermost first. -/
  src : List Int
  dst : List Int
  /-- Copies of the source and destination buffer records. -/
  srcRec : List Word
  dstRec : List Word
  nbv : BitVec 2
  /-- The allocations that the context may touch, as it issues: first key, bytes, generation (R228). -/
  gens : List (Nat × Nat × BitVec 12)
  stage : EngStage
  /-- 64 KiB units completed and places in the list of the current unit's destination blocks that have landed. -/
  unit : Nat
  landed : List Nat
  /-- Words of core-store and vault sources that the operation has read only part of: key and bytes (R229). -/
  words : List (Nat × List Byte)
  /-- A ring copy's slot (R153). -/
  ringSlot : Option Nat
  wslot : Nat
  pc : Word
deriving DecidableEq, Repr, Inhabited

/-- A core's own state (R13). -/
structure Core where
  genNext : BitVec 12
  /-- Values whose skim has begun and not finished (R104). -/
  skim : List (BitVec 12)
  rows : List Run
  tileRuns : List Run
  slotRuns : List Run
  /-- Rows released and awaiting tag rewrite (R62). -/
  rewriting : List Nat
  /-- A GROW that began to wait found the core in a deadlock (R365). -/
  growCheck : Bool
  lines : List Line
  tileState : Sparse Tile
  /-- Weight slots with a set valid bit. -/
  valid : List Nat
  ce : BitVec 16
  late : BitVec 16
  /-- The task deque, oldest first (R110), and the launch that holds the core. -/
  deque : List (List Word)
  grid : Option Nat
  ringPos : BitVec 12
  ringCount : BitVec 13
  /-- A popped frame that has not started (R360). -/
  popped : Option (List Word)
  /-- The steal latch: the frame and its victim (R115). -/
  latch : Option (List Word × Nat)
  retryAt : Option Nat
  matq : List MatOp
  slice : Word
deriving DecidableEq, Repr, Inhabited

/-- A share-table grant (R89). -/
structure Grant where
  grid : Nat
  block : Nat
  core : Nat
  first : Nat
  count : Nat
  gen : BitVec 12
deriving DecidableEq, Repr, Inhabited

/-- A barrier that is releasing its groups: the waves still to resume (R219). -/
structure Reel where
  waves : List (List Nat)
  nextAt : Nat
  gap : Nat
deriving DecidableEq, Repr, Inhabited

/-- A cluster's control unit (R15). -/
structure Cluster where
  limit : BitVec 16
  wave : BitVec 6
  gap : BitVec 8
  grants : List Grant
  reels : List Reel
  droops : Nat
  stretched : Bool
  /-- Nanoseconds passed on a stretched clock: a fifth of them is lost to the stretch (R18, R367). -/
  lag : Nat
  excluded : Bool
deriving DecidableEq, Repr, Inhabited

/-- A vault (R90, R99). -/
structure Vault where
  genNext : BitVec 12
  /-- Values whose skim has begun and not finished (R104). -/
  skim : List (BitVec 12)
  units : List Run
  /-- Cache share in MiB. -/
  share : Nat
deriving DecidableEq, Repr, Inhabited

/-- Who waits at a home to read and write a word there (R311): the scalar instruction of a context, a lane's access, an
RCOPY. -/
inductive Holder where
  | scalar (ctx : Nat) (pc : BitVec 24)
  | lane (ctx flight lane : Nat)
  | engine (op : Nat)
deriving DecidableEq, Repr, Inhabited

/-- A write waiting at its home (R311). -/
structure HomeWrite where
  id : Nat
  /-- The line it writes. -/
  line : Place
  bytes : Sparse Byte
  /-- The granules of the line, low and high, whose bytes are uncorrectable data written back (R92, R347). -/
  poison : BitVec 2
  /-- Who receives the completion time. -/
  ctx : Option Nat
  /-- The core that sent it, or its engine; none for a control core or a sequencer. -/
  core : Option Nat
  /-- The time T = max(arrival, horizon + 8). -/
  due : Nat
  system : Bool
  /-- A vault write: the generation it writes under (R101, R102). -/
  gen : Option (BitVec 12)
  /-- The engine operation that it is a landing of, and the bytes of the landing that it completes, else 0 (R151). -/
  op : Option (Nat × Nat)
  /-- The address space whose access it is, for R324. -/
  space : Option (BitVec 16)
  /-- Set where the entry holds the place of a read-modify-write that waits for T (R311); such an entry has no bytes. -/
  hold : Option Holder
  /-- It has reached its home; until then loads of other cores still read there (R311, R317). -/
  arrived : Bool
  /-- The peer answered retry; it is sent again at the resolution notice (R352). -/
  retry : Bool
deriving DecidableEq, Repr, Inhabited

/-- Where a launch stands (R135, R155, R353). -/
inductive LaunchStage where
  /-- Waits on its dependence counter. -/
  | depend
  /-- Waits for tokens or placement. -/
  | waiting
  | placed
  | preempted
  /-- Its completion record is still to be written: STATUS, FCODE, KNODE and FLAUNCH (R136, R341). -/
  | closing (status code node fault : Nat)
deriving DecidableEq, Repr, Inhabited

/-- An accepted launch (R135). -/
structure Launch where
  id : Nat
  addr : Nat
  /-- Address space of the queue that submitted it, and of the launch. -/
  qasid : BitVec 16
  queue : Nat
  words : List Word
  image : List Word
  stage : LaunchStage
  since : Nat
  /-- Effective region values sampled at placement (R52, R134). -/
  lease : Nat
  stale : Bool
  nbv : BitVec 2
  rawdbg : Bool
  /-- Cores of a task-mode grid, or those that hold its blocks. -/
  cores : List Nat
  /-- Vault, first unit, count and generation of each vault run. -/
  vruns : List (Nat × Nat × Nat × BitVec 12)
  tasks : Nat
  gridEnd : Bool
  /-- Tokens held, and whether the queue is in token mode (R355). -/
  tokens : Nat
  token : Bool
  /-- Order of acceptance, and of the last placement or pre-emption (R357). -/
  order : Nat
  moved : Nat
  /-- It has waited longer than its effective LATTOL (R357). -/
  late : Bool
deriving DecidableEq, Repr, Inhabited

/-- An accepted region control block and what is charged to it (R133, R134). -/
structure Node where
  addr : Nat
  /-- Address space of the queue that named it. -/
  asid : BitVec 16
  words : List Word
  usedCores : Nat
  usedVault : Nat
  usedHbm : Nat
  /-- HBM frames that the memory manager charges to the block itself (log entry 100). -/
  frames : Nat
  killed : Bool
  kcode : BitVec 8
  klaunch : Nat
  /-- Words that wait for the end of a change of its space: index and words (R324). -/
  owed : List (Nat × List Word)
deriving DecidableEq, Repr, Inhabited

/-- Saved granules of a run: the bytes by offset, the granules that its generation has written, and those of them that
bear uncorrectable data (R343). -/
structure SavedRun where
  bytes : Sparse Byte
  tags : List Nat
  bad : List Nat
deriving DecidableEq, Repr, Inhabited

/-- What a save keeps of one core's stores for a block or a task: table and scratchpad, tiles, weight slots (R343). -/
structure SavedStore where
  /-- The row run, and the tile and weight-slot runs, as they stood. -/
  rows : Option Run
  tileRun : Option Run
  slotRun : Option Run
  table : SavedRun
  scr : SavedRun
  tiles : List (Tile × SavedRun)
  slots : List (Bool × SavedRun)
deriving DecidableEq, Repr, Inhabited

/-- The deque, ring control and latch of a core of a pre-empted grid (R115). -/
structure SavedDeque where
  core : Nat
  table : SavedRun
  run : Option Run
  deque : List (List Word)
  ringPos : BitVec 12
  ringCount : BitVec 13
  popped : Option (List Word)
  latch : Option (List Word × Nat)
deriving DecidableEq, Repr, Inhabited

/-- What a compact or full save keeps of a group beside its registers and queues (R343). -/
structure Saved where
  ctx : Ctx
  /-- A full save: it holds everything and resumes in its wait. -/
  full : Bool
  regs : SavedRun
  regRun : Option Run
  /-- For a block one for each of its cores, in ascending order; for a task its own. -/
  stores : List SavedStore
  waits : List MatOp
  ops : List EngOp
deriving DecidableEq, Repr, Inhabited

/-- A pre-empted launch (R342): its contexts, deques and rank. -/
structure SavedLaunch where
  launch : Nat
  parts : List Saved
  deques : List SavedDeque
deriving DecidableEq, Repr, Inhabited

/-- What a request asks of a peer (R96, R182, R247, R310, R352). -/
inductive Ask where
  /-- A word of code. -/
  | fetch
  /-- BPF's line, to be pinned or not (R253). -/
  | prefetch (pin : Bool)
  /-- The bytes of a line or of an engine's source; a load's line enters the core's L1, another's only refreshes it. -/
  | read (fill : Bool)
  /-- Whether the page is there and may be so used, before any lane accesses (R247). -/
  | check (write : Bool)
  /-- Read-modify-writes of words of one line, in lane order: numeric version 1, the operator, and each lane with its offset,
  operand and comparand. -/
  | rmw (v1 : Bool) (op : Nat) (steps : List (Nat × Nat × Word × Word))
deriving DecidableEq, Repr, Inhabited

/-- A request of this device to a peer (R320, R352). -/
structure Request where
  id : Nat
  ctx : Nat
  /-- The flight it serves; none for the scalar stream, an engine operation, a check and a fetch. -/
  flight : Option Nat
  engine : Option Nat
  peer : BitVec 12
  addr : Nat
  size : Nat
  ask : Ask
  /-- The access that made it, in the TRAPPC layout (R82), and its lowest lane. -/
  pc : Word
  lane : Option Nat
  issued : Nat
  answer : Option (List Byte)
  /-- The address space and map generation of the access (R88, R324). -/
  space : BitVec 16
  mapgen : BitVec 16
  /-- Its line fetch counts in the access counters (R98). -/
  counted : Bool
  /-- The peer answered retry; it is sent again at the resolution notice (R352). -/
  retry : Bool
  /-- A check or a prefetch that the peer answered with failure. -/
  failed : Bool
deriving DecidableEq, Repr, Inhabited

/-- A peer's request that waits for its page here (R352): for its batch, or first for room for its record (R118). -/
structure Inbound where
  access : PeerAccess
  batch : Option Nat
deriving DecidableEq, Repr, Inhabited

/-- A producer whose batch waits for room in the fault queue (R118): the scalar or lane stream of a context, a step of one that
cannot be rolled back, an engine operation, a host queue, a peer's access. -/
inductive Waiter where
  | scalar (ctx : Nat)
  | lane (ctx : Nat)
  | held (ctx : Nat)
  | engine (op : Nat)
  | queue (qid : Nat)
  | inbound (access : PeerAccess)
deriving DecidableEq, Repr, Inhabited

/-- A fatal fault whose kill has not acted (R335, R341). -/
structure Kill where
  launch : Nat
  code : BitVec 8
deriving DecidableEq, Repr, Inhabited

/-- State of a host queue (R386). -/
inductive QueueState where
  | active
  | error
deriving DecidableEq, Repr, Inhabited

/-- A host command queue (R386, R387, R354, R120, R121). -/
structure HostQueue where
  qid : Nat
  /-- Host bus address of its descriptor. -/
  desc : Nat
  asid : BitVec 16
  log2n : Nat
  token : Bool
  ring : Nat
  region : Nat
  lattol : Nat
  rptr : BitVec 16
  wptr : BitVec 16
  state : QueueState
  asleep : Bool
  deadline : Option Nat
  /-- Doorbells with packets still pending: WPTR and device time, oldest first. -/
  bells : List (BitVec 16 × Nat)
  slot : Bool
  /-- Parked until a batch is passed. -/
  parked : Option Nat
  /-- Parked at this address, whose fault record waits for room (R118, R121). -/
  owing : Option Nat
deriving DecidableEq, Repr, Inhabited

/-- A Creug port (R390, R391). -/
structure Port where
  retrains : BitVec 8
  failed : BitVec 8
  state : BitVec 2
  half : Bool
  peer : BitVec 12
  /-- Send window and arbitration weight, in halves of their value at full width, and the cost in the routing tables, in units of
  the cost at full width (R391; log entry 122). -/
  window : Nat
  weight : Nat
  cost : Nat
deriving DecidableEq, Repr, Inhabited

/-- What the debug port answered last (R105): refused with zero data, a granule's tag and bytes, or a record (R123). -/
structure DebugData where
  refused : Bool
  tag : BitVec 12
  bytes : List Byte
deriving DecidableEq, Repr, Inhabited

/-- A churn that runs (R369): when it began, its last step, and the cores whose arrays toggle. -/
structure Churn where
  since : Nat
  stepped : Nat
  arrays : List Nat
deriving DecidableEq, Repr, Inhabited

/-- The marker in the boot flash (R397). -/
structure Marker where
  sealed : Bool
  missed : BitVec 4
  time : Nat
  nlaunch : Nat
  launches : List Nat
deriving DecidableEq, Repr, Inhabited

/-- The supply state (R396, R398, R400). -/
inductive Supply where
  | on
  /-- The sequence of R396 has completed this many of its steps: the marker to be sealed, and whether a thermal hold follows. -/
  | losing (step : Nat) (marker : Marker) (hold : Bool)
  /-- In retention; a thermal hold keeps it there. -/
  | retention (hold : Bool)
  /-- Both rails are down; nothing is left until a cold reset. -/
  | off
deriving DecidableEq, Repr, Inhabited

/-- The fuses of the boot (R393, R394): the digests of the keys in the four slots, which slots are revoked, the least security
version, and the secret of the attestation key. -/
structure Fuses where
  keys : List (BitVec 512)
  revoked : BitVec 4
  minVersion : BitVec 64
  secret : BitVec 512
deriving DecidableEq, Repr, Inhabited

/-- The device. -/
structure State where
  /-- Whose turn it is (log entry 1). -/
  turn : Turn
  /-- Steps taken, and free values drawn (log entries 1 and 2). -/
  steps : Nat
  freeCtr : Nat
  time0 : Nat
  time1 : Nat
  /-- Memory in canonical form: rising keys, no zero byte. -/
  mem : List Host.Cell
  /-- Tags of granules that are not 0. -/
  tags : Sparse (BitVec 12)
  /-- Granules with an uncorrectable error or HBM poison. -/
  poison : List Nat
  ctxs : List Ctx
  launches : List Launch
  nodes : List Node
  saved : List SavedLaunch
  cores : List Core
  clusters : List Cluster
  vaults : List Vault
  ops : List EngOp
  homeQ : List HomeWrite
  /-- Lease horizon of each line. -/
  horizons : Sparse Nat
  /-- HBM lines in the device cache: home vault, and whether dirty, by line. -/
  dcache : Sparse (Nat × Bool)
  requests : List Request
  inbound : List Inbound
  /-- Loads, and atomics at a peer, outstanding of groups that have gone: context, operation, core (R102). -/
  orphans : List (Nat × Nat × Nat)
  kills : List Kill
  /-- Launches whose dependence counter reached zero, and stray decrements. -/
  notes : List Nat
  /-- The next identity of a context, launch, operation, clause, request. -/
  nextId : Nat
  /-- Memory manager. -/
  astBase : Nat
  changing : List (BitVec 16)
  fqBase : Nat
  fqLog : Nat
  fqProduced : Nat
  fqConsumed : Nat
  fqSeq : Word
  /-- Records of each unserved batch, with the producer index after it. -/
  fqBatches : List (Nat × Nat)
  /-- The producers that wait for room, in the order in which their batches reached the queue. -/
  fqLine : List Waiter
  access : Sparse (BitVec 16 × Bool)
  /-- The device time at which the access counters are next halved. -/
  halveAt : Nat
  /-- Error handler. -/
  errors : List (List Word)
  errOverflow : BitVec 16
  /-- Host port. -/
  stage : BitVec 8
  stfail : Bool
  retained : Bool
  lost : Bool
  selftest : Option (BitVec 4 × Nat)
  /-- A self-test that a supply loss has abandoned, whose record is still to be written: its parts, the record's address, and the
  device time at its end (R395, R396). -/
  abandoned : Option (BitVec 4 × Nat × Nat)
  ready : Bool
  vectors : BitVec 6
  queues : List HostQueue
  ports : List Port
  cap : Nat
  /-- Firmware and power. -/
  mailboxes : List (Nat × List (List Word))
  measurements : List (BitVec 512)
  fuses : Fuses
  /-- The attestation key, once the first stage has derived it (R394). -/
  attestKey : Option (BitVec 512)
  /-- The tenants that the security core's policy lets the host debug through BAR0 (R399). -/
  hostDebug : List Nat
  tokSize : BitVec 8
  fall : BitVec 16
  /-- The running churn; telemetry of those that ended: start, duration, energy (R369). -/
  churn : Option Churn
  churns : List (Nat × Nat × Word)
  /-- Telemetry: the junction temperature that each die last reported (R400). -/
  junction0 : Nat
  junction1 : Nat
  supply : Supply
  holdRelease : Bool
  marker : Marker
  /-- The debug port's last answer (R105), the value of the host's last read of BAR0 (R384), and the records that GET_MEASUREMENTS
  last returned, with their signature (R394). -/
  debugOut : Option DebugData
  hostOut : Option Word
  spdmOut : List (BitVec 512)
  spdmSig : Option (BitVec 512)
  /-- Telemetry: allocations found waiting for a generation value (R104; log entry 101). -/
  skimStalls : Nat
deriving DecidableEq, Repr, Inhabited

/-- A core after reset (R158, R366). -/
def Core.reset : Core where
  genNext := 1
  skim := []
  rows := []
  tileRuns := []
  slotRuns := []
  rewriting := []
  growCheck := false
  lines := []
  tileState := []
  valid := []
  ce := 0
  late := 0
  deque := []
  grid := none
  ringPos := 0
  ringCount := 0
  popped := none
  latch := none
  retryAt := none
  matq := []
  slice := 0x00088888

/-- A cluster after reset (R79). -/
def Cluster.reset : Cluster where
  limit := 0xFFFF
  wave := 63
  gap := 0
  grants := []
  reels := []
  droops := 0
  stretched := false
  lag := 0
  excluded := false

/-- A vault after reset (R158; log entry 10 for the share). -/
def Vault.reset : Vault where
  genNext := 1
  skim := []
  units := []
  share := 0

/-- A Creug port after reset (R390). -/
def Port.reset : Port where
  retrains := 0
  failed := 0
  state := 0
  half := false
  peer := 0
  window := 2
  weight := 2
  cost := 1

/-- The device after a cold reset, before the boot ROM has run. The first turn is the boot (log entry 1). -/
def State.reset : State where
  turn := .event (.boot ⟨none, none, [], 0, 0⟩)
  steps := 0
  freeCtr := 0
  time0 := 0
  time1 := 0
  mem := []
  tags := []
  poison := []
  ctxs := []
  launches := []
  nodes := []
  saved := []
  cores := List.replicate 192 Core.reset
  clusters := List.replicate 48 Cluster.reset
  vaults := List.replicate 48 Vault.reset
  ops := []
  homeQ := []
  horizons := []
  dcache := []
  requests := []
  inbound := []
  orphans := []
  kills := []
  notes := []
  nextId := 0
  astBase := 0
  changing := []
  fqBase := 0
  fqLog := 8
  fqProduced := 0
  fqConsumed := 0
  fqSeq := 1
  fqBatches := []
  fqLine := []
  access := []
  halveAt := 1024000
  errors := []
  errOverflow := 0
  stage := 0
  stfail := false
  retained := false
  lost := false
  selftest := none
  abandoned := none
  ready := false
  vectors := 0
  queues := []
  ports := List.replicate 18 Port.reset
  cap := 1800
  mailboxes := []
  measurements := []
  fuses := ⟨List.replicate 4 0, 0, 0, 0⟩
  attestKey := none
  hostDebug := []
  tokSize := 192
  fall := 0xFFFF
  churn := none
  churns := []
  junction0 := 0
  junction1 := 0
  supply := .on
  holdRelease := false
  marker := ⟨false, 0, 0, 0, []⟩
  debugOut := none
  hostOut := none
  spdmOut := []
  spdmSig := none
  skimStalls := 0

end Sys2Proof.Machine
end

