-- ==== Sys2Proof/Decode.lean ====
section
/-! DEFINITION. The decoder of control words and lane words, total and rejecting by name, and after it the encoder, both
from the encoding tables of R159 to R169, R184, R190 and R191. A refusal of the decoder is the architectural fault ILLEGAL. -/

namespace Sys2Proof

/-- Why a word is no instruction (R160, R166, R188, R191). -/
inductive DecodeError where
  /-- An opcode that the map does not list (R188, R191). -/
  | opcode
  /-- A nonzero unused field (R160). -/
  | unusedField
  /-- A field value outside its table range (R184, R190). -/
  | fieldRange
  /-- A run of scalars past s255 (R57). -/
  | run
  /-- A scope code of 6 or 7 (R25). -/
  | scopeCode
  /-- A system register number that no register has (R69). -/
  | sysReg
deriving DecidableEq, Repr

/-- The system register numbers (R69, R72 to R82). -/
def sysRegs : List Nat :=
  [0x001, 0x002, 0x003, 0x004, 0x005, 0x006, 0x007, 0x008, 0x009, 0x00A, 0x00B, 0x00C, 0x00D, 0x00E, 0x00F, 0x010, 0x011,
   0x012, 0x013, 0x014, 0x020, 0x021, 0x022, 0x023, 0x024, 0x025, 0x030, 0x040, 0x041, 0x042]

/-- The instruction where the check holds, else the refusal. -/
def decodeNeed (c : Bool) (e : DecodeError) (r : Except DecodeError Instr) : Except DecodeError Instr :=
  if c then r else .error e

/-- The opcode field of a control word (R159). -/
def ctrlOpcode (w : Word) : Nat := (w.extractLsb' 24 7).toNat

/-- The safe-point bit of a control word (R159). -/
def ctrlS (w : Word) : Bool := w.getLsbD 31

/-- MOVL, SATOM, TRYW, JOINC and SIGCHK have a literal word (R161). -/
def ctrlHasLiteral (w : Word) : Bool := [0x22, 0x28, 0x53, 0x59, 0x73].contains (ctrlOpcode w)

/-- How many words an instruction takes (R161). -/
def ctrlLength (w : Word) : Nat := 1 + (ctrlHasLiteral w).toNat + (ctrlS w).toNat

/-- Which opcodes are CB, whose scope field must not hold 6 or 7 (R184, R189). -/
def ctrlIsBranch (op : Nat) : Bool := 0x30 ≤ op && op ≤ 0x3B

/-- The instruction of a control word whose scope code has been checked. `lit` is the literal word, which is not read
where the instruction has none, and `sp` the live-mask word when S = 1. -/
def decodeCtrlFields (w lit : Word) (sp : Option Word) : Except DecodeError Instr :=
  let need := decodeNeed
  let d : Reg := w.extractLsb' 16 8
  let a : Reg := w.extractLsb' 8 8
  let b : Reg := w.extractLsb' 0 8
  let m : BitVec 16 := w.extractLsb' 0 16
  let sc : BitVec 3 := w.extractLsb' 21 3
  let a13 : Reg := w.extractLsb' 13 8
  let off : BitVec 13 := w.extractLsb' 0 13
  match ctrlOpcode w with
  | 0x01 => .ok (.add sp d a b)
  | 0x02 => .ok (.sub sp d a b)
  | 0x03 => .ok (.mul sp d a b)
  | 0x04 => .ok (.mulh sp d a b)
  | 0x05 => .ok (.mulhu sp d a b)
  | 0x06 => .ok (.andr sp d a b)
  | 0x07 => .ok (.orr sp d a b)
  | 0x08 => .ok (.xorr sp d a b)
  | 0x09 => .ok (.shl sp d a b)
  | 0x0A => .ok (.shr sp d a b)
  | 0x0B => .ok (.sar sp d a b)
  | 0x0C => .ok (.minr sp d a b)
  | 0x0D => .ok (.maxr sp d a b)
  | 0x0E => .ok (.minu sp d a b)
  | 0x0F => .ok (.maxu sp d a b)
  | 0x10 => .ok (.slt sp d a b)
  | 0x11 => .ok (.sltu sp d a b)
  | 0x12 => .ok (.seq sp d a b)
  | 0x13 => need (b == 0) .unusedField (.ok (.clz sp d a))
  | 0x14 => need (b == 0) .unusedField (.ok (.popc sp d a))
  | 0x15 => .ok (.divu sp d a b)
  | 0x16 => .ok (.remu sp d a b)
  | 0x17 => .ok (.bfx sp d a b)
  | 0x18 => .ok (.addi sp d a b)
  | 0x19 => .ok (.andi sp d a b)
  | 0x1A => .ok (.ori sp d a b)
  | 0x1B => .ok (.xori sp d a b)
  | 0x1C => need (b.toNat < 32) .fieldRange (.ok (.shli sp d a (b.setWidth 5)))
  | 0x1D => need (b.toNat < 32) .fieldRange (.ok (.shri sp d a (b.setWidth 5)))
  | 0x1E => need (b.toNat < 32) .fieldRange (.ok (.sari sp d a (b.setWidth 5)))
  | 0x1F => .ok (.slti sp d a b)
  | 0x20 => .ok (.movi sp d m)
  | 0x21 => .ok (.movhi sp d m)
  | 0x22 => need (m == 0) .unusedField (.ok (.movl sp d lit))
  | 0x23 => .ok (.addiw sp d m)
  | 0x24 => .ok (.lds sp d a b)
  | 0x25 => .ok (.sts sp d a b)
  | 0x26 => need (b.getLsbD 7 == false) .fieldRange (.ok (.sbld sp d a (b.setWidth 7)))
  | 0x27 => need (b.getLsbD 7 == false) .fieldRange (.ok (.sbst sp d a (b.setWidth 7)))
  | 0x28 => need (b.getLsbD 7 == false) .fieldRange (.ok (.satom sp d a (b.setWidth 7) lit))
  | 0x29 => need (d == 0) .unusedField (.ok (.grow sp m))
  | 0x30 => need (a13 == 0) .unusedField (.ok (.br sp sc off))
  | 0x31 => .ok (.bz sp sc a13 off)
  | 0x32 => .ok (.bnz sp sc a13 off)
  | 0x33 => .ok (.bltz sp sc a13 off)
  | 0x34 => .ok (.bgez sp sc a13 off)
  | 0x35 => need (a13.toNat < 8) .fieldRange (.ok (.buni sp sc (a13.setWidth 3) off))
  | 0x36 => need (a13 == 0) .unusedField (.ok (.call sp sc off))
  | 0x37 => need (a13 == 0 && off == 0) .unusedField (.ok (.ret sp sc))
  | 0x38 => if off.getLsbD 12 then .error .fieldRange
    else if off != 0 then .ok (.loop sp sc a13 (off.setWidth 12))
    else if a13 == 0 then .ok (.loopNext sp sc)
    else need (a13 == 1) .fieldRange (.ok (.loopLeave sp sc))
  | 0x39 => need (a13 == 0 && off == 0) .unusedField (.ok (.endc sp sc))
  | 0x3A => need (a13.toNat < 8) .fieldRange (.ok (.brl sp sc (a13.setWidth 3) off))
  | 0x3B => need (a13 == 0) .unusedField (.ok (.meet sp sc off))
  | 0x40 => need (d.toNat ≤ 252) .run (.ok (.lane sp d m))
  | 0x41 => need (d == 0 && a == 0 && b == 0) .unusedField (.ok (.lsync sp))
  | 0x42 => need (b == 0 && a.toNat < 8) .fieldRange (need (d.toNat ≤ 254) .run (.ok (.ptos sp d (a.setWidth 3))))
  | 0x43 => if a.toNat ≥ 0xF0 then .error .fieldRange
    else if b.extractLsb' 6 2 == 0 then .ok (.vtos sp d a (b.setWidth 6))
    else if b.extractLsb' 6 2 == 1 then need (d.toNat ≤ 254) .run (.ok (.vtosPair sp d a (b.setWidth 6)))
    else need (b == 0x80) .fieldRange (.ok (.vtosFirst sp d a))
  | 0x44 => need (a == 0 && b == 0) .unusedField (need (d.toNat ≤ 254) .run (.ok (.exmr sp d)))
  | 0x45 => need (d == 0 && b == 0) .unusedField (need (a.toNat ≤ 254) .run (.ok (.exmw sp a)))
  | 0x48 => need (d.toNat ≤ 252) .run (.ok (.down sp d m))
  | 0x49 => need (d == 0 && a == 0 && b == 0) .unusedField (.ok (.segend sp))
  | 0x4A => need (d == 0) .unusedField (need (b.toNat < 8) .fieldRange (.ok (.up sp a (b.setWidth 3))))
  | 0x4B => need (a == 0) .unusedField (need (b.toNat < 8) .fieldRange (.ok (.gather sp d (b.setWidth 3))))
  | 0x4C => need (d == 0 && a == 0) .unusedField (need (b.toNat < 16) .fieldRange (.ok (.bar sp (b.setWidth 4))))
  | 0x4D => need (d == 0 && a == 0) .unusedField (need (b.toNat < 4) .fieldRange (.ok (.barc sp (b.setWidth 2))))
  | 0x50 => need (d == 0 && m.toNat < 4096) .unusedField (.ok (.waitf sp (m.setWidth 12)))
  | 0x51 => need (d == 0 && a == 0) .unusedField (.ok (.waite sp (b.extractLsb' 6 2) (b.setWidth 6)))
  | 0x52 => .ok (.waita sp d a b)
  | 0x53 => need (b.getLsbD 7 == false) .fieldRange (.ok (.tryw sp d a (b.setWidth 7) lit))
  | 0x54 => need (d == 0 && a == 0 && b.toNat < 32) .unusedField (need (b.extractLsb' 3 2 != 3 && (b.setWidth 3).toNat < 6) .fieldRange (.ok (.fence sp (b.extractLsb' 3 2) (b.setWidth 3))))
  | 0x58 => need (a == 0 && b == 0) .unusedField (need (d.toNat ≤ 240) .run (.ok (.spawn sp d)))
  | 0x59 => need (d.toNat ≤ 240) .run (.ok (.joinc sp d a b lit))
  | 0x60 => .ok (.tcopy sp d a b)
  | 0x61 => .ok (.gcopy sp d a b)
  | 0x62 => .ok (.wbload sp d a b)
  | 0x63 => .ok (.rcopy sp d a b)
  | 0x70 => need (sysRegs.contains m.toNat) .sysReg (.ok (.getsr sp d m))
  | 0x71 => need (sysRegs.contains m.toNat) .sysReg (.ok (.setsr sp d m))
  | 0x72 => need (d == 0) .unusedField (.ok (.trap sp m))
  | 0x73 => need (d == 0 && m == 0) .unusedField (.ok (.sigchk sp lit))
  | 0x74 => need (d == 0) .unusedField (.ok (.brk sp m))
  | 0x75 => need (d == 0 && m == 0) .unusedField (.ok (.nop sp))
  | _ => .error .opcode

/-- The instruction of a control word (R159 to R164, R184, R188). -/
def decodeCtrl (w lit live : Word) : Except DecodeError Instr :=
  if ctrlIsBranch (ctrlOpcode w) && 6 ≤ (w.extractLsb' 21 3).toNat then .error .scopeCode
  else decodeCtrlFields w lit (if ctrlS w then some live else none)

/-- The instruction at the head of a list of control words, with its length; a word that is not there reads as 0. -/
def decodeCtrlWords : List Word → Except DecodeError (Instr × Nat)
  | [] => .error .opcode
  | w :: rest =>
    let lit := rest.headD 0
    let live := (if ctrlHasLiteral w then rest.tailD [] else rest).headD 0
    (decodeCtrl w lit live).map (fun i => (i, ctrlLength w))

/-! Lane words -/

/-- What a lane word's register field may hold (R166, R190). -/
inductive LaneField where
  /-- Unused: zero. -/
  | none
  /-- Any source code of R166. -/
  | src
  /-- A vector register. -/
  | vec
  /-- A predicate number. -/
  | pred
  /-- A buffer record number. -/
  | rcd
  /-- A clause argument k0 to k3. -/
  | karg
  /-- A clause argument or zero (R256). -/
  | kzero
  /-- A plain value. -/
  | any
deriving DecidableEq, Repr

/-- What w2 holds (R165, R191): an operand read through code 0xF6, or something else. -/
inductive LaneImm where
  | operand
  | other
deriving DecidableEq, Repr

/-- One row of the lane opcode table (R190). -/
structure LaneRow where
  d : LaneField
  a : LaneField
  b : LaneField
  c : LaneField
  types : List Nat
  mods : List Nat
  imm : LaneImm
deriving DecidableEq, Repr

/-- The lane opcode table (R190). -/
def laneRow : Nat → Option LaneRow
  | 0x01 => some ⟨.vec, .src, .src, .none, [0, 1, 5, 6], [0], .operand⟩ -- VADD
  | 0x02 => some ⟨.vec, .src, .src, .none, [0, 1, 5, 6], [0], .operand⟩ -- VSUB
  | 0x03 => some ⟨.vec, .src, .src, .none, [0], [0], .operand⟩ -- VMUL
  | 0x04 => some ⟨.vec, .src, .src, .none, [0], [0], .operand⟩ -- VMULH
  | 0x05 => some ⟨.vec, .src, .src, .none, [0], [0], .operand⟩ -- VMULHU
  | 0x06 => some ⟨.vec, .src, .src, .src, [0], [0], .operand⟩ -- VMAD
  | 0x07 => some ⟨.vec, .src, .src, .none, [0], [0], .operand⟩ -- VAND
  | 0x08 => some ⟨.vec, .src, .src, .none, [0], [0], .operand⟩ -- VOR
  | 0x09 => some ⟨.vec, .src, .src, .none, [0], [0], .operand⟩ -- VXOR
  | 0x0A => some ⟨.vec, .src, .src, .none, [0], [0], .operand⟩ -- VSHL
  | 0x0B => some ⟨.vec, .src, .src, .none, [0], [0], .operand⟩ -- VSHR
  | 0x0C => some ⟨.vec, .src, .src, .none, [0], [0], .operand⟩ -- VSAR
  | 0x0D => some ⟨.vec, .src, .src, .none, [0, 5, 6], [0], .operand⟩ -- VMIN
  | 0x0E => some ⟨.vec, .src, .src, .none, [0, 5, 6], [0], .operand⟩ -- VMAX
  | 0x0F => some ⟨.vec, .src, .src, .none, [0, 5, 6], [0], .operand⟩ -- VMINU
  | 0x10 => some ⟨.vec, .src, .src, .none, [0, 5, 6], [0], .operand⟩ -- VMAXU
  | 0x11 => some ⟨.vec, .src, .none, .none, [0, 5, 6], [0], .operand⟩ -- VABS
  | 0x12 => some ⟨.vec, .src, .none, .none, [0], [0], .operand⟩ -- VCLZ
  | 0x13 => some ⟨.vec, .src, .none, .none, [0], [0], .operand⟩ -- VPOPC
  | 0x14 => some ⟨.vec, .src, .src, .none, [0], [0], .operand⟩ -- VBFX
  | 0x15 => some ⟨.vec, .src, .src, .src, [0], [0], .operand⟩ -- VBFI
  | 0x16 => some ⟨.vec, .src, .src, .pred, [0], [0], .operand⟩ -- VSEL
  | 0x17 => some ⟨.vec, .src, .none, .none, [0], [0], .operand⟩ -- VMOV
  | 0x18 => some ⟨.pred, .src, .src, .none, [0, 1], [0, 1, 2, 3, 4, 5], .operand⟩ -- VCMP
  | 0x19 => some ⟨.vec, .src, .src, .none, [0, 1, 5, 6], [0], .operand⟩ -- VADDS
  | 0x1A => some ⟨.pred, .pred, .pred, .pred, [0], [0, 1, 2, 3, 4, 5], .operand⟩ -- PLOG
  | 0x20 => some ⟨.vec, .src, .src, .none, [2], [0, 1, 2, 3, 4], .operand⟩ -- FADD
  | 0x21 => some ⟨.vec, .src, .src, .none, [2], [0, 1, 2, 3, 4], .operand⟩ -- FSUB
  | 0x22 => some ⟨.vec, .src, .src, .none, [2], [0, 1, 2, 3, 4], .operand⟩ -- FMUL
  | 0x23 => some ⟨.vec, .src, .src, .src, [2], [0, 1, 2, 3, 4], .operand⟩ -- FFMA
  | 0x24 => some ⟨.vec, .src, .src, .none, [2], [0], .operand⟩ -- FMIN
  | 0x25 => some ⟨.vec, .src, .src, .none, [2], [0], .operand⟩ -- FMAX
  | 0x26 => some ⟨.vec, .src, .src, .none, [2], [0, 1, 2, 3, 4, 5, 6, 7], .operand⟩ -- FCMP
  | 0x27 => some ⟨.vec, .src, .none, .none, [2], [0], .operand⟩ -- FRCP
  | 0x28 => some ⟨.vec, .src, .none, .none, [2], [0], .operand⟩ -- FRSQ
  | 0x29 => some ⟨.vec, .src, .none, .none, [2], [0], .operand⟩ -- FSQRT
  | 0x2A => some ⟨.vec, .src, .none, .none, [2], [0], .operand⟩ -- FEXP
  | 0x2B => some ⟨.vec, .src, .none, .none, [2], [0], .operand⟩ -- FLOG
  | 0x2E => some ⟨.vec, .src, .none, .none, [2], [0, 1, 2, 3, 4], .operand⟩ -- FRINT
  | 0x2F => some ⟨.vec, .src, .src, .none, [2], [0, 1, 2, 3, 4], .operand⟩ -- FLDEXP
  | 0x30 => some ⟨.vec, .src, .none, .none, [2], [0], .operand⟩ -- FEXPX
  | 0x31 => some ⟨.vec, .src, .none, .none, [2], [0], .operand⟩ -- FCLASS
  | 0x32 => some ⟨.vec, .src, .src, .none, [3, 4], [0, 1, 2, 3, 4], .operand⟩ -- HADD2
  | 0x33 => some ⟨.vec, .src, .src, .none, [3, 4], [0, 1, 2, 3, 4], .operand⟩ -- HMUL2
  | 0x34 => some ⟨.vec, .src, .src, .src, [3, 4], [0, 1, 2, 3, 4], .operand⟩ -- HFMA2
  | 0x38 => some ⟨.vec, .src, .src, .none, [0, 1, 2, 3, 4, 5, 6, 7, 8, 9], [0, 1, 2, 3, 4], .operand⟩ -- CVT
  | 0x39 => some ⟨.vec, .src, .src, .karg, [7, 8, 9], [0, 1, 2, 3, 4], .operand⟩ -- QUANT
  | 0x3A => some ⟨.vec, .src, .src, .none, [3, 4, 5, 6, 7, 8, 9, 10], [0, 1, 2, 3], .operand⟩ -- PACKB
  | 0x3B => some ⟨.vec, .src, .none, .none, [3, 4, 5, 6, 7, 8, 9, 10], [0, 1, 2, 3], .operand⟩ -- UNPKB
  | 0x40 => some ⟨.vec, .vec, .src, .pred, [0], [0], .operand⟩ -- SHFL
  | 0x41 => some ⟨.vec, .vec, .src, .pred, [0], [0], .operand⟩ -- SHFLX
  | 0x42 => some ⟨.vec, .src, .none, .none, [0], [0, 1, 2, 3, 4], .operand⟩ -- VOTE
  | 0x43 => some ⟨.vec, .src, .none, .none, [0, 1, 2], [0, 1, 2, 3, 4, 5, 6, 7, 10], .operand⟩ -- REDUX
  | 0x44 => some ⟨.vec, .src, .none, .none, [0, 1, 2], [0, 1, 2, 3, 4, 5, 6, 7, 10], .operand⟩ -- SCAN
  | 0x50 => some ⟨.vec, .src, .none, .rcd, [0], [0, 1, 2, 3, 4], .operand⟩ -- BLD
  | 0x51 => some ⟨.vec, .src, .none, .rcd, [0], [0, 1, 2, 3, 4], .operand⟩ -- BST
  | 0x52 => some ⟨.vec, .src, .src, .rcd, [0, 1, 2], [0, 1, 2, 3, 4, 5, 6, 7, 8, 9, 10], .operand⟩ -- BATOM
  | 0x53 => some ⟨.none, .src, .none, .rcd, [0], [0, 1, 2, 3, 4], .operand⟩ -- BPF
  | 0x54 => some ⟨.vec, .src, .none, .none, [0], [0, 1, 2, 3, 4], .other⟩ -- LLD
  | 0x55 => some ⟨.vec, .src, .none, .none, [0], [0, 1, 2, 3, 4], .other⟩ -- LST
  | 0x56 => some ⟨.vec, .src, .src, .none, [0, 1, 2], [0, 1, 2, 3, 4, 5, 6, 7, 8, 9, 10], .other⟩ -- LATOM
  | 0x57 => some ⟨.vec, .src, .none, .none, [0], [0, 1, 2, 3, 4], .other⟩ -- PLD
  | 0x58 => some ⟨.vec, .src, .none, .none, [0], [0, 1, 2, 3, 4], .other⟩ -- PST
  | 0x59 => some ⟨.vec, .kzero, .none, .none, [0], [0, 1, 2, 3, 4], .other⟩ -- VLD
  | 0x5A => some ⟨.vec, .kzero, .none, .none, [0], [0, 1, 2, 3, 4], .other⟩ -- VST
  | 0x60 => some ⟨.any, .vec, .none, .none, [0], [0, 1], .other⟩ -- MMA
  | 0x61 => some ⟨.vec, .any, .none, .none, [0], [0], .other⟩ -- ACCRD
  | 0x62 => some ⟨.any, .vec, .none, .none, [0], [0], .other⟩ -- ACCWR
  | 0x63 => some ⟨.any, .none, .none, .none, [0], [0], .other⟩ -- ACCZ
  | 0x70 => some ⟨.none, .none, .none, .none, [0], [0], .operand⟩ -- LNOP
  | _ => none

/-- The register field holds what the row allows (R166). -/
def laneFieldOk (k : LaneField) (imm : LaneImm) (v : Reg) : Bool :=
  match k with
  | .none => v == 0
  | .src => v.toNat ≤ 0xF5 || (v == 0xF6 && imm == .operand)
  | .vec => v.toNat ≤ 0xEF
  | .pred => v.toNat < 8
  | .rcd => v.toNat < 128
  | .karg => 0xF0 ≤ v.toNat && v.toNat ≤ 0xF3
  | .kzero => (0xF0 ≤ v.toNat && v.toNat ≤ 0xF3) || v == 0xF5
  | .any => true

/-- Some source field of the row names imm32, code 0xF6. -/
def laneUsesImm (r : LaneRow) (f : LaneForm) : Bool :=
  (r.a == .src && f.a == 0xF6) || (r.b == .src && f.b == 0xF6) || (r.c == .src && f.c == 0xF6)

/-- Registers that a load or store of width code `m` names (R245). -/
def widthRegs (m : Nat) : Nat := if m = 3 then 2 else if m = 4 then 4 else 1

/-- The operator and type of an atomic are a pair that R257 accepts. -/
def atomTypeOk (op ty : Nat) : Bool :=
  if ty = 2 then op = 8 || op = 9 || op = 10
  else op ≠ 10 && op ≤ 9 && (ty = 0 || (ty = 1 && op ≠ 1 && op ≠ 2))

/-- The operator and type of REDUX and SCAN are a pair of R244. -/
def reduxTypeOk (op ty : Nat) : Bool :=
  if op = 10 then ty = 2
  else if op = 1 || op = 2 then ty = 0
  else op ≤ 7 && (ty = 0 || ty = 1)

/-- The scope and order codes that a memory opcode accepts (R246). -/
def laneMemOk (op scope order : Nat) : Bool :=
  match op with
  | 0x50 => scope ≤ 5 && order ≤ 1
  | 0x51 => scope ≤ 5 && (order = 0 || order = 2)
  | 0x52 => scope = 4 || scope = 5
  | 0x53 => scope = 0 && order = 0
  | 0x54 | 0x57 | 0x59 => scope ≤ 3 && order ≤ 1
  | 0x55 | 0x58 | 0x5A => scope ≤ 3 && (order = 0 || order = 2)
  | 0x56 => scope ≤ 3
  | _ => scope = 0 && order = 0

/-- The use of sub bits 4:0 (R245, R244, R253, R288), and the row's own limits. -/
def laneExtraOk (op : Nat) (f : LaneForm) : Bool :=
  let sub := (f.sub.extractLsb' 0 5).toNat
  let sx := 0x10 ≤ sub
  let low := sub % 16
  let ty := f.ty.toNat
  let md := f.mod.toNat
  match op with
  | 0x1A => sub = 0 && (4 ≤ md || f.c == 0)
  | 0x38 =>
    let narrow := [3, 4, 7, 8, 9].contains ty
    low ≤ 10 && (low ≠ 10 || ty = 2) && (narrow || (f.b == 0 && !sx)) && (!sx || (0xF0 ≤ f.b.toNat && f.b.toNat ≤ 0xF3))
  | 0x3A | 0x3B => sub = 0 && (if ty ≤ 5 then md ≤ 1 else md ≤ 3)
  | 0x42 => sub = 0 && (md ≠ 2 || f.d.toNat ≤ 0xEE)
  | 0x43 => sub = 0 && reduxTypeOk md ty
  | 0x44 => sub ≤ 1 && reduxTypeOk md ty
  | 0x50 => low = 0 && (!sx || md ≤ 1) && f.d.toNat + widthRegs md ≤ 0xF0
  | 0x51 => sub = 0 && f.d.toNat + widthRegs md ≤ 0xF0
  | 0x52 => sub = 0 && atomTypeOk md ty && (md ≠ 9 || f.b.toNat ≤ 0xEE)
  | 0x53 => sub ≤ 1
  | 0x54 | 0x59 => low ≤ 2 && (!sx || md ≤ 1) && f.d.toNat + widthRegs md ≤ 0xF0
  | 0x55 | 0x5A => sub ≤ 2 && f.d.toNat + widthRegs md ≤ 0xF0
  | 0x56 => sub ≤ 2 && atomTypeOk md ty && (md ≠ 9 || f.b.toNat ≤ 0xEE)
  | 0x57 => (low % 4 = 0 || low % 4 = 2) && (!sx || md ≤ 1) && f.d.toNat + widthRegs md ≤ 0xF0
  | 0x58 => !sx && (low % 4 = 0 || low % 4 = 2) && f.d.toNat + widthRegs md ≤ 0xF0
  | 0x61 => sub = 0 && f.d.toNat ≤ 0xE0 && f.imm.extractLsb' 2 22 == 0
  | 0x62 => sub = 0 && f.a.toNat ≤ 0xE0 && f.imm.extractLsb' 2 22 == 0
  | 0x63 => sub = 0 && f.imm.extractLsb' 8 16 == 0
  | _ => sub = 0

/-- A lane word of opcode `op` with these fields is an instruction (R166, R190, R191). -/
def laneOk (op : Nat) (f : LaneForm) : Bool :=
  match laneRow op with
  | none => false
  | some r =>
    laneFieldOk r.d r.imm f.d && laneFieldOk r.a r.imm f.a && laneFieldOk r.b r.imm f.b && laneFieldOk r.c r.imm f.c &&
    r.types.contains f.ty.toNat && r.mods.contains f.mod.toNat && (f.guard != 0 || !f.neg) && f.flag != 3 &&
    (r.imm == .other || laneUsesImm r f || f.imm == 0) &&
    laneMemOk op f.scope.toNat (f.sub.extractLsb' 5 2).toNat && laneExtraOk op f

/-- The constructor of a lane opcode (R190). -/
def laneInstr (op : Nat) (f : LaneForm) : Option Instr :=
  match op with
  | 0x01 => some (.vadd f)
  | 0x02 => some (.vsub f)
  | 0x03 => some (.vmul f)
  | 0x04 => some (.vmulh f)
  | 0x05 => some (.vmulhu f)
  | 0x06 => some (.vmad f)
  | 0x07 => some (.vand f)
  | 0x08 => some (.vor f)
  | 0x09 => some (.vxor f)
  | 0x0A => some (.vshl f)
  | 0x0B => some (.vshr f)
  | 0x0C => some (.vsar f)
  | 0x0D => some (.vmin f)
  | 0x0E => some (.vmax f)
  | 0x0F => some (.vminu f)
  | 0x10 => some (.vmaxu f)
  | 0x11 => some (.vabs f)
  | 0x12 => some (.vclz f)
  | 0x13 => some (.vpopc f)
  | 0x14 => some (.vbfx f)
  | 0x15 => some (.vbfi f)
  | 0x16 => some (.vsel f)
  | 0x17 => some (.vmov f)
  | 0x18 => some (.vcmp f)
  | 0x19 => some (.vadds f)
  | 0x1A => some (.plog f)
  | 0x20 => some (.fadd f)
  | 0x21 => some (.fsub f)
  | 0x22 => some (.fmul f)
  | 0x23 => some (.ffma f)
  | 0x24 => some (.fmin f)
  | 0x25 => some (.fmax f)
  | 0x26 => some (.fcmp f)
  | 0x27 => some (.frcp f)
  | 0x28 => some (.frsq f)
  | 0x29 => some (.fsqrt f)
  | 0x2A => some (.fexp f)
  | 0x2B => some (.flog f)
  | 0x2E => some (.frint f)
  | 0x2F => some (.fldexp f)
  | 0x30 => some (.fexpx f)
  | 0x31 => some (.fclass f)
  | 0x32 => some (.hadd2 f)
  | 0x33 => some (.hmul2 f)
  | 0x34 => some (.hfma2 f)
  | 0x38 => some (.cvt f)
  | 0x39 => some (.quant f)
  | 0x3A => some (.packb f)
  | 0x3B => some (.unpkb f)
  | 0x40 => some (.shfl f)
  | 0x41 => some (.shflx f)
  | 0x42 => some (.vote f)
  | 0x43 => some (.redux f)
  | 0x44 => some (.scan f)
  | 0x50 => some (.bld f)
  | 0x51 => some (.bst f)
  | 0x52 => some (.batom f)
  | 0x53 => some (.bpf f)
  | 0x54 => some (.lld f)
  | 0x55 => some (.lst f)
  | 0x56 => some (.latom f)
  | 0x57 => some (.pld f)
  | 0x58 => some (.pst f)
  | 0x59 => some (.vld f)
  | 0x5A => some (.vst f)
  | 0x60 => some (.mma f)
  | 0x61 => some (.accrd f)
  | 0x62 => some (.accwr f)
  | 0x63 => some (.accz f)
  | 0x70 => some (.lnop f)
  | _ => none

/-- The fields of a lane word (R165). -/
def laneFields (w0 w1 w2 : Word) : LaneForm where
  d := w0.extractLsb' 16 8
  a := w0.extractLsb' 8 8
  b := w0.extractLsb' 0 8
  c := w1.extractLsb' 24 8
  guard := w1.extractLsb' 21 3
  neg := w1.getLsbD 20
  ty := w1.extractLsb' 16 4
  mod := w1.extractLsb' 12 4
  flag := w1.extractLsb' 10 2
  scope := w1.extractLsb' 7 3
  sub := w1.extractLsb' 0 7
  imm := w2

/-- The instruction of a lane word (R165, R191). -/
def decodeLane (w0 w1 w2 : Word) : Except DecodeError Instr :=
  let op := (w0.extractLsb' 24 8).toNat
  let f := laneFields w0 w1 w2
  match laneInstr op f with
  | none => .error .opcode
  | some i => if laneOk op f then .ok i else .error .fieldRange

/-! The encoder -/

/-- A control word of form CR or CI (R159). -/
def encCR (s : Bool) (op : BitVec 7) (d a b : Reg) : Word := BitVec.ofBool s ++ op ++ d ++ a ++ b

/-- A control word of form CW (R159). -/
def encCW (s : Bool) (op : BitVec 7) (d : Reg) (m : BitVec 16) : Word := BitVec.ofBool s ++ op ++ d ++ m

/-- A control word of form CB (R159). -/
def encCB (s : Bool) (op : BitVec 7) (sc : BitVec 3) (a : Reg) (off : BitVec 13) : Word :=
  BitVec.ofBool s ++ op ++ sc ++ a ++ off

/-- The control word, the literal word where there is one, and the live-mask word where S = 1 (R161). -/
def encWords (w : Word) (lit : Option Word) (sp : Option Word) : List Word := w :: (lit.toList ++ sp.toList)

/-- The words of a control instruction, none for a lane word or an event. -/
def encodeCtrl : Instr → Option (List Word)
  | .add sp d a b => some (encWords (encCR sp.isSome 0x01 d a b) none sp)
  | .sub sp d a b => some (encWords (encCR sp.isSome 0x02 d a b) none sp)
  | .mul sp d a b => some (encWords (encCR sp.isSome 0x03 d a b) none sp)
  | .mulh sp d a b => some (encWords (encCR sp.isSome 0x04 d a b) none sp)
  | .mulhu sp d a b => some (encWords (encCR sp.isSome 0x05 d a b) none sp)
  | .andr sp d a b => some (encWords (encCR sp.isSome 0x06 d a b) none sp)
  | .orr sp d a b => some (encWords (encCR sp.isSome 0x07 d a b) none sp)
  | .xorr sp d a b => some (encWords (encCR sp.isSome 0x08 d a b) none sp)
  | .shl sp d a b => some (encWords (encCR sp.isSome 0x09 d a b) none sp)
  | .shr sp d a b => some (encWords (encCR sp.isSome 0x0A d a b) none sp)
  | .sar sp d a b => some (encWords (encCR sp.isSome 0x0B d a b) none sp)
  | .minr sp d a b => some (encWords (encCR sp.isSome 0x0C d a b) none sp)
  | .maxr sp d a b => some (encWords (encCR sp.isSome 0x0D d a b) none sp)
  | .minu sp d a b => some (encWords (encCR sp.isSome 0x0E d a b) none sp)
  | .maxu sp d a b => some (encWords (encCR sp.isSome 0x0F d a b) none sp)
  | .slt sp d a b => some (encWords (encCR sp.isSome 0x10 d a b) none sp)
  | .sltu sp d a b => some (encWords (encCR sp.isSome 0x11 d a b) none sp)
  | .seq sp d a b => some (encWords (encCR sp.isSome 0x12 d a b) none sp)
  | .clz sp d a => some (encWords (encCR sp.isSome 0x13 d a 0) none sp)
  | .popc sp d a => some (encWords (encCR sp.isSome 0x14 d a 0) none sp)
  | .divu sp d a b => some (encWords (encCR sp.isSome 0x15 d a b) none sp)
  | .remu sp d a b => some (encWords (encCR sp.isSome 0x16 d a b) none sp)
  | .bfx sp d a b => some (encWords (encCR sp.isSome 0x17 d a b) none sp)
  | .addi sp d a i => some (encWords (encCR sp.isSome 0x18 d a i) none sp)
  | .andi sp d a i => some (encWords (encCR sp.isSome 0x19 d a i) none sp)
  | .ori sp d a i => some (encWords (encCR sp.isSome 0x1A d a i) none sp)
  | .xori sp d a i => some (encWords (encCR sp.isSome 0x1B d a i) none sp)
  | .shli sp d a i => some (encWords (encCR sp.isSome 0x1C d a (i.setWidth 8)) none sp)
  | .shri sp d a i => some (encWords (encCR sp.isSome 0x1D d a (i.setWidth 8)) none sp)
  | .sari sp d a i => some (encWords (encCR sp.isSome 0x1E d a (i.setWidth 8)) none sp)
  | .slti sp d a i => some (encWords (encCR sp.isSome 0x1F d a i) none sp)
  | .movi sp d m => some (encWords (encCW sp.isSome 0x20 d m) none sp)
  | .movhi sp d m => some (encWords (encCW sp.isSome 0x21 d m) none sp)
  | .movl sp d lit => some (encWords (encCW sp.isSome 0x22 d 0) (some lit) sp)
  | .addiw sp d m => some (encWords (encCW sp.isSome 0x23 d m) none sp)
  | .lds sp d a i => some (encWords (encCR sp.isSome 0x24 d a i) none sp)
  | .sts sp d a i => some (encWords (encCR sp.isSome 0x25 d a i) none sp)
  | .sbld sp d a b => some (encWords (encCR sp.isSome 0x26 d a (b.setWidth 8)) none sp)
  | .sbst sp d a b => some (encWords (encCR sp.isSome 0x27 d a (b.setWidth 8)) none sp)
  | .satom sp d a b lit => some (encWords (encCR sp.isSome 0x28 d a (b.setWidth 8)) (some lit) sp)
  | .grow sp m => some (encWords (encCW sp.isSome 0x29 0 m) none sp)
  | .br sp sc off => some (encWords (encCB sp.isSome 0x30 sc 0 off) none sp)
  | .bz sp sc a off => some (encWords (encCB sp.isSome 0x31 sc a off) none sp)
  | .bnz sp sc a off => some (encWords (encCB sp.isSome 0x32 sc a off) none sp)
  | .bltz sp sc a off => some (encWords (encCB sp.isSome 0x33 sc a off) none sp)
  | .bgez sp sc a off => some (encWords (encCB sp.isSome 0x34 sc a off) none sp)
  | .buni sp sc n off => some (encWords (encCB sp.isSome 0x35 sc (n.setWidth 8) off) none sp)
  | .call sp sc off => some (encWords (encCB sp.isSome 0x36 sc 0 off) none sp)
  | .ret sp sc => some (encWords (encCB sp.isSome 0x37 sc 0 0) none sp)
  | .loop sp sc a off => some (encWords (encCB sp.isSome 0x38 sc a (off.setWidth 13)) none sp)
  | .loopNext sp sc => some (encWords (encCB sp.isSome 0x38 sc 0 0) none sp)
  | .loopLeave sp sc => some (encWords (encCB sp.isSome 0x38 sc 1 0) none sp)
  | .endc sp sc => some (encWords (encCB sp.isSome 0x39 sc 0 0) none sp)
  | .brl sp sc n off => some (encWords (encCB sp.isSome 0x3A sc (n.setWidth 8) off) none sp)
  | .meet sp sc off => some (encWords (encCB sp.isSome 0x3B sc 0 off) none sp)
  | .lane sp d m => some (encWords (encCW sp.isSome 0x40 d m) none sp)
  | .lsync sp => some (encWords (encCR sp.isSome 0x41 0 0 0) none sp)
  | .ptos sp d n => some (encWords (encCR sp.isSome 0x42 d (n.setWidth 8) 0) none sp)
  | .vtos sp d a l => some (encWords (encCR sp.isSome 0x43 d a (l.setWidth 8)) none sp)
  | .vtosPair sp d a l => some (encWords (encCR sp.isSome 0x43 d a (0x40 ||| l.setWidth 8)) none sp)
  | .vtosFirst sp d a => some (encWords (encCR sp.isSome 0x43 d a 0x80) none sp)
  | .exmr sp d => some (encWords (encCR sp.isSome 0x44 d 0 0) none sp)
  | .exmw sp a => some (encWords (encCR sp.isSome 0x45 0 a 0) none sp)
  | .down sp d m => some (encWords (encCW sp.isSome 0x48 d m) none sp)
  | .segend sp => some (encWords (encCR sp.isSome 0x49 0 0 0) none sp)
  | .up sp a op => some (encWords (encCR sp.isSome 0x4A 0 a (op.setWidth 8)) none sp)
  | .gather sp d op => some (encWords (encCR sp.isSome 0x4B d 0 (op.setWidth 8)) none sp)
  | .bar sp n => some (encWords (encCR sp.isSome 0x4C 0 0 (n.setWidth 8)) none sp)
  | .barc sp n => some (encWords (encCR sp.isSome 0x4D 0 0 (n.setWidth 8)) none sp)
  | .waitf sp m => some (encWords (encCW sp.isSome 0x50 0 (m.setWidth 16)) none sp)
  | .waite sp cls t => some (encWords (encCR sp.isSome 0x51 0 0 (cls ++ t)) none sp)
  | .waita sp d a b => some (encWords (encCR sp.isSome 0x52 d a b) none sp)
  | .tryw sp d a b lit => some (encWords (encCR sp.isSome 0x53 d a (b.setWidth 8)) (some lit) sp)
  | .fence sp kind sc => some (encWords (encCR sp.isSome 0x54 0 0 ((0 : BitVec 3) ++ kind ++ sc)) none sp)
  | .spawn sp d => some (encWords (encCR sp.isSome 0x58 d 0 0) none sp)
  | .joinc sp d a b lit => some (encWords (encCR sp.isSome 0x59 d a b) (some lit) sp)
  | .tcopy sp d a b => some (encWords (encCR sp.isSome 0x60 d a b) none sp)
  | .gcopy sp d a b => some (encWords (encCR sp.isSome 0x61 d a b) none sp)
  | .wbload sp d a b => some (encWords (encCR sp.isSome 0x62 d a b) none sp)
  | .rcopy sp d a b => some (encWords (encCR sp.isSome 0x63 d a b) none sp)
  | .getsr sp d m => some (encWords (encCW sp.isSome 0x70 d m) none sp)
  | .setsr sp d m => some (encWords (encCW sp.isSome 0x71 d m) none sp)
  | .trap sp m => some (encWords (encCW sp.isSome 0x72 0 m) none sp)
  | .sigchk sp lit => some (encWords (encCW sp.isSome 0x73 0 0) (some lit) sp)
  | .brk sp m => some (encWords (encCW sp.isSome 0x74 0 m) none sp)
  | .nop sp => some (encWords (encCW sp.isSome 0x75 0 0) none sp)
  | _ => none

/-- The opcode and fields of a lane instruction (R190). -/
def laneParts : Instr → Option (BitVec 8 × LaneForm)
  | .vadd f => some (0x01, f)
  | .vsub f => some (0x02, f)
  | .vmul f => some (0x03, f)
  | .vmulh f => some (0x04, f)
  | .vmulhu f => some (0x05, f)
  | .vmad f => some (0x06, f)
  | .vand f => some (0x07, f)
  | .vor f => some (0x08, f)
  | .vxor f => some (0x09, f)
  | .vshl f => some (0x0A, f)
  | .vshr f => some (0x0B, f)
  | .vsar f => some (0x0C, f)
  | .vmin f => some (0x0D, f)
  | .vmax f => some (0x0E, f)
  | .vminu f => some (0x0F, f)
  | .vmaxu f => some (0x10, f)
  | .vabs f => some (0x11, f)
  | .vclz f => some (0x12, f)
  | .vpopc f => some (0x13, f)
  | .vbfx f => some (0x14, f)
  | .vbfi f => some (0x15, f)
  | .vsel f => some (0x16, f)
  | .vmov f => some (0x17, f)
  | .vcmp f => some (0x18, f)
  | .vadds f => some (0x19, f)
  | .plog f => some (0x1A, f)
  | .fadd f => some (0x20, f)
  | .fsub f => some (0x21, f)
  | .fmul f => some (0x22, f)
  | .ffma f => some (0x23, f)
  | .fmin f => some (0x24, f)
  | .fmax f => some (0x25, f)
  | .fcmp f => some (0x26, f)
  | .frcp f => some (0x27, f)
  | .frsq f => some (0x28, f)
  | .fsqrt f => some (0x29, f)
  | .fexp f => some (0x2A, f)
  | .flog f => some (0x2B, f)
  | .frint f => some (0x2E, f)
  | .fldexp f => some (0x2F, f)
  | .fexpx f => some (0x30, f)
  | .fclass f => some (0x31, f)
  | .hadd2 f => some (0x32, f)
  | .hmul2 f => some (0x33, f)
  | .hfma2 f => some (0x34, f)
  | .cvt f => some (0x38, f)
  | .quant f => some (0x39, f)
  | .packb f => some (0x3A, f)
  | .unpkb f => some (0x3B, f)
  | .shfl f => some (0x40, f)
  | .shflx f => some (0x41, f)
  | .vote f => some (0x42, f)
  | .redux f => some (0x43, f)
  | .scan f => some (0x44, f)
  | .bld f => some (0x50, f)
  | .bst f => some (0x51, f)
  | .batom f => some (0x52, f)
  | .bpf f => some (0x53, f)
  | .lld f => some (0x54, f)
  | .lst f => some (0x55, f)
  | .latom f => some (0x56, f)
  | .pld f => some (0x57, f)
  | .pst f => some (0x58, f)
  | .vld f => some (0x59, f)
  | .vst f => some (0x5A, f)
  | .mma f => some (0x60, f)
  | .accrd f => some (0x61, f)
  | .accwr f => some (0x62, f)
  | .accz f => some (0x63, f)
  | .lnop f => some (0x70, f)
  | _ => none

/-- w0, w1 and w2 of a lane word (R165). -/
def encLane (op : BitVec 8) (f : LaneForm) : List Word :=
  [op ++ f.d ++ f.a ++ f.b,
   f.c ++ f.guard ++ BitVec.ofBool f.neg ++ f.ty ++ f.mod ++ f.flag ++ f.scope ++ f.sub,
   f.imm]

/-- The words of an instruction; an event has none. -/
def encode (i : Instr) : List Word :=
  match encodeCtrl i with
  | some ws => ws
  | none =>
    match laneParts i with
    | some (op, f) => encLane op f
    | none => []

/-- The instruction that a whole list of words encodes: three words of a lane word, or a control word with what follows it. -/
def decodeLaneWords : List Word → Except DecodeError Instr
  | [w0, w1, w2] => decodeLane w0 w1 w2
  | _ => .error .opcode

/-- The instruction of a table row's word (R5): at most 64 bits are a control word, more are a lane word. -/
def decodeTableWord (nbits w : Nat) : Option Instr :=
  let wd (k : Nat) : Word := BitVec.ofNat 32 (w / 2 ^ (32 * k))
  if nbits ≤ 64 then
    match decodeCtrlWords [wd 0, wd 1, wd 2] with
    | .ok (i, _) => some i
    | .error _ => none
  else
    match decodeLane (wd 0) (wd 1) (wd 2) with
    | .ok i => some i
    | .error _ => none

end Sys2Proof
end

