-- ==== Sys2Proof/WellFormed.lean ====
section
/-! DEFINITION. Which terms of `Instr` are instructions of the opcode map: the field values that R57, R69, R184, R190 and
R191 admit. The events of the agents are well formed whatever they carry. -/

namespace Sys2Proof

/-- The fields of a control instruction are those its word can hold (R57, R69, R165, R184). -/
def Instr.ctrlWf : Instr → Bool
  | .br _ sc _ | .bz _ sc _ _ | .bnz _ sc _ _ | .bltz _ sc _ _ | .bgez _ sc _ _ | .buni _ sc _ _ | .call _ sc _
  | .ret _ sc | .loopNext _ sc | .loopLeave _ sc | .endc _ sc | .brl _ sc _ _ | .meet _ sc _ => sc.toNat < 6
  | .loop _ sc _ off => sc.toNat < 6 && off != 0
  | .fence _ kind sc => kind != 3 && sc.toNat < 6
  | .ptos _ d _ | .exmr _ d => d.toNat ≤ 254
  | .exmw _ a => a.toNat ≤ 254
  | .vtos _ _ a _ | .vtosFirst _ _ a => a.toNat < 0xF0
  | .vtosPair _ d a _ => a.toNat < 0xF0 && d.toNat ≤ 254
  | .lane _ d _ | .down _ d _ => d.toNat ≤ 252
  | .spawn _ d | .joinc _ d _ _ _ => d.toNat ≤ 240
  | .getsr _ _ m | .setsr _ _ m => sysRegs.contains m.toNat
  | _ => true

/-- The instruction is one the opcode map has. -/
def Instr.wf (i : Instr) : Bool :=
  i.ctrlWf && (match laneParts i with
    | some (op, f) => laneOk op.toNat f
    | none => true)

/-- The instruction has an encoding: it is a control word or a lane word, not an event. -/
def Instr.encoded (i : Instr) : Bool := (encodeCtrl i).isSome || (laneParts i).isSome

end Sys2Proof
end

