-- ==== Sys2Proof/Machine/Ops.lean ====
section
/-! DEFINITION. The named operations over tables, memory, tags, time, contexts and registers; translation; records; and
taking a fault: TRAPCAUSE, the trap segment, page faults and fatal faults. -/

namespace Sys2Proof.Machine

/-! Tables in canonical form -/

/-- The value at `k`, the default where the table lists none. -/
def sget {α : Type} (dflt : α) : Sparse α → Nat → α
  | [], _ => dflt
  | (k', v) :: r, k => if k' = k then v else if k < k' then dflt else sget dflt r k

/-- The table with `v` at `k`, in canonical form: the default is not listed. -/
def sput {α : Type} [DecidableEq α] (dflt : α) : Sparse α → Nat → α → Sparse α
  | [], k, v => if v = dflt then [] else [(k, v)]
  | (k', w) :: r, k, v =>
    if k < k' then (if v = dflt then (k', w) :: r else (k, v) :: (k', w) :: r)
    else if k = k' then (if v = dflt then r else (k, v) :: r)
    else (k', w) :: sput dflt r k v

/-- The canonical form: rising keys and no default value. -/
def sparseWf {α : Type} [DecidableEq α] (dflt : α) : Sparse α → Bool
  | [] => true
  | [(_, v)] => v ≠ dflt
  | (k, v) :: (k', w) :: r => v ≠ dflt && k < k' && sparseWf dflt ((k', w) :: r)

/-! Memory: one table of bytes for every space (INVENTORY.md; an unlisted byte reads 0, log entry 3) -/

/-- Bytes of HBM (R17). -/
def hbmBytes : Nat := 640 * 2 ^ 30
/-- The key of a byte of host memory, whose bus addresses have 64 bits (R384, R386, R395). -/
def hostKey (a : Nat) : Nat := 2 ^ 52 + a
/-- The key of a byte of a vault. -/
def vaultKey (v off : Nat) : Nat := 2 ^ 65 + v * 2 ^ 24 + off
/-- The key of a byte of a core store (R83). -/
def coreKey (k off : Nat) : Nat := 2 ^ 66 + k * 2 ^ 21 + off
/-- The key of a byte of an accumulator tile (R93). -/
def tileKey (k t off : Nat) : Nat := 2 ^ 67 + k * 2 ^ 19 + t * 2048 + off
/-- The key of a byte of a weight slot (R94). -/
def slotKey (k w off : Nat) : Nat := 2 ^ 68 + k * 2 ^ 18 + w * 1024 + off
/-- The first byte past a core store (R83). -/
def coreStoreEnd : Nat := 0x180000

/-- What an unlisted byte reads as (log entry 3). -/
def unlistedByte : Byte := 0

/-- One byte of memory. -/
def memRead (m : List Host.Cell) (k : Nat) : Byte := sget unlistedByte m k
/-- Memory with one byte written. -/
def memWrite (m : List Host.Cell) (k : Nat) (v : Byte) : List Host.Cell := sput unlistedByte m k v
/-- The canonical form of memory. -/
def Memory.wf (m : List Host.Cell) : Bool := sparseWf unlistedByte m

def readBytes (s : State) (k : Nat) : Nat → List Byte
  | 0 => []
  | n + 1 => memRead s.mem k :: readBytes s (k + 1) n

def memWriteList (m : List Host.Cell) (k : Nat) : List Byte → List Host.Cell
  | [] => m
  | b :: r => memWriteList (memWrite m k b) (k + 1) r

/-- The state with bytes written from `k` up. -/
def writeBytes (s : State) (k : Nat) (bs : List Byte) : State := { s with mem := memWriteList s.mem k bs }

/-- A little-endian number (R5). -/
def leNat : List Byte → Nat
  | [] => 0
  | b :: r => b.toNat + 256 * leNat r

/-- The `n` low bytes of a number, lowest first (R5). -/
def leBytes : Nat → Nat → List Byte
  | 0, _ => []
  | n + 1, v => BitVec.ofNat 8 v :: leBytes n (v / 256)

def leWord (bs : List Byte) : Word := BitVec.ofNat 32 (leNat bs)
def wordBytes (w : Word) : List Byte := leBytes 4 w.toNat
def readWord (s : State) (k : Nat) : Word := leWord (readBytes s k 4)
def readDWord (s : State) (k : Nat) : DWord := BitVec.ofNat 64 (leNat (readBytes s k 8))
def writeWord (s : State) (k : Nat) (w : Word) : State := writeBytes s k (wordBytes w)

def readWords (s : State) (k : Nat) : Nat → List Word
  | 0 => []
  | n + 1 => readWord s k :: readWords s (k + 4) n

def writeWords (s : State) (k : Nat) : List Word → State
  | [] => s
  | w :: r => writeWords (writeWord s k w) (k + 4) r

/-- The words of a byte list. -/
def bytesToWords : List Byte → List Word
  | b0 :: b1 :: b2 :: b3 :: r => leWord [b0, b1, b2, b3] :: bytesToWords r
  | _ => []

/-- Bits `h` to `l` of a word as a number. -/
def bits (w : Word) (h l : Nat) : Nat := w.toNat / 2 ^ l % 2 ^ (h + 1 - l)

/-- Two words as one 64-bit number, low word first. -/
def pair64 (lo hi : Word) : Nat := lo.toNat + 2 ^ 32 * hi.toNat

/-- The granule of a byte (R99). -/
def granule (k : Nat) : Nat := k / 64
/-- The line of a byte (R88). -/
def lineOf (k : Nat) : Nat := k / 128

/-- The tag of the granule of byte `k` (R99). -/
def tagAt (s : State) (k : Nat) : BitVec 12 := sget 0 s.tags (granule k)
def setTag (s : State) (k : Nat) (g : BitVec 12) : State := { s with tags := sput 0 s.tags (granule k) g }

/-- The granule of byte `k` bears uncorrectable data (R347). -/
def poisonAt (s : State) (k : Nat) : Bool := s.poison.contains (granule k)

/-- A write of a whole granule clears its uncorrectable error (R92, R347). -/
def clearPoison (s : State) (k : Nat) : State := { s with poison := s.poison.filter (· ≠ granule k) }

/-- The granule of `k` becomes zero under generation `g` (R101). -/
def zeroGranule (s : State) (k : Nat) (g : BitVec 12) : State :=
  clearPoison (setTag (writeBytes s (granule k * 64) (List.replicate 64 0)) k g) k

/-- One byte written to a tagged granule under generation `g` (R101). -/
def writeTagged1 (s : State) (k : Nat) (g : BitVec 12) (b : Byte) : State :=
  let s1 := if tagAt s k = g then s else zeroGranule s k g
  { s1 with mem := memWrite s1.mem k b }

def writeTagged (s : State) (k : Nat) (g : BitVec 12) : List Byte → State
  | [] => s
  | b :: r => writeTagged (writeTagged1 s k g b) (k + 1) g r

/-- A write of the bytes at `ks` clears the error of each granule that it covers whole (R92, R347). -/
def clearCovered (s : State) (ks : List Nat) : State :=
  if s.poison.isEmpty then s
  else { s with poison := s.poison.filter (fun g => !(List.range 64).all (fun i => ks.contains (g * 64 + i))) }

/-- Bytes at offsets from `k`, in one line, written as one write under generation `g` (R101, R347). -/
def writeAll (s : State) (k : Nat) (g : BitVec 12) (t : Sparse Byte) : State :=
  clearCovered (t.foldl (fun s b => writeTagged1 s (k + b.1) g b.2) s) (t.map (fun b => k + b.1))

/-- Bytes read from tagged granules under generation `g`: a mismatching granule's bytes are zero (R100, ZERO). -/
def readTagged (s : State) (k : Nat) (g : BitVec 12) : Nat → List Byte
  | 0 => []
  | n + 1 => (if tagAt s k = g then memRead s.mem k else 0) :: readTagged s (k + 1) g n

/-- The first byte from `k` whose granule's tag is not `g`, rounded to its granule (R100). -/
def firstStale (s : State) (k : Nat) (g : BitVec 12) : Nat → Option Nat
  | 0 => none
  | n + 1 => if tagAt s k = g then firstStale s (k + 1) g n else some (granule k * 64)

/-! Lists of records by identity -/

def getCtx (s : State) (id : Nat) : Option Ctx := s.ctxs.find? (fun c => c.id == id)

/-- The contexts with `c` in the place of the one of the same identity. -/
def replaceCtx (c : Ctx) : List Ctx → List Ctx
  | [] => []
  | x :: r => if x.id = c.id then c :: r else x :: replaceCtx c r

def setCtx (s : State) (c : Ctx) : State := { s with ctxs := replaceCtx c s.ctxs }

def modCtx (s : State) (id : Nat) (f : Ctx → Ctx) : State :=
  match getCtx s id with
  | some c => setCtx s (f c)
  | none => s

def getCore (s : State) (k : Nat) : Core := s.cores.getD k Core.reset
def setCore (s : State) (k : Nat) (c : Core) : State := { s with cores := s.cores.set k c }
def getCluster (s : State) (k : Nat) : Cluster := s.clusters.getD k Cluster.reset
def setCluster (s : State) (k : Nat) (c : Cluster) : State := { s with clusters := s.clusters.set k c }
def getVault (s : State) (k : Nat) : Vault := s.vaults.getD k Vault.reset
def setVault (s : State) (k : Nat) (v : Vault) : State := { s with vaults := s.vaults.set k v }
def getLaunch (s : State) (id : Nat) : Option Launch := s.launches.find? (fun l => l.id == id)
def setLaunch (s : State) (l : Launch) : State :=
  { s with launches := s.launches.map (fun x => if x.id = l.id then l else x) }
def getOp (s : State) (id : Nat) : Option EngOp := s.ops.find? (fun o => o.id == id)
def setOp (s : State) (o : EngOp) : State := { s with ops := s.ops.map (fun x => if x.id = o.id then o else x) }
def dropOp (s : State) (id : Nat) : State := { s with ops := s.ops.filter (fun o => o.id ≠ id) }

/-- The next identity and the state that has used it. -/
def fresh (s : State) : Nat × State := (s.nextId, { s with nextId := s.nextId + 1 })

/-- A free word and the state that has drawn it (log entry 2). -/
def drawFree (s : State) : Word × State := (Config.freeWord s.freeCtr, { s with freeCtr := s.freeCtr + 1 })

/-- Device time on a die (R19). -/
def dieTime (s : State) (d : BitVec 1) : Nat := if d = 0 then s.time0 else s.time1

/-- The die of a cluster (R12). -/
def clusterDie (n : Nat) : BitVec 1 := if n < 24 then 0 else 1

/-- The device runs: it is neither in retention nor off (R396, R400), and its boot has not been refused (R393). -/
def powered (s : State) : Bool := s.supply == .on && s.stage ≠ 0xFF

/-- The memories still take writes on their way: the device runs, or the supply-loss sequence has not reached self-refresh
(R396). -/
def memoryUp (s : State) : Bool :=
  match s.supply with
  | .on => true
  | .losing n _ _ => n < 4
  | _ => false

/-- Engine units may run: all of them while the device runs, and those under way until they have stopped at their unit (R396). -/
def unitsRun (s : State) (under : Bool) : Bool :=
  match s.supply with
  | .on => true
  | .losing n _ _ => n < 2 && under
  | _ => false

/-! The running path and the program counter -/

def defaultPath : PathEntry := ⟨0, 0, 0, 0, 0, [0, 0, 0, 0], 0xFFFFFFFF, []⟩

/-- The running path's entry (R42). -/
def Ctx.path (c : Ctx) : PathEntry := c.paths.getD c.run defaultPath
def Ctx.setPath (c : Ctx) (p : PathEntry) : Ctx := { c with paths := c.paths.set c.run p }
def Ctx.pc (c : Ctx) : Pc := c.path.pc
def Ctx.setPc (c : Ctx) (pc : Pc) : Ctx := c.setPath { c.path with pc := pc }

/-- A group or task, which has paths, regions and a lane stream. -/
def Ctx.isGroup (c : Ctx) : Bool := c.level == 1

/-- Paths that are not free (R42, R74). -/
def Ctx.livePaths (c : Ctx) : Nat := (c.paths.filter (fun p => p.state ≠ 0)).length

/-- Present lanes (R26). -/
def Ctx.present (c : Ctx) : LaneMask := BitVec.ofNat 64 (2 ^ c.lanes - 1)
/-- The live-lane mask (R65). -/
def Ctx.liveMask (c : Ctx) : LaneMask := c.present &&& ~~~ c.dmk &&& ~~~ c.exited

/-- The context's stream can issue: it runs, and its running entry is a running path. -/
def Ctx.canRun (c : Ctx) : Bool := c.mode == .run && c.path.state == 1

/-! Scalar registers (R57 to R59) -/

/-- s0 to s251 are the context's, s252 to s255 the running path's (R59). -/
def Ctx.sreg (c : Ctx) (n : Nat) : Word :=
  if n < 252 then sget 0 c.sregs n else c.path.priv.getD (n - 252) 0

/-- A scalar's number among those of all paths. -/
def Ctx.sregKey (c : Ctx) (n : Nat) : Nat := if n < 252 then n else 256 + 4 * c.run + (n - 252)

/-- The scalar holds uncorrectable data (R347). -/
def Ctx.sregUe (c : Ctx) (n : Nat) : Bool := c.sregBad.contains (c.sregKey n)

/-- A scalar is written whole, which replaces data and check bits (R347). -/
def Ctx.setSreg (c : Ctx) (n : Nat) (v : Word) : Ctx :=
  let bad := c.sregBad.filter (· ≠ c.sregKey n)
  if n < 252 then { c with sregs := sput 0 c.sregs n v, sregBad := bad }
  else { c.setPath { c.path with priv := c.path.priv.set (n - 252) v } with sregBad := bad }

/-- The marks of `bad` with those of path `j` replaced by copies of the marks of path `i` (R347). -/
def copyMarks (bad : List Nat) (i j : Nat) : List Nat :=
  let own (k n : Nat) : Bool := decide (256 + 4 * k ≤ n) && decide (n < 260 + 4 * k)
  bad.filter (fun n => !own j n) ++ (bad.filter (own i)).map (fun n => n - 4 * i + 4 * j)

/-- A run of consecutive scalars. -/
def Ctx.sregRun (c : Ctx) (n : Nat) : Nat → List Word
  | 0 => []
  | k + 1 => c.sreg n :: c.sregRun (n + 1) k

def Ctx.setSregRun (c : Ctx) (n : Nat) : List Word → Ctx
  | [] => c
  | w :: r => (c.setSreg n w).setSregRun (n + 1) r

/-! Allocations (R83, R99, R131) -/

/-- The run that holds index `i`. -/
def ownerOf (rs : List Run) (i : Nat) : Option Run := rs.find? (fun r => r.first ≤ i && i < r.first + r.count)

/-- The generation that owns a row, tile or unit, 0 for none. -/
def ownerGen (rs : List Run) (i : Nat) : BitVec 12 := (ownerOf rs i).elim 0 Run.gen

/-- A counter's next value after `v`, never 0 (R104). -/
def nextGen (v : BitVec 12) : BitVec 12 := if v = 0xFFF then 1 else v + 1

/-- The first value from the counter on that no live allocation holds (R104). -/
def skipLive (live : List (BitVec 12)) (v : BitVec 12) : Nat → BitVec 12
  | 0 => v
  | n + 1 => if live.contains v then skipLive live (nextGen v) n else v

/-- The values that `skipLive` passes over. -/
def passedLive (live : List (BitVec 12)) (v : BitVec 12) : Nat → List (BitVec 12)
  | 0 => []
  | n + 1 => if live.contains v then v :: passedLive live (nextGen v) n else []

/-- The value whose skim begins when `v` is issued, or passed over (R104; log entry 144). -/
def skimOf (v : BitVec 12) : BitVec 12 :=
  let g := v.toNat + 2048
  BitVec.ofNat 12 (if 4095 < g then g - 4095 else g)

def Core.liveGens (c : Core) : List (BitVec 12) := (c.rows ++ c.tileRuns).map Run.gen

/-- A fresh generation of a core (R99, R104). -/
def Core.issueGen (c : Core) : BitVec 12 × Core :=
  let v := skipLive c.liveGens c.genNext 4095
  (v, { c with genNext := nextGen v, skim := c.skim ++ (passedLive c.liveGens c.genNext 4095 ++ [v]).map skimOf })

/-- A fresh generation of a vault (R99, R104). -/
def Vault.issueGen (c : Vault) : BitVec 12 × Vault :=
  let live := c.units.map Run.gen
  let v := skipLive live c.genNext 4095
  (v, { c with genNext := nextGen v, skim := c.skim ++ (passedLive live c.genNext 4095 ++ [v]).map skimOf })

/-- The next `n` values may be issued: the skim of none of them is still unfinished (R104). -/
def Core.issueReady (c : Core) : Nat → Bool
  | 0 => true
  | n + 1 => let r := c.issueGen; !c.skim.contains r.1 && r.2.issueReady n
def Vault.issueReady (c : Vault) : Nat → Bool
  | 0 => true
  | n + 1 => let r := c.issueGen; !c.skim.contains r.1 && r.2.issueReady n

/-- A late write is dropped and counted (R102, R75). -/
def countLate (s : State) (k : Nat) : State :=
  let c := getCore s k
  setCore s k { c with late := if c.late = 0xFFFF then c.late else c.late + 1 }

/-- Bytes at offsets from byte `off` of core `k`, in one row, written as one write under a generation (R101); a write whose
generation no longer owns the row is late and dropped whole (R102). -/
def coreWriteAt (s : State) (k off : Nat) (g : BitVec 12) (t : Sparse Byte) : State :=
  if ownerGen (getCore s k).rows (off / 256) = g then writeAll s (coreKey k off) g t else countLate s k

/-- The same in a vault. -/
def vaultWriteAt (s : State) (v off : Nat) (g : BitVec 12) (t : Sparse Byte) : State :=
  if ownerGen (getVault s v).units (off / 65536) = g then writeAll s (vaultKey v off) g t else countLate s (v * 4)

/-- Consecutive bytes with their offsets. -/
def offsets (bs : List Byte) : Sparse Byte := (List.range bs.length).zip bs

/-- Consecutive bytes written to a core store under a generation (R101, R102). -/
def coreWrite (s : State) (k off : Nat) (g : BitVec 12) (bs : List Byte) : State := coreWriteAt s k off g (offsets bs)

/-- Consecutive bytes written to a vault under a generation (R101, R102). -/
def vaultWrite (s : State) (v off : Nat) (g : BitVec 12) (bs : List Byte) : State := vaultWriteAt s v off g (offsets bs)

/-! Vector registers (R60, R61): core-store rows of the group -/

def Ctx.vregOff (c : Ctx) (n lane : Nat) : Nat := (c.regBase + n) * 256 + 4 * lane

/-- Lane `lane` of register `n`; a granule not written under the group's generation reads 0 (R61, R100). -/
def vread (s : State) (c : Ctx) (n lane : Nat) : Word :=
  leWord (readTagged s (coreKey c.core (c.vregOff n lane)) c.regGen 4)

/-- The granule of a lane's register is stale (R61, R100). -/
def vstale (s : State) (c : Ctx) (n lane : Nat) : Bool := tagAt s (coreKey c.core (c.vregOff n lane)) ≠ c.regGen

def vwrite (s : State) (c : Ctx) (n lane : Nat) (w : Word) : State :=
  coreWrite s c.core (c.vregOff n lane) c.regGen (wordBytes w)

/-- Predicate `n`: p0 is all ones over present lanes (R63). -/
def Ctx.pred (c : Ctx) (n : Nat) : LaneMask :=
  if n = 0 then c.present else (c.preds.getD (n - 1) 0) &&& c.present

/-- Predicate `n` holds uncorrectable data (R347). -/
def Ctx.predUe (c : Ctx) (n : Nat) : Bool := n ≠ 0 && c.sregBad.contains (512 + n)

/-- A write to p0 is discarded (R63). -/
def Ctx.setPred (c : Ctx) (n : Nat) (v : LaneMask) : Ctx :=
  if n = 0 then c else { c with preds := c.preds.set (n - 1) v }

/-! Translation (R95, R97, R130) -/

/-- What a translation yields. -/
inductive Xlat where
  | ok (place : Place) (writable pinned : Bool)
  | absent
  | hole (addr : Nat)
deriving DecidableEq, Repr

/-- The level-2 table and the map generation of an address space (R130). -/
def astTable (s : State) (asid : BitVec 16) : Nat :=
  (readDWord s (s.astBase + 32 * asid.toNat)).toNat / 65536 % 2 ^ 36 * 65536
def astGen (s : State) (asid : BitVec 16) : BitVec 16 := BitVec.ofNat 16 (readWord s (s.astBase + 32 * asid.toNat + 8)).toNat

/-- The lease of the control cores' copies of the space's lines (R130). -/
def astLease (s : State) (asid : BitVec 16) : Nat := (readWord s (s.astBase + 32 * asid.toNat + 8)).toNat / 65536 % 32

def pteFrame (e : DWord) : Nat := e.toNat / 65536 % 2 ^ 36 * 65536
def pteLoc (e : DWord) : Nat := e.toNat / 256 % 4
def ptePresent (e : DWord) : Bool := e.getLsbD 0 && pteLoc e ≠ 3

/-- The place a leaf entry gives to an offset of its page (R130). -/
def pteLeaf (e : DWord) (pageBits off : Nat) : Xlat :=
  let pa := pteFrame e / 2 ^ pageBits * 2 ^ pageBits + off
  let w := e.getLsbD 4
  let p := e.getLsbD 6
  if pteLoc e = 0 then (if pa < hbmBytes then .ok (.here pa) w p else .hole pa)
  else if pteLoc e = 1 then .ok (.here (hostKey pa)) w p
  else .ok (.peer (BitVec.ofNat 12 (e.toNat / 2 ^ 52)) pa) w p

/-- The entries of the run of `n` that holds index `i` of a table are those of one larger page: they differ from `e` in
nothing but the low `low` bits of the frame number (R97). -/
def runGood (s : State) (table i n low : Nat) (e : DWord) : Bool :=
  (List.range n).all (fun j =>
    let x := readDWord s (table + 8 * (i / n * n + j))
    x.toNat % 2 ^ 16 = e.toNat % 2 ^ 16 && x.toNat / 2 ^ (16 + low) = e.toNat / 2 ^ (16 + low))

/-- The contiguity field of an entry (R130). -/
def pteContig (e : DWord) : Nat := e.toNat / 4 % 4

/-- The place that a level-0 entry gives: a 2 MiB or 64 MiB page where its run is good, else its own 64 KiB page (R97). -/
def pageLeaf (s : State) (table va : Nat) (e : DWord) : Xlat :=
  let i := va / 2 ^ 16 % 8192
  if pteContig e = 1 && runGood s table i 32 5 e then pteLeaf e 21 (va % 2 ^ 21)
  else if pteContig e = 2 && runGood s table i 1024 10 e then pteLeaf e 26 (va % 2 ^ 26)
  else pteLeaf e 16 (va % 2 ^ 16)

/-- The place that a level-1 leaf gives: a 1 GiB page where its run is good, else its own 512 MiB (R97; log entry 27). -/
def bigLeaf (s : State) (table va : Nat) (e : DWord) : Xlat :=
  if pteContig e = 3 && runGood s table (va / 2 ^ 29 % 8192) 2 14 e then pteLeaf e 30 (va % 2 ^ 30)
  else pteLeaf e 29 (va % 2 ^ 29)

/-- The three-level walk (R97); tables stand in HBM (R123). -/
def walk (s : State) (asid : BitVec 16) (va : Nat) : Xlat :=
  let t2 := astTable s asid
  if hbmBytes ≤ t2 then .hole t2
  else
    let e2 := readDWord s (t2 + 8 * (va / 2 ^ 42 % 1024))
    if !ptePresent e2 || e2.getLsbD 1 then .absent
    else if hbmBytes ≤ pteFrame e2 then .hole (pteFrame e2)
    else
      let e1 := readDWord s (pteFrame e2 + 8 * (va / 2 ^ 29 % 8192))
      if !ptePresent e1 then .absent
      else if e1.getLsbD 1 then bigLeaf s (pteFrame e2) va e1
      else if hbmBytes ≤ pteFrame e1 then .hole (pteFrame e1)
      else
        let e0 := readDWord s (pteFrame e1 + 8 * (va / 2 ^ 16 % 8192))
        if !ptePresent e0 then .absent else pageLeaf s (pteFrame e1) va e0

/-! Records of the fault and error queues (R118, R119, R137, R340) -/

/-- Raises a vector of the host port (R383). -/
def raiseVector (s : State) (n : Nat) : State := { s with vectors := s.vectors ||| BitVec.ofNat 6 (2 ^ n) }

/-- An error record enters the queue, or is counted and dropped (R119); the first of an empty queue raises vector 1. -/
def pushError (s : State) (r : List Word) : State :=
  if s.errors.length < 1024 then
    let s1 := if s.errors.isEmpty then raiseVector s 1 else s
    { s1 with errors := s1.errors ++ [r] }
  else { s with errOverflow := if s.errOverflow = 0xFFFF then s.errOverflow else s.errOverflow + 1 }

/-- Where a context stands, in word w3 of an error record (R340). -/
def Ctx.where3 (c : Ctx) : Word :=
  BitVec.ofNat 32 (c.die.toNat * 2 ^ 24 + c.cluster * 2 ^ 16 +
    (if c.isGroup then c.slot * 256 + c.core else 0xFF))

/-- An error record of eight words (R340); its address has 52 bits, and the rest of w5 is reserved (R9). -/
def errorRecord (s : State) (kind code : Nat) (lane : Option Nat) (scope : Nat) (w3 : Word) (addr : Nat) (pc w7 : Word)
    (die : BitVec 1) : List Word :=
  let t := dieTime s die
  [BitVec.ofNat 32 (kind * 2 ^ 24 + code * 2 ^ 16 + (lane.elim 0 (fun l => 2 ^ 14 + l * 256)) + scope),
   BitVec.ofNat 32 t, BitVec.ofNat 32 (t / 2 ^ 32), w3, BitVec.ofNat 32 addr, BitVec.ofNat 32 (addr / 2 ^ 32 % 2 ^ 20), pc, w7]

/-- A record of an event in a context (R339). -/
def ctxError (s : State) (c : Ctx) (kind code : Nat) (lane : Option Nat) (addr : Nat) (pc w7 : Word) : State :=
  pushError s (errorRecord s kind code lane c.level.toNat c.where3 addr pc w7 c.die)

/-- The producer still waits with its batch: it has not been killed, saved or served since. -/
def waitsForRoom (s : State) : Waiter → Bool
  | .scalar id => (getCtx s id).any (fun c => match c.mode with
      | .batch _ _ => true
      | _ => false)
  | .lane id => (getCtx s id).any (fun c => match c.laneMode with
      | .batch _ _ => true
      | _ => false)
  | .held id => (getCtx s id).any (fun c => c.owing.isSome)
  | .engine id => (getOp s id).any (fun o => match o.stage with
      | .owing _ => true
      | _ => false)
  | .queue id => s.queues.any (fun q => q.qid = id && q.owing.isSome)
  | .inbound r => s.inbound.any (fun x => x.access = r && x.batch.isNone)

/-- The producers whose batches wait, in the order in which these reached the queue (R118). -/
def fqWaiting (s : State) : List Waiter := s.fqLine.filter (waitsForRoom s)

/-- The ring has room for `n` records more. -/
def fqSpace (s : State) (n : Nat) : Bool := s.fqProduced + n ≤ s.fqConsumed + 2 ^ s.fqLog

/-- A batch of `n` records that reaches the queue now is written: the ring has room for all of it, and no earlier batch waits
(R118). -/
def fqRoom (s : State) (n : Nat) : Bool := fqSpace s n && (fqWaiting s).isEmpty

/-- The waiting batch of a producer is written: it is the first in the line, and there is room. -/
def fqServes (s : State) (w : Waiter) (n : Nat) : Bool := fqSpace s n && (fqWaiting s).head? = some w

/-- A producer joins the line with its batch, unless it stands there already. -/
def fqJoin (s : State) (w : Waiter) : State := if (fqWaiting s).contains w then s else { s with fqLine := s.fqLine.filter (· ≠ w) ++ [w] }

def fqWrite (s : State) (seq : Word) : List (List Word) → State
  | [] => s
  | r :: rest =>
    let k := s.fqBase + 32 * (s.fqProduced % 2 ^ s.fqLog)
    let s1 := writeWords s k (seq :: r)
    fqWrite { s1 with fqProduced := s1.fqProduced + 1 } seq rest

/-- Writes a whole batch under one sequence number; the number that the consumer must reach stands for the batch (R118). -/
def fqBatch (s : State) (rs : List (List Word)) : Nat × State :=
  let s1 := fqWrite s s.fqSeq rs
  let s2 := { s1 with
    fqSeq := if s.fqSeq = 0xFFFFFFFF then 1 else s.fqSeq + 1
    fqBatches := s1.fqBatches ++ [(rs.length, s1.fqProduced)] }
  (s2.fqProduced, s2)

/-- The memory manager has passed the batch (R137). -/
def batchPassed (s : State) (b : Nat) : Bool := b ≤ s.fqConsumed

/-- Words w1 to w7 of a fault record (R137); its address has 52 bits, and the rest of w3 is reserved (R9). -/
def faultRecord (fetch inb eng wr : Bool) (count index : Nat) (lane : Option Nat) (code va : Nat) (asid mapgen : BitVec 16)
    (w5 pc : Word) : List Word :=
  [BitVec.ofNat 32 (fetch.toNat * 2 ^ 30 + inb.toNat * 2 ^ 29 + eng.toNat * 2 ^ 28 + (count - 1) * 2 ^ 22 + index * 2 ^ 16 +
      wr.toNat * 2 ^ 15 + (lane.elim 0 (fun l => 2 ^ 14 + l * 256)) + code),
   BitVec.ofNat 32 va, BitVec.ofNat 32 (va / 2 ^ 32 % 2 ^ 20), asid ++ mapgen, w5, pc, 0]

/-- w5 of a fault record: slot and core of a group or task (R137, R401). -/
def Ctx.where5 (c : Ctx) : Word := BitVec.ofNat 32 (if c.isGroup then c.slot * 256 + c.core else 0xFF)

/-! Taking a fault (R82, R335 to R339) -/

/-- Fault codes (R336). -/
def ILLEGAL : Nat := 0x01
def SCOPE : Nat := 0x02
def NONUNI : Nat := 0x03
def PATHS : Nat := 0x04
def STACK : Nat := 0x05
def UNGUARD : Nat := 0x06
def IDEMP : Nat := 0x07
def BOUNDS : Nat := 0x08
def STALE : Nat := 0x09
def PAGE : Nat := 0x0A
def PERM : Nat := 0x0B
def MAPGEN : Nat := 0x0C
def REMOTE : Nat := 0x0D
def RTIMEOUT : Nat := 0x0E
def ALIGN : Nat := 0x0F
def TASKOVF : Nat := 0x10
def FRAME : Nat := 0x11
def ENGINE : Nat := 0x12
def SIG : Nat := 0x13
def UE : Nat := 0x14
def TRAP : Nat := 0x15
def BRK : Nat := 0x16
def GROWMAX : Nat := 0x17
def OBJGONE : Nat := 0x18
def FORMAT : Nat := 0x19
def REGION : Nat := 0x1A

/-- BOUNDS, STALE, TRAP and BRK may enter the trap segment (R335). -/
def handlerEligible (code : Nat) : Bool := [BOUNDS, STALE, TRAP, BRK].contains code

/-- TRAPCAUSE after a fault (R82): COUNT saturates at 0xFFFF. -/
def trapCauseOf (old : Word) (lane : Option Nat) (code : Nat) : Word :=
  let n := bits old 31 16
  BitVec.ofNat 32 ((if n = 0xFFFF then n else n + 1) * 2 ^ 16 + (lane.elim 0 (fun l => 2 ^ 15 + l * 256)) + code)

/-- TRAPPC: the offset, with LST set for the lane stream (R82). -/
def trapPcOf (lst : Bool) (off : Nat) : Word := BitVec.ofNat 32 (lst.toNat * 2 ^ 31 + off % 2 ^ 24)

/-- Writes TRAPCAUSE, TRAPPC and TRAPADDR (R82). -/
def Ctx.recordFault (c : Ctx) (code : Nat) (lane : Option Nat) (pc addr : Word) : Ctx :=
  { c with trapCause := trapCauseOf c.trapCause lane code, trapPc := pc, trapAddr := addr }

/-- The lowest lane of a mask, 64 for none. -/
def lowestLane (m : LaneMask) : Nat := ((List.range 64).find? (fun i => m.getLsbD i)).getD 64

/-- The checkpoint of the context as it stands (R329). -/
def Ctx.checkpoint (c : Ctx) (clause : Nat) (preds : Bool) : Checkpoint :=
  ⟨c.paths, c.run, c.calls, c.loops, clause, if preds then some c.preds else none, c.sregBad.filter (256 ≤ ·), none, none⟩

/-- The live path that holds the lowest live lane, else the running path (R337). -/
def Ctx.lowestPath (c : Ctx) : Nat :=
  let l := lowestLane c.liveMask
  (c.paths.findIdx? (fun p => p.state ≠ 0 && p.held.getLsbD l)).getD c.run

/-- A handler-eligible fault stops the scalar stream (R337, steps 2 to 4): for a lane fault the lane stream too, with its
clauses, the store buffer and the replay set; for a scalar fault the clauses enqueued before it run to completion first. -/
def Ctx.stopForTrap (c : Ctx) (laneFault : Bool) : Ctx :=
  { c with
    clauses := if laneFault then [] else c.clauses
    rsb := if laneFault then [] else c.rsb
    replay := if laneFault then [] else c.replay
    reissue := if laneFault then [] else c.reissue
    phase := 0
    mode := .trap }

/-- Entry to the trap segment (R337, steps 3 to 8): the store buffer and the replay set go, one path with every live lane
stands at the segment, the stacks are empty, and an implicit safe point is taken (R330). -/
def Ctx.enterTrap (c : Ctx) (seg : Pc) (nextId : Nat) : Ctx :=
  let p := c.paths.getD c.lowestPath defaultPath
  let e : PathEntry := ⟨1, seg, c.liveMask, c.liveMask, 0, p.priv, p.sig, []⟩
  let c1 := { c with
    clauses := []
    rsb := []
    replay := []
    reissue := []
    paths := e :: List.replicate (c.paths.length - 1) defaultPath
    sregBad := copyMarks c.sregBad c.lowestPath 0
    run := 0
    calls := []
    loops := []
    regionLen := 0
    live := none
    armed := true
    phase := 0
    mode := .run }
  { c1 with ckpt := { c1.checkpoint nextId false with trap := some (c1.trapCause, c1.trapPc, c1.trapAddr) } }

/-- The trap segment of the context's launch, 0xFFFF for none (R135). -/
def trapSegOf (s : State) (c : Ctx) : Nat := (getLaunch s c.launch).elim 0xFFFF (fun l => bits (l.words.getD 15 0) 15 0)

/-- WAITA's object: the kind, its address, and its WAITERS half-word. -/
def waitaRing (c : Ctx) (a : Reg) : Bool := (c.sreg a.toNat).getLsbD 0
def waitaAddr (c : Ctx) (a : Reg) : Nat := (c.sreg a.toNat &&& 0xFFFFFFFE).toNat

/-- WAITERS of an object becomes `f` of itself (R150, R152). -/
def modWaiters (s : State) (k : Nat) (ring : Bool) (f : Nat → Nat) : State :=
  let o := k + (if ring then 28 else 8)
  writeBytes s o (leBytes 2 (f (leNat (readBytes s o 2)) % 65536))

/-- A suspension in WAITA ends without a return: its object, where it still stands, counts one waiter less (R221, R341). -/
def dropWait (s : State) (c : Ctx) : State :=
  match c.mode with
  | .waita (.waita _ _ a _) _ _ =>
    let addr := waitaAddr c a
    let k := coreKey c.core addr
    if tagAt s k ≠ 0 && tagAt s k = ownerGen (getCore s c.core).rows (addr / 256) then
      modWaiters s k (waitaRing c a) (· - 1)
    else s
  | _ => s

/-- A fatal fault: an error record, the context stops, and the kill is due (R335, R339). -/
def fatal (s : State) (c : Ctx) (code : Nat) (lane : Option Nat) (pc : Word) : State :=
  let s1 := ctxError (setCtx (dropWait s c) { c with mode := .faulted }) c 3 code lane 0 pc 0
  { s1 with kills := s1.kills ++ [⟨c.launch, BitVec.ofNat 8 code⟩] }

/-- Taking a fault that is not replayable (R82, R335, R337 to R339): in a sequencer it is fatal and writes no register; in
a group or task it writes TRAPCAUSE, TRAPPC and TRAPADDR, and stops for the trap segment or is fatal. A handler-eligible
fault on the way into the segment is fatal like one before its first commit (R338). -/
def takeFault (s : State) (c : Ctx) (code : Nat) (lane : Option Nat) (lst : Bool) (off : Nat) (addr : Word) : State :=
  let pc := trapPcOf lst off
  if c.isGroup then
    let c1 := c.recordFault code lane pc addr
    let seg := trapSegOf s c
    if handlerEligible code && seg ≠ 0xFFFF && !c.armed && c.mode ≠ .trap then
      setCtx (dropWait s c) (c1.stopForTrap lst)
    else fatal s c1 code lane pc
  else fatal s c code lane pc

/-- A replayable fault stops both streams and discards the region (R333): its store buffer and the clauses enqueued after
the checkpoint. -/
def Ctx.stopRegion (c : Ctx) : Ctx :=
  { c with rsb := [], committing := false, clauses := c.clauses.filter (fun q => q.id < c.ckpt.clause) }

/-- The context as it is taken back to its checkpoint with no fault of its own: as for a page fault whose batch has been passed, which
batch 0 stands for; one whose fetch waits for a batch waits for it still (R324, R333, R401; log entry 118). -/
def Ctx.toReplay (c : Ctx) : Ctx :=
  let mode : Mode := match c.mode with
    | .fetch b => .page b
    | .batch recs _ => .batch recs false
    | .page b => .page b
    | .notice r => .notice r
    | _ => .page 0
  { c.stopRegion with mode := mode }

/-- A change of a space cancels a region (R324, step 2). A fatal fault stands, and the stores of a group on its way into its trap
segment are discarded there (R337, R341); a halted group is replayed when it is resumed; a WAITA's suspension ends without a return. -/
def cancelRegion (s : State) (c : Ctx) : State :=
  match c.mode with
  | .faulted | .ended | .trap => s
  | .halted _ => setCtx s { c.stopRegion with cancelled := true }
  | _ => setCtx (dropWait s c) c.toReplay

/-- The groups of a restored launch whose regions were cancelled in their saves are replayed. -/
def replayCancelled (s : State) (launch : Nat) : State :=
  (s.ctxs.filter (fun c => c.launch = launch && c.cancelled)).foldl cancelRegion s

/-- PAGE in a group or task (R118, R333): the registers of R82, one batch of records, and the wait for it. `recs` are the
records' words w1 to w7. -/
def takePage (s : State) (c : Ctx) (lane : Option Nat) (lst : Bool) (off : Nat) (recs : List (List Word)) : State :=
  let c1 := (c.recordFault PAGE lane (trapPcOf lst off) 0).stopRegion
  if fqRoom s recs.length then
    let (b, s1) := fqBatch (dropWait s c) recs
    setCtx s1 { c1 with mode := .page b }
  else fqJoin (setCtx (dropWait s c) { c1 with mode := .batch recs false }) (.scalar c.id)

/-- The return from a replayable fault (R333, R334): the checkpoint is restored, less lanes that died since; a lane that a
checkpointed path holds has not exited (R45, R65). -/
def Ctx.restore (c : Ctx) : Ctx :=
  let k := c.ckpt
  let alive (m : LaneMask) : LaneMask := m &&& ~~~ c.dmk
  let c1 := { c with
    exited := c.exited &&& ~~~ (k.paths.foldl (fun m p => m ||| p.held) 0)
    paths := k.paths.map (fun p => { p with mask := alive p.mask, held := alive p.held,
                                            meets := p.meets.map (fun m => (m.1, alive m.2)) })
    run := k.run
    calls := k.calls
    loops := k.loops
    preds := k.preds.getD c.preds
    sregBad := c.sregBad.filter (fun n => n < 256 || (k.preds.isNone && 512 ≤ n)) ++
      k.bad.filter (fun n => k.preds.isSome || n < 512)
    regionLen := 0
    reissue := c.replay
    cancelled := false
    phase := 0
    mode := .run }
  let c2 := match k.seg with
    | some a => c1.setSregRun 248 a
    | none => c1
  match k.trap with
  | some (cause, pc, addr) =>
    { c2 with trapCause := (c2.trapCause &&& 0xFFFF0000) ||| (cause &&& 0xFFFF), trapPc := pc, trapAddr := addr }
  | none => c2

end Sys2Proof.Machine
end

