-- ==== Sys2Proof/Machine/Access.lean ====
section
/-! DEFINITION. Access to the memories: who may touch a core-store byte, the region store buffer, the L1 portion, leases and
the homes, commit and the release steps of a fence (R83 to R92, R116, R223, R252, R309 to R317). -/

namespace Sys2Proof.Machine

/-! What a context may touch (R86, R89) -/

/-- An allocation as an access sees it: its generation, its policy bit, and whether it is the group's own registers. -/
structure Alloc where
  gen : BitVec 12
  policy : Bool
  own : Bool
deriving DecidableEq, Repr

/-- The grid sequencer of a launch. -/
def gridOf (s : State) (l : Nat) : Option Ctx := s.ctxs.find? (fun c => c.launch == l && c.level == 4)

def launchStale (s : State) (l : Nat) : Bool := (getLaunch s l).elim false Launch.stale

/-- VLT, ACC, SCR and REG as the context reads them (R81), from bit 3 down. -/
def effPols (s : State) (c : Ctx) : BitVec 4 :=
  let region := launchStale s c.launch
  let blk := if c.isGroup && !c.task then (c.parent.bind (getCtx s)) else none
  let vlt := (gridOf s c.launch).elim region Ctx.polVlt
  let acc := if c.level == 2 then c.polAcc else blk.elim region Ctx.polAcc
  let scr := if c.level == 2 then c.polScr else blk.elim region Ctx.polScr
  let reg := if c.isGroup then c.polReg else region
  BitVec.ofBool vlt ++ BitVec.ofBool acc ++ BitVec.ofBool scr ++ BitVec.ofBool reg

/-- The allocation that the context may touch at a byte of its own core (R86). -/
def allocAt (c : Ctx) (pols : BitVec 4) (off : Nat) : Option Alloc :=
  let row := off / 256
  if coreStoreEnd ≤ off then none
  else if c.regBase ≤ row && row < c.regBase + c.vregs then some ⟨c.regGen, pols.getLsbD 0, true⟩
  else if c.table ≤ row && row < c.table + 16 then some ⟨c.tableGen, pols.getLsbD 1, false⟩
  else if c.scrRow ≤ row && row < c.scrRow + c.scrRows then some ⟨c.scrGen, pols.getLsbD 1, false⟩
  else none

/-- The allocation of an access of `n` bytes, none when any byte lies outside what the context may touch (R86). -/
def allocOf (c : Ctx) (pols : BitVec 4) (off n : Nat) : Option Alloc :=
  match allocAt c pols off, allocAt c pols (off + n - 1) with
  | some a, some _ => some a
  | _, _ => none

/-- The block of a group (R27). -/
def blockOf (s : State) (c : Ctx) : Option Ctx := c.parent.bind (getCtx s)

/-- The group's block is spread over several cores, so block scope is cluster scope (R27). -/
def spread (s : State) (c : Ctx) : Bool := !c.task && ((blockOf s c).elim 0 (fun b => b.cores.length)) > 1

/-- A memory scope as the group takes it (R27). -/
def effScope (s : State) (c : Ctx) (sc : Nat) : Nat := if sc = 2 && spread s c then 3 else sc

/-- The launch declares the block scratchpads cluster-shared (R135). -/
def cshare (s : State) (c : Ctx) : Bool := (getLaunch s c.launch).elim false (fun l => (l.words.getD 0 0).getLsbD 3)

/-- The grants that qualify for a peer access of the group to core `j` of its cluster (R89). -/
def qualifying (s : State) (c : Ctx) (j : Nat) : List Grant :=
  (getCluster s c.cluster).grants.filter (fun g => g.grid = c.launch && g.core = c.cluster * 4 + j && !c.task &&
    (some g.block = c.parent || cshare s c))

/-- The peer base of SCR (R325): the issuing block's grant, else the qualifying grant of the lowest first row. -/
def peerScrBase (s : State) (c : Ctx) (j : Nat) : Option Nat :=
  let gs := qualifying s c j
  match gs.find? (fun g => some g.block = c.parent) with
  | some g => some ((g.first + 16) * 256)
  | none => (gs.map (fun g => g.first)).min?.map (fun f => (f + 16) * 256)

/-- The qualifying grant that covers a byte of core `j` (R89). -/
def grantAt (s : State) (c : Ctx) (j off : Nat) : Option Grant :=
  (qualifying s c j).find? (fun g => g.first ≤ off / 256 && off / 256 < g.first + g.count)

/-! The region store buffer (R116, R252) -/

/-- The line of a byte's place. -/
def Place.line : Place → Place
  | .here k => .here (k / 128)
  | .peer d a => .peer d (a / 128)
def Place.offset : Place → Nat
  | .here k => k % 128
  | .peer _ a => a % 128
/-- The place lies in this device or in host memory. -/
def Place.isHere : Place → Bool
  | .here _ => true
  | .peer _ _ => false
/-- The place `n` bytes on. -/
def Place.plus : Place → Nat → Place
  | .here k, n => .here (k + n)
  | .peer d a, n => .peer d (a + n)

/-- The newest buffered byte at a place (R116). -/
def rsbByte (c : Ctx) (p : Place) : Option Byte :=
  (c.rsb.reverse.find? (fun e => e.line = p.line && e.bytes.any (fun b => b.1 = p.offset))).bind
    (fun e => (e.bytes.find? (fun b => b.1 = p.offset)).map Prod.snd)

/-- The buffered bytes of an access of `n` bytes. -/
def rsbBytes (c : Ctx) (p : Place) (n : Nat) : List (Option Byte) := (List.range n).map (fun i => rsbByte c (p.plus i))

/-- A byte table with `v` at `k`, rising keys; zero bytes are listed too. -/
def putByte : Sparse Byte → Nat → Byte → Sparse Byte
  | [], k, v => [(k, v)]
  | (k', w) :: r, k, v => if k < k' then (k, v) :: (k', w) :: r else if k = k' then (k, v) :: r else (k', w) :: putByte r k v

/-- Merges a byte into the newest entry of its line, where that one was written after the accesses below `bound`. -/
def mergeNewest (line : Place) (off : Nat) (v : Byte) (sc : BitVec 3) (stamp bound : Nat) : List BufEntry → Option (List BufEntry)
  | [] => none
  | e :: r =>
    if r.any (fun x => x.line = line) then (mergeNewest line off v sc stamp bound r).map (fun r' => e :: r')
    else if e.line = line && bound ≤ e.stamp then
      some ({ e with bytes := putByte e.bytes off v, scope := if e.scope.toNat < sc.toNat then sc else e.scope,
                     stamp := stamp } :: r)
    else none

/-- One byte of a store instruction. -/
structure StoreByte where
  place : Place
  /-- Its virtual address, for a byte of an address space. -/
  va : Nat
  /-- The generation of a core-store or vault byte. -/
  gen : Option (BitVec 12)
  val : Byte
deriving DecidableEq, Repr

/-- The bytes of an element, lowest first. -/
def elementBytes (p : Place) (va : Nat) (gen : Option (BitVec 12)) (bs : List Byte) : List StoreByte :=
  (List.range bs.length).map (fun i => ⟨p.plus i, va + i, gen, bs.getD i 0⟩)

/-- An identity above those of the lane accesses outstanding now. -/
def Ctx.storeStamp (c : Ctx) : Nat := c.flights.foldl (fun n f => max n (f.id + 1)) 0

/-- The same of the outstanding atomics on a line. -/
def Ctx.atomicBound (c : Ctx) (line : Place) : Nat :=
  (c.flights.filter (fun f => f.kind == .atomic && f.accs.any (fun a => a.place.elim false (fun p => p.line = line)))).foldl
    (fun n f => max n (f.id + 1)) 0

/-- Buffers the bytes of one store instruction in order: a relaxed store merges into the newest entry of its line, a
release store opens a new entry for each line (R116, R252). A store behind an outstanding atomic on the line opens a new entry
too, so that the accesses to a byte keep their issue order (R249; log entry 97). -/
def bufferBytes (c : Ctx) (sc : BitVec 3) (rel : Bool) (asid mg : BitVec 16) : List Place → List BufEntry → List StoreByte → List BufEntry
  | _, es, [] => es
  | opened, es, b :: r =>
    let l := b.place.line
    let new : BufEntry := ⟨l, b.va / 128, [(b.place.offset, b.val)], sc, rel, asid, mg, b.gen, c.storeStamp⟩
    if rel && !opened.contains l then bufferBytes c sc rel asid mg (l :: opened) (es ++ [new]) r
    else
      match mergeNewest l b.place.offset b.val sc c.storeStamp (c.atomicBound l) es with
      | some es' => bufferBytes c sc rel asid mg opened es' r
      | none => bufferBytes c sc rel asid mg (l :: opened) (es ++ [new]) r

/-- The store buffer after a store, none where it would need a 33rd entry (R116). -/
def bufferStore (c : Ctx) (sc : BitVec 3) (rel : Bool) (asid mg : BitVec 16) (bs : List StoreByte) : Option Ctx :=
  let es := bufferBytes c sc rel asid mg [] c.rsb bs
  if es.length ≤ 32 then some { c with rsb := es } else none

/-! Homes and leases (R310, R311) -/

/-- Which part of memory a key lies in. -/
inductive Space where
  | hbm
  | host
  | vault (v off : Nat)
  | core (k off : Nat)
  | other
deriving DecidableEq, Repr

def spaceOf (k : Nat) : Space :=
  if k < 2 ^ 52 then .hbm
  else if k < 2 ^ 65 then .host
  else if k < 2 ^ 66 then .vault ((k - 2 ^ 65) / 2 ^ 24) ((k - 2 ^ 65) % 2 ^ 24)
  else if k < 2 ^ 67 then .core ((k - 2 ^ 66) / 2 ^ 21) ((k - 2 ^ 66) % 2 ^ 21)
  else .other

/-- The physical address that an error record names (R340): of HBM or host memory, or the address in its vault or core. -/
def physAddr (k : Nat) : Nat :=
  match spaceOf k with
  | .hbm => k
  | .host => k - 2 ^ 52
  | .vault v off => v * 2 ^ 24 + off
  | .core _ off => off
  | .other => 0

/-- The die of a byte's home (R310; log entry 15 for HBM). -/
def homeDie (k : Nat) : BitVec 1 :=
  match spaceOf k with
  | .hbm => if k < hbmBytes / 2 then 0 else 1
  | .vault v _ => clusterDie v
  | .core n _ => clusterDie (n / 4)
  | _ => 0

/-- The time at the home of a line. -/
def lineTime (s : State) : Place → Nat
  | .here l => dieTime s (homeDie (l * 128))
  | .peer _ _ => s.time0

/-- T = max(arrival, horizon + 8) for a write that reaches the home now (R311); of a write to a peer, die 0's copy of device time
(R19; log entry 109). -/
def dueTime (s : State) (line : Place) : Nat :=
  match line with
  | .here l =>
    let h := sget 0 s.horizons l
    if h = 0 then lineTime s line else max (lineTime s line) (h + 8)
  | .peer _ _ => s.time0

/-- The hash lane of a physical line address (R122). -/
def hashLane (a : Nat) : Nat :=
  (List.range 11).foldl (fun h i => h ^^^ (a / 2 ^ (7 + 4 * i) % 16)) (a / 2 ^ 51 % 2)

/-- The lane in which a request of a core travels to the other die (R122): the source die, and the hash of the line; none where
the core's own die is the home's. A lane's source is the die, whose cores send in the order of their steps (log entry 116). The
parser and the memory manager, for which `core` is none, stand on die 0 (R11). -/
def linkLane (core : Option Nat) : Place → Option (BitVec 1 × Nat)
  | .here l =>
    let die := core.elim 0 (fun k => clusterDie (k / 4))
    if die = homeDie (l * 128) then none else some (die, hashLane (l * 128 % 2 ^ 52))
  | .peer _ _ => none

/-- A write is sent to its home (R311); it is on its way until its arrival, which for a peer the model does not tell apart from
its sending. -/
def homePush (s : State) (line : Place) (bytes : Sparse Byte) (ctx core : Option Nat) (system : Bool)
    (gen : Option (BitVec 12)) (poison : BitVec 2) (op : Option (Nat × Nat) := none) (space : Option (BitVec 16) := none) : State :=
  { s with
    homeQ := s.homeQ ++ [⟨s.nextId, line, bytes, poison, ctx, core, dueTime s line, system, gen, op, space, none, !line.isHere, false⟩]
    nextId := s.nextId + 1 }

/-- A write waits at the home of the line, so it grants no lease and serves no read there (R311). -/
def homeBusy (s : State) (line : Place) : Bool := s.homeQ.any (fun w => w.line = line && w.arrived)

/-- A request of a core, or of a control core, for the line comes behind a write on its way in the same lane of the link between
the dies (R122). -/
def linkAhead (s : State) (core : Option Nat) (line : Place) : Bool :=
  (linkLane core line).any (fun l => s.homeQ.any (fun w => !w.arrived && linkLane w.core w.line = some l))

/-- A write that a request of a core, or of a control core, for the line cannot pass is on its way: a store or write-back of its
own to that line (R249, R313), or one ahead in its lane (R122). -/
def onWay (s : State) (core : Option Nat) (line : Place) : Bool :=
  s.homeQ.any (fun w => !w.arrived && w.line = line && w.core = core && w.op.isNone) || linkAhead s core line

/-- A read by a core is held: a write waits at the home, or the core has one on the way. -/
def readHeld (s : State) (core : Option Nat) (line : Place) : Bool := homeBusy s line || onWay s core line

/-- The same of a context's core. -/
def homeHeld (s : State) (c : Ctx) (line : Place) : Bool := readHeld s (some c.core) line

/-- A place at the home for a read-modify-write of a global line (R311). At a home of this device it has arrived; at the host its
arrival is that of the host's completion (R320). -/
def holdPlace (s : State) (l : Nat) (h : Holder) (core : Nat) (space : Option (BitVec 16)) : State :=
  { s with
    homeQ := s.homeQ ++ [⟨s.nextId, .here l, [], 0, none, some core, dueTime s (.here l), false, none, none, space, some h,
      spaceOf (l * 128) ≠ .host, false⟩]
    nextId := s.nextId + 1 }

/-- A read-modify-write of a global line (R311): the state in which its turn has come, or the one in which it waits, on its way
behind its core's earlier writes or holding its place behind what reached the home before it. -/
def homeTurn (s : State) (l : Nat) (h : Holder) (core : Nat) (space : Option (BitVec 16)) : Except State State :=
  match s.homeQ.findIdx? (fun w => w.hold = some h && w.line = .here l) with
  | some i =>
    if (s.homeQ[i]?).any (fun w => !w.arrived || lineTime s (.here l) < w.due) ||
        (s.homeQ.take i).any (fun w => w.line = .here l && w.arrived) then .error s
    else .ok { s with homeQ := s.homeQ.filter (fun w => !(w.hold = some h && w.line = .here l)) }
  | none =>
    if onWay s (some core) (.here l) then .error s
    else if !homeBusy s (.here l) && dueTime s (.here l) ≤ lineTime s (.here l) && spaceOf (l * 128) ≠ .host then .ok s
    else .error (holdPlace s l h core space)

/-- The scalar instruction at the context's pc holds a place in a queue. -/
def scalarHolds (s : State) (c : Ctx) : Bool := s.homeQ.any (fun w => w.hold = some (.scalar c.id c.pc))

/-- WCT becomes the larger of its value and a completion time (R67). -/
def raiseWct (s : State) (ctx : Option Nat) (t : Nat) : State :=
  match ctx with
  | some id => modCtx s id (fun c => { c with wct := max c.wct t })
  | none => s

/-- The vaults of a die that can cache HBM (R91). -/
def cacheVaults (s : State) (d : BitVec 1) : List Nat :=
  (List.range 48).filter (fun v => clusterDie v = d && (getVault s v).share ≠ 0)

/-- A cached line more in vault `v` than its share holds takes the place of another (R16, R91); which one changes no byte. -/
def cacheRoom (s : State) (v l : Nat) : State :=
  let held := s.dcache.filter (fun x => x.2.1 = v && x.1 ≠ l)
  if held.length < (getVault s v).share * 8192 then s
  else { s with dcache := sput (0, false) s.dcache ((held.head?.map Prod.fst).getD l) (0, false) }

/-- The device cache takes a line that is read or written at its home (R91; log entry 15 for the hash). -/
def cacheTouch (s : State) (l : Nat) (dirty : Bool) : State :=
  let vs := cacheVaults s (homeDie (l * 128))
  if spaceOf (l * 128) ≠ .hbm || vs.isEmpty then s
  else
    let v := vs.getD (l % vs.length) 0
    let was := (sget (0, false) s.dcache l).2
    let s1 := cacheRoom s v l
    { s1 with dcache := sput (0, false) s1.dcache l (v, dirty || was) }

/-- The bytes of a write land at a home (R92, R101, R310, R347). -/
def landBytes (s : State) (l : Nat) (gen : Option (BitVec 12)) (bytes : Sparse Byte) : State :=
  match gen, spaceOf (l * 128) with
  | some g, .vault n off => vaultWriteAt s n off g bytes
  | _, _ =>
    clearCovered { s with mem := bytes.foldl (fun m b => memWrite m (l * 128 + b.1) b.2) s.mem } (bytes.map (fun b => l * 128 + b.1))

/-- The access counter of a remote region counts a line fetch (R98; log entry 8 for the region's number). -/
def accessRegion : Place → Option Nat
  | .here k => match spaceOf k with
    | .host => some ((k - 2 ^ 52) / 2 ^ 21)
    | _ => none
  | .peer d a => some (2 ^ 40 + d.toNat * 2 ^ 31 + a / 2 ^ 21)

def countAccess (s : State) (p : Place) (counted : Bool) : State :=
  match (if counted then accessRegion p else none) with
  | some r =>
    let (n, w) := sget (0, false) s.access r
    { s with access := sput (0, false) s.access r (if n = 0xFFFF then n else n + 1, w) }
  | none => s

/-- A write has reached a remote region (R98). -/
def markWritten (s : State) (p : Place) : State :=
  match accessRegion p with
  | some r => { s with access := sput (0, false) s.access r ((sget (0, false) s.access r).1, true) }
  | none => s

/-- A vault write whose generation no longer owns its unit is late (R102). -/
def lateAt (s : State) (l : Nat) (gen : Option (BitVec 12)) : Bool :=
  match gen, spaceOf (l * 128) with
  | some g, .vault v off => ownerGen (getVault s v).units (off / 65536) ≠ g
  | _, _ => false

/-- The completion time of a write that its home performs now: T, and for host memory the time at which the host's completion
arrives (R311, R320). -/
def completionTime (s : State) (l due : Nat) : Nat := if spaceOf (l * 128) = .host then max due (lineTime s (.here l)) else due

/-- The home performs a write and returns its completion time; a late one returns none (R102, R158, R311). -/
def homePerform (s : State) (w : HomeWrite) : State :=
  let s1 := { s with homeQ := s.homeQ.filter (fun x => x.id ≠ w.id) }
  match w.line with
  | .here l =>
    let s2 := landBytes s1 l w.gen w.bytes
    let hit := w.bytes.filter (fun b => w.poison.getLsbD (b.1 / 64))
    let s3 := if hit.isEmpty then s2 else { s2 with poison := s2.poison ++ (hit.map (fun b => (l * 128 + b.1) / 64)).eraseDups }
    let s4 := markWritten (cacheTouch s3 l true) (.here (l * 128))
    if lateAt s l w.gen then s4 else raiseWct s4 w.ctx (completionTime s l w.due)
  | .peer _ _ => s1

/-! The L1 portion (R88) -/

/-- The line of an address space and map generation in a core's L1. -/
def findLine (c : Core) (asid mg : BitVec 16) (line : Place) : Option Line :=
  c.lines.find? (fun x => x.line = line && x.asid = asid && x.mapgen = mg)

def putLine (c : Core) (x : Line) : Core :=
  let rest := c.lines.filter (fun y => !(y.line = x.line && y.asid = x.asid && y.mapgen = x.mapgen))
  { c with lines := x :: rest }

/-- The L1 portion, in rows (R83). -/
def l1Rows (k : Core) : Nat := 6144 - (k.rows.map Run.count).sum - k.rewriting.length

/-- The dirty bytes of a line. -/
def Line.dirtyBytes (x : Line) : Sparse Byte := x.bytes.filter (fun b => x.dirty.getLsbD b.1)

/-- The physical address that an error record names. -/
def placeAddr : Place → Nat
  | .here k => physAddr k
  | .peer _ a => a

/-- The context of the allocation that owns a line's dirty bytes. -/
def lineOwner (s : State) (k : Nat) (g : BitVec 12) : Option Ctx :=
  ((getCore s k).rows.find? (fun r => r.gen = g && (r.kind = 1 || r.kind = 2))).bind (fun r => getCtx s r.owner)

/-- An error record with OWNUNK set (R340). -/
def unowned : List Word → List Word
  | w :: r => (w ||| 0x8000) :: r
  | [] => []

/-- w3 of a record of a core's (R340). -/
def coreWhere (k slot : Nat) : Word := BitVec.ofNat 32 ((clusterDie (k / 4)).toNat * 2 ^ 24 + k / 4 * 2 ^ 16 + slot * 256 + k)

/-- The record of a write-back of uncorrectable data: KIND 5 (R339, R340, R347). -/
def poisonRecord (s : State) (k : Nat) (x : Line) : State :=
  let die := clusterDie (k / 4)
  let addr := match x.line with
    | .here l => placeAddr (.here (l * 128))
    | .peer d l => placeAddr (.peer d (l * 128))
  let r := match lineOwner s k x.owner with
    | some c => errorRecord s 5 0 none c.level.toNat (coreWhere k (if c.isGroup then c.slot else 0)) addr 0 0 die
    | none => unowned (errorRecord s 5 0 none 0 (coreWhere k 0) addr 0 0 die)
  pushError s r

/-- The granules of a line, low and high, that a write-back finds uncorrectable: those that were fetched so, and `upset`, where a
dirty byte stands in them (R92, R347). -/
def Line.badDirty (x : Line) (upset : BitVec 2) : BitVec 2 :=
  let dirty (h : Nat) : Bool := x.dirtyBytes.any (fun b => b.1 / 64 = h)
  (x.bad ||| upset) &&& (BitVec.ofBool (dirty 1) ++ BitVec.ofBool (dirty 0))

/-- A dirty line's dirty bytes are sent to the home and the line is clean (R88); uncorrectable ones go as poison, with a record
(R92, R347). -/
def writeBackLine (s : State) (k : Nat) (x : Line) (ctx : Option Nat) (upset : BitVec 2 := 0) : State :=
  if x.dirty = 0 then s
  else
    let bad := x.badDirty upset
    let s0 := if bad = 0 then s else poisonRecord s k x
    let s1 := homePush s0 x.line x.dirtyBytes ctx (some k) false none bad none (some x.asid)
    setCore s1 k (putLine (getCore s1 k) { x with dirty := 0, owner := 0, scope := 0 })

/-- A line is written back if dirty, and dropped (R83, R88). -/
def evictLine (s : State) (k : Nat) (x : Line) : State :=
  let s1 := writeBackLine s k x none
  let c := getCore s1 k
  setCore s1 k { c with lines := c.lines.filter (fun y => !(y.line = x.line && y.asid = x.asid && y.mapgen = x.mapgen)) }

/-- The L1 portion holds two lines to a row (R83, R88): at most `n` lines beyond that go, the ones least recently filled or
stored to first and pinned ones last (log entry 55 for the choice). -/
def trimLines (s : State) (k : Nat) : Nat → State
  | 0 => s
  | n + 1 =>
    let c := getCore s k
    if c.lines.length ≤ 2 * l1Rows c then s
    else
      match ((c.lines.filter (fun x => !x.pinned)).getLast?).or c.lines.getLast? with
      | some x => trimLines (evictLine s k x) k n
      | none => s

/-- A core after an allocation has taken rows: the lines held in them are written back and dropped (R83, R106). -/
def rowsTaken (s : State) (k : Nat) : State := trimLines s k (getCore s k).lines.length

/-- Every dirty line of a core is written back (R223). -/
def writeBackAll (s : State) (k : Nat) (ctx : Option Nat) : State :=
  (getCore s k).lines.foldl (fun s x => writeBackLine s k x ctx) s

def emptyLine (asid mg : BitVec 16) (line : Place) : Line := ⟨asid, mg, line, 0, [], 0, 0, 0, false, 0⟩

/-- A store that covers a granule of a line whole clears its error (R347). -/
def Line.mended (x : Line) (bytes : Sparse Byte) : Line :=
  let whole (h : Nat) : Bool := (bytes.filter (fun b => b.1 / 64 = h)).length = 64
  { x with bad := x.bad &&& ~~~(BitVec.ofBool (whole 1) ++ BitVec.ofBool (whole 0)) }

/-- Bytes of a store enter a line: bytes, dirty bits, scope and owner (R88). -/
def lineStore (x : Line) (sc : BitVec 3) (owner : BitVec 12) : Sparse Byte → Line
  | [] => x
  | (o, v) :: r =>
    lineStore { x with bytes := putByte x.bytes o v, dirty := x.dirty ||| BitVec.twoPow 128 o,
                       scope := if x.scope.toNat < sc.toNat then sc else x.scope, owner := owner } sc owner r

/-- A store at block scope or narrower is performed in the core's L1 (R88, R315). -/
def l1Store (s : State) (k : Nat) (asid mg : BitVec 16) (line : Place) (sc : BitVec 3) (owner : BitVec 12)
    (bytes : Sparse Byte) : State :=
  let x0 := (findLine (getCore s k) asid mg line).getD (emptyLine asid mg line)
  let s1 := if x0.dirty ≠ 0 && x0.owner ≠ owner then writeBackLine s k x0 none else s
  let x1 := (findLine (getCore s1 k) asid mg line).getD (emptyLine asid mg line)
  trimLines (setCore s1 k (putLine (getCore s1 k) ((lineStore x1 sc owner bytes).mended bytes))) k 1

/-- The offsets of a byte table as a mask of a line. -/
def offsetMask (bytes : Sparse Byte) : BitVec 128 := bytes.foldl (fun m b => m ||| BitVec.twoPow 128 b.1) 0

/-- A line without the dirty bits of a mask; with none left it is clean (R88). -/
def Line.cleaned (x : Line) (m : BitVec 128) : Line :=
  let d := x.dirty &&& ~~~m
  if d = 0 then { x with dirty := 0, owner := 0, scope := 0 } else { x with dirty := d }

/-- A store at cluster scope or wider updates a line that is present; its bytes go to the home and are not dirty here, whatever
store wrote them before (R88, R313). -/
def l1Update (s : State) (k : Nat) (asid mg : BitVec 16) (line : Place) (bytes : Sparse Byte) : State :=
  match findLine (getCore s k) asid mg line with
  | none => s
  | some x =>
    let y : Line := { x with bytes := bytes.foldl (fun t b => putByte t b.1 b.2) x.bytes }
    setCore s k (putLine (getCore s k) ((y.mended bytes).cleaned (offsetMask bytes)))

/-- The bytes of a line at its home. -/
def homeLine (s : State) (l : Nat) : Sparse Byte :=
  (List.range 128).map (fun o => (o, memRead s.mem (l * 128 + o)))

/-- The home's bytes with the dirty bytes of the old copy laid over them (R88). -/
def overlayDirty (home : Sparse Byte) (x : Line) : Sparse Byte :=
  x.dirtyBytes.foldl (fun t b => putByte t b.1 b.2) home

/-- The stores and write-backs of a core to a line that its home has not performed, as one mask of uncorrectable granules and one
table of bytes, in the order sent. -/
def ownWrites (s : State) (k : Nat) (asid : BitVec 16) (line : Place) : BitVec 2 × Sparse Byte :=
  (s.homeQ.filter (fun w => w.core = some k && w.line = line && w.space = some asid && w.op.isNone)).foldl
    (fun t w => (t.1 ||| w.poison, w.bytes.foldl (fun t b => putByte t b.1 b.2) t.2)) (0, [])

/-- A line's bytes from its home enter the core's copy, with a lease; what the core has sent there and the home has not performed
lies over them (R313), dirty bytes over both, and a pin stays (R88, R253). -/
def fillLine (s : State) (k : Nat) (asid mg : BitVec 16) (line : Place) (home : Sparse Byte) (bad : BitVec 2) (leaseEnd : Nat) : State :=
  let old := (findLine (getCore s k) asid mg line).getD (emptyLine asid mg line)
  let own := ownWrites s k asid line
  let y : Line := { old with leaseEnd := leaseEnd, bytes := overlayDirty (own.2.foldl (fun t b => putByte t b.1 b.2) home) old, bad := bad }
  let x := y.mended own.2
  trimLines (setCore s k (putLine (getCore s k) { x with bad := x.bad ||| own.1 })) k 1

/-- The uncorrectable granules of a line at its home, low and high (R347). -/
def homeBad (s : State) (l : Nat) : BitVec 2 := BitVec.ofBool (poisonAt s (l * 128 + 64)) ++ BitVec.ofBool (poisonAt s (l * 128))

/-- A read at the home refreshes the core's copy with a new lease (R88, R312). -/
def l1Fill (s : State) (k : Nat) (die : BitVec 1) (lease : Nat) (asid mg : BitVec 16) (l : Nat) : State :=
  let e := dieTime s die + 2 ^ lease
  let s1 := fillLine s k asid mg (.here l) (homeLine s l) (homeBad s l) e
  cacheTouch { s1 with horizons := sput 0 s1.horizons l (max e (sget 0 s1.horizons l)) } l false

/-- A read at the home on behalf of a core refreshes a copy that is present (R312); while a write waits on the line the home
grants no new lease, so that the copy gets the bytes and keeps its old lease (R311). -/
def l1Refresh (s : State) (k : Nat) (die : BitVec 1) (lease : Nat) (asid mg : BitVec 16) (l : Nat) : State :=
  match findLine (getCore s k) asid mg (.here l) with
  | none => s
  | some x =>
    if homeBusy s (.here l) then fillLine s k asid mg (.here l) (homeLine s l) (homeBad s l) x.leaseEnd
    else l1Fill s k die lease asid mg l

/-- The group may pin this line (R253): it holds it already, or one more, at most 16 of the group and 1,024 of the core. -/
def canPin (s : State) (c : Ctx) (tag : LineTag) : Bool :=
  c.pins.contains tag || (c.pins.length < 16 && ((getCore s c.core).lines.filter (fun x => x.pinned)).length < 1024)

/-- A line that a prefetch has just fetched is pinned, where that is asked and allowed (R253; log entry 117). -/
def pinLine (s : State) (c : Ctx) (asid mg : BitVec 16) (pin : Bool) (line : Place) : State :=
  match findLine (getCore s c.core) asid mg line with
  | some x =>
    if pin && canPin s c x.tag then
      let hold : Ctx → Ctx := fun c => { c with pins := if c.pins.contains x.tag then c.pins else c.pins ++ [x.tag] }
      modCtx (setCore s c.core (putLine (getCore s c.core) { x with pinned := true })) c.id hold
    else s
  | none => s

/-- The lease length of a context's launch (R80). -/
def leaseOf (s : State) (c : Ctx) : Nat := (getLaunch s c.launch).elim 8 Launch.lease

/-- The bytes that a line holds at offsets from `o`, where `ok` admits each. -/
def lineBytes (x : Line) (o n : Nat) : List Byte := (List.range n).map (fun i => sget 0 x.bytes (o + i))

/-- The core's copy of a line, an empty one where there is none. -/
def copyOf (s : State) (k : Nat) (asid mg : BitVec 16) (line : Place) : Line :=
  (findLine (getCore s k) asid mg line).getD (emptyLine asid mg line)

/-- The core's copy can serve a load of `n` bytes: its lease has not ended, or the bytes are dirty (R88, R312). -/
def l1Hit (s : State) (c : Ctx) (asid mg : BitVec 16) (p : Place) (n : Nat) : Bool :=
  let x := copyOf s c.core asid mg p.line
  dieTime s c.die < x.leaseEnd || (List.range n).all (fun i => x.dirty.getLsbD (p.offset + i))

/-- Bytes of a core-store or vault element as the generation `g` sees them; rows that `g` no longer owns read zero
(R89, R100). -/
def readAs (s : State) (k n : Nat) (g : BitVec 12) : List Byte :=
  match spaceOf k with
  | .core c off => if ownerGen (getCore s c).rows (off / 256) = g then readTagged s k g n else List.replicate n 0
  | .vault v off => if ownerGen (getVault s v).units (off / 65536) = g then readTagged s k g n else List.replicate n 0
  | _ => readBytes s k n

/-- A read under generation `g` takes the stored data of the byte, and does not read it as zero (R89, R100). -/
def taken (s : State) (k : Nat) (g : BitVec 12) : Bool :=
  match spaceOf k with
  | .core c off => ownerGen (getCore s c).rows (off / 256) = g && tagAt s k = g
  | .vault v off => ownerGen (getVault s v).units (off / 65536) = g && tagAt s k = g
  | _ => true

/-- Some byte of the element bears uncorrectable data that would be read (R248, R347). -/
def poisoned (s : State) (k n : Nat) (g : BitVec 12) (own : List (Option Byte)) : Bool :=
  (List.range n).any (fun i => poisonAt s (k + i) && taken s (k + i) g && (own.getD i none).isNone)

/-- What a read yields: its bytes, uncorrectable data, or nothing while a write waits at the home. -/
inductive Got where
  | bytes (bs : List Byte) (s : State)
  | ue (s : State)
  | later (s : State)

/-- Bytes of a load from a copy; `own` holds those that the group's own buffer supplies. -/
def copyBytes (x : Line) (p : Place) (n : Nat) (own : List (Option Byte)) (s : State) : Got :=
  if (List.range n).any (fun i => x.bad.getLsbD ((p.offset + i) / 64) && (own.getD i none).isNone) then .ue s
  else .bytes (lineBytes x p.offset n) s

/-- A load of `n` bytes of a global byte of this device or the host through the core's L1 (R88, R312). -/
def l1Load (s : State) (c : Ctx) (asid mg : BitVec 16) (key n : Nat) (own : List (Option Byte)) : Got :=
  let l := lineOf key
  if l1Hit s c asid mg (.here key) n then copyBytes (copyOf s c.core asid mg (.here l)) (.here key) n own s
  else if homeHeld s c (.here l) then .later s
  else
    let x := copyOf s c.core asid mg (.here l)
    let s1 := l1Fill s c.core c.die (leaseOf s c) asid mg l
    copyBytes { x with bytes := overlayDirty (homeLine s l) x, bad := homeBad s l } (.here key) n own s1

/-- A read at the home that refreshes a copy that is present (R312): TRYW. -/
def homeRead (s : State) (c : Ctx) (asid mg : BitVec 16) (key n : Nat) : Got :=
  let l := lineOf key
  if homeHeld s c (.here l) then .later s
  else
    let s1 := l1Refresh s c.core c.die (leaseOf s c) asid mg l
    if poisonAt s key then .ue s1 else .bytes (readBytes s1 key n) s1

/-- A read of `n` bytes of a vault at its bank, once the writes sent to the line before it are performed (R250, R310, R311,
R313). -/
def vaultRead (s : State) (c : Ctx) (k n : Nat) (g : BitVec 12) (own : List (Option Byte)) : Got :=
  if homeHeld s c (.here (k / 128)) then .later s
  else if poisoned s k n g own then .ue s
  else .bytes (readAs s k n g) s

/-- An acquire at system scope retires every clean line and keeps only dirty bytes (R322); a pinned line stays as an empty one,
so that a refetch keeps the pin (R253). -/
def retireClean (s : State) (k : Nat) : State :=
  let c := getCore s k
  setCore s k { c with lines := (c.lines.filter (fun x => x.dirty ≠ 0 || x.pinned)).map (fun x =>
    { x with leaseEnd := 0, bytes := x.dirtyBytes }) }

/-! Release steps, commit (R116, R223, R252, R329) -/

/-- No write of the context, and no store or write-back of its core, is still to be performed at its home (R223, R316). -/
def writesDone (s : State) (c : Ctx) : Bool :=
  !(s.homeQ.any (fun w => w.ctx = some c.id || (w.core = some c.core && w.op.isNone && w.hold.isNone)))

/-- The release steps of FENCE at a scope (R223): at cluster scope or wider the core's dirty lines are written back, then
device time must exceed WCT. The flag tells that the steps are complete. -/
def releaseSteps (s : State) (c : Ctx) (scope : Nat) : State × Bool :=
  if effScope s c scope ≤ 2 then (s, true)
  else
    let s1 := writeBackAll s c.core (some c.id)
    let w := (getCtx s1 c.id).elim c.wct Ctx.wct
    (s1, writesDone s1 c && w < dieTime s1 c.die)

/-- An access of the group that was issued before a store of the entry, and has not been performed, lies in its line (R249). -/
def loadPending (c : Ctx) (e : BufEntry) : Bool :=
  c.flights.any (fun f => f.id < e.stamp && f.accs.any (fun a => a.place.elim false (fun p => p.line = e.line)))

/-- Where a store to byte `off` of core `k` is performed: in a buffer-record table of a block, in every core's copy of it; a
task grid's tables are each their core's own (R76, R124, R360). Each with its core, offset and generation. -/
def tableCopies (s : State) (k off : Nat) (g : BitVec 12) : List (Nat × Nat × BitVec 12) :=
  match (getCore s k).rows.find? (fun r => r.kind = 2 && r.first ≤ off / 256 && off / 256 < r.first + 16) with
  | some r =>
    if r.gen = g && (getCtx s r.owner).isSome then
      (List.range s.cores.length).flatMap (fun j =>
        ((getCore s j).rows.filter (fun x => x.kind = 2 && x.owner = r.owner)).map (fun x =>
          (j, x.first * 256 + (off - r.first * 256), x.gen)))
    else [(k, off, g)]
  | none => [(k, off, g)]

/-- The bytes of a core-store entry, all of one line, land (R101, R102, R124). -/
def landCore (s : State) (k off : Nat) (g : BitVec 12) (bytes : Sparse Byte) : State :=
  (tableCopies s k off g).foldl (fun s x => coreWriteAt s x.1 x.2.1 x.2.2 bytes) s

/-- The owner generation of the dirty bytes a group writes (R88). -/
def Ctx.ownerTag (c : Ctx) : BitVec 12 := if c.task then c.regGen else c.tableGen

/-- A buffered entry is released as an ordinary store under its scope (R116, R88). -/
def releaseEntry (s : State) (c : Ctx) (e : BufEntry) : State :=
  let send (s : State) : State :=
    homePush s e.line e.bytes (some c.id) (some c.core) (e.scope == 5 || !e.line.isHere) e.gen 0 none (if e.gen.isNone then some e.asid else none)
  let global : State :=
    if effScope s c e.scope.toNat ≤ 2 then l1Store s c.core e.asid e.mapgen e.line e.scope c.ownerTag e.bytes
    else send (l1Update s c.core e.asid e.mapgen e.line e.bytes)
  match e.line with
  | .peer _ _ => global
  | .here l =>
    match spaceOf (l * 128) with
    | .core k off => landCore s k off (e.gen.getD 0) e.bytes
    | .vault _ _ => send s
    | _ => global

/-- Commit releases the entries in order; an entry with a release store waits for the release steps of those before it, and
an entry waits for the group's own earlier loads of its line (R249, R252). The rest of the buffer is what is still held. -/
def commitEntries (s : State) (c : Ctx) : List BufEntry → State × List BufEntry
  | [] => (s, [])
  | e :: r =>
    if loadPending c e then (s, e :: r)
    else
      let (s1, ok) := if e.release then releaseSteps s c e.scope.toNat else (s, true)
      if ok then commitEntries (releaseEntry s1 c e) c r else (s1, e :: r)

/-- Commits the region store buffer of a context; the flag tells that it is empty (R329). -/
def commit (s : State) (c : Ctx) : State × Bool :=
  let (s1, rest) := commitEntries s c c.rsb
  let held : Ctx → Ctx := fun c => { c with rsb := rest, committing := !rest.isEmpty }
  (modCtx s1 c.id held, rest.isEmpty)

end Sys2Proof.Machine
end

