-- ==== Sys2Proof/Machine/Flags.lean ====
section
/-! DEFINITION. Completion flags and pending writes (R140, R142), engine counters (R143, R144), the signature (R68, R234)
and the IDEMP check of live-mask words (R163, R331). -/

namespace Sys2Proof.Machine

/-! Completion flags -/

/-- The count of flag `n` (R140). -/
def Ctx.flagCount (c : Ctx) (n : Nat) : Nat := sget 0 c.flags n

def Ctx.raiseFlag (c : Ctx) (f : Option Nat) : Ctx :=
  match f with
  | some n => { c with flags := sput 0 c.flags n (c.flagCount n + 1) }
  | none => c

def Ctx.lowerFlag (c : Ctx) (f : Option Nat) : Ctx :=
  match f with
  | some n => { c with flags := sput 0 c.flags n (c.flagCount n - 1) }
  | none => c

/-- CFLAGS.BUSY: bit `n` set while cf`n` is busy (R75, R140). -/
def Ctx.busyFlags (c : Ctx) : Word :=
  BitVec.ofNat 32 ((List.range 12).foldl (fun a n => a + if c.flagCount n = 0 then 0 else 2 ^ n) 0)

/-- Every flag of a mask has a count of zero. -/
def Ctx.flagsClear (c : Ctx) (mask : Nat) : Bool :=
  (List.range 12).all (fun n => mask / 2 ^ n % 2 = 0 || c.flagCount n = 0)

/-! Pending writes (R142) -/

/-- Register `r` has a pending write in lane `l`. -/
def Ctx.pendingWrite (c : Ctx) (r l : Nat) : Bool :=
  c.flights.any (fun f => f.pend.getLsbD l && f.firstReg ≤ r && r < f.firstReg + f.nRegs)

/-- A register of the list has a pending write in a lane of the mask: UNGUARD (R142). -/
def Ctx.unguarded (c : Ctx) (regs : List Nat) (m : LaneMask) : Option Nat :=
  (List.range 64).find? (fun l => m.getLsbD l && regs.any (fun r => c.pendingWrite r l))

/-! Engine counters (R143) -/

/-- The counter of an engine class: its operations not yet retired. -/
def Ctx.engineCount (c : Ctx) (cls : BitVec 2) : Nat := (c.engines.filter (fun e => e.1 = cls)).length

/-! The signature (R234) -/

def crcBit (v : Word) : Word := if v.getLsbD 0 then (v >>> 1) ^^^ 0x82F63B78 else v >>> 1

def crcBits (v : Word) : Nat → Word
  | 0 => v
  | n + 1 => crcBits (crcBit v) n

/-- One byte of the CRC-32C step. -/
def absorbByte (sig x : Word) (j : Nat) : Word := crcBits (sig ^^^ ((x >>> (8 * j)) &&& 0xFF)) 8

/-- Absorption of a word (R234). -/
def absorb (sig x : Word) : Word := absorbByte (absorbByte (absorbByte (absorbByte sig x 0) x 1) x 2) x 3

/-- The merge token (R68). -/
def mergeToken : Word := 0x5A5A0001

/-! Live-mask words (R163, R331) -/

/-- A scalar outside s252 to s255 whose block the live-mask word marks live. -/
def liveScalar (w : Word) (n : Nat) : Bool := n < 252 && w.getLsbD (16 + n / 16)

/-- A vector register that the live-mask word describes and whose block it marks live (R163, R202). -/
def liveVector (w : Word) (top n : Nat) : Bool := n < top && w.getLsbD (8 + n / 30)

/-- A control instruction that writes these scalars breaks the live-mask word of its region. -/
def idempScalar (live : Option Word) (regs : List Nat) : Bool := live.elim false (fun w => regs.any (liveScalar w))

/-- A lane instruction that writes these registers breaks the live-mask word of its clause's region. -/
def idempVector (live : Option Word) (top : Nat) (regs : List Nat) : Bool :=
  live.elim false (fun w => regs.any (liveVector w top))

end Sys2Proof.Machine
end

