-- ==== Sys2Proof/Machine/Control.lean ====
section
/-! DEFINITION. What every control word shares: fetching, paths and their merges and switches (R42 to R48), the order of
checks (R189), safe points (R329), the region length (R157), and the acting context's next state. -/

namespace Sys2Proof.Machine

/-! Sections and fetching (R164, R181, R401) -/

/-- The byte offset of section `i`: 0 grid, 1 cluster, 2 block, 3 group, 4 lanes (R135, R181). -/
def Launch.sect (l : Launch) (i : Nat) : Nat := (l.words.getD (8 + i) 0).toNat
def Launch.code (l : Launch) : Nat := pair64 (l.words.getD 6 0) (l.words.getD 7 0)
def Launch.asid (l : Launch) : BitVec 16 := BitVec.ofNat 16 (bits (l.words.getD 0 0) 31 16)

/-- The section of a level: a group's is the fourth (R181). -/
def sectOf (level : BitVec 3) : Nat := 4 - level.toNat

/-- Words of a control section (R181). -/
def Launch.sectWords (l : Launch) (i : Nat) : Nat := (l.sect (i + 1) - l.sect i) / 4

/-- What a fetch yields. -/
inductive Fetch where
  | word (w : Word)
  | absent (va : Nat)
  | peer (dev : BitVec 12) (addr : Nat)
  | outside
  | hole (addr : Nat)
  /-- An uncorrectable word, at a key (R347, R401). -/
  | bad (key : Nat)
  | wait
deriving DecidableEq, Repr

/-- The word at a virtual address, through the code object's mapping (R182, R401). Where code is being changed R182 leaves
open which of the two words a fetch yields; it is the stored one (log entry 90). -/
def fetchVa (s : State) (asid : BitVec 16) (va : Nat) : Fetch :=
  if s.changing.contains asid then .wait
  else
    match walk s asid va with
    | .absent => .absent va
    | .hole a => .hole a
    | .ok (.here k) _ _ => if poisonAt s k then .bad k else .word (readWord s k)
    | .ok (.peer d a) _ _ =>
      match s.requests.find? (fun r => r.ask == .fetch && r.peer = d && r.addr = a && r.answer.isSome) with
      | some r => .word (leWord (r.answer.getD []))
      | none => .peer d a

/-- The control word at an offset of a context's section. -/
def fetchCtrl (s : State) (c : Ctx) (off : Nat) : Fetch :=
  match getLaunch s c.launch with
  | none => .outside
  | some l =>
    let i := sectOf c.level
    if off < l.sectWords i then fetchVa s l.asid (l.code + l.sect i + 4 * off) else .outside

/-- Word `j` of the lane word at an offset of the lane section. -/
def fetchLane (s : State) (c : Ctx) (off j : Nat) : Fetch :=
  match getLaunch s c.launch with
  | none => .outside
  | some l => if off < 65536 then fetchVa s l.asid (l.code + l.sect 4 + 12 * off + 4 * j) else .outside

/-! Paths (R43 to R48) -/

/-- Lanes that no meeting mask waits for any more. -/
def Ctx.gone (c : Ctx) : LaneMask := c.dmk ||| c.exited

/-- The waiting paths whose meeting stack is that of entry `i` (R44). -/
def Ctx.pool (c : Ctx) (i : Nat) : List Nat :=
  let m := (c.paths.getD i defaultPath).meets
  (List.range c.paths.length).filter (fun j => let p := c.paths.getD j defaultPath
    p.state = 3 && p.meets = m)

def unionMask (ps : List LaneMask) : LaneMask := ps.foldl (· ||| ·) 0

def maxAge (ps : List PathEntry) : Word := ps.foldl (fun a p => if a.toNat < p.age.toNat then p.age else a) 0

/-- The pool of entry `i` can merge (R44). -/
def Ctx.poolReady (c : Ctx) (i : Nat) : Bool :=
  let p := c.paths.getD i defaultPath
  match p.meets.getLast? with
  | none => false
  | some (_, mm) =>
    let held := unionMask ((c.pool i).map (fun j => (c.paths.getD j defaultPath).held))
    p.state = 3 && ((mm &&& ~~~ c.gone) &&& ~~~ held) = 0

/-- The merged path of the pool of entry `i`, in the lowest entry of the pool; the others are freed (R44, R68). Where the
next entry of its stack names the same address, its PC has reached that one too and it waits, though the table of R44 calls a
merged path ready (log entry 91). -/
def Ctx.mergePool (c : Ctx) (i : Nat) : Ctx :=
  let js := c.pool i
  let ps := js.map (fun j => c.paths.getD j defaultPath)
  let held := unionMask (ps.map (fun p => p.held))
  let low := lowestLane held
  let srcIx := (js.find? (fun j => (c.paths.getD j defaultPath).held.getLsbD low)).getD i
  let src := c.paths.getD srcIx defaultPath
  let top := (src.meets.getLast?.map Prod.fst).getD 0
  let stack := src.meets.dropLast
  let state : BitVec 2 := if (stack.getLast?.map Prod.fst) = some top then 3 else 2
  let merged : PathEntry :=
    ⟨state, top, unionMask (ps.map (fun p => p.mask)), held, maxAge ps, src.priv, absorb src.sig mergeToken, stack⟩
  let e := js.headD i
  { c with
    sregBad := copyMarks c.sregBad srcIx e
    paths := (List.range c.paths.length).map (fun j =>
      if j = e then merged else if js.contains j then defaultPath else c.paths.getD j defaultPath) }

/-- Makes every merge whose condition holds (R44). -/
def Ctx.mergeAll (c : Ctx) : Nat → Ctx
  | 0 => c
  | n + 1 =>
    match (List.range c.paths.length).find? (fun i => c.poolReady i) with
    | some i => (c.mergePool i).mergeAll n
    | none => c

/-- The ready path of greatest age, ties to the lower entry (R48). -/
def Ctx.oldestReady (c : Ctx) : Option Nat :=
  (List.range c.paths.length).foldl (fun best j =>
    let p := c.paths.getD j defaultPath
    if p.state = 2 then
      match best with
      | none => some j
      | some b => if (c.paths.getD b defaultPath).age.toNat < p.age.toNat then some j else best
    else best) none

/-- Entry `j` begins to run with age 0 (R48). -/
def Ctx.runPath (c : Ctx) (j : Nat) : Ctx :=
  { c with run := j, paths := c.paths.set j { c.paths.getD j defaultPath with state := 1, age := 0 } }

/-- When no path runs, the oldest ready path does (R48). -/
def Ctx.schedule (c : Ctx) : Ctx :=
  if c.path.state = 1 then c
  else
    match c.oldestReady with
    | some j => c.runPath j
    | none => c

/-- The running path stops where its pc has reached its top meeting address (R44). -/
def Ctx.arrive (c : Ctx) : Ctx :=
  if (c.path.meets.getLast?.map Prod.fst) = some c.path.pc then c.setPath { c.path with state := 3 } else c

/-- Every live path but the running one is one issue slot older (R156). -/
def Ctx.ageOthers (c : Ctx) : Ctx :=
  { c with paths := (List.range c.paths.length).map (fun j =>
      let p := c.paths.getD j defaultPath
      if j = c.run || p.state = 0 || p.age = 0xFFFFFFFF then p else { p with age := p.age + 1 }) }

/-- The running path is switched out for the oldest ready one once a ready path's age has reached AGELIM (R48). The age that
counts is the one after this instruction's own slot: the LANE or branch in whose slot a path reaches AGELIM is itself the next
one (log entry 92). -/
def Ctx.ageSwitch (c : Ctx) : Ctx :=
  if c.path.state = 1 && c.paths.any (fun p => p.state = 2 && c.agelim.toNat ≤ p.age.toNat) then
    match c.oldestReady with
    | some j => (c.setPath { c.path with state := 2, age := 0 }).runPath j
    | none => c
  else c

/-- A lane dies or exits: it leaves every mask, and pools it was waited for in merge (R44, R65, R66). -/
def Ctx.dropLanes (c : Ctx) (m : LaneMask) : Ctx :=
  let c1 := { c with paths := c.paths.map (fun p =>
    { p with mask := p.mask &&& ~~~ m, held := p.held &&& ~~~ m, meets := p.meets.map (fun x => (x.1, x.2 &&& ~~~ m)) }) }
  if c.isGroup then (c1.mergeAll c1.paths.length).schedule else c1

/-- Death of lanes (R66): DMK, every mask, and their pending register writes. -/
def Ctx.killLanes (c : Ctx) (m : LaneMask) : Ctx :=
  let fs : List Flight := c.flights.map (fun f => { f with pend := f.pend &&& ~~~ m })
  let c1 : Ctx := { c with dmk := c.dmk ||| m, flights := fs }
  c1.dropLanes m

/-! One control instruction -/

/-- What a control instruction is, for the checks of R189. -/
structure CtrlSpec where
  /-- Words of the instruction (R161). -/
  len : Nat
  /-- Its live-mask word (R162). -/
  sp : Option Word
  /-- It must carry S = 1 (R184). -/
  must : Bool := false
  /-- The levels that may execute it (R184): group, task, block, cluster, grid. -/
  levels : List Nat
  /-- The scope it names, for CB (R32). -/
  scope : Option Nat := none
  /-- It is a path operation at lane scope; with `scope` 0 only then (R32). -/
  laneScope : Bool := false
  /-- Only lane scope may be named (BRL, MEET), or only group scope (BUNI) (R32). -/
  onlyScope : Option Nat := none
  /-- A group-scope effect whatever it writes (R46, R186). -/
  single : Bool := false
  /-- A grid of task mode has no such instruction (R50): DOWN and GATHER. -/
  blockMode : Bool := false
  /-- Scalars it writes (R58). -/
  writes : List Nat := []
  /-- LANE and the lane-scope branches, after which an aged path runs (R48). -/
  ageing : Bool := false
  /-- Its own effect has aged the other paths (R43, R45). -/
  aged : Bool := false
  /-- Its issue slot was counted when it was suspended (R156, R157). -/
  counted : Bool := false

/-- Level numbers of `levels`: 0 group, 1 task, 2 block, 3 cluster, 4 grid. -/
def Ctx.levelNo (c : Ctx) : Nat := if c.isGroup then (if c.task then 1 else 0) else c.level.toNat

def allLevels : List Nat := [0, 1, 2, 3, 4]
def groupLevels : List Nat := [0, 1]

/-- A grid of task mode has no DOWN and no GATHER (R50). -/
def taskMode (s : State) (c : Ctx) : Bool := (getLaunch s c.launch).elim false (fun l => (l.words.getD 0 0).getLsbD 0)

/-- The scope is one that the context may name (R32): its own; lane in a group; lane, group or block in a task. -/
def scopeOk (c : Ctx) (sp : CtrlSpec) : Bool :=
  match sp.scope with
  | none => true
  | some sc =>
    (sp.onlyScope.elim true (fun o => o = sc)) &&
    (match c.levelNo with
     | 0 => sc = 1 || (sc = 0 && sp.laneScope)
     | 1 => sc = 1 || sc = 2 || (sc = 0 && sp.laneScope)
     | n => sc = n)

/-- A group-scope effect while several paths live (R46, R186). -/
def manyPaths (c : Ctx) (sp : CtrlSpec) : Bool :=
  c.isGroup && 1 < c.livePaths &&
    (sp.single || sp.writes.any (fun n => n < 252) || (sp.scope.elim false (fun sc => 1 ≤ sc)))

/-- The result of an instruction's own effect. -/
inductive Act where
  /-- Complete: the state, and the pc where it is not the fall-through address. -/
  | done (s : State) (pc : Option Pc)
  /-- Not yet: it stays at its word and is executed again. -/
  | wait (s : State)
  /-- The context is suspended or ended in a mode of its own; the pc stands at the word. -/
  | suspend (s : State)
  /-- Its own fault, with TRAPADDR. -/
  | fault (s : State) (code : Nat) (addr : Word)
  /-- A page fault: the lanes' records (R118). -/
  | page (s : State) (recs : List (List Word))
  /-- Uncorrectable data consumed by the scalar stream, at an address (R347). -/
  | ue (s : State) (addr : Nat)
  /-- An address that does not exist. -/
  | hole (addr : Nat)

/-- Every memory and matrix lane instruction enqueued before has issued and passed its checks (R329). The rest of a clause
that holds one must be issued; a clause's opcodes are read from its words, and one that cannot be read now may be such an
instruction. -/
def laneWordOpcode (s : State) (c : Ctx) (off : Nat) : Option Nat :=
  match fetchLane s c off 0 with
  | .word w => some (bits w 31 24)
  | _ => none
/-- Instructions of a clause, read from its header until it has started (R169); none while the header cannot be read. -/
def clauseCount (s : State) (c : Ctx) (q : Clause) : Option Nat :=
  if q.started then some q.count
  else match fetchLane s c q.off.toNat 0 with
    | .word w => some (bits w 31 28 + 1)
    | _ => none

def isMemOrMatrix (op : Nat) : Bool := (0x50 ≤ op && op ≤ 0x5A) || (0x60 ≤ op && op ≤ 0x63)

def memLanesIssued (s : State) (c : Ctx) : Bool :=
  c.clauses.all (fun q => (clauseCount s c q).any (fun n =>
    (List.range n).all (fun i => i < q.next ||
      (laneWordOpcode s c (q.off.toNat + 1 + i)).any (fun op => !isMemOrMatrix op))))

/-- Step 2 and 3 of a safe point after its commit: the replay set and region length are cleared, and the checkpoint stands
at the instruction (R329). -/
def Ctx.safePoint (c : Ctx) (sp : Word) (clause : Nat) : Ctx :=
  let c1 := { c with replay := [], reissue := [], regionLen := 0, armed := false, live := some sp, liveRegs := 240 }
  { c1 with ckpt := c1.checkpoint clause (sp.getLsbD 1) }

/-- The issue slot of a control instruction of a group: the other paths age, and with S = 0 the region is one longer (R156,
R157). `issues` counts the slots, for the pending ages of the partition. -/
def Ctx.countIssue (c : Ctx) (sp : CtrlSpec) : Ctx :=
  if !c.isGroup || sp.counted then c
  else
    let c1 := if sp.aged then c else c.ageOthers
    { c1 with regionLen := c1.regionLen + (if sp.sp.isNone then 1 else 0), issues := c1.issues + 1 }

/-- The meeting point, the merges and the choice of the path that runs next, after a control instruction (R44, R48). -/
def Ctx.reschedule (c : Ctx) (ageing : Bool) : Ctx :=
  let c1 := c.arrive
  let c2 := c1.mergeAll c1.paths.length
  if c2.path.state = 1 then (if ageing then c2.ageSwitch else c2) else c2.schedule

/-- What follows the effect of every control instruction: the pc, its issue slot, the meeting point and switches, and the move
of the checkpoint (R44, R48, R156, R157, R329). -/
def Ctx.advance (c : Ctx) (sp : CtrlSpec) (pc : Pc) (clause : Nat) : Ctx :=
  let c1 : Ctx := { c.setPc pc with phase := 0 }
  if c.isGroup then
    let c2 := (c1.countIssue sp).reschedule sp.ageing
    match sp.sp with
    | some w => { c2 with ckpt := c2.checkpoint clause (w.getLsbD 1) }
    | none => c2
  else c1

/-- Uncorrectable data consumed by the scalar stream, at a key or core-store address: fatal UE, with a record of kind 2 (R347);
kind 3 in a sequencer. -/
def scalarUe (s : State) (c : Ctx) (off addr : Nat) : State :=
  let pc := trapPcOf false off
  if c.isGroup then
    let s1 := ctxError (setCtx s { c.recordFault UE none pc 0 with mode := .faulted }) c 2 UE none (physAddr addr) pc 0
    { s1 with kills := s1.kills ++ [⟨c.launch, 0x14⟩] }
  else fatal s c UE none pc

/-- A context stops at an instruction whose word is not present: a batch of one record, no fault (R401). -/
def stallFetch (s : State) (c : Ctx) (va : Nat) (pc : Word) : State :=
  let asid := (getLaunch s c.launch).elim 0 Launch.asid
  let r := faultRecord true false false false 1 0 none PAGE va asid (astGen s asid) c.where5 pc
  if fqRoom s 1 then
    let (b, s1) := fqBatch s [r]
    setCtx s1 { c with mode := .fetch b }
  else fqJoin (setCtx s { c with mode := .batch [r] true }) (.scalar c.id)

/-- A new request of a context, sent now. -/
def newRequest (s : State) (c : Ctx) (d : BitVec 12) (a n : Nat) (ask : Ask) (pc : Word) (asid mg : BitVec 16) : Request where
  id := s.nextId
  ctx := c.id
  flight := none
  engine := none
  peer := d
  addr := a
  size := n
  ask := ask
  pc := pc
  lane := none
  issued := dieTime s c.die
  answer := none
  space := asid
  mapgen := mg
  counted := false
  retry := false
  failed := false

def sendRequest (s : State) (r : Request) : State := { s with requests := s.requests ++ [r], nextId := s.nextId + 1 }

/-- A fetch from a peer page sends its request once (R401). -/
def askFetch (s : State) (c : Ctx) (d : BitVec 12) (a : Nat) (pc : Word) : State :=
  if s.requests.any (fun r => r.ask == .fetch && r.peer = d && r.addr = a && r.ctx = c.id) then s
  else
    let asid := (getLaunch s c.launch).elim 0 Launch.asid
    sendRequest s (newRequest s c d a 4 .fetch pc asid (astGen s asid))

/-- The state after an instruction's own effect. -/
def finishCtrl (id : Nat) (sp : CtrlSpec) (pc : Pc) (off : Nat) : Act → Host.Outcome State Fault Refusal
  | .done s next => .next (modCtx s id (fun c => c.advance sp (next.getD (pc + BitVec.ofNat 24 sp.len)) s.nextId))
  | .wait s => .next s
  | .suspend s => .next (modCtx s id (fun c => c.countIssue sp))
  | .fault s code addr =>
    match getCtx s id with
    | some c => .next (takeFault s c code none false off addr)
    | none => .next s
  | .page s recs =>
    match getCtx s id with
    | some c => .next (takePage s c none false off recs)
    | none => .next s
  | .ue s addr =>
    match getCtx s id with
    | some c => .next (scalarUe s c off addr)
    | none => .next s
  | .hole a => .fault (.noFrame a)

/-- The fault that stops a control instruction before it does anything, by the checks of R189 in their order. `illegal` is what its
decoding could not see (R187, R200, R222, R225). -/
def ctrlFault (sp : CtrlSpec) (illegal : State → Ctx → Bool) (s : State) (c : Ctx) : Option Nat :=
  if (c.isGroup && sp.must && sp.sp.isNone) || illegal s c then some ILLEGAL
  else if !sp.levels.contains c.levelNo || (sp.blockMode && c.level == 4 && taskMode s c) || !scopeOk c sp || manyPaths c sp then some SCOPE
  else if c.isGroup && sp.sp.isNone && 4096 ≤ c.regionLen then some REGION
  else if c.isGroup && sp.sp.isNone && idempScalar c.live sp.writes then some IDEMP
  else none

/-- One control instruction of the context whose turn it is: the checks of R189, the safe point of R329, the instruction's own
effect. One that would consume an uncorrectable scalar register passes its checks and is not performed (R347). -/
def runCtrl (sp : CtrlSpec) (illegal : State → Ctx → Bool) (body : State → Ctx → Act) (s : State) :
    Host.Outcome State Fault Refusal :=
  match s.turn with
  | .ctrlUe id =>
    match getCtx s id with
    | none => .next s
    | some c =>
      if !c.canRun || !powered s then .next s
      else
        match ctrlFault sp illegal s c with
        | some code => .next (takeFault s c code none false c.pc.toNat 0)
        | none => .next (scalarUe s c c.pc.toNat 0)
  | .ctrl id =>
    match getCtx s id with
    | none => .next s
    | some c =>
      if !c.canRun || !powered s then .next s
      else
        let off := c.pc.toNat
        match ctrlFault sp illegal s c with
        | some code => .next (takeFault s c code none false off 0)
        | none =>
          match sp.sp with
          | some w =>
            if c.isGroup then
              if !memLanesIssued s c then .next s
              else
                match commit s c with
                | (s1, false) => .next s1
                | (s1, true) =>
                  let s2 := modCtx s1 id (fun c => c.safePoint w s1.nextId)
                  finishCtrl id sp c.pc off (body { s2 with nextId := s2.nextId + 1 } ((getCtx s2 id).getD c))
            else finishCtrl id sp c.pc off (body s c)
          | none => finishCtrl id sp c.pc off (body s c)
  | _ => .next s

/-- An instruction that only computes on its context's registers and never waits or faults. -/
def pureCtrl (sp : CtrlSpec) (f : Ctx → Ctx) : State → Host.Outcome State Fault Refusal :=
  runCtrl sp (fun _ _ => false) (fun s c => .done (setCtx s (f c)) none)

/-- Words of an instruction: one, the literal, the live-mask word (R161). -/
def wordsOf (lit : Bool) (sp : Option Word) : Nat := 1 + lit.toNat + sp.isSome.toNat

end Sys2Proof.Machine
end

