-- ==== Sys2Proof/Machine/Scalar.lean ====
section
/-! DEFINITION. Scalar arithmetic, immediate and move instructions (R193 to R196). The word operations are shared with the
lane instructions of the same names (R237, R239). -/

namespace Sys2Proof.Machine

/-! Word operations (R194) -/

def wAdd (x y : Word) : Word := x + y
def wSub (x y : Word) : Word := x - y
def wMul (x y : Word) : Word := x * y
def wMulh (x y : Word) : Word := BitVec.ofInt 32 (x.toInt * y.toInt / 2 ^ 32)
def wMulhu (x y : Word) : Word := BitVec.ofNat 32 (x.toNat * y.toNat / 2 ^ 32)
def wAnd (x y : Word) : Word := x &&& y
def wOr (x y : Word) : Word := x ||| y
def wXor (x y : Word) : Word := x ^^^ y
def wShl (x y : Word) : Word := x <<< (y.toNat % 32)
def wShr (x y : Word) : Word := x >>> (y.toNat % 32)
def wSar (x y : Word) : Word := x.sshiftRight (y.toNat % 32)
def wMin (x y : Word) : Word := if x.slt y then x else y
def wMax (x y : Word) : Word := if x.slt y then y else x
def wMinu (x y : Word) : Word := if x.ult y then x else y
def wMaxu (x y : Word) : Word := if x.ult y then y else x
def wSlt (x y : Word) : Word := if x.slt y then 1 else 0
def wSltu (x y : Word) : Word := if x.ult y then 1 else 0
def wSeq (x y : Word) : Word := if x = y then 1 else 0
def wDivu (x y : Word) : Word := if y = 0 then 0xFFFFFFFF else x / y
def wRemu (x y : Word) : Word := if y = 0 then x else x % y
def wBfx (x y : Word) : Word := BitVec.ofNat 32 (x.toNat / 2 ^ (y.toNat % 32) % 2 ^ (bits y 12 8 + 1))

/-- Leading zero bits (R194): 32 for zero. -/
def wClz (x : Word) : Word :=
  BitVec.ofNat 32 (((List.range 32).find? (fun i => x.getLsbD (31 - i))).getD 32)

/-- Set bits (R194). -/
def wPopc (x : Word) : Word := BitVec.ofNat 32 ((List.range 32).filter (fun i => x.getLsbD i)).length

/-! Forms -/

/-- An instruction that every level may execute and that writes `d`. -/
def scalarSpec (sp : Option Word) (lit : Bool) (d : Reg) : CtrlSpec :=
  { len := wordsOf lit sp, sp := sp, levels := allLevels, writes := [d.toNat] }

/-- A register form (R194): s[d] := f(s[a], s[b]), the sources read first. -/
def scalarCR (f : Word → Word → Word) (sp : Option Word) (d a b : Reg) : State → Host.Outcome State Fault Refusal :=
  pureCtrl (scalarSpec sp false d) (fun c => c.setSreg d.toNat (f (c.sreg a.toNat) (c.sreg b.toNat)))

/-- A form of one source and an immediate (R195). -/
def scalarCI (f : Word → Word) (sp : Option Word) (d a : Reg) : State → Host.Outcome State Fault Refusal :=
  pureCtrl (scalarSpec sp false d) (fun c => c.setSreg d.toNat (f (c.sreg a.toNat)))

/-- A move form (R196): a function of the old s[d]. -/
def scalarCW (f : Word → Word) (sp : Option Word) (lit : Bool) (d : Reg) : State → Host.Outcome State Fault Refusal :=
  pureCtrl (scalarSpec sp lit d) (fun c => c.setSreg d.toNat (f (c.sreg d.toNat)))

/-! The instructions -/

/-- R194. -/
def execAdd (sp : Option Word) (d a b : Reg) : State → Host.Outcome State Fault Refusal :=
  scalarCR wAdd sp d a b

/-- R194. -/
def execSub (sp : Option Word) (d a b : Reg) : State → Host.Outcome State Fault Refusal :=
  scalarCR wSub sp d a b

/-- R194. -/
def execMul (sp : Option Word) (d a b : Reg) : State → Host.Outcome State Fault Refusal :=
  scalarCR wMul sp d a b

/-- R194. -/
def execMulh (sp : Option Word) (d a b : Reg) : State → Host.Outcome State Fault Refusal :=
  scalarCR wMulh sp d a b

/-- R194. -/
def execMulhu (sp : Option Word) (d a b : Reg) : State → Host.Outcome State Fault Refusal :=
  scalarCR wMulhu sp d a b

/-- R194. -/
def execAndr (sp : Option Word) (d a b : Reg) : State → Host.Outcome State Fault Refusal :=
  scalarCR wAnd sp d a b

/-- R194. -/
def execOrr (sp : Option Word) (d a b : Reg) : State → Host.Outcome State Fault Refusal :=
  scalarCR wOr sp d a b

/-- R194. -/
def execXorr (sp : Option Word) (d a b : Reg) : State → Host.Outcome State Fault Refusal :=
  scalarCR wXor sp d a b

/-- R194. -/
def execShl (sp : Option Word) (d a b : Reg) : State → Host.Outcome State Fault Refusal :=
  scalarCR wShl sp d a b

/-- R194. -/
def execShr (sp : Option Word) (d a b : Reg) : State → Host.Outcome State Fault Refusal :=
  scalarCR wShr sp d a b

/-- R194. -/
def execSar (sp : Option Word) (d a b : Reg) : State → Host.Outcome State Fault Refusal :=
  scalarCR wSar sp d a b

/-- R194. -/
def execMinr (sp : Option Word) (d a b : Reg) : State → Host.Outcome State Fault Refusal :=
  scalarCR wMin sp d a b

/-- R194. -/
def execMaxr (sp : Option Word) (d a b : Reg) : State → Host.Outcome State Fault Refusal :=
  scalarCR wMax sp d a b

/-- R194. -/
def execMinu (sp : Option Word) (d a b : Reg) : State → Host.Outcome State Fault Refusal :=
  scalarCR wMinu sp d a b

/-- R194. -/
def execMaxu (sp : Option Word) (d a b : Reg) : State → Host.Outcome State Fault Refusal :=
  scalarCR wMaxu sp d a b

/-- R194. -/
def execSlt (sp : Option Word) (d a b : Reg) : State → Host.Outcome State Fault Refusal :=
  scalarCR wSlt sp d a b

/-- R194. -/
def execSltu (sp : Option Word) (d a b : Reg) : State → Host.Outcome State Fault Refusal :=
  scalarCR wSltu sp d a b

/-- R194. -/
def execSeq (sp : Option Word) (d a b : Reg) : State → Host.Outcome State Fault Refusal :=
  scalarCR wSeq sp d a b

/-- R194. -/
def execClz (sp : Option Word) (d a : Reg) : State → Host.Outcome State Fault Refusal :=
  scalarCI wClz sp d a

/-- R194. -/
def execPopc (sp : Option Word) (d a : Reg) : State → Host.Outcome State Fault Refusal :=
  scalarCI wPopc sp d a

/-- R194. -/
def execDivu (sp : Option Word) (d a b : Reg) : State → Host.Outcome State Fault Refusal :=
  scalarCR wDivu sp d a b

/-- R194. -/
def execRemu (sp : Option Word) (d a b : Reg) : State → Host.Outcome State Fault Refusal :=
  scalarCR wRemu sp d a b

/-- R194. -/
def execBfx (sp : Option Word) (d a b : Reg) : State → Host.Outcome State Fault Refusal :=
  scalarCR wBfx sp d a b

/-- R195. -/
def execAddi (sp : Option Word) (d a : Reg) (i : BitVec 8) : State → Host.Outcome State Fault Refusal :=
  scalarCI (fun x => x + i.signExtend 32) sp d a

/-- R195. -/
def execAndi (sp : Option Word) (d a : Reg) (i : BitVec 8) : State → Host.Outcome State Fault Refusal :=
  scalarCI (fun x => x &&& i.setWidth 32) sp d a

/-- R195. -/
def execOri (sp : Option Word) (d a : Reg) (i : BitVec 8) : State → Host.Outcome State Fault Refusal :=
  scalarCI (fun x => x ||| i.setWidth 32) sp d a

/-- R195. -/
def execXori (sp : Option Word) (d a : Reg) (i : BitVec 8) : State → Host.Outcome State Fault Refusal :=
  scalarCI (fun x => x ^^^ i.setWidth 32) sp d a

/-- R195. -/
def execShli (sp : Option Word) (d a : Reg) (i : BitVec 5) : State → Host.Outcome State Fault Refusal :=
  scalarCI (fun x => wShl x (i.setWidth 32)) sp d a

/-- R195. -/
def execShri (sp : Option Word) (d a : Reg) (i : BitVec 5) : State → Host.Outcome State Fault Refusal :=
  scalarCI (fun x => wShr x (i.setWidth 32)) sp d a

/-- R195. -/
def execSari (sp : Option Word) (d a : Reg) (i : BitVec 5) : State → Host.Outcome State Fault Refusal :=
  scalarCI (fun x => wSar x (i.setWidth 32)) sp d a

/-- R195. -/
def execSlti (sp : Option Word) (d a : Reg) (i : BitVec 8) : State → Host.Outcome State Fault Refusal :=
  scalarCI (fun x => wSlt x (i.signExtend 32)) sp d a

/-- R196. -/
def execMovi (sp : Option Word) (d : Reg) (m : BitVec 16) : State → Host.Outcome State Fault Refusal :=
  scalarCW (fun _ => m.signExtend 32) sp false d

/-- R196. -/
def execMovhi (sp : Option Word) (d : Reg) (m : BitVec 16) : State → Host.Outcome State Fault Refusal :=
  scalarCW (fun x => m ++ x.setWidth 16) sp false d

/-- R196. -/
def execMovl (sp : Option Word) (d : Reg) (lit : Word) : State → Host.Outcome State Fault Refusal :=
  scalarCW (fun _ => lit) sp true d

/-- R196. -/
def execAddiw (sp : Option Word) (d : Reg) (m : BitVec 16) : State → Host.Outcome State Fault Refusal :=
  scalarCW (fun x => x + m.signExtend 32) sp false d

end Sys2Proof.Machine
end

