-- ==== Sys2Proof/Machine/Flow.lean ====
section
/-! DEFINITION. Flow instructions (R203 to R209), LANE and the instructions that read the lane stream (R210 to R214). -/

namespace Sys2Proof.Machine

/-- A CB instruction of a scope (R203). -/
def flowSpec (sp : Option Word) (sc : BitVec 3) : CtrlSpec :=
  { len := wordsOf false sp, sp := sp, levels := allLevels, scope := some sc.toNat }

/-- A branch, which may be a path operation at lane scope (R32, R204). -/
def branchSpec (sp : Option Word) (sc : BitVec 3) : CtrlSpec :=
  { flowSpec sp sc with laneScope := true, ageing := sc == 0 }

/-- The branch word's own address plus off13 (R164). -/
def branchTarget (c : Ctx) (off : BitVec 13) : Pc := c.pc + off.signExtend 24

/-- A branch on a condition of the context (R204). -/
def branchOn (cond : Ctx → Bool) (sp : Option Word) (sc : BitVec 3) (off : BitVec 13) :
    State → Host.Outcome State Fault Refusal :=
  runCtrl (branchSpec sp sc) (fun _ _ => false)
    (fun s c => .done s (if cond c then some (branchTarget c off) else none))

/-- R204. -/
def execBr (sp : Option Word) (sc : BitVec 3) (off : BitVec 13) : State → Host.Outcome State Fault Refusal :=
  branchOn (fun _ => true) sp sc off
/-- R204. -/
def execBz (sp : Option Word) (sc : BitVec 3) (a : Reg) (off : BitVec 13) : State → Host.Outcome State Fault Refusal :=
  branchOn (fun c => c.sreg a.toNat == 0) sp sc off
/-- R204. -/
def execBnz (sp : Option Word) (sc : BitVec 3) (a : Reg) (off : BitVec 13) : State → Host.Outcome State Fault Refusal :=
  branchOn (fun c => c.sreg a.toNat != 0) sp sc off
/-- R204. -/
def execBltz (sp : Option Word) (sc : BitVec 3) (a : Reg) (off : BitVec 13) : State → Host.Outcome State Fault Refusal :=
  branchOn (fun c => (c.sreg a.toNat).msb) sp sc off
/-- R204. -/
def execBgez (sp : Option Word) (sc : BitVec 3) (a : Reg) (off : BitVec 13) : State → Host.Outcome State Fault Refusal :=
  branchOn (fun c => !(c.sreg a.toNat).msb) sp sc off

/-! What stands in the lane stream -/

/-- The words w0 and w1 of a lane word, where both can be read now. -/
def laneHead (s : State) (c : Ctx) (off : Nat) : Option (Word × Word) :=
  match fetchLane s c off 0, fetchLane s c off 1 with
  | .word w0, .word w1 => some (w0, w1)
  | _, _ => none

/-- The lane words of a clause that have not issued, each unknown while it cannot be read; none while the header cannot. -/
def clauseRest (s : State) (c : Ctx) (q : Clause) : Option (List (Option (Word × Word))) :=
  (clauseCount s c q).map (fun n =>
    ((List.range n).filter (fun i => q.next ≤ i)).map (fun i => laneHead s c (q.off.toNat + 1 + i)))

/-- A lane instruction not yet issued satisfies `p`, or may: a word that cannot be read now is not known to be another. -/
def mayStand (s : State) (c : Ctx) (p : Word → Word → Bool) : Bool :=
  c.clauses.any (fun q => (clauseRest s c q).all (fun ws => ws.any (fun w => w.all (fun x => p x.1 x.2))))

/-- A lane word of this opcode with these d and c fields writes predicate `n` (R63). -/
def writesPred (op : Nat) (d c n : Nat) : Bool :=
  ((op = 0x18 || op = 0x1A) && d = n) || ((op = 0x40 || op = 0x41) && c = n)

/-- A lane instruction that writes pN was enqueued and has not completed (R43, R49). -/
def predPending (s : State) (c : Ctx) (n : Nat) : Bool :=
  mayStand s c (fun w0 w1 => writesPred (bits w0 31 24) (bits w0 23 16) (bits w1 31 24) n) ||
  c.flights.any (fun f => f.kind == .fixed && writesPred f.opcode f.form.d.toNat f.form.c.toNat n)

/-- Every instruction enqueued has completed (R41, R211). -/
def Ctx.laneIdle (c : Ctx) : Bool := c.clauses.isEmpty && c.flights.isEmpty

/-! Predicate branches and paths -/

/-- BUNI over the active lanes of pN (R49). -/
def execBuni (sp : Option Word) (sc : BitVec 3) (n : BitVec 3) (off : BitVec 13) :
    State → Host.Outcome State Fault Refusal :=
  runCtrl { flowSpec sp sc with levels := groupLevels, onlyScope := some 1, single := true } (fun _ _ => false)
    (fun s c =>
      if predPending s c n.toNat then .wait s
      else
        let m := c.path.mask &&& c.liveMask
        let t := c.pred n.toNat &&& m
        if m = 0 || t = 0 then .done s none
        else if t = m then .done s (some (branchTarget c off))
        else .fault s NONUNI 0)

/-- CALL pushes the fall-through address (R206). -/
def execCall (sp : Option Word) (sc : BitVec 3) (off : BitVec 13) : State → Host.Outcome State Fault Refusal :=
  runCtrl { flowSpec sp sc with single := true } (fun _ _ => false)
    (fun s c =>
      if 16 ≤ c.calls.length then .fault s STACK 0
      else .done (setCtx s { c with calls := c.calls ++ [c.pc + BitVec.ofNat 24 (wordsOf false sp)] })
        (some (branchTarget c off)))

/-- RET pops (R206). -/
def execRet (sp : Option Word) (sc : BitVec 3) : State → Host.Outcome State Fault Refusal :=
  runCtrl { flowSpec sp sc with single := true } (fun _ _ => false)
    (fun s c =>
      match c.calls.getLast? with
      | none => .fault s STACK 0
      | some t => .done (setCtx s { c with calls := c.calls.dropLast }) (some t))

/-- LOOP opens a loop (R207). -/
def execLoop (sp : Option Word) (sc : BitVec 3) (a : Reg) (off : BitVec 12) : State → Host.Outcome State Fault Refusal :=
  runCtrl { flowSpec sp sc with single := true } (fun _ _ => false)
    (fun s c =>
      let n := c.sreg a.toNat
      if n = 0 then .done s (some (c.pc + off.setWidth 24))
      else if 8 ≤ c.loops.length then .fault s STACK 0
      else .done (setCtx s { c with loops := c.loops ++ [(n, c.pc + BitVec.ofNat 24 (wordsOf false sp))] }) none)

/-- LOOP next (R207). -/
def execLoopNext (sp : Option Word) (sc : BitVec 3) : State → Host.Outcome State Fault Refusal :=
  runCtrl { flowSpec sp sc with single := true } (fun _ _ => false)
    (fun s c =>
      match c.loops.getLast? with
      | none => .fault s STACK 0
      | some (n, top) =>
        if n - 1 = 0 then .done (setCtx s { c with loops := c.loops.dropLast }) none
        else .done (setCtx s { c with loops := c.loops.dropLast ++ [(n - 1, top)] }) (some top))

/-- LOOP leave (R207). -/
def execLoopLeave (sp : Option Word) (sc : BitVec 3) : State → Host.Outcome State Fault Refusal :=
  runCtrl { flowSpec sp sc with single := true } (fun _ _ => false)
    (fun s c =>
      match c.loops.getLast? with
      | none => .fault s STACK 0
      | some _ => .done (setCtx s { c with loops := c.loops.dropLast }) none)

/-- The children of a context that have not ended (R29, R33). -/
def children (s : State) (c : Ctx) : List Ctx := s.ctxs.filter (fun x => x.parent == some c.id)

/-- A child is live until it executes END or acts on its marker, as its entry of the gather state tells (R33, R345). -/
def Ctx.liveChild (c : Ctx) (child : Nat) : Bool := !c.gather.any (fun r => r.child == child && !r.live)

/-- The live children of a context (R33). -/
def liveChildren (s : State) (c : Ctx) : List Ctx := (children s c).filter (fun x => c.liveChild x.id)

/-- A live child's descent queue is full (R35). -/
def childFull (s : State) (c : Ctx) : Bool := (liveChildren s c).any (fun x => 8 ≤ x.descent.length)

/-- An entry is placed in the queue of every live child (R34). -/
def broadcast (s : State) (c : Ctx) (e : Descent) : State :=
  { s with ctxs := s.ctxs.map (fun x =>
      if x.parent = some c.id ∧ c.liveChild x.id = true then { x with descent := x.descent ++ [e] } else x) }

/-- The entry of a child in the gather state of its parent shows that it is not live (R33, R345). -/
def Ctx.unlive (c : Ctx) (child : Nat) : Ctx :=
  { c with gather := c.gather.map (fun r => if r.child = child then { r with live := false } else r) }

/-- A context is not live from here on: its parent neither sends to it nor waits for its report (R33). -/
def leaveParent (s : State) (c : Ctx) : State :=
  match c.parent with
  | some p => modCtx s p (fun x => x.unlive c.id)
  | none => s

/-- The running path exits with every lane it holds (R45). -/
def Ctx.exitPath (c : Ctx) : Ctx :=
  let h := c.path.held
  let c1 : Ctx := { c.setPath defaultPath with exited := c.exited ||| h }
  c1.dropLanes h

/-- END at lane scope: the path exits, and the group ends with its last live path (R45); the freed entry keeps the pc of the
END, which a record may name. -/
def endLane (s : State) (c : Ctx) (sp : Option Word) : Act :=
  let c1 := c.ageOthers.exitPath
  if c1.livePaths = 0 then
    .suspend (leaveParent (setCtx s { c1.setPath { defaultPath with pc := c.pc } with mode := .ending }) c)
  else
    .suspend (setCtx s (match sp with
      | some w => { c1 with ckpt := c1.checkpoint s.nextId (w.getLsbD 1) }
      | none => c1))

/-- END of a context: markers go to the live children, and the context waits, live no more (R33, R208). -/
def endContext (s : State) (c : Ctx) : Act :=
  if childFull s c then .wait s
  else
    let s1 := broadcast s c .marker
    let s2 := if c.level == 4 then
        (match getLaunch s1 c.launch with
         | some l => setLaunch s1 { l with gridEnd := true }
         | none => s1)
      else s1
    .suspend (leaveParent (setCtx s2 { c with mode := .ending }) c)

/-- R208. -/
def execEndc (sp : Option Word) (sc : BitVec 3) : State → Host.Outcome State Fault Refusal :=
  runCtrl { flowSpec sp sc with laneScope := true, aged := sc == 0 } (fun _ _ => false)
    (fun s c => if sc = 0 then endLane s c sp else endContext s c)

/-- The free entry of the path table that a split takes: the spec says only "a free entry" (R43, R209), and the model takes the
lowest (log entry 133). -/
def Ctx.freePath (c : Ctx) : Option Nat :=
  (List.range c.paths.length).find? (fun j => (c.paths.getD j defaultPath).state = 0)

/-- The running path split at T: the free entry `j` takes T and the target (R43); it waits at once where the target is its
top meeting address (R44). -/
def Ctx.splitPath (c : Ctx) (j : Nat) (t : LaneMask) (target : Pc) : Ctx :=
  let p := c.path
  let state : BitVec 2 := if (p.meets.getLast?.map Prod.fst) = some target then 3 else 2
  let new : PathEntry := { p with state := state, pc := target, mask := t, held := t, age := 0 }
  let c1 := c.setPath { p with mask := p.mask &&& ~~~ t, held := p.held &&& ~~~ t }
  { c1 with paths := c1.paths.set j new, sregBad := copyMarks c1.sregBad c.run j }

/-- BRL (R43, R209): the other paths age before the split, so that the new one has age 0. -/
def execBrl (sp : Option Word) (sc : BitVec 3) (n : BitVec 3) (off : BitVec 13) :
    State → Host.Outcome State Fault Refusal :=
  runCtrl { branchSpec sp sc with levels := groupLevels, onlyScope := some 0, aged := true } (fun _ _ => false)
    (fun s c =>
      if predPending s c n.toNat then .wait s
      else
        let t := c.pred n.toNat &&& c.path.mask
        let old := c.ageOthers
        if t = 0 then .done (setCtx s old) none
        else if t = c.path.mask then .done (setCtx s old) (some (branchTarget c off))
        else
          match c.freePath with
          | none => .fault s PATHS 0
          | some j => .done (setCtx s (old.splitPath j t (branchTarget c off))) none)

/-- MEET pushes the target and the running path's EXM (R43). -/
def execMeet (sp : Option Word) (sc : BitVec 3) (off : BitVec 13) : State → Host.Outcome State Fault Refusal :=
  runCtrl { flowSpec sp sc with levels := groupLevels, laneScope := true, onlyScope := some 0 } (fun _ _ => false)
    (fun s c =>
      if 8 ≤ c.path.meets.length then .fault s STACK 0
      else .done (setCtx s (c.setPath { c.path with meets := c.path.meets ++ [(branchTarget c off, c.path.mask)] })) none)

/-! The lane stream (R210 to R214) -/

/-- An instruction of groups and tasks with no scope field. -/
def groupSpec (sp : Option Word) (lit : Bool) (writes : List Nat) : CtrlSpec :=
  { len := wordsOf lit sp, sp := sp, levels := groupLevels, writes := writes }

/-- The w0 words of a clause of `n` instructions, up to the end of the lane section; the first word that is not there. -/
def clauseW0 (s : State) (c : Ctx) (off n : Nat) : List Fetch :=
  ((List.range n).filter (fun i => off + 1 + i < 65536)).map (fun i => fetchLane s c (off + 1 + i) 0)

def Fetch.val : Fetch → Word
  | .word w => w
  | _ => 0

/-- The clause at a lane-word offset holds a BATOM or a LATOM (R187). -/
def clauseHasAtomic (s : State) (c : Ctx) (off : Nat) : Bool :=
  match fetchLane s c off 0 with
  | .word h => (clauseW0 s c off (bits h 31 28 + 1)).any (fun f => [0x52, 0x56].contains (bits f.val 31 24))
  | _ => false

/-- The first fetch of a LANE that is not a word, if any. -/
def laneFetchFail (s : State) (c : Ctx) (off : Nat) : Option Fetch :=
  match fetchLane s c off 0 with
  | .word h => (clauseW0 s c off (bits h 31 28 + 1)).find? (fun f => match f with
      | .word _ => false
      | _ => true)
  | f => some f

/-- What a fetch that yields no word does to its context (R401, R347, R36). -/
def fetchAct (s : State) (c : Ctx) (pc : Word) : Fetch → Act
  | .word _ => .wait s
  | .wait => .wait s
  | .absent va => .wait (stallFetch s c va pc)
  | .peer d a => .wait (askFetch s c d a (trapPcOf false c.pc.toNat))
  | .outside => .fault s ILLEGAL 0
  | .hole a => .hole a
  | .bad k => .ue s k

/-- LANE, of its context, as an instruction (R39, R48). -/
def laneCtrl (sp : Option Word) : CtrlSpec := { groupSpec sp false [] with ageing := true }

/-- With S = 0 the check of R187 belongs to the first step of R189, so a word of the clause that cannot be read is waited for, or
its failure taken, before the later steps (R401): what the LANE does then, if its clause holds no atomic as far as it can be read. -/
def laneBlocked (sp : Option Word) (m : BitVec 16) (s : State) : Option (Host.Outcome State Fault Refusal) :=
  match s.turn with
  | .ctrl id | .ctrlUe id =>
    (getCtx s id).bind (fun c =>
      if sp.isSome || !c.canRun || !powered s || clauseHasAtomic s c m.toNat then none
      else (laneFetchFail s c m.toNat).map (fun f => finishCtrl id (laneCtrl sp) c.pc c.pc.toNat (fetchAct s c (trapPcOf false c.pc.toNat) f)))
  | _ => none

/-- LANE (R39, R210): absorption, the full queue, and the new clause. The clause check of R187 is made in every context, a
sequencer too, where the S-bit duty is not: R189 excepts that duty alone (log entry 21). -/
def execLane (sp : Option Word) (d : Reg) (m : BitVec 16) (s : State) : Host.Outcome State Fault Refusal :=
  (laneBlocked sp m s).getD <|
  runCtrl (laneCtrl sp)
    (fun s c => sp.isNone && clauseHasAtomic s c m.toNat)
    (fun s c =>
      match laneFetchFail s c m.toNat with
      | some f => fetchAct s c (trapPcOf false c.pc.toNat) f
      | none =>
        if 16 ≤ c.clauses.length then .wait s
        else
          let h := (fetchLane s c m.toNat 0).val
          let sig := (clauseW0 s c m.toNat (bits h 31 28 + 1)).foldl (fun g f => absorb g f.val) c.path.sig
          let (id, s1) := fresh s
          let q : Clause := ⟨id, m, c.sregRun d.toNat 4, c.path.mask, c.nbv, effPols s c, c.run, c.live, c.liveRegs, false, 0, 0, 0, false⟩
          let c1 := c.setPath { c.path with sig := sig }
          .done (setCtx s1 { c1 with clauses := c1.clauses ++ [q] }) none) s

/-- LSYNC (R211). -/
def execLsync (sp : Option Word) : State → Host.Outcome State Fault Refusal :=
  runCtrl (groupSpec sp false []) (fun _ _ => false) (fun s c => if c.laneIdle then .done s none else .wait s)

/-- PTOS (R213); the scalar stream consumes an uncorrectable predicate (R347). -/
def execPtos (sp : Option Word) (d : Reg) (n : BitVec 3) : State → Host.Outcome State Fault Refusal :=
  runCtrl (groupSpec sp false [d.toNat, d.toNat + 1]) (fun _ _ => false)
    (fun s c =>
      if !c.laneIdle then .wait s
      else if c.predUe n.toNat then .ue s 0
      else
        let p := c.pred n.toNat
        .done (setCtx s (c.setSregRun d.toNat [p.setWidth 32, p.extractLsb' 32 32])) none)

/-- The words of lane `l` of consecutive registers for VTOS: an absent or dead lane is 0, a stale granule follows the REG
policy, and uncorrectable data is consumed by the scalar stream (R213, R347). -/
def vtosRead (s : State) (c : Ctx) (d : Nat) (regs : List Nat) (l : Nat) : Act :=
  let dead := !c.present.getLsbD l || c.dmk.getLsbD l
  let key (r : Nat) : Nat := coreKey c.core (c.vregOff r l)
  if regs.any (fun r => c.vregs ≤ r) then .fault s PERM 0
  else if dead then .done (setCtx s (c.setSregRun d (regs.map (fun _ => 0)))) none
  else
    match regs.find? (fun r => c.polReg && vstale s c r l) with
    | some r => .fault s STALE (BitVec.ofNat 32 (c.vregOff r l / 64 * 64))
    | none =>
      match regs.find? (fun r => !vstale s c r l && poisonAt s (key r)) with
      | some r => .ue s (c.vregOff r l)
      | none => .done (setCtx s (c.setSregRun d (regs.map (fun r => vread s c r l)))) none

/-- VTOS of one lane (R213). -/
def execVtos (sp : Option Word) (d a : Reg) (l : BitVec 6) : State → Host.Outcome State Fault Refusal :=
  runCtrl (groupSpec sp false [d.toNat]) (fun _ _ => false)
    (fun s c => if c.laneIdle then vtosRead s c d.toNat [a.toNat] l.toNat else .wait s)

/-- VTOS, the pair form (R213). -/
def execVtosPair (sp : Option Word) (d a : Reg) (l : BitVec 6) : State → Host.Outcome State Fault Refusal :=
  runCtrl (groupSpec sp false [d.toNat, d.toNat + 1]) (fun _ _ => false)
    (fun s c => if c.laneIdle then vtosRead s c d.toNat [a.toNat, a.toNat + 1] l.toNat else .wait s)

/-- VTOS of the lowest lane of the running path's mask (R213). -/
def execVtosFirst (sp : Option Word) (d a : Reg) : State → Host.Outcome State Fault Refusal :=
  runCtrl (groupSpec sp false [d.toNat]) (fun _ _ => false)
    (fun s c =>
      if !c.laneIdle then .wait s
      else if c.vregs ≤ a.toNat then .fault s PERM 0
      else if c.path.mask = 0 then .done (setCtx s (c.setSreg d.toNat 0)) none
      else vtosRead s c d.toNat [a.toNat] (lowestLane c.path.mask))

/-- EXMR (R47). -/
def execExmr (sp : Option Word) (d : Reg) : State → Host.Outcome State Fault Refusal :=
  pureCtrl (groupSpec sp false [d.toNat, d.toNat + 1])
    (fun c => c.setSregRun d.toNat [c.path.mask.setWidth 32, c.path.mask.extractLsb' 32 32])

/-- EXMW: the written value, the path's held lanes and the live lanes (R47). -/
def execExmw (sp : Option Word) (a : Reg) : State → Host.Outcome State Fault Refusal :=
  pureCtrl (groupSpec sp false [])
    (fun c => c.setPath { c.path with
      mask := (c.sreg (a.toNat + 1) ++ c.sreg a.toNat) &&& c.path.held &&& c.liveMask })

end Sys2Proof.Machine
end

