-- ==== Sys2Proof/Machine/Coord.lean ====
section
/-! DEFINITION. Between levels, barriers and the reel, fences and waits, system registers, traps and checks (R32 to R38, R69
to R82, R215 to R235), with the events that complete them. -/

namespace Sys2Proof.Machine

/-! Descent and reports (R34 to R38, R215 to R217) -/

/-- Words of the section below a context's level. -/
def lowerWords (s : State) (c : Ctx) : Nat :=
  (getLaunch s c.launch).elim 0 (fun l => l.sectWords (sectOf (c.level - 1)))

/-- The arguments sd to sd+3 are placed in every live child's queue, or the DOWN waits (R34, R35). -/
def execDown (sp : Option Word) (d : Reg) (m : BitVec 16) : State → Host.Outcome State Fault Refusal :=
  let spec : CtrlSpec := { len := wordsOf false sp, sp := sp, levels := [2, 3, 4], blockMode := true }
  runCtrl spec (fun _ _ => false)
    (fun s c =>
      if lowerWords s c ≤ m.toNat then .fault s ILLEGAL 0
      else
        let args := c.sregRun d.toNat 4
        if childFull s c then .suspend (setCtx s { c with mode := .down m args spec.len })
        else .done (broadcast s c (.segment m args)) none)

/-- A stalled DOWN completes once no live child's queue is full (R35). -/
def execDescentUnstall (c : Nat) (s : State) : Host.Outcome State Fault Refusal :=
  match getCtx s c with
  | some x =>
    match x.mode with
    | .down off args len =>
      if childFull s x || !powered s then .next s
      else
        let s1 := setCtx s { x with mode := .run }
        .next (modCtx (broadcast s1 x (.segment off args)) c (fun y => y.setPc (y.pc + BitVec.ofNat 24 len)))
    | _ => .next s
  | none => .next s

/-- SEGEND ends the segment; the context idles until its next entry begins (R36, R216). -/
def execSegend (sp : Option Word) : State → Host.Outcome State Fault Refusal :=
  runCtrl { len := wordsOf false sp, sp := sp, levels := [0, 2, 3], single := true } (fun _ _ => false)
    (fun s c => .suspend (setCtx s { c with mode := .idle }))

/-- A segment begins: its offset and its four words, and in a group the commit of the region before it and an implicit safe
point (R36, R330). -/
def Ctx.beginSegment (c : Ctx) (off : BitVec 16) (args : List Word) (rest : List Descent) (clause : Nat) : Ctx :=
  let c1 := { c with descent := rest, dhead := (c.dhead + 1) % 8, mode := .run }
  let c2 := (c1.setSregRun 248 args).setPc (off.setWidth 24)
  if c.isGroup then
    let c3 := { c2 with replay := [], reissue := [], regionLen := 0, live := none, armed := false }
    { c3 with ckpt := { c3.checkpoint clause false with seg := some args } }
  else c2

/-- A child takes its next descent entry, a group after the first step of a safe point for the region before it (R36, R329, R330,
R379). -/
def execSegmentStart (c : Nat) (s : State) : Host.Outcome State Fault Refusal :=
  match getCtx s c with
  | some x =>
    match x.mode, x.descent with
    | .idle, .segment off args :: rest =>
      if !powered s then .next s
      else if x.isGroup then
        if !memLanesIssued s x then .next s
        else
        match commit s x with
        | (s1, false) => .next s1
        | (s1, true) =>
          let y := (getCtx s1 c).getD x
          .next { setCtx s1 (y.beginSegment off args rest s1.nextId) with nextId := s1.nextId + 1 }
      else .next (setCtx s (x.beginSegment off args rest s.nextId))
    | _, _ => .next s
  | none => .next s

/-- A child has reached an end marker: it has no more queue entries to take and waits for its end, live no more (R33). -/
def markEnd (s : State) (x : Ctx) (rest : List Descent) : State :=
  leaveParent (setCtx (broadcast s x .marker) { x with mode := .ending, descent := rest, dhead := (x.dhead + 1) % 8 }) x

/-- A child reaches an end marker and ends as by END at its own scope, in a group a safe point that commits its stores first (R33,
R208, R329). -/
def execEndMarker (c : Nat) (s : State) : Host.Outcome State Fault Refusal :=
  match getCtx s c with
  | some x =>
    match x.mode, x.descent with
    | .idle, .marker :: rest =>
      if childFull s x || !powered s then .next s
      else if x.isGroup then
        if !memLanesIssued s x then .next s
        else
          match commit s x with
          | (s1, false) => .next s1
          | (s1, true) => .next (markEnd s1 ((getCtx s1 c).getD x) rest)
      else .next (markEnd s x rest)
    | _, _ => .next s
  | none => .next s

/-- The gather entry of a child. -/
def reportOf (p : Ctx) (child : Nat) : Option (BitVec 3 × Word) :=
  ((p.gather.find? (fun r => r.child == child)).bind Report.standing)

def setReport (p : Ctx) (child : Nat) (v : BitVec 3 × Word) : Ctx :=
  { p with gather := p.gather.map (fun r => if r.child = child then { r with standing := some v } else r) }

/-- UP sends a report, or waits while the last one stands (R37, R38, R217). -/
def execUp (sp : Option Word) (a : Reg) (op : BitVec 3) : State → Host.Outcome State Fault Refusal :=
  runCtrl { len := wordsOf false sp, sp := sp, must := true, levels := [0, 2, 3], single := true } (fun _ _ => false)
    (fun s c =>
      match c.parent.bind (getCtx s) with
      | none => .wait s
      | some p =>
        if (reportOf p c.id).isSome then .wait s
        else .done (setCtx s (setReport p c.id (op, c.sreg a.toNat))) none)

/-- The result of a gather operator with no reports (R37). -/
def gatherEmpty (op : Nat) : Word :=
  match op with
  | 2 => 0x7FFFFFFF
  | 3 => 0x80000000
  | 4 => 0xFFFFFFFF
  | 6 => 0xFFFFFFFF
  | _ => 0

/-- One combining step of a gather operator (R37). -/
def gatherStep (op : Nat) (x y : Word) : Word :=
  match op with
  | 1 => x + y
  | 2 => wMin x y
  | 3 => wMax x y
  | 4 => x &&& y
  | 5 => x ||| y
  | 6 => wMinu x y
  | 7 => wMaxu x y
  | _ => x

def gatherAll (op : Nat) : List Word → Word
  | [] => gatherEmpty op
  | x :: r => r.foldl (gatherStep op) x

/-- GATHER combines and consumes the standing reports once every live child has one (R37, R38, R217). -/
def execGather (sp : Option Word) (d : Reg) (op : BitVec 3) : State → Host.Outcome State Fault Refusal :=
  runCtrl { len := wordsOf false sp, sp := sp, levels := [2, 3, 4], blockMode := true, writes := [d.toNat] } (fun _ _ => false)
    (fun s c =>
      if c.gather.any (fun r => r.live && r.standing.isNone) then .wait s
      else
        let rs := c.gather.filterMap Report.standing
        let vs := rs.map Prod.snd
        if rs.any (fun r => r.1 ≠ op) then .fault s NONUNI 0
        else if op = 0 && vs.any (fun v => v ≠ vs.headD 0) then .fault s NONUNI 0
        else
          let c1 : Ctx := { c with gather := c.gather.map (fun r => { r with standing := none }) }
          .done (setCtx s (c1.setSreg d.toNat (gatherAll op.toNat vs))) none)

/-! Barriers and the reel (R218, R219) -/

/-- The arrival of a group: the release steps, then it suspends at the barrier (R218). -/
def arriveAt (i : Instr) (len owner n scope : Nat) (s : State) (c : Ctx) : Act :=
  match releaseSteps s c scope with
  | (s1, false) => .wait s1
  | (s1, true) =>
    let suspended : Ctx → Ctx := fun c => { c with mode := .barrier owner n i len }
    .suspend (modCtx s1 c.id suspended)

/-- BAR (R218); in a task it completes at once (R51). -/
def execBar (sp : Option Word) (n : BitVec 4) : State → Host.Outcome State Fault Refusal :=
  runCtrl { groupSpec sp false [] with must := true, single := true } (fun _ _ => false)
    (fun s c =>
      if c.task then .done s none
      else arriveAt (.bar sp n) (wordsOf false sp) (c.parent.getD 0) n.toNat 2 s c)

/-- The cluster context above a group (R25). -/
def clusterOf (s : State) (c : Ctx) : Option Nat := (blockOf s c).bind Ctx.parent

/-- BARC (R218). -/
def execBarc (sp : Option Word) (n : BitVec 2) : State → Host.Outcome State Fault Refusal :=
  runCtrl { len := wordsOf false sp, sp := sp, must := true, levels := [0], single := true } (fun _ _ => false)
    (fun s c => arriveAt (.barc sp n) (wordsOf false sp) ((clusterOf s c).getD 0) (16 + n.toNat) 3 s c)

/-- A group has arrived at a barrier. -/
def Ctx.atBarrier (c : Ctx) (owner n : Nat) : Bool :=
  match c.mode with
  | .barrier o m _ _ => o = owner && m = n
  | _ => false

/-- A live participant: a group of the block for BAR, of the cluster context's blocks for BARC, that has neither failed nor
executed END (R33, R218). -/
def participates (s : State) (owner n : Nat) (c : Ctx) : Bool :=
  c.level == 1 && !c.task && c.mode ≠ .faulted && c.mode ≠ .ended &&
    (c.parent.bind (getCtx s)).all (fun p => p.liveChild c.id) &&
    (if n < 16 then c.parent == some owner else clusterOf s c == some owner)

/-- Insertion by core, then slot (R219). -/
def insertSlot (c : Ctx) : List Ctx → List Ctx
  | [] => [c]
  | x :: r => if c.core * 128 + c.slot < x.core * 128 + x.slot then c :: x :: r else x :: insertSlot c r

/-- The list cut into waves of `w` (R219). -/
def waves (w : Nat) : Nat → List Nat → List (List Nat)
  | 0, _ => []
  | n + 1, l => if l.isEmpty then [] else l.take w :: waves w n (l.drop w)

/-- Nanoseconds of a number of core clocks at the full clock (R18), rounded up. -/
def clkNs (n : Nat) : Nat := (n * 20 + 20) / 21

/-- Device time less what droops have stretched it by: spans in clk are measured on it (R18, R367; log entry 103). -/
def clusterTime (s : State) (k : Nat) : Nat := dieTime s (clusterDie k) - (getCluster s k).lag / 5

/-- A barrier opens when every live participant has arrived; the reel takes the arrived groups with the WAVE and GAP in
force (R218, R219). -/
def execBarrierOpen (owner n : Nat) (s : State) : Host.Outcome State Fault Refusal :=
  let arrived := s.ctxs.filter (fun c => c.atBarrier owner n)
  if arrived.isEmpty || !powered s || s.ctxs.any (fun c => participates s owner n c && !c.atBarrier owner n) then .next s
  else
    let order := arrived.foldl (fun l c => insertSlot c l) []
    let k := (order.headD default).cluster
    let cl := getCluster s k
    let ws := waves (cl.wave.toNat + 1) order.length (order.map Ctx.id)
    let r : Reel := ⟨ws, clusterTime s k, clkNs cl.gap.toNat⟩
    let s1 := setCluster s k { cl with reels := cl.reels ++ [r] }
    .next { s1 with ctxs := s1.ctxs.map (fun c =>
      match c.mode with
      | .barrier o m i len => if o = owner && m = n then { c with mode := .reel i len } else c
      | _ => c) }

/-- A released group resumes past its barrier, after the acquire steps of its fence (R218, R329). -/
def Ctx.leaveBarrier (c : Ctx) (nextId : Nat) : Ctx :=
  match c.mode with
  | .reel i len =>
    let sp := match i with
      | .bar sp _ => sp
      | .barc sp _ => sp
      | _ => none
    ({ c with mode := .run, loadFence := nextId }).advance { len := len, sp := sp, levels := [0], counted := true }
      (c.pc + BitVec.ofNat 24 len) nextId
  | _ => c

/-- The place of the reel whose wave comes next, where it is due: the earliest in time, and of those the barrier that opened first
(R219). Reels stand in the order in which their barriers opened. -/
def dueReel (now : Nat) (l : List Reel) : Option Nat :=
  ((l.map Reel.nextAt).min?).bind (fun t => if t ≤ now then l.findIdx? (fun r => r.nextAt = t) else none)

/-- The next wave of a releasing barrier resumes (R219). -/
def execReelWave (cl : Nat) (s : State) : Host.Outcome State Fault Refusal :=
  let k := getCluster s cl
  let now := clusterTime s cl
  match dueReel now k.reels with
  | none => .next s
  | some i =>
    let r := k.reels.getD i default
    if !powered s then .next s
    else
      match r.waves with
      | [] => .next (setCluster s cl { k with reels := k.reels.eraseIdx i })
      | w :: ws =>
        let s1 := setCluster s cl { k with reels :=
          if ws.isEmpty then k.reels.eraseIdx i else k.reels.set i { r with waves := ws, nextAt := now + r.gap } }
        .next { s1 with ctxs := s1.ctxs.map (fun c => if w.contains c.id then c.leaveBarrier s1.nextId else c) }

/-! Fences and waits on the lane stream and the engines (R212, R220, R223) -/

/-- Every enqueued lane instruction has issued (R212). -/
def allIssued (c : Ctx) : Bool := c.clauses.all (fun q => q.started && q.count ≤ q.next)

/-- WAITF's condition (R141, R220): nothing selected, or every clause issued and the selected counts zero. -/
def waitfMet (c : Ctx) (m : Nat) : Bool := m = 0 || (allIssued c && c.flagsClear m)

/-- WAITE's condition (R145, R220): no queued MMA where it waits on MATRIX, whatever its bound (log entry 137), and the counter at
or below the bound. -/
def waiteMet (s : State) (c : Ctx) (cls : BitVec 2) (t : Nat) : Bool :=
  !(cls = 1 && mayStand s c (fun w0 _ => bits w0 31 24 = 0x60)) && c.engineCount cls ≤ t

/-- WAITF (R212). -/
def execWaitf (sp : Option Word) (m : BitVec 12) : State → Host.Outcome State Fault Refusal :=
  runCtrl (groupSpec sp false []) (fun _ _ => false)
    (fun s c => if waitfMet c m.toNat then .done s none else .wait s)

/-- WAITE (R145, R220). -/
def execWaite (sp : Option Word) (cls : BitVec 2) (t : BitVec 6) : State → Host.Outcome State Fault Refusal :=
  runCtrl (groupSpec sp false []) (fun _ _ => false)
    (fun s c => if waiteMet s c cls t.toNat then .done s none else .wait s)

/-- The acquire steps of a fence: later loads stand behind those issued, and at system scope the core's clean lines are
retired (R223, R322). -/
def acquireSteps (s : State) (c : Ctx) (scope : Nat) : State :=
  let pending := c.flights.any (fun f => !f.accs.isEmpty)
  let s1 := modCtx s c.id (fun c => { c with
    loadFence := s.nextId
    retire := if scope = 5 && pending then c.retire ++ [s.nextId] else c.retire })
  if scope = 5 && !pending then retireClean s1 c.core else s1

/-- FENCE (R223). -/
def execFence (sp : Option Word) (kind : BitVec 2) (sc : BitVec 3) : State → Host.Outcome State Fault Refusal :=
  runCtrl (groupSpec sp false []) (fun _ _ => false)
    (fun s c =>
      let (s1, ok) := if kind = 0 then (s, true) else releaseSteps s c sc.toNat
      if !ok then .wait s1
      else .done (if kind = 1 then s1 else acquireSteps s1 c sc.toNat) none)

/-! System registers (R69 to R82, R232) -/

/-- What GETSR of a register returns, shadows apart (R70 to R82): zero in a context that the register does not describe. -/
def sysRead (s : State) (c : Ctx) (n : Nat) : Word :=
  let g (w : Word) : Word := if c.isGroup then w else 0
  let w (n : Nat) : Word := BitVec.ofNat 32 n
  let b (x : Bool) : Nat := x.toNat
  match n with
  | 0x001 => w (b c.task * 8 + c.level.toNat)
  | 0x002 => if c.isGroup then 0 else w (liveChildren s c).length
  | 0x003 => w c.childIx
  | 0x004 => w c.groupIx
  | 0x005 => w c.blockIx
  | 0x006 => w (c.cctx * 2 ^ 16 + c.clusterIx)
  | 0x007 => if c.isGroup then w (c.core % 4 * 2 ^ 16 + c.die.toNat * 256 + c.core) else w (c.die.toNat * 256 + 0xFF)
  | 0x008 => g (w (c.slot % 16 * 2 ^ 16 + c.slot))
  | 0x009 => g (w (c.run * 2 ^ 16 + c.livePaths * 256 + c.paths.length))
  | 0x00A => c.dmk.setWidth 32
  | 0x00B => c.dmk.extractLsb' 32 32
  | 0x00C => w (dieTime s c.die)
  | 0x00D => c.timeHi.getD (w (dieTime s c.die / 2 ^ 32))
  | 0x00E => w c.wct
  | 0x00F => c.wctHi.getD (w (c.wct / 2 ^ 32))
  | 0x010 => g ((getCore s c.core).ce ++ (getCore s c.core).late)
  | 0x011 => c.busyFlags
  | 0x012 => g (w (c.scrGen.toNat * 2 ^ 16 + c.regGen.toNat))
  | 0x013 => w c.depth
  | 0x014 => (c.loops.getLast?.map Prod.fst).getD 0
  | 0x020 => w c.nbv.toNat
  | 0x021 => g (w c.agelim.toNat)
  | 0x022 =>
    let k := getCluster s c.cluster
    if c.level = 4 then 0 else w (k.limit.toNat * 2 ^ 16 + k.wave.toNat * 256 + k.gap.toNat)
  | 0x023 => w (leaseOf s c)
  | 0x024 => (effPols s c).setWidth 32
  | 0x025 => if c.isGroup || c.level = 2 then w (c.table * 256) else 0
  | 0x030 => g c.path.sig
  | 0x040 => c.trapCause
  | 0x041 => c.trapPc
  | 0x042 => c.trapAddr
  | _ => 0

/-- GETSR of TIMELO and WCTLO latches the high word (R71). -/
def latchHigh (s : State) (c : Ctx) (n : Nat) : Ctx :=
  if n = 0x00C then { c with timeHi := some (BitVec.ofNat 32 (dieTime s c.die / 2 ^ 32)) }
  else if n = 0x00E then { c with wctHi := some (BitVec.ofNat 32 (c.wct / 2 ^ 32)) }
  else c

/-- GETSR (R69 to R71, R232). -/
def execGetsr (sp : Option Word) (d : Reg) (m : BitVec 16) : State → Host.Outcome State Fault Refusal :=
  runCtrl (scalarSpec sp false d) (fun _ _ => false)
    (fun s c => .done (setCtx s ((latchHigh s c m.toNat).setSreg d.toNat (sysRead s c m.toNat))) none)

/-- The policy bit of every run of a kind that a context holds, on every core (R81). -/
def setPolicy (s : State) (owner : Nat) (kinds : List (BitVec 3)) (p : Bool) : State :=
  let f (r : Run) : Run := if r.owner = owner && kinds.contains r.kind then { r with policy := p } else r
  { s with cores := s.cores.map (fun k => { k with rows := k.rows.map f, tileRuns := k.tileRuns.map f }) }

/-- The policy bit of every vault run of a grid (R81). -/
def setVaultPolicy (s : State) (launch : Nat) (p : Bool) : State :=
  let f (r : Run) : Run := if r.owner = launch then { r with policy := p } else r
  { s with vaults := s.vaults.map (fun v => { v with units := v.units.map f }) }

/-- The effect of SETSR (R77, R78, R81, R232). -/
def sysWrite (s : State) (c : Ctx) (n : Nat) (v : Word) : State :=
  match n with
  | 0x020 => if c.isGroup then setCtx s { c with nbv := v.setWidth 2 } else s
  | 0x021 =>
    if c.isGroup then setCtx s { c with agelim := BitVec.ofNat 13 (max 64 (min 4096 (bits v 12 0))) } else s
  | 0x024 =>
    if c.isGroup then setPolicy (setCtx s { c with polReg := v.getLsbD 0 }) c.id [1] (v.getLsbD 0)
    else if c.level = 2 then
      setPolicy (setPolicy (setCtx s { c with polScr := v.getLsbD 1, polAcc := v.getLsbD 2 }) c.id [2] (v.getLsbD 1))
        c.id [6] (v.getLsbD 2)
    else if c.level = 4 then setVaultPolicy (setCtx s { c with polVlt := v.getLsbD 3 }) c.launch (v.getLsbD 3)
    else s
  | 0x030 => if c.isGroup then setCtx s (c.setPath { c.path with sig := v }) else s
  | _ => s

/-- SETSR (R70, R232): NBV, STALEPOL and SIGREG in a group first wait as LSYNC does. -/
def execSetsr (sp : Option Word) (d : Reg) (m : BitVec 16) : State → Host.Outcome State Fault Refusal :=
  runCtrl { len := wordsOf false sp, sp := sp, levels := allLevels } (fun _ _ => false)
    (fun s c =>
      let v := c.sreg d.toNat
      if c.isGroup && [0x020, 0x024, 0x030].contains m.toNat && !c.laneIdle then .wait s
      else if c.isGroup && m.toNat = 0x020 && (v.setWidth 2 = (0 : BitVec 2) || v.setWidth 2 = (3 : BitVec 2)) then
        .fault s ILLEGAL 0
      else .done (sysWrite s c m.toNat v) none)

/-! Traps and checks (R233 to R235) -/

/-- TRAP raises TRAP with its code in TRAPADDR (R233). -/
def execTrap (sp : Option Word) (m : BitVec 16) : State → Host.Outcome State Fault Refusal :=
  runCtrl (groupSpec sp false []) (fun _ _ => false) (fun s _ => .fault s TRAP (m.setWidth 32))

/-- BRK raises BRK, or halts a group held under halt-on-break (R233). A halt raises no fault, so it writes none of TRAPCAUSE,
TRAPPC and TRAPADDR, which R233 does not say (log entry 94). -/
def execBrk (sp : Option Word) (m : BitVec 16) : State → Host.Outcome State Fault Refusal :=
  runCtrl (groupSpec sp false []) (fun _ _ => false)
    (fun s c =>
      if c.haltOnBreak then .suspend (setCtx s { c with mode := .halted (wordsOf false sp) })
      else .fault s BRK (m.setWidth 32))

/-- The debug port resumes a halted group at the next instruction (R233); one whose region has been cancelled is replayed (R324). -/
def execDebugResume (c : Nat) (s : State) : Host.Outcome State Fault Refusal :=
  match getCtx s c with
  | some x =>
    match x.mode with
    | .halted len =>
      if x.cancelled then .next (setCtx s { x with mode := .page 0 }) else
      let sp : CtrlSpec := { len := len, sp := if 1 < len then x.live else none, levels := groupLevels, counted := true }
      .next (setCtx s (({ x with mode := .run }).advance sp (x.pc + BitVec.ofNat 24 len) s.nextId))
    | _ => .next s
  | none => .next s

/-- SIGCHK (R234). -/
def execSigchk (sp : Option Word) (lit : Word) : State → Host.Outcome State Fault Refusal :=
  runCtrl (groupSpec sp true []) (fun _ _ => false)
    (fun s c =>
      if c.path.sig = lit then .done (setCtx s (c.setPath { c.path with sig := 0xFFFFFFFF })) none
      else .fault s SIG 0)

/-- NOP (R235). -/
def execNop (sp : Option Word) : State → Host.Outcome State Fault Refusal :=
  runCtrl { len := wordsOf false sp, sp := sp, levels := allLevels } (fun _ _ => false) (fun s _ => .done s none)

end Sys2Proof.Machine
end

