-- ==== Sys2Proof/Machine/Num.lean ====
section
/-! DEFINITION. Number formats and exact arithmetic (R260 to R278): values are read exactly, computed exactly, and rounded
once at the end. -/

namespace Sys2Proof.Machine

/-- A floating-point format (R261). -/
structure FFmt where
  /-- Exponent and fraction bits. -/
  expBits : Nat
  fracBits : Nat
  bias : Nat
  /-- Encoding of the largest finite magnitude. -/
  maxEnc : Nat
  /-- Encoding of +infinity, where the format has one. -/
  infEnc : Option Nat
  nanEnc : Nat
deriving DecidableEq, Repr

def fp32 : FFmt := ⟨8, 23, 127, 0x7F7FFFFF, some 0x7F800000, 0x7FC00000⟩
def fp16 : FFmt := ⟨5, 10, 15, 0x7BFF, some 0x7C00, 0x7E00⟩
def bf16 : FFmt := ⟨8, 7, 127, 0x7F7F, some 0x7F80, 0x7FC0⟩
def e4m3 : FFmt := ⟨4, 3, 7, 0x7E, none, 0x7F⟩
def e5m2 : FFmt := ⟨5, 2, 15, 0x7B, some 0x7C, 0x7E⟩

/-- A sign bit of the format. -/
def FFmt.sign (f : FFmt) : Nat := 2 ^ (f.expBits + f.fracBits)

/-- An exact value: NaN, an infinity, or (−1)^neg · m · 2^e, whose zeros keep their sign. -/
inductive FVal where
  | nan
  | inf (neg : Bool)
  | fin (neg : Bool) (m : Nat) (e : Int)
deriving DecidableEq, Repr

/-- The value of an encoding (R261). -/
def fdecode (f : FFmt) (x : Nat) : FVal :=
  let neg := x / f.sign % 2 = 1
  let mag := x % f.sign
  let ex := mag / 2 ^ f.fracBits
  let fr := mag % 2 ^ f.fracBits
  if some mag = f.infEnc then .inf neg
  else if f.maxEnc < mag then .nan
  else if ex = 0 then .fin neg fr (1 - (f.bias : Int) - f.fracBits)
  else .fin neg (2 ^ f.fracBits + fr) ((ex : Int) - f.bias - f.fracBits)

/-- Zero in place of a subnormal encoding, with its sign (R270). -/
def fflush (f : FFmt) (x : Nat) : Nat :=
  let mag := x % f.sign
  if mag / 2 ^ f.fracBits = 0 then x - mag else x

/-- An input: under version 1 a subnormal reads as zero of its sign (R270). -/
def fread (f : FFmt) (v1 : Bool) (x : Nat) : FVal := fdecode f (if v1 then fflush f x else x)

/-- An integer's value. -/
def fint (z : Int) : FVal := .fin (z < 0) z.natAbs 0

def FVal.neg : FVal → FVal
  | .nan => .nan
  | .inf n => .inf !n
  | .fin n m e => .fin (!n) m e

/-- The signed integer that multiplies 2^e' for a common exponent `e'` not above the value's own. -/
def signedAt (neg : Bool) (m : Nat) (e e' : Int) : Int :=
  let z : Int := (m * 2 ^ (e - e').toNat : Nat)
  if neg then -z else z

/-- x + y, exact (R264): a cancelled sum is −0 under mode 2 and +0 otherwise. -/
def fadd (mode : Nat) : FVal → FVal → FVal
  | .nan, _ => .nan
  | _, .nan => .nan
  | .inf a, .inf b => if a = b then .inf a else .nan
  | .inf a, _ => .inf a
  | _, .inf b => .inf b
  | .fin n1 m1 e1, .fin n2 m2 e2 =>
    let e := min e1 e2
    let z := signedAt n1 m1 e1 e + signedAt n2 m2 e2 e
    if z = 0 then .fin (if n1 = n2 then n1 else mode = 2) 0 e
    else .fin (z < 0) z.natAbs e

/-- x × y, exact (R264). -/
def fmul : FVal → FVal → FVal
  | .nan, _ => .nan
  | _, .nan => .nan
  | .inf a, .inf b => .inf (a != b)
  | .inf a, .fin n m _ => if m = 0 then .nan else .inf (a != n)
  | .fin n m _, .inf b => if m = 0 then .nan else .inf (n != b)
  | .fin n1 m1 e1, .fin n2 m2 e2 => .fin (n1 != n2) (m1 * m2) (e1 + e2)

/-- x × 2^k, exact. -/
def fscale (k : Int) : FVal → FVal
  | .fin n m e => .fin n m (e + k)
  | x => x

/-! Rounding (R263) -/

/-- The multiple of 2^q that the magnitude m · 2^e rounds to. -/
def roundAt (mode : Nat) (neg : Bool) (m : Nat) (e q : Int) : Nat :=
  if q ≤ e then m * 2 ^ (e - q).toNat
  else
    let k := min (q - e).toNat (Nat.log2 m + 2)
    let hi := m / 2 ^ k
    let rem := m % 2 ^ k
    let half := 2 ^ (k - 1)
    let up : Bool := match mode with
      | 0 => half < rem || (rem = half && hi % 2 = 1)
      | 1 => false
      | 2 => rem ≠ 0 && neg
      | 3 => rem ≠ 0 && !neg
      | _ => half ≤ rem
    if up then hi + 1 else hi

/-- The exponent of the last place at a nonzero magnitude (R263). -/
def quantum (f : FFmt) (m : Nat) (e : Int) : Int :=
  max ((Nat.log2 m : Int) + e - f.fracBits) (1 - (f.bias : Int) - f.fracBits)

/-- The encoding of the rounded magnitude, with an unbounded exponent field. -/
def roundEnc (f : FFmt) (mode : Nat) (neg : Bool) (m : Nat) (e : Int) : Nat :=
  if m = 0 then 0
  else
    let q := quantum f m e
    (q + f.fracBits + f.bias - 1).toNat * 2 ^ f.fracBits + roundAt mode neg m e q

/-- The magnitude that overflow delivers (R264). -/
def overflowEnc (f : FFmt) (mode : Nat) (neg : Bool) : Nat :=
  let inf := f.infEnc.getD f.nanEnc
  match mode with
  | 1 => f.maxEnc
  | 2 => if neg then inf else f.maxEnc
  | 3 => if neg then f.maxEnc else inf
  | _ => inf

/-- `round(x, mode, fmt)` as an encoding (R183, R263, R264), flushed under version 1 (R270). -/
def fround (f : FFmt) (mode : Nat) (v1 : Bool) (x : FVal) : Nat :=
  match x with
  | .nan => f.nanEnc
  | .inf n => (if n then f.sign else 0) + f.infEnc.getD f.nanEnc
  | .fin n m e =>
    let r := roundEnc f mode n m e
    let y := (if n then f.sign else 0) + (if f.maxEnc < r then overflowEnc f mode n else r)
    if v1 then fflush f y else y

/-- x rounded to an integer (R269, R285). -/
def roundInt (mode : Nat) (neg : Bool) (m : Nat) (e : Int) : Int :=
  let r : Int := (roundAt mode neg m e 0 : Nat)
  if neg then -r else r

/-! Narrowing (R265, R268) -/

/-- m1 · 2^e1 > m2 · 2^e2. -/
def magGt (m1 : Nat) (e1 : Int) (m2 : Nat) (e2 : Int) : Bool :=
  let e := min e1 e2
  m2 * 2 ^ (e2 - e).toNat < m1 * 2 ^ (e1 - e).toNat

/-- The magnitude and exponent of a bound, which is finite and not negative. -/
def boundOf : FVal → Nat × Int
  | .fin _ m e => (m, e)
  | _ => (0, 0)

/-- `narrow` into a floating format (R268), flushed under version 1 (R270). -/
def narrow (f : FFmt) (mode : Nat) (v1 : Bool) (b x : FVal) : Nat :=
  let (bm, be) := boundOf b
  let top := roundEnc f 1 false bm be
  match x with
  | .nan => f.nanEnc
  | .inf n => (if n then f.sign else 0) + (if v1 then fflush f top else top)
  | .fin n m e =>
    let r := roundEnc f mode n m e
    let q := quantum f m e
    let mag := if m ≠ 0 && magGt (roundAt mode n m e q) q bm be then top else r
    (if n then f.sign else 0) + (if v1 then fflush f mag else mag)

/-- `narrow` into an RNS-8 element (R265, R268). -/
def narrowRns (mode : Nat) (b x : FVal) : Byte :=
  let (bm, be) := boundOf b
  let top : Int := (roundAt 1 false bm be 0 : Nat)
  match x with
  | .nan => 0
  | .inf n => BitVec.ofInt 8 (if n then -top else top)
  | .fin n m e =>
    let r := roundAt mode n m e 0
    let z : Int := if magGt r 0 bm be then top else r
    BitVec.ofInt 8 (if n then -z else z)

/-- An RNS-8 element's value: absent counts as 0 (R265). -/
def rnsVal (b : Byte) : Int := if b = 0x80 then 0 else b.toInt

/-- A scale byte's value (R266). -/
def e8Val (s : Nat) : FVal := if s = 0xFF then .nan else .fin false 1 ((s : Int) - 127)

/-! FP32 operations on words (R280 to R286) -/

def f32In (v1 : Bool) (x : Word) : FVal := fread fp32 v1 x.toNat
def f32Out (mode : Nat) (v1 : Bool) (x : FVal) : Word := BitVec.ofNat 32 (fround fp32 mode v1 x)
def nan32 : Word := 0x7FC00000

/-- FADD: one rounding (R280). -/
def f32Add (mode : Nat) (v1 : Bool) (x y : Word) : Word := f32Out mode v1 (fadd mode (f32In v1 x) (f32In v1 y))
def f32Sub (mode : Nat) (v1 : Bool) (x y : Word) : Word := f32Out mode v1 (fadd mode (f32In v1 x) (f32In v1 y).neg)
def f32Mul (mode : Nat) (v1 : Bool) (x y : Word) : Word := f32Out mode v1 (fmul (f32In v1 x) (f32In v1 y))
def f32Fma (mode : Nat) (v1 : Bool) (x y z : Word) : Word :=
  f32Out mode v1 (fadd mode (fmul (f32In v1 x) (f32In v1 y)) (f32In v1 z))

/-- A place on the extended real line: −infinity, a value, +infinity. -/
def flt : FVal → FVal → Bool
  | .inf a, .inf b => a && !b
  | .inf a, .fin _ _ _ => a
  | .fin _ _ _, .inf b => !b
  | .fin n1 m1 e1, .fin n2 m2 e2 =>
    let e := min e1 e2
    signedAt n1 m1 e1 e < signedAt n2 m2 e2 e
  | _, _ => false

def FVal.isNan : FVal → Bool
  | .nan => true
  | _ => false
def FVal.isZero : FVal → Bool
  | .fin _ m _ => m = 0
  | _ => false
def FVal.isNeg : FVal → Bool
  | .nan => false
  | .inf n => n
  | .fin n _ _ => n

/-- Less than with −0 below +0 (R281). -/
def fltSigned (x y : FVal) : Bool := flt x y || (x.isZero && y.isZero && x.isNeg && !y.isNeg)

/-- FMIN (R281). -/
def f32Min (v1 : Bool) (x y : Word) : Word :=
  let a := f32In v1 x
  let b := f32In v1 y
  if a.isNan || b.isNan then nan32 else f32Out 0 v1 (if fltSigned b a then b else a)
/-- FMAX (R281). -/
def f32Max (v1 : Bool) (x y : Word) : Word :=
  let a := f32In v1 x
  let b := f32In v1 y
  if a.isNan || b.isNan then nan32 else f32Out 0 v1 (if fltSigned a b then b else a)

/-- FCMP (R282). -/
def f32Cmp (code : Nat) (v1 : Bool) (x y : Word) : Bool :=
  let a := f32In v1 x
  let b := f32In v1 y
  let un := a.isNan || b.isNan
  let eq := !un && !flt a b && !flt b a
  match code with
  | 0 => eq
  | 1 => !eq
  | 2 => flt a b
  | 3 => flt a b || eq
  | 4 => flt b a
  | 5 => flt b a || eq
  | 6 => un
  | _ => !un

/-- 2q + 1 where something nonzero lies below the quotient q, else 2q. -/
def withSticky (q : Nat) (inexact : Bool) : Nat := 2 * q + inexact.toNat

/-- FRCP (R283). -/
def f32Rcp (v1 : Bool) (x : Word) : Word :=
  f32Out 0 v1 (match f32In v1 x with
    | .nan => .nan
    | .inf n => .fin n 0 0
    | .fin n m e =>
      if m = 0 then .inf n
      else
        let k := Nat.log2 m + 30
        .fin n (withSticky (2 ^ k / m) (2 ^ k % m ≠ 0)) (-e - k - 1))

/-- Bits of an integer square root below bit `i`. -/
def isqrtFrom (n acc : Nat) : Nat → Nat
  | 0 => acc
  | i + 1 =>
    let t := acc + 2 ^ i
    isqrtFrom n (if t * t ≤ n then t else acc) i

/-- The integer square root of a number below 2^128. -/
def isqrt (n : Nat) : Nat := isqrtFrom n 0 64

/-- FSQRT (R283). -/
def f32Sqrt (v1 : Bool) (x : Word) : Word :=
  f32Out 0 v1 (match f32In v1 x with
    | .nan => .nan
    | .inf n => if n then .nan else .inf false
    | .fin n m e =>
      if m = 0 then .fin n 0 0
      else if n then .nan
      else
        let s := 64 + (e % 2).toNat
        let y := m * 2 ^ s
        let r := isqrt y
        .fin false (withSticky r (r * r ≠ y)) ((e - s) / 2 - 1))

/-- FRSQ (R283). -/
def f32Rsq (v1 : Bool) (x : Word) : Word :=
  f32Out 0 v1 (match f32In v1 x with
    | .nan => .nan
    | .inf n => if n then .nan else .fin false 0 0
    | .fin n m e =>
      if m = 0 then .inf n
      else if n then .nan
      else
        let k := 100 + (e % 2).toNat
        let r := isqrt (2 ^ k / m)
        .fin false (withSticky r (r * r * m ≠ 2 ^ k)) ((-e - k) / 2 - 1))

/-- Digits of log2 of y / 2^192 in [1, 2), highest first, by repeated squaring. -/
def log2Digits (y acc : Nat) : Nat → Nat
  | 0 => acc
  | n + 1 =>
    let z := y * y / 2 ^ 192
    if 2 ^ 193 ≤ z then log2Digits (z / 2) (2 * acc + 1) n else log2Digits z (2 * acc) n

/-- FLOG (R283): 64 binary places of the logarithm with a sticky place decide the rounding (log entry 31). -/
def f32Log (v1 : Bool) (x : Word) : Word :=
  f32Out 0 v1 (match f32In v1 x with
    | .nan => .nan
    | .inf n => if n then .nan else .inf false
    | .fin n m e =>
      if m = 0 then .inf true
      else if n then .nan
      else
        let l := Nat.log2 m
        let p : Int := e + l
        if m = 2 ^ l then fint p
        else
          let z : Int := p * 2 ^ 65 + (withSticky (log2Digits (m * 2 ^ (192 - l)) 0 64) true : Nat)
          .fin (z < 0) z.natAbs (-65))

/-- The coefficients c6 to c0 of R278. -/
def expCoeffs : List Word :=
  [0x39218489, 0x3AAEC3FF, 0x3C1D955B, 0x3D635847, 0x3E75FDF0, 0x3F317218, 0x3F800000]

/-- FEXP (R278, R284): Horner's rule, each step one FFMA. -/
def f32Exp (v1 : Bool) (x : Word) : Word :=
  match f32In v1 x with
  | .nan => nan32
  | .inf n => if n then 0 else 0x7F800000
  | .fin _ _ _ => expCoeffs.foldl (fun r c => f32Fma 0 v1 r x c) 0x377FE5FE

/-- FEXPX (R284). -/
def f32Expx (v1 : Bool) (x : Word) : Word :=
  match f32In v1 x with
  | .nan => 0x80000001
  | .inf _ => 0x7FFFFFFF
  | .fin _ m e => if m = 0 then 0x80000000 else BitVec.ofInt 32 (Nat.log2 m + e)

/-- FRINT (R285). -/
def f32Rint (mode : Nat) (v1 : Bool) (x : Word) : Word :=
  f32Out 0 v1 (match f32In v1 x with
    | .fin n m e => .fin n (roundAt mode n m e 0) 0
    | y => y)

/-- FLDEXP (R285). -/
def f32Ldexp (mode : Nat) (v1 : Bool) (x n : Word) : Word := f32Out mode v1 (fscale n.toInt (f32In v1 x))

/-- FCLASS (R286). -/
def f32Class (x : Word) : Word :=
  let neg := x.getLsbD 31
  let ex := bits x 30 23
  let fr := bits x 22 0
  let b : Nat :=
    if ex = 255 then (if fr ≠ 0 then 8 else if neg then 0 else 7)
    else if ex = 0 then (if fr = 0 then (if neg then 3 else 4) else if neg then 2 else 5)
    else if neg then 1 else 6
  BitVec.ofNat 32 (2 ^ b)

/-! Packed elements (R260) -/

/-- Bits of an element, by type code. -/
def elemBits (ty : Nat) : Nat := if ty ≤ 2 then 32 else if ty ≤ 5 then 16 else 8
/-- Elements of a word. -/
def elemCount (ty : Nat) : Nat := 32 / elemBits ty
def elemOf (ty : Nat) (x : Word) (j : Nat) : Nat := x.toNat / 2 ^ (elemBits ty * j) % 2 ^ elemBits ty

/-- The word of elements given from element 0 up; elements not given are 0. -/
def packElems (ty : Nat) (es : List Nat) : Word :=
  BitVec.ofNat 32 (es.reverse.foldl (fun a x => a * 2 ^ elemBits ty + x % 2 ^ elemBits ty) 0)

/-- A function of the elements of one, two or three words. -/
def packed1 (ty : Nat) (f : Nat → Nat) (x : Word) : Word :=
  packElems ty ((List.range (elemCount ty)).map (fun j => f (elemOf ty x j)))
def packed2 (ty : Nat) (f : Nat → Nat → Nat) (x y : Word) : Word :=
  packElems ty ((List.range (elemCount ty)).map (fun j => f (elemOf ty x j) (elemOf ty y j)))
def packed3 (ty : Nat) (f : Nat → Nat → Nat → Nat) (x y z : Word) : Word :=
  packElems ty ((List.range (elemCount ty)).map (fun j => f (elemOf ty x j) (elemOf ty y j) (elemOf ty z j)))

/-- The signed value of a `w`-bit number. -/
def signedOf (w n : Nat) : Int := if n < 2 ^ (w - 1) then n else (n : Int) - 2 ^ w
/-- The `w` low bits of an integer. -/
def wrapTo (w : Nat) (z : Int) : Nat := (z % 2 ^ w).toNat

/-- The format of a floating type code. -/
def fmtOf (ty : Nat) : FFmt :=
  match ty with
  | 3 => bf16
  | 4 => fp16
  | 7 => e4m3
  | 8 => e5m2
  | _ => fp32

def clampInt (lo hi z : Int) : Int := max lo (min hi z)

/-! Conversion (R268, R269, R288) -/

/-- The value of an element of a source type, flushed under version 1 where the type is floating (R288). -/
def cvtIn (sty : Nat) (v1 : Bool) (x : Nat) : FVal :=
  match sty with
  | 0 => fint (signedOf 32 x)
  | 1 => fint x
  | 5 => fint (signedOf 16 x)
  | 6 => fint (signedOf 8 x)
  | 9 => fint (rnsVal (BitVec.ofNat 8 x))
  | 10 => e8Val x
  | _ => fread (fmtOf sty) v1 x

/-- A value clamped into an integer type (R269). -/
def cvtInt (lo hi : Int) (mode : Nat) : FVal → Int
  | .nan => 0
  | .inf n => if n then lo else hi
  | .fin n m e => clampInt lo hi (roundInt mode n m e)

/-- An element of the destination type, under a bound (R268, R269). -/
def cvtOut (dty mode : Nat) (v1 : Bool) (b x : FVal) : Nat :=
  match dty with
  | 0 => wrapTo 32 (cvtInt (-2 ^ 31) (2 ^ 31 - 1) mode x)
  | 1 => wrapTo 32 (cvtInt 0 (2 ^ 32 - 1) mode x)
  | 2 => fround fp32 mode v1 x
  | 5 => wrapTo 16 (cvtInt (-2 ^ 15) (2 ^ 15 - 1) mode x)
  | 6 => wrapTo 8 (cvtInt (-128) 127 mode x)
  | 9 => (narrowRns mode b x).toNat
  | _ => narrow (fmtOf dty) mode v1 b x

/-- The destination maximum of a narrow type (R261; 127 for RNS-8). -/
def narrowMax (dty : Nat) : FVal := if dty = 9 then fint 127 else fdecode (fmtOf dty) (fmtOf dty).maxEnc

/-- A bound operand conformed to the destination (R289). -/
def conformBound (dty : Nat) (v1 : Bool) (w : Word) : FVal :=
  match f32In v1 w with
  | .nan => narrowMax dty
  | .inf n => if n then .fin false 0 0 else narrowMax dty
  | .fin n m e =>
    if n || m = 0 then .fin false 0 0
    else
      let (mm, me) := boundOf (narrowMax dty)
      if magGt m e mm me then narrowMax dty else .fin false m e

/-- CVT of a word (R288). -/
def cvtWord (dty sty mode : Nat) (v1 : Bool) (b : FVal) (x : Word) : Word :=
  packElems dty ((List.range (min (elemCount sty) (elemCount dty))).map (fun j =>
    cvtOut dty mode v1 b (cvtIn sty v1 (elemOf sty x j))))

/-- QUANT of a word by a scale byte (R291). -/
def quantWord (ty mode : Nat) (v1 : Bool) (b : FVal) (x s : Word) : Word :=
  let k := bits s 7 0
  let y := if k = 0xFF then .nan else fscale (127 - (k : Int)) (f32In v1 x)
  BitVec.ofNat 32 (cvtOut ty mode v1 b y)

/-! Atomic functions (R200, R257) -/

/-- f(OP, old, operand) and, for CAS, the value compared with; FADD rounds to nearest-even under the version (R200). -/
def atomOp (op : Nat) (v1 : Bool) (old x cmp : Word) : Word :=
  match op with
  | 0 => old + x
  | 1 => wMin old x
  | 2 => wMax old x
  | 3 => wMinu old x
  | 4 => wMaxu old x
  | 5 => old &&& x
  | 6 => old ||| x
  | 7 => old ^^^ x
  | 8 => x
  | 9 => if old = cmp then x else old
  | _ => f32Add 0 v1 old x

/-! Residue words (R267, R271, R272) -/

/-- The residues mod 255, 256 and 257 of an integer (R271). -/
def residues (z : Int) : Nat × Nat × Nat := ((z % 255).toNat, (z % 256).toNat, (z % 257).toNat)

/-- The residues that a word holds (R267). -/
def readResidues (w : Word) : Nat × Nat × Nat := (bits w 15 8 % 255, bits w 7 0, bits w 24 16 % 257)

/-- A residue word (R267). -/
def residueWord (r : Nat × Nat × Nat) : Word := BitVec.ofNat 32 (r.2.2 * 2 ^ 16 + r.1 * 2 ^ 8 + r.2.1)

/-- A product added to the channels (R271). -/
def residueAdd (r : Nat × Nat × Nat) (a b : Int) : Nat × Nat × Nat :=
  let x := residues a
  let y := residues b
  ((r.1 + x.1 * y.1 % 255) % 255, (r.2.1 + x.2.1 * y.2.1 % 256) % 256, (r.2.2 + x.2.2 * y.2.2 % 257) % 257)

/-- The signed integer of three channel sums (R272). -/
def crt (r : Nat × Nat × Nat) : Int :=
  let x := (r.1 * 65792 * 128 + r.2.1 * 65535 * 255 + r.2.2 * 65280 * 129) % 16776960
  if 8388480 ≤ x then (x : Int) - 16776960 else x

end Sys2Proof.Machine
end

