-- ==== Sys2Proof/Machine/Operands.lean ====
section
/-! DEFINITION. Operands of lane instructions (R166, R168), what every lane instruction shares (R140, R142, R192), records
read at issue (R124, R125), addresses of memory instructions and their checks (R86, R89, R96, R247, R251). -/

namespace Sys2Proof.Machine

/-! The lane stream -/

/-- The first clause that has not issued all its instructions (R108). -/
def Ctx.headClause (c : Ctx) : Option Clause := c.clauses.find? (fun q => !q.started || q.next < q.count)

def Ctx.setClause (c : Ctx) (q : Clause) : Ctx := { c with clauses := c.clauses.map (fun x => if x.id = q.id then q else x) }

/-- A clause retires when it has issued everything and nothing tied of it is left (R108). -/
def Ctx.retireClauses (c : Ctx) : Ctx :=
  { c with clauses := c.clauses.filter (fun q =>
      !(q.started && q.count ≤ q.next && !c.flights.any (fun f => f.clause = q.id && f.flag.isSome))) }

/-- The lane stream may issue: no fault, replay or batch holds it (R332, R333, R401). -/
def Ctx.lanesRun (c : Ctx) : Bool :=
  c.isGroup && c.laneMode == .run &&
    (match c.mode with
     | .page _ => false
     | .batch _ isFetch => isFetch
     | .notice _ => false
     | .faulted => false
     | .evicted => false
     | .ended => false
     | _ => true)

/-- Wait mask and flags of a clause header (R169). -/
def Clause.waitMask (q : Clause) : Nat := bits q.head 27 16
def Clause.flagOf (q : Clause) (sel : BitVec 2) : Option Nat :=
  if sel = 1 then some (bits q.head 15 12) else if sel = 2 then some (bits q.head 11 8) else none

/-- Lane-word offset of the clause's next instruction. -/
def Clause.at (q : Clause) : Nat := q.off.toNat + 1 + q.next

/-- Active lanes (R168). -/
def activeLanes (c : Ctx) (q : Clause) (f : LaneForm) : LaneMask :=
  let g := c.pred f.guard.toNat
  q.mask &&& c.liveMask &&& (if f.neg then ~~~ g else g)

/-- The lanes of a mask, ascending. -/
def lanesOf (m : LaneMask) : List Nat := (List.range 64).filter (fun i => m.getLsbD i)

/-- The mask of a list of lanes. -/
def maskOf (ls : List Nat) : LaneMask := ls.foldl (fun m l => m ||| BitVec.twoPow 64 l) 0

/-- `opnd` (R183): a source code in one lane. -/
def opnd (s : State) (c : Ctx) (q : Clause) (f : LaneForm) (code : Reg) (lane : Nat) : Word :=
  let n := code.toNat
  if n < 0xF0 then vread s c n lane
  else if n < 0xF4 then q.k.getD (n - 0xF0) 0
  else if n = 0xF4 then BitVec.ofNat 32 lane
  else if n = 0xF6 then f.imm
  else 0

/-- The vector register that a source code names. -/
def srcReg (code : Reg) : List Nat := if code.toNat < 0xF0 then [code.toNat] else []

/-- Consecutive registers. -/
def regRun (d : Reg) (n : Nat) : List Nat := (List.range n).map (fun i => d.toNat + i)

/-- What a lane instruction names, for the checks that all share. -/
structure LaneSpec where
  op : Nat
  f : LaneForm
  /-- Vector registers read and written. -/
  reads : List Nat
  writes : List Nat
  /-- The registers that each active lane collects from its own lane. -/
  collects : List Nat := reads
  /-- Lane and register pairs that it reads beyond its active lanes: SHFL's sources. -/
  extra : State → Ctx → Clause → LaneMask → List (Nat × Nat) := fun _ _ _ _ => []
  /-- It is a BATOM or a LATOM, whose page fault is R332's. -/
  atomic : Bool := false
  /-- MMA makes its own register checks (R294). -/
  ownChecks : Bool := false

/-- The result of a lane instruction's own effect. -/
inductive LAct where
  /-- Its effect is complete. -/
  | done (s : State)
  /-- It has issued and completes later. -/
  | fly (s : State) (f : Flight)
  | wait (s : State)
  | fault (s : State) (code : Nat) (lane : Option Nat) (addr : Word)
  | page (s : State) (lane : Nat) (recs : List (List Word))
  /-- A retried remote access: the check that the peer will send a notice for, and its lane (R332, R352). -/
  | remote (s : State) (lane : Option Nat) (req : Nat)
  | hole (addr : Nat)

/-- Lanes die of uncorrectable data: DMK, and one error record for each (R66, R248, R347). -/
def killForUe (s : State) (id : Nat) (pc : Word) : List Nat → State
  | [] => s
  | l :: r =>
    match getCtx s id with
    | none => s
    | some c => killForUe (ctxError (setCtx s (c.killLanes (BitVec.twoPow 64 l))) c 1 0 (some l) 0 pc 0) id pc r

/-- A page fault of an atomic: the batch, and the lane stream waits (R332). -/
def takeAtomicPage (s : State) (c : Ctx) (lane off : Nat) (recs : List (List Word)) : State :=
  let c1 := c.recordFault PAGE (some lane) (trapPcOf true off) 0
  if fqRoom s recs.length then
    let (b, s1) := fqBatch s recs
    setCtx s1 { c1 with laneMode := .atomic b }
  else fqJoin (setCtx s { c1 with laneMode := .batch recs false }) (.lane c.id)

/-- A retried remote access stops its instruction before any lane: an atomic is held, anything else replays its region at the
notice (R332, R333, R352). -/
def takeRemote (s : State) (c : Ctx) (atomic : Bool) (lane : Option Nat) (off req : Nat) : State :=
  let c1 := c.recordFault REMOTE lane (trapPcOf true off) 0
  if atomic then setCtx s { c1 with laneMode := .notice req }
  else setCtx (dropWait s c) { c1.stopRegion with mode := .notice req }

/-- The clause's instruction has issued: the next one stands, its flag rises, and the clause retires if it can (R108, R140). -/
def Ctx.issued (c : Ctx) (q : Clause) (flag : Option Nat) (f : Option Flight) : Ctx :=
  let c0 := { c with issues := c.issues + 1 }
  let c1 := (c0.setClause { q with next := q.next + 1, issued := true }).raiseFlag flag
  let c2 := match f with
    | some x => { c1 with flights := c1.flights ++ [x] }
    | none => c1
  c2.retireClauses

/-- A flight of the instruction at the head of the clause. -/
def newFlight (s : State) (c : Ctx) (q : Clause) (spec : LaneSpec) (kind : FlightKind) : Flight where
  id := s.nextId
  clause := q.id
  pc := trapPcOf true q.at
  flag := q.flagOf spec.f.flag
  kind := kind
  opcode := spec.op
  form := spec.f
  nbv := q.nbv
  accs := []
  pend := 0
  firstReg := 0
  nRegs := 0
  acq := false
  scope := 0
  fence := c.loadFence
  asid := 0
  mapgen := 0
  operands := []

/-- What follows a lane instruction's own effect. -/
def finishLane (id : Nat) (q : Clause) (spec : LaneSpec) (a : LAct) : Host.Outcome State Fault Refusal :=
  let flag := q.flagOf spec.f.flag
  match a with
  | .done s =>
    match getCtx s id with
    | none => .next s
    | some c =>
      let fl := flag.map (fun _ => newFlight s c q spec .fixed)
      .next { setCtx s (c.issued q flag fl) with nextId := s.nextId + flag.toList.length }
  | .fly s f =>
    match getCtx s id with
    | none => .next s
    | some c => .next { setCtx s (c.issued q flag (some f)) with nextId := s.nextId + 1 }
  | .wait s => .next s
  | .fault s code lane addr =>
    match getCtx s id with
    | none => .next s
    | some c => .next (takeFault s c code lane true q.at addr)
  | .page s lane recs =>
    match getCtx s id with
    | none => .next s
    | some c => .next (if spec.atomic then takeAtomicPage s c lane q.at recs else takePage s c (some lane) true q.at recs)
  | .remote s lane req =>
    match getCtx s id with
    | none => .next s
    | some c => .next (takeRemote s c spec.atomic lane q.at req)
  | .hole a => .fault (.noFrame a)

/-- Bytes of one lane's access of a flight. -/
def Flight.width (f : Flight) : Nat := if f.kind == .atomic then 4 else 2 ^ f.form.mod.toNat

/-- Two accesses share a byte. -/
def overlap (p : Place) (n : Nat) (p' : Place) (n' : Nat) : Bool :=
  match p, p' with
  | .here a, .here b => a < b + n' && b < a + n
  | .peer d a, .peer e b => d = e && a < b + n' && b < a + n
  | _, _ => false

/-- An access that has not been performed yet covers some byte of this one. -/
def Ctx.accessPending (c : Ctx) (p : Place) (n : Nat) : Bool :=
  c.flights.any (fun f => f.accs.any (fun a => a.place.any (fun p' => overlap p n p' f.width)))

/-- An earlier access of the group that has not been performed lies in the words of these registers in the lanes of a mask: a
write of them by name waits for it (R249). -/
def Ctx.rowHeld (c : Ctx) (regs : List Nat) (m : LaneMask) : Bool :=
  c.flights.any (fun f => !f.accs.isEmpty) &&
    regs.any (fun r => (lanesOf m).any (fun l => c.accessPending (.here (coreKey c.core (c.vregOff r l))) 4))

/-- A register of the list at or above V (R60). -/
def Ctx.noReg (c : Ctx) (regs : List Nat) : Bool := regs.any (fun r => c.vregs ≤ r)

/-- The row granules that an instruction reads as sources, as register and lane. -/
def sourcePairs (spec : LaneSpec) (s : State) (c : Ctx) (q : Clause) (m : LaneMask) : List (Nat × Nat) :=
  (lanesOf m).flatMap (fun l => spec.collects.map (fun r => (r, l))) ++ spec.extra s c q m

/-- One lane instruction of the group or task whose turn it is: the wait mask and the flag count (R140), PERM of registers
(R192), UNGUARD (R142), IDEMP (R331), STALE of a source row under the TRAP policy (R61, R100), the lanes that die of an
uncorrectable source row (R347), and the instruction's own effect on the lanes that are left. -/
def runLane (spec : LaneSpec) (body : State → Ctx → Clause → LaneMask → LAct) (s : State) :
    Host.Outcome State Fault Refusal :=
  match s.turn with
  | .lane id =>
    match getCtx s id with
    | none => .next s
    | some c =>
      match c.headClause with
      | none => .next s
      | some q =>
        if !c.lanesRun || !powered s || !q.started then .next s
        else if !q.issued && !c.flagsClear q.waitMask then .next s
        else if (q.flagOf spec.f.flag).any (fun n => 255 ≤ c.flagCount n) then .next s
        else
          let m := activeLanes c q spec.f
          let regs := spec.reads ++ spec.writes
          if c.noReg regs then finishLane id q spec (.fault s PERM none 0)
          else if spec.ownChecks then finishLane id q spec (body s c q m)
          else
            match c.unguarded regs m with
            | some l => finishLane id q spec (.fault s UNGUARD (some l) 0)
            | none =>
              if c.rowHeld spec.writes m then .next s
              else if m ≠ 0 && idempVector q.live q.liveRegs spec.writes then finishLane id q spec (.fault s IDEMP none 0)
              else
                let src := sourcePairs spec s c q m
                match (if q.pols.getLsbD 0 then src.find? (fun p => vstale s c p.1 p.2) else none) with
                | some p => finishLane id q spec (.fault s STALE (some p.2) (BitVec.ofNat 32 (c.vregOff p.1 p.2 / 64 * 64)))
                | none =>
                  let bad := ((lanesOf m).filter (fun l => spec.collects.any (fun r =>
                    !vstale s c r l && poisonAt s (coreKey c.core (c.vregOff r l)))))
                  let s1 := killForUe s id (trapPcOf true q.at) bad
                  match getCtx s1 id with
                  | none => .next s1
                  | some c1 => finishLane id q spec (body s1 c1 ((c1.headClause).getD q) (m &&& ~~~ maskOf bad))
  | _ => .next s

/-- Writes a list of lanes' words of register `n` one by one. -/
def putLanes (s : State) (c : Ctx) (n : Nat) : List (Nat × Word) → State
  | [] => s
  | (l, w) :: r => putLanes (vwrite s c n l w) c n r

/-- The keys of the bytes of `n` at `k`. -/
def keysFrom (k n : Nat) : List Nat := (List.range n).map (fun i => k + i)

/-- Writes lanes' words of register `n` as one write of its row (R61, R347). -/
def writeLanes (s : State) (c : Ctx) (n : Nat) (ls : List (Nat × Word)) : State :=
  clearCovered (putLanes s c n ls) (ls.flatMap (fun l => keysFrom (coreKey c.core (c.vregOff n l.1)) 4))

/-- An instruction that writes one register from each active lane's own operands. -/
def mapLane (op : Nat) (f : LaneForm) (g : State → Ctx → Clause → Nat → Word) (reads : List Nat) :
    State → Host.Outcome State Fault Refusal :=
  runLane { op := op, f := f, reads := reads, writes := [f.d.toNat] }
    (fun s c q m => .done (writeLanes s c f.d.toNat ((lanesOf m).map (fun l => (l, g s c q l)))))

/-- One, two or three sources, by a function of words. -/
def lane1 (op : Nat) (f : LaneForm) (g : Clause → Word → Word) : State → Host.Outcome State Fault Refusal :=
  mapLane op f (fun s c q l => g q (opnd s c q f f.a l)) (srcReg f.a)
def lane2 (op : Nat) (f : LaneForm) (g : Clause → Word → Word → Word) : State → Host.Outcome State Fault Refusal :=
  mapLane op f (fun s c q l => g q (opnd s c q f f.a l) (opnd s c q f f.b l)) (srcReg f.a ++ srcReg f.b)
def lane3 (op : Nat) (f : LaneForm) (g : Clause → Word → Word → Word → Word) : State → Host.Outcome State Fault Refusal :=
  mapLane op f (fun s c q l => g q (opnd s c q f f.a l) (opnd s c q f f.b l) (opnd s c q f f.c l))
    (srcReg f.a ++ srcReg f.b ++ srcReg f.c)

/-- The clause runs under numeric version 1 (R270). -/
def Clause.v1 (q : Clause) : Bool := q.nbv = 1

/-! Records (R124) -/

/-- Words read from a core-store allocation, or the granule that is stale under TRAP (R124). -/
def readRecord (s : State) (k off : Nat) (a : Alloc) (words : Nat) : Except Word (List Word) :=
  match (if a.policy then firstStale s (coreKey k off) a.gen (4 * words) else none) with
  | some g => .error (BitVec.ofNat 32 (g - coreKey k 0))
  | none => .ok (bytesToWords (readTagged s (coreKey k off) a.gen (4 * words)))

/-- A buffer record (R125). -/
structure Rec where
  base : Nat
  stride : Nat
  extent : Nat
  log2 : Nat
  swz : Nat
  pitch : Nat
  btrap : Bool
  vault : Bool
  rdonly : Bool
  asid : BitVec 16
  mapgen : BitVec 16
  /-- A reserved bit is set. -/
  reserved : Bool
deriving DecidableEq, Repr

def parseRec (ws : List Word) : Rec :=
  let w (i : Nat) : Word := ws.getD i 0
  { base := (w 0).toNat + bits (w 1) 19 0 * 2 ^ 32, stride := (w 2).toNat, extent := (w 3).toNat, log2 := bits (w 1) 23 20
    swz := bits (w 1) 27 24, pitch := (w 5).toNat, btrap := (w 1).getLsbD 28, vault := (w 1).getLsbD 29
    rdonly := (w 1).getLsbD 30, asid := (w 4).extractLsb' 16 16, mapgen := (w 4).extractLsb' 0 16
    reserved := (w 1).getLsbD 31 || w 6 ≠ 0 || w 7 ≠ 0 }

/-- The pitch is a power of two from 128 to 2^31 (R251). -/
def pitchOk (p : Nat) : Bool := 128 ≤ p && 2 ^ Nat.log2 p = p

/-- The record faults that are FORMAT (R125, R251). -/
def Rec.bad (r : Rec) : Bool := r.reserved || 3 < r.swz || 4 < r.log2 || (r.swz ≠ 0 && !pitchOk r.pitch)

/-- The swizzle of an address (R251). -/
def swizzle (mode pitch a : Nat) : Nat :=
  let h := a / 2 ^ Nat.log2 pitch
  match mode with
  | 1 => a ^^^ (h % 8 * 16)
  | 2 => a ^^^ (h % 4 * 32)
  | 3 => a ^^^ (h % 2 * 64)
  | _ => a

/-- The address of index `x` (R96). -/
def Rec.address (r : Rec) (x : Word) : Nat := swizzle r.swz r.pitch ((r.base + x.toNat * r.stride) % 2 ^ 64)

/-- Index `x` is in bounds (R96). -/
def Rec.inBounds (r : Rec) (x : Word) : Bool := x.toNat < r.extent && r.address x + 2 ^ r.log2 ≤ 2 ^ 52

/-- The map generation that an access carries: a record's 0 stands for the current one (R324). -/
def Rec.generation (s : State) (r : Rec) : BitVec 16 := if r.mapgen = 0 then astGen s r.asid else r.mapgen

/-- The block's or task grid's record `n` (R76, R124). -/
def bufferRecord (s : State) (c : Ctx) (pols : BitVec 4) (n : Nat) : Except Word Rec :=
  (readRecord s c.core (c.table * 256 + 32 * n) ⟨c.tableGen, pols.getLsbD 1, false⟩ 8).map parseRec

/-! One lane's access (R247) -/

/-- What the checks of one access find, by class. -/
inductive Hit where
  /-- Out of bounds: no access, and no fault. -/
  | oob
  | ok (place : Place) (va : Nat) (gen : BitVec 12) (counted : Bool)
  /-- A fault: its place among the classes, its code, TRAPADDR. -/
  | bad (rank code : Nat) (addr : Word)
  /-- PAGE at a virtual address. -/
  | absent (va : Nat)
  | hole (addr : Nat)
deriving DecidableEq, Repr

/-- The grid's vault run that holds a vault byte (R90). The units that the memory manager allocated for a region are no context's own:
the model lets none reach them (log entry 126). -/
def vaultRun (s : State) (launch v off : Nat) : Option (BitVec 12) :=
  ((getLaunch s launch).bind (fun l => l.vruns.find? (fun r =>
    r.1 = v && r.2.1 ≤ off / 65536 && off / 65536 < r.2.1 + r.2.2.1))).map (fun r => r.2.2.2)

/-- What an access does with the bytes at its place, for the checks of R100: a store reads none, a load reads and takes the
group's buffered bytes first, an atomic and TRYW read at the home. -/
inductive Reading where
  | none
  | load
  | home
deriving DecidableEq, Repr

/-- The first granule of an access that is stale and not wholly served by the group's store buffer, where the access takes its
bytes from there (R86, R100, R116). -/
def staleGranule (s : State) (c : Ctx) (k n : Nat) (gen : BitVec 12) (owned : Bool) (read : Reading) : Option Nat :=
  ((List.range n).find? (fun i => (!owned || tagAt s (k + i) ≠ gen) &&
    (read = .home || (rsbByte c (.here (k + i))).isNone))).map
    (fun i => granule (k + i) * 64)

/-- An access at a virtual address through a record (R97, R247). -/
def pageHit (s : State) (r : Rec) (write : Bool) (a : Nat) : Hit :=
  match walk s r.asid a with
  | .hole h => .hole h
  | .absent => if r.generation s ≠ astGen s r.asid then .bad 3 MAPGEN 0 else .absent a
  | .ok p w pin =>
    if write && !w then .bad 2 PERM 0
    else if r.generation s ≠ astGen s r.asid then .bad 3 MAPGEN 0
    else .ok p a 0 (!pin)

/-- A buffer access of `n` bytes at index `x` (R96, R247): `write` for stores and atomics, `read` where its bytes are
returned, `trap` the VLT policy. -/
def bufferHit (s : State) (c : Ctx) (r : Rec) (write : Bool) (read : Reading) (trap : Bool) (n : Nat) (x : Word) : Hit :=
  let a := r.address x
  if !r.inBounds x then (if r.btrap then .bad 1 BOUNDS x else .oob)
  else if a % 2 ^ r.log2 ≠ 0 then .bad 0 ALIGN 0
  else if r.vault then
    let v := a / 2 ^ 24
    let off := a % 2 ^ 24
    match (if v < 48 then vaultRun s c.launch v off else none) with
    | none => .bad 2 PERM 0
    | some g =>
      match (if trap && read ≠ .none then staleGranule s c (vaultKey v off) n g true read else none) with
      | some k => .bad 6 STALE (BitVec.ofNat 32 (v * 2 ^ 24 + (k - vaultKey v 0)))
      | none => .ok (.here (vaultKey v off)) 0 g false
  else pageHit s r write a

/-- A core-store access of `n` bytes at an address of the context's own core (R86). -/
def localHit (s : State) (c : Ctx) (pols : BitVec 4) (read : Reading) (n addr : Nat) : Hit :=
  match allocOf c pols addr n with
  | none => .bad 0 PERM 0
  | some a =>
    if addr % n ≠ 0 then .bad 1 ALIGN 0
    else
      match (if a.policy && read ≠ .none then staleGranule s c (coreKey c.core addr) n a.gen true read else none) with
      | some k => .bad 2 STALE (BitVec.ofNat 32 (k - coreKey c.core 0))
      | none => .ok (.here (coreKey c.core addr)) 0 a.gen false

/-- A peer access to core `j` of the cluster (R89). -/
def peerHit (s : State) (c : Ctx) (pols : BitVec 4) (read : Reading) (j n addr : Nat) : Hit :=
  let k := c.cluster * 4 + j
  match grantAt s c j addr, grantAt s c j (addr + n - 1) with
  | some g, some _ =>
    if addr % n ≠ 0 then .bad 1 ALIGN 0
    else
      let owned := ownerGen (getCore s k).rows (addr / 256) = g.gen
      match (if pols.getLsbD 1 && read ≠ .none then staleGranule s c (coreKey k addr) n g.gen owned read else none) with
      | some x => .bad 2 STALE (BitVec.ofNat 32 (x - coreKey k 0))
      | none => .ok (.here (coreKey k addr)) 0 g.gen false
  | _, _ => .bad 0 PERM 0

/-- The page of a virtual address. -/
def pageOf (va : Nat) : Nat := va / 65536

/-- The first lane of each distinct page, in ascending order of that lane (R118). -/
def distinctPages : List Nat → List (Nat × Nat) → List (Nat × Nat)
  | _, [] => []
  | seen, (l, va) :: r =>
    if seen.contains (pageOf va) then distinctPages seen r else (l, va) :: distinctPages (pageOf va :: seen) r

/-- The batch of records of one faulting instruction (R118, R137). -/
def pageBatch (c : Ctx) (write lst : Bool) (asid mg : BitVec 16) (pc : Word) (pages : List (Nat × Nat)) : List (List Word) :=
  (List.range pages.length).map (fun i =>
    let p := pages.getD i (0, 0)
    faultRecord false false false write pages.length i (if lst then some p.1 else none) PAGE p.2 asid mg c.where5 pc)

/-- The rank of a hit among the classes; PAGE stands between MAPGEN and STALE (R247). -/
def Hit.rank : Hit → Option Nat
  | .bad r _ _ => some r
  | .absent _ => some 4
  | _ => none

/-- The deciding hit of the lanes: of the first class found, the lowest lane (R247). -/
def decideHits (hs : List (Nat × Hit)) : Option (Nat × Hit) :=
  match (hs.filterMap (fun h => h.2.rank)).min? with
  | none => none
  | some r => hs.find? (fun h => h.2.rank = some r)

/-- A lane whose translation does not exist in this machine. -/
def holeHit (hs : List (Nat × Hit)) : Option Nat :=
  (hs.filterMap (fun h => match h.2 with
    | .hole a => some a
    | _ => none)).head?

/-- The lane checks of a memory instruction: an end, or nothing stands against the accesses (R247). -/
def laneChecks (s : State) (c : Ctx) (q : Clause) (write : Bool) (asid mg : BitVec 16) (hs : List (Nat × Hit)) : Option LAct :=
  match decideHits hs with
  | some (l, .bad _ code addr) => some (.fault s code (some l) addr)
  | some (l, .absent _) =>
    let pages := distinctPages [] (hs.filterMap (fun h => match h.2 with
      | .absent va => some (h.1, va)
      | _ => none))
    some (.page s l (pageBatch c write true asid mg (trapPcOf true q.at) pages))
  | _ => (holeHit hs).map LAct.hole

/-- The bytes with the group's own buffered ones laid over them (R249). -/
def overlayOwn (bs : List Byte) (own : List (Option Byte)) : List Byte :=
  (List.range bs.length).map (fun i => (own.getD i none).getD (bs.getD i 0))

end Sys2Proof.Machine
end

