-- ==== Sys2Proof/Machine/LaneInt.lean ====
section
/-! DEFINITION. Integer, predicate and cross-lane instructions (R236 to R244). -/

namespace Sys2Proof.Machine

/-- A function of elements by the type of the instruction: sums, differences, minima and maxima (R237). -/
def intElem (g : Nat → Nat → Nat → Nat) (f : LaneForm) (x y : Word) : Word :=
  let ty := f.ty.toNat
  packed2 ty (g (elemBits ty)) x y

/-- Signed comparison of `w`-bit elements. -/
def sltElem (w x y : Nat) : Bool := signedOf w x < signedOf w y

/-- Addition with saturation (R238). -/
def addSat (unsigned : Bool) (w x y : Nat) : Nat :=
  if unsigned then min (x + y) (2 ^ w - 1)
  else wrapTo w (clampInt (-2 ^ (w - 1)) (2 ^ (w - 1) - 1) (signedOf w x + signedOf w y))

/-- |x|, the most negative element as it stands (R239). -/
def absElem (w x : Nat) : Nat := if signedOf w x < 0 then (2 ^ w - x) % 2 ^ w else x

/-- A bit field inserted (R239): the field `x` into `y` at the place that `z` gives. -/
def wBfi (x y z : Word) : Word :=
  let p := bits z 4 0
  let m : Word := BitVec.ofNat 32 ((2 ^ (bits z 12 8 + 1) - 1) * 2 ^ p)
  (y &&& ~~~ m) ||| ((x <<< p) &&& m)

/-- R237. -/
def execVadd (f : LaneForm) : State → Host.Outcome State Fault Refusal :=
  lane2 0x01 f (fun _ => intElem (fun w x y => (x + y) % 2 ^ w) f)
/-- R237. -/
def execVsub (f : LaneForm) : State → Host.Outcome State Fault Refusal :=
  lane2 0x02 f (fun _ => intElem (fun w x y => (x + 2 ^ w - y) % 2 ^ w) f)
/-- R237. -/
def execVmul (f : LaneForm) : State → Host.Outcome State Fault Refusal :=
  lane2 0x03 f (fun _ => wMul)
/-- R237. -/
def execVmulh (f : LaneForm) : State → Host.Outcome State Fault Refusal :=
  lane2 0x04 f (fun _ => wMulh)
/-- R237. -/
def execVmulhu (f : LaneForm) : State → Host.Outcome State Fault Refusal :=
  lane2 0x05 f (fun _ => wMulhu)
/-- R239. -/
def execVmad (f : LaneForm) : State → Host.Outcome State Fault Refusal :=
  lane3 0x06 f (fun _ x y z => x * y + z)
/-- R237. -/
def execVand (f : LaneForm) : State → Host.Outcome State Fault Refusal :=
  lane2 0x07 f (fun _ => wAnd)
/-- R237. -/
def execVor (f : LaneForm) : State → Host.Outcome State Fault Refusal :=
  lane2 0x08 f (fun _ => wOr)
/-- R237. -/
def execVxor (f : LaneForm) : State → Host.Outcome State Fault Refusal :=
  lane2 0x09 f (fun _ => wXor)
/-- R237. -/
def execVshl (f : LaneForm) : State → Host.Outcome State Fault Refusal :=
  lane2 0x0A f (fun _ => wShl)
/-- R237. -/
def execVshr (f : LaneForm) : State → Host.Outcome State Fault Refusal :=
  lane2 0x0B f (fun _ => wShr)
/-- R237. -/
def execVsar (f : LaneForm) : State → Host.Outcome State Fault Refusal :=
  lane2 0x0C f (fun _ => wSar)
/-- R237. -/
def execVmin (f : LaneForm) : State → Host.Outcome State Fault Refusal :=
  lane2 0x0D f (fun _ => intElem (fun w x y => if sltElem w x y then x else y) f)
/-- R237. -/
def execVmax (f : LaneForm) : State → Host.Outcome State Fault Refusal :=
  lane2 0x0E f (fun _ => intElem (fun w x y => if sltElem w x y then y else x) f)
/-- R237. -/
def execVminu (f : LaneForm) : State → Host.Outcome State Fault Refusal :=
  lane2 0x0F f (fun _ => intElem (fun _ x y => min x y) f)
/-- R237. -/
def execVmaxu (f : LaneForm) : State → Host.Outcome State Fault Refusal :=
  lane2 0x10 f (fun _ => intElem (fun _ x y => max x y) f)
/-- R239. -/
def execVabs (f : LaneForm) : State → Host.Outcome State Fault Refusal :=
  lane1 0x11 f (fun _ x => packed1 f.ty.toNat (absElem (elemBits f.ty.toNat)) x)
/-- R239. -/
def execVclz (f : LaneForm) : State → Host.Outcome State Fault Refusal :=
  lane1 0x12 f (fun _ x => wClz x)
/-- R239. -/
def execVpopc (f : LaneForm) : State → Host.Outcome State Fault Refusal :=
  lane1 0x13 f (fun _ x => wPopc x)
/-- R239. -/
def execVbfx (f : LaneForm) : State → Host.Outcome State Fault Refusal :=
  lane2 0x14 f (fun _ => wBfx)
/-- R239. -/
def execVbfi (f : LaneForm) : State → Host.Outcome State Fault Refusal :=
  lane3 0x15 f (fun _ => wBfi)
/-- VSEL (R239). -/
def execVsel (f : LaneForm) : State → Host.Outcome State Fault Refusal :=
  mapLane 0x16 f
    (fun s c q l => if (c.pred f.c.toNat).getLsbD l then opnd s c q f f.a l else opnd s c q f f.b l)
    (srcReg f.a ++ srcReg f.b)
/-- R239. -/
def execVmov (f : LaneForm) : State → Host.Outcome State Fault Refusal :=
  lane1 0x17 f (fun _ x => x)
/-- R238. -/
def execVadds (f : LaneForm) : State → Host.Outcome State Fault Refusal :=
  lane2 0x19 f (fun _ => intElem (addSat (f.ty == 1)) f)

/-! Comparison and predicates -/

/-- The comparison of code `k` (R236, R240). -/
def wCmp (k : Nat) (unsigned : Bool) (x y : Word) : Bool :=
  let lt (a b : Word) : Bool := if unsigned then a.ult b else a.slt b
  match k with
  | 0 => x == y
  | 1 => x != y
  | 2 => lt x y
  | 3 => !lt y x
  | 4 => lt y x
  | _ => !lt x y

/-- Predicate `n` with new bits in the lanes of a mask (R63); a write of every present lane replaces uncorrectable data (R347). -/
def Ctx.writePred (c : Ctx) (n : Nat) (m v : LaneMask) : Ctx :=
  let c1 := c.setPred n ((c.preds.getD (n - 1) 0 &&& ~~~ m) ||| (v &&& m))
  if c.present &&& ~~~ m = 0 then { c1 with sregBad := c1.sregBad.filter (· ≠ 512 + n) } else c1

/-- The lanes of a mask where `g` holds. -/
def maskWhere (m : LaneMask) (g : Nat → Bool) : LaneMask := maskOf ((lanesOf m).filter g)

/-- VCMP (R240). -/
def execVcmp (f : LaneForm) : State → Host.Outcome State Fault Refusal :=
  runLane { op := 0x18, f := f, reads := srcReg f.a ++ srcReg f.b, writes := [] }
    (fun s c q m =>
      let v := maskWhere m (fun l => wCmp f.mod.toNat (f.ty == 1) (opnd s c q f f.a l) (opnd s c q f f.b l))
      .done (setCtx s (c.writePred f.d.toNat m v)))

/-- The predicate function of code `k` (R241). -/
def predFn (k : Nat) (a b c : LaneMask) : LaneMask :=
  match k with
  | 0 => a &&& b
  | 1 => a ||| b
  | 2 => a ^^^ b
  | 3 => a &&& ~~~ b
  | 4 => a &&& b &&& c
  | _ => (a &&& c) ||| (b &&& ~~~ c)

/-- PLOG (R241). -/
def execPlog (f : LaneForm) : State → Host.Outcome State Fault Refusal :=
  runLane { op := 0x1A, f := f, reads := [], writes := [] }
    (fun s c _ m =>
      .done (setCtx s (c.writePred f.d.toNat m
        (predFn f.mod.toNat (c.pred f.a.toNat) (c.pred f.b.toNat) (c.pred f.c.toNat)))))

/-! Cross-lane instructions -/

/-- The source lane of SHFL and SHFLX (R242). -/
def shflSource (xor : Bool) (l : Nat) (b : Word) : Nat := if xor then l ^^^ (b.toNat % 64) else b.toNat % 64

/-- Lane `s` is dead or absent. -/
def Ctx.deadOrAbsent (c : Ctx) (l : Nat) : Bool := !c.present.getLsbD l || c.dmk.getLsbD l

/-- SHFL and SHFLX (R242): the read of another lane's register, and the predicate that tells of a dead source. -/
def shflLane (op : Nat) (xor : Bool) (f : LaneForm) : State → Host.Outcome State Fault Refusal :=
  runLane { op := op, f := f, reads := f.a.toNat :: srcReg f.b, writes := [f.d.toNat], collects := srcReg f.b
            extra := fun s c q m => (lanesOf m).filterMap (fun l =>
              let x := shflSource xor l (opnd s c q f f.b l)
              if c.deadOrAbsent x then none else some (f.a.toNat, x)) }
    (fun s c q m =>
      let src (l : Nat) : Nat := shflSource xor l (opnd s c q f f.b l)
      let bad := (lanesOf m).filter (fun l => !c.deadOrAbsent (src l) && !vstale s c f.a.toNat (src l) &&
        poisonAt s (coreKey c.core (c.vregOff f.a.toNat (src l))))
      let vals := ((lanesOf m).filter (fun l => !bad.contains l)).map (fun l =>
        (l, if c.deadOrAbsent (src l) then 0 else vread s c f.a.toNat (src l)))
      let dead := maskWhere m (fun l => c.deadOrAbsent (src l))
      let s1 := writeLanes (setCtx s (c.writePred f.c.toNat (m &&& ~~~ maskOf bad) dead)) c f.d.toNat vals
      .done (killForUe s1 c.id (trapPcOf true q.at) bad))

/-- R242. -/
def execShfl (f : LaneForm) : State → Host.Outcome State Fault Refusal :=
  shflLane 0x40 false f
/-- R242. -/
def execShflx (f : LaneForm) : State → Host.Outcome State Fault Refusal :=
  shflLane 0x41 true f

/-- VOTE's words for every active lane (R243): one, or two for a ballot. -/
def voteWords (k : Nat) (m : LaneMask) (v : Nat → Word) : List Word :=
  let t := maskWhere m (fun l => v l ≠ 0)
  let ls := lanesOf m
  match k with
  | 0 => [if t = 0 then 0 else 1]
  | 1 => [if t = m then 1 else 0]
  | 2 => [t.setWidth 32, t.extractLsb' 32 32]
  | 3 => [BitVec.ofNat 32 (lanesOf t).length]
  | _ => [if ls.all (fun l => v l = v (ls.headD 0)) then 1 else 0]

/-- Writes a run of registers in every lane of a list. -/
def writeRun (s : State) (c : Ctx) (ls : List Nat) (n : Nat) : List Word → State
  | [] => s
  | w :: r => writeRun (writeLanes s c n (ls.map (fun l => (l, w)))) c ls (n + 1) r

/-- VOTE (R243). -/
def execVote (f : LaneForm) : State → Host.Outcome State Fault Refusal :=
  runLane { op := 0x42, f := f, reads := srcReg f.a, writes := regRun f.d (if f.mod = 2 then 2 else 1) }
    (fun s c q m => .done (writeRun s c (lanesOf m) f.d.toNat (voteWords f.mod.toNat m (fun l => opnd s c q f f.a l))))

/-- The identity of a reduction operator (R244). -/
def scanIdentity (op : Nat) : Word :=
  match op with
  | 1 => 0x7FFFFFFF
  | 2 => 0x80000000
  | 3 => 0xFFFFFFFF
  | 5 => 0xFFFFFFFF
  | 10 => 0x80000000
  | _ => 0

/-- The combination of a list in ascending lane order, from the identity (R244). For FADD the first step, −0 ⊕ x0, delivers
x0 with a canonical NaN (R262) and, under version 1, with a subnormal flushed (R270); for every other operator it is x0 (log
entry 95). -/
def reduceWords (op : Nat) (v1 : Bool) (xs : List Word) : Word := xs.foldl (fun a y => atomOp op v1 a y 0) (scanIdentity op)

/-- The inclusive combinations after an accumulator (R244). -/
def scanWords (op : Nat) (v1 : Bool) : Word → List Word → List Word
  | _, [] => []
  | a, x :: r => let y := atomOp op v1 a x 0; y :: scanWords op v1 y r

/-- REDUX (R244). -/
def execRedux (f : LaneForm) : State → Host.Outcome State Fault Refusal :=
  runLane { op := 0x43, f := f, reads := srcReg f.a, writes := [f.d.toNat] }
    (fun s c q m =>
      let r := reduceWords f.mod.toNat q.v1 ((lanesOf m).map (fun l => opnd s c q f f.a l))
      .done (writeLanes s c f.d.toNat ((lanesOf m).map (fun l => (l, r)))))

/-- SCAN, inclusive or exclusive (R244). -/
def execScan (f : LaneForm) : State → Host.Outcome State Fault Refusal :=
  runLane { op := 0x44, f := f, reads := srcReg f.a, writes := [f.d.toNat] }
    (fun s c q m =>
      let incl := scanWords f.mod.toNat q.v1 (scanIdentity f.mod.toNat) ((lanesOf m).map (fun l => opnd s c q f f.a l))
      let vals := if f.sub.getLsbD 0 then scanIdentity f.mod.toNat :: incl.dropLast else incl
      .done (writeLanes s c f.d.toNat ((lanesOf m).zip vals)))

/-- LNOP has no effect but on its flag (R192). -/
def execLnop (f : LaneForm) : State → Host.Outcome State Fault Refusal :=
  runLane { op := 0x70, f := f, reads := [], writes := [] } (fun s _ _ _ => .done s)

end Sys2Proof.Machine
end

