-- ==== Sys2Proof/Machine/LaneFp.lean ====
section
/-! DEFINITION. Floating-point, conversion and packing instructions (R279 to R291). -/

namespace Sys2Proof

/-- A rounding instruction's mode (R263). -/
def LaneForm.rounding (f : LaneForm) : Nat := f.mod.toNat

namespace Machine

/-- R280. -/
def execFadd (f : LaneForm) : State → Host.Outcome State Fault Refusal :=
  lane2 0x20 f (fun q => f32Add f.rounding q.v1)
/-- R280. -/
def execFsub (f : LaneForm) : State → Host.Outcome State Fault Refusal :=
  lane2 0x21 f (fun q => f32Sub f.rounding q.v1)
/-- R280. -/
def execFmul (f : LaneForm) : State → Host.Outcome State Fault Refusal :=
  lane2 0x22 f (fun q => f32Mul f.rounding q.v1)
/-- R280. -/
def execFfma (f : LaneForm) : State → Host.Outcome State Fault Refusal :=
  lane3 0x23 f (fun q => f32Fma f.rounding q.v1)
/-- R281. -/
def execFmin (f : LaneForm) : State → Host.Outcome State Fault Refusal :=
  lane2 0x24 f (fun q => f32Min q.v1)
/-- R281. -/
def execFmax (f : LaneForm) : State → Host.Outcome State Fault Refusal :=
  lane2 0x25 f (fun q => f32Max q.v1)
/-- R282. -/
def execFcmp (f : LaneForm) : State → Host.Outcome State Fault Refusal :=
  lane2 0x26 f (fun q x y => if f32Cmp f.mod.toNat q.v1 x y then 1 else 0)
/-- R283. -/
def execFrcp (f : LaneForm) : State → Host.Outcome State Fault Refusal :=
  lane1 0x27 f (fun q => f32Rcp q.v1)
/-- R283. -/
def execFrsq (f : LaneForm) : State → Host.Outcome State Fault Refusal :=
  lane1 0x28 f (fun q => f32Rsq q.v1)
/-- R283. -/
def execFsqrt (f : LaneForm) : State → Host.Outcome State Fault Refusal :=
  lane1 0x29 f (fun q => f32Sqrt q.v1)
/-- R284. -/
def execFexp (f : LaneForm) : State → Host.Outcome State Fault Refusal :=
  lane1 0x2A f (fun q => f32Exp q.v1)
/-- R283. -/
def execFlog (f : LaneForm) : State → Host.Outcome State Fault Refusal :=
  lane1 0x2B f (fun q => f32Log q.v1)
/-- R285. -/
def execFrint (f : LaneForm) : State → Host.Outcome State Fault Refusal :=
  lane1 0x2E f (fun q => f32Rint f.rounding q.v1)
/-- R285. -/
def execFldexp (f : LaneForm) : State → Host.Outcome State Fault Refusal :=
  lane2 0x2F f (fun q => f32Ldexp f.rounding q.v1)
/-- R284. -/
def execFexpx (f : LaneForm) : State → Host.Outcome State Fault Refusal :=
  lane1 0x30 f (fun q => f32Expx q.v1)
/-- R286. -/
def execFclass (f : LaneForm) : State → Host.Outcome State Fault Refusal :=
  lane1 0x31 f (fun _ => f32Class)

/-- An operation on the two elements of a packed 16-bit type (R287). -/
def half2 (f : LaneForm) (v1 : Bool) (g : FVal → FVal → FVal) (x y : Word) : Word :=
  let fm := fmtOf f.ty.toNat
  packed2 f.ty.toNat (fun a b => fround fm f.rounding v1 (g (fread fm v1 a) (fread fm v1 b))) x y

/-- R287. -/
def execHadd2 (f : LaneForm) : State → Host.Outcome State Fault Refusal :=
  lane2 0x32 f (fun q => half2 f q.v1 (fadd f.rounding))
/-- R287. -/
def execHmul2 (f : LaneForm) : State → Host.Outcome State Fault Refusal :=
  lane2 0x33 f (fun q => half2 f q.v1 fmul)
/-- HFMA2 (R287): one rounding for each element. -/
def execHfma2 (f : LaneForm) : State → Host.Outcome State Fault Refusal :=
  lane3 0x34 f (fun q x y z =>
    let fm := fmtOf f.ty.toNat
    packed3 f.ty.toNat (fun a b c =>
      fround fm f.rounding q.v1 (fadd f.rounding (fmul (fread fm q.v1 a) (fread fm q.v1 b)) (fread fm q.v1 c))) x y z)

/-! Format blocks read by CVT and QUANT (R126, R289) -/

/-- A format block (R126). -/
structure FBlock where
  fmt : Nat
  /-- log2 of the block length, less 4. -/
  blk : Nat
  comp : Nat
  noscale : Bool
  scale : Nat
  sstride : Nat
  clamp : Word
  /-- A reserved field is not zero. -/
  reserved : Bool
deriving DecidableEq, Repr

def parseBlock (ws : List Word) : FBlock :=
  let w (i : Nat) : Word := ws.getD i 0
  { fmt := bits (w 0) 3 0, blk := bits (w 0) 5 4, comp := bits (w 0) 9 8, noscale := (w 0).getLsbD 16
    scale := bits (w 1) 23 0, sstride := bits (w 2) 15 0, clamp := w 3
    reserved := bits (w 0) 31 17 ≠ 0 || bits (w 0) 15 10 ≠ 0 || bits (w 0) 7 6 ≠ 0 || bits (w 1) 31 24 ≠ 0 ||
      bits (w 2) 31 16 ≠ 0 || w 4 ≠ 0 || w 5 ≠ 0 || w 6 ≠ 0 || w 7 ≠ 0 }

/-- CLAMP as a bound; −0 counts as +0 (R126). -/
def FBlock.bound (b : FBlock) : FVal :=
  match fdecode fp32 b.clamp.toNat with
  | .fin _ m e => .fin false m e
  | x => x

/-- CLAMP lies between 0 and the maximum of FMT (R126). -/
def FBlock.clampOk (b : FBlock) : Bool :=
  match fdecode fp32 b.clamp.toNat, narrowMax b.fmt with
  | .fin n m e, .fin _ mm me => (!n || m = 0) && !magGt m e mm me
  | _, _ => false

/-- The block checks that one block takes by itself (R126). -/
def FBlock.bad (b : FBlock) : Bool := b.reserved || !([3, 4, 7, 8, 9].contains b.fmt) || b.blk = 3 || !b.clampOk

/-- The block that CVT or QUANT reads at an address (R289): PERM, ALIGN at 32, the read, and the block checks. -/
def readBlock (s : State) (c : Ctx) (q : Clause) (ty addr : Nat) : Except (Nat × Word) FBlock :=
  match allocOf c q.pols addr 32 with
  | none => .error (PERM, 0)
  | some a =>
    if addr % 32 ≠ 0 then .error (ALIGN, 0)
    else
      match readRecord s c.core addr a 8 with
      | .error g => .error (STALE, g)
      | .ok ws =>
        let b := parseBlock ws
        if b.bad || b.comp ≠ 0 || b.fmt ≠ ty then .error (FORMAT, 0) else .ok b

/-- The registers that a CVT reads: b only for a narrowing destination (R288, R289). -/
def cvtReads (f : LaneForm) : List Nat :=
  srcReg f.a ++ (if [3, 4, 7, 8, 9].contains f.ty.toNat then srcReg f.b else [])

/-- CVT (R288, R289). With no active lane a format block is read all the same, and its faults are raised (log entry 132). -/
def execCvt (f : LaneForm) : State → Host.Outcome State Fault Refusal :=
  let dty := f.ty.toNat
  let sty := (f.sub.extractLsb' 0 4).toNat
  let fromBlock := f.sub.getLsbD 4
  runLane { op := 0x38, f := f, reads := cvtReads f, writes := [f.d.toNat] }
    (fun s c q m =>
      let write (bound : Nat → FVal) : LAct :=
        .done (writeLanes s c f.d.toNat ((lanesOf m).map (fun l =>
          (l, cvtWord dty sty f.rounding q.v1 (bound l) (opnd s c q f f.a l)))))
      if fromBlock then
        match readBlock s c q dty (opnd s c q f f.b 0).toNat with
        | .error (code, addr) => .fault s code none addr
        | .ok b => write (fun _ => b.bound)
      else write (fun l => conformBound dty q.v1 (opnd s c q f f.b l)))

/-- QUANT (R291); its format block is read with no active lane too (log entry 132). -/
def execQuant (f : LaneForm) : State → Host.Outcome State Fault Refusal :=
  runLane { op := 0x39, f := f, reads := srcReg f.a ++ srcReg f.b, writes := [f.d.toNat] }
    (fun s c q m =>
      match readBlock s c q f.ty.toNat (opnd s c q f f.c 0).toNat with
      | .error (code, addr) => .fault s code none addr
      | .ok b =>
        .done (writeLanes s c f.d.toNat ((lanesOf m).map (fun l =>
          (l, quantWord f.ty.toNat f.rounding q.v1 b.bound (opnd s c q f f.a l) (opnd s c q f f.b l))))))

/-- A word with element `k` replaced (R290). -/
def putElem (ty : Nat) (x : Word) (k v : Nat) : Word :=
  packElems ty ((List.range (elemCount ty)).map (fun j => if j = k then v else elemOf ty x j))

/-- PACKB (R290). -/
def execPackb (f : LaneForm) : State → Host.Outcome State Fault Refusal :=
  lane2 0x3A f (fun _ x y => putElem f.ty.toNat x f.mod.toNat (elemOf f.ty.toNat y 0))

/-- UNPKB (R290): an absent RNS-8 byte 0x80 is moved as it is; that R265 has it count as 0 by UNPKB is read of the instructions
that take its value afterwards (log entry 96). -/
def execUnpkb (f : LaneForm) : State → Host.Outcome State Fault Refusal :=
  lane1 0x3B f (fun _ x => BitVec.ofNat 32 (elemOf f.ty.toNat x f.mod.toNat))

end Machine
end Sys2Proof
end

