-- ==== Sys2Proof/Machine/LaneMem.lean ====
section
/-! DEFINITION. The head of the clause queue (R141), memory instructions (R245 to R259), and their completion (R140, R142,
R248, R249). -/

namespace Sys2Proof

/-- The order field: 0 relaxed, 1 acquire, 2 release, 3 both (R246). -/
def LaneForm.order (f : LaneForm) : Nat := (f.sub.extractLsb' 5 2).toNat
def LaneForm.acquires (f : LaneForm) : Bool := f.order = 1 || f.order = 3
def LaneForm.releases (f : LaneForm) : Bool := f.order = 2 || f.order = 3

end Sys2Proof

namespace Sys2Proof.Machine

/-! Fetching lane words (R167, R401) -/

/-- The lane stream stops at a word that is not present, with a batch of one record and no fault (R401). -/
def stallLane (s : State) (c : Ctx) (off va : Nat) : State :=
  let asid := (getLaunch s c.launch).elim 0 Launch.asid
  let r := faultRecord true false false false 1 0 none PAGE va asid (astGen s asid) c.where5 (trapPcOf true off)
  if fqRoom s 1 then
    let (b, s1) := fqBatch s [r]
    setCtx s1 { c with laneMode := .fetch b }
  else fqJoin (setCtx s { c with laneMode := .batch [r] true }) (.lane c.id)

/-- What a lane-word fetch that yields no word does (R401, R347, R169). -/
def laneFetchStop (s : State) (c : Ctx) (off : Nat) : Fetch → Host.Outcome State Fault Refusal
  | .word _ => .next s
  | .wait => .next s
  | .absent va => .next (stallLane s c off va)
  | .peer d a => .next (askFetch s c d a (trapPcOf true off))
  | .outside => .next (takeFault s c ILLEGAL none true off 0)
  | .hole a => .fault (.noFrame a)
  | .bad k =>
    let pc := trapPcOf true off
    let s1 := ctxError (setCtx (dropWait s c) { c.recordFault UE none pc 0 with mode := .faulted }) c 2 UE none (physAddr k) pc 0
    .next { s1 with kills := s1.kills ++ [⟨c.launch, 0x14⟩] }

/-- Words `js` of the lane word at an offset, or the first fetch that failed. -/
def laneWords (s : State) (c : Ctx) (off : Nat) : List Nat → Except Fetch (List Word)
  | [] => .ok []
  | j :: r =>
    match fetchLane s c off j with
    | .word w => (laneWords s c off r).map (fun ws => w :: ws)
    | f => .error f

/-- The w1 words of a clause, or the first fetch that failed and its offset. -/
def clauseW1 (s : State) (c : Ctx) (off : Nat) : Nat → Except (Nat × Fetch) (List Word)
  | 0 => .ok []
  | n + 1 =>
    match fetchLane s c off 1 with
    | .word w => (clauseW1 s c (off + 1) n).map (fun ws => w :: ws)
    | f => .error (off, f)

/-- The header and flag-select checks of R141 and R169 fail. -/
def headerIllegal (off : Nat) (h w1 w2 : Word) (ws : List Word) : Bool :=
  let a := bits h 15 12
  let b := bits h 11 8
  let sel (w : Word) : Nat := bits w 11 10
  bits h 7 0 ≠ 0 || w1 ≠ 0 || w2 ≠ 0 || 65536 < off + 2 + bits h 31 28 ||
    (12 ≤ a && a ≤ 14) || (12 ≤ b && b ≤ 14) || (a = b && a ≠ 15) ||
    ws.any (fun w => sel w = 3 || (sel w = 1 && a = 15) || (sel w = 2 && b = 15))

/-- A clause at the head of the queue is checked (R108, R141). -/
def execClauseHead (c : Nat) (s : State) : Host.Outcome State Fault Refusal :=
  match getCtx s c with
  | none => .next s
  | some x =>
    match x.headClause with
    | none => .next s
    | some q =>
      let off := q.off.toNat
      if q.started || !x.lanesRun || !powered s then .next s
      else
        match laneWords s x off [0, 1, 2] with
        | .error f => laneFetchStop s x off f
        | .ok ws =>
          let h := ws.getD 0 0
          let n := bits h 31 28 + 1
          if 65536 < off + 1 + n then .next (takeFault s x ILLEGAL none true off 0)
          else
            match clauseW1 s x (off + 1) n with
            | .error (o, f) => laneFetchStop s x o f
            | .ok is =>
              if headerIllegal off h (ws.getD 1 0) (ws.getD 2 0) is then .next (takeFault s x ILLEGAL none true off 0)
              else .next (setCtx s (x.setClause { q with started := true, head := h, count := n, next := 0 }))

/-! Addresses -/

/-- Bytes of a width code (R245). -/
def widthOf (f : LaneForm) : Nat := 2 ^ f.mod.toNat
/-- Registers of a width code (R245). -/
def widthRun (f : LaneForm) : Nat := if f.mod = 3 then 2 else if f.mod = 4 then 4 else 1

/-- The value of a base: ABS, REG or SCR (R86). -/
def localBase (c : Ctx) (f : LaneForm) : Nat :=
  match f.sub.toNat % 4 with
  | 1 => c.regBase * 256
  | 2 => c.scrRow * 256
  | _ => 0

/-- The bytes from `addr` to `addr + n - 1` are within what the form's base reaches without PERM (R86): ABS any row the group
may touch, REG its register rows, SCR the block or task scratchpad (log entry 36). -/
def baseReaches (c : Ctx) (f : LaneForm) (addr n : Nat) : Bool :=
  match f.sub.toNat % 4 with
  | 1 => c.regBase * 256 ≤ addr && addr + n ≤ (c.regBase + c.vregs) * 256
  | 2 => c.scrRow * 256 ≤ addr && addr + n ≤ (c.scrRow + c.scrRows) * 256
  | _ => true

/-- Base plus source plus the signed displacement, modulo 2^32 (R254). -/
def localAddr (base : Nat) (x : Word) (f : LaneForm) : Nat := (BitVec.ofNat 32 base + x + f.imm).toNat

/-- The core that a peer form names, and its base; none where SCR has no qualifying grant (R255, R325). -/
def peerBase (s : State) (c : Ctx) (f : LaneForm) (j : Nat) : Option Nat :=
  if f.sub.toNat % 4 = 2 then peerScrBase s c j else some 0

def peerCore (f : LaneForm) : Nat := f.sub.toNat / 4 % 4

/-! Peers: REMOTE is decided before any lane accesses (R96, R247, R352) -/

/-- The peer lines of the lanes, each once, with its lowest lane, in ascending order of that lane (R96). -/
def peerLines : List (BitVec 12 × Nat) → List (Nat × Hit) → List (Nat × BitVec 12 × Nat)
  | _, [] => []
  | seen, (l, h) :: r =>
    match h with
    | .ok (.peer d a) _ _ _ =>
      if seen.contains (d, a / 128) then peerLines seen r else (l, d, a / 128) :: peerLines ((d, a / 128) :: seen) r
    | _ => peerLines seen r

/-- A check or prefetch of the instruction at `pc` of the context. -/
def askedBy (c : Ctx) (pc : Word) (ask : Ask) (r : Request) : Bool := r.ctx = c.id && r.ask == ask && r.pc = pc

/-- The requests of an instruction about the lines, in their order; those that have been sent. -/
def askedLines (s : State) (c : Ctx) (pc : Word) (ask : Ask) (ls : List (Nat × BitVec 12 × Nat)) : List Request :=
  ls.filterMap (fun x => s.requests.find? (fun r => askedBy c pc ask r && r.peer = x.2.1 && r.addr = x.2.2 * 128))

/-- One request for each line not asked about yet. -/
def askLines (s : State) (c : Ctx) (pc : Word) (ask : Ask) (asid mg : BitVec 16) : List (Nat × BitVec 12 × Nat) → State
  | [] => s
  | (l, d, a) :: r =>
    let s1 := if s.requests.any (fun x => askedBy c pc ask x && x.peer = d && x.addr = a * 128) then s
      else sendRequest s { newRequest s c d (a * 128) 128 ask pc asid mg with lane := some l, counted := match ask with | .prefetch _ => true | _ => false }
    askLines s1 c pc ask asid mg r

/-- The peer has answered, in whatever way. -/
def Request.answered (r : Request) : Bool := r.answer.isSome || r.retry || r.failed

/-- REMOTE of a memory instruction (R247): one check for each peer line that its core's L1 does not serve; it waits for the
answers, and what the lowest lane's peer refuses decides. None against it leaves the state without the checks. -/
def remoteCheck (s : State) (c : Ctx) (q : Clause) (write : Bool) (n : Nat) (asid mg : BitVec 16) (hs : List (Nat × Hit)) :
    Except LAct State :=
  let pc := trapPcOf true q.at
  let ask : Ask := .check write
  let far : List (Nat × Hit) := hs.filter (fun h =>
    match h.2 with
    | .ok p _ _ _ => !p.isHere && (write || !l1Hit s c asid mg p n)
    | _ => false)
  let ls := peerLines [] far
  let rs := askedLines s c pc ask ls
  if rs.length < ls.length || rs.any (fun r => !r.answered) then .error (.wait (askLines s c pc ask asid mg ls))
  else
    let stop := rs.find? (fun r => r.retry || r.failed)
    let kept (r : Request) : Bool := !askedBy c pc ask r || stop.any (fun x => x.retry && x.id = r.id)
    let s1 := { s with requests := s.requests.filter kept }
    match stop with
    | none => .ok s1
    | some r => if r.failed then .error (.fault s1 REMOTE r.lane 0) else .error (.remote s1 r.lane r.id)

/-! Loads and stores -/

/-- An outstanding atomic of the group lies between its newest buffered store of a byte and now, so that a later load takes what
the atomic leaves there (R249). -/
def atomicSince (c : Ctx) (p : Place) : Bool :=
  (c.rsb.reverse.find? (fun e => e.line = p.line && e.bytes.any (fun b => b.1 = p.offset))).any (fun e =>
    c.flights.any (fun f => f.kind == .atomic && e.stamp ≤ f.id && f.accs.any (fun a => a.place.any (fun q => overlap q 4 p 1))))

/-- The buffered bytes of an access of `n` bytes that a load issued now returns. -/
def ownBytes (c : Ctx) (p : Place) (n : Nat) : List (Option Byte) :=
  (List.range n).map (fun i => if atomicSince c (p.plus i) then none else rsbByte c (p.plus i))

/-- The accesses that the hits allow, with the group's own buffered bytes as they stand (R249). -/
def laneAccs (c : Ctx) (n : Nat) (hs : List (Nat × Hit)) : List LaneAcc :=
  hs.filterMap (fun h =>
    match h.2 with
    | .ok p _ g cnt => some ⟨h.1, some p, ownBytes c p n, g, cnt⟩
    | .oob => some ⟨h.1, none, [], 0, false⟩
    | _ => none)

/-- A load that has passed its checks issues (R142, R250). -/
def loadAct (spec : LaneSpec) (s : State) (c : Ctx) (q : Clause) (m : LaneMask) (asid mg : BitVec 16)
    (hs : List (Nat × Hit)) : LAct :=
  let f := spec.f
  .fly s { newFlight s c q spec .load with
    accs := laneAccs c (widthOf f) hs
    pend := m
    firstReg := f.d.toNat
    nRegs := widthRun f
    acq := f.acquires
    scope := f.scope.toNat
    asid := asid
    mapgen := mg }

/-- The low `n` bytes of a lane's data registers (R245). -/
def storeData (s : State) (c : Ctx) (f : LaneForm) (l : Nat) : List Byte :=
  ((regRun f.d (widthRun f)).flatMap (fun r => wordBytes (vread s c r l))).take (widthOf f)

/-- The place is in the group's own register rows (R116). -/
def ownRow (c : Ctx) (p : Place) : Bool :=
  match p with
  | .here k => coreKey c.core (c.regBase * 256) ≤ k && k < coreKey c.core ((c.regBase + c.vregs) * 256)
  | .peer _ _ => false

/-- Direct writes of own register rows, in ascending lane order (R249, R254). -/
def putOwn (s : State) (c : Ctx) : List (Place × List Byte) → State
  | [] => s
  | (.here k, bs) :: r => putOwn (coreWrite s c.core (k - coreKey c.core 0) c.regGen bs) c r
  | (.peer _ _, _) :: r => putOwn s c r

/-- The same as one write (R347). -/
def writeOwn (s : State) (c : Ctx) (ws : List (Place × List Byte)) : State :=
  clearCovered (putOwn s c ws) (ws.flatMap (fun w =>
    match w.1 with
    | .here k => keysFrom k w.2.length
    | .peer _ _ => []))

/-- A store that has passed its checks: own register rows are written, anything else enters the region store buffer, in
ascending lane order (R116, R249, R250, R254). A release store to own rows takes its release steps first (R246). -/
def storeAct (s : State) (c : Ctx) (f : LaneForm) (asid mg : BitVec 16) (hs : List (Nat × Hit)) : LAct :=
  let acc := hs.filterMap (fun h =>
    match h.2 with
    | .ok p va g _ => some (p, va, g, storeData s c f h.1)
    | _ => none)
  let own := acc.filter (fun a => ownRow c a.1)
  let buf := (acc.filter (fun a => !ownRow c a.1)).flatMap (fun a =>
    elementBytes a.1 a.2.1 (if a.2.2.1 = 0 then none else some a.2.2.1) a.2.2.2)
  match bufferStore c f.scope f.releases asid mg buf with
  | none => .fault s REGION none 0
  | some c1 =>
    if own.isEmpty then .done (setCtx s c1)
    else if own.any (fun a => c.accessPending a.1 (widthOf f)) then .wait s
    else
      let (s1, ok) := if f.releases then releaseSteps s c f.scope.toNat else (s, true)
      if !ok then .wait s1
      else .done (writeOwn (modCtx s1 c.id (fun c => { c with rsb := c1.rsb })) c (own.map (fun a => (a.1, a.2.2.2))))

/-- A buffer form's record and its faults (R125, R247): FORMAT, then PERM of a read-only record. -/
def bufferSpecCheck (s : State) (c : Ctx) (q : Clause) (f : LaneForm) (size4 write : Bool) (n : Nat) : Except LAct Rec :=
  match bufferRecord s c q.pols f.c.toNat with
  | .error g => .error (.fault s STALE none g)
  | .ok r =>
    if r.bad || 2 ^ r.log2 < n || (size4 && r.log2 ≠ 2) then .error (.fault s FORMAT none 0)
    else if write && r.rdonly then .error (.fault s PERM none 0)
    else if !r.vault && s.changing.contains r.asid then .error (.wait s)
    else .ok r

/-- The hits of a buffer form's active lanes. -/
def bufferHits (s : State) (c : Ctx) (q : Clause) (f : LaneForm) (r : Rec) (write : Bool) (read : Reading) (n : Nat)
    (m : LaneMask) : List (Nat × Hit) :=
  (lanesOf m).map (fun l => (l, bufferHit s c r write read (q.pols.getLsbD 3) n (opnd s c q f f.a l)))

/-- The checks of a buffer form in their order (R247), and then its access. -/
def bufferAct (s : State) (c : Ctx) (q : Clause) (f : LaneForm) (m : LaneMask) (size4 write : Bool) (read : Reading) (n : Nat)
    (access : State → BitVec 16 → BitVec 16 → List (Nat × Hit) → LAct) : LAct :=
  match bufferSpecCheck s c q f size4 write n with
  | .error a => a
  | .ok r =>
    let mg := r.generation s
    let hs := bufferHits s c q f r write read n m
    match laneChecks s c q write r.asid mg hs with
    | some a => a
    | none =>
      match remoteCheck s c q write n r.asid mg hs with
      | .error a => a
      | .ok s1 => access s1 r.asid mg hs

/-- BLD (R250). -/
def execBld (f : LaneForm) : State → Host.Outcome State Fault Refusal :=
  let spec : LaneSpec := { op := 0x50, f := f, reads := srcReg f.a, writes := regRun f.d (widthRun f) }
  runLane spec (fun s c q m =>
    bufferAct s c q f m false false .load (widthOf f) (fun s1 asid mg hs => loadAct spec s1 c q m asid mg hs))

/-- BST (R250). -/
def execBst (f : LaneForm) : State → Host.Outcome State Fault Refusal :=
  runLane { op := 0x51, f := f, reads := srcReg f.a ++ regRun f.d (widthRun f), writes := [] } (fun s c q m =>
    bufferAct s c q f m false true .none (widthOf f) (fun s1 asid mg hs => storeAct s1 c f asid mg hs))

/-- The registers that an atomic's operands name (R257). -/
def atomicRegs (f : LaneForm) : List Nat := if f.mod = 9 then [f.b.toNat, f.b.toNat + 1] else srcReg f.b

/-- Operand and comparand of each lane of an atomic (R257). -/
def atomicOperands (s : State) (c : Ctx) (q : Clause) (f : LaneForm) (m : LaneMask) : List (Nat × Word × Word) :=
  (lanesOf m).map (fun l =>
    if f.mod = 9 then (l, vread s c (f.b.toNat + 1) l, vread s c f.b.toNat l)
    else (l, opnd s c q f f.b l, 0))

/-- An atomic that has passed its checks issues, after the release steps where it releases (R246, R257). -/
def atomicAct (spec : LaneSpec) (s : State) (c : Ctx) (q : Clause) (m : LaneMask) (asid mg : BitVec 16)
    (hs : List (Nat × Hit)) : LAct :=
  let f := spec.f
  let (s1, ok) := if f.releases then releaseSteps s c f.scope.toNat else (s, true)
  if !ok then .wait s1
  else .fly s1 { newFlight s1 c q spec .atomic with
    accs := (laneAccs c 4 hs).map (fun (a : LaneAcc) => { a with own := [] })
    pend := m
    firstReg := f.d.toNat
    nRegs := 1
    acq := f.acquires
    scope := f.scope.toNat
    asid := asid
    mapgen := mg
    operands := atomicOperands s c q f m }

/-- BATOM (R257, R258). -/
def execBatom (f : LaneForm) : State → Host.Outcome State Fault Refusal :=
  let spec : LaneSpec := { op := 0x52, f := f, reads := srcReg f.a ++ atomicRegs f, writes := [f.d.toNat], atomic := true }
  runLane spec (fun s c q m =>
    bufferAct s c q f m true true .home 4 (fun s1 asid mg hs => atomicAct spec s1 c q m asid mg hs))

/-- One line is fetched ahead, and pinned where that is asked and allowed (R253); a peer's line came, or not, with its answer. -/
def prefetchLine (s : State) (c : Ctx) (asid mg : BitVec 16) (pin : Bool) (line : Place) : State :=
  match line with
  | .here l => pinLine (l1Fill (countAccess s (.here (l * 128)) true) c.core c.die (leaseOf s c) asid mg l) c asid mg pin line
  | .peer _ _ => s

/-- The lines in the order given; where a limit is reached it is the earlier ones that are pinned (log entry 117). -/
def prefetchLines (s : State) (id : Nat) (asid mg : BitVec 16) (pin : Bool) : List Place → State
  | [] => s
  | l :: r =>
    match getCtx s id with
    | some c => prefetchLines (prefetchLine s c asid mg pin l) id asid mg pin r
    | none => s

/-- The lanes whose lines a BPF fetches (R253): in bounds, with a translation that stands and is not remote-pinned. Nothing else
skips a lane, a misaligned element either. -/
def bpfHits (s : State) (c : Ctx) (q : Clause) (f : LaneForm) (r : Rec) (m : LaneMask) : List (Nat × Hit) :=
  ((lanesOf m).map (fun l =>
    let x := opnd s c q f f.a l
    (l, if r.inBounds x then pageHit s r false (r.address x) else .oob))).filter (fun h =>
      match h.2 with
      | .ok _ _ _ counted => counted
      | _ => false)

/-- The lines of those lanes, each once, in ascending order of their lowest lane. -/
def hitLines (hs : List (Nat × Hit)) : List Place :=
  (hs.filterMap (fun h => match h.2 with
    | .ok p _ _ _ => some p.line
    | _ => none)).eraseDups

/-- BPF (R253). Like a load it is held while a write waits at a line's home, and while a peer has not answered; a line that its
peer refuses is skipped. -/
def execBpf (f : LaneForm) : State → Host.Outcome State Fault Refusal :=
  runLane { op := 0x53, f := f, reads := srcReg f.a, writes := [] } (fun s c q m =>
    match bufferSpecCheck s c q f false false (widthOf f) with
    | .error a => a
    | .ok r =>
      if r.vault then .done s
      else
        let mg := r.generation s
        let hs := bpfHits s c q f r m
        let pc := trapPcOf true q.at
        let far := peerLines [] hs
        let pin := f.sub.getLsbD 0
        let rs := askedLines s c pc (.prefetch pin) far
        if (hitLines hs).any (homeHeld s c) then .wait s
        else if rs.length < far.length || rs.any (fun x => !x.answered) then .wait (askLines s c pc (.prefetch pin) r.asid mg far)
        else
          let s1 := { s with requests := s.requests.filter (fun x => !askedBy c pc (.prefetch pin) x) }
          .done (prefetchLines s1 c.id r.asid mg pin (hitLines hs)))

/-- The hits of a local form (R254, R256): each lane's own address, or one run of bytes. -/
def localHits (s : State) (c : Ctx) (q : Clause) (f : LaneForm) (run : Bool) (read : Reading) (n : Nat)
    (m : LaneMask) : List (Nat × Hit) :=
  (lanesOf m).map (fun l =>
    let x := if run then opnd s c q f f.a 0 + BitVec.ofNat 32 (l * n) else opnd s c q f f.a l
    let addr := localAddr (localBase c f) x f
    (l, if baseReaches c f addr n then localHit s c q.pols read n addr else .bad 0 PERM 0))

/-- A local load (R254). -/
def localLoad (op : Nat) (run : Bool) (f : LaneForm) : State → Host.Outcome State Fault Refusal :=
  let spec : LaneSpec := { op := op, f := f, reads := srcReg f.a, writes := regRun f.d (widthRun f) }
  runLane spec (fun s c q m =>
    let hs := localHits s c q f run .load (widthOf f) m
    match laneChecks s c q false 0 0 hs with
    | some a => a
    | none => loadAct spec s c q m 0 0 hs)

/-- A local store (R254). -/
def localStore (op : Nat) (run : Bool) (f : LaneForm) : State → Host.Outcome State Fault Refusal :=
  runLane { op := op, f := f, reads := srcReg f.a ++ regRun f.d (widthRun f), writes := [] } (fun s c q m =>
    let hs := localHits s c q f run .none (widthOf f) m
    match laneChecks s c q true 0 0 hs with
    | some a => a
    | none => storeAct s c f 0 0 hs)

/-- LLD (R254). -/
def execLld (f : LaneForm) : State → Host.Outcome State Fault Refusal :=
  localLoad 0x54 false f
/-- LST (R254). -/
def execLst (f : LaneForm) : State → Host.Outcome State Fault Refusal :=
  localStore 0x55 false f
/-- VLD (R256). -/
def execVld (f : LaneForm) : State → Host.Outcome State Fault Refusal :=
  localLoad 0x59 true f
/-- VST (R256). -/
def execVst (f : LaneForm) : State → Host.Outcome State Fault Refusal :=
  localStore 0x5A true f

/-- LATOM (R259). -/
def execLatom (f : LaneForm) : State → Host.Outcome State Fault Refusal :=
  let spec : LaneSpec := { op := 0x56, f := f, reads := srcReg f.a ++ atomicRegs f, writes := [f.d.toNat], atomic := true }
  runLane spec (fun s c q m =>
    let hs := localHits s c q f false .home 4 m
    match laneChecks s c q true 0 0 hs with
    | some a => a
    | none => atomicAct spec s c q m 0 0 hs)

/-- The hits of a peer form (R255, R89): a core of its own index is a local access. -/
def peerHits (s : State) (c : Ctx) (q : Clause) (f : LaneForm) (read : Reading) (n : Nat) (m : LaneMask) : List (Nat × Hit) :=
  let j := peerCore f
  if j = c.core % 4 then localHits s c q f false read n m
  else
    (lanesOf m).map (fun l =>
      match peerBase s c f j with
      | none => (l, .bad 0 PERM 0)
      | some b => (l, peerHit s c q.pols read j n (localAddr b (opnd s c q f f.a l) f)))

/-- PLD (R255). -/
def execPld (f : LaneForm) : State → Host.Outcome State Fault Refusal :=
  let spec : LaneSpec := { op := 0x57, f := f, reads := srcReg f.a, writes := regRun f.d (widthRun f) }
  runLane spec (fun s c q m =>
    let hs := peerHits s c q f .load (widthOf f) m
    match laneChecks s c q false 0 0 hs with
    | some a => a
    | none => loadAct spec s c q m 0 0 hs)

/-- PST (R255). -/
def execPst (f : LaneForm) : State → Host.Outcome State Fault Refusal :=
  runLane { op := 0x58, f := f, reads := srcReg f.a ++ regRun f.d (widthRun f), writes := [] } (fun s c q m =>
    let hs := peerHits s c q f .none (widthOf f) m
    match laneChecks s c q true 0 0 hs with
    | some a => a
    | none => storeAct s c f 0 0 hs)

/-! Completion (R140, R142, R248, R249) -/

def Ctx.setFlight (c : Ctx) (f : Flight) : Ctx :=
  { c with flights := c.flights.map (fun x => if x.id = f.id then f else x) }

/-- The instruction is complete: its flag falls and its clause may retire (R108, R140). -/
def Ctx.completeFlight (c : Ctx) (f : Flight) : Ctx :=
  ({ c with flights := c.flights.filter (fun x => x.id ≠ f.id) }.lowerFlag f.flag).retireClauses

/-- An atomic's element lies in a buffered store of its group that was issued before it and has not been released (R249). -/
def storeAhead (c : Ctx) (f : Flight) (a : LaneAcc) : Bool :=
  f.kind == .atomic && a.place.any (fun p => c.rsb.any (fun e =>
    e.stamp ≤ f.id && e.line = p.line && (List.range 4).any (fun i => e.bytes.any (fun b => b.1 = p.offset + i))))

/-- The flight `f` of the context may access now (R223, R246, R249): no earlier acquiring access is outstanding, nothing a
fence ordered ahead of it is left, and no earlier access of the same bytes is outstanding. -/
def mayAccess (c : Ctx) (f : Flight) (a : LaneAcc) : Bool :=
  !storeAhead c f a &&
  c.flights.all (fun g =>
    g.id ≥ f.id ||
      (!(g.acq && !g.accs.isEmpty) && !(g.id < f.fence && !g.accs.isEmpty) &&
        !g.accs.any (fun b => (a.place.bind (fun p => b.place.map (fun p' => overlap p f.width p' g.width))).getD false)))

/-- The retirement that a fence left due happens before the first load behind it (R316, R322). -/
def retireDue (s : State) (c : Ctx) (fence : Nat) : State :=
  if c.retire.any (fun n => n ≤ fence) then
    let done : Ctx → Ctx := fun c => { c with retire := c.retire.filter (fun n => fence < n) }
    retireClean (modCtx s c.id done) c.core
  else s

/-- The request of a flight for a peer's line. -/
def flightRequest (s : State) (c : Ctx) (f : Flight) (d : BitVec 12) (a : Nat) : Option Request :=
  s.requests.find? (fun r => r.ctx = c.id && r.flight = some f.id && r.peer = d && r.addr = a / 128 * 128)

def forgetRequest (s : State) (id : Nat) : State := { s with requests := s.requests.filter (fun x => x.id ≠ id) }

/-- A flight's request for a peer's line, one for all its lanes there (R96). -/
def askPeer (s : State) (c : Ctx) (f : Flight) (a : LaneAcc) (d : BitVec 12) (ad : Nat) (ask : Ask) : State :=
  sendRequest s { newRequest s c d (ad / 128 * 128) 128 ask f.pc f.asid f.mapgen with
    flight := some f.id, lane := some a.lane, counted := a.counted }

/-- A load of a peer's byte: from the core's L1, or from the line that the peer answers with, laid under the copy's dirty
bytes (R88, R312); the request goes with the last lane that it serves. -/
def peerLoad (s : State) (c : Ctx) (f : Flight) (a : LaneAcc) (d : BitVec 12) (ad : Nat) : Got :=
  let p : Place := .peer d ad
  match flightRequest s c f d ad with
  | some r =>
    (match r.answer with
     | none => .later s
     | some bs =>
       let x := copyOf s c.core f.asid f.mapgen p.line
       let more := f.accs.any (fun b => b.lane ≠ a.lane && b.place.any (fun p' => p'.line = p.line))
       copyBytes { x with bytes := overlayDirty (offsets bs) x } p f.width a.own (if more then s else forgetRequest s r.id))
  | none =>
    if l1Hit s c f.asid f.mapgen p f.width then copyBytes (copyOf s c.core f.asid f.mapgen p.line) p f.width a.own s
    else if homeHeld s c p.line then .later s
    else .later (askPeer s c f a d ad (.read true))

/-- The bytes of a lane's load (R250, R254, R255, R312). -/
def loadElement (s : State) (c : Ctx) (f : Flight) (a : LaneAcc) : Got :=
  let n := f.width
  let got : Got := match a.place with
    | none => .bytes (List.replicate n 0) s
    | some (.peer d ad) => peerLoad s c f a d ad
    | some (.here k) =>
      match spaceOf k with
      | .core _ _ => if poisoned s k n a.gen a.own then .ue s else .bytes (readAs s k n a.gen) s
      | .vault _ _ => vaultRead s c k n a.gen a.own
      | _ =>
        match l1Load s c f.asid f.mapgen k n a.own with
        | .bytes bs s1 => .bytes bs (countAccess s1 (.here k) (a.counted && !l1Hit s c f.asid f.mapgen (.here k) n))
        | other => other
  match got with
  | .bytes bs s1 => .bytes (overlayOwn bs a.own) s1
  | other => other

/-- The words that a load writes (R245): zero-extended, or sign-extended under .sx. -/
def loadWords (f : LaneForm) (bs : List Byte) : List Word :=
  let sx := f.sub.getLsbD 4
  match bs with
  | [b] => [if sx then b.signExtend 32 else b.setWidth 32]
  | [b, b'] => [if sx then (b' ++ b).signExtend 32 else (b' ++ b).setWidth 32]
  | _ => bytesToWords bs

/-- A lane's words land in consecutive registers; a dead lane's are dropped (R66, R102). -/
def landWords (s : State) (c : Ctx) (n lane : Nat) : List Word → State
  | [] => s
  | w :: r => landWords (if c.dmk.getLsbD lane then s else vwrite s c n lane w) c (n + 1) lane r

/-- The access of a lane is over. -/
def Flight.perform (f : Flight) (ls : List Nat) : Flight :=
  { f with accs := f.accs.filter (fun a => !ls.contains a.lane), pend := f.pend &&& ~~~ maskOf ls }

/-- The accesses of a flight that one request performs: of a BLD, those in the line of this device that holds the lane's bytes; of any
other load, the lane's own (R96). -/
def Flight.together (f : Flight) (a : LaneAcc) : List LaneAcc :=
  f.accs.filter (fun b => b.lane = a.lane || (f.opcode = 0x50 && match a.place, b.place with
    | some (.here k), some (.here k') => k / 128 = k' / 128
    | _, _ => false))

/-- One lane of a request: its words land, or it joins the lanes that took uncorrectable data. -/
def loadLane (id fid : Nat) (x : State × List Nat) (a : LaneAcc) : State × List Nat :=
  match (getCtx x.1 id).bind (fun c => (c.flights.find? (fun f => f.id == fid)).map (fun f => (c, f))) with
  | none => x
  | some (c, f) =>
    let gone (s : State) : State := modCtx s id (fun c => c.setFlight (f.perform [a.lane]))
    match loadElement x.1 c f a with
    | .later _ => x
    | .ue s1 => (gone s1, x.2 ++ [a.lane])
    | .bytes bs s1 => (landWords (gone s1) c f.form.d.toNat a.lane (loadWords f.form bs), x.2)

/-- The accesses of one request are performed. -/
def loadLanes (s : State) (id fid : Nat) (pc : Word) (accs : List LaneAcc) : State :=
  let r := accs.foldl (loadLane id fid) (s, [])
  killForUe r.1 id pc r.2

/-- A lane of a load, with those of the same request: all of them may access and have their bytes, or none does (R96). -/
def completeLoad (s : State) (id fid lane : Nat) : State :=
  match getCtx s id with
  | none => s
  | some c =>
    match c.flights.find? (fun f => f.id == fid) with
    | none => s
    | some f =>
      match f.accs.find? (fun a => a.lane == lane) with
      | none => s
      | some a =>
        let accs := f.together a
        if accs.any (fun b => !mayAccess c f b) then s
        else
          let s0 := retireDue s c f.fence
          match accs.findSome? (fun b => match loadElement s0 c f b with
            | .later s1 => some s1
            | _ => none) with
          | some s1 => s1
          | none => loadLanes s0 id fid f.pc accs

/-- The steps of the lanes of one element: the final value, and each lane's old value (R257). -/
def atomicSteps (op : Nat) (v1 : Bool) : Word → List (Nat × Word × Word) → Word × List (Nat × Word)
  | old, [] => (old, [])
  | old, (l, x, cmp) :: r =>
    let (v, outs) := atomicSteps op v1 (atomOp op v1 old x cmp) r
    (v, (l, old) :: outs)

/-- What an atomic finds at its home: the old word and the state that takes the new one, uncorrectable data, or a wait. -/
inductive Home where
  | old (w : Word) (put : Word → State)
  | ue
  | later (s : State)

/-- The place's dirty bytes in the core's own L1 (R249, R312). -/
def ownDirty (s : State) (c : Ctx) (asid mg : BitVec 16) (p : Place) (n : Nat) : Option Line :=
  (findLine (getCore s c.core) asid mg p.line).bind (fun x =>
    if (List.range n).any (fun i => x.dirty.getLsbD (p.offset + i)) then some x else none)

/-- A read-modify-write of one word at its home (R200, R257 to R259, R311): global words wait for the lease horizon, refresh
the core's copy after the write (R312), and enter WCT (R67), as a vault's do; a late one does not (R158). -/
def atHome (s : State) (c : Ctx) (h : Holder) (asid mg : BitVec 16) (gen : BitVec 12) (k : Nat) : Home :=
  match spaceOf k with
  | .core n off =>
    if poisoned s k 4 gen [] then .ue else .old (leWord (readAs s k 4 gen)) (fun w => coreWrite s n off gen (wordBytes w))
  | .vault v off =>
    if homeHeld s c (.here (k / 128)) then .later s
    else if poisoned s k 4 gen [] then .ue
    else .old (leWord (readAs s k 4 gen)) (fun w =>
      let s1 := vaultWrite s v off gen (wordBytes w)
      if lateAt s (k / 128) (some gen) then s1 else raiseWct s1 (some c.id) (dieTime s (clusterDie v)))
  | _ =>
    let l := k / 128
    match ownDirty s c asid mg (.here k) 4, homeTurn s l h c.core (some asid) with
    | some x, _ => .later (writeBackLine s c.core x (some c.id))
    | none, .error s1 => .later s1
    | none, .ok s =>
      if poisonAt s k then .ue
      else .old (readWord s k) (fun w =>
        let s1 := markWritten (raiseWct (cacheTouch (writeWord s k w) l true) (some c.id) (lineTime s (.here l))) (.here k)
        l1Refresh s1 c.core c.die (leaseOf s c) asid mg l)

/-- The lanes of a flight are performed, and each gets its old value (R257). -/
def finishLanes (s : State) (c : Ctx) (f : Flight) (outs : List (Nat × Word)) : State :=
  let done : Ctx → Ctx := fun c => c.setFlight (f.perform (outs.map Prod.fst))
  outs.foldl (fun s o => landWords s c f.form.d.toNat o.1 [o.2]) (modCtx s c.id done)

/-- The steps of an atomic's lanes on a peer's line: lane, offset, operand and comparand. -/
def lineSteps (c : Ctx) (f : Flight) (line : Place) : List (Nat × Nat × Word × Word) :=
  f.accs.filterMap (fun b => b.place.bind (fun p =>
    if p.line = line && mayAccess c f b then
      (f.operands.find? (fun o => o.1 = b.lane)).map (fun o => (b.lane, p.offset, o.2))
    else none))

/-- A word of a byte list replaced. -/
def putWordAt (bs : List Byte) (o : Nat) (w : Word) : List Byte := bs.take o ++ wordBytes w ++ bs.drop (o + 4)

/-- Beside the operators of R200, a read-modify-write at a peer is one of the two sequences of a join record (R129): a decrement
with the record's step to state 2, and JOINC's STATE := 1. -/
def joinDown : Nat := 16
def joinOpen : Nat := 17

/-- The state word of a join record that has fired. -/
def firedWord (st : Word) : Word := (st &&& 0xFFFFFFFC) ||| 2

/-- A decrement to `v` fires the record of state word `st`: it pushes in state 1 alone (R129). -/
def joinFires (v st : Word) : Bool := v = 0 && bits st 1 0 < 2

/-- The new value of a word under an operator. -/
def rmwWord (v1 : Bool) (op : Nat) (old x cmp : Word) : Word :=
  if op = joinDown then old - 1 else if op = joinOpen then (old &&& 0xFFFFFFFC) ||| 1 else atomOp op v1 old x cmp

/-- A line's bytes after a read-modify-write at an offset. -/
def rmwBytes (v1 : Bool) (op : Nat) (bs : List Byte) (o : Nat) (x cmp : Word) : List Byte :=
  let word (i : Nat) : Word := leWord ((bs.drop i).take 4)
  let v := rmwWord v1 op (word o) x cmp
  let t := putWordAt bs o v
  if op = joinDown && joinFires v (word (o + 4)) then putWordAt t (o + 4) (firedWord (word (o + 4))) else t

/-- Read-modify-writes of words of a line in their order: the bytes after them, and each one's old value (R257, R258). -/
def rmwSteps (v1 : Bool) (op : Nat) : List Byte → List (Nat × Nat × Word × Word) → List Byte × List (Nat × Word)
  | bs, [] => (bs, [])
  | bs, (l, o, x, cmp) :: r =>
    let old := leWord ((bs.drop o).take 4)
    let (bs1, outs) := rmwSteps v1 op (rmwBytes v1 op bs o x cmp) r
    (bs1, (l, old) :: outs)

/-- An atomic's lanes on one peer line, by one request (R96, R258). -/
def peerAtomic (s : State) (c : Ctx) (f : Flight) (a : LaneAcc) (d : BitVec 12) (ad : Nat) : State :=
  let p : Place := .peer d ad
  match flightRequest s c f d ad with
  | some r =>
    (match r.answer, r.ask with
     | some bs, .rmw v1 op steps => finishLanes (forgetRequest s r.id) c f (rmwSteps v1 op bs steps).2
     | _, _ => s)
  | none =>
    match ownDirty s c f.asid f.mapgen p 4 with
    | some x => writeBackLine s c.core x (some c.id)
    | none =>
      if homeHeld s c p.line then s
      else askPeer s c f a d ad (.rmw (f.nbv = 1) f.form.mod.toNat (lineSteps c f p.line))

/-- The lanes of one element of an atomic (R257), or of one line of a peer (R258). -/
def completeElement (s : State) (id fid lane : Nat) : State :=
  match getCtx s id with
  | none => s
  | some c =>
    match c.flights.find? (fun f => f.id == fid) with
    | none => s
    | some f =>
      match f.accs.find? (fun a => a.lane == lane) with
      | none => s
      | some a =>
        let same := f.accs.filter (fun b => b.place = a.place)
        let ls := same.map LaneAcc.lane
        let ops := f.operands.filter (fun o => ls.contains o.1)
        if !mayAccess c f a then s
        else
          match a.place with
          | none => finishLanes s c f (ls.map (fun l => (l, 0)))
          | some (.peer d ad) => peerAtomic s c f a d ad
          | some (.here k) =>
            match atHome s c (.lane id fid lane) f.asid f.mapgen a.gen k with
            | .later s1 => s1
            | .ue => killForUe (modCtx s id (fun c => c.setFlight (f.perform ls))) id f.pc ls
            | .old w put =>
              let (v, outs) := atomicSteps f.form.mod.toNat (f.nbv = 1) w ops
              finishLanes (put v) c f outs

/-- A flight with no access left is complete; a system-scope acquire retires the core's clean lines (R140, R322). -/
def endFlight (s : State) (id fid : Nat) : State :=
  match getCtx s id with
  | none => s
  | some c =>
    match c.flights.find? (fun f => f.id == fid) with
    | none => s
    | some f =>
      if f.kind == .matrix || !f.accs.isEmpty then s
      else
        let s1 := if f.acq && f.scope = 5 then retireClean s c.core else s
        setCtx s1 (c.completeFlight f)

/-- A load or atomic of a group that has gone returns: one late write for the instruction, however many lanes and rows it has
(R102; log entry 135). -/
def orphanReturn (s : State) (c op : Nat) : State :=
  match s.orphans.find? (fun x => x.1 = c && x.2.1 = op) with
  | some (_, _, k) => if powered s then countLate { s with orphans := s.orphans.filter (fun x => !(x.1 = c && x.2.1 = op)) } k else s
  | none => s

/-- Lanes of a load or atomic are performed, and the instruction completes with its last (R140, R142, R249). -/
def execLaneCompletion (c op : Nat) (lanes : LaneMask) (s : State) : Host.Outcome State Fault Refusal :=
  match (getCtx s c).bind (fun x => x.flights.find? (fun f => f.id == op)) with
  | none => .next (orphanReturn s c op)
  | some f =>
    if !powered s then .next s
    else
      let step (s : State) (l : Nat) : State :=
        match f.kind with
        | .load => completeLoad s c op l
        | .atomic => completeElement s c op l
        | _ => s
      .next (endFlight ((lanesOf lanes).foldl step s) c op)

end Sys2Proof.Machine
end

