-- ==== Sys2Proof/Machine/ScalarMem.lean ====
section
/-! DEFINITION. Memory instructions of the scalar stream (R197 to R202), the rows of a core store (R83, R84), WAITA and
TRYW (R221, R222) and the events that wake them. -/

namespace Sys2Proof.Machine

/-- A load of the scalar stream waits for what a fence ordered ahead of it (R223). -/
def Ctx.loadsHeld (c : Ctx) : Bool := c.flights.any (fun f => f.id < c.loadFence && !f.accs.isEmpty)

/-! LDS and STS (R197, R198) -/

/-- s[a] plus the byte offset, modulo 2^32 (R197). -/
def ldsAddr (c : Ctx) (a : Reg) (i : BitVec 8) : Nat := (c.sreg a.toNat + i.setWidth 32 * 4).toNat

/-- What a hit that is no access ends in; the lane classes and the scalar order agree (R86). -/
def Hit.act (s : State) (c : Ctx) (write : Bool) (r : Rec) : Hit → Act
  | .bad _ code addr => .fault s code addr
  | .absent va => .page s (pageBatch c write false r.asid (r.generation s) (trapPcOf false c.pc.toNat) [(0, va)])
  | .hole a => .hole a
  | _ => .wait s

def noRec : Rec := parseRec []

/-- LDS (R197, R198). -/
def execLds (sp : Option Word) (d a : Reg) (i : BitVec 8) : State → Host.Outcome State Fault Refusal :=
  runCtrl (groupSpec sp false [d.toNat]) (fun _ _ => false)
    (fun s c =>
      match localHit s c (effPols s c) .load 4 (ldsAddr c a i) with
      | .ok (.here k) _ g _ =>
        let own := rsbBytes c (.here k) 4
        if c.loadsHeld then .wait s
        else if poisoned s k 4 g own then .ue s (ldsAddr c a i)
        else .done (setCtx s (c.setSreg d.toNat (leWord (overlayOwn (readAs s k 4 g) own)))) none
      | h => h.act s c false noRec)

/-- STS (R197, R198): own register rows at once, anything else through the region store buffer. -/
def execSts (sp : Option Word) (d a : Reg) (i : BitVec 8) : State → Host.Outcome State Fault Refusal :=
  runCtrl (groupSpec sp false []) (fun _ _ => false)
    (fun s c =>
      match localHit s c (effPols s c) .none 4 (ldsAddr c a i) with
      | .ok (.here k) _ g _ =>
        let bs := wordBytes (c.sreg d.toNat)
        if ownRow c (.here k) then .done (writeOwn s c [(.here k, bs)]) none
        else
          match bufferStore c 0 false 0 0 (elementBytes (.here k) 0 (some g) bs) with
          | none => .fault s REGION 0
          | some c1 => .done (setCtx s c1) none
      | h => h.act s c true noRec)

/-! Scalar buffer access (R199, R200) -/

/-- What the record and address checks of a scalar buffer access leave; `oob` with the index where BTRAP raises BOUNDS. -/
inductive Element where
  | stop (a : Act)
  | oob (trap : Option Word)
  | at (place : Place) (va : Nat) (gen : BitVec 12) (counted : Bool) (r : Rec)

/-- A request of the context's scalar stream for data. -/
def scalarAsked (c : Ctx) (r : Request) : Bool :=
  r.ctx = c.id && r.flight.isNone && r.engine.isNone &&
    (match r.ask with
     | .read _ | .rmw _ _ _ => true
     | _ => false)

/-- An access of the context's scalar stream is under way, so its access has been translated (R324). -/
def scalarSent (s : State) (c : Ctx) : Bool :=
  scalarHolds s c || s.requests.any (scalarAsked c)

/-- The element of index s[a] through record `b` (R96, R125, R199). -/
def scalarElement (s : State) (c : Ctx) (a : Reg) (b : BitVec 7) (write : Bool) (read : Reading) (size4 : Bool) :
    Element :=
  let pols := effPols s c
  match bufferRecord s c pols b.toNat with
  | .error g => .stop (.fault s STALE g)
  | .ok r =>
    if r.bad || 2 < r.log2 || (size4 && r.log2 ≠ 2) then .stop (.fault s FORMAT 0)
    else if write && r.rdonly then .stop (.fault s PERM 0)
    else if !r.inBounds (c.sreg a.toNat) then .oob (if r.btrap then some (c.sreg a.toNat) else none)
    else if !r.vault && s.changing.contains r.asid && !scalarSent s c then .stop (.wait s)
    else
      match bufferHit s c r write read (pols.getLsbD 3) (2 ^ r.log2) (c.sreg a.toNat) with
      | .ok p va g cnt => .at p va g cnt r
      | h => .stop (h.act s c write r)

/-- The end of an access that is out of bounds: BOUNDS where BTRAP is set (R199). -/
def outOfBounds (s : State) : Option Word → Act
  | some x => .fault s BOUNDS x
  | none => .done s none

/-- A scalar request for a peer's line, sent once, and the line that answers it (R320, R352). -/
def scalarPeer (s : State) (c : Ctx) (d : BitVec 12) (a : Nat) (ask : Ask) (asid mg : BitVec 16) (counted : Bool) :
    Except State (List Byte × State) :=
  match s.requests.find? (fun r => scalarAsked c r && r.peer = d && r.addr = a / 128 * 128) with
  | some r =>
    match r.answer with
    | some bs => .ok (bs, forgetRequest s r.id)
    | none => .error s
  | none =>
    if homeHeld s c (.peer d (a / 128)) then .error s
    else .error (sendRequest s { newRequest s c d (a / 128 * 128) 128 ask (trapPcOf false c.pc.toNat) asid mg with counted := counted })

/-- A scalar load of a peer's bytes: from the core's L1, or from the line that the peer answers with (R88, R199, R312). -/
def scalarPeerLoad (s : State) (c : Ctx) (d : BitVec 12) (a n : Nat) (asid mg : BitVec 16) (counted : Bool) : Except State (List Byte × State) :=
  let x := copyOf s c.core asid mg (.peer d (a / 128))
  if !s.requests.any (scalarAsked c) && l1Hit s c asid mg (.peer d a) n then .ok (lineBytes x (a % 128) n, s)
  else (scalarPeer s c d a (.read true) asid mg counted).map (fun r => (lineBytes { x with bytes := overlayDirty (offsets r.1) x } (a % 128) n, r.2))

/-- SBLD (R199). -/
def execSbld (sp : Option Word) (d a : Reg) (b : BitVec 7) : State → Host.Outcome State Fault Refusal :=
  runCtrl (groupSpec sp false [d.toNat]) (fun _ _ => false)
    (fun s c =>
      match scalarElement s c a b false .load false with
      | .stop act => act
      | .oob trap => outOfBounds (setCtx s (c.setSreg d.toNat 0)) trap
      | .at p _ g cnt r =>
        let n := 2 ^ r.log2
        let own := rsbBytes c p n
        let result (bs : List Byte) (s1 : State) : Act :=
          .done (modCtx s1 c.id (fun c => c.setSreg d.toNat (leWord (overlayOwn bs own)))) none
        if c.loadsHeld then .wait s
        else
          let s := retireDue s c c.loadFence
          match p with
          | .peer dev ad =>
            match scalarPeerLoad s c dev ad n r.asid (r.generation s) cnt with
            | .error s1 => .wait s1
            | .ok (bs, s1) => result bs s1
          | .here k =>
            match spaceOf k with
            | .vault _ _ =>
              (match vaultRead s c k n g own with
               | .later s1 => .wait s1
               | .ue s1 => .ue s1 k
               | .bytes bs s1 => result bs s1)
            | _ =>
              match l1Load s c r.asid (r.generation s) k n own with
              | .later s1 => .wait s1
              | .ue s1 => .ue s1 k
              | .bytes bs s1 => result bs (countAccess s1 p (cnt && !l1Hit s c r.asid (r.generation s) p n)))

/-- SBST (R199): the region store buffer, at device scope. -/
def execSbst (sp : Option Word) (d a : Reg) (b : BitVec 7) : State → Host.Outcome State Fault Refusal :=
  runCtrl (groupSpec sp false []) (fun _ _ => false)
    (fun s c =>
      match scalarElement s c a b true .none false with
      | .stop act => act
      | .oob trap => outOfBounds s trap
      | .at p va g _ r =>
        let bs := (wordBytes (c.sreg d.toNat)).take (2 ^ r.log2)
        match bufferStore c 4 false r.asid (r.generation s) (elementBytes p va (if g = 0 then none else some g) bs) with
        | none => .fault s REGION 0
        | some c1 => .done (setCtx s c1) none)

/-- The literal of a SATOM is not legal (R200). -/
def satomIllegal (lit : Word) : Bool :=
  bits lit 15 10 ≠ 0 || lit.getLsbD 7 || !(bits lit 6 4 = 4 || bits lit 6 4 = 5) || 10 < bits lit 3 0 ||
    (bits lit 3 0 ≠ 9 && bits lit 31 24 ≠ 0)

/-- SATOM's read-modify-write of an element (R200). -/
def satomAt (s : State) (c : Ctx) (d : Reg) (lit : Word) (p : Place) (g : BitVec 12) (r : Rec) : Act :=
  let op := bits lit 3 0
  let x := c.sreg (bits lit 23 16)
  let cmp := c.sreg (bits lit 31 24)
  let finish (old : Word) (s1 : State) : Act :=
    let s2 := modCtx s1 c.id (fun c => c.setSreg d.toNat old)
    .done (if bits lit 9 8 % 2 = 1 && bits lit 6 4 = 5 then retireClean s2 c.core else s2) none
  match p with
  | .peer dev ad =>
    match ownDirty s c r.asid (r.generation s) p 4 with
    | some y => .wait (writeBackLine s c.core y (some c.id))
    | none =>
      match scalarPeer s c dev ad (.rmw (c.nbv = 1) op [(0, ad % 128, x, cmp)]) r.asid (r.generation s) false with
      | .error s1 => .wait s1
      | .ok (bs, s1) => finish (leWord ((bs.drop (ad % 128)).take 4)) s1
  | .here k =>
    match atHome s c (.scalar c.id c.pc) r.asid (r.generation s) g k with
    | .later s1 => .wait s1
    | .ue => .ue s k
    | .old w put => finish w (put (atomOp op (c.nbv = 1) w x cmp))

/-- SATOM (R200); its release steps come before it is sent to its home, and not again while it waits there. -/
def execSatom (sp : Option Word) (d a : Reg) (b : BitVec 7) (lit : Word) : State → Host.Outcome State Fault Refusal :=
  runCtrl { groupSpec sp true [d.toNat] with must := true } (fun _ _ => satomIllegal lit)
    (fun s c =>
      let (s1, ok) := if 2 ≤ bits lit 9 8 && !scalarSent s c then releaseSteps s c (bits lit 6 4) else (s, true)
      if !ok || c.loadsHeld then .wait s1
      else
        let c1 := (getCtx s1 c.id).getD c
        match scalarElement s1 c1 a b true .home true with
        | .stop act => act
        | .oob trap => outOfBounds (setCtx s1 (c1.setSreg d.toNat 0)) trap
        | .at p _ g _ r => satomAt s1 c1 d lit p g r)

/-! Rows (R83, R84) -/

/-- Rows of a core store that no allocation holds and that await no rewrite (R83). -/
def rowFree (k : Core) (row : Nat) : Bool := (ownerOf k.rows row).isNone && !k.rewriting.contains row && row < 6144

/-- Rows held by register allocations (R83). -/
def registerRows (k : Core) : Nat := ((k.rows.filter (fun r => r.kind = 1)).map Run.count).sum

/-- The first of the lowest `n` consecutive indexes below `lim` that are free; `have` of them end before `i`. -/
def freeRunFrom (free : Nat → Bool) (n : Nat) : Nat → Nat → Nat → Option Nat
  | i, got, 0 => if n ≤ got then some (i - n) else none
  | i, got, fuel + 1 =>
    if n ≤ got then some (i - n)
    else freeRunFrom free n (i + 1) (if free i then got + 1 else 0) fuel

/-- The lowest free run of `n` rows of a core. -/
def freeRows (k : Core) (n : Nat) : Option Nat := freeRunFrom (rowFree k) n 0 0 6144

/-- Bytes, tags and errors of granules copied to another place; a whole granule is written, so an error that stood there is
gone (R92, R347). -/
def copyGranules (s : State) (src dst : Nat) : Nat → State
  | 0 => s
  | n + 1 =>
    let s1 := clearPoison (setTag (writeBytes s dst (readBytes s src 64)) dst (tagAt s src)) dst
    let s2 := if poisonAt s src then { s1 with poison := s1.poison ++ [granule dst] } else s1
    copyGranules s2 (src + 64) (dst + 64) n

/-- The register run of a group is replaced. -/
def setRegRun (k : Core) (c : Ctx) (first count : Nat) : Core :=
  { k with rows := k.rows.map (fun r =>
      if r.kind = 1 && r.owner = c.id then { r with first := first, count := count } else r) }

/-- V becomes `n`, and the live-mask word describes the registers below the smaller V (R202). -/
def Ctx.grown (c : Ctx) (n : Nat) : Ctx := { c with vregs := n, liveRegs := min c.vregs n }

/-- The context goes on past the instruction that suspended it. -/
def resumePast (s : State) (id len : Nat) (sp : Option Word) : State :=
  let go : Ctx → Ctx := fun c =>
    ({ c with mode := .run }).advance { len := len, sp := sp, levels := groupLevels, counted := true } (c.pc + BitVec.ofNat 24 len) s.nextId
  modCtx s id go

/-! WAITA (R151 to R153, R221) -/

/-- A group suspended on the same ring earlier, in the order of R221. -/
def ringAhead (s : State) (c : Ctx) (addr order : Nat) : Bool :=
  s.ctxs.any (fun x => x.id ≠ c.id && x.core = c.core &&
    (match x.mode with
     | .waita (.waita _ _ a _) _ o => waitaRing x a && waitaAddr x a = addr &&
        (o < order || (o = order && x.slot < c.slot))
     | _ => false))

/-- The ring's slot count and size are not valid (R152, R221). A count above 4,096 is accepted: the rule gives a fate to 0 alone, and
HEAD and TAIL are taken mod the count within their 12 bits (log entry 107). -/
def ringBad (ws : List Word) : Bool :=
  bits (ws.getD 0 0) 15 0 = 0 || ws.getD 1 0 = 0 || (ws.getD 1 0).toNat % 64 ≠ 0

/-- What WAITA finds at its object. -/
inductive Waita where
  | fault (code : Nat)
  | ue (addr : Nat)
  | no
  /-- The value returned and the state in which it has been taken. -/
  | yes (v : Word) (s : State)

/-- The test of R221: PERM, ALIGN, OBJGONE, FORMAT, and the condition of R151 or R153. -/
def waitaTest (s : State) (c : Ctx) (a b : Reg) (order : Nat) : Waita :=
  let ring := waitaRing c a
  let addr := waitaAddr c a
  let n := if ring then 32 else 16
  let k := coreKey c.core addr
  match allocOf c (effPols s c) addr n with
  | none => .fault PERM
  | some al =>
    if addr % n ≠ 0 then .fault ALIGN
    else if tagAt s k ≠ al.gen then .fault OBJGONE
    else if poisonAt s k then .ue addr
    else
      let ws := readWords s k (n / 4)
      if ring then
        if ringBad ws then .fault FORMAT
        else if 0 < (ws.getD 3 0).toInt && !ringAhead s c addr order then
          let tail := bits (ws.getD 5 0) 11 0
          let s1 := writeWord s (k + 12) (ws.getD 3 0 - 1)
          .yes (BitVec.ofNat 32 tail)
            (writeWord s1 (k + 20) ((ws.getD 5 0 &&& 0xFFFFF000) ||| BitVec.ofNat 32 ((tail + 1) % bits (ws.getD 0 0) 15 0 % 4096)))
        else .no
      else if ws.getD 1 0 ≠ c.sreg b.toNat then .yes (ws.getD 1 0) s
      else .no

/-- WAITA (R221): while it is suspended the group is counted in WAITERS. The ring form does not use b, so a nonzero b is
ILLEGAL there (R160; log entry 24). -/
def execWaita (sp : Option Word) (d a b : Reg) : State → Host.Outcome State Fault Refusal :=
  runCtrl (groupSpec sp false [d.toNat]) (fun _ c => waitaRing c a && b ≠ 0)
    (fun s c =>
      match waitaTest s c a b s.nextId with
      | .fault code => .fault s code 0
      | .ue addr => .ue s addr
      | .yes v s1 => .done (modCtx s1 c.id (fun c => c.setSreg d.toNat v)) none
      | .no =>
        let s1 := modWaiters s (coreKey c.core (waitaAddr c a)) (waitaRing c a) (· + 1)
        let suspended : Ctx → Ctx := fun c => { c with mode := .waita (.waita sp d a b) (wordsOf false sp) s.nextId }
        .suspend { modCtx s1 c.id suspended with nextId := s.nextId + 1 })

/-- A group suspended in WAITA tests its object again; a fault found then, OBJGONE too, leaves WAITERS decremented (R221). -/
def execWaitaWake (c : Nat) (s : State) : Host.Outcome State Fault Refusal :=
  match getCtx s c with
  | none => .next s
  | some x =>
    match x.mode with
    | .waita (.waita sp d a b) len order =>
      if !powered s then .next s
      else
        let leave (s : State) : State := modWaiters s (coreKey x.core (waitaAddr x a)) (waitaRing x a) (· - 1)
        match waitaTest s x a b order with
        | .no => .next s
        | .fault code =>
          .next (takeFault (leave s) { x with mode := .run } code none false x.pc.toNat 0)
        | .ue addr => .next (scalarUe (leave s) { x with mode := .run } x.pc.toNat addr)
        | .yes v s1 => .next (resumePast (modCtx (leave s1) c (fun c => c.setSreg d.toNat v)) c len sp)
    | _ => .next s

/-! TRYW (R222) -/

/-- The literal of a TRYW is not legal (R222). -/
def trywIllegal (lit : Word) : Bool := bits lit 31 28 ≠ 0 || 5 < bits lit 3 0

/-- The condition codes of TRYW (R222). -/
def trywCond (k : Nat) (w cmp : Word) : Bool :=
  match k with
  | 0 => w == cmp
  | 1 => w != cmp
  | 2 => w.slt cmp
  | 3 => !w.slt cmp
  | 4 => w.ult cmp
  | _ => !w.ult cmp

/-- One turn of TRYW's loop (R222), begun at device time `t0`: the word at its home, the condition, the timeout. -/
def trywTest (s : State) (c : Ctx) (sp : Option Word) (d a : Reg) (b : BitVec 7) (lit : Word) (t0 : Nat) : Act :=
  match scalarElement s c a b false .home true with
  | .stop act => act
  | .oob trap => outOfBounds (setCtx s (c.setSreg d.toNat 0)) trap
  | .at p _ g cnt r =>
    let decide (w : Word) (s1 : State) : Act :=
      if trywCond (bits lit 3 0) w (c.sreg d.toNat) then
        .done (retireClean (modCtx s1 c.id (fun c => c.setSreg d.toNat 1)) c.core) none
      else if t0 + bits lit 27 4 ≤ dieTime s c.die then .done (modCtx s1 c.id (fun c => c.setSreg d.toNat 0)) none
      else
        let suspended : Ctx → Ctx := fun c => { c with mode := .tryw (.tryw sp d a b lit) (wordsOf true sp) t0 }
        .suspend (modCtx s1 c.id suspended)
    if c.loadsHeld then .wait s
    else
      match p with
      | .peer dev ad =>
        match scalarPeer s c dev ad (.read false) r.asid (r.generation s) cnt with
        | .error s1 => .wait s1
        | .ok (bs, s1) => decide (leWord ((bs.drop (ad % 128)).take 4)) s1
      | .here k =>
        match spaceOf k with
        | .vault _ _ =>
          (match vaultRead s c k 4 g [] with
           | .later s1 => .wait s1
           | .ue s1 => .ue s1 k
           | .bytes bs s1 => decide (leWord bs) s1)
        | _ =>
          match homeRead s c r.asid (r.generation s) k 4 with
          | .later s1 => .wait s1
          | .ue s1 => .ue s1 k
          | .bytes bs s1 => decide (leWord bs) (countAccess s1 p cnt)

/-- TRYW (R222). -/
def execTryw (sp : Option Word) (d a : Reg) (b : BitVec 7) (lit : Word) : State → Host.Outcome State Fault Refusal :=
  runCtrl (groupSpec sp true [d.toNat]) (fun _ _ => trywIllegal lit)
    (fun s c => trywTest s c sp d a b lit (dieTime s c.die))

/-- A suspended TRYW goes round its loop again (R222). -/
def trywAgain (c : Nat) (timedOut : Bool) (s : State) : Host.Outcome State Fault Refusal :=
  match getCtx s c with
  | none => .next s
  | some x =>
    match x.mode with
    | .tryw (.tryw sp d a b lit) len t0 =>
      if !powered s || (timedOut && dieTime s x.die < t0 + bits lit 27 4) then .next s
      else
        let y : Ctx := { x with mode := .run }
        let spec : CtrlSpec := { groupSpec sp true [d.toNat] with len := len, counted := true }
        match trywTest (setCtx s y) y sp d a b lit t0 with
        | .wait s1 =>
          let again : Ctx → Ctx := fun c => { c with mode := x.mode }
          .next (modCtx s1 c again)
        | act => finishCtrl c spec x.pc x.pc.toNat act
    | _ => .next s

/-- A suspended TRYW rereads its word (R222). -/
def execTrywWake (c : Nat) (s : State) : Host.Outcome State Fault Refusal := trywAgain c false s
/-- The hint time of a suspended TRYW has passed (R222). -/
def execTrywTimeout (c : Nat) (s : State) : Host.Outcome State Fault Refusal := trywAgain c true s

end Sys2Proof.Machine
end

