-- ==== Sys2Proof/Machine/Engine.lean ====
section
/-! DEFINITION. The copy engine: descriptors, boxes, units and landings, arrival and ring objects, retirement (R117, R127,
R143 to R146, R150 to R153, R227 to R231). -/

namespace Sys2Proof.Machine

/-! The format pair (R126, R294) -/

/-- Families of R126: 0 RNS-8, 1 the FP8 formats, 2 the 16-bit formats. -/
def family (fmt : Nat) : Nat := if fmt = 9 then 0 else if fmt = 7 || fmt = 8 then 1 else 2

/-- K of a family (R293). -/
def familyK (fam : Nat) : Nat := if fam = 0 then 64 else if fam = 1 then 32 else 16
/-- A registers of each lane (R292). -/
def familyRegs (fam : Nat) : Nat := if fam = 0 then 16 else 8
/-- Slots of B (R297, R298). -/
def bSlots (fam comp : Nat) : Nat := if fam ≠ 0 then 2 else if comp = 0 then 4 else if comp = 3 then 2 else 3
/-- Elements of a block length code. -/
def blkLen (code : Nat) : Nat := 16 * 2 ^ code

/-- The A and B blocks of a pair of 64 bytes. -/
def pairA (p : List Byte) : FBlock := parseBlock (bytesToWords (p.take 32))
def pairB (p : List Byte) : FBlock := parseBlock (bytesToWords (p.drop 32))

/-! Descriptors (R127, R227) -/

/-- A copy descriptor's fields. -/
structure Desc where
  rop : Nat
  dkind : Nat
  skind : Nat
  log2 : Nat
  ndim : Nat
  src : Word
  dst : Word
  av : Bool
  arrival : Nat
  exts : List Nat
  sstr : List Int
  dstr : List Int
deriving Repr

def parseDesc (ws : List Word) : Desc :=
  let w (i : Nat) : Word := ws.getD i 0
  let nd := bits (w 0) 2 0
  let dims := List.range (nd + 1)
  { rop := bits (w 0) 19 16, dkind := bits (w 0) 14 12, skind := bits (w 0) 10 8, log2 := bits (w 0) 6 4, ndim := nd
    src := w 1, dst := w 2, av := (w 3).getLsbD 31, arrival := bits (w 3) 23 0
    exts := dims.map (fun k => (w (8 + 3 * k)).toNat)
    sstr := dims.map (fun k => (w (9 + 3 * k)).toInt)
    dstr := dims.map (fun k => (w (10 + 3 * k)).toInt) }

/-- Bytes of an element. -/
def Desc.size (d : Desc) : Nat := 2 ^ d.log2
/-- Elements of the box. -/
def Desc.count (d : Desc) : Nat := d.exts.foldl (· * ·) 1

/-- A SRC or DST word has a bit outside its kind's field (R127). -/
def refBad (kind : Nat) (w : Word) : Bool :=
  match kind with
  | 0 => bits w 31 7 ≠ 0
  | 2 => bits w 31 30 ≠ 0
  | _ => bits w 31 24 ≠ 0

/-- The four engine instructions. -/
inductive EngKind where
  | tcopy
  | gcopy
  | wbload
  | rcopy
deriving DecidableEq, Repr

def EngKind.opcode : EngKind → Nat
  | .tcopy => 0x60
  | .gcopy => 0x61
  | .wbload => 0x62
  | .rcopy => 0x63
/-- The engine class (R143). -/
def EngKind.cls : EngKind → BitVec 2
  | .tcopy => 0
  | .gcopy => 2
  | .wbload => 0
  | .rcopy => 3

/-- The FORMAT checks of R127, and the kinds and fields that R227 admits. -/
def descBad (k : EngKind) (ws : List Word) : Bool :=
  let w (i : Nat) : Word := ws.getD i 0
  let d := parseDesc ws
  (w 0 &&& 0xFFF08888) ≠ 0 || (w 3 &&& 0x7F000000) ≠ 0 || [4, 5, 6, 7, 29, 30, 31].any (fun i => w i ≠ 0) ||
    6 < d.ndim || 3 < d.dkind || 2 < d.skind || 4 < d.log2 || (d.dkind = 3 && d.av) || refBad d.skind d.src ||
    refBad d.dkind d.dst || ((List.range 29).any (fun i => 11 + 3 * d.ndim ≤ i && w i ≠ 0)) ||
    (match k with
     | .tcopy => d.rop ≠ 0
     | .gcopy => d.rop ≠ 0 || d.ndim ≠ 1 || d.dkind = 3 || 4096 < d.exts.getD 1 0
     | .wbload => d.rop ≠ 0 || d.dkind ≠ 0 || d.dst ≠ 0 || d.av
     | .rcopy => d.dkind = 3 || d.log2 ≠ 2 || d.rop = 8 || d.rop = 9 || 10 < d.rop)

/-! Positions (R228) -/

/-- The coordinates of element `e`, innermost first. -/
def boxCoords : List Nat → Nat → List Nat
  | [], _ => []
  | x :: r, e => e % x :: boxCoords r (e / x)

/-- The sum over the dimensions of (c + i) times the stride. -/
def boxSum : List Int → List Nat → List Int → Int
  | c :: cs, i :: is, t :: ts => (c + i) * t + boxSum cs is ts
  | _, _, _ => 0

def dstPos (d : Desc) (dst : List Int) (e : Nat) : Int := boxSum dst (boxCoords d.exts e) d.dstr

/-- A GCOPY's source position comes from its index list. -/
def srcPos (k : Nat) (d : Desc) (src : List Int) (idx : List Word) (e : Nat) : Int :=
  let i := boxCoords d.exts e
  if k = 0x61 then (idx.getD (i.getD 1 0) 0).toNat * d.sstr.getD 1 0 + i.getD 0 0 * d.sstr.getD 0 0
  else boxSum src i d.sstr

/-- Where an element of a side lies. -/
inductive Spot where
  /-- Out of bounds: it reads zero, and is dropped. -/
  | nothing
  /-- A core-store or vault byte's key. -/
  | key (k : Nat)
  | va (a : Nat)
  | bad (rank code : Nat) (addr : Word)
deriving DecidableEq, Repr

/-- The ranges of keys that a context may touch, with their generations (R86, R90). -/
def ctxGens (s : State) (c : Ctx) : List (Nat × Nat × BitVec 12) :=
  let core (row n : Nat) (g : BitVec 12) : Nat × Nat × BitVec 12 := (coreKey c.core (row * 256), n * 256, g)
  core c.regBase c.vregs c.regGen :: core c.table 16 c.tableGen :: core c.scrRow c.scrRows c.scrGen ::
    ((getLaunch s c.launch).elim [] Launch.vruns).map (fun r => (vaultKey r.1 (r.2.1 * 65536), r.2.2.1 * 65536, r.2.2.2))

/-- The generation under which a key may be touched. -/
def genAt (gens : List (Nat × Nat × BitVec 12)) (k : Nat) : Option (BitVec 12) :=
  (gens.find? (fun g => g.1 ≤ k && k < g.1 + g.2.1)).map (fun g => g.2.2)

/-- The spot of a key that `n` bytes from must be reachable (R86, R90). -/
def keySpot (gens : List (Nat × Nat × BitVec 12)) (n : Nat) (base : Nat) (size : Nat) (off : Int) : Spot :=
  if off < 0 || (size : Int) < off + n then .bad 0 PERM 0
  else
    let k := base + off.toNat
    if (genAt gens k).isNone || (genAt gens (k + n - 1)).isNone then .bad 0 PERM 0
    else if k % n ≠ 0 then .bad 1 ALIGN 0
    else .key k

/-- The spot of an element of `n` bytes at a position of a side (R96, R228). Where the element size of the descriptor differs from that
of the buffer record, the larger of the two bounds it, and it is aligned to both (log entry 130). -/
def spotOf (core : Nat) (gens : List (Nat × Nat × BitVec 12)) (kind : Nat) (ref : Word) (rec : List Word) (n : Nat)
    (pos : Int) : Spot :=
  match kind with
  | 0 =>
    let r := parseRec rec
    let x := BitVec.ofInt 32 pos
    let a := r.address x
    if pos < 0 || (r.extent : Int) ≤ pos || 2 ^ 52 < a + max n (2 ^ r.log2) then
      (if r.btrap then .bad 2 BOUNDS x else .nothing)
    else if r.vault then
      if 48 ≤ a / 2 ^ 24 then .bad 0 PERM 0
      else
        match keySpot gens n (vaultKey (a / 2 ^ 24) 0) (2 ^ 24) (a % 2 ^ 24) with
        | .key k => if a % 2 ^ r.log2 ≠ 0 then .bad 1 ALIGN 0 else .key k
        | x => x
    else if a % 2 ^ r.log2 ≠ 0 || a % n ≠ 0 then .bad 1 ALIGN 0
    else .va a
  | 2 =>
    if 48 ≤ ref.toNat / 2 ^ 24 then .bad 0 PERM 0
    else keySpot gens n (vaultKey (ref.toNat / 2 ^ 24) 0) (2 ^ 24) ((ref.toNat % 2 ^ 24 : Nat) + pos)
  | _ => keySpot gens n (coreKey core 0) coreStoreEnd ((ref.toNat : Nat) + pos)

/-! Issue (R228) -/

/-- What a box check finds for one element. No page is looked up at issue: one that is absent or not writable is met by the unit
(R228, R231). -/
def Spot.fault : Spot → Option (Nat × Nat × Word)
  | .bad r code a => some (r, code, a)
  | _ => none

/-- The first of the lowest rank (R228, step 5). -/
def worst (fs : List (Nat × Nat × Word)) : Option (Nat × Word) :=
  ((fs.map (fun f => f.1)).min?).bind (fun r => (fs.find? (fun f => f.1 = r)).map (fun f => f.2))

/-- A buffer record for a side: its words, or the fault (R124, R125). -/
def sideRecord (s : State) (c : Ctx) (kind : Nat) (ref : Word) (write : Bool) : Except (Nat × Word) (List Word) :=
  if kind ≠ 0 then .ok []
  else
    match readRecord s c.core (c.table * 256 + 32 * bits ref 6 0) ⟨c.tableGen, (effPols s c).getLsbD 1, false⟩ 8 with
    | .error g => .error (STALE, g)
    | .ok ws =>
      let r := parseRec ws
      if r.bad then .error (FORMAT, 0) else if write && r.rdonly then .error (PERM, 0) else .ok ws

/-- The words at an address of the core store, one by one: PERM, then ALIGN, then STALE (R86, R124). -/
def readList (s : State) (c : Ctx) (addr : Nat) : Nat → Except (Nat × Word) (List Word)
  | 0 => .ok []
  | n + 1 =>
    match allocOf c (effPols s c) addr 4 with
    | none => .error (PERM, 0)
    | some al =>
      if addr % 4 ≠ 0 then .error (ALIGN, 0)
      else
        match readRecord s c.core addr al 1 with
        | .error g => .error (STALE, g)
        | .ok w => (readList s c (addr + 4) n).map (fun r => w ++ r)

/-- The descriptor at an address: PERM, ALIGN at 128, STALE (R124, R227). -/
def readDesc (s : State) (c : Ctx) (addr : Nat) : Except (Nat × Word) (List Word) :=
  if (allocOf c (effPols s c) addr 128).isNone then .error (PERM, 0)
  else if addr % 128 ≠ 0 then .error (ALIGN, 0)
  else readList s c addr 32

/-- An object of `n` bytes that the operation names: PERM, then ALIGN (R86, R150, R152). -/
def objFault (gens : List (Nat × Nat × BitVec 12)) (core addr n : Nat) : Option (Nat × Nat × Word) :=
  if (genAt gens (coreKey core addr)).isNone || (genAt gens (coreKey core (addr + n - 1))).isNone || coreStoreEnd ≤ addr then
    some (0, PERM, 0)
  else if addr % n ≠ 0 then some (1, ALIGN, 0)
  else none

/-- The faults of the whole box (R228, step 5), the objects and the weight slots among them. -/
def boxFault (s : State) (c : Ctx) (k : EngKind) (o : EngOp) (first : Nat) : Option (Nat × Word) :=
  let d := parseDesc o.desc
  let n := d.size
  let es := List.range d.count
  let srcs := es.filterMap (fun e =>
    (spotOf c.core o.gens d.skind d.src o.srcRec n (srcPos o.opcode d o.src o.idx e)).fault)
  let dsts := if k = .wbload || d.dkind = 3 then []
    else es.filterMap (fun e => (spotOf c.core o.gens d.dkind d.dst o.dstRec n (dstPos d o.dst e)).fault)
  let ring := if k = .tcopy && d.dkind = 3 then (objFault o.gens c.core (bits d.dst 23 0) 32).toList else []
  let arr := if d.av then (objFault o.gens c.core d.arrival 16).toList else []
  let slots := if k = .wbload && ((blockOf s c).elim c.wslots Ctx.wslots) < first + d.count * n / 1024 then [(0, PERM, 0)] else []
  worst (srcs ++ dsts ++ ring ++ arr ++ slots)

/-- The weight slots of the group's block, or its own: the holder and the first slot (R94). -/
def slotRunOf (s : State) (c : Ctx) : Nat × Nat := (if c.task then c.id else (blockOf s c).elim c.id Ctx.id, c.slotBase)

/-- The granule of the ring object that is stale under the TRAP policy, where the group may touch it (R124). -/
def ringStale (s : State) (c : Ctx) (d : Desc) : Option Word :=
  let addr := bits d.dst 23 0
  match allocOf c (effPols s c) addr 32 with
  | some al =>
    (match readRecord s c.core addr al 8 with
     | .error g => if addr % 32 = 0 then some g else none
     | .ok _ => none)
  | none => none

/-- The operation that an engine instruction forms, or its fault (R228, steps 2 to 5). -/
def formOp (s : State) (c : Ctx) (k : EngKind) (d a b : Reg) : Except (Nat × Word) EngOp :=
  match readDesc s c (c.sreg a.toNat).toNat with
  | .error f => .error f
  | .ok ws =>
    let ds := parseDesc ws
    match (if k = .gcopy then readList s c (c.sreg d.toNat).toNat ds.exts[1]?.toList.sum else .ok []) with
    | .error f => .error f
    | .ok idx =>
      let last (r : Reg) : Nat := r.toNat + ds.ndim
      let coords (r : Reg) : List Int := (c.sregRun r.toNat (ds.ndim + 1)).map BitVec.toInt
      let first := (c.sreg d.toNat).toNat
      let bytes := ds.count * ds.size
      if descBad k ws || 255 < last b || ((k = .tcopy || k = .rcopy) && 255 < last d) ||
          (k = .wbload && (bytes = 0 || bytes % 1024 ≠ 0)) then .error (FORMAT, 0)
      else
        match sideRecord s c ds.skind ds.src false with
        | .error f => .error f
        | .ok sr =>
          match (if k = .wbload then .ok [] else sideRecord s c ds.dkind ds.dst true) with
          | .error f => .error f
          | .ok dr =>
            let o : EngOp :=
              { id := s.nextId, ctx := c.id, launch := c.launch, core := c.core, slot := c.slot, holder := (slotRunOf s c).1
                cls := k.cls, opcode := k.opcode, desc := ws, idx := idx
                src := if k = .gcopy then [] else coords b
                dst := if k = .gcopy then coords b else if k = .wbload then [] else coords d
                srcRec := sr, dstRec := dr, nbv := c.nbv, gens := ctxGens s c
                stage := if ds.count = 0 then .complete else .queued
                unit := 0, landed := [], words := [], ringSlot := none
                wslot := (slotRunOf s c).2 + first, pc := trapPcOf false c.pc.toNat }
            match (if k = .tcopy && ds.dkind = 3 then ringStale s c ds else none), boxFault s c k o first with
            | some g, _ => .error (STALE, g)
            | none, some f => .error f
            | none, none => .ok o

/-- The address spaces that an operation's records name. -/
def opSpaces (o : EngOp) : List (BitVec 16) :=
  ((if o.srcRec.isEmpty then [] else [parseRec o.srcRec]) ++ (if o.dstRec.isEmpty then [] else [parseRec o.dstRec])).filterMap
    (fun r => if r.vault then none else some r.asid)

/-! Retirement (R144) -/

/-- The leading complete operations of a class retire in issue order. -/
def retireOps (s : State) (id : Nat) (cls : BitVec 2) : Nat → State
  | 0 => s
  | n + 1 =>
    match (getCtx s id).bind (fun c => c.engines.find? (fun e => e.1 = cls)) with
    | none => s
    | some (_, o) =>
      if (getOp s o).elim true (fun x => x.stage = .complete) then
        let drop : Ctx → Ctx := fun c => { c with engines := c.engines.filter (fun e => e.2 ≠ o) }
        retireOps (dropOp (modCtx s id drop) o) id cls n
      else s

/-- Operations of a class whose every older one has completed retire (R144). -/
def execEngineRetire (c cls : Nat) (s : State) : Host.Outcome State Fault Refusal :=
  .next (retireOps s c (BitVec.ofNat 2 cls) 63)

/-- A core's queue of a class holds its 256 operations: those that have not started (R107, R117). -/
def queueFull (s : State) (k : Nat) (cls : BitVec 2) : Bool :=
  256 ≤ (s.ops.filter (fun o => o.core = k && o.cls = cls && o.stage = .queued)).length

/-- Slots of an MMA operation's B. -/
def MatOp.slots (op : MatOp) : Nat := bSlots (family (pairB op.pair).fmt) (pairB op.pair).comp

/-- A WBLOAD issues on weight slots of a core: their valid bits are clear, and MMA operations that name one of them do not
fuse with later ones (R94, R230, R299). -/
def slotsNamed (c : Core) (slots : List Nat) : Core :=
  let names (x : MatOp) : Bool := x.opcode = 0x60 && slots.any (fun w => x.slot ≤ w && w < x.slot + x.slots)
  { c with
    valid := c.valid.filter (fun w => !slots.contains w)
    matq := c.matq.map (fun x => if names x then { x with loads := x.loads + 1 } else x) }

/-- An engine instruction issues (R228). -/
def issueOp (k : EngKind) (sp : Option Word) (d a b : Reg) : State → Host.Outcome State Fault Refusal :=
  runCtrl { groupSpec sp false [] with must := true, single := true } (fun _ _ => false)
    (fun s c =>
      match formOp s c k d a b with
      | .error (code, addr) => .fault s code addr
      | .ok o =>
        if (opSpaces o).any (fun x => s.changing.contains x) || 63 ≤ c.engineCount k.cls || queueFull s c.core k.cls then .wait s
        else
          let slots := if k = .wbload then (List.range ((parseDesc o.desc).count * (parseDesc o.desc).size / 1024)).map (o.wslot + ·) else []
          let s1 := if slots.isEmpty then s else setCore s c.core (slotsNamed (getCore s c.core) slots)
          let s2 := { setCtx s1 { c with engines := c.engines ++ [(k.cls, o.id)] } with
            ops := s1.ops ++ [o]
            nextId := s1.nextId + 1 }
          .done (retireOps s2 c.id k.cls 63) none)

/-- TCOPY (R227 to R230). -/
def execTcopy (sp : Option Word) (d a b : Reg) : State → Host.Outcome State Fault Refusal := issueOp .tcopy sp d a b
/-- GCOPY (R227 to R230). -/
def execGcopy (sp : Option Word) (d a b : Reg) : State → Host.Outcome State Fault Refusal := issueOp .gcopy sp d a b
/-- WBLOAD (R227 to R230). -/
def execWbload (sp : Option Word) (d a b : Reg) : State → Host.Outcome State Fault Refusal := issueOp .wbload sp d a b
/-- RCOPY (R227 to R230). -/
def execRcopy (sp : Option Word) (d a b : Reg) : State → Host.Outcome State Fault Refusal := issueOp .rcopy sp d a b

/-! Faults found after issue (R231) -/

/-- Word w3 of an error record for an operation whose context has gone (R340). -/
def EngOp.where3 (o : EngOp) : Word :=
  BitVec.ofNat 32 ((clusterDie (o.core / 4)).toNat * 2 ^ 24 + o.core / 4 * 2 ^ 16 + o.slot * 256 + o.core)

/-- The operation is cancelled, and its group takes the fatal fault ENGINE, or RTIMEOUT; the record carries the original
code (R231). Where its group has ended the launch is killed all the same (log entry 98). -/
def engineFault (s : State) (o : EngOp) (code : Nat) : State :=
  let raised := if code = RTIMEOUT then RTIMEOUT else ENGINE
  let s1 := setOp s { o with stage := .cancelled }
  let kill (s : State) : State := { s with kills := s.kills ++ [⟨o.launch, BitVec.ofNat 8 raised⟩] }
  match getCtx s1 o.ctx with
  | some c =>
    if c.mode == .faulted then s1
    else kill (ctxError (setCtx (dropWait s1 c) { c.recordFault raised none o.pc 0 with mode := .faulted }) c 3 code none 0 o.pc 0)
  | none => kill (pushError s1 (errorRecord s1 3 code none 1 o.where3 0 o.pc 0 (clusterDie (o.core / 4))))

/-! Objects (R150 to R153) -/

/-- Words of an object on the operation's core, read and written under the generation taken at issue. -/
def objRead (s : State) (o : EngOp) (addr n : Nat) : List Word :=
  let k := coreKey o.core addr
  bytesToWords (readAs s k (4 * n) ((genAt o.gens k).getD 0))

def objWrite (s : State) (o : EngOp) (addr : Nat) (ws : List Word) : State :=
  coreWrite s o.core addr ((genAt o.gens (coreKey o.core addr)).getD 0) (ws.flatMap wordBytes)

/-- The object bears uncorrectable data (R347). -/
def objBad (s : State) (o : EngOp) (addr : Nat) : Bool :=
  let k := coreKey o.core addr
  poisonAt s k && some (tagAt s k) = genAt o.gens k

/-- A landing of `n` bytes updates the arrival object (R151). -/
def arrivalUpdate (s : State) (o : EngOp) (n : Nat) : State :=
  let d := parseDesc o.desc
  if !d.av then s
  else if objBad s o d.arrival then engineFault s o UE
  else
    let w := objRead s o d.arrival 3
    let remain := (w.getD 0 0).toNat
    if remain ≤ n then
      let flag := if remain < n then w.getD 2 0 ||| 0x80000000 else w.getD 2 0
      objWrite s o d.arrival [0, w.getD 1 0 + 1, flag]
    else objWrite s o d.arrival [BitVec.ofNat 32 (remain - n)]

/-- The address of the ring object. -/
def EngOp.ring (o : EngOp) : Nat := bits (parseDesc o.desc).dst 23 0
def EngOp.isRing (o : EngOp) : Bool := o.opcode = 0x60 && (parseDesc o.desc).dkind = 3

/-- The ring's checks as a copy starts (R152, R153). -/
def ringFault (s : State) (o : EngOp) : Option Nat :=
  let d := parseDesc o.desc
  let w := objRead s o o.ring 8
  let slots := bits (w.getD 0 0) 15 0
  let size := (w.getD 1 0).toNat
  let base := bits (w.getD 6 0) 23 0
  let stale := (firstStale s (coreKey o.core o.ring) ((genAt o.gens (coreKey o.core o.ring)).getD 0) 32).isSome
  let policy := (ownerOf (getCore s o.core).rows (o.ring / 256)).elim false Run.policy
  if stale && policy then some STALE
  else if objBad s o o.ring then some UE
  else if ringBad w || size < d.count * d.size then some FORMAT
  else if coreStoreEnd < base + slots * size ||
      (List.range ((base + slots * size) / 64 + 1)).any (fun i => base ≤ i * 64 + 63 && i * 64 < base + slots * size &&
        (genAt o.gens (coreKey o.core (max base (i * 64)))).isNone) then some PERM
  else none

/-! The start of an operation (R117, R153) -/

/-- The operation at the head of a core's queue of a class, where none ahead of it waits for a ring slot. -/
def headOp (s : State) (k : Nat) (cls : BitVec 2) : Option EngOp :=
  if s.ops.any (fun o => o.core = k && o.cls = cls && o.stage = .ringWait) then none
  else s.ops.find? (fun o => o.core = k && o.cls = cls && o.stage = .queued)

/-- The head of a class queue starts; a ring copy reads its ring object (R117, R153). -/
def execEngineOpStart (k cls : Nat) (s : State) : Host.Outcome State Fault Refusal :=
  match headOp s k (BitVec.ofNat 2 cls) with
  | none => .next s
  | some o =>
    if !powered s then .next s
    else if o.isRing then
      match ringFault s o with
      | some code => .next (engineFault s o code)
      | none => .next (setOp s { o with stage := .ringWait })
    else .next (setOp s { o with stage := .started })

/-- A ring copy takes the slot at HEAD once one is free (R153). -/
def execRingSlotTake (op : Nat) (s : State) : Host.Outcome State Fault Refusal :=
  match getOp s op with
  | none => .next s
  | some o =>
    if o.stage ≠ .ringWait || !powered s then .next s
    else
      let w := objRead s o o.ring 8
      let slots := bits (w.getD 0 0) 15 0
      let head := bits (w.getD 4 0) 11 0
      if (w.getD 2 0).toInt ≤ 0 || slots = 0 then .next s
      else
        let next := BitVec.ofNat 32 ((head + 1) % slots % 4096)
        let s1 := objWrite s o (o.ring + 8) [w.getD 2 0 - 1]
        let s2 := objWrite s1 o (o.ring + 16) [(w.getD 4 0 &&& 0xFFFFF000) ||| next]
        .next (setOp s2 { o with stage := .started, ringSlot := some (bits (w.getD 6 0) 23 0 + head * (w.getD 1 0).toNat) })

/-! Units and landings (R151, R228) -/

/-- Elements of a 64 KiB unit. -/
def Desc.perUnit (d : Desc) : Nat := 65536 / d.size
/-- Units of the copy. -/
def Desc.units (d : Desc) : Nat := (d.count + d.perUnit - 1) / d.perUnit

/-- The elements of unit `u`. -/
def Desc.unitElems (d : Desc) (u : Nat) : List Nat :=
  (List.range (min d.perUnit (d.count - u * d.perUnit))).map (fun i => u * d.perUnit + i)

def EngOp.srcSpot (o : EngOp) (e : Nat) : Spot :=
  let d := parseDesc o.desc
  spotOf o.core o.gens d.skind d.src o.srcRec d.size (srcPos o.opcode d o.src o.idx e)

/-- The destination of an element; a WBLOAD fills its slots in order, a ring copy its slot (R153, R230). An element whose position lies
outside the slot is written at that distance from its base, where the context may, and dropped where it may not (log entry 131). -/
def EngOp.dstSpot (o : EngOp) (e : Nat) : Spot :=
  let d := parseDesc o.desc
  if o.opcode = 0x62 then .key (slotKey o.core o.wslot (e * d.size))
  else if o.isRing then
    spotOf o.core o.gens 1 (BitVec.ofNat 32 (o.ringSlot.getD 0)) [] d.size (dstPos d o.dst e)
  else spotOf o.core o.gens d.dkind d.dst o.dstRec d.size (dstPos d o.dst e)

/-- The 64-byte block of a destination. -/
def Spot.block : Spot → Option Nat
  | .key k => some (k / 64)
  | .va a => some (a / 64)
  | _ => none

/-- The pieces of a unit that land by themselves: the elements of one destination block, or one element of an RCOPY. -/
def EngOp.pieces (o : EngOp) (u : Nat) : List (List Nat) :=
  let es := (parseDesc o.desc).unitElems u
  let live := es.filter (fun e => (o.dstSpot e).block.isSome)
  if o.opcode = 0x63 then live.map (fun e => [e])
  else (live.map (fun e => (o.dstSpot e).block)).eraseDups.map (fun b => live.filter (fun e => (o.dstSpot e).block = b))

/-- The distinct bytes of the copy in a block. -/
def EngOp.blockBytes (o : EngOp) (b : Nat) : Nat :=
  let d := parseDesc o.desc
  (((List.range d.count).filter (fun e => (o.dstSpot e).block = some b)).flatMap (fun e =>
    match o.dstSpot e with
    | .key k => (List.range d.size).map (fun i => k % 64 + i)
    | .va a => (List.range d.size).map (fun i => a % 64 + i)
    | _ => [])).eraseDups.length

/-- Every byte of the copy in a block is written once the pieces listed have landed (R151). -/
def EngOp.blockDone (o : EngOp) (b : Nat) (landed : List Nat) : Bool :=
  let d := parseDesc o.desc
  let ps := o.pieces o.unit
  (List.range d.count).all (fun e => (o.dstSpot e).block ≠ some b || e / d.perUnit < o.unit ||
    landed.any (fun i => (ps.getD i []).contains e))

/-- What an engine read of one element yields. -/
inductive ERead where
  | bytes (bs : List Byte) (s : State)
  | wait (s : State)
  | bad (code : Nat)
  | page (va : Nat)
  | hole (addr : Nat)

/-- The stale-read policy over a key at the time of the read (R228): the run's, or the grid's for a vault (R81). -/
def policyAt (s : State) (o : EngOp) (k : Nat) : Bool :=
  match spaceOf k with
  | .core n off => (ownerOf (getCore s n).rows (off / 256)).elim false Run.policy
  | .vault _ _ => (gridOf s o.launch).elim (launchStale s o.launch) Ctx.polVlt
  | _ => false

/-- A request of an engine operation, sent now. -/
def engineRequest (s : State) (o : EngOp) (d : BitVec 12) (a : Nat) (ask : Ask) (asid : BitVec 16) : Request where
  id := s.nextId
  ctx := o.ctx
  flight := none
  engine := some o.id
  peer := d
  addr := a / 128 * 128
  size := 128
  ask := ask
  pc := o.pc
  lane := none
  issued := dieTime s (clusterDie (o.core / 4))
  answer := none
  space := asid
  mapgen := 0
  counted := false
  retry := false
  failed := false

/-- The bytes of a source on a peer: its line is asked for once in a unit (R96). -/
def enginePeer (s : State) (o : EngOp) (d : BitVec 12) (a n : Nat) (counted : Bool) (asid : BitVec 16) : ERead :=
  match s.requests.find? (fun r => r.engine = some o.id && r.peer = d && r.addr = a / 128 * 128 && r.ask == .read false) with
  | some r =>
    (match r.answer with
     | some bs => .bytes ((bs.drop (a % 128)).take n) s
     | none => .wait s)
  | none => .wait (sendRequest s { engineRequest s o d a (.read false) asid with counted := counted })

/-- The word of a core-store or vault source, as the unit first read it (R229). -/
def EngOp.keptWord (o : EngOp) (k : Nat) : Option (List Byte) := (o.words.find? (fun w => w.1 = k / 4)).map Prod.snd

/-- The words of the elements of a piece that are narrower than a word, kept for the rest of the unit (R229). -/
def EngOp.keepWords (o : EngOp) (s : State) (es : List Nat) : EngOp :=
  if 4 ≤ (parseDesc o.desc).size then o
  else
    es.foldl (fun o e =>
      match o.srcSpot e with
      | .key k =>
        if (o.keptWord k).isSome then o
        else { o with words := o.words ++ [(k / 4, readAs s (k / 4 * 4) 4 ((genAt o.gens k).getD 0))] }
      | _ => o) o

/-- An engine's read of a line is held: something waits at the home (R311), or is ahead in its lane between the dies (R122). What
its group has sent and what has not reached the home is not waited for (R229, R319). -/
def engineHeld (s : State) (o : EngOp) (line : Place) : Bool :=
  s.homeQ.any (fun w => w.line = line && w.arrived && w.hold ≠ some (.engine o.id)) || linkAhead s (some o.core) line

/-- One source element as the unit reads it, at the home or the bank (R228, R312). -/
def engineRead (s : State) (o : EngOp) (e : Nat) : ERead :=
  let n := (parseDesc o.desc).size
  let r := parseRec o.srcRec
  let held (k : Nat) : Bool := engineHeld s o (.here (k / 128))
  match o.srcSpot e with
  | .key k =>
    let g := (genAt o.gens k).getD 0
    let owned := match spaceOf k with
      | .core c off => ownerGen (getCore s c).rows (off / 256) = g
      | .vault v off => ownerGen (getVault s v).units (off / 65536) = g
      | _ => true
    if held k then .wait s
    else if policyAt s o k && (!owned || tagAt s k ≠ g) then .bad STALE
    else if poisonAt s k && owned && tagAt s k = g then .bad UE
    else
      match o.keptWord k with
      | some w => .bytes ((w.drop (k % 4)).take n) s
      | none => .bytes (readAs s k n g) s
  | .va a =>
    match walk s r.asid a with
    | .hole h => .hole h
    | .absent => if r.generation s ≠ astGen s r.asid then .bad MAPGEN else .page a
    | .ok p _ pin =>
      if r.generation s ≠ astGen s r.asid then .bad MAPGEN
      else
        match p with
        | .here k =>
          if held k then .wait s
          else if poisonAt s k then .bad UE
          else .bytes (readBytes s k n) (cacheTouch s (k / 128) false)
        | .peer d x => enginePeer s o d x n (!pin) r.asid
  | .bad _ code _ => .bad code
  | .nothing => .bytes (List.replicate n 0) s

/-- The elements of a piece, read in order. -/
def engineReads (s : State) (o : EngOp) : List Nat → Except ERead (List (Nat × List Byte) × State)
  | [] => .ok ([], s)
  | e :: r =>
    match engineRead s o e with
    | .bytes bs s1 => (engineReads s1 o r).map (fun x => ((e, bs) :: x.1, x.2))
    | other => .error other

/-- The host lines that a piece reads count in the access counters, each once (R98); a peer's count as they come. -/
def countLines (s : State) (o : EngOp) (es : List Nat) : State :=
  let lines := (es.filterMap (fun e =>
    match o.srcSpot e with
    | .va a =>
      (match walk s (parseRec o.srcRec).asid a with
       | .ok (.here k) _ false => some (k / 128)
       | _ => none)
    | _ => none)).eraseDups
  lines.foldl (fun s l => countAccess s (.here (l * 128)) true) s

/-- The absent page of an element of a side, if any. -/
def absentPage (s : State) (rec : List Word) : Spot → Option Nat
  | .va a =>
    match walk s (parseRec rec).asid a with
    | .absent => some a
    | _ => none
  | _ => none

/-- The batch of the unit's absent pages (R118, R231): each with its address space, generation and direction. R118 orders records by
lane, which a unit has none of: the source's pages come before the destination's, each in element order, the first 64, and a page
both read and written counts as read (log entry 129). -/
def unitPages (s : State) (o : EngOp) : List (List Word) :=
  let es := (parseDesc o.desc).unitElems o.unit
  let side (rec : List Word) (wr : Bool) (spot : Nat → Spot) : List (Bool × Nat × BitVec 16 × BitVec 16) :=
    es.filterMap (fun e => (absentPage s rec (spot e)).map (fun a => (wr, a, (parseRec rec).asid, (parseRec rec).generation s)))
  let all := side o.srcRec false o.srcSpot ++ (if o.opcode = 0x62 then [] else side o.dstRec true o.dstSpot)
  let rec dedup : List (Bool × Nat × BitVec 16 × BitVec 16) → List (Bool × Nat × BitVec 16 × BitVec 16) → List (Bool × Nat × BitVec 16 × BitVec 16)
    | acc, [] => acc
    | acc, x :: r => if acc.any (fun y => pageOf y.2.1 = pageOf x.2.1 && y.2.2.1 = x.2.2.1) then dedup acc r else dedup (acc ++ [x]) r
  let ps := (dedup [] all).take 64
  (List.range ps.length).map (fun i =>
    let p := ps.getD i (false, 0, 0, 0)
    faultRecord false false true p.1 ps.length i none PAGE p.2.1 p.2.2.1 p.2.2.2 (BitVec.ofNat 32 (o.slot * 256 + o.core)) o.pc)

/-- Bytes of elements as a table by offset within their line. -/
def elementTable (off : Nat → Nat) : List (Nat × List Byte) → Sparse Byte → Sparse Byte
  | [], t => t
  | (e, bs) :: r, t => elementTable off r ((List.range bs.length).foldl (fun t i => putByte t (off e + i) (bs.getD i 0)) t)

/-- The destination place of an element, in this device or on a peer, with the stop that stands against it. -/
def dstPlace (s : State) (o : EngOp) (e : Nat) : Except ERead Place :=
  let r := parseRec o.dstRec
  match o.dstSpot e with
  | .key k => .ok (.here k)
  | .va a =>
    match walk s r.asid a with
    | .hole h => .error (.hole h)
    | .absent => if r.generation s ≠ astGen s r.asid then .error (.bad MAPGEN) else .error (.page a)
    | .ok p w _ => if !w then .error (.bad PERM) else if r.generation s ≠ astGen s r.asid then .error (.bad MAPGEN) else .ok p
  | .bad _ code _ => .error (.bad code)
  | .nothing => .error (.wait s)

/-- A weight slot still belongs to the run of the operation (R94, R102). -/
def slotHeld (s : State) (o : EngOp) (w : Nat) : Bool := (ownerOf (getCore s o.core).slotRuns w).any (fun r => r.owner = o.holder)

/-- The bytes of one landing, at their offsets in the block that begins at `k` (R151): a whole block is one write of its
granule (R347); a late landing counts once and returns no completion time (R102, R158). One in a table row goes to the copy of the
core that it names, and to no other core of the block (R124; log entry 136). -/
def landBlock (s : State) (o : EngOp) (k : Nat) (t : Sparse Byte) : State × Bool :=
  let g := (genAt o.gens k).getD 0
  match spaceOf k with
  | .core c off =>
    if ownerGen (getCore s c).rows (off / 256) = g then
      (raiseWct (coreWriteAt s c off g t) (some o.ctx) (dieTime s (clusterDie (c / 4))), true)
    else (coreWriteAt s c off g t, false)
  | .vault v off =>
    if ownerGen (getVault s v).units (off / 65536) = g then
      (raiseWct (vaultWriteAt s v off g t) (some o.ctx) (dieTime s (clusterDie v)), true)
    else (vaultWriteAt s v off g t, false)
  | _ =>
    if slotHeld s o ((k - slotKey o.core 0 0) / 1024) then
      (clearCovered { s with mem := t.foldl (fun m b => memWrite m (k + b.1) b.2) s.mem } (t.map (fun b => k + b.1)), true)
    else (countLate s o.core, false)

/-- A weight slot whose every block has landed becomes valid (R94). -/
def validate (s : State) (o : EngOp) (landed : List Nat) : State :=
  if o.opcode ≠ 0x62 then s
  else
    let per := 64
    let done := (List.range per).filter (fun w => (List.range 16).all (fun j => landed.contains (w * 16 + j)) &&
      slotHeld s o (o.wslot + o.unit * 64 + w))
    let c := getCore s o.core
    setCore s o.core { c with valid := (c.valid ++ done.map (fun w => o.wslot + o.unit * 64 + w)).eraseDups }

/-- An operation whose units have all landed and been performed is complete, a ring copy once every slot taken before its own
has been counted (R144, R153). -/
def settle (s : State) (id : Nat) : State :=
  match getOp s id with
  | none => s
  | some o =>
    let d := parseDesc o.desc
    let older := s.ops.any (fun x => x.id < o.id && x.core = o.core && x.isRing && o.isRing && x.ring = o.ring &&
      x.ringSlot.isSome && x.stage ≠ .complete && x.stage ≠ .cancelled)
    if o.cls = 1 || o.stage ≠ .started || o.unit < d.units || s.homeQ.any (fun w => w.op.any (fun x => x.1 = id)) || older then s
    else
      let s1 := if o.isRing then objWrite s o (o.ring + 12) [(objRead s o (o.ring + 12) 1).getD 0 0 + 1] else s
      if (getCtx s1 o.ctx).isNone then dropOp s1 id else setOp s1 { o with stage := .complete }

def settleAll (s : State) : State := (s.ops.map EngOp.id).foldl settle s

/-- A piece has landed: the unit, the slots and the operation move on. The lines read from peers go with the unit; the words kept
stay, so that one that two units read is never a mixture (R229). -/
def afterPiece (s : State) (o : EngOp) (landed : List Nat) : State :=
  let full := (o.pieces o.unit).length ≤ landed.length
  let kept (r : Request) : Bool := !(full && r.engine = some o.id && r.ask == .read false)
  let s1 := validate { s with requests := s.requests.filter kept } o landed
  match getOp s1 o.id with
  | none => s1
  | some x =>
    settleAll (setOp s1 { x with
      unit := if full then o.unit + 1 else o.unit
      landed := if full then [] else landed
      words := o.words })

/-- What an engine read that yields no bytes does to its operation. -/
def engineStop (s : State) (o : EngOp) : ERead → Host.Outcome State Fault Refusal
  | .bytes _ _ => .next s
  | .wait s1 => .next { s with requests := s1.requests, homeQ := s1.homeQ, nextId := s1.nextId }
  | .bad code => .next (engineFault s o code)
  | .page _ => .next s
  | .hole a => .fault (.noFrame a)

/-- RCOPY's update of one element at its home in this device or the host (R230); a late one answers with a byte. The old value in
a stale granule is zero under either policy (log entry 139). -/
def reduceAt (s : State) (o : EngOp) (k : Nat) (src : Word) : ERead :=
  let f (old : Word) : Word := atomOp (parseDesc o.desc).rop (o.nbv = 1) old src 0
  let g := (genAt o.gens k).getD 0
  match spaceOf k with
  | .core _ _ | .vault _ _ =>
    if poisonAt s k && tagAt s k = g then .bad UE
    else
      let r := landBlock s o (k / 64 * 64) ((offsets (wordBytes (f (leWord (readAs s k 4 g))))).map (fun b => (k % 64 + b.1, b.2)))
      .bytes (if r.2 then [] else [0]) r.1
  | _ =>
    let l := k / 128
    match homeTurn s l (.engine o.id) o.core (some (parseRec o.dstRec).asid) with
    | .error s1 => .wait s1
    | .ok s =>
      if poisonAt s k then .bad UE
      else
        let s1 := cacheTouch (writeWord s k (f (readWord s k))) l true
        .bytes [] (markWritten (raiseWct s1 (some o.ctx) (lineTime s (.here l))) (.here k))

/-- The update of element `e` at a peer's home: what has been sent for it. -/
def reduceSent (s : State) (o : EngOp) (e : Nat) : Option Request :=
  s.requests.find? (fun r => r.engine = some o.id && r.lane = some e)

/-- The request for it: one read-modify-write under the operator and numeric version of the copy (R230, R310). -/
def reduceAsk (s : State) (o : EngOp) (e : Nat) (d : BitVec 12) (a : Nat) (src : Word) : State :=
  if homeBusy s (.peer d (a / 128)) then s
  else sendRequest s { engineRequest s o d a (.rmw (o.nbv = 1) (parseDesc o.desc).rop [(e, a % 128, src, 0)]) (parseRec o.dstRec).asid with
    lane := some e }

/-- One element of an RCOPY is reduced (R230). -/
def landReduce (s : State) (o : EngOp) (e : Nat) (landed : List Nat) (count : State → State) : Host.Outcome State Fault Refusal :=
  match reduceSent s o e with
  | some r => if r.answer.isSome then .next (afterPiece (count (forgetRequest s r.id)) o landed) else .next s
  | none =>
    match dstPlace s o e, engineReads s o [e] with
    | .error r, _ => engineStop s o r
    | _, .error r => engineStop s o r
    | .ok (.peer d a), .ok (elems, s1) => .next (reduceAsk (countLines s1 o [e]) o e d a (leWord ((elems.headD (0, [])).2)))
    | .ok (.here k), .ok (elems, s1) =>
      match reduceAt s1 o k (leWord ((elems.headD (0, [])).2)) with
      | .bytes late s2 => .next (afterPiece (if late.isEmpty then count (countLines s2 o [e]) else s2) o landed)
      | r => engineStop s1 o r

/-- One piece of the current unit lands (R151, R228). -/
def landPiece (s : State) (o0 : EngOp) (i : Nat) (es : List Nat) : Host.Outcome State Fault Refusal :=
  let o := o0.keepWords s es
  let landed := o.landed ++ [i]
  let b := ((o.dstSpot (es.headD 0)).block).getD 0
  let n := if o.blockDone b landed then o.blockBytes b else 0
  let count (s : State) : State := if n = 0 then s else arrivalUpdate s o n
  if o.opcode = 0x63 then landReduce s o (es.headD 0) landed count
  else
    match es.head?.elim (.error (.wait s)) (dstPlace s o), engineReads s o es with
    | .error r, _ => engineStop s o r
    | _, .error r => engineStop s o r
    | .ok p, .ok (elems, s0) =>
      let s1 := countLines s0 o es
      match o.dstSpot (es.headD 0) with
      | .va a =>
        let base := a / 64 * 64
        let off (e : Nat) : Nat := match o.dstSpot e with
          | .va x => x - base
          | _ => 0
        let bytes := elementTable off elems []
        let first := match p with
          | .here k => k / 64 * 64 % 128
          | .peer _ x => x / 64 * 64 % 128
        let s2 := homePush s1 p.line (bytes.map (fun x => (first + x.1, x.2))) (some o.ctx) (some o.core) false none 0 (some (o.id, n)) (some (parseRec o.dstRec).asid)
        .next (afterPiece s2 o landed)
      | _ =>
        let lands := match (o.dstSpot (es.headD 0)).block with
          | some b => landBlock s1 o (b * 64) (elementTable (fun e =>
              match o.dstSpot e with
              | .key k => k - b * 64
              | _ => 0) elems [])
          | none => (s1, true)
        .next (afterPiece (if lands.2 then count lands.1 else lands.1) o landed)

/-- An acquiring access of the group that was issued before the operation is outstanding: its reads wait (R246). -/
def acquireAhead (s : State) (o : EngOp) : Bool :=
  (getCtx s o.ctx).any (fun c => c.flights.any (fun f => f.id < o.id && f.acq && !f.accs.isEmpty))

/-- A piece of the current unit of an operation lands, or the unit stops at its absent pages (R228, R231). -/
def execLanding (op blk : Nat) (s : State) : Host.Outcome State Fault Refusal :=
  match getOp s op with
  | none => .next s
  | some o =>
    let fresh := o.landed.isEmpty
    if o.stage ≠ .started || o.cls = 1 || !unitsRun s (!fresh) || (parseDesc o.desc).units ≤ o.unit || acquireAhead s o ||
        (fresh && (opSpaces o).any (fun x => s.changing.contains x)) then .next s
    else
      let recs := unitPages s o
      if !recs.isEmpty then
        if fqRoom s recs.length then
          let (b, s1) := fqBatch s recs
          .next (setOp s1 { o with stage := .stopped b })
        else .next (fqJoin (setOp s { o with stage := .owing recs }) (.engine op))
      else
        let ps := o.pieces o.unit
        if ps.isEmpty then .next (afterPiece s o [])
        else if o.landed.contains blk then .next s
        else
          match ps[blk]? with
          | none => .next s
          | some es => landPiece s o blk es

/-- A stopped operation resumes at its unit once its batch is passed (R231); a batch that waits for room is written in its place in
the line (R118). -/
def execEngineResume (op : Nat) (s : State) : Host.Outcome State Fault Refusal :=
  match getOp s op with
  | none => .next s
  | some o =>
    match o.stage with
    | .stopped b => if batchPassed s b && powered s then .next (setOp s { o with stage := .started }) else .next s
    | .owing recs =>
      if !powered s then .next s
      else if fqServes s (.engine op) recs.length then
        let (b, s1) := fqBatch s recs
        .next (setOp s1 { o with stage := .stopped b })
      else .next (fqJoin s (.engine op))
    | _ => .next s

end Sys2Proof.Machine
end

