-- ==== Sys2Proof/Machine/Grow.lean ====
section
/-! DEFINITION. GROW and the grant of its rows (R84, R202, R365). -/

namespace Sys2Proof.Machine

/-- The bytes that an engine operation writes in the core store at destination element `e`, where it has no ring slot yet: any
slot of its ring (R153). -/
def EngOp.mayWrite (o : EngOp) (s : State) : List (Nat × Nat) :=
  let d := parseDesc o.desc
  let key (k n : Nat) : Nat × Nat := (k, n)
  let objects := (if d.av then [key (coreKey o.core d.arrival) 16] else []) ++
    (if o.isRing then [key (coreKey o.core o.ring) 32] else [])
  let slots : List (Nat × Nat) :=
    if o.isRing && o.ringSlot.isNone then
      let w := objRead s o o.ring 8
      [key (coreKey o.core (bits (w.getD 6 0) 23 0)) (bits (w.getD 0 0) 15 0 * (w.getD 1 0).toNat)]
    else (List.range d.count).filterMap (fun e =>
      match o.dstSpot e with
      | .key k => some (k, d.size)
      | _ => none)
  objects ++ slots

/-- An engine operation of the group may still write its register rows (R84). -/
def engineWritesOwn (s : State) (c : Ctx) : Bool :=
  let first := coreKey c.core (c.regBase * 256)
  let past := coreKey c.core ((c.regBase + c.vregs) * 256)
  s.ops.any (fun o => o.ctx = c.id && o.cls ≠ 1 && o.stage ≠ .complete && o.stage ≠ .cancelled &&
    (o.mayWrite s).any (fun w => w.1 < past && first < w.1 + w.2))

/-- V becomes `n`, where the rows for it can be had now (R84, R202). -/
def growTo (s : State) (c : Ctx) (n : Nat) : Option State :=
  let k := getCore s c.core
  let more := n - c.vregs
  if n ≤ c.vregs then
    let gone := (List.range (c.vregs - n)).map (fun i => c.regBase + n + i)
    let k1 := setRegRun k c c.regBase n
    some (setCtx (setCore s c.core { k1 with rewriting := k1.rewriting ++ gone }) (c.grown n))
  else if (List.range more).all (fun i => rowFree k (c.regBase + c.vregs + i)) && more + 512 ≤ l1Rows k &&
      registerRows k + more ≤ 4096 then
    some (rowsTaken (setCtx (setCore s c.core (setRegRun k c c.regBase n)) (c.grown n)) c.core)
  else if c.flights.isEmpty && !engineWritesOwn s c && n + 512 ≤ l1Rows k && registerRows k + n ≤ 4096 then
    (freeRows k n).map (fun b =>
      let s1 := copyGranules s (coreKey c.core (c.regBase * 256)) (coreKey c.core (b * 256)) (4 * c.vregs)
      let old := (List.range c.vregs).map (fun i => c.regBase + i)
      let k1 := setRegRun k c b n
      rowsTaken (setCtx (setCore s1 c.core { k1 with rewriting := k1.rewriting ++ old }) { c.grown n with regBase := b }) c.core)
  else none

/-- V + delta (R202). -/
def grownV (c : Ctx) (m : BitVec 16) : Int := c.vregs + m.toInt

/-- A group that waits in GROW, and the V it asks for. -/
def Ctx.growWaits (c : Ctx) : Option (Option Word × Nat × Nat) :=
  match c.mode with
  | .grow (.grow sp m) len => some (sp, (grownV c m).toNat, len)
  | _ => none

/-- The groups and tasks that hold their rows on a core. -/
def residents (s : State) (k : Nat) : List Ctx := s.ctxs.filter (fun c => c.isGroup && c.core = k && c.mode ≠ .evicted)

/-- Each of them waits in GROW, and none can be granted (R365). -/
def growStuck (s : State) (k : Nat) : Bool := (residents s k).all (fun c => c.growWaits.any (fun g => (growTo s c g.2.1).isNone))

/-- The check of a core as a GROW begins to wait (R365). -/
def growBegins (s : State) (k : Nat) : State := setCore s k { getCore s k with growCheck := growStuck s k }

/-- GROW (R202). -/
def execGrow (sp : Option Word) (m : BitVec 16) : State → Host.Outcome State Fault Refusal :=
  runCtrl { groupSpec sp false [] with must := true, single := true } (fun _ _ => false)
    (fun s c =>
      if !c.laneIdle then .wait s
      else if grownV c m < 1 || 240 < grownV c m then .fault s GROWMAX 0
      else if m = 0 then .done s none
      else
        match growTo s c (grownV c m).toNat with
        | some s1 => .done s1 none
        | none => .suspend (growBegins (setCtx s { c with mode := .grow (.grow sp m) (wordsOf false sp) }) c.core))

/-- When a group was placed: its launch's placement, or a task's own start. -/
def placedAt (s : State) (c : Ctx) : Nat :=
  let l := (getLaunch s c.launch).elim 0 (fun l => l.moved)
  if c.task then max c.id l else l

/-- `a` was placed after `b`, ties to the higher slot (R365). -/
def younger (s : State) (a b : Ctx) : Bool := placedAt s b < placedAt s a || (placedAt s a = placedAt s b && b.slot < a.slot)

/-- An older group of the core waits in GROW and could be granted (R365). -/
def olderGrow (s : State) (c : Ctx) : Bool :=
  s.ctxs.any (fun x => x.core = c.core && x.isGroup && younger s c x &&
    (x.growWaits.bind (fun g => growTo s x g.2.1)).isSome)

/-- A waiting GROW obtains its rows (R84, R202, R365). -/
def execGrowGrant (c : Nat) (s : State) : Host.Outcome State Fault Refusal :=
  match getCtx s c with
  | none => .next s
  | some x =>
    match x.growWaits with
    | none => .next s
    | some (sp, n, len) =>
      if olderGrow s x || !powered s then .next s
      else
        match growTo s x n with
        | some s1 => .next (resumePast (setCore s1 x.core { getCore s1 x.core with growCheck := false }) c len sp)
        | none => .next s

end Sys2Proof.Machine
end

