-- ==== Sys2Proof/Machine/Matrix.lean ====
section
/-! DEFINITION. The matrix array: MMA, ACCRD, ACCWR, ACCZ, their operations in the MATRIX queue, weight deliveries and the
exact accumulation (R93, R94, R147 to R149, R273 to R277, R292 to R303, R364). -/

namespace Sys2Proof.Machine

/-! Format pairs (R126, R294) -/

/-- The FORMAT checks of a pair, and of .close with it (R126, R275, R294). -/
def pairBad (a b : FBlock) (close : Bool) : Bool :=
  a.bad || b.bad || a.comp ≠ 0 || (b.comp ≠ 0 && b.fmt ≠ 9) || a.noscale ≠ b.noscale || family a.fmt ≠ family b.fmt ||
    (close && (!a.noscale || a.fmt ≠ 9))

/-- Scale bytes of a row or column, for an operation of K elements (R273). -/
def scaleCount (k len : Nat) : Nat := max 1 (k / len)

/-! Issue -/

/-- The octets that hold an active lane (R293). -/
def octets (m : LaneMask) : List Nat := (List.range 8).filter (fun o => m.extractLsb' (8 * o) 8 ≠ 0)

/-- The rows of an octet that are active. -/
def octetRows (m : LaneMask) (o : Nat) : BitVec 8 := m.extractLsb' (8 * o) 8

/-- An issue of a matrix instruction on a tile: the context with the pair in its replay set, and whether a replay discards it
(R149, R303; log entry 83). -/
def acceptTile (s : State) (c : Ctx) (t : Nat) (e : BitVec 8) : Ctx × Bool :=
  let gone := c.reissue.contains (t, e) && (sget ⟨0, false, 0⟩ (getCore s c.core).tileState t).version ≠ e
  ({ c with replay := if c.replay.contains (t, e) then c.replay else c.replay ++ [(t, e)] }, gone)

/-- The tiles that are accepted. -/
def acceptTiles (s : State) (c : Ctx) (e : BitVec 8) : List Nat → Ctx × List Nat
  | [] => (c, [])
  | t :: r =>
    let (c1, gone) := acceptTile s c t e
    let (c2, ts) := acceptTiles s c1 e r
    (c2, if gone then ts else t :: ts)

/-- The MATRIX queue has no room for `n` more operations: it holds 256 that have not started (R107, R117). -/
def matrixFull (s : State) (k n : Nat) : Bool := 256 < ((getCore s k).matq.filter (fun x => !x.started)).length + n

/-- Operations enter the core's MATRIX queue (R117). -/
def enqueue (s : State) (k : Nat) (ops : List MatOp) : State :=
  let c := getCore s k
  setCore s k { c with matq := c.matq ++ ops }

/-- The bytes of a lane's registers, lowest register first (R293). -/
def laneBytes (s : State) (c : Ctx) (first n lane : Nat) : List Byte :=
  (List.range n).flatMap (fun i => wordBytes (vread s c (first + i) lane))

/-- The register bytes of an octet's rows; an inactive row is empty. -/
def octetBytes (s : State) (c : Ctx) (first n : Nat) (m : LaneMask) (o : Nat) : List (List Byte) :=
  (List.range 8).map (fun r => if m.getLsbD (8 * o + r) then laneBytes s c first n (8 * o + r) else [])

/-- One scale byte: PERM, then the read rules (R86, R100, R294). -/
def scaleByte (s : State) (c : Ctx) (pols : BitVec 4) (addr : Nat) : Except (Nat × Word) Byte :=
  match allocOf c pols addr 1 with
  | none => .error (PERM, 0)
  | some a =>
    let k := coreKey c.core addr
    if a.policy && tagAt s k ≠ a.gen then .error (STALE, BitVec.ofNat 32 (addr / 64 * 64))
    else .ok ((readTagged s k a.gen 1).headD 0)

/-- Scale bytes at a list of addresses, or the first fault. -/
def scaleBytes (s : State) (c : Ctx) (pols : BitVec 4) : List Nat → Except (Nat × Word) (List Byte)
  | [] => .ok []
  | a :: r => (scaleByte s c pols a).bind (fun b => (scaleBytes s c pols r).map (fun bs => b :: bs))

/-- The addresses of the scale bytes of rows or columns (R273). -/
def scaleAddrs (b : FBlock) (k : Nat) (rows : List Nat) : List Nat :=
  rows.flatMap (fun r => (List.range (scaleCount k (blkLen b.blk))).map (fun i => b.scale + r * b.sstride + i))

/-- The pair at an index: PERM, the read rules, the block checks (R294, step 1). -/
def readPair (s : State) (c : Ctx) (q : Clause) (f : LaneForm) : Except (Nat × Word) (List Byte) :=
  let addr := bits f.imm 15 0 * 64
  match allocOf c q.pols addr 64 with
  | none => .error (PERM, 0)
  | some al =>
    match readRecord s c.core addr al 16 with
    | .error g => .error (STALE, g)
    | .ok ws =>
      let p := ws.flatMap wordBytes
      if pairBad (pairA p) (pairB p) (f.mod = 1) then .error (FORMAT, 0) else .ok p

/-- The matrix counter of an MMA that enters it. -/
def matrixOp (s : State) (c : Ctx) (q : Clause) (id : Nat) (complete : Bool) : EngOp :=
  { (default : EngOp) with
    id := id, ctx := c.id, launch := c.launch, core := c.core, slot := c.slot, holder := (slotRunOf s c).1, cls := 1
    opcode := 0x60, nbv := q.nbv, stage := if complete then .complete else .started, pc := trapPcOf true q.at }

/-- Steps 4 and 5 of MMA's issue (R294): the scale bytes, those of B also where no lane is active (log entry 141), the A rows, the
MATRIX counter, the octet operations. -/
def mmaEnter (s : State) (c : Ctx) (q : Clause) (f : LaneForm) (m : LaneMask) (p : List Byte) : LAct :=
  let a := pairA p
  let b := pairB p
  let k := familyK (family a.fmt)
  let n := familyRegs (family a.fmt)
  let regs := regRun f.a n
  let scales (fb : FBlock) (rows : List Nat) : Except (Nat × Word) (List Byte) :=
    if a.noscale then .ok [] else scaleBytes s c q.pols (scaleAddrs fb k rows)
  match scales a (lanesOf m), scales b (List.range 64) with
  | .error e, _ => .fault s e.1 none e.2
  | _, .error e => .fault s e.1 none e.2
  | .ok as, .ok bs =>
    let src := (lanesOf m).flatMap (fun l => regs.map (fun r => (r, l)))
    match (if q.pols.getLsbD 0 then src.find? (fun x => vstale s c x.1 x.2) else none) with
    | some x => .fault s STALE (some x.2) (BitVec.ofNat 32 (c.vregOff x.1 x.2 / 64 * 64))
    | none =>
      if 63 ≤ c.engineCount 1 || matrixFull s c.core (octets m).length then .wait s
      else
        let dead := (lanesOf m).filter (fun l => regs.any (fun r => !vstale s c r l && poisonAt s (coreKey c.core (c.vregOff r l))))
        let s1 := killForUe s c.id (trapPcOf true q.at) dead
        let c1 := (getCtx s1 c.id).getD c
        let live := m &&& ~~~ maskOf dead
        let per := scaleCount k (blkLen a.blk)
        let rowScales (o : Nat) : List Byte := (List.range 8).flatMap (fun r =>
          if live.getLsbD (8 * o + r) then (as.drop (((lanesOf m).filter (fun l => l < 8 * o + r)).length * per)).take per
          else List.replicate per 0)
        let tile (o : Nat) : Nat := c.tileBase + f.d.toNat + o
        let ver := f.imm.extractLsb' 24 8
        let (c2, ts) := acceptTiles s c1 ver ((octets live).map tile)
        let os := (octets live).filter (fun o => ts.contains (tile o))
        let op (i o : Nat) : MatOp :=
          { id := s1.nextId + 1 + i, ctx := c.id, opcode := 0x60, parent := s1.nextId, tile := tile o, name := f.d.toNat + o
            ver := ver, octet := o, rows := octetRows live o, close := f.mod = 1, nbv := q.nbv
            slot := (slotRunOf s c).2 + bits f.imm 23 16, pair := p, ascale := rowScales o, bscale := bs
            arows := octetBytes s1 c f.a.toNat n live o, bbytes := [], bad := none, slice := 0, reg := 0, gen := c.tileGen
            policy := q.pols.getLsbD 2, loads := 0, delivery := none, started := false, pc := trapPcOf true q.at }
        let ops := (List.range os.length).map (fun i => op i (os.getD i 0))
        let c3 : Ctx := { c2 with engines := c2.engines ++ [(1, s1.nextId)] }
        let s2 := enqueue { setCtx s1 c3 with ops := s1.ops ++ [matrixOp s c q s1.nextId os.isEmpty] } c.core ops
        if os.isEmpty then .done { retireOps s2 c.id 1 63 with nextId := s2.nextId + 1 }
        else .fly { s2 with nextId := s1.nextId + os.length }
          { newFlight s1 c q { op := 0x60, f := f, reads := [], writes := [] } .matrix with id := s1.nextId }

/-- MMA (R292 to R294). -/
def execMma (f : LaneForm) : State → Host.Outcome State Fault Refusal :=
  runLane { op := 0x60, f := f, reads := [f.a.toNat], writes := [], ownChecks := true } (fun s c q m =>
    match readPair s c q f with
    | .error (code, addr) => .fault s code none addr
    | .ok p =>
      let n := familyRegs (family (pairA p).fmt)
      let last := (octets m).getLast?
      let slots := bits f.imm 23 16 + bSlots (family (pairB p).fmt) (pairB p).comp
      if 0xEF < f.a.toNat + n - 1 then .fault s ILLEGAL none 0
      else if c.vregs < f.a.toNat + n then .fault s PERM none 0
      else
        match c.unguarded (regRun f.a n) m with
        | some l => .fault s UNGUARD (some l) 0
        | none =>
          if last.any (fun o => c.tiles ≤ f.d.toNat + o || ((blockOf s c).elim c.wslots Ctx.wslots) < slots) then .fault s PERM none 0
          else mmaEnter s c q f m p)

/-- An operation of ACCRD or ACCWR on one octet. -/
def accOp (s : State) (c : Ctx) (q : Clause) (f : LaneForm) (opcode id : Nat) (first reg : Nat) (m : LaneMask) (o : Nat) : MatOp where
  id := id
  ctx := c.id
  opcode := opcode
  parent := s.nextId
  tile := c.tileBase + first + o
  name := first + o
  ver := f.imm.extractLsb' 24 8
  octet := o
  rows := octetRows m o
  close := false
  nbv := q.nbv
  slot := 0
  pair := []
  ascale := []
  bscale := []
  arows := if opcode = 0x62 then octetBytes s c reg 16 m o else []
  bbytes := []
  bad := none
  slice := bits f.imm 1 0
  reg := reg
  gen := c.tileGen
  policy := q.pols.getLsbD 2
  loads := 0
  delivery := none
  started := false
  pc := trapPcOf true q.at

/-- ACCRD and ACCWR issue (R300, R301, R303): the tiles of the active octets, the replay set, the queue. -/
def accEnter (s : State) (c : Ctx) (q : Clause) (spec : LaneSpec) (first reg : Nat) (m : LaneMask) : LAct :=
  let f := spec.f
  if (octets m).any (fun o => c.tiles ≤ first + o) then .fault s PERM none 0
  else if matrixFull s c.core (octets m).length then .wait s
  else
    let (c1, ts) := acceptTiles s c (f.imm.extractLsb' 24 8) ((octets m).map (fun o => c.tileBase + first + o))
    let os := (octets m).filter (fun o => ts.contains (c.tileBase + first + o))
    let ops := (List.range os.length).map (fun i => accOp s c q f spec.op (s.nextId + 1 + i) first reg m (os.getD i 0))
    let s1 := enqueue (setCtx s c1) c.core ops
    if os.isEmpty then .done s1
    else
      let live := maskOf ((lanesOf m).filter (fun l => os.contains (l / 8)))
      .fly { s1 with nextId := s.nextId + os.length } { newFlight s c q spec .matrix with
        id := s.nextId
        pend := if spec.op = 0x61 then live else 0
        firstReg := reg
        nRegs := if spec.op = 0x61 then 16 else 0 }

/-- ACCRD (R300). -/
def execAccrd (f : LaneForm) : State → Host.Outcome State Fault Refusal :=
  let spec : LaneSpec := { op := 0x61, f := f, reads := [], writes := regRun f.d 16 }
  runLane spec (fun s c q m => accEnter s c q spec f.a.toNat f.d.toNat m)

/-- ACCWR (R301). -/
def execAccwr (f : LaneForm) : State → Host.Outcome State Fault Refusal :=
  let spec : LaneSpec := { op := 0x62, f := f, reads := regRun f.a 16, writes := [] }
  runLane spec (fun s c q m => accEnter s c q spec f.d.toNat f.a.toNat m)

/-- ACCZ (R302): one operation for each tile. -/
def execAccz (f : LaneForm) : State → Host.Outcome State Fault Refusal :=
  let spec : LaneSpec := { op := 0x63, f := f, reads := [], writes := [] }
  runLane spec (fun s c q m =>
    let n := bits f.imm 7 0 + 1
    if c.tiles < f.d.toNat + n then .fault s PERM none 0
    else if m = 0 then .done s
    else if matrixFull s c.core n then .wait s
    else
      let (c1, ts) := acceptTiles s c (f.imm.extractLsb' 24 8) ((List.range n).map (fun i => c.tileBase + f.d.toNat + i))
      let ops := (List.range ts.length).map (fun i =>
        { accOp s c q f 0x63 (s.nextId + 1 + i) f.d.toNat 0 0 0 with tile := ts.getD i 0, name := ts.getD i 0 - c.tileBase })
      let s1 := enqueue (setCtx s c1) c.core ops
      if ts.isEmpty then .done s1
      else .fly { s1 with nextId := s.nextId + ts.length } { newFlight s c q spec .matrix with id := s.nextId })

/-! B layouts (R297, R298) -/

/-- Nibble `h` of a run of bytes from an offset, signed. -/
def nibbleAt (bs : List Byte) (base h : Nat) : Int :=
  let b := (bs.getD (base + h / 2) 0).toNat
  signedOf 4 (if h % 2 = 0 then b % 16 else b / 16)

/-- A shift byte's factor. -/
def shiftOf (b : Byte) : Int := 2 ^ min 4 (b.toNat % 8)

/-- The sparse value of element `k` of a column, from the value `v g t` (R298). -/
def sparseAt (idx : Nat) (k : Nat) (v : Nat → Nat → Int) : Int :=
  let g := k / 4
  let i0 := idx / 2 ^ (4 * g) % 4
  let i1 := idx / 2 ^ (4 * g + 2) % 4
  if k % 4 = i1 then v g 1 else if k % 4 = i0 then v g 0 else 0

/-- B[k][c] of an RNS-8 tile. -/
def bRns (comp : Nat) (bs : List Byte) (k c : Nat) : Int :=
  match comp with
  | 0 => rnsVal (bs.getD (c * 64 + k) 0)
  | 1 => sparseAt (leNat ((bs.drop (2048 + c * 8)).take 8)) k (fun g t => rnsVal (bs.getD (c * 32 + 2 * g + t) 0))
  | 2 => nibbleAt bs (c * 32) k * shiftOf (bs.getD (2048 + c * 4 + k / 16) 0)
  | _ => sparseAt (leNat ((bs.drop (1024 + c * 8)).take 8)) k (fun g t =>
      nibbleAt bs (c * 16) (2 * g + t) * shiftOf (bs.getD (1536 + c * 4 + k / 16) 0))

/-- Encoding `k` of a run of elements of a floating family. -/
def encAt (fmt : Nat) (bs : List Byte) (base k : Nat) : Nat :=
  if family fmt = 1 then (bs.getD (base + k) 0).toNat else leNat ((bs.drop (base + 2 * k)).take 2)

/-! Accumulation (R273 to R277) -/

/-- The exact sum of the products of an RNS-8 row and a column over a range of K. -/
def rnsSum (row : List Byte) (comp : Nat) (b : List Byte) (c from_ n : Nat) : Int :=
  (List.range n).foldl (fun z i => z + rnsVal (row.getD (from_ + i) 0) * bRns comp b (from_ + i) c) 0

/-- The exact sum of the products of a floating group, with its specials and its zero (R276). -/
def groupSum (v1 : Bool) (fa fb : Nat) (row b : List Byte) (c from_ n : Nat) : FVal :=
  let prod (i : Nat) : FVal :=
    fmul (fread (fmtOf fa) v1 (encAt fa row 0 (from_ + i))) (fread (fmtOf fb) v1 (encAt fb b (c * 32) (from_ + i)))
  (List.range (n - 1)).foldl (fun z i => fadd 0 z (prod (i + 1))) (prod 0)

/-- The scale of a row and column at element `k`: none where a byte is 0xFF. -/
def scaleAt (op : MatOp) (r c k : Nat) : Option Int :=
  let a := pairA op.pair
  let b := pairB op.pair
  let kk := familyK (family a.fmt)
  if a.noscale then some 0
  else
    let sa := (op.ascale.getD (r * scaleCount kk (blkLen a.blk) + k / blkLen a.blk) 0).toNat
    let sb := (op.bscale.getD (c * scaleCount kk (blkLen b.blk) + k / blkLen b.blk) 0).toNat
    if sa = 0xFF || sb = 0xFF then none else some ((sa : Int) + sb - 254)

/-- +0. -/
def posZero : FVal := .fin false 0 0

/-- The contributions to one element, in ascending K (R273, R276, R277); a row that was not active adds +0. -/
def contributions (op : MatOp) (r c : Nat) : List FVal :=
  let a := pairA op.pair
  let b := pairB op.pair
  let fam := family a.fmt
  let v1 := op.nbv = 1
  let len := if fam = 0 then min (blkLen a.blk) (blkLen b.blk) else if v1 then 4 else 16
  let row := op.arows.getD r []
  (List.range (familyK fam / len)).map (fun i =>
    let k := i * len
    if !op.rows.getLsbD r then posZero
    else
      match scaleAt op r c k with
      | none => .nan
      | some e =>
        if fam = 0 then
          let z := crt (residues (rnsSum row b.comp op.bbytes c k len))
          if z = 0 then posZero else fscale e (fint z)
        else
          let p := fscale e (groupSum v1 a.fmt b.fmt row op.bbytes c k len)
          if v1 then fdecode fp32 (fround fp32 1 true p) else p)

/-- A floating accumulator element after an operation (R273, R274, R276, R277). -/
def accumulate (op : MatOp) (r c : Nat) (old : Word) : Word :=
  let v1 := op.nbv = 1 && family (pairA op.pair).fmt ≠ 0
  (contributions op r c).foldl (fun w p => f32Out 0 v1 (fadd 0 (f32In v1 w) p)) old

/-- An element in integer mode (R275): the tile open or closed, the MMA closing or not. -/
def integerStep (op : MatOp) (opened : Bool) (r c : Nat) (old : Word) : Word :=
  let z := rnsSum (op.arows.getD r []) (pairB op.pair).comp op.bbytes c 0 64
  let x := residues z
  let y := if opened then readResidues old else (0, 0, 0)
  let sum := ((x.1 + y.1) % 255, (x.2.1 + y.2.1) % 256, (x.2.2 + y.2.2) % 257)
  if !op.close then residueWord sum
  else if opened then BitVec.ofInt 32 (crt sum)
  else BitVec.ofInt 32 (clampInt (-2 ^ 31) (2 ^ 31 - 1) (old.toInt + crt sum))

/-! Tiles -/

def tileOf (s : State) (k t : Nat) : Tile := sget ⟨0, false, 0⟩ (getCore s k).tileState t
def setTile (s : State) (k t : Nat) (x : Tile) : State :=
  let c := getCore s k
  setCore s k { c with tileState := sput ⟨0, false, 0⟩ c.tileState t x }

/-- The tile's run still has the operation's generation (R102). -/
def tileHeld (s : State) (k : Nat) (op : MatOp) : Bool := ownerGen (getCore s k).tileRuns op.tile = op.gen

/-- An element's word of a tile as the generation sees it: a granule with another tag is zero (R100). -/
def tileWord (s : State) (k : Nat) (op : MatOp) (r c : Nat) : Word :=
  leWord (readTagged s (tileKey k op.tile (r * 256 + c * 4)) op.gen 4)

/-- A granule of a tile that the generation owns bears a parity error. -/
def tilePoison (s : State) (k : Nat) (op : MatOp) (g : Nat) : Bool :=
  let key := tileKey k op.tile (g * 64)
  tagAt s key = op.gen && poisonAt s key

/-- A granule of a tile is written whole. -/
def writeGranule (s : State) (k : Nat) (op : MatOp) (g : Nat) (ws : List Word) : State :=
  let key := tileKey k op.tile (g * 64)
  clearPoison (setTag (writeBytes s key (ws.flatMap wordBytes)) key op.gen) key

/-- All 32 granules of a tile are written. -/
def writeTile (s : State) (k : Nat) (op : MatOp) (f : Nat → Nat → Word) : State :=
  (List.range 32).foldl (fun s g => writeGranule s k op g ((List.range 16).map (fun i => f (g / 4) (g % 4 * 16 + i)))) s

/-! The MATRIX queue (R148, R364) -/

/-- A WBLOAD of the core that covers a slot of the operation has issued and not completed (R94, R295). -/
def loadCovers (s : State) (k : Nat) (op : MatOp) : Bool :=
  let n := op.slots
  s.ops.any (fun o => o.core = k && o.opcode = 0x62 && o.cls = 0 && o.stage ≠ .complete && o.stage ≠ .cancelled &&
    o.wslot < op.slot + n && op.slot < o.wslot + (parseDesc o.desc).count * (parseDesc o.desc).size / 1024)

/-- The tile stands at the expected version (R148). -/
def versionMet (s : State) (k : Nat) (op : MatOp) : Bool := (tileOf s k op.tile).version = op.ver

/-- The operation at index `i` may start: it has not, its version has come, nothing that changes its tile is under way, and
no older operation of the tile waits for the same version (R148) or is an ACCZ with nothing left to wait for (R117, R302). An MMA also needs its B, and follows those of the same delivery that are ahead of it in the queue (R364). -/
def mayStart (s : State) (k i : Nat) (op : MatOp) : Bool :=
  let q := (getCore s k).matq
  !op.started && op.opcode ≠ 0x63 && versionMet s k op &&
    !(q.any (fun x => x.tile = op.tile && x.started && x.opcode ≠ 0x61)) &&
    !((q.take i).any (fun x => x.tile = op.tile && x.opcode ≠ 0x63 && !x.started && x.ver = op.ver)) &&
    !(((q.take i).find? (fun x => x.tile = op.tile)).any (fun x => x.opcode = 0x63)) &&
    (op.opcode ≠ 0x60 || (op.delivery.isSome && !loadCovers s k op &&
      !((q.take i).any (fun x => x.opcode = 0x60 && !x.started && x.delivery = op.delivery))))

/-- The MMA operations fuse on one delivery (R299): no WBLOAD of their slots stands between their issues. -/
def fuses (a b : MatOp) : Bool :=
  b.opcode = 0x60 && a.loads = b.loads && a.slot = b.slot && (pairB a.pair).fmt = (pairB b.pair).fmt && (pairB a.pair).comp = (pairB b.pair).comp

/-- The weight buffer delivers the B tile of the oldest operation that has its version and no delivery, and of those that
fuse with it (R299, R364). -/
def execWeightDelivery (k i : Nat) (s : State) : Host.Outcome State Fault Refusal :=
  let c := getCore s k
  let needs (x : MatOp) : Bool := x.opcode = 0x60 && x.delivery.isNone && versionMet s k x
  match c.matq[i]? with
  | none => .next s
  | some op =>
    if !needs op || (c.matq.take i).any needs || !powered s then .next s
    else .next (setCore s k { c with
      matq := c.matq.map (fun x => if needs x && fuses op x then { x with delivery := some op.id } else x) })

def dropMat (s : State) (k id : Nat) : State :=
  let c := getCore s k
  setCore s k { c with matq := c.matq.filter (fun x => x.id ≠ id) }
def setMat (s : State) (k : Nat) (op : MatOp) : State :=
  let c := getCore s k
  setCore s k { c with matq := c.matq.map (fun x => if x.id = op.id then op else x) }

/-- Every operation of an instruction has gone: the instruction is complete (R140, R144). -/
def endMatrix (s : State) (k id parent : Nat) : State :=
  if (getCore s k).matq.any (fun x => x.parent = parent) then s
  else
    let s1 := match getOp s parent with
      | some o => setOp s { o with stage := .complete }
      | none => s
    match getCtx s1 id with
    | none => dropOp s1 parent
    | some c =>
      match c.flights.find? (fun f => f.id == parent) with
      | some f => retireOps (setCtx s1 (c.completeFlight f)) id 1 63
      | none => retireOps s1 id 1 63

/-- A fault found when an octet starts or reads: it and the instruction's octets that have not started perform nothing
(R275, R295, R300). -/
def matrixFault (s : State) (k : Nat) (op : MatOp) (code : Nat) (lane : Option Nat) (addr : Word) : State :=
  let c := getCore s k
  let s1 := setCore s k { c with matq := c.matq.filter (fun x => x.parent ≠ op.parent || (x.started && x.opcode = 0x60 && x.id ≠ op.id)) }
  match getCtx s1 op.ctx with
  | none => s1
  | some x =>
    let drop : Ctx := if op.opcode = 0x61 then
        (match x.flights.find? (fun f => f.id == op.parent) with
         | some f => x.completeFlight f
         | none => x)
      else x
    if x.mode == .faulted || x.mode == .ended then s1
    else takeFault (setCtx s1 drop) drop code lane true (bits op.pc 23 0) addr

/-- The open-state checks of R275 fail. -/
def openBad (t : Tile) (op : MatOp) : Bool :=
  let a := pairA op.pair
  let integer := a.noscale && a.fmt = 9
  (t.opened && !integer) || (integer && 8 < (if t.opened then t.count else 0) + 1)

/-- The bytes of the slots of B; a slot whose valid bit is clear reads as zero (R94). -/
def bBytes (s : State) (k : Nat) (op : MatOp) : List Byte :=
  (List.range (bSlots (family (pairB op.pair).fmt) (pairB op.pair).comp)).flatMap (fun j =>
    if (getCore s k).valid.contains (op.slot + j) then readBytes s (slotKey k (op.slot + j) 0) 1024 else List.replicate 1024 0)

/-- The first slot that the operation reads with a parity error (R296). -/
def slotPoison (s : State) (k : Nat) (op : MatOp) : Option Nat :=
  ((List.range (bSlots (family (pairB op.pair).fmt) (pairB op.pair).comp)).map (fun j => op.slot + j)).find? (fun w =>
    (getCore s k).valid.contains w && (List.range 16).any (fun g => poisonAt s (slotKey k w (g * 64))))

/-- The active lanes of an octet. -/
def octetLanes (op : MatOp) : List Nat := ((List.range 8).filter (fun r => op.rows.getLsbD r)).map (fun r => 8 * op.octet + r)

/-- An octet of ACCRD reads its granules (R300): a stale one under TRAP is a fault. -/
def startRead (s : State) (k : Nat) (op : MatOp) : State :=
  let stale (l : Nat) : Bool := tagAt s (tileKey k op.tile ((4 * (l % 8) + op.slice) * 64)) ≠ op.gen
  match (if op.policy then (octetLanes op).find? stale else none) with
  | some l => matrixFault s k op STALE (some l) (BitVec.ofNat 32 (op.name * 256 + 4 * (l % 8) + op.slice))
  | none =>
    let rows := (List.range 8).map (fun r => (List.range 16).flatMap (fun h => wordBytes (tileWord s k op r (16 * op.slice + h))))
    let dead := (octetLanes op).filter (fun l => tilePoison s k op (4 * (l % 8) + op.slice))
    let live := match getCtx s op.ctx with
      | some c => dead.filter (fun l => c.liveMask.getLsbD l)
      | none => []
    killForUe (setMat s k { op with arows := rows, started := true }) op.ctx op.pc live

/-- An octet operation starts on a core, whose array leaves a running churn (R369, R370). -/
def leaveChurn (s : State) (k : Nat) : State := { s with churn := s.churn.map (fun c => { c with arrays := c.arrays.erase k }) }

/-- An operation of the MATRIX queue starts on its tile (R148, R295, R300, R301, R364): of the MMA operations that may, the
oldest. -/
def execOctetStart (k i : Nat) (s : State) : Host.Outcome State Fault Refusal :=
  let q := (getCore s k).matq
  match q[i]? with
  | none => .next s
  | some op =>
    let older := op.opcode = 0x60 && (List.range i).any (fun j =>
      (q[j]?).any (fun x => x.opcode = 0x60 && mayStart s k j x))
    if !mayStart s k i op || older || !powered s then .next s
    else if op.opcode = 0x60 then
      if openBad (tileOf s k op.tile) op then .next (matrixFault s k op FORMAT none 0)
      else .next (leaveChurn (setMat s k { op with started := true, bbytes := bBytes s k op, bad := slotPoison s k op }) k)
    else if op.opcode = 0x61 then .next (leaveChurn (startRead s k op) k)
    else .next (leaveChurn (setMat s k { op with started := true }) k)

/-- The record of a parity error (R296, R340): the tile, and the first slot of B that had one, or with none the first slot; without
its context it has no known owner. -/
def parityRecord (s : State) (k : Nat) (op : MatOp) : State :=
  let w7 := BitVec.ofNat 32 (op.bad.getD op.slot * 256 + op.tile)
  match getCtx s op.ctx with
  | some c => ctxError s c 4 0 none 0 op.pc w7
  | none => pushError s (unowned (errorRecord s 4 0 none 0 (coreWhere k 0) 0 op.pc w7 (clusterDie (k / 4))))

/-- The effect of an MMA's octet on its tile (R293, R295, R296). -/
def finishMma (s : State) (k : Nat) (op : MatOp) : State :=
  let t := tileOf s k op.tile
  let next : BitVec 8 := op.ver + 1
  if !tileHeld s k op then countLate s k
  else if op.bad.isSome || (List.range 32).any (fun g => tilePoison s k op g) then
    let s1 := setTile s k op.tile { t with version := next }
    let dying := match getCtx s1 op.ctx with
      | some c => (octetLanes op).filter (fun l => c.liveMask.getLsbD l)
      | none => []
    parityRecord (killForUe s1 op.ctx op.pc dying) k op
  else
    let a := pairA op.pair
    if a.noscale && a.fmt = 9 then
      let s1 := writeTile s k op (fun r c => integerStep op t.opened r c (tileWord s k op r c))
      let n := if t.opened then t.count else 0
      setTile s1 k op.tile (if op.close then ⟨next, false, 0⟩ else ⟨next, true, n + 1⟩)
    else
      setTile (writeTile s k op (fun r c => accumulate op r c (tileWord s k op r c))) k op.tile { t with version := next }

/-- The registers of an octet of ACCRD are written, dead lanes apart (R300); of a group that has gone it is a late write (R102). -/
def finishRead (s : State) (k : Nat) (op : MatOp) : State :=
  match getCtx s op.ctx with
  | none => countLate s k
  | some c => (octetLanes op).foldl (fun s l => landWords s c op.reg l (bytesToWords (op.arows.getD (l % 8) []))) s

/-- The pending writes of an octet's lanes have been performed (R142). -/
def clearPend (s : State) (op : MatOp) : State :=
  let f : Ctx → Ctx := fun c => { c with flights := c.flights.map (fun (x : Flight) =>
    if x.id = op.parent then { x with pend := x.pend &&& ~~~ maskOf (octetLanes op) } else x) }
  modCtx s op.ctx f

/-- An octet of ACCWR writes its granules (R301). -/
def finishWrite (s : State) (k : Nat) (op : MatOp) : State :=
  if !tileHeld s k op then countLate s k
  else
    let s1 := (octetLanes op).foldl (fun s l =>
      writeGranule s k op (4 * (l % 8) + op.slice) (bytesToWords (op.arows.getD (l % 8) []))) s
    setTile s1 k op.tile ⟨op.ver + 1, false, 0⟩

/-- A started operation is performed; ACCRD under TRAP writes no register before all its octets have read (R300). -/
def execOctetComplete (k i : Nat) (s : State) : Host.Outcome State Fault Refusal :=
  let q := (getCore s k).matq
  match q[i]? with
  | none => .next s
  | some op =>
    let holds := op.opcode = 0x61 && op.policy && q.any (fun x => x.parent = op.parent && !x.started)
    if !op.started || holds || !powered s then .next s
    else
      let s1 := if op.opcode = 0x60 then finishMma s k op
        else if op.opcode = 0x61 then clearPend (finishRead s k op) op
        else finishWrite s k op
      .next (endMatrix (dropMat s1 k op.id) k op.ctx op.parent)

/-- ACCZ clears a tile once every operation on it that entered the queue before has gone (R302). -/
def execAcczPerform (k i : Nat) (s : State) : Host.Outcome State Fault Refusal :=
  let q := (getCore s k).matq
  match q[i]? with
  | none => .next s
  | some op =>
    if op.opcode ≠ 0x63 || (q.take i).any (fun x => x.tile = op.tile) || !powered s then .next s
    else
      let s1 := if tileHeld s k op then
          setTile (writeTile s k op (fun _ _ => 0)) k op.tile ⟨op.ver, false, 0⟩
        else countLate s k
      .next (endMatrix (dropMat s1 k op.id) k op.ctx op.parent)

end Sys2Proof.Machine
end

