-- ==== Sys2Proof/Machine/Records.lean ====
section
/-! DEFINITION. The records that a pre-emption writes and the debug port reads, word by word (R109, R123, R128, R132, R138, R343 to
R345; log entry 37). Each is a view of state that is held elsewhere. -/

namespace Sys2Proof.Machine

/-- The first `n` words of a list, padded with zero. -/
def padWords (n : Nat) (ws : List Word) : List Word := (List.range n).map (fun i => ws.getD i 0)

def maskWords (m : LaneMask) : List Word := [m.setWidth 32, m.extractLsb' 32 32]

/-- A path table entry as 40 words (R132). -/
def PathEntry.record (p : PathEntry) : List Word :=
  BitVec.ofNat 32 (p.meets.length * 2 ^ 26 + p.state.toNat * 2 ^ 24 + p.pc.toNat) :: p.age :: maskWords p.mask ++
    padWords 4 p.priv ++ [p.sig, 0] ++ padWords 30 (p.meets.flatMap (fun m => m.1.setWidth 32 :: maskWords m.2))

/-- The element at which an operation goes on, as one coordinate for each of the seven dimensions. -/
def EngOp.coords (o : EngOp) : List Word :=
  let d := parseDesc o.desc
  padWords 7 ((boxCoords d.exts (o.unit * d.perUnit)).map (BitVec.ofNat 32))

/-- An engine state record (R138): state 1 at a unit boundary, 2 complete. -/
def EngOp.record (o : EngOp) : List Word :=
  let stage := if o.stage = .complete then 2 else 1
  BitVec.ofNat 32 (o.slot * 2 ^ 16 + o.opcode * 2 ^ 8 + stage * 4 + o.cls.toNat) :: BitVec.ofNat 32 o.unit :: o.coords ++
    List.replicate 7 0 ++ padWords 32 o.desc

/-- The first `n` bytes of a list, padded with zero. -/
def padBytes (n : Nat) (bs : List Byte) : List Byte := (List.range n).map (fun i => bs.getD i 0)

/-- A matrix wait record (R344). -/
def MatOp.record (x : MatOp) : List Byte :=
  leBytes 4 (x.nbv.toNat * 2 ^ 28 + x.close.toNat * 2 ^ 27 + x.octet * 2 ^ 24 + x.slot * 2 ^ 16 + x.ver.toNat * 2 ^ 8 + x.tile) ++
    leBytes 4 x.rows.toNat ++ List.replicate 56 0 ++ padBytes 64 x.pair ++ padBytes 32 x.ascale ++ padBytes 256 x.bscale ++
    List.replicate 96 0 ++ x.arows.flatMap (padBytes 64) ++ padBytes (512 - 64 * x.arows.length) []

/-- The 32 words of the marker (R397). -/
def Marker.record (m : Marker) : List Word :=
  let pair (n : Nat) : List Word := [BitVec.ofNat 32 n, BitVec.ofNat 32 (n / 2 ^ 32)]
  padWords 32 (BitVec.ofNat 32 (m.missed.toNat * 16 + m.sealed.toNat) :: pair m.time ++ BitVec.ofNat 32 m.nlaunch :: m.launches.flatMap pair)

/-- A descent-queue entry (R109): the marker bit above the offset, then the arguments. -/
def Descent.record : Descent → List Word
  | .segment off args => off.setWidth 32 :: padWords 4 args
  | .marker => [0x80000000, 0, 0, 0, 0]

/-- The descent queue in physical order: the entry at the head stands at index `dhead` (R345). -/
def descentRecord (c : Ctx) : List Word :=
  (List.range 8).flatMap (fun i => ((c.descent[(i + 8 - c.dhead % 8) % 8]?).map Descent.record).getD [0, 0, 0, 0, 0])

/-- A gather entry: the value, then whether a report stands, whether the child is live, and the operator (R345). -/
def Report.record (r : Report) : List Word :=
  let x := r.standing.getD (0, 0)
  [x.2, BitVec.ofNat 32 (r.standing.isSome.toNat * 2 ^ 31 + r.live.toNat * 2 ^ 30 + x.1.toNat)]

/-- A sequencer's record (R345), with the report that stands for it at its parent. -/
def Ctx.record (c : Ctx) (rep : Option (BitVec 3 × Word)) : List Word :=
  let w (n : Nat) : Word := BitVec.ofNat 32 n
  let live := (c.gather.filter (fun r => r.live)).length
  let queue := if c.level = 4 then [] else c.descent
  let x := rep.getD (0, 0)
  padWords 16 [c.pc.setWidth 32,
      w (c.calls.length * 2 ^ 27 + c.loops.length * 2 ^ 23 + c.dhead % 8 * 2 ^ 20 + queue.length * 2 ^ 16 + live * 2 ^ 8 + c.level.toNat),
      c.timeHi.getD 0, x.2, w (rep.isSome.toNat * 2 ^ 31 + x.1.toNat)] ++
    (List.range 256).map c.sreg ++ padWords 16 (c.calls.map (BitVec.setWidth 32)) ++
    padWords 16 (c.loops.flatMap (fun l => [l.1, l.2.setWidth 32])) ++
    (if c.level = 4 then List.replicate 40 0 else descentRecord c) ++ List.replicate 24 0 ++
    padWords 256 (c.gather.flatMap Report.record) ++ List.replicate 16 0

/-! The parts of a group's save (R343). Where the spec gives a part its contents and its size alone, the order of the fields within
it is the model's (log entry 37). -/

/-- The word that binds a compact save; with none, everything is saved. -/
def liveBit (c : Ctx) (full : Bool) (b : Nat) : Bool := full || c.live.elim true (fun w => w.getLsbD b)

/-- A compact save keeps the rows of live blocks (R343). -/
def keepRow (c : Ctx) (full : Bool) (i : Nat) : Bool := full || c.live.elim true (fun w => liveVector w c.liveRegs (i / 4))

/-- The 256 bytes of the header. -/
def Ctx.header (c : Ctx) (full : Bool) : List Byte :=
  let w (n : Nat) : Word := BitVec.ofNat 32 n
  let opt (x : Option Word) : List Word := [w x.isSome.toNat, x.getD 0]
  let engines := (List.range 4).map (fun k => (c.engines.filter (fun e => e.1 = BitVec.ofNat 2 k)).length)
  let pols := c.polVlt.toNat * 8 + c.polAcc.toNat * 4 + c.polScr.toNat * 2 + c.polReg.toNat
  (padWords 64 ([c.pc.setWidth 32, w full.toNat, c.live.getD 0, w (c.slot * 2 ^ 16 + c.vregs),
      w (c.regGen.toNat * 2 ^ 16 + c.scrGen.toNat), w (c.tableGen.toNat * 2 ^ 16 + c.tileGen.toNat)] ++ maskWords c.dmk ++
    [w c.wct, w (c.wct / 2 ^ 32)] ++ engines.map w ++ (List.range 12).map (fun i => w (c.flagCount i)) ++
    [c.trapCause, c.trapPc, c.trapAddr, w c.nbv.toNat, w c.agelim.toNat, w pols, c.path.sig] ++ opt c.timeHi ++ opt c.wctHi ++
    [w c.regionLen])).flatMap wordBytes

/-- The call and loop stacks, 128 bytes, as a sequencer's record lays them out (R345). -/
def Ctx.stacks (c : Ctx) : List Byte :=
  (padWords 16 (c.calls.map (BitVec.setWidth 32)) ++ padWords 16 (c.loops.flatMap (fun l => [l.1, l.2.setWidth 32]))).flatMap wordBytes

/-- The saved blocks of 16 scalars (R163, R343). -/
def Ctx.scalarBlocks (c : Ctx) (full : Bool) : List Byte :=
  ((List.range 16).filter (fun b => liveBit c full (16 + b))).flatMap (fun b =>
    (List.range 16).flatMap (fun i => wordBytes (c.sreg (16 * b + i))))

/-- A saved row: its 256 bytes, then the tags of its four granules in 64 bits. -/
def SavedRun.row (r : SavedRun) (g : BitVec 12) (i : Nat) : List Byte :=
  let tag (j : Nat) : Nat := if r.tags.contains (4 * i + j) then g.toNat else 0
  (List.range 256).map (fun j => sget 0 r.bytes (256 * i + j)) ++ leBytes 8 (tag 0 + tag 1 * 2 ^ 16 + tag 2 * 2 ^ 32 + tag 3 * 2 ^ 48)

/-- A clause-queue entry, 48 bytes (R108). -/
def Clause.record (q : Clause) : List Byte :=
  (padWords 12 ([BitVec.ofNat 32 (q.next * 2 ^ 16 + q.off.toNat), BitVec.ofNat 32 (q.path * 2 ^ 8 + q.pols.toNat * 4 + q.nbv.toNat)] ++
    padWords 4 q.k ++ maskWords q.mask ++ [q.live.getD 0, BitVec.ofNat 32 (q.live.isSome.toNat * 2 ^ 8 + q.liveRegs)])).flatMap wordBytes

/-- An entry of the region store buffer, 160 bytes: the line's bytes, its valid bits, its address and its order fields (R116). -/
def BufEntry.record (e : BufEntry) : List Byte :=
  let flags := e.scope.toNat + e.release.toNat * 8 + (e.gen.getD 0).toNat * 2 ^ 4 + e.gen.isSome.toNat * 2 ^ 16
  let valid := ((List.range 128).filter (fun i => e.bytes.any (fun b => b.1 = i))).foldl (fun n i => n + 2 ^ i) 0
  (List.range 128).map (fun i => sget 0 e.bytes i) ++ leBytes 16 valid ++ leBytes 8 e.va ++ leBytes 4 flags ++ leBytes 2 e.asid.toNat ++
    leBytes 2 e.mapgen.toNat

/-- Bytes with zeros after them, up to a multiple of 64 bytes. -/
def padTo64 (bs : List Byte) : List Byte := bs ++ List.replicate ((64 - bs.length % 64) % 64) 0

/-- The parts of a save area, in the order and sizes of R343: of a group or task its own; of a sequencer its one record. The engine
state records begin at a multiple of 64 bytes, and the path table entries at one of 32 (R123). -/
def Saved.area (p : Saved) (rep : Option (BitVec 3 × Word)) : List Byte :=
  let c := p.ctx
  let part (on : Bool) (bs : List Byte) : List Byte := if on then bs else []
  if c.isGroup then
    padTo64 (c.header p.full ++ (c.paths.flatMap PathEntry.record).flatMap wordBytes ++ c.stacks ++ c.scalarBlocks p.full ++
      ((List.range c.vregs).filter (fun i => keepRow c p.full (4 * i))).flatMap (p.regs.row c.regGen) ++
      part (liveBit c p.full 1) (((List.range 7).flatMap (fun i => maskWords (c.preds.getD i 0))).flatMap wordBytes) ++
      c.clauses.flatMap Clause.record ++ (descentRecord c ++ [BitVec.ofNat 32 (c.dhead % 8)]).flatMap wordBytes ++
      part c.task ((padWords 16 c.frame).flatMap wordBytes ++ leBytes 8 c.join) ++
      part p.full (c.rsb.flatMap BufEntry.record ++ c.replay.flatMap (fun x => leBytes 4 (x.2.toNat * 2 ^ 8 + x.1)))) ++
      ((p.ops.filter (fun o => o.cls ≠ 1)).flatMap EngOp.record).flatMap wordBytes ++
      (p.waits.filter (fun x => x.opcode = 0x60)).flatMap MatOp.record
  else (c.record rep).flatMap wordBytes

/-- The report of a saved context at its saved parent. -/
def savedReport (x : SavedLaunch) (p : Saved) : Option (BitVec 3 × Word) :=
  (x.parts.find? (fun q => some q.ctx.id = p.ctx.parent)).bind (fun q => reportOf q.ctx p.ctx.id)

/-- What stands in the save area of a context that is saved. -/
def saveArea (s : State) (ctx : Nat) : Option (List Byte) :=
  s.saved.findSome? (fun x => (x.parts.find? (fun p => p.ctx.id = ctx)).map (fun p => p.area (savedReport x p)))

/-! The allocation tables (R131) -/

/-- An entry of a run. -/
def Run.entry (r : Run) : Nat := r.policy.toNat * 2 ^ 15 + r.kind.toNat * 2 ^ 12 + r.gen.toNat

/-- The entry of place `i` among runs, or `free` where none covers it. -/
def tableEntry (runs : List Run) (free : Nat → Nat) (i : Nat) : Nat :=
  ((runs.find? (fun r => r.first ≤ i && i < r.first + r.count)).map Run.entry).getD (free i)

def tableBytes (n : Nat) (f : Nat → Nat) : List Byte := (List.range n).flatMap (fun i => leBytes 2 (f i))

/-- A core's tables: a row in no allocation is of the L1 portion, kind 4, or awaits its tag rewrite, kind 5. -/
def Core.rowTable (k : Core) : List Byte :=
  tableBytes 6144 (tableEntry k.rows (fun i => if k.rewriting.contains i then 5 * 2 ^ 12 else 4 * 2 ^ 12))
def Core.tileTable (k : Core) : List Byte := tableBytes 256 (tableEntry k.tileRuns (fun _ => 0))
def Core.slotTable (k : Core) : List Byte := tableBytes 256 (tableEntry k.slotRuns (fun _ => 0))
/-- A vault's table. -/
def Vault.unitTable (v : Vault) : List Byte := tableBytes 256 (tableEntry v.units (fun _ => 0))

end Sys2Proof.Machine
end

