-- ==== Sys2Proof/Machine/Tasks.lean ====
section
/-! DEFINITION. Tasks: frames, deques, spill rings, steals, join records, SPAWN and JOINC, and the start of a task (R50, R51,
R110 to R115, R128, R129, R224 to R226, R360). -/

namespace Sys2Proof.Machine

/-! Frames (R128) -/

def frameWord (f : List Word) (i : Nat) : Word := f.getD i 0
def frameEntry (f : List Word) : Nat := bits (frameWord f 0) 23 0
def frameDepth (f : List Word) : Nat := bits (frameWord f 0) 28 24
def frameJoin (f : List Word) : Nat := (frameWord f 1).toNat + bits (frameWord f 2) 19 0 * 2 ^ 32
def frameLanes (f : List Word) : Nat := bits (frameWord f 2) 25 20 + 1
def framePaths (f : List Word) : Nat := bits (frameWord f 3) 31 28 + 1
def frameTiles (f : List Word) : Nat := bits (frameWord f 3) 27 20
def frameScr (f : List Word) : Nat := bits (frameWord f 3) 19 8
def frameVregs (f : List Word) : Nat := bits (frameWord f 3) 7 0

/-- Words of the group section of a launch. -/
def groupWords (s : State) (l : Nat) : Nat := (getLaunch s l).elim 0 (fun x => x.sectWords 3)

/-- The frame checks of R224, on an entry; `join` adds that of the join address. -/
def frameBad (words : Nat) (f : List Word) (entry : Nat) (join : Bool) : Bool :=
  bits (frameWord f 0) 31 29 ≠ 0 || words ≤ entry || frameVregs f = 0 || 240 < frameVregs f ||
    (join && frameJoin f ≠ 0 && frameJoin f % 128 ≠ 0) || 5632 < frameVregs f + frameScr f + 16

/-- Word 0 of a frame with its depth field set. -/
def setFrameDepth (w : Word) (d : Nat) : Word := (w &&& 0xE0FFFFFF) ||| BitVec.ofNat 32 (d % 32 * 2 ^ 24)

/-! The spill ring (R111, R112) -/

/-- The rank of a core among the launch's cores. -/
def coreRank (l : Launch) (k : Nat) : Nat := (l.cores.filter (fun x => x < k)).length

/-- The virtual address of ring position `i` of a core. -/
def ringVa (l : Launch) (k i : Nat) : Nat := pair64 (l.words.getD 44 0) (l.words.getD 45 0) + coreRank l k * 2 ^ 18 + 64 * (i % 4096)

/-- The keys of `n` ring positions from `i` on; none where one is not present in this device or host, or the space is changing
(R324). -/
def ringKeys (s : State) (l : Launch) (k i : Nat) : Nat → Option (List Nat)
  | 0 => some []
  | n + 1 =>
    match (if s.changing.contains l.asid then .absent else walk s l.asid (ringVa l k i)) with
    | .ok (.here a) true _ => (ringKeys s l k (i + 1) n).map (fun r => a :: r)
    | _ => none

/-- The home can take a write of the line from a core, or a control core, now (R122, R311). -/
def lineReady (s : State) (core : Option Nat) (l : Nat) : Bool :=
  let h := sget 0 s.horizons l
  !readHeld s core (.here l) && (h = 0 || h + 8 ≤ lineTime s (.here l))

def writeFrames (s : State) : List (Nat × List Word) → State
  | [] => s
  | (k, f) :: r => writeFrames (writeWords s k f) r

/-- The 128 oldest frames go to the ring, oldest first (R111). -/
def spillFrames (s : State) (l : Launch) (k : Nat) : Option State :=
  let c := getCore s k
  match ringKeys s l k (c.ringPos.toNat + c.ringCount.toNat) 128 with
  | none => none
  | some keys =>
    if !keys.all (fun a => lineReady s (some k) (a / 128)) then none
    else
      let s1 := writeFrames s (keys.zip c.deque)
      some (setCore s1 k { c with deque := c.deque.drop 128, ringCount := c.ringCount + 128 })

/-- The push would spill (R111). -/
def wouldSpill (c : Core) : Bool := 256 ≤ c.deque.length
/-- The push would spill into a ring that holds more than 3,968 frames (R113). -/
def ringFull (c : Core) : Bool := wouldSpill c && 3968 < c.ringCount.toNat

/-- A frame is pushed on the bottom of a core's deque; none while it must wait (R111, R226). -/
def pushFrame (s : State) (launch k : Nat) (f : List Word) : Option State :=
  let c := getCore s k
  let put (s : State) : State := let c := getCore s k; setCore s k { c with deque := c.deque ++ [f] }
  if ringFull c then none
  else if wouldSpill c then ((getLaunch s launch).bind (fun l => spillFrames s l k)).map put
  else some (put s)

/-- The frames of the ring's newest end come back (R112). -/
def reloadFrames (s : State) (l : Launch) (k : Nat) : Option State :=
  let c := getCore s k
  let n := min 128 c.ringCount.toNat
  match ringKeys s l k (c.ringPos.toNat + c.ringCount.toNat - n) n with
  | none => none
  | some keys =>
    if keys.any (fun a => readHeld s (some k) (.here (a / 128))) then none
    else
      some (setCore s k { c with
        deque := keys.map (fun a => readWords s a 16)
        ringCount := c.ringCount - BitVec.ofNat 13 n })

/-! Join records (R129, R154) -/

/-- A task counts toward its grid (R50). -/
def addTask (s : State) (launch : Nat) (f : Nat → Nat) : State :=
  match getLaunch s launch with
  | some l => setLaunch s { l with tasks := f l.tasks }
  | none => s

/-- The place of a join record, in the launch's address space. -/
def joinPlace (s : State) (c : Ctx) (addr : Nat) : Xlat :=
  walk s ((getLaunch s c.launch).elim 0 Launch.asid) addr

/-- What stands against a decrement of a join record. -/
inductive JoinHalt where
  | wait (s : State)
  /-- Uncorrectable data in the record, at a key (R347). -/
  | ue (key : Nat)
  /-- The translation yields no place. -/
  | away (x : Xlat)

/-- What a decrement that has been performed does (R129, R226): `v` the new count, `st` and `cont` the record's state word and
continuation, `fire` the record's step to state 2. The state, and the frame to push. -/
def joinAfter (s : State) (c : Ctx) (addr : Nat) (v st : Word) (cont : List Word) (fire : State → State) :
    State × Option (List Word) :=
  if v.msb || 2 ≤ bits st 1 0 then (ctxError s c 8 0 none addr (trapPcOf false c.pc.toNat) 0, none)
  else if v ≠ 0 then (s, none)
  else if bits st 1 0 = 1 then
    (addTask (fire s) c.launch (· + 1), some ((frameWord cont 0 ||| 0x20000000) :: cont.tail))
  else (fire s, none)

/-- The state word at `k` of a record that has fired, written in the same sequence as the decrement: the copy that the core holds
of the line carries it too (R129, R311, R312). -/
def fireAt (s : State) (c : Ctx) (asid mg : BitVec 16) (k : Nat) (st : Word) : State :=
  l1Update (writeWord s k (firedWord st)) c.core asid mg (.here (k / 128)) ((offsets (wordBytes (firedWord st))).map (fun b => (k % 128 + b.1, b.2)))

/-- A decrement of a join record, at its home in this device, the host or a peer, in one sequence (R129, R226, R310). -/
def joinDecrement (s : State) (c : Ctx) (addr : Nat) : Except JoinHalt (State × Option (List Word)) :=
  let asid := (getLaunch s c.launch).elim 0 Launch.asid
  match joinPlace s c addr with
  | .ok (.here k) _ _ =>
    match atHome s c (.scalar c.id c.pc) asid (astGen s asid) 0 k with
    | .old w put =>
      let s1 := put (w - 1)
      let st := readWord s1 (k + 4)
      .ok (joinAfter s1 c addr (w - 1) st (readWords s1 (k + 64) 16) (fun s => fireAt s c asid (astGen s asid) (k + 4) st))
    | .later s1 => .error (.wait s1)
    | .ue => .error (.ue k)
  | .ok (.peer d a) _ _ =>
    (match scalarPeer s c d a (.rmw false joinDown [(0, a % 128, 0, 0)]) asid (astGen s asid) false with
     | .error s1 => .error (.wait s1)
     | .ok (bs, s1) =>
       let ws := bytesToWords bs
       .ok (joinAfter s1 c addr (ws.getD 0 0 - 1) (ws.getD 1 0) (ws.drop 16) id))
  | x => .error (.away x)

/-- What a translation of a join record that yields no place ends in (R224). -/
def joinStop (s : State) (c : Ctx) (addr : Nat) (x : Xlat) : Act :=
  let asid := (getLaunch s c.launch).elim 0 Launch.asid
  match x with
  | .absent => .page s (pageBatch c true false asid (astGen s asid) (trapPcOf false c.pc.toNat) [(0, addr)])
  | .hole a => .hole a
  | .ok _ w _ => if w then .wait s else .fault s PERM 0

/-- The batch of a step that cannot be rolled back is written in its place in the line once there is room (R118). -/
def waitOwed (s : State) (c : Ctx) (recs : List (List Word)) : State :=
  if fqServes s (.held c.id) recs.length then
    let (b, s1) := fqBatch s recs
    setCtx s1 { c with served := some b, owing := none }
  else fqJoin s (.held c.id)

/-- What cannot be rolled back waits for an absent page where it stands (R118, R137): one record, until its batch is passed. -/
def pageWait (s : State) (c : Ctx) (asid : BitVec 16) (va : Nat) : State :=
  let pc := trapPcOf false c.pc.toNat
  match c.served with
  | some b => if batchPassed s b then setCtx s { c with served := none } else s
  | none =>
    let recs := pageBatch c true false asid (astGen s asid) pc [(0, va)]
    let c1 := if c.isGroup then c.recordFault PAGE none pc 0 else c
    if fqRoom s recs.length then
      let (b, s1) := fqBatch s recs
      setCtx s1 { c1 with served := some b }
    else fqJoin (setCtx s { c1 with owing := some recs }) (.held c.id)

/-! SPAWN and JOINC (R224, R225) -/

def atPhase (n : Nat) (c : Ctx) : Ctx := { c with phase := n }

/-- SPAWN's last steps: the release, then the push (R224), which waits for room that has gone since the check (log entry 138). -/
def spawnPush (s : State) (c : Ctx) (f : List Word) : Act :=
  match releaseSteps s c 4 with
  | (s1, false) => .wait s1
  | (s1, true) =>
    match pushFrame s1 c.launch c.core f with
    | none => .wait s1
    | some s2 => .done (addTask s2 c.launch (· + 1)) none

/-- The increment of a join record on a peer, which must not pass 2^31 - 1 (R224): its line is read, then the count replaced where
it has not changed since. -/
def spawnPeer (s : State) (c : Ctx) (d : BitVec 12) (a : Nat) (asid mg : BitVec 16) : Act :=
  let line := a / 128 * 128
  let pc := trapPcOf false c.pc.toNat
  match s.requests.find? (fun r => scalarAsked c r && r.peer = d && r.addr = line) with
  | none =>
    if homeHeld s c (.peer d (a / 128)) then .wait s
    else .wait (sendRequest s (newRequest s c d line 128 (.read false) pc asid mg))
  | some r =>
    let s1 := forgetRequest s r.id
    match r.answer, r.ask with
    | none, _ => .wait s
    | some bs, .rmw _ _ steps =>
      if steps.any (fun x => x.2.2.2 = leWord ((bs.drop x.2.1).take 4)) then .wait (modCtx s1 c.id (atPhase 1)) else .wait s1
    | some bs, _ =>
      let w := leWord ((bs.drop (a % 128)).take 4)
      if w = 0x7FFFFFFF then .fault s1 TASKOVF 0
      else .wait (sendRequest s1 (newRequest s1 c d line 128 (.rmw false 9 [(0, a % 128, w + 1, w)]) pc asid mg))

/-- SPAWN (R224). -/
def execSpawn (sp : Option Word) (d : Reg) : State → Host.Outcome State Fault Refusal :=
  runCtrl { len := wordsOf false sp, sp := sp, must := true, levels := [1], single := true } (fun _ _ => false)
    (fun s c =>
      let f0 := c.sregRun d.toNat 16
      let f := setFrameDepth (frameWord f0 0) c.depth :: f0.tail
      let asid := (getLaunch s c.launch).elim 0 Launch.asid
      if c.phase = 1 then spawnPush s c f
      else if frameBad (groupWords s c.launch) f0 (frameEntry f0) true then .fault s FRAME 0
      else if c.depth = 32 || ringFull (getCore s c.core) then .fault s TASKOVF 0
      else if frameJoin f = 0 then spawnPush s c f
      else if s.changing.contains asid && !scalarSent s c then .wait s
      else
        match joinPlace s c (frameJoin f) with
        | .ok (.here k) true _ =>
          match atHome s c (.scalar c.id c.pc) asid (astGen s asid) 0 k with
          | .later s1 => .wait s1
          | .ue => .ue s k
          | .old w put =>
            if w = 0x7FFFFFFF then .fault s TASKOVF 0
            else .wait (modCtx (put (w + 1)) c.id (atPhase 1))
        | .ok (.peer dev a) true _ => spawnPeer s c dev a asid (astGen s asid)
        | x => joinStop s c (frameJoin f) x)

/-- The join record that JOINC names (R225). -/
def joincAddr (c : Ctx) (a b : Reg) : Nat := (c.sreg a.toNat).toNat + bits (c.sreg b.toNat) 19 0 * 2 ^ 32

/-- The continuation frame that JOINC writes (R225). -/
def contFrame (c : Ctx) (f : List Word) (entry : Nat) : List Word :=
  let w0 := setFrameDepth ((frameWord f 0 &&& 0xFF000000) ||| BitVec.ofNat 32 entry) (c.depth - 1)
  let w2 := (frameWord f 2 &&& 0xFFF00000) ||| BitVec.ofNat 32 (c.join / 2 ^ 32)
  w0 :: BitVec.ofNat 32 c.join :: w2 :: f.drop 3

/-- A held continuation is pushed as soon as there is room (R225, R226). -/
def pushHeld (s : State) (c : Ctx) : Option State :=
  match c.pushing with
  | none => some s
  | some f =>
    let clear : Ctx → Ctx := fun c => { c with pushing := none }
    (pushFrame s c.launch c.core f).map (fun s1 => modCtx s1 c.id clear)

/-- JOINC's second step: the release, then the decrement (R225). -/
def joincDecrement (s : State) (c : Ctx) (addr : Nat) : Act :=
  let asid := (getLaunch s c.launch).elim 0 Launch.asid
  if c.owing.isSome then .wait (waitOwed s c (c.owing.getD []))
  else if s.changing.contains asid && !scalarSent s c then .wait s
  else
    match (if scalarSent s c then (s, true) else releaseSteps s c 4) with
    | (s1, false) => .wait s1
    | (s1, true) =>
      match joinDecrement s1 c addr with
      | .error (.wait s2) => .wait s2
      | .error (.ue k) => .ue s1 k
      | .error (.away (.hole a)) => .hole a
      | .error (.away _) => .wait (pageWait s1 ((getCtx s1 c.id).getD c) asid addr)
      | .ok (s2, push) =>
        let held : Ctx → Ctx := fun c => { c with phase := 2, pushing := push }
        .wait (modCtx s2 c.id held)

/-- JOINC (R225). The reserved bits of the record's state word stay as they are; of a record on a peer they are kept by a
read-modify-write there (R129). -/
def execJoinc (sp : Option Word) (d a b : Reg) (lit : Word) : State → Host.Outcome State Fault Refusal :=
  runCtrl { len := wordsOf true sp, sp := sp, must := true, levels := [1], single := true } (fun _ _ => bits lit 31 24 ≠ 0)
    (fun s c =>
      let f0 := c.sregRun d.toNat 16
      let entry := bits lit 23 0
      let addr := joincAddr c a b
      let asid := (getLaunch s c.launch).elim 0 Launch.asid
      let linked : Ctx → Ctx := fun c => { c with phase := 1, join := 0 }
      let cont := (contFrame c f0 entry).flatMap wordBytes
      let write (s : State) (line : Place) (st : Sparse Byte) : Act :=
        .wait (modCtx (homePush s line (st ++ (List.range 64).map (fun i => (64 + i, cont.getD i 0))) (some c.id) (some c.core)
          (!line.isHere) none 0 none (some asid)) c.id linked)
      if c.phase = 2 then
        match pushHeld s c with
        | none => .wait s
        | some s1 => .done s1 none
      else if c.phase = 1 then joincDecrement s c addr
      else if frameBad (groupWords s c.launch) f0 entry false || addr = 0 || addr % 128 ≠ 0 then .fault s FRAME 0
      else if s.changing.contains asid && !scalarSent s c then .wait s
      else
        match joinPlace s c addr with
        | .ok (.here k) true _ => write s (.here (k / 128)) [(4, ((readWord s (k + 4)).setWidth 8 &&& (0xFC : Byte)) ||| 1)]
        | .ok (.peer dev x) true _ =>
          (match scalarPeer s c dev x (.rmw false joinOpen [(0, x % 128 + 4, 0, 0)]) asid (astGen s asid) false with
           | .error s1 => .wait s1
           | .ok (_, s1) => write s1 (.peer dev (x / 128)) [])
        | x => joinStop s c addr x)

/-! Slots and footprints (R51, R359, R360) -/

/-- Slots of a core that hold a group or task. -/
def usedSlots (s : State) (k : Nat) : List Nat := (s.ctxs.filter (fun c => c.isGroup && c.core = k)).map Ctx.slot

/-- The free slot whose partition holds the fewest groups, ties to the lower slot (R359). -/
def chooseSlot (used : List Nat) : Option Nat :=
  let load (x : Nat) : Nat := (used.filter (fun u => u % 16 = x % 16)).length
  (List.range 128).foldl (fun best x =>
    if used.contains x then best
    else
      match best with
      | none => some x
      | some b => if load x < load b then some x else some b) none

/-- A free run of `n` of the 256 tiles or weight slots. -/
def freeUnits (runs : List Run) (n : Nat) : Option Nat := freeRunFrom (fun i => (ownerOf runs i).isNone && i < 256) n 0 0 256

/-- A new run under a fresh generation of the core (R99). -/
def takeRows (k : Core) (first n : Nat) (kind : BitVec 3) (policy : Bool) (owner : Nat) : BitVec 12 × Core :=
  let (g, k1) := k.issueGen
  (g, { k1 with rows := k1.rows ++ [⟨first, n, g, kind, policy, owner⟩] })

/-- A new run of tiles, each closed and of version 0 (R93, R275; log entry 140). -/
def takeTiles (k : Core) (first n : Nat) (policy : Bool) (owner : Nat) : BitVec 12 × Core :=
  let (g, k1) := k.issueGen
  (g, { k1 with
    tileRuns := k1.tileRuns ++ [⟨first, n, g, 6, policy, owner⟩]
    tileState := (List.range n).foldl (fun t i => sput ⟨0, false, 0⟩ t (first + i) ⟨0, false, 0⟩) k1.tileState })

/-- A context as it starts (R31, R59, R330): one live path at its entry, and the implicit safe point. -/
def newCtx (id : Nat) (level : BitVec 3) (launch : Nat) (parent : Option Nat) (entry : Nat) (lanes npaths : Nat) : Ctx :=
  let present : LaneMask := BitVec.ofNat 64 (2 ^ lanes - 1)
  let p : PathEntry := ⟨1, BitVec.ofNat 24 entry, present, present, 0, [0, 0, 0, 0], 0xFFFFFFFF, []⟩
  let c : Ctx :=
    { id := id, level := level, task := false, launch := launch, parent := parent, die := 0, cluster := 0, core := 0, slot := 0
      childIx := 0, groupIx := 0, blockIx := 0, cctx := 0, clusterIx := 0, mode := .run, phase := 0, served := none, owing := none, pushing := none, sregs := [], sregBad := []
      paths := p :: List.replicate (npaths - 1) defaultPath, run := 0, calls := [], loops := [], descent := [], dhead := 0
      gather := [], timeHi := none, wctHi := none, nbv := 2, agelim := 256, polVlt := false, polAcc := false
      polScr := false, polReg := false, trapCause := 0, trapPc := 0, trapAddr := 0, lanes := lanes, vregs := 0, regBase := 0
      regGen := 0, table := 0, tableGen := 0, scrRow := 0, scrRows := 0, scrGen := 0, tileBase := 0, tiles := 0, tileGen := 0
      slotBase := 0, wslots := 0, cores := [], preds := List.replicate 7 0, dmk := 0, exited := 0, wct := 0, clauses := []
      laneMode := .run, flights := [], flags := [], engines := [], rsb := [], committing := false, replay := [], reissue := [], regionLen := 0, issues := 0, live := none, liveRegs := 240
      ckpt := ⟨[], 0, [], [], 0, none, [], none, none⟩, armed := false, pins := [], loadFence := 0, retire := [], pendAge := 0, active := true
      entered := 0, frame := [], join := 0, depth := 0, haltOnBreak := false, cancelled := false }
  { c with ckpt := c.checkpoint id false }

/-- The run of a grid's table on a core (R360). -/
def gridTable (k : Core) (launch : Nat) : Option Run := k.rows.find? (fun r => r.kind = 2 && r.owner = launch)

/-- A group of the core that lost its rows at a GROW deadlock comes before any new placement there (R365). -/
def evicted (s : State) (k : Nat) : Bool := s.ctxs.any (fun c => c.core = k && c.mode == .evicted)

/-- The active groups of a partition. -/
def partitionActive (cs : List Ctx) (core slot : Nat) : Nat :=
  (cs.filter (fun c => c.isGroup && c.core = core && c.slot % 16 = slot % 16 && c.active)).length

/-- The groups of a partition; one that a GROW deadlock has saved is in none (R365; log entry 74). -/
def partitionOf (cs : List Ctx) (core slot : Nat) : List Ctx :=
  cs.filter (fun c => c.isGroup && c.core = core && c.slot % 16 = slot % 16 && c.mode ≠ .evicted)

/-- A group comes into its partition: it is active where that then holds four groups or fewer, and has entered the active set at
`now` (R361, R363). -/
def Ctx.joins (c : Ctx) (cs : List Ctx) (now : Nat) : Ctx :=
  if (partitionOf cs c.core c.slot).length < 4 then { c with active := true, entered := now } else { c with active := false }

def addGroup (now : Nat) (cs : List Ctx) (c : Ctx) : List Ctx := cs ++ [c.joins cs now]

/-- The group is pending in a partition of four or fewer, which are all active (R361). -/
def settles (cs : List Ctx) (c : Ctx) : Bool :=
  c.isGroup && c.mode ≠ .evicted && !c.active && (partitionOf cs c.core c.slot).length ≤ 4

/-- Such groups enter the active set together, and have no pending age (R156, R361, R363). -/
def settleActive (s : State) : State :=
  if s.ctxs.any (settles s.ctxs) then
    { s with
      ctxs := s.ctxs.map (fun c => if settles s.ctxs c then { c with active := true, pendAge := 0, entered := s.nextId } else c)
      nextId := s.nextId + 1 }
  else s

/-- An allocation waits for a generation value whose skim has not finished, and is counted (R104; log entry 101). -/
def skimStall (s : State) : State := { s with skimStalls := s.skimStalls + 1 }

/-- The generations that a task's allocations take: registers, scratchpad, tiles. -/
def frameGens (f : List Word) : Nat := 1 + (if frameScr f = 0 then 0 else 1) + (if frameTiles f = 0 then 0 else 1)

/-- A frame starts as a task on a core, where its whole footprint fits (R51, R128, R360). SPAWN checks the frames that it makes
(R224); the spec names no check for a launch record's root frame, and one that breaks the limits of R128 is started where it
fits as it reads, else never (log entry 102). -/
def startTask (s : State) (k launch : Nat) (f : List Word) : Option State :=
  match getLaunch s launch, chooseSlot (usedSlots s k), gridTable (getCore s k) launch with
  | some l, some slot, some tab =>
    let c0 := getCore s k
    let v := frameVregs f
    let n := frameScr f
    let t := frameTiles f
    if registerRows c0 + v ≤ 4096 && v + n + 512 ≤ l1Rows c0 && c0.issueReady (frameGens f) && !evicted s k then
      match freeRows c0 v, freeUnits c0.tileRuns t with
      | some rb, some tb =>
        let (id, s1) := fresh s
        let (tg, c1) := if t = 0 then (0, c0) else takeTiles c0 tb t l.stale id
        let (rg, c2) := takeRows c1 rb v 1 l.stale id
        match (if n = 0 then some 0 else freeRows c2 n) with
        | none => none
        | some sr =>
          let (sg, c3) := if n = 0 then (0, c2) else takeRows c2 sr n 3 l.stale id
          let base := newCtx id 1 launch none (frameEntry f) (frameLanes f) (framePaths f)
          let x : Ctx := { base with
            task := true, die := clusterDie (k / 4), cluster := k / 4, clusterIx := k / 4, core := k, slot := slot
            sregs := (base.setSregRun 0 (f.drop 4)).sregs
            nbv := l.nbv, polVlt := l.stale, polAcc := l.stale, polScr := l.stale, polReg := l.stale
            vregs := v, regBase := rb, regGen := rg, table := tab.first, tableGen := tab.gen, scrRow := sr, scrRows := n
            scrGen := sg, tileBase := tb, tiles := t, tileGen := tg, frame := f, join := frameJoin f, depth := frameDepth f + 1 }
          let s2 := setCore s1 k c3
          some (rowsTaken { s2 with ctxs := addGroup id s2.ctxs x } k)
      | _, _ => none
    else none
  | _, _, _ => none

/-! The task unit (R110 to R115) -/

def freeSlot (s : State) (k : Nat) : Bool := (chooseSlot (usedSlots s k)).isSome

/-- The owner pops its newest frame once its footprint fits, reloading from the ring where its deque is empty (R110, R112,
R360). -/
def execOwnerPop (k : Nat) (s : State) : Host.Outcome State Fault Refusal :=
  let c := getCore s k
  match c.grid.bind (getLaunch s) with
  | none => .next s
  | some l =>
    if c.popped.isSome || !freeSlot s k || !powered s then .next s
    else
      let s1 := if c.deque.isEmpty && c.ringCount ≠ 0 then reloadFrames s l k else some s
      match s1 with
      | none => .next s
      | some s1 =>
        let c1 := getCore s1 k
        match c1.deque.getLast? with
        | none => .next s
        | some f =>
          if (startTask s1 k l.id f).isSome then .next (setCore s1 k { c1 with deque := c1.deque.dropLast, popped := some f })
          else .next s1

/-- An idle core of a task-mode grid (R114). -/
def coreIdle (s : State) (k : Nat) : Bool :=
  let c := getCore s k
  c.grid.isSome && c.deque.isEmpty && c.ringCount = 0 && c.latch.isNone && c.popped.isNone && freeSlot s k

/-- The victims of a core in the order of R114. -/
def victims (k : Nat) : List Nat :=
  let cl := k / 4
  let j := k % 4
  let die := cl / 24
  let pos := cl % 24
  let own := (List.range 3).map (fun i => cl * 4 + (j + 1 + i) % 4)
  let clusters (d first : Nat) (skip : Nat) : List Nat :=
    ((List.range 24).drop skip).map (fun i => d * 24 + (first + i) % 24)
  let all (cs : List Nat) : List Nat := cs.flatMap (fun c => (List.range 4).map (fun i => c * 4 + i))
  own ++ all (clusters die pos 1) ++ all (clusters (1 - die) pos 0)

/-- What a steal finds at a victim (R114): the frame and the state without it, nothing, or a wait. -/
inductive Loot where
  | frame (f : List Word) (s : State)
  | none
  | wait

/-- What core `k` steals from `v`: the ring's oldest frame, else the top of the deque (R114). -/
def stealFrom (s : State) (l : Launch) (k v : Nat) : Loot :=
  let c := getCore s v
  if c.grid ≠ some l.id then .none
  else if c.ringCount ≠ 0 then
    match ringKeys s l v c.ringPos.toNat 1 with
    | some [a] =>
      if readHeld s (some k) (.here (a / 128)) then .wait
      else .frame (readWords s a 16) (setCore s v { c with ringPos := c.ringPos + 1, ringCount := c.ringCount - 1 })
    | _ => .wait
  else
    match c.deque with
    | f :: r => .frame f (setCore s v { c with deque := r })
    | [] => .none

/-- One pass over the victims. -/
def stealPass (s : State) (l : Launch) (k : Nat) : List Nat → Option State
  | [] =>
    let c := getCore s k
    some (setCore s k { c with retryAt := some (clusterTime s (k / 4) + clkNs 256) })
  | v :: r =>
    match stealFrom s l k v with
    | .frame f s1 =>
      let c := getCore s1 k
      some (setCore s1 k { c with latch := some (f, v), retryAt := none })
    | .wait => none
    | .none => stealPass s l k r

/-- A steal of core `k`. -/
def steal (k : Nat) (s : State) : Host.Outcome State Fault Refusal :=
  match (getCore s k).grid.bind (getLaunch s) with
  | none => .next s
  | some l => .next ((stealPass s l k (victims k)).getD s)

/-- An idle core tries its victims in order (R114). -/
def execSteal (k : Nat) (s : State) : Host.Outcome State Fault Refusal :=
  if coreIdle s k && (getCore s k).retryAt.isNone && powered s then steal k s else .next s

/-- A pass that found nothing is repeated after 256 clk (R114). -/
def execStealRetry (k : Nat) (s : State) : Host.Outcome State Fault Refusal :=
  match (getCore s k).retryAt with
  | none => .next s
  | some t =>
    if !powered s || clusterTime s (k / 4) < t then .next s
    else if coreIdle s k then steal k s
    else
      let c := getCore s k
      .next (setCore s k { c with retryAt := none })

/-- A frame that has not started, counted where it waits for a generation value (R104). -/
def taskStall (s : State) (k : Nat) (f : List Word) : State := if (getCore s k).issueReady (frameGens f) then s else skimStall s

/-- A popped or latched frame starts once its footprint fits (R51, R115, R360). -/
def execTaskStart (k : Nat) (s : State) : Host.Outcome State Fault Refusal :=
  let c := getCore s k
  if !powered s then .next s
  else
    match c.grid, c.popped, c.latch with
    | some l, some f, _ => .next ((startTask (setCore s k { c with popped := none }) k l f).getD (taskStall s k f))
    | some l, none, some (f, _) => .next ((startTask (setCore s k { c with latch := none }) k l f).getD (taskStall s k f))
    | _, _, _ => .next s

end Sys2Proof.Machine
end

