-- ==== Sys2Proof/Machine/Homes.lean ====
section
/-! DEFINITION. The homes and the memory system's own events: queued writes, write-backs, evictions, tag rewrites and skims,
access counters and migration, changes of an address space, cache shares, host and peer accesses, links
(R62, R88 to R92, R98, R104, R122, R310, R311, R320 to R324, R352, R390 to R392). -/

namespace Sys2Proof.Machine

/-! Queued writes (R311) -/

/-- The write that reached the home of its line first of those there, at its time. -/
def writeReady (s : State) (i : Nat) (w : HomeWrite) : Bool :=
  match w.line with
  | .here _ =>
    w.arrived && w.hold.isNone && !(s.homeQ.take i).any (fun x => x.line = w.line && x.arrived) && w.due ≤ lineTime s w.line && memoryUp s
  | .peer _ _ => false

/-- Two writes of one source and destination, in one hash lane: to one line, or in one lane of the link between the dies (R122). -/
def sameLane (x w : HomeWrite) : Bool :=
  (x.line = w.line && x.core = w.core) || ((linkLane x.core x.line).isSome && linkLane x.core x.line = linkLane w.core w.line)

/-- A write on its way can reach its home: none of its lane that was sent before it is still on the way (R122). Writes of
different sources reach a home in any order (R317). -/
def arrives (s : State) (w : HomeWrite) : Bool :=
  !w.arrived && !s.homeQ.any (fun x => x.id < w.id && !x.arrived && sameLane x w) && memoryUp s

/-- The home takes a write behind those that have reached it (R311). -/
def arriveWrite (s : State) (w : HomeWrite) : State :=
  { s with homeQ := s.homeQ.filter (fun x => x.id ≠ w.id) ++ [{ w with arrived := true, due := dueTime s w.line }] }

/-- A performed write that completes a landing counts it, and operations that wait for it complete (R144, R151, R319). -/
def afterHome (s : State) (w : HomeWrite) : State :=
  let counted := match w.op with
    | some (id, n) => if n = 0 then s else (getOp s id).elim s (fun o => arrivalUpdate s o n)
    | none => s
  settleAll counted

/-- A write reaches its home, or its home performs it (R311). -/
def execHomeWrite (i : Nat) (s : State) : Host.Outcome State Fault Refusal :=
  match s.homeQ[i]? with
  | none => .next s
  | some w =>
    if arrives s w then .next (arriveWrite s w)
    else if writeReady s i w then .next (afterHome (homePerform s w) w)
    else .next s

/-! L1 evictions (R88, R92, R347) -/

/-- Line `line` of a core is evicted: its dirty bytes go to their home, poisoned where they are uncorrectable, and it is
dropped; a pinned line is never evicted (R88, R92, R253, R347). -/
def execL1WriteBack (k line : Nat) (bad : Bool) (s : State) : Host.Outcome State Fault Refusal :=
  match (getCore s k).lines[line]? with
  | none => .next s
  | some x =>
    if x.pinned || !powered s then .next s
    else
      let s2 := writeBackLine s k x none (if bad then 3 else 0)
      let c := getCore s2 k
      .next (setCore s2 k { c with
        lines := c.lines.filter (fun y => !(y.line = x.line && y.asid = x.asid && y.mapgen = x.mapgen)) })

/-- A line leaves the device cache; it changes no byte (R91). -/
def execDeviceCacheEviction (line : Nat) (s : State) : Host.Outcome State Fault Refusal :=
  .next { s with dcache := sput (0, false) s.dcache line (0, false) }

/-! Tags (R62, R104) -/

/-- The tags of `n` granules from a key become 0. -/
def clearTags (s : State) (k : Nat) : Nat → State
  | 0 => s
  | n + 1 => clearTags (setTag s k 0) (k + 64) n

/-- A released row gets tag 0 and returns to the pool (R62, R104). -/
def execTagRewrite (k row : Nat) (s : State) : Host.Outcome State Fault Refusal :=
  let c := getCore s k
  if c.rewriting.contains row && powered s then
    .next (setCore (clearTags s (coreKey k (row * 256)) 4) k { c with rewriting := c.rewriting.filter (· ≠ row) })
  else .next s

/-- The generation that owns a granule of core `k`: of a row, or of a tile (R99). -/
def coreGranuleGen (c : Core) (k key : Nat) : Option (BitVec 12) :=
  match spaceOf key with
  | .core n off => if n = k then some (ownerGen c.rows (off / 256)) else none
  | _ =>
    if tileKey k 0 0 ≤ key && key < tileKey (k + 1) 0 0 then some (ownerGen c.tileRuns ((key - tileKey k 0 0) / 2048)) else none

/-- The generation that owns a granule of vault `v`. -/
def vaultGranuleGen (c : Vault) (v key : Nat) : Option (BitVec 12) :=
  match spaceOf key with
  | .vault n off => if n = v then some (ownerGen c.units (off / 65536)) else none
  | _ => none

/-- A skim of value `g` clears each granule of its store tagged `g` that no live allocation of `g` holds (R104). -/
def skimTags (s : State) (g : BitVec 12) (gen : Nat → Option (BitVec 12)) : State :=
  { s with tags := s.tags.filter (fun t => !(t.2 = g && (gen (t.1 * 64)).any (fun x => x ≠ g))) }

/-- The first unfinished skim of a core, or of vault `g` - 192, finishes (R104). -/
def execSkim (g : Nat) (s : State) : Host.Outcome State Fault Refusal :=
  if !powered s then .next s
  else if g < 192 then
    let c := getCore s g
    match c.skim with
    | [] => .next s
    | v :: r => .next (setCore (skimTags s v (coreGranuleGen c g)) g { c with skim := r })
  else
    let c := getVault s (g - 192)
    match c.skim with
    | [] => .next s
    | v :: r => .next (setVault (skimTags s v (vaultGranuleGen c (g - 192))) (g - 192) { c with skim := r })

/-! Access counters (R98) -/

/-- A counter table with each count halved, in canonical form. -/
def halveAll : Sparse (BitVec 16 × Bool) → Sparse (BitVec 16 × Bool)
  | [] => []
  | (r, n, w) :: rest => if n / 2 = 0 && !w then halveAll rest else (r, n / 2, w) :: halveAll rest

/-- Every access counter is halved, once in each 1,024 µs of die 0's copy of device time (R98; log entries 9 and 109). -/
def execAccessCounterHalve (s : State) : Host.Outcome State Fault Refusal :=
  .next (if s.time0 < s.halveAt then s else { s with access := halveAll s.access, halveAt := s.halveAt + 1024000 })

/-! Changes of an address space (R324) -/

/-- The request is an access that has not ended: a check only asks, and a fetched word or prefetched line is kept. -/
def Request.moves (r : Request) : Bool :=
  match r.ask with
  | .fetch | .check _ => false
  | .prefetch _ => r.answer.isNone && !r.failed
  | .read _ | .rmw _ _ _ => true

/-- Whose the requests of the parser for a queue are: a mark that no context has (R155). -/
def parserOwner (qid : Nat) : Nat := 2 ^ 64 + qid

/-- Step 2 of R324: nothing translated under the current generation is left to be performed: no load or atomic, no store of a
commit that has begun, no write or place on the way to a home or there, no request, no piece of an engine's unit. A request that a
peer answered with retry has been cancelled, and so are the buffered stores of the regions not at their commit, at the end. -/
def spaceQuiet (s : State) (asid : BitVec 16) : Bool :=
  !(s.ctxs.any (fun c => c.committing && c.rsb.any (fun e => e.gen.isNone && e.asid = asid))) &&
    !(s.ctxs.any (fun c => c.flights.any (fun f => (f.opcode = 0x50 || f.opcode = 0x52) && f.asid = asid && !f.accs.isEmpty))) &&
    !(s.homeQ.any (fun w => w.space = some asid)) &&
    !(s.requests.any (fun r => r.space = asid && !r.retry && r.moves && !(parserOwner 0 ≤ r.ctx && r.answer.isSome))) &&
    !(s.ops.any (fun o => !o.landed.isEmpty && (opSpaces o).contains asid))

/-- The dirty lines of the space's current generation, on every core. -/
def dirtyLines (s : State) (asid : BitVec 16) : List (Nat × Line) :=
  (List.range s.cores.length).flatMap (fun k =>
    ((getCore s k).lines.filter (fun x => x.asid = asid && x.mapgen = astGen s asid && x.dirty ≠ 0)).map (fun x => (k, x)))

/-- The next value of a map generation, never 0 (R324). -/
def nextMapgen (g : BitVec 16) : BitVec 16 := if g = 0xFFFF then 1 else g + 1

/-- A record's words with the old generation of the space replaced (R324). -/
def renewRec (asid old new : BitVec 16) (ws : List Word) : List Word :=
  if (parseRec ws).asid = asid && (parseRec ws).mapgen = old && old ≠ 0 then ws.set 4 (asid ++ new) else ws

/-- One copy of a buffer-record table is rewritten, record by record; a record whose granule the run has not written holds
zero (R100, R324). -/
def renewTable (s : State) (k : Nat) (run : Run) (asid old new : BitVec 16) : State :=
  (List.range 128).foldl (fun s i =>
    let key := coreKey k (run.first * 256 + 32 * i)
    let ws := readWords s key 8
    if tagAt s key = run.gen && renewRec asid old new ws ≠ ws then writeWord s (key + 16) (asid ++ new) else s) s

/-- Every copy of every table (R324, step 4). -/
def renewTables (s : State) (asid old new : BitVec 16) : State :=
  (List.range s.cores.length).foldl (fun s k =>
    ((getCore s k).rows.filter (fun r => r.kind = 2)).foldl (fun s r => renewTable s k r asid old new) s) s

/-- The copies of records that an operation holds (R138, R324). -/
def renewOp (asid old new : BitVec 16) (o : EngOp) : EngOp :=
  { o with srcRec := if o.srcRec.isEmpty then [] else renewRec asid old new o.srcRec
           dstRec := if o.dstRec.isEmpty then [] else renewRec asid old new o.dstRec }

/-- The context's buffered stores to the space: they have been translated (R247), and are performed at the commit. -/
def Ctx.buffers (c : Ctx) (asid : BitVec 16) : Bool := c.rsb.any (fun e => e.gen.isNone && e.asid = asid)

/-- The regions that hold such stores, none at its commit now, are cancelled, and run again from their checkpoints (R324, R329,
R333; log entry 118). -/
def cancelRegions (s : State) (asid : BitVec 16) : State := (s.ctxs.filter (fun c => c.buffers asid)).foldl cancelRegion s

/-- A saved table is rewritten like a table of a core: a restored launch must find records of the new generation (R54, R324). -/
def renewSaved (asid old new : BitVec 16) (r : SavedRun) : SavedRun :=
  (List.range 128).foldl (fun (r : SavedRun) i =>
    let ws := bytesToWords ((List.range 32).map (fun j => sget 0 r.bytes (32 * i + j)))
    if r.tags.contains (i / 2) && renewRec asid old new ws ≠ ws then
      { r with bytes := (List.range 4).foldl (fun t j => sput 0 t (32 * i + 16 + j) ((wordBytes (asid ++ new)).getD j 0)) r.bytes }
    else r) r

/-- What a save holds follows the change: its tables and the copies in its operations; a region with buffered stores to the space is
replayed when the group is restored. -/
def renewPart (asid old new : BitVec 16) (p : Saved) : Saved :=
  { p with
    ctx := if p.ctx.buffers asid then { p.ctx with cancelled := true } else p.ctx
    stores := p.stores.map (fun x => { x with table := renewSaved asid old new x.table })
    ops := p.ops.map (renewOp asid old new) }

def renewLaunch (asid old new : BitVec 16) (x : SavedLaunch) : SavedLaunch :=
  { x with parts := x.parts.map (renewPart asid old new)
           deques := x.deques.map (fun d => { d with table := renewSaved asid old new d.table }) }

/-- L1 lines of the old generation are retired, and their pins with them (R88, R324). -/
def retireSpace (s : State) (asid old : BitVec 16) : State :=
  let gone (x : Line) : Bool := x.asid = asid && x.mapgen = old
  { s with
    ctxs := s.ctxs.map (fun c => { c with pins := c.pins.filter (fun t => !(t.asid = asid && t.mapgen = old)) })
    cores := s.cores.map (fun k => { k with lines := k.lines.filter (fun x => !gone x) }) }

/-- What was only asked under the old mapping is asked again under the new one (R182, R247, R401). -/
def dropFetches (s : State) (asid : BitVec 16) : State :=
  { s with requests := s.requests.filter (fun r => !(r.space = asid && !r.moves)) }

/-- The entry of an address space: its level-2 table and its new generation (R130, R324, step 3). -/
def writeSpace (s : State) (asid : BitVec 16) (table : Nat) (gen : BitVec 16) : State :=
  let k := s.astBase + 32 * asid.toNat
  let w2 := readWord s (k + 8)
  writeWords s k [BitVec.ofNat 32 table, BitVec.ofNat 32 (table / 2 ^ 32), w2.extractLsb' 16 16 ++ gen]

/-- Words that the device writes to a region control block stand in its page (R133); a block whose page is not present keeps its
old ones. -/
def placeNode (s : State) (n : Node) (i : Nat) (ws : List Word) : State :=
  match walk s n.asid (n.addr + 4 * i) with
  | .ok p _ _ =>
    let bs := ws.flatMap wordBytes
    homePush s p.line ((List.range bs.length).map (fun j => (p.offset + j, bs.getD j 0))) none none true none 0 none (some n.asid)
  | _ => s

/-- The device writes words of a region control block; while the block's space is changing they wait for the end of the change
(R133, R324). -/
def postNode (s : State) (n : Node) (i : Nat) (ws : List Word) : State :=
  if s.changing.contains n.asid then
    let owe (x : Node) : Node := if x.addr = n.addr then { x with owed := x.owed ++ [(i, ws)] } else x
    { s with nodes := s.nodes.map owe }
  else placeNode s n i ws

/-- What waited for the end of a change is written (R324, step 5). -/
def postOwed (s : State) (asid : BitVec 16) : State :=
  let due := s.nodes.filter (fun n => n.asid = asid && !n.owed.isEmpty)
  let clear (n : Node) : Node := if n.asid = asid then { n with owed := [] } else n
  due.foldl (fun s n => n.owed.foldl (fun s x => placeNode s n x.1 x.2) s) { s with nodes := s.nodes.map clear }

/-- Steps 3 to 5 of R324 after the translation entries have been written. -/
def finishChange (s : State) (asid : BitVec 16) (table : Nat) : State :=
  let old := astGen s asid
  let new := nextMapgen old
  let s1 := writeSpace s asid table new
  let s2 := renewTables (cancelRegions s1 asid) asid old new
  let s3 := { s2 with ops := s2.ops.map (renewOp asid old new), saved := s2.saved.map (renewLaunch asid old new) }
  let s4 := dropFetches (retireSpace s3 asid old) asid
  postOwed { s4 with changing := s4.changing.filter (· ≠ asid) } asid

/-- The steps of R324 around `change`, one event each: the mark, the wait, the write-back of dirty lines, the change. -/
def changeSpace (s : State) (asid : BitVec 16) (table : Nat) (change : State → State) : State :=
  if !powered s then s
  else if !s.changing.contains asid then { s with changing := s.changing ++ [asid] }
  else if !spaceQuiet s asid then s
  else
    match dirtyLines s asid with
    | [] => finishChange (change s) asid table
    | ls => ls.foldl (fun s x => writeBackLine s x.1 x.2 none) s

/-- Translation entries that the memory manager writes; they stand in HBM, on 8-byte boundaries. -/
def writeEntries (s : State) : List (Nat × DWord) → State
  | [] => s
  | (k, e) :: r =>
    writeEntries (if k % 8 = 0 && k + 8 ≤ hbmBytes then writeBytes s k (leBytes 8 e.toNat) else s) r

/-- The memory manager changes an address space (R324). -/
def execMapChange (asid table : Nat) (edits : List (Nat × DWord)) (s : State) : Host.Outcome State Fault Refusal :=
  let a := BitVec.ofNat 16 asid
  .next (changeSpace s a (table % 2 ^ 52 / 65536 * 65536) (fun s => writeEntries s edits))

/-! Migration and replication (R98) -/

/-- The key of the level-0 entry of a page, where the walk reaches one (R97). -/
def entryKey (s : State) (asid : BitVec 16) (va : Nat) : Option Nat :=
  let e2 := readDWord s (astTable s asid + 8 * (va / 2 ^ 42 % 1024))
  let e1 := readDWord s (pteFrame e2 + 8 * (va / 2 ^ 29 % 8192))
  if !ptePresent e2 || e2.getLsbD 1 || !ptePresent e1 || e1.getLsbD 1 then none
  else some (pteFrame e1 + 8 * (va / 2 ^ 16 % 8192))

/-- The remote pages of a 2 MiB region that are not remote-pinned: page index, entry key, entry, place. -/
def remotePages (s : State) (asid : BitVec 16) (region : Nat) : List (Nat × Nat × DWord × Place) :=
  (List.range 32).filterMap (fun i =>
    let va := region * 2 ^ 21 + i * 2 ^ 16
    match entryKey s asid va, walk s asid va with
    | some k, .ok p _ false => if (accessRegion p).isSome then some (i, k, readDWord s k, p) else none
    | _, _ => none)

/-- Free words of a page that comes from a peer. -/
def drawPage (s : State) (dst : Nat) : Nat → State
  | 0 => s
  | n + 1 =>
    let (w, s1) := drawFree s
    drawPage (writeWord s1 dst w) (dst + 4) n

/-- A page's bytes come to an HBM frame. -/
def fetchPage (s : State) (dst : Nat) : Place → State
  | .here k => copyGranules { s with poison := s.poison.filter (fun g => g < dst / 64 || dst / 64 + 1024 ≤ g) } k dst 1024
  | .peer _ _ => drawPage { s with poison := s.poison.filter (fun g => g < dst / 64 || dst / 64 + 1024 ≤ g) } dst 16384

/-- The entry of a page in an HBM frame; a replica is not writable (R98, R130). It stands alone: its contiguity is 0. -/
def hbmEntry (e : DWord) (frame : Nat) (replica : Bool) : DWord :=
  BitVec.ofNat 64 ((e.toNat % 65536 - pteLoc e * 256 - pteContig e * 4) - (if replica && e.getLsbD 4 then 16 else 0) + frame * 65536)

/-- Every remote page of the region moves to the frames from `frame` up. -/
def movePages (s : State) (frame : Nat) (replica : Bool) : List (Nat × Nat × DWord × Place) → State
  | [] => s
  | (i, k, e, p) :: r =>
    let s1 := fetchPage s ((frame + i) * 65536) p
    movePages (writeBytes s1 k (leBytes 8 (hbmEntry e (frame + i) replica).toNat)) frame replica r

/-- The level-1 leaf that maps an address, with its key (R97). -/
def leafEntry (s : State) (asid : BitVec 16) (va : Nat) : Option (Nat × DWord) :=
  let e2 := readDWord s (astTable s asid + 8 * (va / 2 ^ 42 % 1024))
  let k1 := pteFrame e2 + 8 * (va / 2 ^ 29 % 8192)
  let e1 := readDWord s k1
  if ptePresent e2 && !e2.getLsbD 1 && ptePresent e1 && e1.getLsbD 1 then some (k1, e1) else none

/-- The level-0 entry of the 64 KiB page at an address under a level-1 leaf. -/
def pageEntry (s : State) (asid : BitVec 16) (e1 : DWord) (va : Nat) : DWord :=
  let pa := match walk s asid va with
    | .ok (.here k) _ _ => physAddr k
    | .ok (.peer _ a) _ _ => a
    | _ => 0
  BitVec.ofNat 64 (e1.toNat / 2 ^ 52 * 2 ^ 52 + pa / 65536 * 65536 + (e1.toNat % 65536 - pteContig e1 * 4 - 2))

/-- The leaf over a region gives way to a level-0 table in frame `table`, which maps the same pages (R97, R98). -/
def splitLeaf (s : State) (asid : BitVec 16) (va table : Nat) : State :=
  match leafEntry s asid va with
  | none => s
  | some (k1, e1) =>
    let es := (List.range 8192).map (fun i => pageEntry s asid e1 (va / 2 ^ 29 * 2 ^ 29 + i * 2 ^ 16))
    let s1 := { s with poison := s.poison.filter (fun g => g < table * 1024 || table * 1024 + 1024 ≤ g) }
    writeBytes (writeBytes s1 (table * 65536) (es.flatMap (fun e => leBytes 8 e.toNat))) k1 (leBytes 8 (table * 65536 + 1))

/-- The counter of a 2 MiB region of remote pages, through whatever entries map it. -/
def regionCounter (s : State) (asid : BitVec 16) (region : Nat) : Option Nat :=
  ((List.range 32).filterMap (fun i =>
    match walk s asid (region * 2 ^ 21 + i * 2 ^ 16) with
    | .ok p _ false => accessRegion p
    | _ => none)).head?

/-- The memory manager acts on a region whose counter has reached its threshold (R98): migration, replication, or the
counter's return to 0. `free` is the number of free HBM frames and `full` tells that the link queue is at least half full. The
pages go to the 32 frames from `frame` on; a level-1 leaf over the region is split first, into a table in the frame after them
(log entry 60). -/
def execRegionMigrate (asid region frame free : Nat) (full : Bool) (s : State) : Host.Outcome State Fault Refusal :=
  let a := BitVec.ofNat 16 asid
  let va := region * 2 ^ 21
  let leaf := leafEntry s a va
  let frames := if leaf.isSome then 33 else 32
  match regionCounter s a region with
  | none => .next s
  | some r =>
    let (n, wrote) := sget (0, false) s.access r
    let room := 4096 + frames < free && (frame + frames) * 65536 ≤ hbmBytes
    let rep := match leaf with
      | some x => x.2.getLsbD 5
      | none => (remotePages s a region).all (fun p => p.2.2.1.getLsbD 5)
    if n.toNat < (if full then 128 else 256) || !powered s then .next s
    else if room && (wrote || rep) then
      .next (changeSpace s a (astTable s a) (fun s =>
        let s1 := splitLeaf s a va (frame + 32)
        { movePages s1 frame (!wrote) (remotePages s1 a region) with access := sput (0, false) s.access r (0, false) }))
    else .next { s with access := sput (0, false) s.access r (0, wrote) }

/-! Vault cache shares (R90, R91) -/

/-- A vault's cache share changes over units that hold no allocation; its cached lines are written back first. -/
def execCacheShareChange (v share : Nat) (s : State) : Host.Outcome State Fault Refusal :=
  let x := getVault s v
  let top := 16 - max x.share share
  if 48 ≤ v || !([0, 4, 8, 12].contains share) || !powered s ||
      x.units.any (fun r => top * 16 < r.first + r.count) then .next s
  else
    let s1 := setVault s v { x with share := share }
    let cache (g : Nat) : Bool := match spaceOf (g * 64) with
      | .vault n off => n = v && (16 - share) * 2 ^ 20 ≤ off
      | _ => false
    .next { s1 with
      dcache := s1.dcache.filter (fun l => l.2.1 ≠ v)
      tags := s1.tags.filter (fun t => !cache t.1) }

/-! The host (R321, R323) -/

/-- Bytes reach their home at once, without the lease wait; a whole granule clears its poison (R92, R321). -/
def directWrite (s : State) (k : Nat) (bs : List Byte) : State :=
  let s1 := writeBytes s k bs
  let covered (g : Nat) : Bool := k ≤ g * 64 && g * 64 + 64 ≤ k + bs.length
  { s1 with poison := s1.poison.filter (fun g => !covered g) }

/-- The lines that `n` bytes from a key touch are read or written at their home (R91). -/
def touchLines (s : State) (k n : Nat) (dirty : Bool) : State :=
  (List.range (n / 128 + 2)).foldl (fun s i =>
    let l := k / 128 + i
    if n ≠ 0 && l * 128 < k + n then cacheTouch s l dirty else s) s

/-- The host writes bytes of the device's HBM, or of its own memory at 2^52 and up (R321). -/
def execHostWrite (addr : Nat) (d : List Byte) (s : State) : Host.Outcome State Fault Refusal :=
  if addr + d.length ≤ hbmBytes then
    if powered s then .next (touchLines (directWrite s addr d) addr d.length true) else .next s
  else if hostKey 0 ≤ addr && addr + d.length ≤ hostKey (2 ^ 64) then .next (directWrite s addr d)
  else .next s

/-- A snoop of a host line: its dirty bytes are written back on every core, and no lease ends (R323). -/
def execHostSnoop (line : Nat) (s : State) : Host.Outcome State Fault Refusal :=
  if spaceOf (line * 128) ≠ .host || !powered s then .next s
  else
    .next ((List.range s.cores.length).foldl (fun s k =>
      ((getCore s k).lines.filter (fun x => x.line = .here line)).foldl (fun s x => writeBackLine s k x none) s) s)

/-! The fabric (R320, R352) -/

/-- The port whose link partner is a device, the lowest of several. For a peer that is reached over other devices the spec names no
port, and a record then names port 0 and its die (log entry 124). -/
def portOf (s : State) (peer : BitVec 12) : Nat := ((List.range 18).find? (fun i => (s.ports.getD i Port.reset).peer = peer)).getD 0

/-- The die of a port (R11). -/
def portDie (p : Nat) : BitVec 1 := if p < 9 then 0 else 1

/-- w3 of a record that names no context (R340). -/
def noCtx (die : BitVec 1) : Word := BitVec.ofNat 32 (die.toNat * 2 ^ 24 + 0xFF)

/-- w7 of a link record: the port and its failed lanes (R340). -/
def portWord (s : State) (p : Nat) : Word := BitVec.ofNat 32 (p * 256 + (s.ports.getD p Port.reset).failed.toNat)

/-- A link error record: KIND 7 (R340, R352). -/
def linkError (s : State) (peer : BitVec 12) (code : Nat) (lane : Option Nat) (scope : Nat) (w3 pc : Word) (die : BitVec 1) : State :=
  pushError s (errorRecord s 7 code lane scope w3 0 pc (portWord s (portOf s peer)) die)

/-- A link error record that names no context, of the port to a peer. -/
def portError (s : State) (peer : BitVec 12) (code : Nat) : State :=
  let die := portDie (portOf s peer)
  linkError s peer code none 0 (noCtx die) 0 die

/-- The record of the initiator's side. -/
def requestError (s : State) (r : Request) (code : Nat) : State :=
  match getCtx s r.ctx with
  | some c => linkError s r.peer code r.lane c.level.toNat c.where3 r.pc c.die
  | none => portError s r.peer code

def dropRequest (s : State) (id : Nat) : State := forgetRequest s id
def setRequest (s : State) (r : Request) : State :=
  { s with requests := s.requests.map (fun x => if x.id = r.id then r else x) }

/-- A check or prefetch, whose instruction has not issued. -/
def Request.asks (r : Request) : Bool :=
  match r.ask with
  | .check _ | .prefetch _ => true
  | _ => false

/-- BPF's. -/
def Request.prefetches (r : Request) : Bool :=
  match r.ask with
  | .prefetch _ => true
  | _ => false

/-- A context can still take a fault. -/
def Ctx.alive (c : Ctx) : Bool := c.mode ≠ .faulted && c.mode ≠ .ended

/-- A request ends in a fatal fault of its context, or of its engine operation (R231, R352, R401). -/
def failRequest (s : State) (r : Request) (code : Nat) : State :=
  let s1 := dropRequest (requestError s r code) r.id
  match r.engine with
  | some o => (getOp s1 o).elim s1 (fun x => engineFault s1 x code)
  | none =>
    match getCtx s r.ctx with
    | none => s1
    | some c => if c.alive then takeFault s1 c code r.lane (r.pc.getLsbD 31) (bits r.pc 23 0) 0 else s1

/-- A peer answers failure: what only asks keeps the verdict for its instruction (R247, R253), anything else fails. -/
def refuseRequest (s : State) (r : Request) : State :=
  if r.asks then setRequest (requestError s r REMOTE) { r with failed := true } else failRequest s r REMOTE

/-- A scalar request that its context cannot make again from its checkpoint. -/
def Ctx.holdsRequest (c : Ctx) (r : Request) : Bool := r.flight.isNone && (c.mode == .ending || c.phase ≠ 0)

/-- The request is the access of an atomic in flight, whose check the peer has let pass. -/
def atomicAccess (s : State) (r : Request) : Bool :=
  (getCtx s r.ctx).any (fun c => c.flights.any (fun f => f.kind == .atomic && r.flight = some f.id))

/-- A peer answers retry (R332, R333, R352). What only asks keeps the verdict. A load's or scalar access's group, whose page
has gone since its check, is rolled back and waits for the notice; a fetch, an engine's access, and what an END or a later step
of a SPAWN or JOINC asks for wait. An atomic's access has passed its check, which alone decides whether it is held (R247, R332):
retry is no answer to it, and it stays outstanding (log entry 114). The registers of R82 are written where a group rolls back, and
where it waits so. -/
def retryRequest (s : State) (r : Request) : State :=
  let s1 := setRequest (requestError s r REMOTE) { r with retry := true }
  if atomicAccess s r then s
  else if r.asks || r.ask == .fetch || r.engine.isSome then s1
  else
    match getCtx s1 r.ctx with
    | none => dropRequest s1 r.id
    | some c =>
      if !c.alive then dropRequest s1 r.id
      else if c.holdsRequest r then setCtx s1 (if c.isGroup then c.recordFault REMOTE r.lane r.pc 0 else c)
      else
        let c1 := c.recordFault REMOTE r.lane r.pc 0
        match r.flight.bind (fun f => c.flights.find? (fun x => x.id == f)) with
        | some f =>
          let keep (x : Request) : Bool := x.id = r.id || !(x.ctx = c.id && x.flight = some f.id)
          setCtx (dropWait { s1 with requests := s1.requests.filter keep } c)
            { (c1.completeFlight f).stopRegion with mode := .notice r.id }
        | none => setCtx (dropWait s1 c) { c1.stopRegion with mode := .notice r.id }

/-- The bytes of an answer, at the request's size. -/
def answerBytes (r : Request) (d : List Byte) : List Byte := (d ++ List.replicate r.size 0).take r.size

/-- The line that an answer brings to the core of its context: fetched for a load, and for a BPF, which pins it then where that is
asked (R253), refreshed where present for TRYW and the old values of an atomic, which then holds what the atomic has made of it
(R88, R312). Its lease counts from the peer's read. -/
def answerLine (s : State) (r : Request) (bs : List Byte) (time : Nat) : State :=
  let line : Place := .peer r.peer (r.addr / 128)
  match getCtx s r.ctx with
  | none => s
  | some c =>
    let fill (bs : List Byte) : State := fillLine s c.core r.space r.mapgen line (offsets bs) 0 (time + 2 ^ leaseOf s c)
    let present := (findLine (getCore s c.core) r.space r.mapgen line).isSome
    if r.engine.isSome then s
    else
      match r.ask with
      | .read all => if all || present then fill bs else s
      | .prefetch pin => pinLine (fill bs) c r.space r.mapgen pin line
      | .rmw v1 op steps => if present then fill (rmwSteps v1 op bs steps).1 else s
      | .fetch | .check _ => s

/-- A request has been performed at the peer; a write's completion time enters WCT, and a line fetch is counted (R67, R98,
R320). -/
def completeRequest (s : State) (r : Request) (d : List Byte) (time : Nat) : State :=
  let bs := answerBytes r d
  let s1 := answerLine (countAccess (setRequest s { r with answer := some bs }) (.peer r.peer r.addr) r.counted) r bs time
  match r.ask with
  | .rmw _ _ _ => markWritten (raiseWct s1 (some r.ctx) time) (.peer r.peer r.addr)
  | _ => s1

/-- A posted write of this device at a peer, by its identity. -/
def postedWrite (s : State) (id : Nat) : Option (HomeWrite × BitVec 12 × Nat) :=
  (s.homeQ.find? (fun w => w.id == id)).bind (fun w =>
    match w.line with
    | .peer d l => some (w, d, l)
    | .here _ => none)

/-- A posted write has no further part in the queue. -/
def dropWrite (s : State) (id : Nat) : State := { s with homeQ := s.homeQ.filter (fun w => w.id ≠ id) }

/-- Whose a write is: the context, the engine operation, the lane, and the access that made it in the TRAPPC layout; of a place
held at a home, its holder's. -/
def writeOwner (s : State) (w : HomeWrite) : Option Ctx × Option Nat × Option Nat × Word :=
  let own (id : Option Nat) : Option Ctx := id.bind (getCtx s)
  let here (c : Option Ctx) : Word := c.elim 0 (fun c => trapPcOf false c.pc.toNat)
  match w.hold with
  | none => (own w.ctx, w.op.map Prod.fst, none, here (own w.ctx))
  | some (.scalar id _) => (own (some id), none, none, here (own (some id)))
  | some (.lane id f l) =>
    let c := own (some id)
    (c, none, some l, ((c.bind (fun c => c.flights.find? (fun x => x.id == f))).elim 0 Flight.pc))
  | some (.engine o) =>
    let c := own ((getOp s o).map EngOp.ctx)
    (c, some o, none, here c)

/-- A write fails on its link: the fatal fault of its context or engine operation, and the link's record, `none` for the host
port's; WCT stays (R320, R352). -/
def failWrite (s : State) (w : HomeWrite) (peer : Option (BitVec 12)) (code : Nat) : State :=
  let (c, op, lane, place) := writeOwner s w
  let record (scope : Nat) (w3 pc : Word) (die : BitVec 1) : State :=
    match peer with
    | some p => linkError s p code lane scope w3 pc die
    | none => pushError s (errorRecord s 7 code lane scope w3 0 pc 0 die)
  let s1 := dropWrite (match c with
    | some c => record c.level.toNat c.where3 place c.die
    | none =>
      let die := peer.elim 0 (fun p => portDie (portOf s p))
      record 0 (noCtx die) 0 die) w.id
  match op.bind (getOp s1), c with
  | some o, _ => engineFault s1 o code
  | none, some c => if c.alive then takeFault s1 c code lane (place.getLsbD 31) (bits place 23 0) 0 else s1
  | none, none => s1

/-- Something issued earlier to the same peer in the same hash lane has not been answered: the fabric delivers in issue order
(R122, R320). -/
def laneAhead (s : State) (id : Nat) (peer : BitVec 12) (a : Nat) : Bool :=
  s.requests.any (fun r => r.id < id && r.peer = peer && hashLane r.addr = hashLane a && !r.answered) ||
    s.homeQ.any (fun w => w.id < id && !w.retry &&
      (match w.line with
       | .peer d l => d = peer && hashLane (l * 128) = hashLane a
       | .here _ => false))

/-- A peer answers retry to a posted write, whose region has been committed: it waits and is sent again at the notice
(R320, R352; log entry 99). -/
def retryWrite (s : State) (w : HomeWrite) (peer : BitVec 12) : State :=
  portError { s with homeQ := s.homeQ.map (fun x => if x.id = w.id then { x with retry := true } else x) } peer REMOTE

/-- A peer can be reached: a port to it is up. Where every such port is paused for retraining or trains, its traffic is held; where
none has it for its partner, or those are down, the traffic goes by another port that is up (R391, R392; log entry 124). -/
def linkUp (s : State) (peer : BitVec 12) : Bool :=
  let direct := s.ports.filter (fun x => x.peer = peer && x.state ≠ 0)
  if direct.isEmpty then s.ports.any (fun x => x.state = 2) else direct.any (fun x => x.state = 2)

/-- A peer's answer arrives (R320, R352), in the order of its hash lane (R122). -/
def execRemoteAnswer (id : Nat) (ans : PeerAnswer) (s : State) : Host.Outcome State Fault Refusal :=
  if !powered s then .next s
  else
    match s.requests.find? (fun r => r.id == id), postedWrite s id with
    | some r, _ =>
      if r.answered || !linkUp s r.peer || laneAhead s id r.peer r.addr then .next s
      else
        (match ans with
         | .done d time => .next (completeRequest s r d time.toNat)
         | .retry => .next (retryRequest s r)
         | .failure _ => .next (refuseRequest s r))
    | none, some (w, peer, l) =>
      if w.retry || !linkUp s peer || laneAhead s id peer (l * 128) then .next s
      else
        (match ans with
         | .done _ time =>
           .next (afterHome (markWritten (raiseWct (dropWrite s id) w.ctx time.toNat) (.peer peer (l * 128))) w)
         | .retry => .next (retryWrite s w peer)
         | .failure _ => .next (failWrite s w (some peer) REMOTE))
    | none, none => .next s

/-- The resolution notice (R352): a fetch, an engine's access, a held atomic and a posted write are issued again now, and what
only asked or was rolled back goes, to be made again by its instruction. -/
def execRemoteResolutionNotice (id : Nat) (s : State) : Host.Outcome State Fault Refusal :=
  match s.requests.find? (fun r => r.id == id), postedWrite s id with
  | some r, _ =>
    if !r.retry || !powered s || !linkUp s r.peer then .next s
    else
      let held := (getCtx s r.ctx).any (fun c => c.laneMode == .notice id || c.holdsRequest r)
      let now := (getCtx s r.ctx).elim s.time0 (fun c => dieTime s c.die)
      if !r.asks && (r.ask == .fetch || r.engine.isSome || held) then
        .next (sendRequest (dropRequest s id) { r with id := s.nextId, retry := false, issued := now })
      else .next (dropRequest s id)
  | none, some (w, peer, _) =>
    if !w.retry || !powered s || !linkUp s peer then .next s
    else .next { s with homeQ := s.homeQ.map (fun x => if x.id = id then { x with retry := false, due := dueTime s w.line } else x) }
  | none, none => .next s

/-- 200 ms (R352). -/
def linkTimeout : Nat := 200000000

/-- A write to host memory that waits for the host's completion (R320). -/
def hostWrite (s : State) (id : Nat) : Option HomeWrite :=
  s.homeQ.find? (fun w => w.id == id && (w.arrived || w.hold.isSome) &&
    (match w.line with
     | .here l => spaceOf (l * 128) = .host
     | .peer _ _ => false))

/-- A request, a posted write or a write to the host that has had no answer for 200 ms is RTIMEOUT (R320, R352); of one that was
answered with retry the time runs on until its notice (log entry 110). Of a prefetch it is no fault: BPF skips the line (R247,
R253). -/
def execRtimeout (id : Nat) (s : State) : Host.Outcome State Fault Refusal :=
  if !powered s then .next s
  else
    match s.requests.find? (fun r => r.id == id), postedWrite s id, hostWrite s id with
    | some r, _, _ =>
      if r.answer.isNone && !r.failed && r.issued + linkTimeout ≤ (getCtx s r.ctx).elim s.time0 (fun c => dieTime s c.die) then
        .next (if r.prefetches then setRequest (requestError s r RTIMEOUT) { r with failed := true } else failRequest s r RTIMEOUT)
      else .next s
    | none, some (w, peer, _), _ => if w.due + linkTimeout ≤ s.time0 then .next (failWrite s w (some peer) RTIMEOUT) else .next s
    | none, none, some w => if w.due + linkTimeout ≤ s.time0 then .next (failWrite s w none RTIMEOUT) else .next s
    | none, none, none => .next s

/-- The record that this device, as the target, writes (R352). -/
def inboundError (s : State) (r : PeerAccess) (code : Nat) : State := portError s r.peer code

/-- A peer's access performed at its home here: its write, its read-modify-write, or its read (R310, R321, R347). -/
def inboundPerform (s : State) (r : PeerAccess) (k : Nat) : State :=
  let read (done : State) : State :=
    if (List.range r.size).any (fun i => poisonAt s (k + i)) then inboundError s r UE else done
  match r.rmw, r.data with
  | some (v1, op, x, cmp), _ =>
    let st := readWord s (k + 4)
    let v := rmwWord v1 op (readWord s k) x cmp
    let s1 := writeWord s k v
    let s2 := if op = joinDown && joinFires v st then writeWord s1 (k + 4) (firedWord st) else s1
    read (markWritten (touchLines s2 k 4 true) (.here k))
  | none, some d => markWritten (touchLines (directWrite s k ((d ++ List.replicate r.size 0).take r.size)) k r.size true) (.here k)
  | none, none => read (touchLines s k r.size false)

/-- The fault record of a peer's access, made of the page and the map generation that it names (R137). -/
def inboundRecord (s : State) (r : PeerAccess) : List Word :=
  faultRecord false true false (r.data.isSome || r.rmw.isSome) 1 0 none PAGE r.va.toNat r.asid
    (if r.mapgen = 0 then astGen s r.asid else r.mapgen) (BitVec.ofNat 32 (r.peer.toNat * 2 ^ 16 + 0xFF)) 0

/-- A peer's access waits for room for its fault record (R118). -/
def inboundOwed (s : State) (r : PeerAccess) : Bool := s.inbound.any (fun x => x.access = r && x.batch.isNone)

/-- The fault of a peer's access is written, or joins the line. -/
def inboundPage (s : State) (r : PeerAccess) : State :=
  let rest := s.inbound.filter (fun x => !(x.access = r && x.batch.isNone))
  if fqRoom s 1 || fqServes s (.inbound r) 1 then
    let (b, s1) := fqBatch s [inboundRecord s r]
    inboundError { s1 with inbound := rest ++ [⟨r, some b⟩] } r PAGE
  else fqJoin { s with inbound := rest ++ [⟨r, none⟩] } (.inbound r)

/-- A peer's access is translated and performed here, or its fault is served by this device's memory manager (R321, R352). It
lies in one line; one of no bytes only asks. Its fault record, of an access that no core made, has CORE 0xFF and SLOT and PC 0 (log
entry 125), and waits in the line where it finds no room (R118). -/
def execInboundPeerAccess (r : PeerAccess) (s : State) : Host.Outcome State Fault Refusal :=
  let va := r.va.toNat
  let gen := astGen s r.asid
  let stale := r.mapgen ≠ 0 && r.mapgen ≠ gen
  let write := r.data.isSome || r.rmw.isSome
  if !powered s || !linkUp s r.peer || s.changing.contains r.asid || 128 < va % 128 + r.size || (r.rmw.isSome && (r.size ≠ 4 || va % 4 ≠ 0)) then .next s
  else if 2 ^ 52 < va + r.size || 2 ^ 52 ≤ va then .next (inboundError s r BOUNDS)
  else if inboundOwed s r then .next (inboundPage s r)
  else
    match walk s r.asid va with
    | .hole a => .fault (.noFrame a)
    | .absent =>
      if stale then .next (inboundError s r MAPGEN) else .next (inboundPage s r)
    | .ok p w _ =>
      if write && !w then .next (inboundError s r PERM)
      else if stale then .next (inboundError s r MAPGEN)
      else
        match p with
        | .peer _ _ => .next s
        | .here k => .next (inboundPerform s r k)

/-! Links (R349, R390 to R392) -/

def modPort (s : State) (p : Nat) (f : Port → Port) : State :=
  { s with ports := s.ports.set p (f (s.ports.getD p Port.reset)) }

/-- A flit is replayed; at 16 replays its port pauses to retrain (R390, R392). -/
def execFlitReplay (p count : Nat) (s : State) : Host.Outcome State Fault Refusal :=
  let pause : Port → Port := fun x => { x with state := 3 }
  if 18 ≤ p || count < 16 || !powered s || (s.ports.getD p Port.reset).state = 0 then .next s else .next (modPort s p pause)

/-- The width of a port, with what follows it (R391): at half width its send window and arbitration weight are halved, and it
costs twice as much in the routing tables. -/
def Port.atWidth (x : Port) (half : Bool) : Port :=
  { x with half := half, window := if half then 1 else 2, weight := if half then 1 else 2, cost := if half then 2 else 1 }

/-- A port after its retraining, with the lanes that failed in it: its width, and whether it is up (R391). -/
def Port.retrained (x : Port) (failed : BitVec 8) : Port :=
  let f := x.failed ||| failed
  let low := f &&& 0x0F ≠ 0
  let high := f &&& 0xF0 ≠ 0
  { x.atWidth (low != high) with
    failed := f
    retrains := if x.retrains = 255 || x.state = 0 then x.retrains else x.retrains + 1
    state := if low && high then 0 else 2 }

/-- Lanes of a port have failed: a link error record (R339, R340). -/
def laneError (s : State) (p : Nat) (failed : BitVec 8) : State :=
  if failed = 0 then s else pushError s (errorRecord s 7 0 none 0 (noCtx (portDie p)) 0 0 (portWord s p) (portDie p))

/-- Lanes of a port fail. One that is up pauses to retrain, and without a failure it has no cause; in any other state the event
ends its training, with the partner that it finds (R390 to R392; log entry 124). -/
def execRetrain (p : Nat) (failed : BitVec 8) (peer : BitVec 12) (s : State) : Host.Outcome State Fault Refusal :=
  if 18 ≤ p || !powered s then .next s
  else if (s.ports.getD p Port.reset).state = 2 then
    .next (if failed = 0 then s else laneError (modPort s p (fun x => { x with failed := x.failed ||| failed, state := 3 })) p failed)
  else .next (laneError (modPort s p (fun x => { x.retrained failed with peer := peer })) p failed)

/-- The host port recovers from an error; one that it cannot recover from is a link error record (R349), which names no core, the
code 0 and the port 0 (log entry 142). -/
def execPcieRecovery (ok : Bool) (s : State) : Host.Outcome State Fault Refusal :=
  if ok then .next s else .next (pushError s (errorRecord s 7 0 none 0 0xFF 0 0 0 0))

/-! Served faults (R118, R332, R333, R401) -/

/-- The memory manager passes the oldest batch; a peer whose access waited for it is told (R137, R352). -/
def execFaultBatchServed (s : State) : Host.Outcome State Fault Refusal :=
  match s.fqBatches with
  | [] => .next s
  | (_, p) :: r =>
    if !powered s then .next s
    else .next { s with fqBatches := r, fqConsumed := p, inbound := s.inbound.filter (fun x => x.batch.all (p < ·)) }

/-- A load, an atomic or an ACCRD of the context has not completed (R333, R190). -/
def Ctx.longPending (c : Ctx) : Bool := c.flights.any (fun f => f.kind == .load || f.kind == .atomic || f.opcode = 0x61)

/-- What a replaying context waits for has come: its batch is passed, or the notice of its request has arrived (R333). -/
def replayDue (s : State) (c : Ctx) : Bool :=
  match c.mode with
  | .page b => batchPassed s b
  | .notice id => !s.requests.any (fun r => r.id = id)
  | _ => false

/-- A replay begins at the checkpoint (R333, R334). -/
def execPageReplay (c : Nat) (s : State) : Host.Outcome State Fault Refusal :=
  match getCtx s c with
  | none => .next s
  | some x =>
    if replayDue s x && !x.longPending && powered s then
      .next { setCtx s x.restore with requests := s.requests.filter (fun r => !(r.ctx = c && r.asks)) }
    else .next s

/-- The lane stream issues a held atomic again (R332). -/
def execAtomicReissue (c : Nat) (s : State) : Host.Outcome State Fault Refusal :=
  match getCtx s c with
  | none => .next s
  | some x =>
    let due := match x.laneMode with
      | .atomic b => batchPassed s b
      | .notice id => !s.requests.any (fun r => r.id = id && r.retry)
      | _ => false
    if due && powered s then .next (setCtx s { x with laneMode := .run }) else .next s

/-- A context fetches again once its batch is passed (R401). -/
def execFetchRetry (c : Nat) (s : State) : Host.Outcome State Fault Refusal :=
  match getCtx s c with
  | none => .next s
  | some x =>
    if !powered s then .next s
    else
      let scalar := match x.mode with
        | .fetch b => batchPassed s b
        | _ => false
      let lane := match x.laneMode with
        | .fetch b => batchPassed s b
        | _ => false
      .next (setCtx s { x with mode := if scalar then .run else x.mode, laneMode := if lane then .run else x.laneMode })

end Sys2Proof.Machine
end

