-- ==== Sys2Proof/Machine/Regions.lean ====
section
/-! DEFINITION. The region tree and its budgets (R52, R53, R133, R134), frees (R62, R99, R104), completion records and
dependence counters (R136, R155), the ends of contexts and grids (R33, R50, R51, R208, R226), and the kill (R341). -/

namespace Sys2Proof.Machine

/-! The region tree (R52, R133, R134) -/

def Node.word (n : Node) (i : Nat) : Word := n.words.getD i 0
def Node.kind (n : Node) : Nat := bits (n.word 0) 2 0
def Node.parent (n : Node) : Nat := pair64 (n.word 2) (n.word 3)
def getNode (s : State) (addr : Nat) : Option Node := s.nodes.find? (fun n => n.addr == addr)

/-- The nodes from an address up to its tenant. -/
def chain (s : State) : Nat → Nat → List Node
  | 0, _ => []
  | n + 1, a =>
    match getNode s a with
    | none => []
    | some x => x :: (if x.kind = 0 then [] else chain s n x.parent)

/-- The launch-level node of a launch and those above it. -/
def Launch.region (l : Launch) : Nat := pair64 (l.words.getD 34 0) (l.words.getD 35 0)
def chainOf (s : State) (l : Launch) : List Node := chain s 4 l.region

/-- A node has its own value of the field of an override bit; a tenant always does (R52, R134). -/
def Node.overrides (n : Node) (bit : Nat) : Bool := n.kind = 0 || (n.word 0).getLsbD bit

/-- The node that gives the effective value of a field (R52). -/
def effNode (ns : List Node) (bit : Nat) : Option Node := ns.find? (fun n => n.overrides bit)
/-- The effective value of a field of w0. -/
def effField (ns : List Node) (bit h l : Nat) : Nat := (effNode ns bit).elim 0 (fun n => bits (n.word 0) h l)
def effPrio (ns : List Node) : Nat := effField ns 9 19 16
def effLattol (ns : List Node) : Nat := (effNode ns 14).elim 0 (fun n => (n.word 1).toNat)

/-- A node and those above it, for each node of a chain. -/
def suffixes : List Node → List (List Node)
  | [] => []
  | n :: r => (n :: r) :: suffixes r

/-- The nearest node of a chain that is a fault domain (R53). -/
def faultDomain (ns : List Node) : Option Node :=
  ((suffixes ns).find? (fun t => (t.head?.any (fun n => n.kind = 0)) || effField t 10 20 20 = 1)).bind List.head?

/-- What is budgeted (R52, R133): cores, vault units, HBM frames. -/
inductive Budget where
  | cores
  | vault
  | hbm
deriving DecidableEq, Repr

/-- A node's own budget, and what is charged to it now (R133). -/
def Node.budget (n : Node) : Budget → Nat
  | .cores => bits (n.word 4) 7 0
  | .vault => (n.word 5).toNat
  | .hbm => (n.word 6).toNat
def Node.used (n : Node) : Budget → Nat
  | .cores => n.usedCores
  | .vault => n.usedVault
  | .hbm => n.usedHbm

/-- The effective budget of the head of a chain (R52). -/
def effBudget (t : List Node) (b : Budget) : Nat := (effNode t 8).elim 0 (fun n => n.budget b)

/-- What the budgets of a launch's nodes leave. -/
def budgetLeft (s : State) (l : Launch) (b : Budget) : Nat :=
  (((suffixes (chainOf s l)).map (fun t => effBudget t b - t.head?.elim 0 (fun n => n.used b))).min?).getD 0

/-- The HBM budgets of a launch's nodes allow its placement: none of them is exceeded by what the memory manager has charged;
the placement takes no frame itself (R53, R358; log entry 100). -/
def hbmAllows (s : State) (l : Launch) : Bool :=
  (suffixes (chainOf s l)).all (fun t => t.head?.elim 0 (fun n => n.used .hbm) ≤ effBudget t .hbm)

/-- The checks of a region-update packet on a block (R134): its own fields, and its parent among the accepted nodes. NBV and
LEASE are checked where the block's own value is used: R304 runs a launch under a block that overrides nothing and holds 0
in both (log entry 19). -/
def nodeBad (s : State) (ws : List Word) : Bool :=
  let w (i : Nat) : Word := ws.getD i 0
  let kind := bits (w 0) 2 0
  let parent := pair64 (w 2) (w 3)
  let own (bit : Nat) : Bool := kind = 0 || (w 0).getLsbD bit
  3 < kind || (w 0 &&& 0xC00000F8) ≠ 0 || (w 4 &&& 0xFFFFFF00) ≠ 0 || w 7 ≠ 0 || w 11 ≠ 0 || (w 12 &&& 0xFFFF00FE) ≠ 0 ||
    (List.range 17).any (fun i => w (15 + i) ≠ 0) || (own 11 && (bits (w 0) 22 21 = 0 || bits (w 0) 22 21 = 3)) ||
    (own 12 && (bits (w 0) 27 23 < 8 || 16 < bits (w 0) 27 23)) ||
    (if kind = 0 then parent ≠ 0 else !((getNode s parent).any (fun p => p.kind < kind)))

/-- A block is accepted: its words replace those last accepted; charges and marks stay (R134). -/
def acceptNode (s : State) (asid : BitVec 16) (addr : Nat) (ws : List Word) : State :=
  match getNode s addr with
  | some _ => { s with nodes := s.nodes.map (fun n => if n.addr = addr then { n with words := ws, asid := asid } else n) }
  | none => { s with nodes := s.nodes ++ [⟨addr, asid, ws, 0, 0, 0, 0, false, 0, 0, []⟩] }

/-! Writes of the control cores -/

/-- Words at an address of a space, written by a control core at their home; none while the home or the space is not ready,
or the page is absent. -/
def deviceWrite (s : State) (asid : BitVec 16) (va : Nat) (ws : List Word) : Option State :=
  if s.changing.contains asid then none
  else
    match walk s asid va with
    | .ok (.here k) _ _ =>
      if lineReady s none (k / 128) then some (markWritten (cacheTouch (writeWords s k ws) (k / 128) true) (.here k)) else none
    | .ok (.peer d a) _ _ =>
      let bs := ws.flatMap wordBytes
      some (homePush s (.peer d (a / 128)) ((List.range bs.length).map (fun i => (a % 128 + i, bs.getD i 0))) none none true none
        0 none (some asid))
    | _ => none

/-- A core holds an allocation of a launch (R358). -/
def holdsCore (s : State) (l k : Nat) : Bool :=
  (getCore s k).rows.any (fun r => r.owner = l || (getCtx s r.owner).any (fun c => c.launch = l))

/-- Cores and vault units that a launch holds. -/
def coresHeld (s : State) (l : Launch) : Nat := ((List.range s.cores.length).filter (fun k => holdsCore s l.id k)).length
def vaultHeld (l : Launch) : Nat := (l.vruns.map (fun r => r.2.2.1)).sum

/-- The owner of the vault units that the memory manager allocates for a region (R90): a mark that no context and no launch has. -/
def regionOwner (addr : Nat) : Nat := 2 ^ 64 + addr

/-- The vault units allocated for a region. -/
def regionUnits (s : State) (addr : Nat) : Nat :=
  (s.vaults.map (fun v => ((v.units.filter (fun r => r.owner = regionOwner addr)).map Run.count).sum)).sum

/-- The charges of a node follow what the launches beneath it hold, and what the memory manager has given the regions beneath it
(R53, R90, R133). -/
def chargeNode (s : State) (n : Node) : State :=
  let ls := s.launches.filter (fun l => (chainOf s l).any (fun x => x.addr = n.addr))
  let ns := s.nodes.filter (fun x => (chain s 4 x.addr).any (fun y => y.addr = n.addr))
  let c := (ls.map (fun l => coresHeld s l)).sum
  let v := (ls.map vaultHeld).sum + (ns.map (fun x => regionUnits s x.addr)).sum
  let h := (ns.map Node.frames).sum
  if c = n.usedCores && v = n.usedVault && h = n.usedHbm then s
  else
    let s1 := { s with nodes := s.nodes.map (fun x =>
      if x.addr = n.addr then { x with usedCores := c, usedVault := v, usedHbm := h } else x) }
    postNode s1 n 8 [BitVec.ofNat 32 c, BitVec.ofNat 32 v, BitVec.ofNat 32 h]

def recharge (s : State) : State := s.nodes.foldl chargeNode s

/-! Frees (R62, R99, R104) -/

/-- The skim of `g` has begun since it was issued, as the counter stands. -/
def skimBegan (next g : BitVec 12) : Bool := 2047 ≤ (next.toNat + 2 * 4095 - 1 - g.toNat) % 4095

/-- The runs of a core that `p` names are freed; granules of a generation whose skim has begun are rewritten to tag 0 first
(R104). -/
def freeCoreRuns (p : Run → Bool) (s : State) (k : Nat) : State :=
  let c := getCore s k
  let began (r : Run) : Bool := p r && skimBegan c.genNext r.gen
  let rows := (c.rows.filter began).flatMap (fun r => (List.range r.count).map (fun i => r.first + i))
  let s1 := (c.tileRuns.filter began).foldl (fun s r => clearTags s (tileKey k r.first 0) (32 * r.count)) s
  setCore s1 k { c with
    rows := c.rows.filter (fun r => !p r)
    tileRuns := c.tileRuns.filter (fun r => !p r)
    slotRuns := c.slotRuns.filter (fun r => !p r)
    rewriting := c.rewriting ++ rows }

def freeRuns (p : Run → Bool) (s : State) : State := (List.range s.cores.length).foldl (freeCoreRuns p) s

/-- The units of a vault that a launch holds are freed. -/
def freeVaultRuns (l : Nat) (s : State) (v : Nat) : State :=
  let x := getVault s v
  let gone := x.units.filter (fun r => r.owner = l)
  let s1 := (gone.filter (fun r => skimBegan x.genNext r.gen)).foldl
    (fun s r => clearTags s (vaultKey v (r.first * 65536)) (1024 * r.count)) s
  setVault s1 v { x with units := x.units.filter (fun r => r.owner ≠ l) }

/-- A core no longer belongs to a task-mode grid. -/
def Core.leaveGrid (c : Core) : Core :=
  { c with grid := none, deque := [], ringPos := 0, ringCount := 0, popped := none, latch := none, retryAt := none }

/-- Everything that a launch holds by itself is freed: tables, vault units, grants, deques. -/
def freeLaunch (s : State) (l : Nat) : State :=
  let s1 := freeRuns (fun r => r.owner = l) s
  let s2 := (List.range s1.vaults.length).foldl (freeVaultRuns l) s1
  { s2 with
    cores := s2.cores.map (fun c => if c.grid = some l then c.leaveGrid else c)
    clusters := s2.clusters.map (fun c => { c with grants := c.grants.filter (fun g => g.grid ≠ l) }) }

/-- The lines that a context pinned are unpinned, where no other group of the core that stays pins them (R253). -/
def unpin (s : State) (stays : Nat → Bool) (c : Ctx) : State :=
  let held (t : LineTag) : Bool := s.ctxs.any (fun x => x.id ≠ c.id && x.core = c.core && stays x.id && x.pins.contains t)
  let k := getCore s c.core
  if c.pins.isEmpty then s
  else setCore s c.core { k with
    lines := k.lines.map (fun x => if c.pins.contains x.tag && !held x.tag then { x with pinned := false } else x) }

/-- A context is gone; its parent no longer waits for its reports (R33). -/
def dropCtx (s : State) (c : Ctx) : State :=
  let left : Ctx → Ctx := fun p => { p with gather := p.gather.map (fun r => if r.child = c.id then { r with live := false } else r) }
  let s1 := match c.parent with
    | some p => modCtx s p left
    | none => s
  { s1 with ctxs := s1.ctxs.filter (fun x => x.id ≠ c.id) }

/-! Completion records and dependence counters (R136, R155) -/

def completionWords (status code time node fault : Nat) : List Word :=
  let w (n : Nat) : Word := BitVec.ofNat 32 n
  [w (code * 256 + status), w time, w (time / 2 ^ 32), 0, w node, w (node / 2 ^ 32), w fault, w (fault / 2 ^ 32)]

/-- The completion record is written, and vector 0 raised; none while it cannot be. -/
def writeCompletion (s : State) (l : Launch) (die : BitVec 1) (status code node fault : Nat) : Option State :=
  (deviceWrite s l.asid (pair64 (l.words.getD 36 0) (l.words.getD 37 0))
    (completionWords status code (dieTime s die) node fault)).map (fun s1 => raiseVector s1 0)

def dropLaunch (s : State) (l : Nat) : State := { s with launches := s.launches.filter (fun x => x.id ≠ l) }

/-- A launch that only waits for its completion record is over once that is written; the record of one killed, malformed or never
placed bears die 0's copy of device time (R136; log entry 109). -/
def closeLaunch (s : State) (l : Launch) : State :=
  match l.stage with
  | .closing status code node fault =>
    (writeCompletion s l 0 status code node fault).elim s (fun s1 => recharge (dropLaunch s1 l.id))
  | _ => s

/-- The launch waits on a sink-mode counter at a place. -/
def depPlace (s : State) (l : Launch) : Xlat := walk s l.asid (pair64 (l.words.getD 38 0) (l.words.getD 39 0))
def Launch.sink (l : Launch) : Bool := (l.words.getD 0 0).getLsbD 2

/-- Its counter's launch has started and runs. -/
def Launch.started (l : Launch) : Bool := l.stage == .waiting || l.stage == .placed || l.stage == .preempted

/-- A misuse of a dependence counter: KIND 9 (R155, R340). -/
def counterError (s : State) (addr : Nat) (die : BitVec 1) : State :=
  pushError s (errorRecord s 9 0 none 0 (BitVec.ofNat 32 (die.toNat * 2 ^ 24 + 0xFF)) addr 0 0 die)

/-- How far an access of a grid's retirement has got: it is done, it goes on later, or its page is absent. -/
inductive Reach (α : Type) where
  | done (x : α)
  | later (s : State)
  | absent (va : Nat)

/-- A counter holds `v` after an add of −1: a zero notifies the parser, and an add after the start is an error (R155). -/
def depAfter (s : State) (place : Xlat) (addr : Nat) (v : Word) (die : BitVec 1) : State :=
  let on (l : Launch) : Bool := l.sink && depPlace s l = place
  let waiting := s.launches.filter (fun l => l.stage == .depend && on l)
  if !waiting.isEmpty then (if v = 0 then { s with notes := s.notes ++ waiting.map Launch.id } else s)
  else if s.launches.any (fun l => l.started && on l) then counterError s addr die
  else s

/-- An add of −1 to a successor's counter at its home, in this device, the host or a peer (R155, R310). -/
def depAdd (s : State) (g : Ctx) (asid : BitVec 16) (addr : Nat) : Reach State :=
  let place := walk s asid addr
  match place with
  | .ok (.here k) _ _ =>
    if !lineReady s none (k / 128) then .later s
    else
      let v := readWord s k - 1
      .done (depAfter (markWritten (cacheTouch (writeWord s k v) (k / 128) true) (.here k)) place addr v g.die)
  | .ok (.peer d a) _ _ =>
    (match scalarPeer s g d a (.rmw false 0 [(0, a % 128, 0xFFFFFFFF, 0)]) asid (astGen s asid) false with
     | .error s1 => .later s1
     | .ok (bs, s1) => .done (depAfter s1 place addr (leWord ((bs.drop (a % 128)).take 4) - 1) g.die))
  | .absent => .absent addr
  | .hole _ => .later s

/-- A successor's counter address at index `i` (R135), held in `served` no longer than its add. -/
def depAddress (s : State) (g : Ctx) (l : Launch) (i : Nat) : Reach (Nat × State) :=
  let va := pair64 (l.words.getD 42 0) (l.words.getD 43 0) + 8 * i
  match walk s l.asid va with
  | .ok (.here k) _ _ => if readHeld s none (.here (k / 128)) then .later s else .done ((readDWord s k).toNat, s)
  | .ok (.peer d a) _ _ =>
    (match scalarPeer s g d a (.read false) l.asid (astGen s l.asid) false with
     | .error s1 => .later s1
     | .ok (bs, s1) => .done (leNat ((bs.drop (a % 128)).take 8), s1))
  | .absent => .absent va
  | .hole _ => .later s

/-- The two halves of a successor's decrement: odd phases read its counter's address, which `join` then holds, and even ones add
(R135, R155). An access of a space that is changing waits (R324). -/
def depStep (s : State) (g : Ctx) (l : Launch) : State :=
  let phase (f : Ctx → Ctx) (s : State) : State := modCtx s g.id (fun c => atPhase (g.phase + 1) (f c))
  if s.changing.contains l.asid && !scalarSent s g then s
  else if g.phase % 2 = 1 then
    match depAddress s g l ((g.phase - 1) / 2) with
    | .done (a, s1) => phase (fun c => { c with join := a }) s1
    | .later s1 => s1
    | .absent va => pageWait s g l.asid va
  else
    match depAdd s g l.asid g.join with
    | .done s1 => phase id s1
    | .later s1 => s1
    | .absent va => pageWait s g l.asid va

/-! Ends of contexts (R33, R50, R208) -/

/-- The last steps of a grid: the completion record, each successor's decrement, then its frees (R33, R50, R89, R155). -/
def retireGrid (s : State) (g : Ctx) (l : Launch) : State :=
  if g.owing.isSome then waitOwed s g (g.owing.getD [])
  else if g.phase = 0 then
    match writeCompletion s l g.die 1 0 0 0 with
    | some s1 => modCtx s1 g.id (atPhase 1)
    | none =>
      let va := pair64 (l.words.getD 36 0) (l.words.getD 37 0)
      if walk s l.asid va = .absent && !s.changing.contains l.asid then pageWait s g l.asid va else s
  else if g.phase ≤ 2 * bits (l.words.getD 41 0) 3 0 then depStep s g l
  else recharge (dropLaunch (dropCtx (freeLaunch s l.id) g) l.id)

/-- The MATRIX counters of a block's groups are zero (R33). -/
def matrixDone (s : State) (b : Ctx) : Bool := !(s.ops.any (fun o => o.cls = 1 && o.holder = b.id && o.stage ≠ .complete))

/-- A block's end: tiles, slots and scratchpads are freed and its tokens returned (R33, R355). -/
def endBlock (s : State) (b : Ctx) : State :=
  let s1 := dropCtx (freeRuns (fun r => r.owner = b.id) s) b
  let s2 := match getLaunch s1 b.launch with
    | some l => setLaunch s1 { l with tokens := l.tokens - b.cores.length }
    | none => s1
  recharge s2

/-- A group's or task's frees (R208 step 4), and its operations that had completed. -/
def endGroup (s : State) (c : Ctx) : State :=
  let s1 := dropCtx (freeRuns (fun r => r.owner = c.id) (unpin s (fun _ => true) c)) c
  recharge { s1 with ops := s1.ops.filter (fun o => !(o.ctx = c.id && o.stage = .complete)) }

/-- A task decrements its join link (R226); an access of a space that is changing waits (R324). -/
def joinEnd (s : State) (c : Ctx) : Host.Outcome State Fault Refusal :=
  let asid := (getLaunch s c.launch).elim 0 Launch.asid
  if c.owing.isSome then .next (waitOwed s c (c.owing.getD []))
  else if s.changing.contains asid && !scalarSent s c then .next s
  else
    match joinPlace s c c.join with
    | .hole a => .fault (.noFrame a)
    | .absent => .next (pageWait s c asid c.join)
    | .ok _ w _ =>
      if !w then .next (takeFault s c PERM none false c.pc.toNat 0)
      else
        match joinDecrement s c c.join with
        | .error (.ue k) => .next (scalarUe s c c.pc.toNat k)
        | .error (.wait s1) => .next s1
        | .error (.away _) => .next s
        | .ok (s1, push) =>
          let held : Ctx → Ctx := fun c => { c with phase := 1, pushing := push }
          .next (modCtx s1 c.id held)

/-- A group's or task's end, step by step (R51, R208, R226). -/
def endLanes (s : State) (c : Ctx) : Host.Outcome State Fault Refusal :=
  if !c.laneIdle then .next s
  else if c.phase = 1 then
    match pushHeld s c with
    | none => .next s
    | some s1 => .next (addTask (endGroup s1 ((getCtx s1 c.id).getD c)) c.launch (· - 1))
  else
    match commit s c with
    | (s1, false) => .next s1
    | (s1, true) =>
      match (if scalarSent s1 c then (s1, true) else releaseSteps s1 ((getCtx s1 c.id).getD c) 4) with
      | (s2, false) => .next s2
      | (s2, true) =>
        let x := (getCtx s2 c.id).getD c
        if !c.task then .next (endGroup s2 x)
        else if x.join = 0 then .next (modCtx s2 c.id (atPhase 1))
        else joinEnd s2 x

/-- A context that waits in its END ends once its children have (R33). -/
def execContextEnd (c : Nat) (s : State) : Host.Outcome State Fault Refusal :=
  match getCtx s c with
  | none => .next s
  | some x =>
    if x.mode ≠ .ending || !(children s x).isEmpty || !powered s then .next s
    else if x.isGroup then endLanes s x
    else if x.level = 2 then (if matrixDone s x then .next (endBlock s x) else .next s)
    else if x.level = 3 then .next (dropCtx s x)
    else
      match getLaunch s x.launch with
      | some l => if taskMode s x then .next s else .next (retireGrid s x l)
      | none => .next s

/-- A task-mode grid retires once its task count is zero and its sequencer has reached END.grid (R50). -/
def execGridRetire (l : Nat) (s : State) : Host.Outcome State Fault Refusal :=
  match getLaunch s l, gridOf s l with
  | some x, some g =>
    if x.gridEnd && x.tasks = 0 && taskMode s g && g.mode == .ending && powered s then .next (retireGrid s g x) else .next s
  | _, _ => .next s

/-! The kill (R53, R341) -/

/-- The dirty bytes of a core's lines whose owner `p` names are discarded; the lines are fetched again (R88). -/
def discardDirty (p : Nat → BitVec 12 → Bool) (s : State) : State :=
  { s with cores := (List.range s.cores.length).map (fun k =>
      let c := getCore s k
      { c with lines := c.lines.map (fun x =>
          if x.dirty ≠ 0 && p k x.owner then { x with dirty := 0, owner := 0, scope := 0, leaseEnd := 0, bytes := [] } else x) }) }

/-- The completion record of a launch has been written: its grid retires, or has met a fault in what comes after (R33, R136). -/
def recorded (s : State) (l : Nat) : Bool := (gridOf s l).any (fun g => g.phase ≠ 0)

/-- What is outstanding of contexts that are killed: loads, and atomics that have been sent to a peer. Their returns are late
writes (R102, R341). -/
def outstanding (s : State) (cs : List Ctx) : List (Nat × Nat × Nat) :=
  cs.flatMap (fun c => (c.flights.filter (fun f => !f.accs.isEmpty && (f.kind == .load ||
    (f.kind == .atomic && s.requests.any (fun r => r.ctx = c.id && r.flight = some f.id))))).map (fun f => (c.id, f.id, c.core)))

/-- One launch beneath a killed node ends (R341): its contexts, queues, operations, frames and allocations go. Its completion
record is still to be written, unless its retirement had written it (R136). -/
def killLaunch (s : State) (l : Launch) (code node fault : Nat) : State :=
  let cs := s.ctxs.filter (fun c => c.launch = l.id)
  let mine (id : Nat) : Bool := cs.any (fun c => c.id = id)
  let owns (k : Nat) (g : BitVec 12) : Bool :=
    (getCore s k).rows.any (fun r => r.gen = g && (r.kind = 1 || r.kind = 2) && (mine r.owner || r.owner = l.id))
  let s1 := discardDirty owns (cs.foldl (fun s c => unpin s (fun i => !mine i) c) (cs.foldl dropWait s))
  let s2 := { s1 with
    ctxs := s1.ctxs.filter (fun c => c.launch ≠ l.id)
    saved := s1.saved.filter (fun x => x.launch ≠ l.id && !mine x.launch)
    ops := s1.ops.filter (fun o => o.launch ≠ l.id)
    requests := s1.requests.filter (fun r => !mine r.ctx)
    orphans := s1.orphans ++ outstanding s cs
    cores := s1.cores.map (fun c => { c with matq := c.matq.filter (fun x => !mine x.ctx || x.started) }) }
  let s3 := freeLaunch (freeRuns (fun r => mine r.owner) s2) l.id
  if recorded s l.id then dropLaunch s3 l.id
  else setLaunch s3 { l with stage := .closing 2 code node fault, tokens := 0, vruns := [], tasks := 0 }

/-- The launches beneath a node. -/
def beneath (s : State) (n : Node) : List Launch := s.launches.filter (fun l => (chainOf s l).any (fun x => x.addr = n.addr))

/-- A node is killed, by a fault of code `code` in the launch record at `fault` (R53, R133, R341). -/
def killNode (s : State) (n : Node) (code : BitVec 8) (fault : Nat) : State :=
  let closing (l : Launch) : Bool := match l.stage with
    | .closing _ _ _ _ => true
    | _ => false
  let ls := (beneath s n).filter (fun l => !closing l)
  let s1 := ls.foldl (fun s l => killLaunch s l code.toNat n.addr fault) s
  let s2 := { s1 with nodes := s1.nodes.map (fun x =>
    if x.addr = n.addr then { x with killed := true, kcode := code, klaunch := fault } else x) }
  let s3 := postNode s2 n 12 [BitVec.ofNat 32 (code.toNat * 256 + 1), BitVec.ofNat 32 fault, BitVec.ofNat 32 (fault / 2 ^ 32)]
  recharge { s3 with kills := s3.kills.filter (fun k => !ls.any (fun l => l.id = k.launch)) }

/-- The kill of the oldest fatal fault's domain acts; then the killed launches' completion records are written (R335, R341). -/
def execKill (s : State) : Host.Outcome State Fault Refusal :=
  if !powered s then .next s
  else
    match s.kills with
    | k :: r =>
      (match getLaunch s k.launch with
       | none => .next { s with kills := r }
       | some l =>
         match faultDomain (chainOf s l) with
         | none => .next { s with kills := r }
         | some n => .next (killNode { s with kills := r } n k.code l.addr))
    | [] => .next (s.launches.foldl closeLaunch s)

end Sys2Proof.Machine
end

