-- ==== Sys2Proof/Machine/Place.lean ====
section
/-! DEFINITION. Placement of launches (R28, R158, R355 to R360), pre-emption, saves and restores (R342 to R346, R365), the
parser's notifications (R155) and the active sets (R361 to R363). -/

namespace Sys2Proof.Machine

/-! Fields of a launch record (R135) -/

def Launch.word (l : Launch) (i : Nat) : Word := l.words.getD i 0
def Launch.taskMode (l : Launch) : Bool := (l.word 0).getLsbD 0
def Launch.vregs (l : Launch) : Nat := bits (l.word 1) 23 16
def Launch.pathCount (l : Launch) : Nat := bits (l.word 1) 13 8 + 1
def Launch.laneCount (l : Launch) : Nat := bits (l.word 1) 5 0 + 1
def Launch.wslots (l : Launch) : Nat := bits (l.word 2) 29 21
def Launch.tiles (l : Launch) : Nat := bits (l.word 2) 20 12
def Launch.scr (l : Launch) : Nat := bits (l.word 2) 11 0
def Launch.gpb (l : Launch) : Nat := bits (l.word 3) 6 0
def Launch.blocks (l : Launch) : Nat := bits (l.word 4) 15 0 * bits (l.word 4) 31 16 * bits (l.word 5) 15 0
def Launch.vunits (l : Launch) : Nat := bits (l.word 5) 31 16
/-- Its blocks use the matrix array (R355). -/
def Launch.matrix (l : Launch) : Bool := l.tiles ≠ 0 || l.wslots ≠ 0
/-- The entry segment of a level (R135). -/
def Launch.entry (l : Launch) (level : Nat) : Nat :=
  match level with
  | 4 => bits (l.word 13) 15 0
  | 3 => bits (l.word 13) 31 16
  | 2 => bits (l.word 14) 15 0
  | _ => bits (l.word 14) 31 16
/-- The four arguments of a level (R31, R135). -/
def Launch.args (l : Launch) (level : Nat) : List Word := (List.range 4).map (fun i => l.word (16 + 4 * (4 - level) + i))

/-! The plan of a block-mode grid (R358, R359) -/

/-- A core as the plan sees it: what it already holds and what the plan has put on it. -/
structure View where
  core : Nat
  k : Core
  used : List Nat
  /-- Blocks of this grid. -/
  blocks : Nat

structure GroupPlan where
  ix : Nat
  core : Nat
  slot : Nat
  base : Nat
deriving DecidableEq, Repr

structure BlockPlan where
  ix : Nat
  cluster : Nat
  row : Nat
  /-- Each core with its tile base and its weight-slot base. -/
  cores : List (Nat × Nat × Nat)
  groups : List GroupPlan
deriving DecidableEq, Repr

structure Plan where
  views : List View
  /-- Clusters in the order taken, with the first vault unit of each. -/
  held : List (Nat × Nat)
  blocks : List BlockPlan
  coresLeft : Nat
  vaultLeft : Nat

def viewOf (s : State) (p : Plan) (k : Nat) : View := (p.views.find? (fun v => v.core = k)).getD ⟨k, getCore s k, usedSlots s k, 0⟩

def addRow (k : Core) (first n : Nat) (kind : BitVec 3) : Core := { k with rows := k.rows ++ [⟨first, n, 0, kind, false, 0⟩] }

/-- Groups of a block take the lowest runs of rows and the slots of R359. -/
def fitGroups (vregs : Nat) : Nat → Nat → View → Option (View × List GroupPlan)
  | 0, _, v => some (v, [])
  | n + 1, ix, v =>
    match freeRows v.k vregs, chooseSlot v.used with
    | some b, some sl =>
      (fitGroups vregs n (ix + 1) { v with k := addRow v.k b vregs 1, used := sl :: v.used }).map
        (fun r => (r.1, ⟨ix, v.core, sl, b⟩ :: r.2))
    | _, _ => none

/-- One core of a block: the block allocation at `row`, tiles, weight slots and `n` groups from `ix` on (R83, R358). -/
def fitCore (l : Launch) (row n ix : Nat) (v : View) : Option (View × Nat × Nat × List GroupPlan) :=
  let k1 := addRow v.k row (16 + l.scr) 2
  match freeUnits k1.tileRuns l.tiles, freeUnits k1.slotRuns l.wslots with
  | some t, some w =>
    let k2 := { k1 with
      tileRuns := k1.tileRuns ++ [⟨t, l.tiles, 0, 6, false, 0⟩]
      slotRuns := k1.slotRuns ++ [⟨w, l.wslots, 0, 7, false, 0⟩] }
    match fitGroups l.vregs n ix { v with k := k2 } with
    | some (v1, gs) =>
      if registerRows v1.k ≤ 4096 && 512 ≤ l1Rows v1.k then some ({ v1 with blocks := v1.blocks + 1 }, t, w, gs) else none
    | none => none
  | _, _ => none

/-- The cores of a set, in ascending order, with equal shares of the groups (R359). -/
def fitCores (l : Launch) (row n : Nat) : Nat → Nat → List View → Option (List (View × Nat × Nat × List GroupPlan))
  | _, _, [] => some []
  | i, ix, v :: r =>
    let m := l.gpb / n + (if i < l.gpb % n then 1 else 0)
    (fitCore l row m ix v).bind (fun x => (fitCores l row n (i + 1) (ix + m) r).map (fun xs => x :: xs))

/-- The sets of `n` members, in lexicographic order of positions. -/
def combos {α : Type} : List α → Nat → List (List α)
  | _, 0 => [[]]
  | [], _ + 1 => []
  | x :: r, n + 1 => (combos r n).map (fun c => x :: c) ++ combos r (n + 1)

/-- Insertion into a list that `le` orders; equal members keep their order. -/
def insertBy {α : Type} (lt : α → α → Bool) (x : α) : List α → List α
  | [] => [x]
  | y :: r => if lt x y then x :: y :: r else y :: insertBy lt x r

def sortBy {α : Type} (lt : α → α → Bool) (l : List α) : List α := l.foldl (fun acc x => insertBy lt x acc) []

/-- The lowest row at which `n` rows are free on every core of a set (R76, R85). -/
def commonRow (vs : List View) (n : Nat) : Option Nat := freeRunFrom (fun i => vs.all (fun v => rowFree v.k i)) n 0 0 6144

/-- The first set of cores, of the fewest cores, that holds the block (R359). -/
def chooseCores (l : Launch) (order : List View) (fresh : View → Bool) (left grants : Nat) :
    Option (Nat × List (View × Nat × Nat × List GroupPlan)) :=
  let sizes := (List.range (min 4 l.gpb)).map (· + 1)
  let sets := sizes.flatMap (fun n => if 64 < grants + n then [] else combos order n)
  sets.findSome? (fun pick =>
    let vs := sortBy (fun a b => a.core < b.core) pick
    if left < (vs.filter fresh).length then none
    else (commonRow vs (16 + l.scr)).bind (fun row => (fitCores l row vs.length 0 0 vs).map (fun x => (row, x))))

/-- The lowest free run of directly addressed units of a vault (R90). -/
def freeVault (v : Vault) (n : Nat) : Option Nat :=
  freeRunFrom (fun i => (ownerOf v.units i).isNone && i < (16 - v.share) * 16) n 0 0 256

/-- Block `ix` on cluster `cl`, if it fits there (R358). -/
def planBlock (s : State) (l : Launch) (cl ix : Nat) (p : Plan) : Option Plan :=
  let new := !p.held.any (fun h => h.1 = cl)
  let mine := p.blocks.filter (fun b => b.cluster = cl)
  let seqs (level : BitVec 3) : Nat := (s.ctxs.filter (fun c => c.level == level && c.cluster = cl)).length
  let unit := if new && l.vunits ≠ 0 then freeVault (getVault s cl) l.vunits else some 0
  let cores := ((List.range 4).map (fun j => 4 * cl + j)).filter (fun k => !evicted s k)
  let order := sortBy (fun (a b : View) => a.blocks < b.blocks) (cores.map (viewOf s p))
  let taken (v : View) : Bool := p.blocks.any (fun b => b.cores.any (fun c => c.1 = v.core))
  if (getCluster s cl).excluded || (new && 16 ≤ seqs 3) || 128 ≤ seqs 2 + mine.length || (new && p.vaultLeft < l.vunits) then none
  else
    match unit with
    | none => none
    | some u =>
      (chooseCores l order (fun v => !taken v) p.coresLeft
          ((getCluster s cl).grants.length + (mine.map (fun b => b.cores.length)).sum)).map (fun r =>
        let vs := r.2.map (fun x => x.1)
        { views := p.views.filter (fun v => !vs.any (fun w => w.core = v.core)) ++ vs
          held := if new then p.held ++ [(cl, u)] else p.held
          blocks := p.blocks ++ [⟨ix, cl, r.1, r.2.map (fun x => (x.1.core, x.2.1, x.2.2.1)), r.2.flatMap (fun x => x.2.2.2)⟩]
          coresLeft := p.coresLeft - (vs.filter (fun v => !taken v)).length
          vaultLeft := if new then p.vaultLeft - l.vunits else p.vaultLeft })

/-- The blocks from `ix` on, each at the first cluster where it fits (R358). -/
def planBlocks (s : State) (l : Launch) (start : Nat) : Nat → Nat → Plan → Option Plan
  | 0, _, p => some p
  | n + 1, ix, p =>
    (((List.range 48).map (fun i => (start + i) % 48)).findSome? (fun cl => planBlock s l cl ix p)).bind
      (fun p1 => planBlocks s l start n (ix + 1) p1)

/-- The lowest cluster that has a free cluster-sequencer context and a core with a free slot (R358). -/
def startCluster (s : State) : Option Nat :=
  (List.range 48).find? (fun cl => (s.ctxs.filter (fun c => c.level == 3 && c.cluster = cl)).length < 16 &&
    (List.range 4).any (fun j => (usedSlots s (4 * cl + j)).length < 128))

def planGrid (s : State) (l : Launch) : Option Plan :=
  (startCluster s).bind (fun c => planBlocks s l c l.blocks 0 ⟨[], [], [], budgetLeft s l .cores, budgetLeft s l .vault⟩)

/-- The cores of a task-mode grid, each with the row of its table (R360). -/
def planTasks (s : State) (l : Launch) : List (Nat × Nat) :=
  let ok (k : Nat) : Option (Nat × Nat) :=
    let c := getCore s k
    if c.grid.isSome || evicted s k || 128 ≤ (usedSlots s k).length || (getCluster s (k / 4)).excluded || l1Rows c < 16 + 512 then none
    else (freeRows c 16).map (fun r => (k, r))
  ((List.range s.cores.length).filterMap ok).take (min 192 (budgetLeft s l .cores))

/-- A grid context of the die is free (R16, R358). -/
def gridFree (s : State) (d : BitVec 1) : Bool := (s.ctxs.filter (fun c => c.level == 4 && c.die = d)).length < 32

/-- The tokens that a block takes: one for each core on which it places groups (R355). -/
def Launch.blockTokens (l : Launch) (cores : Nat) : Nat := if l.token && l.matrix then cores else 0

/-- The launch fits now; with the tokens that its blocks take, block by block (R355, R358, R360). -/
def fitTokens (s : State) (l : Launch) : Option (List Nat) :=
  if !hbmAllows s l then none
  else if l.taskMode then
    match planTasks s l with
    | [] => none
    | (k, _) :: _ => if gridFree s (clusterDie (k / 4)) then some [] else none
  else
    match planGrid s l with
    | none => none
    | some p =>
      if gridFree s (clusterDie (p.held.headD (0, 0)).1) then
        some (p.blocks.map (fun b => l.blockTokens b.cores.length))
      else none

/-- The same, with all the tokens together. -/
def fits (s : State) (l : Launch) : Option Nat := (fitTokens s l).map List.sum

/-- The device with nothing on it (R28). -/
def emptied (s : State) : State :=
  { s with
    ctxs := []
    cores := s.cores.map (fun c => { c with rows := [], tileRuns := [], slotRuns := [], rewriting := [], grid := none })
    clusters := s.clusters.map (fun c => { c with grants := [], excluded := false })
    vaults := s.vaults.map (fun v => { v with units := [] })
    nodes := s.nodes.map (fun n => { n with usedCores := 0, usedVault := 0, usedHbm := 0 }) }

/-! Creating the contexts -/

/-- Generations issued to a plan: kind, core, block or group number (block × 64 + group), generation. -/
abbrev Issued := List (Nat × Nat × Nat × BitVec 12)

def Issued.get (g : Issued) (kind core n : Nat) : BitVec 12 :=
  ((g.find? (fun x => x.1 = kind && x.2.1 = core && x.2.2.1 = n)).map (fun x => x.2.2.2)).getD 0

/-- Numbers of the contexts of a grid from its first identity on: the grid, clusters, blocks, groups. -/
def blockId (base clusters ix : Nat) : Nat := base + 1 + clusters + ix
def groupId (l : Launch) (base clusters ix g : Nat) : Nat := base + 1 + clusters + l.blocks + ix * l.gpb + g

/-- The allocations of a plan on one core, in the order of R158: blocks, tile runs, registers in ascending slot. Weight slots take
no generation (R158): their entry of the allocation table has kind 7 and generation 0 (R131; log entry 104). -/
def allocCore (l : Launch) (base clusters k : Nat) (bs : List BlockPlan) (c : Core) : Core × Issued :=
  let here := bs.filter (fun b => b.cores.any (fun x => x.1 = k))
  let one (acc : Core × Issued) (b : BlockPlan) : Core × Issued :=
    let r := takeRows acc.1 b.row (16 + l.scr) 2 l.stale (blockId base clusters b.ix)
    (r.2, acc.2 ++ [(2, k, b.ix, r.1)])
  let two (acc : Core × Issued) (b : BlockPlan) : Core × Issued :=
    let x := (b.cores.find? (fun x => x.1 = k)).getD (k, 0, 0)
    let id := blockId base clusters b.ix
    let r := if l.tiles = 0 then (0, acc.1) else takeTiles acc.1 x.2.1 l.tiles l.stale id
    let c1 := if l.wslots = 0 then r.2
      else { r.2 with
        slotRuns := r.2.slotRuns ++ [⟨x.2.2, l.wslots, 0, 7, l.stale, id⟩]
        valid := r.2.valid.filter (fun w => w < x.2.2 || x.2.2 + l.wslots ≤ w) }
    (c1, acc.2 ++ [(6, k, b.ix, r.1)])
  let gs := sortBy (fun (a b : Nat × GroupPlan) => a.2.slot < b.2.slot)
    (here.flatMap (fun b => (b.groups.filter (fun g => g.core = k)).map (fun g => (b.ix, g))))
  let three (acc : Core × Issued) (g : Nat × GroupPlan) : Core × Issued :=
    let r := takeRows acc.1 g.2.base l.vregs 1 l.stale (groupId l base clusters g.1 g.2.ix)
    (r.2, acc.2 ++ [(1, k, g.1 * 64 + g.2.ix, r.1)])
  gs.foldl three (here.foldl two (here.foldl one (c, [])))

/-- Values that the plan issues on a core. -/
def issueCount (l : Launch) (k : Nat) (bs : List BlockPlan) : Nat :=
  (bs.map (fun b => if b.cores.any (fun x => x.1 = k) then (if l.tiles = 0 then 1 else 2) + (b.groups.filter (fun g => g.core = k)).length else 0)).sum

/-- A context of a launch as it starts: its arguments, the sampled region values, its place (R31, R77, R81). -/
def seedCtx (l : Launch) (id level : Nat) (parent : Option Nat) (cluster : Nat) (children : List Nat) : Ctx :=
  let c := newCtx id (BitVec.ofNat 3 level) l.id parent (l.entry level) (if level = 1 then l.laneCount else 0)
    (if level = 1 then l.pathCount else 1)
  { c with
    sregs := (c.setSregRun 248 (l.args level)).sregs
    nbv := l.nbv, polVlt := l.stale, polAcc := l.stale, polScr := l.stale, polReg := l.stale
    die := clusterDie cluster, cluster := cluster, clusterIx := cluster, entered := id
    gather := children.map (fun i => ⟨i, true, none⟩) }

/-- The buffer-record image is loaded into a table (R124, R135, R360). -/
def loadImage (s : State) (l : Launch) (k row : Nat) (g : BitVec 12) : State :=
  writeTagged s (coreKey k (row * 256)) g (l.image.flatMap wordBytes)

/-- A launch takes the region values in force (R80, R134). -/
def sampleRegion (s : State) (l : Launch) : Launch :=
  let ns := chainOf s l
  { l with
    lease := effField ns 12 27 23, stale := effField ns 13 28 28 = 1, nbv := BitVec.ofNat 2 (effField ns 11 22 21)
    rawdbg := effField ns 15 29 29 = 1 }

/-- A block-mode grid comes into being by its plan (R28, R89, R158, R358, R359). R131 lists no kind for the units of a vault, and
calls 0 free: an owned run has kind 2 (log entry 121). -/
def placeGrid (s : State) (l0 : Launch) (p : Plan) : State :=
  let l := sampleRegion s l0
  let base := s.nextId
  let clusters := p.held.length
  let cores := (p.views.map (fun v => v.core))
  let alloc := cores.map (fun k => (k, allocCore l base clusters k p.blocks (getCore s k)))
  let g : Issued := alloc.flatMap (fun x => x.2.2)
  let s1 := alloc.foldl (fun s x => setCore s x.1 x.2.1) s
  let s2 := if l.vunits = 0 then s1 else p.held.foldl (fun s h =>
    let r := (getVault s h.1).issueGen
    setVault s h.1 { r.2 with units := r.2.units ++ [⟨h.2, l.vunits, r.1, 2, l.stale, l.id⟩] }) s1
  let vruns := if l.vunits = 0 then [] else p.held.map (fun h => (h.1, h.2, l.vunits, (getVault s h.1).issueGen.1))
  let cix (cl : Nat) : Nat := (p.held.map Prod.fst).idxOf cl
  let die := clusterDie (p.held.headD (0, 0)).1
  let grid : Ctx := { seedCtx l base 4 none (die.toNat * 24) ((List.range clusters).map (fun i => base + 1 + i)) with die := die }
  let clusterCtx (i : Nat) : Ctx :=
    let cl := (p.held.getD i (0, 0)).1
    { seedCtx l (base + 1 + i) 3 (some base) cl ((p.blocks.filter (fun b => b.cluster = cl)).map (fun b => blockId base clusters b.ix)) with
      childIx := i, cctx := i }
  let first (b : BlockPlan) : Nat × Nat × Nat := b.cores.headD (0, 0, 0)
  let blockCtx (b : BlockPlan) : Ctx :=
    let k := (first b).1
    { seedCtx l (blockId base clusters b.ix) 2 (some (base + 1 + cix b.cluster)) b.cluster
        ((List.range l.gpb).map (fun i => groupId l base clusters b.ix i)) with
      childIx := ((p.blocks.filter (fun x => x.cluster = b.cluster)).map (fun x => x.ix)).idxOf b.ix
      blockIx := b.ix, cctx := cix b.cluster, core := k, table := b.row, tableGen := g.get 2 k b.ix
      scrRow := b.row + 16, scrRows := l.scr, scrGen := g.get 2 k b.ix, tileBase := (first b).2.1, tiles := l.tiles
      tileGen := g.get 6 k b.ix, slotBase := (first b).2.2, wslots := l.wslots, cores := b.cores.map Prod.fst }
  let groupCtx (b : BlockPlan) (x : GroupPlan) : Ctx :=
    let u := (b.cores.find? (fun c => c.1 = x.core)).getD (first b)
    { seedCtx l (groupId l base clusters b.ix x.ix) 1 (some (blockId base clusters b.ix)) b.cluster [] with
      childIx := x.ix, groupIx := x.ix, blockIx := b.ix, cctx := cix b.cluster, core := x.core, slot := x.slot
      vregs := l.vregs, regBase := x.base, regGen := g.get 1 x.core (b.ix * 64 + x.ix), table := b.row
      tableGen := g.get 2 x.core b.ix, scrRow := b.row + 16, scrRows := l.scr, scrGen := g.get 2 x.core b.ix
      tileBase := u.2.1, tiles := l.tiles, tileGen := g.get 6 x.core b.ix, slotBase := u.2.2, wslots := l.wslots }
  let seqs := grid :: (List.range clusters).map clusterCtx ++ p.blocks.map blockCtx
  let groups := p.blocks.flatMap (fun b => b.groups.map (groupCtx b))
  let s3 := { s2 with
    ctxs := groups.foldl (addGroup base) (s2.ctxs ++ seqs)
    nextId := base + 1 + clusters + l.blocks + l.blocks * l.gpb }
  let s4 := p.blocks.foldl (fun s b => b.cores.foldl (fun s c => loadImage s l c.1 b.row (g.get 2 c.1 b.ix)) s) s3
  let s5 := p.blocks.foldl (fun s b =>
    let k := getCluster s b.cluster
    setCluster s b.cluster { k with grants := k.grants ++ b.cores.map (fun c =>
      ⟨l.id, blockId base clusters b.ix, c.1, b.row, 16 + l.scr, g.get 2 c.1 b.ix⟩) }) s4
  recharge (setLaunch (cores.foldl rowsTaken s5) { l with stage := .placed, moved := base, cores := cores, vruns := vruns, late := false })

/-- A task-mode grid takes its cores: a table on each, the root frame on the lowest (R50, R360). -/
def placeTasks (s : State) (l0 : Launch) (ks : List (Nat × Nat)) : State :=
  let l := sampleRegion s l0
  let base := s.nextId
  let root := (List.range 16).map (fun i => l.word (48 + i))
  let s1 := ks.foldl (fun s x =>
    let r := takeRows (getCore s x.1) x.2 16 2 l.stale l.id
    let c : Core := { r.2.leaveGrid with grid := some l.id, deque := if some x = ks.head? then [root] else [] }
    rowsTaken (loadImage (setCore s x.1 c) l x.1 x.2 r.1) x.1) s
  let die := clusterDie ((ks.headD (0, 0)).1 / 4)
  let grid : Ctx := { seedCtx l base 4 none (die.toNat * 24) [] with die := die }
  recharge (setLaunch { s1 with ctxs := s1.ctxs ++ [grid], nextId := base + 1 }
    { l with stage := .placed, moved := base, cores := ks.map Prod.fst, tasks := 1, late := false })

/-! Order of placement, tokens (R355, R357) -/

def prioOf (s : State) (l : Launch) : Nat := effPrio (chainOf s l)

/-- `a` comes before `b` in the order of placement. -/
def before (s : State) (a b : Launch) : Bool := prioOf s b < prioOf s a || (prioOf s a = prioOf s b && a.order < b.order)

/-- `y` comes before `x` among the launches that `wants` admits (R357): a pre-empted one before placements of equal or lower
priority, and before what was pre-empted later; a placement of higher priority before a restore, unless a restore that comes
before that placement is wanted too. -/
def comesFirst (s : State) (wants : Launch → Bool) (y x : Launch) : Bool :=
  let restored (z p : Launch) : Bool := z.stage == .preempted && wants z && prioOf s p ≤ prioOf s z
  if y.stage == .preempted then (if x.stage == .preempted then y.moved < x.moved else prioOf s x ≤ prioOf s y)
  else if x.stage == .preempted then prioOf s x < prioOf s y && !s.launches.any (fun z => restored z y)
  else before s y x

/-- Something that `wants` admits comes before `x`. -/
def heldBack (s : State) (wants : Launch → Bool) (x : Launch) : Bool :=
  s.launches.any (fun y => y.id ≠ x.id && wants y && comesFirst s wants y x)

def tokensHeld (s : State) : Nat := (s.launches.map (fun l => l.tokens)).sum
/-- TOKPOOL.FREE (R356). -/
def tokensFree (s : State) : Nat := s.tokSize.toNat - tokensHeld s

/-- The launch could be placed now. -/
def ready (s : State) (l : Launch) : Bool := l.stage == .waiting && (fits s l).any (fun n => n ≤ l.tokens)

/-- The generations that a plan issues may all be issued (R104). -/
def gensReady (s : State) (l : Launch) (p : Plan) : Bool :=
  p.views.all (fun v => (getCore s v.core).issueReady (issueCount l v.core p.blocks)) &&
    (l.vunits = 0 || p.held.all (fun h => (getVault s h.1).issueReady 1))

/-- The tokens of a launch's blocks that are to be placed, or placed again by a restore, block by block. -/
def tokenBlocks (s : State) (l : Launch) : List Nat :=
  match l.stage with
  | .waiting => (fitTokens s l).getD []
  | .preempted =>
    (s.saved.filter (fun x => x.launch = l.id)).flatMap (fun x => (x.parts.filter (fun p => p.ctx.level = 2)).map (fun p =>
      l.blockTokens p.ctx.cores.length))
  | _ => []

/-- Tokens that a launch still has to take before all its blocks hold theirs. -/
def tokensWanted (s : State) (l : Launch) : Nat := (tokenBlocks s l).sum - l.tokens

/-- The tokens of the next block that has not taken its own: the shortest run of blocks that needs more than is held. -/
def nextTokens (held : Nat) : List Nat → Nat → Nat
  | [], _ => 0
  | b :: r, sum => if held < sum + b then sum + b - held else nextTokens held r (sum + b)

/-- The next block of a launch takes all its tokens at once, in the order of placements and restores (R355 to R357). -/
def execTokenGrant (l : Nat) (s : State) : Host.Outcome State Fault Refusal :=
  match getLaunch s l with
  | none => .next s
  | some x =>
    let n := nextTokens x.tokens (tokenBlocks s x) 0
    if n = 0 || tokensFree s < n || !powered s || heldBack s (fun y => tokensWanted s y ≠ 0) x then .next s
    else .next (setLaunch s { x with tokens := x.tokens + n })

/-- The parser starts the launch whose dependence counter came to zero (R155). -/
def execDepNotification (s : State) : Host.Outcome State Fault Refusal :=
  match s.notes with
  | [] => .next s
  | id :: r =>
    let s1 := { s with notes := r }
    match getLaunch s id with
    | some l => if l.stage == .depend then .next (setLaunch s1 { l with stage := .waiting, since := s.time0 }) else .next s1
    | none => .next s1

/-- A launch has waited longer than its effective LATTOL (R357). -/
def execLattolExpiry (l : Nat) (s : State) : Host.Outcome State Fault Refusal :=
  match getLaunch s l with
  | none => .next s
  | some x =>
    if x.stage == .waiting && x.since + effLattol (chainOf s x) * 1000 < s.time0 && powered s then
      .next (setLaunch s { x with late := true })
    else .next s

/-! Saves (R342, R343) -/

/-- The granules of a run that its generation wrote and `keep` admits. -/
def saveRun (s : State) (key n : Nat) (g : BitVec 12) (keep : Nat → Bool) : SavedRun :=
  let ts := (List.range n).filter (fun i => keep i && tagAt s (key + 64 * i) = g)
  { bytes := ts.flatMap (fun i => (List.range 64).filterMap (fun j =>
      let b := memRead s.mem (key + 64 * i + j)
      if b = 0 then none else some (64 * i + j, b)))
    tags := ts
    bad := ts.filter (fun i => poisonAt s (key + 64 * i)) }

/-- Granules come back: those saved under the generation, the others as not written (R346). -/
def loadRun (s : State) (key n : Nat) (g : BitVec 12) (r : SavedRun) : State :=
  (List.range n).foldl (fun s i =>
    let k := key + 64 * i
    if r.tags.contains i then
      let s1 := clearPoison (setTag (writeBytes s k ((List.range 64).map (fun j => sget 0 r.bytes (64 * i + j)))) k g) k
      if r.bad.contains i then { s1 with poison := s1.poison ++ [granule k] } else s1
    else setTag s k 0) s

/-- `n` free masks, for predicates that a compact save does not hold. -/
def drawMasks (s : State) : Nat → List LaneMask × State
  | 0 => ([], s)
  | n + 1 =>
    let (a, s1) := drawFree s
    let (b, s2) := drawFree s1
    let (r, s3) := drawMasks s2 n
    ((b ++ a) :: r, s3)

/-- A group as a compact save leaves it: at its replay point, without what its live-mask word leaves out (R342, R343, R346). One
whose replay waits for a batch or a notice still waits when it is restored (R333, R350). -/
def compactCtx (s : State) (c : Ctx) : Ctx × State :=
  let x := c.restore
  let live (n : Nat) : Bool := c.live.elim true (fun w => liveScalar w n)
  let mode := match c.mode with
    | .page b => .page b
    | .notice r => .notice r
    | _ => x.mode
  let y : Ctx := { x with
    mode := mode
    sregs := x.sregs.filter (fun r => live r.1)
    sregBad := x.sregBad.filter (fun n => 252 ≤ n || live n)
    rsb := [] }
  if liveBit c false 1 then (y, s)
  else
    let (ps, s1) := drawMasks s 7
    ({ y with preds := ps, sregBad := y.sregBad.filter (· < 512) }, s1)

/-- The tiles and slots that a run holds on a core: of a tile whose contents are not saved, the version alone (R343). -/
def saveTiles (s : State) (k : Nat) (r : Run) (whole : Bool) : List (Tile × SavedRun) :=
  (List.range r.count).map (fun i =>
    let t := tileOf s k (r.first + i)
    (if whole then t else { t with opened := false, count := 0 }, saveRun s (tileKey k (r.first + i) 0) 32 r.gen (fun _ => whole)))
def saveSlots (s : State) (k : Nat) (r : Run) (whole : Bool) : List (Bool × SavedRun) :=
  (List.range r.count).map (fun i =>
    ((getCore s k).valid.contains (r.first + i) && whole, saveRun s (slotKey k (r.first + i) 0) 16 0 (fun _ => whole)))

/-- What a save keeps of one core's stores for an owner: `scr` and `whole` tell whether the scratchpad, and the tiles and
slots, are saved (R343). -/
def saveStore (s : State) (owner k : Nat) (scr whole : Bool) : SavedStore :=
  let c := getCore s k
  let rows := c.rows.find? (fun r => r.owner = owner && (r.kind = 2 || r.kind = 3))
  let tiles := c.tileRuns.find? (fun r => r.owner = owner)
  let slots := c.slotRuns.find? (fun r => r.owner = owner)
  let none0 : SavedRun := ⟨[], [], []⟩
  let table (r : Run) : Nat := if r.kind = 2 then 16 else 0
  { rows := rows, tileRun := tiles, slotRun := slots
    table := rows.elim none0 (fun r => saveRun s (coreKey k (r.first * 256)) (4 * table r) r.gen (fun _ => true))
    scr := rows.elim none0 (fun r => saveRun s (coreKey k ((r.first + table r) * 256)) (4 * (r.count - table r)) r.gen (fun _ => scr))
    tiles := tiles.elim [] (fun r => saveTiles s k r whole)
    slots := slots.elim [] (fun r => saveSlots s k r whole) }

/-! Where a context can be stopped (R342) -/

/-- The group is suspended at the wait whose word stands at its pc: a LANE with the clause queue full, LSYNC, PTOS, VTOS, WAITF or
WAITE with its condition not met (R210 to R213, R220). -/
def suspendedAt (s : State) (c : Ctx) (w : Word) : Bool :=
  match bits w 30 24 with
  | 0x40 => 16 ≤ c.clauses.length
  | 0x41 | 0x42 | 0x43 => !c.laneIdle
  | 0x50 => !waitfMet c (bits w 11 0)
  | 0x51 => !waiteMet s c (BitVec.ofNat 2 (bits w 7 6)) (bits w 5 0)
  | _ => false

/-- A stream of the context waits for the word of an instruction: for a batch, or for a peer's answer (R401). -/
def fetchWaits (s : State) (c : Ctx) : Bool :=
  (match c.mode with
   | .fetch _ => true
   | .batch _ f => f
   | _ => false) ||
  (match c.laneMode with
   | .fetch _ => true
   | .batch _ f => f
   | _ => false) ||
  s.requests.any (fun r => r.ctx = c.id && r.ask == .fetch && r.answer.isNone)

/-- A group stands at one of the waits that a full save keeps (R342): in its own wait, in that of a JOINC for deque room (R225), or
in an instruction fetch, in the trap's wait for issued work too (R401). -/
def waitsInFull (s : State) (c : Ctx) : Bool :=
  match c.mode with
  | .idle => c.descent.isEmpty
  | .ending => true
  | .waita _ _ _ => true
  | .tryw _ _ _ => true
  | .fetch _ => true
  | .batch _ f => f
  | .trap => fetchWaits s c
  | .run =>
    (c.phase = 2 && c.pushing.isSome) || c.phase = 0 && (fetchWaits s c || (match fetchCtrl s c c.pc.toNat with
      | .word w => suspendedAt s c w
      | _ => false))
  | _ => false

/-- A group stands at its replay point, with its region committed or discarded. -/
def atReplayPoint (c : Ctx) : Bool :=
  match c.mode with
  | .run => c.regionLen = 0 && c.rsb.isEmpty && c.phase = 0
  | .barrier _ _ _ _ => c.rsb.isEmpty
  | .grow _ _ => c.rsb.isEmpty
  | .page _ => true
  | .notice _ => true
  | .evicted => true
  | _ => false

/-- A save of the group where it stands holds everything: it is not at its replay point, or a stream waits for the word of an
instruction (R342, R401). -/
def savesFull (s : State) (c : Ctx) : Bool := !atReplayPoint c || fetchWaits s c

/-- Nothing of the context is under way: no write, no request, no lane instruction but matrix work that has not started. -/
def quietCtx (s : State) (c : Ctx) : Bool :=
  !(s.homeQ.any (fun w => w.ctx = some c.id)) && !(s.requests.any (fun r => r.ctx = c.id && !r.retry && r.moves)) &&
    c.flights.all (fun f => f.kind == .matrix) && !((getCore s c.core).matq.any (fun x => x.ctx = c.id && x.started))

/-- An engine operation stands at a unit boundary (R138). -/
def opAtUnit (s : State) (o : EngOp) : Bool := o.landed.isEmpty && !(s.homeQ.any (fun w => w.op.any (fun x => x.1 = o.id)))

def stoppable (s : State) (c : Ctx) : Bool :=
  if c.isGroup then quietCtx s c && !c.committing && (atReplayPoint c || waitsInFull s c)
  else
    c.phase = 0 && (match c.mode with
      | .faulted => false
      | .ended => false
      | _ => true)

/-- Every context and operation of a launch can be stopped (R342). -/
def launchStoppable (s : State) (l : Nat) : Bool :=
  (s.ctxs.filter (fun c => c.launch = l)).all (stoppable s) && (s.ops.filter (fun o => o.launch = l)).all (opAtUnit s)

/-- A sequencer stalled in a DOWN is saved with it unexecuted (R342). -/
def stopSequencer (c : Ctx) : Ctx :=
  match c.mode with
  | .down _ _ _ => { c with mode := .run }
  | _ => c

/-- A block's groups, for what is saved of its stores. -/
def blockSaves (s : State) (b : Ctx) (bit : Nat) : Bool :=
  (children s b).any (fun g => liveBit g (savesFull s g) bit)

/-- The save that a GROW deadlock made of a group, with what has happened to the group since (R365, R370). -/
def keptSave (s : State) (c : Ctx) : Option Saved :=
  if c.mode == .evicted then
    ((s.saved.find? (fun x => x.launch = c.id)).bind (fun x => x.parts.head?)).map (fun p =>
      { p with
        ctx := { c with mode := .run, pins := [] }
        waits := (getCore s c.core).matq.filter (fun x => x.ctx = c.id)
        ops := s.ops.filter (fun o => o.ctx = c.id) })
  else none

/-- The save of one context (R343, R345). A full save keeps the region store buffer, as R343 and R346 say; the row of R107 that
calls it empty at every save holds of compact ones (log entry 119). A group's pins are not saved (log entry 120). -/
def saveCtx (s : State) (c : Ctx) : Saved × State :=
  let none0 : SavedRun := ⟨[], [], []⟩
  if c.mode == .evicted then ((keptSave s c).getD ⟨c, false, none0, none, [], [], []⟩, s)
  else if c.isGroup then
    let full := savesFull s c
    let (x, s1) := if full then (c, s) else compactCtx s c
    let k := getCore s c.core
    ({ ctx := { x with pins := [] }, full := full
       regs := saveRun s (coreKey c.core (c.regBase * 256)) (4 * c.vregs) c.regGen (keepRow c full)
       regRun := k.rows.find? (fun r => r.kind = 1 && r.owner = c.id)
       stores := if c.task then [saveStore s c.id c.core (liveBit c full 7) (liveBit c full 4)] else []
       waits := k.matq.filter (fun x => x.ctx = c.id)
       ops := s.ops.filter (fun o => o.ctx = c.id) }, s1)
  else
    ({ ctx := stopSequencer c, full := true, regs := none0, regRun := none
       stores := if c.level = 2 then (sortBy (fun a b => a < b) c.cores).map (fun k => saveStore s c.id k (blockSaves s c 7) (blockSaves s c 4)) else []
       waits := [], ops := [] }, s)

def saveCtxs (s : State) : List Ctx → List Saved × State
  | [] => ([], s)
  | c :: r =>
    let (x, s1) := saveCtx s c
    let (xs, s2) := saveCtxs s1 r
    (x :: xs, s2)

/-- The deque, ring control, latch and table of each core of a task-mode grid (R115, R360). -/
def saveDeques (s : State) (l : Nat) : List SavedDeque :=
  (List.range s.cores.length).filterMap (fun k =>
    let c := getCore s k
    if c.grid = some l then
      let run := gridTable c l
      some { core := k, run := run, deque := c.deque, ringPos := c.ringPos, ringCount := c.ringCount, popped := c.popped, latch := c.latch
             table := run.elim ⟨[], [], []⟩ (fun r => saveRun s (coreKey k (r.first * 256)) 64 r.gen (fun _ => true)) }
    else none)

/-- Dirty lines of a launch's allocations are written back, so that its groups find them on another core. -/
def writeBackOwned (s : State) (p : Nat → BitVec 12 → Bool) : State :=
  (List.range s.cores.length).foldl (fun s k =>
    ((getCore s k).lines.filter (fun x => x.dirty ≠ 0 && p k x.owner)).foldl (fun s x => writeBackLine s k x none) s) s

/-- A launch is off the device; its vault units stay. -/
def vacate (s : State) (l : Launch) : State :=
  let cs := s.ctxs.filter (fun c => c.launch = l.id)
  let mine (id : Nat) : Bool := id = l.id || cs.any (fun c => c.id = id)
  let s1 := freeRuns (fun r => mine r.owner) s
  { s1 with
    ctxs := s1.ctxs.filter (fun c => c.launch ≠ l.id)
    ops := s1.ops.filter (fun o => o.launch ≠ l.id)
    cores := s1.cores.map (fun c =>
      let c1 := { c with matq := c.matq.filter (fun x => !mine x.ctx) }
      if c1.grid = some l.id then c1.leaveGrid else c1)
    clusters := s1.clusters.map (fun c => { c with grants := c.grants.filter (fun g => !(g.grid = l.id && mine g.block)) }) }

/-- A launch is saved and leaves the device (R342, R343, R355); the lines that its groups pinned are unpinned (log entry 120). -/
def preempt (s : State) (l : Launch) : State :=
  let cs := s.ctxs.filter (fun c => c.launch = l.id)
  let owns (k : Nat) (g : BitVec 12) : Bool :=
    (getCore s k).rows.any (fun r => r.gen = g && (r.kind = 1 || r.kind = 2) && (r.owner = l.id || cs.any (fun c => c.id = r.owner)))
  let deques := saveDeques s l.id
  let (parts, s1) := saveCtxs s cs
  let stays (id : Nat) : Bool := !cs.any (fun c => c.id = id)
  let s2 := vacate (cs.foldl (fun s c => unpin s stays c) (writeBackOwned s1 owns)) l
  let others := s2.saved.filter (fun x => !cs.any (fun c => c.id = x.launch))
  recharge (setLaunch { s2 with saved := others ++ [⟨l.id, parts, deques⟩], nextId := s2.nextId + 1 }
    { l with stage := .preempted, moved := s2.nextId, tokens := 0 })

/-- The launches that a late launch may pre-empt: of strictly lower priority, the lowest first, of those the one placed most
recently first (R357). -/
def victimsOf (s : State) (x : Launch) : List Launch :=
  sortBy (fun a b => prioOf s a < prioOf s b || (prioOf s a = prioOf s b && b.moved < a.moved))
    (s.launches.filter (fun y => y.stage == .placed && prioOf s y < prioOf s x))

/-- The device once every released row has rejoined its pool (R62). -/
def rewritten (s : State) : State := { s with cores := s.cores.map (fun c => { c with rewriting := [] }) }

/-- Launch `v` is pre-empted, where it is the next victim of a late launch that does not fit, and would with all its victims gone;
rows on their way back to the pool count as free for both (R342, R357). -/
def execPreemption (l : Nat) (s : State) : Host.Outcome State Fault Refusal :=
  match getLaunch s l with
  | none => .next s
  | some v =>
    let wanted := s.launches.any (fun x => x.stage == .waiting && x.late && (fits (rewritten s) x).isNone &&
      ((victimsOf s x).head?.any (fun y => y.id = l)) && (fits (rewritten (recharge ((victimsOf s x).foldl vacate s))) x).isSome)
    if wanted && launchStoppable s l && powered s then .next (preempt s v) else .next s

/-! Restores (R346) -/

/-- The runs can be had again at their own places on a core, within the limits of R83. -/
def runsFree (k : Core) (rows tiles slots : List Run) : Bool :=
  let each (rs : List Run) (free : Nat → Bool) : Bool := rs.all (fun r => (List.range r.count).all (fun i => free (r.first + i)))
  each rows (rowFree k) && each tiles (fun i => (ownerOf k.tileRuns i).isNone) && each slots (fun i => (ownerOf k.slotRuns i).isNone) &&
    512 + (rows.map Run.count).sum ≤ l1Rows k &&
    registerRows k + ((rows.filter (fun r => r.kind = 1)).map Run.count).sum ≤ 4096

def addRuns (k : Core) (rows tiles slots : List Run) : Core :=
  { k with rows := k.rows ++ rows, tileRuns := k.tileRuns ++ tiles, slotRuns := k.slotRuns ++ slots }

/-- A key of one core's store as a key of another's. -/
def moveKey (old new k : Nat) : Nat := if coreKey old 0 ≤ k && k < coreKey (old + 1) 0 then k - coreKey old 0 + coreKey new 0 else k

/-- An operation as its context's new core and slot make it; its allocations and the words it has kept go with it (R229). -/
def moveOp (old new slot : Nat) (o : EngOp) : EngOp :=
  { o with
    core := new, slot := slot
    gens := o.gens.map (fun g => (moveKey old new g.1, g.2))
    words := o.words.map (fun w => (moveKey old new (w.1 * 4) / 4, w.2)) }

/-- A store's contents come back on a core. -/
def loadStore (s : State) (k : Nat) (x : SavedStore) : State :=
  let s1 := x.rows.elim s (fun r =>
    let t := if r.kind = 2 then 16 else 0
    loadRun (loadRun s (coreKey k (r.first * 256)) (4 * t) r.gen x.table) (coreKey k ((r.first + t) * 256)) (4 * (r.count - t)) r.gen x.scr)
  let s2 := x.tileRun.elim s1 (fun r => (List.range r.count).foldl (fun s i =>
    match x.tiles[i]? with
    | some (t, d) => setTile (loadRun s (tileKey k (r.first + i) 0) 32 r.gen d) k (r.first + i) t
    | none => s) s1)
  x.slotRun.elim s2 (fun r => (List.range r.count).foldl (fun s i =>
    match x.slots[i]? with
    | some (v, d) =>
      let s3 := loadRun s (slotKey k (r.first + i) 0) 16 0 d
      let c := getCore s3 k
      setCore s3 k { c with valid := if v then (c.valid.filter (· ≠ r.first + i)) ++ [r.first + i] else c.valid.filter (· ≠ r.first + i) }
    | none => s) s2)

/-- An operation that a group left behind names its register rows by address. -/
def namesOwn (p : Saved) : Bool :=
  let own (a : Nat) : Bool := p.ctx.regBase * 256 ≤ a && a < (p.ctx.regBase + p.ctx.vregs) * 256
  p.ops.any (fun o =>
    let d := parseDesc o.desc
    (d.skind = 1 && own (bits d.src 23 0)) || (d.dkind = 1 && own (bits d.dst 23 0)))

/-- Where the registers of a group come back on a core: the lowest run of free rows (R359), or its old rows where one of
its operations names them (log entry 67). -/
def regPlace (k : Core) (p : Saved) : Option Nat :=
  let n := p.ctx.vregs
  if !(n + 512 ≤ l1Rows k && registerRows k + n ≤ 4096) then none
  else if namesOwn p then (if (List.range n).all (fun i => rowFree k (p.ctx.regBase + i)) then some p.ctx.regBase else none)
  else freeRows k n

/-- The registers of groups, one after the other, find their rows on a core. -/
def fitRegs : List Saved → Core → Bool
  | [], _ => true
  | p :: r, k =>
    match regPlace k p with
    | some b => fitRegs r (addRow k b p.ctx.vregs 1)
    | none => false

/-- A group or task comes back on a core, in the free slot and at the rows of R359. -/
def restoreGroup (s : State) (k : Nat) (p : Saved) : Option State :=
  (chooseSlot (usedSlots s k)).bind (fun slot => (regPlace (getCore s k) p).map (fun b =>
    let c := p.ctx
    let x : Ctx := { c with die := clusterDie (k / 4), cluster := k / 4, core := k, slot := slot, regBase := b, pendAge := 0 }
    let core := getCore s k
    let s1 := setCore s k { core with
      rows := core.rows ++ p.regRun.toList.map (fun r => { r with first := b })
      matq := core.matq ++ p.waits }
    let s2 := { s1 with ctxs := addGroup s1.nextId s1.ctxs x, ops := s1.ops ++ p.ops.map (moveOp c.core k slot) }
    loadRun s2 (coreKey k (b * 256)) (4 * c.vregs) c.regGen p.regs))

/-- Groups come back one after the other, each on the core that its old one maps to. -/
def restoreGroups (f : Nat → Nat) : List Saved → State → Option State
  | [], s => some s
  | p :: r, s => (restoreGroup s (f p.ctx.core) p).bind (restoreGroups f r)

/-- The runs of a block at position `i` of its cores: table and scratchpad, tiles, weight slots. -/
def positionRuns (b : Saved) (i : Nat) : List Run × List Run × List Run :=
  let st := b.stores[i]?
  ((st.bind (fun x => x.rows)).toList, (st.bind (fun x => x.tileRun)).toList, (st.bind (fun x => x.slotRun)).toList)

/-- A saved block on a set of cores of a cluster, in ascending order; none where its runs or slots are taken. -/
def restoreBlock (s : State) (l : Launch) (cl : Nat) (b : Saved) (gs : List Saved) (pick : List Nat) : Option State :=
  let olds := sortBy (fun a b => a < b) b.ctx.cores
  let f (old : Nat) : Nat := pick.getD (olds.idxOf old) 0
  let okAt (i : Nat) : Bool :=
    let r := positionRuns b i
    let k := getCore s (pick.getD i 0)
    runsFree k r.1 r.2.1 r.2.2 && fitRegs (gs.filter (fun g => g.ctx.core = olds.getD i 0)) (addRuns k r.1 r.2.1 r.2.2)
  if !((List.range olds.length).all okAt) then none
  else
    let s1 := (List.range olds.length).foldl (fun s i =>
      let k := pick.getD i 0
      match b.stores[i]? with
      | some st => loadStore (setCore s k (addRuns (getCore s k) st.rows.toList st.tileRun.toList st.slotRun.toList)) k st
      | none => s) s
    let grants := (List.range olds.length).filterMap (fun i => (b.stores[i]?.bind (fun x => x.rows)).map (fun r =>
      (⟨l.id, b.ctx.id, pick.getD i 0, r.first, r.count, r.gen⟩ : Grant)))
    let k := getCluster s1 cl
    let s2 := setCluster s1 cl { k with grants := k.grants ++ grants }
    if 64 < (k.grants ++ grants).length then none
    else
      let x : Ctx := { b.ctx with die := clusterDie cl, cluster := cl, core := f b.ctx.core, cores := pick }
      restoreGroups f gs { s2 with ctxs := s2.ctxs ++ [x] }

/-- A saved block at the first set of cores of a cluster that holds it (R346, R359). -/
def restoreBlockOn (l : Launch) (cl : Nat) (parts : List Saved) (s : State) (b : Saved) : Option State :=
  let gs := parts.filter (fun g => g.ctx.isGroup && g.ctx.parent = some b.ctx.id)
  let load (k : Nat) : Nat := (s.ctxs.filter (fun c => c.level == 2 && c.launch = l.id && c.cores.contains k)).length
  let cores := sortBy (fun a b => load a < load b) (((List.range 4).map (fun j => 4 * cl + j)).filter (fun k => !evicted s k))
  (combos cores b.ctx.cores.length).findSome? (fun pick => restoreBlock s l cl b gs (sortBy (fun a b => a < b) pick))

def restoreBlocks (l : Launch) (cl : Nat) (parts : List Saved) : List Saved → State → Option State
  | [], s => some s
  | b :: r, s => (restoreBlockOn l cl parts s b).bind (restoreBlocks l cl parts r)

/-- A cluster context with its blocks on the first cluster that holds them all. -/
def restoreCluster (l : Launch) (parts : List Saved) (s : State) (c : Saved) : Option State :=
  let bs := sortBy (fun (a b : Saved) => a.ctx.blockIx < b.ctx.blockIx) (parts.filter (fun b => b.ctx.level == 2 && b.ctx.parent = some c.ctx.id))
  (List.range 48).findSome? (fun cl =>
    if (getCluster s cl).excluded || 16 ≤ (s.ctxs.filter (fun x => x.level == 3 && x.cluster = cl)).length ||
        s.ctxs.any (fun x => x.level == 3 && x.launch = l.id && x.cluster = cl) ||
        128 < bs.length + (s.ctxs.filter (fun x => x.level == 2 && x.cluster = cl)).length then none
    else
      let x : Ctx := { c.ctx with die := clusterDie cl, cluster := cl }
      restoreBlocks l cl parts bs { s with ctxs := s.ctxs ++ [x] })

def restoreClusters (l : Launch) (parts : List Saved) : List Saved → State → Option State
  | [], s => some s
  | c :: r, s => (restoreCluster l parts s c).bind (restoreClusters l parts r)

/-- The cores that take over a task-mode grid's deques, in ascending order (R111, R346). -/
def matchCores (s : State) (parts : List Saved) : Nat → List SavedDeque → Option (List (Nat × SavedDeque))
  | _, [] => some []
  | from_, d :: r =>
    let ts := parts.filter (fun p => p.ctx.task && p.ctx.core = d.core)
    let rows := d.run.toList ++ ts.flatMap (fun p => p.stores.flatMap (fun x => x.rows.toList))
    let tiles := ts.flatMap (fun p => p.stores.flatMap (fun x => x.tileRun.toList))
    match ((List.range s.cores.length).drop from_).find? (fun k => (getCore s k).grid.isNone && !evicted s k &&
        !(getCluster s (k / 4)).excluded && runsFree (getCore s k) rows tiles [] && fitRegs ts (addRuns (getCore s k) rows tiles []) &&
        (usedSlots s k).length + ts.length ≤ 128) with
    | none => none
    | some k => (matchCores s parts (k + 1) r).map (fun xs => (k, d) :: xs)

/-- A latched frame of a restored grid goes back to the top of its victim's deque (R115), which spills first where it is full
(R107, R111); with its ring full too, the deque keeps the frame beyond its depth. Where several go back to one deque, the frame of
the higher old core ends on top (log entry 105). None while the spill must wait. -/
def returnLatch (l : Launch) (f : Nat → Nat) (s : State) (d : SavedDeque) : Option State :=
  match d.latch with
  | some (fr, v) =>
    let k := f v
    let put (s : State) : State := let c := getCore s k; setCore s k { c with deque := fr :: c.deque }
    let c := getCore s k
    if wouldSpill c && !ringFull c then (spillFrames s l k).map put else some (put s)
  | none => some s

def returnLatches (l : Launch) (f : Nat → Nat) : List SavedDeque → State → Option State
  | [], s => some s
  | d :: r, s => (returnLatch l f s d).bind (returnLatches l f r)

/-- A task-mode grid comes back (R115, R346, R360). -/
def restoreTasks (s : State) (l : Launch) (x : SavedLaunch) : Option (State × List Nat) :=
  (matchCores s x.parts 0 x.deques).bind (fun ms =>
    let f (old : Nat) : Nat := ((ms.find? (fun m => m.2.core = old)).map Prod.fst).getD 0
    let s1 := ms.foldl (fun s m =>
      let c := getCore s m.1
      let s2 := setCore s m.1 { addRuns c m.2.run.toList [] [] with
        grid := some l.id, deque := m.2.deque, ringPos := m.2.ringPos, ringCount := m.2.ringCount, popped := m.2.popped }
      m.2.run.elim s2 (fun r => loadRun s2 (coreKey m.1 (r.first * 256)) 64 r.gen m.2.table)) s
    let tasks := x.parts.filter (fun p => p.ctx.task)
    let s2 := tasks.foldl (fun s p =>
      let k := f p.ctx.core
      p.stores.foldl (fun s st => loadStore (setCore s k (addRuns (getCore s k) st.rows.toList st.tileRun.toList [])) k st) s) s1
    ((restoreGroups f tasks s2).bind (returnLatches { l with cores := ms.map Prod.fst } f x.deques)).map (fun s3 => (s3, ms.map Prod.fst)))

/-- The core that took over core `k` for an allocation of generation `g` of a restored launch. -/
def newCore (s : State) (x : SavedLaunch) (g : BitVec 12) (k : Nat) : Nat :=
  let hit (p : Saved) : Option Nat :=
    let olds := sortBy (fun a b => a < b) p.ctx.cores
    if p.ctx.task && p.ctx.core = k then (getCtx s p.ctx.id).map Ctx.core
    else if p.ctx.level = 2 && olds.contains k && ((p.stores[olds.idxOf k]?).bind (fun st => st.rows)).any (fun r => r.gen = g) then
      (getCtx s p.ctx.id).map (fun b => b.cores.getD (olds.idxOf k) k)
    else none
  (x.parts.findSome? hit).getD k

/-- A buffered core-store entry of a restored group follows its allocation to its new core (R343, R346). -/
def moveEntry (s : State) (x : SavedLaunch) (e : BufEntry) : BufEntry :=
  match e.line with
  | .here l =>
    (match spaceOf (l * 128) with
     | .core k off => { e with line := .here (coreKey (newCore s x (e.gen.getD 0) k) off / 128) }
     | _ => e)
  | .peer _ _ => e

/-- The buffered entries of every restored context. -/
def moveEntries (x : SavedLaunch) (s : State) : State :=
  let go (c : Ctx) : Ctx := if c.launch = x.launch then { c with rsb := c.rsb.map (moveEntry s x) } else c
  { s with ctxs := s.ctxs.map go }

/-- A pre-empted launch is placed again, where all of it fits (R346). -/
def restoreLaunch (s : State) (l : Launch) (x : SavedLaunch) : Option State :=
  let grid := (x.parts.filter (fun p => p.ctx.level == 4)).map (fun p => p.ctx)
  let clusters := sortBy (fun (a b : Saved) => a.ctx.childIx < b.ctx.childIx) (x.parts.filter (fun p => p.ctx.level == 3))
  let placed : Option (State × List Nat) :=
    if l.taskMode then restoreTasks s l x
    else (restoreClusters l x.parts clusters s).map (fun s1 =>
      (s1, ((s1.ctxs.filter (fun c => c.launch = l.id && c.level == 2)).flatMap (fun c => c.cores)).eraseDups))
  placed.bind (fun r =>
    let first := (r.2.min?).getD 0
    let die := clusterDie (first / 4)
    if budgetLeft s l .cores < r.2.length || !hbmAllows s l || !gridFree s die then none
    else
      let gs := grid.map (fun c => { c with die := die, cluster := die.toNat * 24 })
      let s1 := r.2.foldl rowsTaken (replayCancelled (moveEntries x r.1) l.id)
      some (recharge (setLaunch { s1 with
        ctxs := s1.ctxs ++ gs
        saved := s1.saved.filter (fun y => y.launch ≠ l.id)
        nextId := s1.nextId + 1 } { l with stage := .placed, moved := s1.nextId, cores := r.2 })))

/-- A saved launch could be placed again now. -/
def restorable (s : State) (l : Launch) : Option State :=
  if l.stage == .preempted && tokensWanted s l = 0 then (s.saved.find? (fun x => x.launch = l.id)).bind (restoreLaunch s l) else none

/-- The launch could be placed, or restored, now; one whose generations are not ready could not (R104). -/
def able (s : State) (x : Launch) : Bool :=
  (ready s x && (if x.taskMode then (planTasks s x).all (fun k => (getCore s k.1).issueReady 1)
    else (planGrid s x).any (gensReady s x))) || (restorable s x).isSome

/-- The next launch in the order of R357 is placed, or found unplaceable (R28); a launch that only waits for its completion
record has it written. A placement whose generations are not ready stalls (R104); none is made during a self-test (R395). -/
def execPlacement (l : Nat) (s : State) : Host.Outcome State Fault Refusal :=
  match getLaunch s l with
  | none => .next s
  | some x =>
    if !powered s then .next s
    else if x.stage ≠ .waiting then .next (closeLaunch s x)
    else if s.selftest.isSome || heldBack s (able s) x then .next s
    else
      match fits s x with
      | none => if (fits (emptied s) x).isNone then .next (setLaunch s { x with stage := .closing 3 0 0 0, tokens := 0 }) else .next s
      | some n =>
        if x.tokens < n then .next s
        else if x.taskMode then
          let ks := planTasks s x
          if ks.all (fun k => (getCore s k.1).issueReady 1) then .next (placeTasks s x ks) else .next (skimStall s)
        else
          match planGrid s x with
          | some p => if gensReady s x p then .next (placeGrid s { x with tokens := n } p) else .next (skimStall s)
          | none => .next s

/-! The GROW deadlock (R365) -/

/-- Every resident group of the core waits in GROW and none can be granted, as a GROW that began to wait found, or with no released
rows still to rejoin the pool: the youngest is saved at its GROW and its rows are released (R62, R365; log entry 72). -/
def execGrowDeadlock (k : Nat) (s : State) : Host.Outcome State Fault Refusal :=
  match sortBy (younger s) (residents s k) with
  | [] => .next s
  | c :: _ =>
    if !growStuck s k || !((getCore s k).growCheck || (getCore s k).rewriting.isEmpty) || !powered s || !quietCtx s c then .next s
    else
      let (p, s1) := saveCtx s c
      let core := getCore s1 k
      let rows := (List.range c.vregs).map (fun i => c.regBase + i)
      let s2 := setCore s1 k { core with
        rows := core.rows.filter (fun r => !(r.kind = 1 && r.owner = c.id))
        rewriting := core.rewriting ++ rows
        growCheck := false }
      .next { setCtx s2 { p.ctx with mode := .evicted, pins := c.pins, active := false } with saved := s2.saved ++ [⟨c.id, [p], []⟩] }

/-- An evicted group comes back to its core with its saved V, the oldest first, and executes its GROW again (R346, R365). -/
def restoreEvicted (s : State) (c : Ctx) (p : Saved) : Option State :=
  let k := getCore s c.core
  let older := s.ctxs.any (fun x => x.core = c.core && x.mode == .evicted && younger s c x)
  if older || !(c.vregs + 512 ≤ l1Rows k && registerRows k + c.vregs ≤ 4096) then none
  else
    (freeRows k c.vregs).map (fun b =>
      let run := p.regRun.map (fun r => { r with first := b })
      let s1 := setCore s c.core { k with rows := k.rows ++ run.toList }
      let s2 := loadRun s1 (coreKey c.core (b * 256)) (4 * c.vregs) c.regGen p.regs
      rowsTaken { setCtx s2 (({ c with mode := .run, regBase := b } : Ctx).joins s2.ctxs s2.nextId) with nextId := s2.nextId + 1, saved := s2.saved.filter (fun x => x.launch ≠ c.id) } c.core)

/-- A pre-empted launch, or a group evicted at a GROW deadlock, is restored (R346, R357, R365). -/
def execRestore (l : Nat) (s : State) : Host.Outcome State Fault Refusal :=
  if !powered s then .next s
  else
    match getLaunch s l, getCtx s l with
    | some x, _ => if heldBack s (able s) x then .next s else .next ((restorable s x).getD s)
    | none, some c =>
      (match c.mode, s.saved.find? (fun x => x.launch = l) with
       | .evicted, some x =>
         (match x.parts with
          | p :: _ => .next ((restoreEvicted s c p).getD s)
          | [] => .next s)
       | _, _ => .next s)
    | none, none => .next s

/-! Active sets (R361 to R363) -/

/-- The group waits as R362 lists: on its clause's wait mask, in WAITE, WAITA, TRYW or GROW, for its lanes, for its rows or to be
restored there (R202, R365), suspended at a barrier until its wave resumes, stalled in UP, or idle. -/
def swapsOut (s : State) (c : Ctx) : Bool :=
  let lanes := c.headClause.any (fun q => q.started && !q.issued && !c.flagsClear q.waitMask)
  lanes || (match c.mode with
    | .waita _ _ _ => true
    | .tryw _ _ _ => true
    | .grow _ _ => true
    | .barrier _ _ _ _ => true
    | .reel _ _ => true
    | .evicted => true
    | .idle => c.descent.isEmpty
    | .run =>
      (match fetchCtrl s c c.pc.toNat with
       | .word w => (bits w 30 24 = 0x29 && !c.laneIdle) || (bits w 30 24 = 0x51 && suspendedAt s c w) || (bits w 30 24 = 0x4A && ((c.parent.bind (getCtx s)).any (fun p => (reportOf p c.id).isSome)))
       | _ => false)
    | _ => false)

/-- The resident groups of a group's partition. -/
def partition (s : State) (c : Ctx) : List Ctx := partitionOf s.ctxs c.core c.slot

/-- The ready pending group of greatest age, ties to the lower slot (R362). -/
def nextPending (s : State) (c : Ctx) : Option Ctx :=
  (sortBy (fun a b => b.pendAge.toNat < a.pendAge.toNat || (a.pendAge = b.pendAge && a.slot < b.slot))
    ((partition s c).filter (fun x => !x.active && !swapsOut s x))).head?

/-- A pending group enters the active set. -/
def enterActive (s : State) (id : Nat) : State :=
  let enter : Ctx → Ctx := fun c => { c with active := true, pendAge := 0, entered := s.nextId }
  { modCtx s id enter with nextId := s.nextId + 1 }

def leaveActive (s : State) (id : Nat) : State :=
  let leave : Ctx → Ctx := fun c => { c with active := false }
  modCtx s id leave

/-- A waiting active group gives its place to a ready pending one; a free place is taken at once (R361, R362). -/
def execActiveSetSwap (c : Nat) (s : State) : Host.Outcome State Fault Refusal :=
  match getCtx s c with
  | none => .next s
  | some x =>
    if !x.isGroup || !powered s then .next s
    else
      match nextPending s x with
      | none => .next s
      | some p =>
        if partitionActive s.ctxs x.core x.slot < 4 then .next (enterActive s p.id)
        else if x.active && swapsOut s x then .next (enterActive (leaveActive s x.id) p.id)
        else .next s

/-- A ready pending group whose age has reached its AGELIM displaces the active group that entered first (R363). -/
def execAgelimSwap (c : Nat) (s : State) : Host.Outcome State Fault Refusal :=
  match getCtx s c with
  | none => .next s
  | some x =>
    let eldest := (sortBy (fun (a b : Ctx) => a.entered < b.entered || (a.entered = b.entered && b.slot < a.slot))
      ((partition s x).filter (fun y => y.active))).head?
    if !x.isGroup || x.active || swapsOut s x || x.pendAge.toNat < x.agelim.toNat || !powered s then .next s
    else
      match eldest, nextPending s x with
      | some e, some p => .next (enterActive (leaveActive s e.id) p.id)
      | _, _ => .next s

end Sys2Proof.Machine
end

