-- ==== Sys2Proof/Machine/Queues.lean ====
section
/-! DEFINITION. The host command queues: doorbells, creation and destruction, slots, sleep and waking, and the packets that
the parser takes (R120, R121, R134, R135, R155, R353, R354, R386 to R388). -/

namespace Sys2Proof.Machine

/-! Queues -/

def getQueue (s : State) (q : Nat) : Option HostQueue := s.queues.find? (fun x => x.qid == q)
def setQueue (s : State) (q : HostQueue) : State :=
  { s with queues := s.queues.map (fun x => if x.qid = q.qid then q else x) }

/-- Packets pending: RPTR to WPTR − 1, mod 65,536 (R387). -/
def HostQueue.pending (q : HostQueue) : Nat := (q.wptr - q.rptr).toNat

/-- The effective priority of the queue's region (R52, R386). -/
def queuePrio (s : State) (q : HostQueue) : Nat := effPrio (chain s 4 q.region)

/-- The tolerance T, in ns (R354, R386). -/
def queueTol (s : State) (q : HostQueue) : Nat :=
  (if q.lattol = 0xFFFFFFFF then effLattol (chain s 4 q.region) else q.lattol) * 1000

/-- Device time of the doorbell that made the oldest pending packet pending. -/
def HostQueue.oldest (q : HostQueue) : Nat := (q.bells.head?.map Prod.snd).getD 0

/-- Words of a descriptor in host memory that the device writes, from word `i` (R386). -/
def descWrite (s : State) (desc i : Nat) (ws : List Word) : State := writeWords s (hostKey (desc + 4 * i)) ws

/-- Word `i` of a descriptor with byte `b` and the half-word above it replaced. -/
def descStatus (s : State) (desc status : Nat) (qid : Option Nat) : State :=
  let w := readWord s (hostKey desc)
  let w1 := (w &&& 0xFFFF00FF) ||| BitVec.ofNat 32 (status * 256)
  descWrite s desc 0 [qid.elim w1 (fun n => (w1 &&& 0x0000FFFF) ||| BitVec.ofNat 32 (n % 65536 * 65536))]

/-- A queue enters the error state at its next packet: STATUS, ECAUSE, EIDX, vector 2 (R383, R386 to R388). -/
def queueError (s : State) (q : HostQueue) (cause : BitVec 8) : State :=
  let s1 := descWrite (descStatus (setQueue s { q with state := .error, slot := false }) q.desc 2 none) q.desc 8
    [BitVec.ofNat 32 (cause.toNat * 65536 + q.rptr.toNat)]
  raiseVector s1 2

/-- Priority order of two queues: `a` comes first (R120, R353). -/
def queueBefore (s : State) (a b : HostQueue) : Bool :=
  queuePrio s b < queuePrio s a || (queuePrio s a = queuePrio s b && a.oldest < b.oldest)

/-- A doorbell, whatever the supply: its packets are pending, and are taken while the device runs (R354, R387, R396). -/
def execDoorbell (v : DWord) (s : State) : Host.Outcome State Fault Refusal :=
  let wptr : BitVec 16 := v.extractLsb' 32 16
  match getQueue s (v.toNat % 2 ^ 32) with
  | none => .next s
  | some q =>
    if v.extractLsb' 48 16 ≠ 0 || q.state ≠ .active then .next s
    else
      let q1 := { q with wptr := wptr }
      if 2 ^ q.log2n < q1.pending then .next (queueError s q 4)
      else
        let bells := if q1.pending = 0 then [] else if wptr = q.wptr then q.bells else q.bells ++ [(wptr, s.time0)]
        let q2 := { q1 with bells := bells }
        if !q.asleep || q1.pending = 0 then .next (setQueue s q2)
        else if queueTol s q = 0 then .next (setQueue s { q2 with asleep := false, deadline := none })
        else .next (setQueue s { q2 with deadline := some (s.time0 + queueTol s q) })

/-- A field of a queue descriptor is out of range (R386). -/
def descriptorBad (ws : List Word) : Bool :=
  let w (i : Nat) : Word := ws.getD i 0
  let log2n := bits (w 1) 4 0
  (w 0 &&& 0xF7) ≠ 0 || (w 1 &&& 0xFFE0) ≠ 0 || (w 7 &&& 0xFFFF0000) ≠ 0 || (w 8 &&& 0xFF000000) ≠ 0 ||
    (List.range 7).any (fun i => w (9 + i) ≠ 0) || log2n < 4 || 16 < log2n || pair64 (w 2) (w 3) % 2 ^ (log2n + 6) ≠ 0

/-- No queue has the id, and no launch that a destroyed queue accepted still runs under it. -/
def qidFree (s : State) (n : Nat) : Bool := (getQueue s n).isNone && !s.launches.any (fun l => l.queue = n)

/-- The lowest queue id that is free; the drawn id where that one is (log entry 16). -/
def newQid (s : State) : Nat × State :=
  let r := drawFree s
  let n := r.1.toNat % 65536
  if qidFree s n then (n, r.2)
  else (((List.range 65536).find? (qidFree s)).getD 65536, r.2)

/-- A thermal hold stands (R400). -/
def thermalHold (s : State) : Bool := s.supply == .retention true

/-- DEVSTAT.READY (R385, R400). -/
def readyBit (s : State) : Bool := s.ready && !thermalHold s

/-- A write to QCTL is well formed: bits 5:2 are zero and the operation is `op` (R386). -/
def qctlIs (v : DWord) (op : Nat) : Bool := v.toNat % 64 = op

/-- QCTL operation 1: while READY reads 1, the descriptor is read and the queue created, or refused (R385, R386). -/
def execQueueCreate (v : DWord) (s : State) : Host.Outcome State Fault Refusal :=
  let desc := v.toNat / 64 * 64
  let ws := readWords s (hostKey desc) 16
  let w (i : Nat) : Word := ws.getD i 0
  if !qctlIs v 1 || !readyBit s || s.supply == .off then .next s
  else if descriptorBad ws then .next (descStatus s desc 4 none)
  else
    let (qid, s1) := newQid s
    if qid = 65536 then .next s
    else
      let q : HostQueue :=
        { qid := qid, desc := desc, asid := BitVec.ofNat 16 (bits (w 1) 31 16), log2n := bits (w 1) 4 0
          token := (w 0).getLsbD 3, ring := pair64 (w 2) (w 3), region := pair64 (w 4) (w 5), lattol := (w 6).toNat
          rptr := 0, wptr := 0, state := .active, asleep := true, deadline := none, bells := [], slot := false, parked := none, owing := none }
      .next (descWrite (descStatus { s1 with queues := s1.queues ++ [q] } desc 1 (some qid)) desc 7 [0, 0])

/-- QCTL operation 2: the queue stops at its packet boundary; its launches go on (R386). -/
def execQueueDestroy (v : DWord) (s : State) : Host.Outcome State Fault Refusal :=
  let desc := v.toNat / 64 * 64
  if !qctlIs v 2 || s.supply == .off || s.stage = 0xFF || !(s.queues.any (fun q => q.desc = desc)) then .next s
  else
    let gone (r : Request) : Bool := s.queues.any (fun q => q.desc = desc && r.ctx = parserOwner q.qid)
    .next (descStatus { s with
      queues := s.queues.filter (fun q => q.desc ≠ desc)
      requests := s.requests.filter (fun r => !gone r) } desc 3 none)

/-! Slots and sleep (R120, R121, R354) -/

/-- The queue waits for a slot. -/
def HostQueue.wantsSlot (q : HostQueue) : Bool :=
  q.state == .active && !q.asleep && !q.slot && q.parked.isNone && q.owing.isNone && q.pending ≠ 0

/-- The last of the holders in the order of priority. -/
def lowestHolder (s : State) : Option HostQueue :=
  (sortBy (fun a b => queueBefore s b a) (s.queues.filter (fun q => q.slot))).head?

/-- A queue takes a free slot, or that of the lowest holder it outranks (R120). -/
def execQueueSlotTake (q : Nat) (s : State) : Host.Outcome State Fault Refusal :=
  match getQueue s q with
  | none => .next s
  | some x =>
    if !x.wantsSlot || !powered s || s.queues.any (fun y => y.wantsSlot && queueBefore s y x) then .next s
    else if (s.queues.filter (fun y => y.slot)).length < 128 then .next (setQueue s { x with slot := true })
    else
      match lowestHolder s with
      | some y =>
        if queuePrio s y < queuePrio s x then .next (setQueue (setQueue s { y with slot := false }) { x with slot := true })
        else .next s
      | none => .next s

/-- The earliest deadline has come: every sleeping queue whose doorbell has rung wakes (R354). -/
def execQueueWake (s : State) : Host.Outcome State Fault Refusal :=
  let due (q : HostQueue) : Bool := q.asleep && q.deadline.any (fun t => t ≤ s.time0)
  let wake (q : HostQueue) : HostQueue :=
    if q.asleep && q.deadline.isSome then { q with asleep := false, deadline := none } else q
  if s.queues.any due && powered s then .next { s with queues := s.queues.map wake } else .next s

/-- A page fault of the parser: the queue is parked without its slot, and one record is written once there is room (R118, R121,
R137), with CORE 0xFF and SLOT and PC 0, for no core made the access (log entry 125). -/
def parkQueue (s : State) (q : HostQueue) (va : Nat) : State :=
  if fqRoom s 1 || fqServes s (.queue q.qid) 1 then
    let (b, s1) := fqBatch s [faultRecord false false false false 1 0 none PAGE va q.asid (astGen s q.asid) 0xFF 0]
    setQueue s1 { q with slot := false, parked := some b, owing := none }
  else fqJoin (setQueue s { q with slot := false, owing := some va }) (.queue q.qid)

/-- A parked queue competes for a slot again once its batch is passed; a record that it owes is written first (R118, R121). -/
def execQueueUnpark (q : Nat) (s : State) : Host.Outcome State Fault Refusal :=
  match getQueue s q with
  | none => .next s
  | some x =>
    if !powered s then .next s
    else
      match x.owing with
      | some va => .next (parkQueue s x va)
      | none => if x.parked.any (batchPassed s) then .next (setQueue s { x with parked := none }) else .next s

/-! Reads of the parser -/

/-- What a read of a control core yields. -/
inductive PRead where
  | words (ws : List Word) (s : State)
  | wait
  | absent
  | hole (addr : Nat)

/-- `n` free words, for words that a peer holds (log entry 2). -/
def drawWords (s : State) : Nat → List Word × State
  | 0 => ([], s)
  | n + 1 =>
    let r := drawFree s
    let rest := drawWords r.2 n
    (r.1 :: rest.1, rest.2)

/-- A control core's copy of a line has a lease of its space's length, from die 0's time (R19, R130; log entry 106). -/
def leaseLine (s : State) (asid : BitVec 16) (l : Nat) : State :=
  { s with horizons := sput 0 s.horizons l (max (s.time0 + 2 ^ astLease s asid) (sget 0 s.horizons l)) }

/-- `n` words at an address of a space, in one page, read at their home; the control core keeps a leased copy where `keep`. -/
def parserReadAt (s : State) (keep : Bool) (asid : BitVec 16) (va n : Nat) : PRead :=
  if s.changing.contains asid then .wait
  else
    match walk s asid va with
    | .absent => .absent
    | .hole a => .hole a
    | .ok (.peer _ _) _ _ => let r := drawWords s n; .words r.1 r.2
    | .ok (.here k) _ _ =>
      let lines := (List.range ((4 * n + k % 128 + 127) / 128)).map (fun i => k / 128 + i)
      if lines.any (fun l => readHeld s none (.here l)) then .wait
      else
        let s1 := touchLines s k (4 * n) false
        .words (readWords s k n) (if keep then lines.foldl (fun s l => leaseLine s asid l) s1 else s1)

/-- A read of words that the control core keeps as a copy. -/
def parserRead (s : State) (asid : BitVec 16) (va n : Nat) : PRead := parserReadAt s true asid va n

/-- `n` records of eight words each. -/
def parserRecords (asid : BitVec 16) : Nat → Nat → State → PRead
  | _, 0, s => .words [] s
  | va, n + 1, s =>
    match parserRead s asid va 8 with
    | .words ws s1 =>
      (match parserRecords asid (va + 32) n s1 with
       | .words rest s2 => .words (ws ++ rest) s2
       | r => r)
    | r => r

/-- What follows a read; a page that is not present, or a busy home, makes the parser wait (log entry 17). -/
def afterRead (s : State) (r : PRead) (f : List Word → State → Host.Outcome State Fault Refusal) :
    Host.Outcome State Fault Refusal :=
  match r with
  | .words ws s1 => f ws s1
  | .wait => .next s
  | .absent => .next s
  | .hole a => .fault (.noFrame a)

/-! Packets (R353, R387, R388) -/

/-- The queue has a launch that waits for its counter or its placement (R353). -/
def launchHeld (s : State) (q : HostQueue) : Bool :=
  s.launches.any (fun l => l.queue = q.qid && (l.stage == .depend || l.stage == .waiting))

/-- The parser may take the queue's next packet, as the queue stands. -/
def servable (s : State) (q : HostQueue) : Bool :=
  q.state == .active && q.slot && !q.asleep && q.parked.isNone && q.owing.isNone && q.pending ≠ 0 && !launchHeld s q

/-- The address of the next packet (R387). -/
def HostQueue.packetVa (q : HostQueue) : Nat := q.ring + 64 * (q.rptr.toNat % 2 ^ q.log2n)

/-- The two address words of a packet. -/
def packetAddr (ws : List Word) : Nat := pair64 (ws.getD 2 0) (ws.getD 3 0)
def packetType (ws : List Word) : Nat := bits (ws.getD 0 0) 7 0
def packetArg (ws : List Word) : Nat := bits (ws.getD 0 0) 11 8

/-- A reserved field, or a reserved code of the condition or the operation, is not zero (R388). -/
def packetReserved (ws : List Word) : Bool :=
  let w (i : Nat) : Word := ws.getD i 0
  let tail (n : Nat) : Bool := (List.range (16 - n)).any (fun i => w (n + i) ≠ 0)
  match packetType ws with
  | 0 => bits (w 0) 31 8 ≠ 0 || tail 1
  | 1 => bits (w 0) 31 8 ≠ 0 || w 1 ≠ 0 || tail 4
  | 2 => bits (w 0) 31 12 ≠ 0 || 5 < packetArg ws || w 1 ≠ 0 || tail 5
  | 3 => bits (w 0) 31 13 ≠ 0 || 1 < packetArg ws || w 1 ≠ 0 || tail 5
  | 4 => bits (w 0) 31 8 ≠ 0 || w 1 ≠ 0 || tail 4
  | _ => false

/-- The alignment of a packet's address (R123, R388). -/
def packetAlign (ty : Nat) : Nat := if ty = 1 then 256 else if ty = 4 then 128 else if ty = 0 then 1 else 4

/-- ECAUSE of a packet, 0 for none (R386, R388). -/
def packetCause (ws : List Word) : Nat :=
  if 4 < packetType ws then 1
  else if packetReserved ws then 2
  else if packetAddr ws % packetAlign (packetType ws) ≠ 0 then 3
  else 0

/-- An earlier launch of the queue has not written its completion record, so that a SIGNAL waits (R136, R388). -/
def signalHeld (s : State) (q : HostQueue) : Bool := s.launches.any (fun l => l.queue = q.qid && !recorded s l.id)

/-- A WAIT's condition holds now, or a SIGNAL's launches have ended; other packets are always ready. -/
def packetReady (s : State) (q : HostQueue) : Bool :=
  match parserRead s q.asid q.packetVa 16 with
  | .words ws s1 =>
    if packetCause ws ≠ 0 then true
    else if packetType ws = 2 then
      match parserRead s1 q.asid (packetAddr ws) 1 with
      | .words vs _ => trywCond (packetArg ws) (vs.getD 0 0) (ws.getD 4 0)
      | _ => false
    else packetType ws ≠ 3 || !signalHeld s q
  | _ => false

/-- No other queue's packet comes first (R353). -/
def servedFirst (s : State) (q : HostQueue) : Bool :=
  !s.queues.any (fun x => x.qid ≠ q.qid && servable s x && queueBefore s x q && packetReady s x)

/-- The packet is taken: RPTR advances and is written, and a queue with nothing pending sleeps (R354, R387). -/
def takePacket (s : State) (q : HostQueue) : State :=
  let q1 := { q with rptr := q.rptr + 1 }
  let q2 := if q1.pending = 0 then { q1 with bells := [], asleep := true, slot := false }
    else { q1 with bells := q1.bells.dropWhile (fun b => b.1 = q1.rptr) }
  descWrite (setQueue s q2) q.desc 7 [BitVec.ofNat 32 q1.rptr.toNat]

/-- The parser takes the next packet of queue `q` where its type satisfies `is`: errors first, else `f` of its words. -/
def servePacket (is : Nat → Bool) (f : HostQueue → List Word → State → Host.Outcome State Fault Refusal) (q : Nat) (s : State) :
    Host.Outcome State Fault Refusal :=
  match getQueue s q with
  | none => .next s
  | some x =>
    if !servable s x || !servedFirst s x || !powered s || !s.ready || s.selftest.isSome then .next s
    else
      afterRead s (parserRead s x.asid x.packetVa 16) (fun ws s1 =>
        if !is (packetType ws) then .next s
        else if packetCause ws ≠ 0 then .next (queueError s1 x (BitVec.ofNat 8 (packetCause ws)))
        else f x ws s1)

/-- A NOP packet has no effect (R388). -/
def execNopPacket (q : Nat) (s : State) : Host.Outcome State Fault Refusal :=
  servePacket (· = 0) (fun x _ s => .next (takePacket s x)) q s

/-- A packet of an unknown type is a queue error (R388). -/
def execUnknownPacket (q : Nat) (s : State) : Host.Outcome State Fault Refusal :=
  servePacket (4 < ·) (fun _ _ s => .next s) q s

/-- A WAIT packet (R121, R388). -/
def execWaitPacket (q : Nat) (s : State) : Host.Outcome State Fault Refusal :=
  servePacket (· = 2) (fun x ws s1 =>
    match parserRead s1 x.asid (packetAddr ws) 1 with
    | .absent => .next (parkQueue s x (packetAddr ws))
    | r => afterRead s r (fun vs s2 =>
      if trywCond (packetArg ws) (vs.getD 0 0) (ws.getD 4 0) then .next (takePacket s2 x) else .next s)) q s

/-- The parser adds to a word at a peer: one read-modify-write, sent once, and its sum when the peer has answered (R155, R310, R388;
log entry 128). -/
def parserAdd (s0 s : State) (q : Nat) (asid : BitVec 16) (d : BitVec 12) (a : Nat) (x : Word) : Reach (Word × State) :=
  match s.requests.find? (fun r => r.ctx = parserOwner q) with
  | some r =>
    match r.answer with
    | some bs => .done (leWord ((bs.drop (a % 128)).take 4) + x, { s with requests := s.requests.filter (fun y => y.id ≠ r.id) })
    | none => .later s0
  | none =>
    .later (sendRequest s0 ⟨s0.nextId, parserOwner q, none, none, d, a / 128 * 128, 128, .rmw false 0 [(0, a % 128, x, 0)], 0, none,
      s0.time0, none, asid, astGen s0 asid, false, false, false⟩)

/-- The write of a SIGNAL (R388): a store, or an atomic add, at a peer one read-modify-write there (R310); none while it must
wait. -/
def signalWrite (s0 s : State) (q : HostQueue) (ws : List Word) : Reach State :=
  let va := packetAddr ws
  let v := ws.getD 4 0
  if packetArg ws = 0 then (deviceWrite s q.asid va [v]).elim (.later s0) .done
  else
    match walk s q.asid va with
    | .ok (.peer d a) _ _ =>
      (match parserAdd s0 s q.qid q.asid d a v with
       | .done r => .done r.2
       | .later s1 => .later s1
       | .absent va => .absent va)
    | _ =>
      match parserReadAt s false q.asid va 1 with
      | .words vs s1 => (deviceWrite s1 q.asid va [vs.getD 0 0 + v]).elim (.later s0) .done
      | _ => .later s0

/-- A SIGNAL packet, once every launch of the queue has written its completion record (R388). -/
def execSignalPacket (q : Nat) (s : State) : Host.Outcome State Fault Refusal :=
  servePacket (· = 3) (fun x ws s1 =>
    if signalHeld s x then .next s
    else
      match signalWrite s s1 x ws with
      | .done s2 =>
        let s3 := takePacket s2 x
        .next (if (ws.getD 0 0).getLsbD 12 then raiseVector s3 4 else s3)
      | .later s2 => .next s2
      | .absent _ => .next s) q s

/-- A REGION packet: the block is accepted, or rejected with an error status (R134; log entry 18 for the status). -/
def execRegionPacket (q : Nat) (s : State) : Host.Outcome State Fault Refusal :=
  servePacket (· = 4) (fun x ws s1 =>
    afterRead s (parserRead s1 x.asid (packetAddr ws) 32) (fun bs s2 =>
      if nodeBad s2 bs then
        let (w, s3) := drawFree s2
        .next (queueError s3 x (w.extractLsb' 0 8))
      else .next (takePacket (recharge (acceptNode s2 x.asid (packetAddr ws) bs)) x))) q s

/-! LAUNCH packets (R135) -/

/-- A record breaks a limit, an alignment or a reserved field (R123, R135, R181). -/
def recordBad (ws : List Word) : Bool :=
  let w (i : Nat) : Word := ws.getD i 0
  let task := bits (w 0) 1 0 = 1
  let zero (a n : Nat) : Bool := (List.range n).all (fun i => w (a + i) = 0)
  let pairAt (i : Nat) : Nat := pair64 (w i) (w (i + 1))
  let sects := (List.range 5).map (fun i => (w (8 + i)).toNat)
  let shape := if task then !zero 1 5 || bits (w 13) 31 16 ≠ 0 || w 14 ≠ 0 || pairAt 44 % 2 ^ 18 ≠ 0
    else bits (w 1) 23 16 = 0 || 240 < bits (w 1) 23 16 || 256 < bits (w 2) 29 21 || 256 < bits (w 2) 20 12 ||
      bits (w 3) 6 0 = 0 || 64 < bits (w 3) 6 0 || !zero 44 2 || !zero 48 16
  1 < bits (w 0) 1 0 || (w 0 &&& 0xF0) ≠ 0 || 128 < bits (w 0) 15 8 || (w 1 &&& 0xFF00C0C0) ≠ 0 || (w 2 &&& 0xC0000000) ≠ 0 ||
    (w 3 &&& 0xFFFFFF80) ≠ 0 || (w 15 &&& 0xFFFF0000) ≠ 0 || (w 41 &&& 0xFFFFFFF0) ≠ 0 || !zero 46 2 || shape ||
    pairAt 6 % 65536 ≠ 0 || sects.any (fun x => x % 256 ≠ 0) || (sects.zip (sects.drop 1)).any (fun x => x.2 < x.1) ||
    pairAt 32 % 32 ≠ 0 || pairAt 34 % 128 ≠ 0 || pairAt 34 = 0 || pairAt 36 % 32 ≠ 0 || ((w 0).getLsbD 2 && pairAt 38 % 4 ≠ 0)

/-- The chain from a node leads, through nodes of rising level, to a tenant (R52, R135). -/
def chainGood : List Node → Bool
  | [] => false
  | [n] => n.kind = 0
  | n :: p :: r => p.kind < n.kind && chainGood (p :: r)

/-- The launch-level block and the nodes above it pass the checks of R135. -/
def regionGood (s : State) (bs : List Word) : Bool :=
  bits (bs.getD 0 0) 2 0 = 3 && !nodeBad s bs && chainGood (chain s 4 (pair64 (bs.getD 2 0) (bs.getD 3 0)))

/-- A launch as it is accepted. -/
def newLaunch (s : State) (q : HostQueue) (ws : List Word) (addr : Nat) (image : List Word) (stage : LaunchStage) : Launch where
  id := s.nextId
  addr := addr
  qasid := q.asid
  queue := q.qid
  words := ws
  image := image
  stage := stage
  since := s.time0
  lease := 8
  stale := false
  nbv := 1
  rawdbg := false
  cores := []
  vruns := []
  tasks := 0
  gridEnd := false
  tokens := 0
  token := q.token
  order := s.nextId
  moved := 0
  late := false

def addLaunch (s : State) (l : Launch) : State := { s with launches := s.launches ++ [l], nextId := s.nextId + 1 }

/-- Publication of a sink-mode launch: DEPINIT is added to its counter in one atomic operation, in this device, the host or a peer
(R155); it is done later, from `s0`, while the counter's home is not ready or has not answered. -/
def publish (s0 s : State) (l : Launch) : Reach State :=
  let addr := pair64 (l.word 38) (l.word 39)
  let go (s : State) (v : Word) : State :=
    if v = 0 then addLaunch s { l with stage := .waiting }
    else if v.slt 0 then counterError (addLaunch s { l with stage := .closing 4 0 0 0 }) addr 0
    else addLaunch s { l with stage := .depend }
  match walk s l.asid addr with
  | .ok (.peer d a) _ _ =>
    (match parserAdd s0 s l.queue l.asid d a (l.word 40) with
     | .done (v, s1) => .done (go s1 v)
     | .later s1 => .later s1
     | .absent va => .absent va)
  | _ =>
    match parserReadAt s false l.asid addr 1 with
    | .words vs s1 =>
      let v := vs.getD 0 0 + l.word 40
      (deviceWrite s1 l.asid addr [v]).elim (.later s0) (fun s2 => .done (go s2 v))
    | _ => .later s0

/-- A LAUNCH packet: the record, its image and its region block are read, and the launch waits, is published, or is
malformed (R135, R155, R353). -/
def execLaunchPacket (q : Nat) (s : State) : Host.Outcome State Fault Refusal :=
  servePacket (· = 1) (fun x pk s0 =>
    let addr := packetAddr pk
    afterRead s (parserRead s0 x.asid addr 64) (fun ws s1 =>
      let l := newLaunch s1 x ws addr [] (.closing 4 0 0 0)
      if recordBad ws then .next (takePacket (addLaunch s1 l) x)
      else
        let node := pair64 (ws.getD 34 0) (ws.getD 35 0)
        afterRead s (parserRead s1 l.asid node 32) (fun bs s2 =>
          if !regionGood s2 bs then .next (takePacket (addLaunch s2 l) x)
          else
            afterRead s (parserRecords l.asid (pair64 (ws.getD 32 0) (ws.getD 33 0)) (bits (ws.getD 0 0) 15 8) s2)
              (fun image s3 =>
                let s4 := acceptNode s3 l.asid node bs
                let l1 := newLaunch s4 x ws addr image .waiting
                if l1.sink then
                  (match publish s s4 l1 with
                   | .done s5 => .next (takePacket s5 x)
                   | .later s5 => .next s5
                   | .absent _ => .next s)
                else .next (takePacket (addLaunch s4 l1) x))))) q s

end Sys2Proof.Machine
end

