-- ==== Sys2Proof/Machine/Power.lean ====
section
/-! DEFINITION. The registers of the host port and the control cores, the self-test, power coupling, supply loss and
retention, reset and boot, and mailboxes (R22, R79, R158, R351, R356, R366 to R369, R384, R385, R389, R393 to R398, R400). -/

namespace Sys2Proof.Machine

/-! Registers (R384, R385) -/

/-- DEVSTAT as it reads (R385, R400). -/
def devstat (s : State) : Word :=
  BitVec.ofNat 32 (s.stage.toNat * 2 ^ 16 + s.stfail.toNat * 128 + s.retained.toNat * 64 + s.lost.toNat * 32 +
    s.selftest.isSome.toNat * 16 + (readyBit s).toNat)

/-- PORTSTAT as it reads (R390). -/
def portstat (x : Port) : Word := x.retrains ++ x.failed ++ x.state ++ BitVec.ofBool x.half ++ (0 : BitVec 1) ++ x.peer

/-- The memory manager allocates the lowest free units of a vault for a region under a fresh generation, or frees its own with 0
(R90, R99); without room or a ready generation nothing changes. No context reaches such units (log entry 126), and their kind is 2
(log entry 121). -/
def regionVaultWrite (s : State) (node v n : Nat) : State :=
  let x := getVault s v
  if 48 ≤ v || (getNode s node).isNone then s
  else if n = 0 then recharge (freeVaultRuns (regionOwner node) s v)
  else if !x.issueReady 1 then skimStall s
  else
    match freeVault x n with
    | none => s
    | some u =>
      let r := x.issueGen
      recharge (setVault s v { r.2 with units := r.2.units ++ [⟨u, n, r.1, 2, false, regionOwner node⟩] })

/-- The memory manager sets the HBM frames that it charges to a region (R53, R133; log entry 100). -/
def regionFramesWrite (s : State) (node n : Nat) : State :=
  recharge { s with nodes := s.nodes.map (fun x => if x.addr = node then { x with frames := n } else x) }

/-- A register that has no event of its own is set; read-only and unlisted offsets of BAR0 ignore the write (R8, R384). A base is
kept with its low bits zero, and the size of the fault queue is kept within R118's range: the spec gives no other write a fate
(log entry 108). A device whose boot was refused takes none (R393). -/
def execRegisterWrite (t : RegTarget) (v : DWord) (s : State) : Host.Outcome State Fault Refusal :=
  let n := v.toNat
  let excl (on : Bool) (c : Cluster) : Cluster := { c with excluded := on }
  if s.stage = 0xFF then .next s
  else
  match t with
  | .bar0 _ => .next s
  | .pwrslope => .next { s with fall := v.extractLsb' 16 16 }
  | .powerCap => .next { s with cap := min 1800 n }
  | .spaceTable => .next { s with astBase := n % 2 ^ 52 / 32 * 32 }
  | .faultBase => .next { s with fqBase := n % 2 ^ 52 / 32 * 32 }
  | .faultLog => .next { s with fqLog := min 16 (max 8 n) }
  | .errorsTaken => .next { s with errors := s.errors.drop n }
  | .regionVault node v => .next (regionVaultWrite s node v n)
  | .regionFrames node => .next (regionFramesWrite s node n)
  | .exclude c => .next (if c < 48 then setCluster s c (excl (n ≠ 0) (getCluster s c)) else s)
  | .hostDebug a =>
    let rest := s.hostDebug.filter (· ≠ a)
    .next { s with hostDebug := if n = 0 then rest else rest ++ [a] }

/-! The self-test (R395) -/

/-- The result record in host memory, of a test that ended at time `t` (R395). -/
def testRecord (s : State) (t addr status parts : Nat) (results : List Word) : State :=
  writeWords s (hostKey addr) ([BitVec.ofNat 32 (parts * 256 + status), BitVec.ofNat 32 t, BitVec.ofNat 32 (t / 2 ^ 32)] ++
    (List.range 13).map (fun i => results.getD i 0))

/-- A write to STCMD starts the self-test, or is refused at once, by die 0's copy of device time (R395; log entry 109). One that
comes while the supply is lost is refused as well where a context is held; else its test is abandoned as it starts (log entry
143). -/
def execSelfTest (v : DWord) (s : State) : Host.Outcome State Fault Refusal :=
  let parts : BitVec 4 := v.extractLsb' 0 4
  let addr := v.toNat / 64 * 64
  let run : BitVec 4 := if parts = 0 then 15 else parts
  if s.selftest.isSome || s.supply == .off || s.stage = 0xFF then .next s
  else if !s.ctxs.isEmpty || !s.saved.isEmpty then .next (testRecord s s.time0 addr 3 0 [])
  else if powered s then .next { s with selftest := some (run, addr) }
  else .next { s with abandoned := s.abandoned.or (some (run, addr, s.time0)) }

/-- What the test may report of each unit: LBIST, HBM, VAULT, PCIE, CREUG, each for the part that was run. -/
def testResults (parts : BitVec 4) (r : List Word) : List Word :=
  let part (n : Nat) (m w : Word) : Word := if parts.getLsbD n then w &&& m else 0
  [part 0 0xFFFFFFFF (r.getD 0 0), part 0 0xFFFF (r.getD 1 0), part 1 0xFF (r.getD 2 0), part 2 0xFFFFFFFF (r.getD 3 0),
   part 2 0xFFFF (r.getD 4 0), part 3 0xFFFF (r.getD 5 0), part 3 0x3FFFF (r.getD 6 0)]

/-- A key of host memory. -/
def isHost (k : Nat) : Bool := hostKey 0 ≤ k && k < hostKey (2 ^ 64)

/-- Every byte of the device's memories is zero with tag 0 (R395). -/
def zeroDevice (s : State) : State :=
  { s with
    mem := s.mem.filter (fun c => isHost c.1)
    tags := []
    poison := s.poison.filter (fun g => isHost (g * 64))
    dcache := [] }

/-- A port whose failed lanes are cleared and retried (R391, R395). -/
def Port.retried (x : Port) : Port := if x.failed = 0 then x else { x.atWidth false with failed := 0, state := 1 }

/-- The self-test ends with what it found failing; its TIME is die 0's copy of device time (R395; log entry 109). -/
def execSelfTestEnd (r : List Word) (s : State) : Host.Outcome State Fault Refusal :=
  match s.selftest with
  | none => .next s
  | some (parts, addr) =>
    if !powered s then .next s
    else
      let results := testResults parts r
      let failed := results.any (fun w => w ≠ 0)
      let fresh (c : Core) : Core :=
        { c with genNext := 1, skim := [], rewriting := [], lines := [], tileState := [], valid := [] }
      let idle (v : Vault) : Vault := { v with genNext := 1, skim := [] }
      let s1 := zeroDevice s
      let s2 := { s1 with
        cores := s1.cores.map fresh
        vaults := s1.vaults.map idle
        ports := s1.ports.map Port.retried
        selftest := none
        stfail := failed }
      .next (raiseVector (testRecord s2 s2.time0 addr (if failed then 2 else 1) parts.toNat results) 3)

/-! Power coupling (R79, R356, R366 to R369) -/

/-- The hotter die's junction temperature, by which the power manager acts (R400; log entry 111). -/
def junction (s : State) : Nat := max s.junction0 s.junction1

/-- A die reports its junction temperature (R400). -/
def setJunction (s : State) (t : DieTemp) : State := if t.die = 0 then { s with junction0 := t.temp } else { s with junction1 := t.temp }

/-- WAVE and GAP from LIMIT (R368). -/
def slopeOf (lim : Nat) : Nat × Nat :=
  if lim = 0xFFFF then (64, 0)
  else if lim = 0 then (1, 255)
  else
    let w := min 64 (max 1 (lim / 100))
    (w, min 255 ((w * 2100 + lim - 1) / lim - 1))

/-- SLOPE.LIMIT of a cluster is written (R79, R368). -/
def execSlopeWrite (cl : Nat) (lim : BitVec 16) (s : State) : Host.Outcome State Fault Refusal :=
  let r := slopeOf lim.toNat
  let c := getCluster s cl
  .next (setCluster s cl { c with limit := lim, wave := BitVec.ofNat 6 (r.1 - 1), gap := BitVec.ofNat 8 r.2 })

/-- TOKPOOL as it reads (R356). -/
def tokpool (s : State) : Word := BitVec.ofNat 32 (tokensFree s * 2 ^ 16 + s.tokSize.toNat)

/-- TOKPOOL.SIZE is written (R356). -/
def execTokpoolWrite (v : Word) (s : State) : Host.Outcome State Fault Refusal :=
  .next { s with tokSize := BitVec.ofNat 8 (min 192 (bits v 7 0)) }

/-- Fields of SLICECTL: MXLIM, and the ratio of slice `i` (R366). -/
def mxlim (v : Word) : Nat := bits v 19 16
def ratio (v : Word) (i : Nat) : Nat := bits v (4 * i + 3) (4 * i)

/-- SLICECTL with these fields. -/
def sliceWord (mx : Nat) (r : Nat → Nat) : Word :=
  BitVec.ofNat 32 (mx * 65536 + r 3 * 4096 + r 2 * 256 + r 1 * 16 + r 0)

/-- A written SLICECTL as it is stored (R366). -/
def storedSlice (v : Word) : Word := sliceWord (min 8 (max 1 (mxlim v))) (fun i => min 8 (max 4 (ratio v i)))

def setSlice (s : State) (k : Nat) (v : Word) : State := setCore s k { getCore s k with slice := v }

/-- SLICECTL of a core is written (R366). -/
def execSlicectlWrite (k : Nat) (v : Word) (s : State) : Host.Outcome State Fault Refusal := .next (setSlice s k (storedSlice v))

/-- The ratios of every slice of every core. -/
def allRatios (s : State) : List Nat := s.cores.flatMap (fun c => (List.range 4).map (ratio c.slice))

/-- Every core's settings by one rule. -/
def mapSlices (s : State) (f : Word → Word) : State :=
  let g : Core → Core := fun c => { c with slice := f c.slice }
  { s with cores := s.cores.map g }

/-- One step down: the slices at the highest ratio, then MXLIM (R366). -/
def stepDown (s : State) : State :=
  let top := (allRatios s).foldl max 0
  if 4 < top then mapSlices s (fun v => sliceWord (mxlim v) (fun i => if ratio v i = top then top - 1 else ratio v i))
  else mapSlices s (fun v => sliceWord (max 1 (mxlim v - 1)) (ratio v))

/-- One step up: MXLIM first, then the slices at the lowest ratio (R366). -/
def stepUp (s : State) : State :=
  let low := (allRatios s).foldl min 8
  if s.cores.any (fun c => mxlim c.slice < 8) then mapSlices s (fun v => sliceWord (min 8 (mxlim v + 1)) (ratio v))
  else if low < 8 then mapSlices s (fun v => sliceWord (mxlim v) (fun i => if ratio v i = low then low + 1 else ratio v i))
  else s

/-- The power manager compares the sustained draw, in W, with the cap (R366); while it is hot nothing is raised (R400). -/
def execPowerCheck (draw : Nat) (s : State) : Host.Outcome State Fault Refusal :=
  if !powered s then .next s
  else if s.cap < draw then .next (stepDown s)
  else if draw * 100 < s.cap * 95 && junction s ≤ 100 then .next (stepUp s)
  else .next s

/-- A droop stretches the clock of a cluster, and is counted; it ends (R367). -/
def execDroop (cl : Nat) (on : Bool) (s : State) : Host.Outcome State Fault Refusal :=
  let c := getCluster s cl
  .next (setCluster s cl { c with stretched := on, droops := if on then c.droops + 1 else c.droops })

/-- PWRSLOPE as it reads (R369). -/
def pwrslope (s : State) : Word := s.fall ++ (0 : BitVec 15) ++ BitVec.ofBool s.churn.isSome

/-- The churn ends: telemetry records its start and duration, by die 0's time (log entry 109), and its energy, which is free
(R369; log entry 2). -/
def stopChurn (s : State) : State :=
  match s.churn with
  | none => s
  | some c =>
    let r := drawFree s
    { r.2 with churn := none, churns := s.churns ++ [(c.since, s.time0 - c.since, r.1)] }

/-- The cores with no started octet operation. -/
def idleArrays (s : State) : List Nat :=
  (List.range s.cores.length).filter (fun k => !(getCore s k).matq.any (fun x => x.started))

/-- A step of the churn: fewer arrays toggle, a free number of them and at last none, at the idle level (R369; log entry 127). -/
def churnStep (s : State) (c : Churn) : State :=
  let r := drawFree s
  let left := c.arrays.take (r.1.toNat % c.arrays.length)
  if left.isEmpty then stopChurn s else { r.2 with churn := some { c with stepped := s.time0, arrays := left } }

/-- The churn starts on the idle arrays, takes its next step 1 µs after the last, or ends; with no limit on the fall it never
runs (R369). -/
def execChurn (on : Bool) (s : State) : Host.Outcome State Fault Refusal :=
  if !(on && s.fall ≠ 0xFFFF && powered s) then .next (stopChurn s)
  else
    match s.churn with
    | none => .next { s with churn := some ⟨s.time0, s.time0, idleArrays s⟩ }
    | some c => if s.time0 < c.stepped + 1000 then .next s else .next (churnStep s c)

/-- A junction temperature is reported; above 100 °C the settings are lowered, whatever the draw (R400). -/
def execThermalThrottle (t : DieTemp) (s : State) : Host.Outcome State Fault Refusal :=
  let s1 := setJunction s t
  if 100 < junction s1 && powered s then .next (stepDown s1) else .next s1

/-! Supply loss (R396, R397) -/

/-- The state after an event of the device's own. -/
def settled (s : State) : Host.Outcome State Fault Refusal → State
  | .next t => t
  | _ => s

/-- The first started operation of a core's MATRIX queue that can complete. -/
def firstStarted (s : State) (k : Nat) : Option Nat :=
  let q := (getCore s k).matq
  (List.range q.length).find? (fun i => (q[i]?).any (fun x =>
    x.started && !(x.opcode = 0x61 && x.policy && q.any (fun y => y.parent = x.parent && !y.started))))

def finishOctets (k : Nat) : Nat → State → State
  | 0, s => s
  | n + 1, s =>
    match firstStarted s k with
    | none => s
    | some i => finishOctets k n (settled s (execOctetComplete k i s))

/-- Started octet operations finish on every core. -/
def finishAllOctets (s : State) : State :=
  (List.range s.cores.length).foldl (fun s k => finishOctets k (getCore s k).matq.length s) s

/-- A kill under way completes, with its completion records. -/
def finishKills (s : State) : State :=
  let s1 := s.kills.foldl (fun s _ => settled s (execKill s)) s
  s1.launches.foldl closeLaunch s1

/-- Every line of the device cache is clean. -/
def cleanCache : Sparse (Nat × Bool) → Sparse (Nat × Bool)
  | [] => []
  | (l, v, _) :: r => if v = 0 then cleanCache r else (l, v, false) :: cleanCache r

/-- The marker of an assertion at time `t`, not sealed yet (R397). -/
def markerOf (s : State) (t : Nat) : Marker :=
  let ls := s.launches.filter (fun l => l.stage == .placed)
  ⟨false, 0, t, min 14 ls.length, (ls.take 14).map Launch.addr⟩

/-- Every dirty line of the L1 portions is sent to its home (R88, the supply-loss flush). -/
def flushLines (s : State) : State := (List.range s.cores.length).foldl (fun s k => writeBackAll s k none) s

/-- An event of the device's own during the sequence. -/
def whileLosing (f : State → State) (s : State) : State := { f { s with supply := .on } with supply := s.supply }

/-- By when step `n` completes, in ns after the assertion (R396). -/
def lossBy (n : Nat) : Nat := [0, 2000, 60000, 140000, 160000, 200000].getD n 0

/-- A write is on its way to HBM, or waits there. -/
def HomeWrite.toHbm (w : HomeWrite) : Bool :=
  match w.line with
  | .here l => spaceOf (l * 128) == .hbm && w.hold.isNone
  | .peer _ _ => false

/-- The completion record of a killed launch is still to be written, on a page that is there (R341, R396). -/
def recordDue (s : State) (l : Launch) : Bool :=
  match l.stage with
  | .closing 2 _ _ _ => (match walk s l.asid (pair64 (l.words.getD 36 0) (l.words.getD 37 0)) with
    | .ok _ _ _ => true
    | _ => false)
  | _ => false

/-- A kill under way has completed, with its completion records (R396). -/
def killsDone (s : State) : Bool := s.kills.isEmpty && !s.launches.any (recordDue s)

/-- Step `n` of R396 has nothing to wait for: the second, until copies have reached the end of their unit; the third, until kills
have their completion records, and HBM has performed the writes on their way to it, which the device cache holds dirty (R91). -/
def lossReady (s : State) (n : Nat) : Bool :=
  (n ≠ 2 || s.ops.all (opAtUnit s)) && (n ≠ 3 || (killsDone s && !s.homeQ.any HomeWrite.toHbm))

/-- What step `n` does: the second ends kills and started octet operations and sends the L1's dirty lines home (R88), early enough
that the longest lease ends before the third, which cleans the device cache (R91). -/
def lossAct (n : Nat) (s : State) : State :=
  if n = 2 then flushLines (whileLosing (fun s => finishAllOctets (finishKills s)) s)
  else if n = 3 then { s with dcache := cleanCache s.dcache }
  else s

/-- The next step of the sequence, at device time `t`. It and those behind it are missed where its time has passed (R19, R398);
the last seals the marker. -/
def lossStep (n t : Nat) (m : Marker) (hold : Bool) (s : State) : State :=
  if m.time + lossBy n < t then { s with supply := .retention hold, marker := { m with sealed := true, missed := BitVec.ofNat 4 n } }
  else if !lossReady s n then (if n = 3 && !killsDone s then whileLosing finishKills s else s)
  else if n < 5 then { lossAct n s with supply := .losing n m hold }
  else { s with supply := .retention hold, marker := { m with sealed := true } }

/-- The sequence begins at time `t`: issue stops, and so do the churn and a running self-test, whose record comes after the resume
(R396). The test that ends so leaves memories, generation counters and failed lanes as they stood (log entry 143). -/
def startLoss (s : State) (t : Nat) (hold : Bool) : State :=
  { stopChurn s with
    supply := .losing 0 (markerOf s t) hold
    holdRelease := false
    selftest := none
    abandoned := (s.selftest.map (fun x => (x.1, x.2, t))).or s.abandoned }

/-- The supply-loss warning pin is asserted, and the sequence of R396 begins; each later event is its next step. The spec does not
say whose copy of device time counts: each event names the die (log entry 109). -/
def execSupplyLoss (die : BitVec 1) (s : State) : Host.Outcome State Fault Refusal :=
  match s.supply with
  | .on => .next (startLoss s (dieTime s die) false)
  | .losing n m hold => .next (lossStep (n + 1) (dieTime s die) m hold s)
  | _ => .next s

/-- At 115 °C the same sequence begins, by die 0's copy of device time (log entry 109), and a thermal hold follows it (R400). -/
def execThermalShutdown (t : DieTemp) (s : State) : Host.Outcome State Fault Refusal :=
  let s1 := setJunction s t
  if 115 ≤ junction s1 && powered s then .next (startLoss s1 s.time0 true) else .next s1

/-- QCTL operation 3, with a die's junction temperature then: the hold is released where both dies are below 90 °C, else the write is
kept (R386, R400). -/
def execThermalHoldRelease (v : DWord) (t : DieTemp) (s : State) : Host.Outcome State Fault Refusal :=
  let s1 := setJunction s t
  if v ≠ 3 || !thermalHold s then .next s1
  else if junction s1 < 90 then .next { s1 with supply := .retention false, holdRelease := false }
  else .next { s1 with holdRelease := true }

/-- A die's temperature falls while an operation 3 is kept (R400). -/
def execThermalHoldTemperatureFall (t : DieTemp) (s : State) : Host.Outcome State Fault Refusal :=
  let s1 := setJunction s t
  if thermalHold s && s.holdRelease && junction s1 < 90 then .next { s1 with supply := .retention false, holdRelease := false }
  else .next s1

/-- A partner signals retention: the port's traffic pauses (R396). -/
def execPartnerRetention (p : Nat) (s : State) : Host.Outcome State Fault Refusal :=
  let pause : Port → Port := fun x => { x with state := 3 }
  if 18 ≤ p || (s.ports.getD p Port.reset).state = 0 then .next s else .next (modPort s p pause)

/-! The resume (R351, R398) -/

/-- A key of a memory of a cluster: its core stores, its vault, its tiles and weight slots. -/
def inCluster (cl k : Nat) : Bool :=
  match spaceOf k with
  | .core c _ => c / 4 = cl
  | .vault v _ => v = cl
  | .other => if k < slotKey 0 0 0 then (k - tileKey 0 0 0) / 2 ^ 21 = cl else (k - slotKey 0 0 0) / 2 ^ 20 = cl
  | _ => false

/-- A launch has a context, an allocation or matrix work on a cluster (R351). -/
def onCluster (s : State) (cl : Nat) (l : Launch) : Bool :=
  let ks := (List.range 4).map (fun j => 4 * cl + j)
  s.ctxs.any (fun c => c.launch = l.id && c.level ≠ 4 && c.cluster = cl) || ks.any (holdsCore s l.id) ||
    l.vruns.any (fun r => r.1 = cl) || ks.any (fun k => (getCore s k).grid = some l.id) ||
    ks.any (fun k => (getCore s k).matq.any (fun x => (getCtx s x.ctx).any (fun c => c.launch = l.id)))

/-- The nearest fault-domain node above a launch is killed, as for a fatal UE. -/
def killForLoss (s : State) (id : Nat) : State :=
  match getLaunch s id with
  | none => s
  | some l =>
    match l.stage with
    | .closing _ _ _ _ => s
    | _ => (faultDomain (chainOf s l)).elim s (fun n => killNode s n (BitVec.ofNat 8 UE) l.addr)

/-- The memories of a cluster are zero with tag 0; dirty HBM lines of its vault's cache are poisoned (R351). -/
def wipeCluster (s : State) (cl : Nat) : State :=
  let lost := s.dcache.filter (fun x => x.2.1 = cl && x.2.2)
  let wipe : Core → Core := fun c => { c with lines := [], valid := [], tileState := [] }
  let s1 := { s with
    mem := s.mem.filter (fun c => !inCluster cl c.1)
    tags := s.tags.filter (fun t => !inCluster cl (t.1 * 64))
    poison := s.poison.filter (fun g => !inCluster cl (g * 64)) ++ lost.flatMap (fun x => [2 * x.1, 2 * x.1 + 1])
    dcache := s.dcache.filter (fun x => x.2.1 ≠ cl) }
  (List.range 4).foldl (fun s j => setCore s (4 * cl + j) (wipe (getCore s (4 * cl + j)))) s1

/-- A cluster whose retention parity shows lost state (R351). -/
def loseCluster (s : State) (cl : Nat) : State :=
  let die := clusterDie cl
  let ls := (s.launches.filter (onCluster s cl)).map Launch.id
  let s1 := ls.foldl killForLoss s
  let s2 := pushError s1 (errorRecord s1 6 0 none 0 (BitVec.ofNat 32 (die.toNat * 2 ^ 24 + cl * 2 ^ 16 + 0xFF)) 0 0 0 die)
  wipeCluster s2 cl

/-- Every port retrains at the resume: one with a partner pauses, one that is down trains anew (R392, R398). -/
def Port.resumed (x : Port) : Port := { x with state := if x.state = 0 then 1 else 3 }

/-- A self-test that the loss ended has its record written with STATUS 4 and the time of its end, and did not fail (R395, R396);
vector 3 is raised with the record (log entry 143). -/
def abandonTest (s : State) : State :=
  match s.abandoned with
  | some (parts, addr, t) => raiseVector (testRecord { s with abandoned := none, stfail := false } t addr 4 parts.toNat []) 3
  | none => s

/-- The device leaves retention; `lost` names the clusters that lost state (R351, R398). -/
def execSupplyResume (lost : BitVec 48) (s : State) : Host.Outcome State Fault Refusal :=
  if s.supply ≠ .retention false then .next s
  else
    let s1 := ((List.range 48).filter (fun c => lost.getLsbD c)).foldl loseCluster { s with supply := .on }
    let s2 := raiseVector { s1 with marker := ⟨false, 0, 0, 0, []⟩, retained := true } 5
    .next (abandonTest { s2 with ports := s2.ports.map Port.resumed })

/-! Reset and boot (R158, R393, R394, R398) -/

/-- The state after a cold reset: the reset state, with host memory, the marker in the flash, the fuses, and the model's own
counters. -/
def coldReset (s : State) : State :=
  { State.reset with
    turn := s.turn
    steps := s.steps
    freeCtr := s.freeCtr
    mem := s.mem.filter (fun c => isHost c.1)
    poison := s.poison.filter (fun g => isHost (g * 64))
    marker := s.marker
    fuses := s.fuses }

/-- A cold reset (R158). -/
def execColdReset (s : State) : Host.Outcome State Fault Refusal := .next (coldReset s)

/-- Both rails are down: nothing on the device survives (R398). -/
def execAuxiliaryRailFailure (s : State) : Host.Outcome State Fault Refusal :=
  match s.supply with
  | .retention _ => .next { coldReset s with supply := .off }
  | _ => .next s

/-- An image passes: its key stands in a slot that is not revoked, its signature holds, and its version is not below the fused
least one (R393). -/
def Fuses.accepts (f : Fuses) (x : SignedImage) : Bool :=
  (List.range 4).any (fun i => !f.revoked.getLsbD i && f.keys[i]? == some x.key) && x.signed && f.minVersion ≤ x.version

/-- The first stage that the ROM loads: of the source tried first, else of the other (R393). -/
def firstStage (f : Fuses) (img : BootImage) : Option SignedImage :=
  match img.first.filter f.accepts with
  | some x => some x
  | none => img.second.filter f.accepts

/-- The next step of the boot: the ROM, the first stage or a refusal, the firmware of the other seven control cores, and the eight
cores running. Each digest is recorded before its stage runs, and the first stage derives the attestation key (R385, R393, R394). -/
def execBoot (img : BootImage) (s : State) : Host.Outcome State Fault Refusal :=
  if !powered s then .next s
  else if s.stage = 0 then .next { s with stage := 1, lost := s.marker.sealed, measurements := [Config.romDigest] }
  else if s.stage = 1 then
    match firstStage s.fuses img with
    | none => .next { s with stage := 0xFF }
    | some x => .next { s with
        stage := 2
        measurements := s.measurements ++ [x.digest]
        attestKey := some (Config.attestationKey s.fuses.secret) }
  else if s.stage = 2 && img.cores.length = 7 && img.cores.all s.fuses.accepts then
    .next { s with stage := 3, measurements := s.measurements ++ [img.firmware, img.config] }
  else if s.stage = 3 then .next { s with stage := 4, ready := true }
  else .next s

/-- GET_MEASUREMENTS returns the records to the verifier, in their order, signed with the attestation key (R394); before the first
stage has derived the key the answer bears no signature (log entry 145). -/
def execGetMeasurements (s : State) : Host.Outcome State Fault Refusal :=
  .next { s with spdmOut := s.measurements, spdmSig := s.attestKey.map (fun k => Config.signature k s.measurements) }

/-! Mailboxes (R22, R107, R389) -/

def mailbox (s : State) (src dst : Nat) : List (List Word) :=
  ((s.mailboxes.find? (fun m => m.1 = 8 * src + dst)).map Prod.snd).getD []

def setMailbox (s : State) (src dst : Nat) (es : List (List Word)) : State :=
  let rest := s.mailboxes.filter (fun m => m.1 ≠ 8 * src + dst)
  { s with mailboxes := if es.isEmpty then rest else rest ++ [(8 * src + dst, es)] }

/-- A control core's mailbox interrupt: raised by each entry written to it, clear where its mailboxes are empty (R107, R389). -/
def mailboxInterrupt (s : State) (dst : Nat) : Bool := s.mailboxes.any (fun m => m.1 % 8 = dst && !m.2.isEmpty)

/-- The receiver takes its oldest `taken` entries, and the sender writes one where there is room; with no words it writes none (R107,
R389). -/
def execMailboxSend (src dst taken : Nat) (d : List Word) (s : State) : Host.Outcome State Fault Refusal :=
  if 8 ≤ src || 8 ≤ dst || src = dst || !powered s then .next s
  else
    let left := (mailbox s src dst).drop taken
    .next (setMailbox s src dst (if !d.isEmpty && left.length < 8 then left ++ [(d ++ List.replicate 16 0).take 16] else left))

end Sys2Proof.Machine
end

