-- ==== Sys2Proof/Machine/Debug.lean ====
section
/-! DEFINITION. The debug port (R105, R399), what it shows of each piece of state, and the host's reads of BAR0 (R384, R385). -/

namespace Sys2Proof.Machine

/-- A run is one of a context's allocations: it holds it, or its launch does. -/
def ownsRun (s : State) (ctx : Nat) (r : Run) : Bool := r.owner = ctx || (getCtx s ctx).any (fun c => c.launch = r.owner)

/-- The core whose run of a kind a context holds, with the run, for a granule of its core store. -/
def debugRun (s : State) (ctx kind g : Nat) : Option (Nat × Run) :=
  match spaceOf (g * 64) with
  | .core k off => ((getCore s k).rows.find? (fun r => ownsRun s ctx r && r.kind = BitVec.ofNat 3 kind && r.first ≤ off / 256 &&
      off / 256 < r.first + r.count)).map (fun r => (k, r))
  | _ => none

/-- A tile's or vault unit's run that covers a granule. -/
def debugOther (s : State) (ctx kind g : Nat) : Option (BitVec 12) :=
  let key := g * 64
  match spaceOf key with
  | .vault v off => ((getVault s v).units.find? (fun r => ownsRun s ctx r && kind = 2 && r.first ≤ off / 65536 &&
      off / 65536 < r.first + r.count)).map Run.gen
  | .other =>
    let k := (key - tileKey 0 0 0) / 2 ^ 19
    let t := (key - tileKey 0 0 0) % 2 ^ 19 / 2048
    if kind = 6 && key < slotKey 0 0 0 then
      ((getCore s k).tileRuns.find? (fun r => ownsRun s ctx r && r.first ≤ t && t < r.first + r.count)).map Run.gen
    else none
  | _ => none

/-- The granules that a debug write of one reaches, with their generations (R124). -/
def debugCopies (s : State) (k : Nat) (r : Run) (g : Nat) : List (Nat × BitVec 12) :=
  (tableCopies s k (g * 64 - coreKey k 0) r.gen).map (fun x => (coreKey x.1 x.2.1, x.2.2))

/-- The generations of a context's allocations in the memory that holds a granule (R105). -/
def debugGens (s : State) (ctx g : Nat) : List (BitVec 12) :=
  let gens (rs : List Run) : List (BitVec 12) := (rs.filter (ownsRun s ctx)).map Run.gen
  let key := g * 64
  match spaceOf key with
  | .core k _ => gens (getCore s k).rows
  | .vault v _ => gens (getVault s v).units
  | .other => if key < slotKey 0 0 0 then gens (getCore s ((key - tileKey 0 0 0) / 2 ^ 19)).tileRuns else []
  | _ => []

/-- The stored bytes of a granule, with its tag. -/
def rawGranule (s : State) (g : Nat) : DebugData := ⟨false, tagAt s (g * 64), readBytes s (g * 64) 64⟩

/-- A granule as an allocation reads it under ZERO, with its tag. -/
def ownerGranule (s : State) (gen : BitVec 12) (g : Nat) : DebugData := ⟨false, tagAt s (g * 64), readTagged s (g * 64) gen 64⟩

/-- A refused answer, with zero data (R105). -/
def refusedData : DebugData := ⟨true, 0, List.replicate 64 0⟩

def shownData (r : Option (List Byte)) : DebugData := r.elim refusedData (fun bs => ⟨false, 0, bs⟩)

/-- The context of an identity, live or saved. -/
def anyCtx (s : State) (id : Nat) : Option Ctx :=
  (getCtx s id).orElse (fun _ => s.saved.findSome? (fun x => (x.parts.find? (fun p => p.ctx.id = id)).map Saved.ctx))

/-- The tenant that owns a launch, by the address of its block (R52). -/
def tenantOf (s : State) (launch : Nat) : Option Nat :=
  (getLaunch s launch).bind (fun l => ((chainOf s l).getLast?).map Node.addr)

/-- The launch whose state an access reads or writes; none for state that is nobody's. -/
def debugLaunch (s : State) : DebugAccess → Option Nat
  | .asOwner ctx _ _ _ | .raw ctx _ | .path ctx _ | .saveArea ctx | .context ctx | .system ctx _ | .ages ctx | .haltOnBreak ctx _ =>
    (anyCtx s ctx).map Ctx.launch
  | .engineState op => (getOp s op).map EngOp.launch
  | .launch id => some id
  | _ => none

/-- The host may make an access through the debug window: the security core's policy enables it for the tenant that owns what it
names; what no tenant owns, and a device whose boot was refused, do not answer there (R393, R399; log entry 123). -/
def windowAllows (s : State) (r : DebugAccess) : Bool :=
  s.stage ≠ 0xFF && ((debugLaunch s r).bind (tenantOf s)).any (fun t => s.hostDebug.contains t)

/-- A live context as a full save would hold it. -/
def ctxView (s : State) (c : Ctx) : List Byte :=
  let regs : SavedRun := if c.isGroup then saveRun s (coreKey c.core (c.regBase * 256)) (4 * c.vregs) c.regGen (fun _ => true) else ⟨[], [], []⟩
  let p : Saved :=
    { ctx := c, full := true, regs := regs, regRun := none, stores := [], waits := (getCore s c.core).matq.filter (fun x => x.ctx = c.id)
      ops := s.ops.filter (fun o => o.ctx = c.id) }
  p.area ((c.parent.bind (getCtx s)).bind (fun q => reportOf q c.id))

/-- A 32-bit register of BAR0 (R384, R385, R390): those that are write-only, and those not listed, read zero. -/
def bar0Value (s : State) (off : Nat) : Word :=
  if off = 0 then devstat s
  else if 0x4000 ≤ off && off < 0x4048 && off % 4 = 0 then portstat (s.ports.getD ((off - 0x4000) / 4) Port.reset)
  else 0

/-- A register outside the contexts, as it reads (R75, R356, R366, R369, R384). -/
def regValue (s : State) : DebugReg → Word
  | .bar0 off => bar0Value s off
  | .pwrslope => pwrslope s
  | .tokpool => tokpool s
  | .slicectl k => (getCore s k).slice
  | .ecnt k => (getCore s k).ce ++ (getCore s k).late

/-- 64-bit values, lowest byte first. -/
def quads (ns : List Nat) : List Byte := ns.flatMap (leBytes 8)

/-- A place as two values: its device, 2^12 for this one, and its line. -/
def placeValues : Place → List Nat
  | .here l => [2 ^ 12, l]
  | .peer d l => [d.toNat, l]

/-- State that the spec gives no record for, as 64-bit values in an order of the model's (R399; log entry 123). -/
def stateView (s : State) : DebugAccess → Option (List Byte)
  | .context ctx => (getCtx s ctx).map (ctxView s)
  | .system ctx n => (getCtx s ctx).map (fun c => wordBytes (sysRead s c n))
  | .ages ctx => (getCtx s ctx).map (fun c => quads (c.pendAge.toNat :: c.regionLen :: c.paths.map (fun p => p.age.toNat)))
  | .register r => some (wordBytes (regValue s r))
  | .rowTable k => some (getCore s k).rowTable
  | .tileTable k => some (getCore s k).tileTable
  | .slotTable k => some (getCore s k).slotTable
  | .unitTable v => some (getVault s v).unitTable
  | .deque k =>
    let c := getCore s k
    some (quads [c.deque.length, c.ringPos.toNat, c.ringCount.toNat, c.popped.isSome.toNat, c.latch.isSome.toNat, (c.latch.elim 0 Prod.snd)] ++
      (c.deque ++ c.popped.toList ++ (c.latch.map Prod.fst).toList).flatMap (fun f => (padWords 16 f).flatMap wordBytes))
  | .leases k => some (quads ((getCore s k).lines.flatMap (fun x => placeValues x.line ++
      [x.leaseEnd, x.asid.toNat, x.mapgen.toNat, x.scope.toNat, x.owner.toNat, x.pinned.toNat, x.bad.toNat, x.dirty.toNat % 2 ^ 64, x.dirty.toNat / 2 ^ 64])))
  | .coreCounters k =>
    let c := getCore s k
    some (quads ([c.genNext.toNat, c.rewriting.length, c.valid.length, c.matq.length, c.retryAt.getD 0] ++ c.skim.map BitVec.toNat))
  | .vaultCounters v => let x := getVault s v; some (quads ([x.genNext.toNat, x.share] ++ x.skim.map BitVec.toNat))
  | .versions k => some (quads ((List.range 256).map (fun t =>
      let x := tileOf s k t
      x.count * 2 ^ 9 + x.opened.toNat * 2 ^ 8 + x.version.toNat)))
  | .matrixQueue k => some ((getCore s k).matq.flatMap (fun x => quads [x.id, x.ctx, x.opcode, x.parent, x.slice, x.reg, x.loads,
      x.delivery.isSome.toNat, x.delivery.getD 0, x.started.toNat] ++ x.record))
  | .slotBytes k w => some (quads [((getCore s k).valid.contains w).toNat] ++ readBytes s (slotKey k w 0) 1024)
  | .fabric d => some (quads ((s.requests.filter (fun r => r.peer.toNat = d)).flatMap (fun r =>
      [r.id, r.ctx, r.addr, r.size, r.issued, r.answered.toNat, r.retry.toNat]) ++
      s.homeQ.flatMap (fun w => match w.line with
        | .peer p l => if p.toNat = d then [w.id, l, w.due, w.retry.toNat] else []
        | .here _ => [])))
  | .inbound => some (quads (s.inbound.flatMap (fun x => [x.access.peer.toNat, x.access.va.toNat, x.access.asid.toNat, x.access.mapgen.toNat,
      x.access.size, x.batch.getD 0])))
  | .deviceCache v => some (quads ((s.dcache.filter (fun x => x.2.1 = v)).flatMap (fun x => [x.1, x.2.2.toNat])))
  | .spaceTable => some (quads [s.astBase])
  | .telemetry => some (quads ([s.skimStalls, s.junction0, s.junction1, s.cap] ++ s.churns.flatMap (fun x => [x.1, x.2.1, x.2.2.toNat])))
  | .cluster cl =>
    let c := getCluster s cl
    some (quads ([c.limit.toNat, c.wave.toNat, c.gap.toNat, c.droops, c.stretched.toNat, c.excluded.toNat] ++
      c.grants.flatMap (fun g => [g.grid, g.block, g.core, g.first, g.count, g.gen.toNat]) ++ c.reels.flatMap (fun r => [r.nextAt, r.gap])))
  | .queue q => (getQueue s q).map (fun x => quads [x.desc, x.asid.toNat, x.log2n, x.token.toNat, x.ring, x.region, x.lattol, x.rptr.toNat,
      x.wptr.toNat, (if x.state = .error then 2 else 1), x.asleep.toNat, x.deadline.getD 0, x.slot.toNat, x.parked.getD 0])
  | .launch l => (getLaunch s l).map (fun x => quads [x.addr, x.qasid.toNat, x.queue, x.tasks, x.tokens, x.order, x.moved, x.late.toNat])
  | .region a => (getNode s a).map (fun n => (padWords 32 n.words).flatMap wordBytes ++
      quads [n.usedCores, n.usedVault, n.usedHbm, n.killed.toNat, n.kcode.toNat, n.klaunch])
  | .mailbox src dst => some ((mailbox s src dst).flatMap (fun e => (padWords 16 e).flatMap wordBytes))
  | .faultQueue => some (quads [s.fqBase, s.fqLog, s.fqProduced, s.fqConsumed, s.fqSeq.toNat])
  | .errorQueue => some (quads [s.errors.length, s.errOverflow.toNat])
  | .errorEntry n => (s.errors[n]?).map (fun e => (padWords 8 e).flatMap wordBytes)
  | .home l => some (quads (sget 0 s.horizons l :: (s.homeQ.filter (fun w => w.line = .here l)).map HomeWrite.due))
  | .accessCounter n => let x := sget (0, false) s.access n; some (quads [x.1.toNat, x.2.toNat])
  | _ => none

/-- What the debug port answers (R105): as owner, a granule as its allocation reads it under ZERO, with its tag; raw, the stored
bytes of a granule tagged by an allocation of a context whose region allows it. Anything else is refused, with zero data. The
records of R123, and every other state, are read as they stand (R399). -/
def debugAnswer (s : State) : DebugAccess → Option DebugData
  | .asOwner ctx kind g _ =>
    (match debugRun s ctx kind g, debugOther s ctx kind g with
     | some (_, run), _ => some (ownerGranule s run.gen g)
     | none, some gen => some (ownerGranule s gen g)
     | none, none => some refusedData)
  | .raw ctx g =>
    let flag := ((getCtx s ctx).bind (fun c => getLaunch s c.launch)).elim false Launch.rawdbg
    let x := rawGranule s g
    some (if flag && x.tag ≠ 0 && (debugGens s ctx g).contains x.tag then x else refusedData)
  | .path ctx i => some (shownData ((getCtx s ctx).bind (fun c => (c.paths[i]?).map (fun p => p.record.flatMap wordBytes))))
  | .engineState op => some (shownData (((getOp s op).filter (fun o => o.cls ≠ 1)).map (fun o => o.record.flatMap wordBytes)))
  | .saveArea ctx => some (shownData (saveArea s ctx))
  | .marker => some (shownData (some (s.marker.record.flatMap wordBytes)))
  | .haltOnBreak _ _ | .clearEcnt _ => s.debugOut
  | .window r => if windowAllows s r then debugAnswer s r else some refusedData
  | r => some (shownData (stateView s r))

/-- A debug read has no effect on the state it reads (R399); its answer stands at the port. -/
def execDebugRead (r : DebugAccess) (s : State) : Host.Outcome State Fault Refusal := .next { s with debugOut := debugAnswer s r }

/-- A debug write in as-owner mode follows R101 with the owner's generation; halt-on-break and the clearing of ECNT are the
port's other writes (R75, R105, R233, R399). -/
def debugWrite (s : State) : DebugAccess → State
  | .asOwner ctx kind g d =>
    let bs := d.take 64
    let whole (s : State) (k : Nat) : State := if bs.length = 64 then clearPoison s k else s
    (match debugRun s ctx kind g, debugOther s ctx kind g with
     | some (k, run), _ => (debugCopies s k run g).foldl (fun s x => whole (writeTagged s x.1 x.2 bs) x.1) s
     | none, some gen => whole (writeTagged s (g * 64) gen bs) (g * 64)
     | none, none => s)
  | .haltOnBreak c on =>
    let set : Ctx → Ctx := fun c => { c with haltOnBreak := on }
    modCtx s c set
  | .clearEcnt k =>
    let c := getCore s k
    setCore s k { c with ce := 0, late := 0 }
  | .window r => if windowAllows s r then debugWrite s r else s
  | _ => s

/-- DEBUG_WRITE (R105, R399). -/
def execDebugWrite (r : DebugAccess) (s : State) : Host.Outcome State Fault Refusal := .next (debugWrite s r)

/-- A host read of DEVSTAT at BAR0 offset 0 clears RETAINED (R384, R385). -/
def execDevstatRead (s : State) : Host.Outcome State Fault Refusal := .next { s with hostOut := some (bar0Value s 0), retained := false }

end Sys2Proof.Machine
end

