-- ==== Sys2Proof/Machine/Dispatch.lean ====
section
/-! DEFINITION. Which meaning each instruction has: one arm per constructor, one call per arm. -/

namespace Sys2Proof.Machine

def exec (i : Instr) (s : State) : Host.Outcome State Fault Refusal :=
  match i with
  | .add sp d a b => Sys2Proof.Machine.execAdd sp d a b s
  | .sub sp d a b => Sys2Proof.Machine.execSub sp d a b s
  | .mul sp d a b => Sys2Proof.Machine.execMul sp d a b s
  | .mulh sp d a b => Sys2Proof.Machine.execMulh sp d a b s
  | .mulhu sp d a b => Sys2Proof.Machine.execMulhu sp d a b s
  | .andr sp d a b => Sys2Proof.Machine.execAndr sp d a b s
  | .orr sp d a b => Sys2Proof.Machine.execOrr sp d a b s
  | .xorr sp d a b => Sys2Proof.Machine.execXorr sp d a b s
  | .shl sp d a b => Sys2Proof.Machine.execShl sp d a b s
  | .shr sp d a b => Sys2Proof.Machine.execShr sp d a b s
  | .sar sp d a b => Sys2Proof.Machine.execSar sp d a b s
  | .minr sp d a b => Sys2Proof.Machine.execMinr sp d a b s
  | .maxr sp d a b => Sys2Proof.Machine.execMaxr sp d a b s
  | .minu sp d a b => Sys2Proof.Machine.execMinu sp d a b s
  | .maxu sp d a b => Sys2Proof.Machine.execMaxu sp d a b s
  | .slt sp d a b => Sys2Proof.Machine.execSlt sp d a b s
  | .sltu sp d a b => Sys2Proof.Machine.execSltu sp d a b s
  | .seq sp d a b => Sys2Proof.Machine.execSeq sp d a b s
  | .clz sp d a => Sys2Proof.Machine.execClz sp d a s
  | .popc sp d a => Sys2Proof.Machine.execPopc sp d a s
  | .divu sp d a b => Sys2Proof.Machine.execDivu sp d a b s
  | .remu sp d a b => Sys2Proof.Machine.execRemu sp d a b s
  | .bfx sp d a b => Sys2Proof.Machine.execBfx sp d a b s
  | .addi sp d a imm => Sys2Proof.Machine.execAddi sp d a imm s
  | .andi sp d a imm => Sys2Proof.Machine.execAndi sp d a imm s
  | .ori sp d a imm => Sys2Proof.Machine.execOri sp d a imm s
  | .xori sp d a imm => Sys2Proof.Machine.execXori sp d a imm s
  | .shli sp d a imm => Sys2Proof.Machine.execShli sp d a imm s
  | .shri sp d a imm => Sys2Proof.Machine.execShri sp d a imm s
  | .sari sp d a imm => Sys2Proof.Machine.execSari sp d a imm s
  | .slti sp d a imm => Sys2Proof.Machine.execSlti sp d a imm s
  | .movi sp d m => Sys2Proof.Machine.execMovi sp d m s
  | .movhi sp d m => Sys2Proof.Machine.execMovhi sp d m s
  | .movl sp d lit => Sys2Proof.Machine.execMovl sp d lit s
  | .addiw sp d m => Sys2Proof.Machine.execAddiw sp d m s
  | .lds sp d a imm => Sys2Proof.Machine.execLds sp d a imm s
  | .sts sp d a imm => Sys2Proof.Machine.execSts sp d a imm s
  | .sbld sp d a b => Sys2Proof.Machine.execSbld sp d a b s
  | .sbst sp d a b => Sys2Proof.Machine.execSbst sp d a b s
  | .satom sp d a b lit => Sys2Proof.Machine.execSatom sp d a b lit s
  | .grow sp m => Sys2Proof.Machine.execGrow sp m s
  | .br sp sc off => Sys2Proof.Machine.execBr sp sc off s
  | .bz sp sc a off => Sys2Proof.Machine.execBz sp sc a off s
  | .bnz sp sc a off => Sys2Proof.Machine.execBnz sp sc a off s
  | .bltz sp sc a off => Sys2Proof.Machine.execBltz sp sc a off s
  | .bgez sp sc a off => Sys2Proof.Machine.execBgez sp sc a off s
  | .buni sp sc n off => Sys2Proof.Machine.execBuni sp sc n off s
  | .call sp sc off => Sys2Proof.Machine.execCall sp sc off s
  | .ret sp sc => Sys2Proof.Machine.execRet sp sc s
  | .loop sp sc a off => Sys2Proof.Machine.execLoop sp sc a off s
  | .loopNext sp sc => Sys2Proof.Machine.execLoopNext sp sc s
  | .loopLeave sp sc => Sys2Proof.Machine.execLoopLeave sp sc s
  | .endc sp sc => Sys2Proof.Machine.execEndc sp sc s
  | .brl sp sc n off => Sys2Proof.Machine.execBrl sp sc n off s
  | .meet sp sc off => Sys2Proof.Machine.execMeet sp sc off s
  | .lane sp d m => Sys2Proof.Machine.execLane sp d m s
  | .lsync sp => Sys2Proof.Machine.execLsync sp s
  | .ptos sp d n => Sys2Proof.Machine.execPtos sp d n s
  | .vtos sp d a l => Sys2Proof.Machine.execVtos sp d a l s
  | .vtosPair sp d a l => Sys2Proof.Machine.execVtosPair sp d a l s
  | .vtosFirst sp d a => Sys2Proof.Machine.execVtosFirst sp d a s
  | .exmr sp d => Sys2Proof.Machine.execExmr sp d s
  | .exmw sp a => Sys2Proof.Machine.execExmw sp a s
  | .down sp d m => Sys2Proof.Machine.execDown sp d m s
  | .segend sp => Sys2Proof.Machine.execSegend sp s
  | .up sp a op => Sys2Proof.Machine.execUp sp a op s
  | .gather sp d op => Sys2Proof.Machine.execGather sp d op s
  | .bar sp n => Sys2Proof.Machine.execBar sp n s
  | .barc sp n => Sys2Proof.Machine.execBarc sp n s
  | .waitf sp m => Sys2Proof.Machine.execWaitf sp m s
  | .waite sp cls t => Sys2Proof.Machine.execWaite sp cls t s
  | .waita sp d a b => Sys2Proof.Machine.execWaita sp d a b s
  | .tryw sp d a b lit => Sys2Proof.Machine.execTryw sp d a b lit s
  | .fence sp kind sc => Sys2Proof.Machine.execFence sp kind sc s
  | .spawn sp d => Sys2Proof.Machine.execSpawn sp d s
  | .joinc sp d a b lit => Sys2Proof.Machine.execJoinc sp d a b lit s
  | .tcopy sp d a b => Sys2Proof.Machine.execTcopy sp d a b s
  | .gcopy sp d a b => Sys2Proof.Machine.execGcopy sp d a b s
  | .wbload sp d a b => Sys2Proof.Machine.execWbload sp d a b s
  | .rcopy sp d a b => Sys2Proof.Machine.execRcopy sp d a b s
  | .getsr sp d m => Sys2Proof.Machine.execGetsr sp d m s
  | .setsr sp d m => Sys2Proof.Machine.execSetsr sp d m s
  | .trap sp m => Sys2Proof.Machine.execTrap sp m s
  | .sigchk sp lit => Sys2Proof.Machine.execSigchk sp lit s
  | .brk sp m => Sys2Proof.Machine.execBrk sp m s
  | .nop sp => Sys2Proof.Machine.execNop sp s
  | .vadd f => Sys2Proof.Machine.execVadd f s
  | .vsub f => Sys2Proof.Machine.execVsub f s
  | .vmul f => Sys2Proof.Machine.execVmul f s
  | .vmulh f => Sys2Proof.Machine.execVmulh f s
  | .vmulhu f => Sys2Proof.Machine.execVmulhu f s
  | .vmad f => Sys2Proof.Machine.execVmad f s
  | .vand f => Sys2Proof.Machine.execVand f s
  | .vor f => Sys2Proof.Machine.execVor f s
  | .vxor f => Sys2Proof.Machine.execVxor f s
  | .vshl f => Sys2Proof.Machine.execVshl f s
  | .vshr f => Sys2Proof.Machine.execVshr f s
  | .vsar f => Sys2Proof.Machine.execVsar f s
  | .vmin f => Sys2Proof.Machine.execVmin f s
  | .vmax f => Sys2Proof.Machine.execVmax f s
  | .vminu f => Sys2Proof.Machine.execVminu f s
  | .vmaxu f => Sys2Proof.Machine.execVmaxu f s
  | .vabs f => Sys2Proof.Machine.execVabs f s
  | .vclz f => Sys2Proof.Machine.execVclz f s
  | .vpopc f => Sys2Proof.Machine.execVpopc f s
  | .vbfx f => Sys2Proof.Machine.execVbfx f s
  | .vbfi f => Sys2Proof.Machine.execVbfi f s
  | .vsel f => Sys2Proof.Machine.execVsel f s
  | .vmov f => Sys2Proof.Machine.execVmov f s
  | .vcmp f => Sys2Proof.Machine.execVcmp f s
  | .vadds f => Sys2Proof.Machine.execVadds f s
  | .plog f => Sys2Proof.Machine.execPlog f s
  | .fadd f => Sys2Proof.Machine.execFadd f s
  | .fsub f => Sys2Proof.Machine.execFsub f s
  | .fmul f => Sys2Proof.Machine.execFmul f s
  | .ffma f => Sys2Proof.Machine.execFfma f s
  | .fmin f => Sys2Proof.Machine.execFmin f s
  | .fmax f => Sys2Proof.Machine.execFmax f s
  | .fcmp f => Sys2Proof.Machine.execFcmp f s
  | .frcp f => Sys2Proof.Machine.execFrcp f s
  | .frsq f => Sys2Proof.Machine.execFrsq f s
  | .fsqrt f => Sys2Proof.Machine.execFsqrt f s
  | .fexp f => Sys2Proof.Machine.execFexp f s
  | .flog f => Sys2Proof.Machine.execFlog f s
  | .frint f => Sys2Proof.Machine.execFrint f s
  | .fldexp f => Sys2Proof.Machine.execFldexp f s
  | .fexpx f => Sys2Proof.Machine.execFexpx f s
  | .fclass f => Sys2Proof.Machine.execFclass f s
  | .hadd2 f => Sys2Proof.Machine.execHadd2 f s
  | .hmul2 f => Sys2Proof.Machine.execHmul2 f s
  | .hfma2 f => Sys2Proof.Machine.execHfma2 f s
  | .cvt f => Sys2Proof.Machine.execCvt f s
  | .quant f => Sys2Proof.Machine.execQuant f s
  | .packb f => Sys2Proof.Machine.execPackb f s
  | .unpkb f => Sys2Proof.Machine.execUnpkb f s
  | .shfl f => Sys2Proof.Machine.execShfl f s
  | .shflx f => Sys2Proof.Machine.execShflx f s
  | .vote f => Sys2Proof.Machine.execVote f s
  | .redux f => Sys2Proof.Machine.execRedux f s
  | .scan f => Sys2Proof.Machine.execScan f s
  | .bld f => Sys2Proof.Machine.execBld f s
  | .bst f => Sys2Proof.Machine.execBst f s
  | .batom f => Sys2Proof.Machine.execBatom f s
  | .bpf f => Sys2Proof.Machine.execBpf f s
  | .lld f => Sys2Proof.Machine.execLld f s
  | .lst f => Sys2Proof.Machine.execLst f s
  | .latom f => Sys2Proof.Machine.execLatom f s
  | .pld f => Sys2Proof.Machine.execPld f s
  | .pst f => Sys2Proof.Machine.execPst f s
  | .vld f => Sys2Proof.Machine.execVld f s
  | .vst f => Sys2Proof.Machine.execVst f s
  | .mma f => Sys2Proof.Machine.execMma f s
  | .accrd f => Sys2Proof.Machine.execAccrd f s
  | .accwr f => Sys2Proof.Machine.execAccwr f s
  | .accz f => Sys2Proof.Machine.execAccz f s
  | .lnop f => Sys2Proof.Machine.execLnop f s
  | .clauseHead c => Sys2Proof.Machine.execClauseHead c s
  | .laneCompletion c op lanes => Sys2Proof.Machine.execLaneCompletion c op lanes s
  | .segmentStart c => Sys2Proof.Machine.execSegmentStart c s
  | .endMarker c => Sys2Proof.Machine.execEndMarker c s
  | .contextEnd c => Sys2Proof.Machine.execContextEnd c s
  | .gridRetire l => Sys2Proof.Machine.execGridRetire l s
  | .descentUnstall c => Sys2Proof.Machine.execDescentUnstall c s
  | .barrierOpen owner n => Sys2Proof.Machine.execBarrierOpen owner n s
  | .reelWave cl => Sys2Proof.Machine.execReelWave cl s
  | .waitaWake c => Sys2Proof.Machine.execWaitaWake c s
  | .trywWake c => Sys2Proof.Machine.execTrywWake c s
  | .trywTimeout c => Sys2Proof.Machine.execTrywTimeout c s
  | .growGrant c => Sys2Proof.Machine.execGrowGrant c s
  | .ownerPop k => Sys2Proof.Machine.execOwnerPop k s
  | .steal k => Sys2Proof.Machine.execSteal k s
  | .stealRetry k => Sys2Proof.Machine.execStealRetry k s
  | .taskStart k => Sys2Proof.Machine.execTaskStart k s
  | .engineOpStart k cls => Sys2Proof.Machine.execEngineOpStart k cls s
  | .ringSlotTake op => Sys2Proof.Machine.execRingSlotTake op s
  | .landing op blk => Sys2Proof.Machine.execLanding op blk s
  | .engineRetire c cls => Sys2Proof.Machine.execEngineRetire c cls s
  | .engineResume op => Sys2Proof.Machine.execEngineResume op s
  | .weightDelivery k n => Sys2Proof.Machine.execWeightDelivery k n s
  | .octetStart k n => Sys2Proof.Machine.execOctetStart k n s
  | .octetComplete k n => Sys2Proof.Machine.execOctetComplete k n s
  | .acczPerform k n => Sys2Proof.Machine.execAcczPerform k n s
  | .homeWrite n => Sys2Proof.Machine.execHomeWrite n s
  | .l1WriteBack k line bad => Sys2Proof.Machine.execL1WriteBack k line bad s
  | .deviceCacheEviction line => Sys2Proof.Machine.execDeviceCacheEviction line s
  | .tagRewrite k row => Sys2Proof.Machine.execTagRewrite k row s
  | .skim g => Sys2Proof.Machine.execSkim g s
  | .accessCounterHalve => Sys2Proof.Machine.execAccessCounterHalve s
  | .regionMigrate asid region frame free full => Sys2Proof.Machine.execRegionMigrate asid region frame free full s
  | .mapChange asid table edits => Sys2Proof.Machine.execMapChange asid table edits s
  | .faultBatchServed => Sys2Proof.Machine.execFaultBatchServed s
  | .pageReplay c => Sys2Proof.Machine.execPageReplay c s
  | .atomicReissue c => Sys2Proof.Machine.execAtomicReissue c s
  | .fetchRetry c => Sys2Proof.Machine.execFetchRetry c s
  | .kill => Sys2Proof.Machine.execKill s
  | .preemption l => Sys2Proof.Machine.execPreemption l s
  | .restore l => Sys2Proof.Machine.execRestore l s
  | .growDeadlock k => Sys2Proof.Machine.execGrowDeadlock k s
  | .lattolExpiry l => Sys2Proof.Machine.execLattolExpiry l s
  | .placement l => Sys2Proof.Machine.execPlacement l s
  | .tokenGrant l => Sys2Proof.Machine.execTokenGrant l s
  | .depNotification => Sys2Proof.Machine.execDepNotification s
  | .activeSetSwap c => Sys2Proof.Machine.execActiveSetSwap c s
  | .agelimSwap c => Sys2Proof.Machine.execAgelimSwap c s
  | .doorbell v => Sys2Proof.Machine.execDoorbell v s
  | .queueCreate v => Sys2Proof.Machine.execQueueCreate v s
  | .queueDestroy v => Sys2Proof.Machine.execQueueDestroy v s
  | .thermalHoldRelease v t => Sys2Proof.Machine.execThermalHoldRelease v t s
  | .queueSlotTake q => Sys2Proof.Machine.execQueueSlotTake q s
  | .queueWake => Sys2Proof.Machine.execQueueWake s
  | .nopPacket q => Sys2Proof.Machine.execNopPacket q s
  | .launchPacket q => Sys2Proof.Machine.execLaunchPacket q s
  | .waitPacket q => Sys2Proof.Machine.execWaitPacket q s
  | .signalPacket q => Sys2Proof.Machine.execSignalPacket q s
  | .regionPacket q => Sys2Proof.Machine.execRegionPacket q s
  | .unknownPacket q => Sys2Proof.Machine.execUnknownPacket q s
  | .queueUnpark q => Sys2Proof.Machine.execQueueUnpark q s
  | .selfTest v => Sys2Proof.Machine.execSelfTest v s
  | .selfTestEnd r => Sys2Proof.Machine.execSelfTestEnd r s
  | .devstatRead => Sys2Proof.Machine.execDevstatRead s
  | .registerWrite t v => Sys2Proof.Machine.execRegisterWrite t v s
  | .slopeWrite cl lim => Sys2Proof.Machine.execSlopeWrite cl lim s
  | .tokpoolWrite v => Sys2Proof.Machine.execTokpoolWrite v s
  | .slicectlWrite k v => Sys2Proof.Machine.execSlicectlWrite k v s
  | .powerCheck draw => Sys2Proof.Machine.execPowerCheck draw s
  | .droop cl on => Sys2Proof.Machine.execDroop cl on s
  | .churn on => Sys2Proof.Machine.execChurn on s
  | .thermalThrottle t => Sys2Proof.Machine.execThermalThrottle t s
  | .thermalShutdown t => Sys2Proof.Machine.execThermalShutdown t s
  | .supplyLoss die => Sys2Proof.Machine.execSupplyLoss die s
  | .supplyResume lost => Sys2Proof.Machine.execSupplyResume lost s
  | .coldReset => Sys2Proof.Machine.execColdReset s
  | .boot img => Sys2Proof.Machine.execBoot img s
  | .getMeasurements => Sys2Proof.Machine.execGetMeasurements s
  | .mailboxSend src dst taken d => Sys2Proof.Machine.execMailboxSend src dst taken d s
  | .flitReplay p count => Sys2Proof.Machine.execFlitReplay p count s
  | .retrain p failed peer => Sys2Proof.Machine.execRetrain p failed peer s
  | .inboundPeerAccess r => Sys2Proof.Machine.execInboundPeerAccess r s
  | .remoteResolutionNotice id => Sys2Proof.Machine.execRemoteResolutionNotice id s
  | .rtimeout id => Sys2Proof.Machine.execRtimeout id s
  | .hostWrite addr d => Sys2Proof.Machine.execHostWrite addr d s
  | .hostSnoop line => Sys2Proof.Machine.execHostSnoop line s
  | .debugRead r => Sys2Proof.Machine.execDebugRead r s
  | .debugWrite r => Sys2Proof.Machine.execDebugWrite r s
  | .debugResume c => Sys2Proof.Machine.execDebugResume c s
  | .auxiliaryRailFailure => Sys2Proof.Machine.execAuxiliaryRailFailure s
  | .thermalHoldTemperatureFall t => Sys2Proof.Machine.execThermalHoldTemperatureFall t s
  | .partnerRetention p => Sys2Proof.Machine.execPartnerRetention p s
  | .cacheShareChange v share => Sys2Proof.Machine.execCacheShareChange v share s
  | .remoteAnswer id ans => Sys2Proof.Machine.execRemoteAnswer id ans s
  | .pcieRecovery ok => Sys2Proof.Machine.execPcieRecovery ok s

end Sys2Proof.Machine
end

