-- ==== Sys2Proof/Machine/Turn.lean ====
section
/-! DEFINITION. One turn of an agent (R14, R39, R361): fetching and decoding the next word of a stream (R161, R165, R401), the
stalls and waits at its boundary, the pending ages (R156), and what every step adds: device time and upsets (R19, R75,
R347). And the machine with one instruction put where the next step fetches it. -/

namespace Sys2Proof.Machine

/-! Fetching -/

/-- The words of the control instruction at an offset, or the first fetch that failed. -/
def fetchWords (s : State) (c : Ctx) (off : Nat) : Nat → Except Fetch (List Word)
  | 0 => .ok []
  | n + 1 =>
    match fetchCtrl s c off with
    | .word w => (fetchWords s c (off + 1) n).map (fun ws => w :: ws)
    | f => .error f

/-- The words of the instruction at the pc: as many as its first word says, one where that word has no opcode (R161, R188). -/
def ctrlWordsAt (s : State) (c : Ctx) : Except Fetch (List Word) :=
  match fetchCtrl s c c.pc.toNat with
  | .word w =>
    match decodeCtrl w 0 0 with
    | .error .opcode => .ok [w]
    | _ => fetchWords s c c.pc.toNat (ctrlLength w)
  | f => .error f

/-- What a control fetch that yields no word does (R36, R164, R347, R401). -/
def ctrlFetchStop (s : State) (c : Ctx) : Fetch → Host.Outcome State Fault Refusal
  | .word _ => .next s
  | .wait => .next s
  | .absent va => .next (stallFetch s c va (trapPcOf false c.pc.toNat))
  | .peer d a => .next (askFetch s c d a (trapPcOf false c.pc.toNat))
  | .outside => .next (takeFault s c ILLEGAL none false c.pc.toNat 0)
  | .hole a => .fault (.noFrame a)
  | .bad k => .next (scalarUe s c c.pc.toNat k)

/-- A batch that found no room is written in its place in the line once there is some, and its context waits for it (R118). -/
def retryBatch (s : State) (c : Ctx) (recs : List (List Word)) (isFetch : Bool) : State :=
  if fqServes s (.scalar c.id) recs.length then
    let (b, s1) := fqBatch s recs
    setCtx s1 { c with mode := if isFetch then .fetch b else .page b }
  else fqJoin s (.scalar c.id)

/-- The same for a batch of the lane stream. -/
def retryLaneBatch (s : State) (c : Ctx) (recs : List (List Word)) (isFetch : Bool) : State :=
  if fqServes s (.lane c.id) recs.length then
    let (b, s1) := fqBatch s recs
    setCtx s1 { c with laneMode := if isFetch then .fetch b else .atomic b }
  else fqJoin s (.lane c.id)

/-- The trap segment begins once what had issued, and for a scalar fault what had been enqueued, is complete (R337, steps 2
to 8). -/
def beginTrap (s : State) (c : Ctx) : State :=
  if c.flights.isEmpty && c.clauses.isEmpty then
    { setCtx s (c.enterTrap (BitVec.ofNat 24 (trapSegOf s c)) s.nextId) with nextId := s.nextId + 1 }
  else s

/-- The resident group may issue: it is in the active set, or its partition holds four groups or fewer (R361). -/
def mayIssue (s : State) (c : Ctx) : Bool := !c.isGroup || c.active || (partition s c).length ≤ 4

/-- The registers of an engine instruction: the descriptor's address, and the coordinates that it has, one more than its highest
dimension (R228). -/
def engineSources (s : State) (c : Ctx) (first : List Nat) (a : Reg) (runs : List Reg) : List Nat :=
  a.toNat :: first ++ (match readDesc s c (c.sreg a.toNat).toNat with
    | .ok ws => runs.flatMap (fun r => (List.range ((parseDesc ws).ndim + 1)).map (fun i => r.toNat + i))
    | .error _ => [])

/-- The scalar registers whose values an instruction consumes (R194 to R233). The other instructions, lane words and events
consume none. -/
def scalarSources (s : State) (c : Ctx) : Instr → List Nat
  | .add _ _ a b | .sub _ _ a b | .mul _ _ a b | .mulh _ _ a b | .mulhu _ _ a b | .andr _ _ a b | .orr _ _ a b
  | .xorr _ _ a b | .shl _ _ a b | .shr _ _ a b | .sar _ _ a b | .minr _ _ a b | .maxr _ _ a b | .minu _ _ a b
  | .maxu _ _ a b | .slt _ _ a b | .sltu _ _ a b | .seq _ _ a b | .divu _ _ a b | .remu _ _ a b | .bfx _ _ a b =>
    [a.toNat, b.toNat]
  | .clz _ _ a | .popc _ _ a | .addi _ _ a _ | .andi _ _ a _ | .ori _ _ a _ | .xori _ _ a _ | .shli _ _ a _ | .shri _ _ a _
  | .sari _ _ a _ | .slti _ _ a _ | .lds _ _ a _ | .sbld _ _ a _ | .up _ a _ | .bz _ _ a _ | .bnz _ _ a _ | .bltz _ _ a _
  | .bgez _ _ a _ | .loop _ _ a _ => [a.toNat]
  | .movhi _ d _ | .addiw _ d _ | .setsr _ d _ => [d.toNat]
  | .sts _ d a _ | .sbst _ d a _ | .tryw _ d a _ _ => [d.toNat, a.toNat]
  | .satom _ _ a _ lit => a.toNat :: bits lit 23 16 :: (if bits lit 3 0 = 9 then [bits lit 31 24] else [])
  | .lane _ d _ | .down _ d _ => (List.range 4).map (fun i => d.toNat + i)
  | .exmw _ a => [a.toNat, a.toNat + 1]
  | .waita _ _ a b => if waitaRing c a then [a.toNat] else [a.toNat, b.toNat]
  | .spawn _ d => (List.range 16).map (fun i => d.toNat + i)
  | .joinc _ d a b _ => a.toNat :: b.toNat :: (List.range 16).map (fun i => d.toNat + i)
  | .tcopy _ d a b | .rcopy _ d a b => engineSources s c [] a [d, b]
  | .gcopy _ d a b | .wbload _ d a b => engineSources s c [d.toNat] a [b]
  | _ => []

/-! The two streams -/

/-- The control stream of a context takes its turn. An instruction that would consume an uncorrectable scalar register is told so
(R347). -/
def ctrlTurn (id : Nat) (s : State) : Host.Outcome State Fault Refusal :=
  match getCtx s id with
  | none => .next s
  | some c =>
    if !powered s then .next s
    else
      match c.mode with
      | .batch recs isFetch => .next (retryBatch s c recs isFetch)
      | .trap => .next (beginTrap s c)
      | _ =>
        if !c.canRun || !mayIssue s c then .next s
        else
          match ctrlWordsAt s c with
          | .error f => ctrlFetchStop s c f
          | .ok ws =>
            match decodeCtrlWords ws with
            | .ok (i, _) => exec i (if (scalarSources s c i).any c.sregUe then { s with turn := .ctrlUe id } else s)
            | .error _ => .next (takeFault s c ILLEGAL none false c.pc.toNat 0)

/-- The lane stream of a group or task takes its turn. -/
def laneTurn (id : Nat) (s : State) : Host.Outcome State Fault Refusal :=
  match getCtx s id with
  | none => .next s
  | some c =>
    if !powered s then .next s
    else
      match c.laneMode with
      | .batch recs isFetch => .next (retryLaneBatch s c recs isFetch)
      | _ =>
        match c.headClause with
        | none => .next s
        | some q =>
          if !c.lanesRun || !q.started || !mayIssue s c || (!q.issued && !c.flagsClear q.waitMask) then .next s
          else
            match laneWords s c q.at [0, 1, 2] with
            | .error f => laneFetchStop s c q.at f
            | .ok ws =>
              if (q.flagOf ((ws.getD 1 0).extractLsb' 10 2)).any (fun n => 255 ≤ c.flagCount n) then .next s
              else match decodeLaneWords ws with
              | .ok i => exec i s
              | .error _ => .next (takeFault s c ILLEGAL none true q.at 0)

/-- A ready pending group of the partition is one issue slot older (R156). -/
def olderPending (s : State) (c x : Ctx) : Ctx :=
  if x.isGroup && x.core = c.core && x.slot % 16 = c.slot % 16 && x.id ≠ c.id && !x.active && !swapsOut s x then
    { x with pendAge := if x.pendAge = 0xFFFF then x.pendAge else x.pendAge + 1 }
  else x

/-- After an issue of a group, the others of its partition age (R156). -/
def agePending (id : Nat) (s t : State) : State :=
  match getCtx s id with
  | none => t
  | some c =>
    if c.isGroup && (getCtx t id).any (fun x => x.issues ≠ c.issues) then
      let old := olderPending t c
      { t with ctxs := t.ctxs.map old }
    else t

/-- A turn of a stream, with the pending ages. -/
def streamTurn (id : Nat) (s : State) : Host.Outcome State Fault Refusal → Host.Outcome State Fault Refusal
  | .next t => .next (agePending id s t)
  | r => r

/-- The agent whose turn it is acts (R14; log entry 1). -/
def turnStep (s : State) : Host.Outcome State Fault Refusal :=
  match s.turn with
  | .ctrl id => streamTurn id s (ctrlTurn id s)
  | .lane id => streamTurn id s (laneTurn id s)
  | .event i => exec i s
  | .ctrlUe _ => .next s

/-! What every step adds (R19, R75, R347; log entries 1 and 4) -/

/-- A correctable error is counted (R75). -/
def countCorrected (s : State) (k : Nat) : State :=
  if k < s.cores.length then
    let c := getCore s k
    setCore s k { c with ce := if c.ce = 0xFFFF then c.ce else c.ce + 1 }
  else s

/-- The reader and writer still waits at its home. -/
def holderLive (s : State) : Holder → Bool
  | .scalar id pc => (getCtx s id).any (fun c => (c.mode == .run || c.mode == .ending) && c.pc = pc)
  | .lane id f l => (getCtx s id).any (fun c => c.alive && c.flights.any (fun x => x.id = f && x.accs.any (fun a => a.lane = l)))
  | .engine id => (getOp s id).any (fun o => o.stage = .started)

/-- A place held for an access that is no longer made is given up. -/
def dropHolds (s : State) : State := { s with homeQ := s.homeQ.filter (fun w => w.hold.all (holderLive s)) }

/-- Device time moves on each die, the copies at most 4 ns apart (R19). -/
def nextTimes (t0 t1 : Nat) (d : Nat × Nat) : Nat × Nat :=
  let a := t0 + d.1
  (a, max (a - 4) (min (t1 + d.2) (a + 4)))

/-- A stretched cluster's clock loses a fifth of the time that passes on its die (R18, R367). -/
def Cluster.after (c : Cluster) (ns : Nat) : Cluster := if c.stretched then { c with lag := c.lag + ns } else c

/-- The scalars of a context that an upset strikes (R347). -/
def Ctx.struck (c : Ctx) (hits : List (Nat × Nat)) : Ctx :=
  { c with sregBad := c.sregBad ++ (hits.filter (fun h => h.1 = c.id)).map Prod.snd }

/-- Time passes, errors strike, and the next agent is chosen. -/
def tick (s : State) : State :=
  let n := s.steps
  let times := nextTimes s.time0 s.time1 (Config.freeDelta n)
  let ns (k : Nat) : Nat := if clusterDie k = 0 then times.1 - s.time0 else times.2 - s.time1
  let s1 := (Config.freeCorrected n).foldl countCorrected (settleActive (dropHolds s))
  { s1 with
    time0 := times.1
    time1 := times.2
    ctxs := s1.ctxs.map (fun c => c.struck (Config.freeScalarUpset n))
    clusters := s1.clusters.mapIdx (fun k c => c.after (ns k))
    poison := s1.poison ++ Config.freeUpset n
    steps := n + 1
    turn := Config.freeTurn n }

/-- The outcome of a step from that of its turn. -/
def afterTurn : Host.Outcome State Fault Refusal → Host.Outcome State Fault Refusal
  | .next s => .next (tick s)
  | r => r

/-! One instruction where the next step fetches it -/

/-- The level of a context that may execute a control opcode: a task for SPAWN and JOINC, a block for DOWN and GATHER (R184). -/
def levelOf (op : Nat) : BitVec 3 × Bool :=
  if op = 0x48 || op = 0x4B then (2, false) else if op = 0x58 || op = 0x59 then (1, true) else (1, false)

/-- A launch whose code object stands at virtual address 0 of space 0: four control sections of 256 bytes, then the lanes. -/
def codeLaunch (id : Nat) : Launch :=
  { id := id, addr := 0, qasid := 0, queue := 0
    words := [0, 0, 0, 0, 0, 0, 0, 0, 0, 256, 512, 768, 1024, 0, 0, 0x0000FFFF]
    image := [], stage := .placed, since := 0, lease := 8, stale := false, nbv := 2, rawdbg := false, cores := [0], vruns := []
    tasks := 0, gridEnd := false, tokens := 0, token := false, order := id, moved := id, late := false }

/-- The translation of page 0 of space 0: its tables in frames 1 to 3, its page in frame 4 (R97, R130). -/
def mapCode (s : State) : State :=
  let entry (s : State) (k frame : Nat) : State := writeBytes s k (leBytes 8 (frame * 65536 + 1))
  entry (entry (entry (entry s s.astBase 1) 0x10000 2) 0x20000 3) 0x30000 4

/-- The device with one context that fetches the instruction next (host interface; log entry 1): it is powered, space 0 holds
the code, and it is that context's turn. -/
def placeWord (s : State) (nbits w : Nat) : State :=
  let wd (k : Nat) : Word := BitVec.ofNat 32 (w / 2 ^ (32 * k))
  let lane := 64 < nbits
  let l := s.nextId
  let lv := levelOf (ctrlOpcode (wd 0))
  let level := if lane then (1, false) else lv
  let c0 := newCtx (l + 1) level.1 l none 0 (if level.1 = 1 then 64 else 0) 1
  let q : Clause := ⟨l + 2, 0, [0, 0, 0, 0], c0.present, 2, 0, 0, none, 240, true, 0x0000FF00, 0, 1, false⟩
  let c : Ctx := { c0 with task := level.2, vregs := 240, clauses := if lane then [q] else [] }
  let s1 := mapCode { s with
    supply := .on
    stage := if s.stage = 0xFF then 0 else s.stage
    ctxs := s.ctxs ++ [c]
    launches := s.launches ++ [codeLaunch l]
    nextId := l + 3
    changing := s.changing.filter (· ≠ 0)
    poison := s.poison.filter (fun g => g < 0x1000 || 0x1400 ≤ g)
    turn := if lane then .lane (l + 1) else .ctrl (l + 1) }
  let off := if lane then 1024 + 12 else 256 * sectOf c.level
  writeWords s1 (0x40000 + off) [wd 0, wd 1, wd 2]

end Sys2Proof.Machine
end

