-- ==== Sys2Proof/Safety.lean ====
section
/-! DEFINITION. The terms in which claims are stated: memory in canonical form, die clocks in step (R19), and when the
context whose turn it is executes its control or lane instruction with none of the faults of R189 and R192. -/

namespace Sys2Proof.Machine

/-- Memory and tags in canonical form. -/
def State.canonical (s : State) : Prop := Memory.wf s.mem = true ∧ sparseWf 0 s.tags = true

/-- The device times of the two dies are at most 4 ns apart (R19). -/
def State.clocksAgree (s : State) : Prop := s.time0 ≤ s.time1 + 4 ∧ s.time1 ≤ s.time0 + 4

/-- The context `c` has the turn of its control stream and can use it. -/
structure CtrlTurn (s : State) (c : Ctx) : Prop where
  turn : s.turn = .ctrl c.id
  found : getCtx s c.id = some c
  runs : c.canRun = true
  power : powered s = true

/-- None of the checks of R189 stops the instruction `sp` in the context `c`: the safe-point bit where the instruction needs
one, its level, its scope, the number of live paths, the region's length, the live-mask word. -/
structure CtrlPasses (sp : CtrlSpec) (c : Ctx) : Prop where
  must : (c.isGroup && sp.must && sp.sp.isNone) = false
  level : sp.levels.contains c.levelNo = true
  scope : scopeOk c sp = true
  paths : manyPaths c sp = false
  region : (c.isGroup && sp.sp.isNone && decide (4096 ≤ c.regionLen)) = false
  idemp : (c.isGroup && sp.sp.isNone && idempScalar c.live sp.writes) = false

/-- The state in which the instruction's own effect starts: with S = 1 in a group, the safe point has been passed (R329):
everything enqueued has issued, the region store buffer is empty, and the checkpoint stands at the instruction. -/
def entryState (live : Option Word) (s : State) (c : Ctx) : Option State :=
  match live with
  | none => some s
  | some w =>
    if !c.isGroup then some s
    else if !memLanesIssued s c then none
    else
      match commit s c with
      | (_, false) => none
      | (s1, true) => some { modCtx s1 c.id (fun c => c.safePoint w s1.nextId) with nextId := s1.nextId + 1 }

/-- A group's or task's lane stream has the turn, and its clause `q` may issue its next instruction (R140). -/
structure LaneTurn (s : State) (c : Ctx) (q : Clause) (f : LaneForm) : Prop where
  turn : s.turn = .lane c.id
  found : getCtx s c.id = some c
  head : c.headClause = some q
  runs : c.lanesRun = true
  power : powered s = true
  started : q.started = true
  waits : (!q.issued && !c.flagsClear q.waitMask) = false
  room : (q.flagOf f.flag).any (fun n => decide (255 ≤ c.flagCount n)) = false

/-- None of the checks that lane instructions share stops `spec` (R60, R142, R331, R100, R347): its registers exist and none
has a pending write in an active lane, no earlier access lies in the rows it writes, no live block is written, no source row is
stale under TRAP, no source is uncorrectable. -/
structure LanePasses (spec : LaneSpec) (s : State) (c : Ctx) (q : Clause) : Prop where
  regs : c.noReg (spec.reads ++ spec.writes) = false
  ready : c.unguarded (spec.reads ++ spec.writes) (activeLanes c q spec.f) = none
  held : c.rowHeld spec.writes (activeLanes c q spec.f) = false
  idemp : (activeLanes c q spec.f ≠ 0 && idempVector q.live q.liveRegs spec.writes) = false
  fresh : (q.pols.getLsbD 0 && (sourcePairs spec s c q (activeLanes c q spec.f)).any (fun p => vstale s c p.1 p.2)) = false
  sound : (lanesOf (activeLanes c q spec.f)).all (fun l => spec.collects.all (fun r =>
    vstale s c r l || !poisonAt s (coreKey c.core (c.vregOff r l)))) = true

/-- The context `c` executes a control instruction `sp` whose own effect starts in `s1`, where the context is `c1`. -/
structure Executes (sp : CtrlSpec) (s : State) (c : Ctx) (s1 : State) (c1 : Ctx) : Prop where
  turn : CtrlTurn s c
  passes : CtrlPasses sp c
  entry : entryState sp.sp s c = some s1
  own : getCtx s1 c.id = some c1

/-- The state after a control instruction whose own effect gave `t`: the pc moves to `pc`, past the instruction where there is
none, with what follows every control instruction (R44, R48, R156, R157, R329). -/
def completed (sp : CtrlSpec) (c : Ctx) (t : State) (pc : Option Pc) : State :=
  modCtx t c.id (fun x => x.advance sp (pc.getD (c.pc + BitVec.ofNat 24 sp.len)) t.nextId)

/-- The state after the write-backs of the release steps at a scope (R223): at cluster scope or wider, as the group takes it, the
core's dirty lines are on their way. -/
def released (s : State) (c : Ctx) (scope : Nat) : State :=
  if effScope s c scope ≤ 2 then s else writeBackAll s c.core (some c.id)

/-- The release steps at a scope are complete with those write-backs (R223): the scope is block or narrower, or no write of the
context and no store or write-back of its core is on its way and device time exceeds WCT. -/
def ReleaseDone (s : State) (c : Ctx) (scope : Nat) : Prop :=
  effScope s c scope ≤ 2 ∨
    ((∀ w ∈ (released s c scope).homeQ, w.ctx ≠ some c.id ∧ (w.core = some c.core → w.op ≠ none ∨ w.hold ≠ none)) ∧ c.wct < dieTime s c.die)

/-- A state after a die has reported its junction temperature (R400). -/
def reported (s : State) (r : DieTemp) : State :=
  { s with junction0 := if r.die = 0 then r.temp else s.junction0, junction1 := if r.die = 0 then s.junction1 else r.temp }

/-- A lane instruction `spec` executes on its active lanes. -/
structure LaneExecutes (spec : LaneSpec) (s : State) (c : Ctx) (q : Clause) : Prop where
  turn : LaneTurn s c q spec.f
  passes : LanePasses spec s c q

/-- The state after a lane instruction that is complete at once (R108, R140): the next instruction of the clause stands, and
the flag it is tied to counts it until its completion event. -/
def laneDone (spec : LaneSpec) (q : Clause) (id : Nat) (t : State) : State :=
  let flag := q.flagOf spec.f.flag
  match getCtx t id with
  | none => t
  | some x =>
    { setCtx t (x.issued q flag (flag.map (fun _ => newFlight t x q spec .fixed))) with
      nextId := t.nextId + flag.toList.length }

/-- The state after a lane instruction that has issued and completes later, as the flight `fl` (R140). -/
def laneFlies (spec : LaneSpec) (q : Clause) (id : Nat) (t : State) (fl : Flight) : State :=
  match getCtx t id with
  | none => t
  | some x => { setCtx t (x.issued q (q.flagOf spec.f.flag) (some fl)) with nextId := t.nextId + 1 }

/-- Nothing but the context `id` differs between two states: no byte of memory, no tag, no other context, no other unit. -/
def onlyContext (id : Nat) (s t : State) : Prop :=
  t = { s with ctxs := t.ctxs } ∧ (∀ j, j ≠ id → getCtx t j = getCtx s j) ∧ ∀ k, memRead t.mem k = memRead s.mem k

/-- A control instruction changes only its context, and in it only these: its paths and which of them runs, the checkpoint,
the region's length and the count of issue slots, how far the instruction has got, and the scalars among `ds`, which are below
s252, with their error marks. -/
def scalarFrame (id : Nat) (ds : List Nat) (s t : State) : Prop :=
  onlyContext id s t ∧ ∀ c x, getCtx s id = some c → getCtx t id = some x →
    x = { c with
      sregs := x.sregs, paths := x.paths, run := x.run, ckpt := x.ckpt, regionLen := x.regionLen, phase := x.phase
      issues := x.issues, sregBad := x.sregBad } ∧
    (sparseWf 0 c.sregs = true → ∀ n, n < 252 → n ∉ ds → x.sreg n = c.sreg n)

/-- One path lives and has no meeting point, as in a sequencer: the running path stays the running one. -/
def Ctx.onePath (c : Ctx) : Prop :=
  c.path.state = 1 ∧ c.path.meets = [] ∧ ∀ j, j < c.paths.length → j ≠ c.run → (c.paths.getD j defaultPath).state = 0

/-! Results of the arithmetic instructions, as R194 to R196 and R237 to R239 word them -/

/-- What a scalar arithmetic or move instruction writes: its live-mask word, whether it has a literal, its destination, and
the value in terms of the context (R194, R195, R196). -/
def scalarResult : Instr → Option (Option Word × Bool × Reg × (Ctx → Word))
  | .add sp d a b => some (sp, false, d, fun c => BitVec.ofNat 32 ((c.sreg a.toNat).toNat + (c.sreg b.toNat).toNat))
  | .sub sp d a b => some (sp, false, d, fun c => BitVec.ofInt 32 ((c.sreg a.toNat).toInt - (c.sreg b.toNat).toInt))
  | .mul sp d a b => some (sp, false, d, fun c => BitVec.ofNat 32 ((c.sreg a.toNat).toNat * (c.sreg b.toNat).toNat))
  | .mulh sp d a b => some (sp, false, d, fun c => BitVec.ofInt 32 (((c.sreg a.toNat).toInt * (c.sreg b.toNat).toInt) >>> 32))
  | .mulhu sp d a b => some (sp, false, d, fun c => BitVec.ofNat 32 (((c.sreg a.toNat).toNat * (c.sreg b.toNat).toNat) >>> 32))
  | .andr sp d a b => some (sp, false, d, fun c => c.sreg a.toNat &&& c.sreg b.toNat)
  | .orr sp d a b => some (sp, false, d, fun c => c.sreg a.toNat ||| c.sreg b.toNat)
  | .xorr sp d a b => some (sp, false, d, fun c => c.sreg a.toNat ^^^ c.sreg b.toNat)
  | .shl sp d a b => some (sp, false, d, fun c => BitVec.ofNat 32 ((c.sreg a.toNat).toNat * 2 ^ ((c.sreg b.toNat).toNat % 32)))
  | .shr sp d a b => some (sp, false, d, fun c => BitVec.ofNat 32 ((c.sreg a.toNat).toNat / 2 ^ ((c.sreg b.toNat).toNat % 32)))
  | .sar sp d a b => some (sp, false, d, fun c => BitVec.ofInt 32 ((c.sreg a.toNat).toInt >>> ((c.sreg b.toNat).toNat % 32)))
  | .minr sp d a b => some (sp, false, d, fun c => BitVec.ofInt 32 (min (c.sreg a.toNat).toInt (c.sreg b.toNat).toInt))
  | .maxr sp d a b => some (sp, false, d, fun c => BitVec.ofInt 32 (max (c.sreg a.toNat).toInt (c.sreg b.toNat).toInt))
  | .minu sp d a b => some (sp, false, d, fun c => BitVec.ofNat 32 (min (c.sreg a.toNat).toNat (c.sreg b.toNat).toNat))
  | .maxu sp d a b => some (sp, false, d, fun c => BitVec.ofNat 32 (max (c.sreg a.toNat).toNat (c.sreg b.toNat).toNat))
  | .slt sp d a b => some (sp, false, d, fun c => if (c.sreg a.toNat).toInt < (c.sreg b.toNat).toInt then 1 else 0)
  | .sltu sp d a b => some (sp, false, d, fun c => if (c.sreg a.toNat).toNat < (c.sreg b.toNat).toNat then 1 else 0)
  | .seq sp d a b => some (sp, false, d, fun c => if c.sreg a.toNat = c.sreg b.toNat then 1 else 0)
  | .clz sp d a => some (sp, false, d, fun c =>
      BitVec.ofNat 32 (if c.sreg a.toNat = 0 then 32 else 31 - Nat.log2 (c.sreg a.toNat).toNat))
  | .popc sp d a => some (sp, false, d, fun c =>
      BitVec.ofNat 32 ((List.range 32).map (fun i => ((c.sreg a.toNat).getLsbD i).toNat)).sum)
  | .divu sp d a b => some (sp, false, d, fun c => if c.sreg b.toNat = 0 then 0xFFFFFFFF
      else BitVec.ofNat 32 ((c.sreg a.toNat).toNat / (c.sreg b.toNat).toNat))
  | .remu sp d a b => some (sp, false, d, fun c => if c.sreg b.toNat = 0 then c.sreg a.toNat
      else BitVec.ofNat 32 ((c.sreg a.toNat).toNat % (c.sreg b.toNat).toNat))
  | .bfx sp d a b => some (sp, false, d, fun c => BitVec.ofNat 32
      ((c.sreg a.toNat).toNat / 2 ^ ((c.sreg b.toNat).extractLsb' 0 5).toNat %
        2 ^ (((c.sreg b.toNat).extractLsb' 8 5).toNat + 1)))
  | .addi sp d a i => some (sp, false, d, fun c => BitVec.ofInt 32 ((c.sreg a.toNat).toInt + i.toInt))
  | .andi sp d a i => some (sp, false, d, fun c => c.sreg a.toNat &&& BitVec.ofNat 32 i.toNat)
  | .ori sp d a i => some (sp, false, d, fun c => c.sreg a.toNat ||| BitVec.ofNat 32 i.toNat)
  | .xori sp d a i => some (sp, false, d, fun c => c.sreg a.toNat ^^^ BitVec.ofNat 32 i.toNat)
  | .shli sp d a i => some (sp, false, d, fun c => BitVec.ofNat 32 ((c.sreg a.toNat).toNat * 2 ^ i.toNat))
  | .shri sp d a i => some (sp, false, d, fun c => BitVec.ofNat 32 ((c.sreg a.toNat).toNat / 2 ^ i.toNat))
  | .sari sp d a i => some (sp, false, d, fun c => BitVec.ofInt 32 ((c.sreg a.toNat).toInt >>> i.toNat))
  | .slti sp d a i => some (sp, false, d, fun c => if (c.sreg a.toNat).toInt < i.toInt then 1 else 0)
  | .movi sp d m => some (sp, false, d, fun _ => BitVec.ofInt 32 m.toInt)
  | .movhi sp d m => some (sp, false, d, fun c => BitVec.ofNat 32 (m.toNat * 2 ^ 16 + (c.sreg d.toNat).toNat % 2 ^ 16))
  | .movl sp d lit => some (sp, true, d, fun _ => lit)
  | .addiw sp d m => some (sp, false, d, fun c => BitVec.ofInt 32 ((c.sreg d.toNat).toInt + m.toInt))
  | _ => none

/-- When a branch on a scalar is taken: its live-mask word, scope, offset and condition (R204). -/
def branchResult : Instr → Option (Option Word × BitVec 3 × BitVec 13 × (Ctx → Bool))
  | .br sp sc off => some (sp, sc, off, fun _ => true)
  | .bz sp sc a off => some (sp, sc, off, fun c => decide ((c.sreg a.toNat).toNat = 0))
  | .bnz sp sc a off => some (sp, sc, off, fun c => decide ((c.sreg a.toNat).toNat ≠ 0))
  | .bltz sp sc a off => some (sp, sc, off, fun c => decide ((c.sreg a.toNat).toInt < 0))
  | .bgez sp sc a off => some (sp, sc, off, fun c => decide (0 ≤ (c.sreg a.toNat).toInt))
  | _ => none

/-- A group-scope flow instruction of one path: CALL, RET and LOOP (R206, R207). -/
def stackSpec (sp : Option Word) (sc : BitVec 3) : CtrlSpec := { flowSpec sp sc with single := true }

/-- An instruction that every level may execute, or that has no destination (R184). -/
def plainSpec (sp : Option Word) (levels : List Nat) : CtrlSpec := { len := wordsOf false sp, sp := sp, levels := levels }

/-- The instruction of each engine kind (R227). -/
def engineInstr (k : EngKind) (sp : Option Word) (d a b : Reg) : Instr :=
  match k with
  | .tcopy => .tcopy sp d a b
  | .gcopy => .gcopy sp d a b
  | .wbload => .wbload sp d a b
  | .rcopy => .rcopy sp d a b

/-- An engine object of `n` words at `addr` that its operation may write now: its core exists, the generation taken at issue
owns its rows and all of it, it lies in one granule, and it is sound. -/
def objectHeld (s : State) (o : EngOp) (addr n : Nat) : Prop :=
  o.core < s.cores.length ∧ ownerGen (getCore s o.core).rows (addr / 256) = (genAt o.gens (coreKey o.core addr)).getD 0 ∧
    addr % 4 = 0 ∧ addr / 64 = (addr + 4 * n - 1) / 64 ∧ objBad s o addr = false ∧
    ∀ i, i < n → genAt o.gens (coreKey o.core (addr + 4 * i)) = genAt o.gens (coreKey o.core addr)

/-! Results of the lane arithmetic instructions, as R237 to R239 and R280 to R290 word them -/

/-- A function applied to the elements of `w` bits of two words, element 0 lowest, modulo the element width (R236). -/
def elementwise (w : Nat) (g : Nat → Nat → Nat) (x y : Word) : Word :=
  BitVec.ofNat 32 (((List.range (32 / w)).map (fun j =>
    g (x.toNat / 2 ^ (w * j) % 2 ^ w) (y.toNat / 2 ^ (w * j) % 2 ^ w) % 2 ^ w * 2 ^ (w * j))).sum)

def elementwise3 (w : Nat) (g : Nat → Nat → Nat → Nat) (x y z : Word) : Word :=
  BitVec.ofNat 32 (((List.range (32 / w)).map (fun j => g (x.toNat / 2 ^ (w * j) % 2 ^ w) (y.toNat / 2 ^ (w * j) % 2 ^ w)
    (z.toNat / 2 ^ (w * j) % 2 ^ w) % 2 ^ w * 2 ^ (w * j))).sum)

/-- The bits of an element of a type. -/
def elemWidth (f : LaneForm) : Nat := match f.ty.toNat with
  | 3 | 4 | 5 => 16
  | 0 | 1 | 2 => 32
  | _ => 8

/-- A `w`-bit number as a signed one, and the number that stands for an integer. -/
def asSigned (w n : Nat) : Int := (BitVec.ofNat w n).toInt
def fromInt (w : Nat) (z : Int) : Nat := (BitVec.ofInt w z).toNat

/-- The integer lane instructions of one, two and three sources: opcode, form, number of sources, and the word that a lane
writes from its sources (R237, R238, R239). -/
def intLane : Instr → Option (Nat × LaneForm × Nat × (Word → Word → Word → Word))
  | .vadd f => some (0x01, f, 2, fun x y _ => elementwise (elemWidth f) (fun a b => a + b) x y)
  | .vsub f => some (0x02, f, 2, fun x y _ => elementwise (elemWidth f) (fun a b => fromInt (elemWidth f) ((a : Int) - b)) x y)
  | .vmul f => some (0x03, f, 2, fun x y _ => BitVec.ofNat 32 (x.toNat * y.toNat))
  | .vmulh f => some (0x04, f, 2, fun x y _ => BitVec.ofInt 32 (x.toInt * y.toInt / 2 ^ 32))
  | .vmulhu f => some (0x05, f, 2, fun x y _ => BitVec.ofNat 32 (x.toNat * y.toNat / 2 ^ 32))
  | .vmad f => some (0x06, f, 3, fun x y z => BitVec.ofNat 32 (x.toNat * y.toNat + z.toNat))
  | .vand f => some (0x07, f, 2, fun x y _ => x &&& y)
  | .vor f => some (0x08, f, 2, fun x y _ => x ||| y)
  | .vxor f => some (0x09, f, 2, fun x y _ => x ^^^ y)
  | .vshl f => some (0x0A, f, 2, fun x y _ => BitVec.ofNat 32 (x.toNat * 2 ^ (y.toNat % 32)))
  | .vshr f => some (0x0B, f, 2, fun x y _ => BitVec.ofNat 32 (x.toNat / 2 ^ (y.toNat % 32)))
  | .vsar f => some (0x0C, f, 2, fun x y _ => BitVec.ofInt 32 (x.toInt / 2 ^ (y.toNat % 32)))
  | .vmin f => some (0x0D, f, 2, fun x y _ =>
      elementwise (elemWidth f) (fun a b => fromInt (elemWidth f) (min (asSigned (elemWidth f) a) (asSigned (elemWidth f) b))) x y)
  | .vmax f => some (0x0E, f, 2, fun x y _ =>
      elementwise (elemWidth f) (fun a b => fromInt (elemWidth f) (max (asSigned (elemWidth f) a) (asSigned (elemWidth f) b))) x y)
  | .vminu f => some (0x0F, f, 2, fun x y _ => elementwise (elemWidth f) (fun a b => min a b) x y)
  | .vmaxu f => some (0x10, f, 2, fun x y _ => elementwise (elemWidth f) (fun a b => max a b) x y)
  | .vabs f => some (0x11, f, 1, fun x _ _ =>
      elementwise (elemWidth f) (fun a _ => fromInt (elemWidth f) ((asSigned (elemWidth f) a).natAbs : Int)) x x)
  | .vclz f => some (0x12, f, 1, fun x _ _ => BitVec.ofNat 32 (if x = 0 then 32 else 31 - Nat.log2 x.toNat))
  | .vpopc f => some (0x13, f, 1, fun x _ _ => BitVec.ofNat 32 ((List.range 32).map (fun i => (x.getLsbD i).toNat)).sum)
  | .vbfx f => some (0x14, f, 2, fun x y _ =>
      BitVec.ofNat 32 (x.toNat / 2 ^ (y.extractLsb' 0 5).toNat % 2 ^ ((y.extractLsb' 8 5).toNat + 1)))
  | .vbfi f => some (0x15, f, 3, fun x y z =>
      let p := (z.extractLsb' 0 5).toNat
      let m : Word := BitVec.ofNat 32 ((2 ^ ((z.extractLsb' 8 5).toNat + 1) - 1) * 2 ^ p)
      (y &&& ~~~ m) ||| (BitVec.ofNat 32 (x.toNat * 2 ^ p) &&& m))
  | .vmov f => some (0x17, f, 1, fun x _ _ => x)
  | .vadds f => some (0x19, f, 2, fun x y _ =>
      if f.ty = 1 then BitVec.ofNat 32 (min (x.toNat + y.toNat) (2 ^ 32 - 1))
      else elementwise (elemWidth f) (fun a b => fromInt (elemWidth f)
        (max (-2 ^ ((elemWidth f) - 1)) (min (2 ^ ((elemWidth f) - 1) - 1) (asSigned (elemWidth f) a + asSigned (elemWidth f) b)))) x y)
  | .packb f => some (0x3A, f, 2, fun x y _ =>
      let w := (elemWidth f)
      let k := f.mod.toNat
      if 32 / w ≤ k then x
      else BitVec.ofNat 32 (x.toNat - x.toNat / 2 ^ (w * k) % 2 ^ w * 2 ^ (w * k) + y.toNat % 2 ^ w * 2 ^ (w * k)))
  | .unpkb f => some (0x3B, f, 1, fun x _ _ => BitVec.ofNat 32 (x.toNat / 2 ^ ((elemWidth f) * f.mod.toNat) % 2 ^ (elemWidth f)))
  | _ => none

/-- The floating lane instructions: as `intLane`, with the numeric version of the clause (R263, R280 to R287). -/
def floatLane : Instr → Option (Nat × LaneForm × Nat × (Bool → Word → Word → Word → Word))
  | .fadd f => some (0x20, f, 2, fun v x y _ => f32Add f.mod.toNat v x y)
  | .fsub f => some (0x21, f, 2, fun v x y _ => f32Sub f.mod.toNat v x y)
  | .fmul f => some (0x22, f, 2, fun v x y _ => f32Mul f.mod.toNat v x y)
  | .ffma f => some (0x23, f, 3, fun v x y z => f32Fma f.mod.toNat v x y z)
  | .fmin f => some (0x24, f, 2, fun v x y _ => f32Min v x y)
  | .fmax f => some (0x25, f, 2, fun v x y _ => f32Max v x y)
  | .fcmp f => some (0x26, f, 2, fun v x y _ => if f32Cmp f.mod.toNat v x y then 1 else 0)
  | .frcp f => some (0x27, f, 1, fun v x _ _ => f32Rcp v x)
  | .frsq f => some (0x28, f, 1, fun v x _ _ => f32Rsq v x)
  | .fsqrt f => some (0x29, f, 1, fun v x _ _ => f32Sqrt v x)
  | .fexp f => some (0x2A, f, 1, fun v x _ _ => f32Exp v x)
  | .flog f => some (0x2B, f, 1, fun v x _ _ => f32Log v x)
  | .frint f => some (0x2E, f, 1, fun v x _ _ => f32Rint f.mod.toNat v x)
  | .fldexp f => some (0x2F, f, 2, fun v x y _ => f32Ldexp f.mod.toNat v x y)
  | .fexpx f => some (0x30, f, 1, fun v x _ _ => f32Expx v x)
  | .fclass f => some (0x31, f, 1, fun _ x _ _ => f32Class x)
  | .hadd2 f => some (0x32, f, 2, fun v x y _ => elementwise (elemWidth f) (fun a b => fround (fmtOf f.ty.toNat) f.mod.toNat v
      (fadd f.mod.toNat (fread (fmtOf f.ty.toNat) v a) (fread (fmtOf f.ty.toNat) v b))) x y)
  | .hmul2 f => some (0x33, f, 2, fun v x y _ => elementwise (elemWidth f) (fun a b => fround (fmtOf f.ty.toNat) f.mod.toNat v
      (fmul (fread (fmtOf f.ty.toNat) v a) (fread (fmtOf f.ty.toNat) v b))) x y)
  | .hfma2 f => some (0x34, f, 3, fun v x y z =>
      elementwise3 (elemWidth f) (fun a b c => fround (fmtOf f.ty.toNat) f.mod.toNat v (fadd f.mod.toNat
        (fmul (fread (fmtOf f.ty.toNat) v a) (fread (fmtOf f.ty.toNat) v b)) (fread (fmtOf f.ty.toNat) v c))) x y z)
  | _ => none

/-- A lane instruction that reads its first `n` sources and writes one register. -/
def laneSpec (op : Nat) (f : LaneForm) (n : Nat) : LaneSpec :=
  { op := op, f := f, reads := ([f.a, f.b, f.c].take n).flatMap srcReg, writes := [f.d.toNat] }

/-- The context owns the rows of its vector registers, on a core that exists. -/
def registersOwned (s : State) (c : Ctx) : Prop :=
  c.core < s.cores.length ∧ c.regBase + c.vregs ≤ 6144 ∧
    ∀ n, n < c.vregs → ownerGen (getCore s c.core).rows (c.regBase + n) = c.regGen

/-- SHFL and SHFLX: the instruction, and the source lane of lane `l` whose operand is `b` (R242). -/
def shuffle (xor : Bool) (f : LaneForm) : Instr := if xor then .shflx f else .shfl f
def sourceLane (xor : Bool) (l : Nat) (b : Word) : Nat := if xor then l ^^^ (b.toNat % 64) else b.toNat % 64

/-- What SHFL and SHFLX name: their own registers, and the live source lanes' rows. -/
def shuffleSpec (xor : Bool) (f : LaneForm) : LaneSpec :=
  { op := if xor then 0x41 else 0x40, f := f, reads := f.a.toNat :: srcReg f.b, writes := [f.d.toNat], collects := srcReg f.b
    extra := fun s c q m => (lanesOf m).filterMap (fun l =>
      if c.deadOrAbsent (sourceLane xor l (opnd s c q f f.b l)) then none
      else some (f.a.toNat, sourceLane xor l (opnd s c q f f.b l))) }

/-- An instruction that writes no vector register. -/
def predSpec (op : Nat) (f : LaneForm) (reads : List Nat) : LaneSpec := { op := op, f := f, reads := reads, writes := [] }

/-- What changes in a context whose predicate `n` takes new bits in the lanes of `m` (R63). -/
def predicateWritten (n : Nat) (m : LaneMask) (g : Nat → Bool) (c x : Ctx) : Prop :=
  x = { c with preds := x.preds } ∧ x.preds.length = c.preds.length ∧
    ∀ i l, i < 7 → (x.preds.getD i 0).getLsbD l = if n = i + 1 ∧ m.getLsbD l = true then g l else (c.preds.getD i 0).getLsbD l

/-! Memory instructions of the lane stream -/

/-- The loads, stores and atomics with their opcode and form (R245, R250, R254 to R259). -/
def loadForm : Instr → Option (Nat × LaneForm)
  | .bld f => some (0x50, f)
  | .lld f => some (0x54, f)
  | .pld f => some (0x57, f)
  | .vld f => some (0x59, f)
  | _ => none
def storeForm : Instr → Option (Nat × LaneForm)
  | .bst f => some (0x51, f)
  | .lst f => some (0x55, f)
  | .pst f => some (0x58, f)
  | .vst f => some (0x5A, f)
  | _ => none
def atomForm : Instr → Option (Nat × LaneForm)
  | .batom f => some (0x52, f)
  | .latom f => some (0x56, f)
  | _ => none

def loadSpec (op : Nat) (f : LaneForm) : LaneSpec :=
  { op := op, f := f, reads := srcReg f.a, writes := regRun f.d (widthRun f) }
def storeSpec (op : Nat) (f : LaneForm) : LaneSpec :=
  { op := op, f := f, reads := srcReg f.a ++ regRun f.d (widthRun f), writes := [] }
def atomSpec (op : Nat) (f : LaneForm) : LaneSpec :=
  { op := op, f := f, reads := srcReg f.a ++ atomicRegs f, writes := [f.d.toNat], atomic := true }

/-- What the checks find for each active lane of a memory instruction, with the address space and map generation of its
accesses; none where its record has a fault. -/
def formHits (i : Instr) (s : State) (c : Ctx) (q : Clause) (m : LaneMask) : Option (BitVec 16 × BitVec 16 × List (Nat × Hit)) :=
  let buffer (f : LaneForm) (size4 write : Bool) (read : Reading) (n : Nat) : Option (BitVec 16 × BitVec 16 × List (Nat × Hit)) :=
    match bufferSpecCheck s c q f size4 write n with
    | .error _ => none
    | .ok r => some (r.asid, r.generation s, bufferHits s c q f r write read n m)
  match i with
  | .bld f => buffer f false false .load (widthOf f)
  | .bst f => buffer f false true .none (widthOf f)
  | .batom f => buffer f true true .home 4
  | .lld f => some (0, 0, localHits s c q f false .load (widthOf f) m)
  | .lst f => some (0, 0, localHits s c q f false .none (widthOf f) m)
  | .vld f => some (0, 0, localHits s c q f true .load (widthOf f) m)
  | .vst f => some (0, 0, localHits s c q f true .none (widthOf f) m)
  | .latom f => some (0, 0, localHits s c q f false .home 4 m)
  | .pld f => some (0, 0, peerHits s c q f .load (widthOf f) m)
  | .pst f => some (0, 0, peerHits s c q f .none (widthOf f) m)
  | _ => none

/-- What the peers' checks of a memory instruction come to (R247): a buffer form makes them, any other form needs none. -/
def peersChecked (i : Instr) (s : State) (c : Ctx) (q : Clause) (asid mg : BitVec 16) (hs : List (Nat × Hit)) : Except LAct State :=
  match i with
  | .bld f => remoteCheck s c q false (widthOf f) asid mg hs
  | .bst f => remoteCheck s c q true (widthOf f) asid mg hs
  | .batom _f => remoteCheck s c q true 4 asid mg hs
  | _ => .ok s

/-- No lane's access has a fault or an absent page. -/
def hitsClear (hs : List (Nat × Hit)) : Prop := ∀ h ∈ hs, h.2 = .oob ∨ ∃ p va g n, h.2 = .ok p va g n

/-- The stored bytes of a store by lane, those of own register rows and the others (R116). -/
def storedBytes (s : State) (c : Ctx) (f : LaneForm) (own : Bool) (hs : List (Nat × Hit)) : List (Place × Nat × BitVec 12 × List Byte) :=
  hs.filterMap (fun h => match h.2 with
    | .ok p va g _ => if ownRow c p = own then some (p, va, g, storeData s c f h.1) else none
    | _ => none)

/-! The matrix array -/

/-- A matrix instruction `i` enters the core's MATRIX queue: one operation for each of `tiles`, in order, behind those that
stand, as a flight tied to the instruction's flag; memory and tags are unchanged. `ok` is what each operation holds. -/
def entersMatrix (i : Instr) (spec : LaneSpec) (s : State) (c : Ctx) (q : Clause) (tiles : List Nat) (ok : MatOp → Prop) : Prop :=
  ∃ t fl ops, exec i s = .next (laneFlies spec q c.id t fl) ∧ fl.kind = .matrix ∧ fl.flag = q.flagOf spec.f.flag ∧
    t.mem = s.mem ∧ t.tags = s.tags ∧ (getCore t c.core).matq = (getCore s c.core).matq ++ ops ∧ ops.map MatOp.tile = tiles ∧
    ∀ x ∈ ops, x.opcode = spec.op ∧ x.ctx = c.id ∧ x.parent = fl.id ∧ x.ver = spec.f.imm.extractLsb' 24 8 ∧ x.gen = c.tileGen ∧
      x.started = false ∧ ok x

def mmaSpec (f : LaneForm) : LaneSpec := { op := 0x60, f := f, reads := [f.a.toNat], writes := [], ownChecks := true }

end Sys2Proof.Machine
end

