-- ==== Sys2Proof/Certificates/Slice0/Obligations.lean ====
section
/-! DEFINITION. The statements about the model that are to be proved, one definition each. -/

open Sys2Proof Sys2Proof.Machine

/-- Decoding the words of a well-formed instruction gives it back (R159, R161, R165, R184, R190, R191). For every
well-formed control instruction, the encoder's words, whatever words follow them, decode to the instruction and to
their own number; for every well-formed lane instruction its three words decode to it. -/
def Obligations.EncodeDecodeAgree : Prop :=
  ∀ i : Instr, i.wf = true → i.encoded = true →
    ((encodeCtrl i).isSome = true → ∀ rest, decodeCtrlWords (encode i ++ rest) = .ok (i, (encode i).length)) ∧
    ((laneParts i).isSome = true → decodeLaneWords (encode i) = .ok i)

/-- Every word that decodes is the encoding of what it decodes to (R159, R160, R161, R165, R166, R184, R190, R191).
Whatever control word, literal and live-mask word decode to an instruction, that instruction is well formed and its
encoding is exactly those words; the same holds of three lane words. So no bit of an accepted word is ignored. -/
def Obligations.DecodeIsEncoded : Prop :=
  (∀ (w lit live : Word) (i : Instr), decodeCtrl w lit live = .ok i →
      i.wf = true ∧ encodeCtrl i = some (w :: ((if ctrlHasLiteral w then [lit] else []) ++ (if ctrlS w then [live] else [])))) ∧
    ∀ (ws : List Word) (i : Instr), decodeLaneWords ws = .ok i → i.wf = true ∧ encode i = ws

/-- Words printed in the spec decode to the instructions they stand for (R194, R195, R196, R204, R206, R207, R34,
R37). MUL s4,s5,s6 is 0x03040506, SARI s3,s3,#4 is 0x1E030304, MOVI s4,#0x7218 is 0x20047218, MOVHI s4,#0x3F31 is
0x21043F31, MOVL s4 is 0x22040000 and its literal, BLTZ.block s12 three words back is 0x33419FFD, CALL.group twenty
words ahead is 0x36200014, the three LOOP forms, DOWN s8,0x40 is 0x48080040, UP.sum s5 is 0x4A000501, GATHER.sum s6 is
0x4B060001. -/
def Obligations.SpecWordsDecode : Prop :=
  decodeTableWord 32 0x03040506 = some (.mul none 4 5 6) ∧
    decodeTableWord 32 0x1E030304 = some (.sari none 3 3 4) ∧
    decodeTableWord 32 0x20047218 = some (.movi none 4 0x7218) ∧
    decodeTableWord 32 0x21043F31 = some (.movhi none 4 0x3F31) ∧
    decodeTableWord 64 0x3F31721822040000 = some (.movl none 4 0x3F317218) ∧
    decodeTableWord 32 0x33419FFD = some (.bltz none 2 12 0x1FFD) ∧
    decodeTableWord 32 0x36200014 = some (.call none 1 20) ∧
    decodeTableWord 32 0x3840A004 = some (.loop none 2 5 4) ∧
    decodeTableWord 32 0x38400000 = some (.loopNext none 2) ∧
    decodeTableWord 32 0x38402000 = some (.loopLeave none 2) ∧
    decodeTableWord 32 0x48080040 = some (.down none 8 0x40) ∧
    decodeTableWord 32 0x4A000501 = some (.up none 5 1) ∧
    decodeTableWord 32 0x4B060001 = some (.gather none 6 1)

/-- The unlisted control opcodes are ILLEGAL with either S (R188). The spec: "The control opcodes 0x00, 0x2A–0x2F,
0x3C–0x3F, 0x46, 0x47, 0x4E, 0x4F, 0x55–0x57, 0x5A–0x5F, 0x64–0x6F and 0x76–0x7F are ILLEGAL in every context, with
either value of S." A control word whose opcode is one of those that R188 lists decodes to no instruction, whatever
its other bits; a context that fetches it takes the fault ILLEGAL at that word. -/
def Obligations.UnlistedOpcodesIllegal : Prop :=
  ∀ w : Word,
    let op := ctrlOpcode w
    (op = 0 ∨ (0x2A ≤ op ∧ op ≤ 0x2F) ∨ (0x3C ≤ op ∧ op ≤ 0x3F) ∨ op = 0x46 ∨ op = 0x47 ∨ op = 0x4E ∨ op = 0x4F ∨
      (0x55 ≤ op ∧ op ≤ 0x57) ∨ (0x5A ≤ op ∧ op ≤ 0x5F) ∨ (0x64 ≤ op ∧ op ≤ 0x6F) ∨ (0x76 ≤ op ∧ op ≤ 0x7F)) →
    (∀ lit live, decodeCtrl w lit live = .error .opcode) ∧
    ∀ (s : State) (id : Nat) (c : Ctx), s.turn = .ctrl id → getCtx s id = some c → powered s = true → c.canRun = true →
      mayIssue s c = true → fetchCtrl s c c.pc.toNat = .word w →
      step s = afterTurn (streamTurn id s (.next (takeFault s c ILLEGAL none false c.pc.toNat 0)))

/-- A step runs the decoded instruction, or the event whose turn it is (R14, R140, R161, R164, R165, R167, R189, R347,
R361, R402). When it is the turn of a context's control stream, the context runs and may issue, the words at its pc decode
to i, and no scalar register that i consumes holds uncorrectable data, then the step is exec of i, with the pending ages
of the partition and what every step adds (time, errors, the next turn) around it; where such a register does hold
uncorrectable data, the step is instead, with the same around it, a fault at that word: the fatal fault UE, or ILLEGAL, SCOPE,
REGION or IDEMP where a check of R189 that comes before finds one. When it is the turn of a
group's lane stream, the clause at the head has started and has issued an instruction or finds its wait mask clear, the
stream runs and may issue, the lane word that stands next decodes to i, and the flag that it names counts fewer than 255,
then the step is exec of i, with the same around it. When it is the turn of an event, the step is exec of that event and
what every step adds. That a step is the turn of one agent is the model's own form (log entry 1). -/
def Obligations.StepRunsDecoded : Prop :=
  (∀ (s : State) (id : Nat) (c : Ctx) (ws : List Word) (i : Instr) (n : Nat),
     s.turn = .ctrl id → getCtx s id = some c → powered s = true → c.canRun = true → mayIssue s c = true →
     ctrlWordsAt s c = .ok ws → decodeCtrlWords ws = .ok (i, n) →
     ((scalarSources s c i).any c.sregUe = false → step s = afterTurn (streamTurn id s (exec i s))) ∧
     ((scalarSources s c i).any c.sregUe = true →
       ∃ t, step s = afterTurn (streamTurn id s (.next t)) ∧
         (t = scalarUe { s with turn := .ctrlUe id } c c.pc.toNat 0 ∨
           ∃ code ∈ [ILLEGAL, SCOPE, REGION, IDEMP], t = takeFault { s with turn := .ctrlUe id } c code none false c.pc.toNat 0))) ∧
  (∀ (s : State) (id : Nat) (c : Ctx) (q : Clause) (ws : List Word) (i : Instr),
     s.turn = .lane id → getCtx s id = some c → powered s = true → c.lanesRun = true → c.headClause = some q → q.started = true →
     (q.issued = true ∨ c.flagsClear q.waitMask = true) →
     mayIssue s c = true → laneWords s c q.at [0, 1, 2] = .ok ws → decodeLaneWords ws = .ok i →
     (∀ n, q.flagOf ((ws.getD 1 0).extractLsb' 10 2) = some n → c.flagCount n < 255) →
     step s = afterTurn (streamTurn id s (exec i s))) ∧
  (∀ (s : State) (i : Instr), s.turn = .event i → step s = afterTurn (exec i s))

/-- The two die clocks are never more than 4 ns apart after a step (R19). For every state whose die clocks are at most
4 ns apart, a step that answers a next state keeps them so; device time never runs backward on a die in the part that
a step adds. -/
def Obligations.ClocksStayTogether : Prop :=
  (∀ s t : State, s.clocksAgree → step s = .next t → t.clocksAgree) ∧
    ∀ s : State, s.clocksAgree → s.time0 ≤ (tick s).time0 ∧ s.time1 ≤ (tick s).time1

/-- The state after reset keeps the invariants and holds the reset values that the spec states (R19, R79, R158, R356, R366, R369,
R385, R390). After reset memory and tags are in canonical form, the clocks agree, no context, launch or queue exists,
WAVE is 63, GAP 0 and LIMIT 0xFFFF in every cluster, SLICECTL is 0x00088888 in every core, the cap is 1800 W, PWRSLOPE reads
FALL 0xFFFF with no churn running, TOKPOOL reads FREE 192 and SIZE 192, DEVSTAT reads 0, so that the stage is 0 and READY and every
other flag clear, PORTSTAT of every port reads 0, and every generation counter starts at 1. -/
def Obligations.ResetState : Prop :=
  State.reset.canonical ∧ State.reset.clocksAgree ∧
    State.reset.ctxs = [] ∧ State.reset.launches = [] ∧ State.reset.queues = [] ∧
    (∀ k, k < 48 → (getCluster State.reset k).wave = 63 ∧ (getCluster State.reset k).gap = 0 ∧
      (getCluster State.reset k).limit = 0xFFFF) ∧
    (∀ k, k < 192 → (getCore State.reset k).slice = 0x00088888 ∧ (getCore State.reset k).genNext = 1) ∧
    (∀ k, k < 48 → (getVault State.reset k).genNext = 1) ∧ State.reset.cap = 1800 ∧
    State.reset.fall = 0xFFFF ∧ pwrslope State.reset = 0xFFFF0000 ∧ tokpool State.reset = 0x00C000C0 ∧
    devstat State.reset = 0 ∧ State.reset.stage = 0 ∧ State.reset.ready = false ∧ State.reset.ports.length = 18 ∧
    ∀ p ∈ State.reset.ports, portstat p = 0

/-- Every operation has a meaning (R160, R188). exec refuses no operation or event in any state; the only stop is the
named fault of a physical byte that the part does not have. That such a byte ends the step in a fault of the model is the model's
choice (log entry 89): R160 and R188 do not say it. -/
def Obligations.NothingIsRefused : Prop :=
  ∀ (i : Instr) (s : State), (∃ t, exec i s = .next t) ∨ ∃ a, exec i s = .fault (.noFrame a)

/-- Scalar arithmetic and moves write the values of R194 to R196 (R194, R195, R196, R58, R59). For every register,
immediate and move form and every state in which it executes, exec answers the next state in which s[d] holds the
value that the rule gives from the old registers, and the pc stands past the instruction. The same instructions leave
every byte of memory, every other context and unit, and every other scalar register below s252 of a context with a
canonical table as it was where their effect began; in their context only the paths, the checkpoint, the region's
length, the count of issue slots and the scalars' error marks may also differ. -/
def Obligations.ScalarResults : Prop :=
  (∀ (i : Instr) (sp : Option Word) (lit : Bool) (d : Reg) (g : Ctx → Word), scalarResult i = some (sp, lit, d, g) →
     ∀ (s : State) (c : Ctx) (s1 : State) (c1 : Ctx), Executes (scalarSpec sp lit d) s c s1 c1 →
     exec i s = .next (completed (scalarSpec sp lit d) c (setCtx s1 (c1.setSreg d.toNat (g c1))) none)) ∧
  (∀ (i : Instr) (sp : Option Word) (lit : Bool) (d : Reg) (g : Ctx → Word), scalarResult i = some (sp, lit, d, g) →
     ∀ (s : State) (c : Ctx) (s1 : State) (c1 : Ctx), Executes (scalarSpec sp lit d) s c s1 c1 →
     ∀ t, exec i s = .next t → scalarFrame c.id [d.toNat] s1 t)

/-- A scalar reads back what was written, and no other scalar changes (R57, R59, R44, R157, R164, R347). In a context
whose running entry exists with its four private words and whose table of scalars is in its canonical form, writing
register d and reading register n gives the written value when n = d and the old value otherwise, register d holds
uncorrectable data no more, and the table stays canonical; s252 to s255 are those of the running path only, so a write
there changes no other path's entry. A new context's table is canonical. In a context with one path and no meeting point,
what follows a control instruction without S that was not suspended leaves the running path at the given pc with its mask,
its private registers and its signature, and makes the region one word longer in a group. -/
def Obligations.ScalarRegisterFile : Prop :=
  (∀ (c : Ctx) (d n : Nat) (v : Word), d < 256 → n < 256 → c.run < c.paths.length → c.path.priv.length = 4 →
     sparseWf 0 c.sregs = true →
     (c.setSreg d v).sreg n = (if n = d then v else c.sreg n) ∧ (c.setSreg d v).sregUe d = false ∧
     sparseWf 0 (c.setSreg d v).sregs = true ∧
     (∀ id level launch parent entry lanes npaths, sparseWf 0 (newCtx id level launch parent entry lanes npaths).sregs = true) ∧
     ∀ j, j ≠ c.run → (c.setSreg d v).paths.getD j defaultPath = c.paths.getD j defaultPath) ∧
  (∀ (c : Ctx) (sp : CtrlSpec) (pc : Pc) (k : Nat), c.onePath → c.run < c.paths.length → sp.sp = none → sp.counted = false →
     (c.advance sp pc k).path = { c.path with pc := pc } ∧ (c.advance sp pc k).run = c.run ∧
     (c.advance sp pc k).regionLen = c.regionLen + (if c.isGroup then 1 else 0))

/-- Branches on a scalar go to the target when taken, else fall through (R164, R204, R49). B, BZ, BNZ, BLTZ and BGEZ
answer the next state in which the pc is the branch word's own address plus off13 when the condition on s[a] holds,
and past the instruction otherwise. BUNI stays at its word while an instruction that writes the predicate is pending.
Once none is: with no active lane or with the predicate clear in all of them BUNI falls through; with it set in all of
them it branches; where they differ it takes NONUNI. -/
def Obligations.BranchResults : Prop :=
  (∀ (i : Instr) (sp : Option Word) (sc : BitVec 3) (off : BitVec 13) (taken : Ctx → Bool), branchResult i = some (sp, sc, off, taken) →
     ∀ (s : State) (c : Ctx) (s1 : State) (c1 : Ctx), Executes (branchSpec sp sc) s c s1 c1 →
     exec i s = .next (completed (branchSpec sp sc) c s1 (if taken c1 then some (c1.pc + off.signExtend 24) else none))) ∧
  (∀ (sp : Option Word) (sc n : BitVec 3) (off : BitVec 13) (s : State) (c : Ctx) (s1 : State) (c1 : Ctx),
     let spec : CtrlSpec := { flowSpec sp sc with levels := groupLevels, onlyScope := some 1, single := true }
     let m := c1.path.mask &&& c1.liveMask
     let t := c1.pred n.toNat &&& m
     Executes spec s c s1 c1 →
     (predPending s1 c1 n.toNat = true → exec (.buni sp sc n off) s = .next s1) ∧
     (predPending s1 c1 n.toNat = false →
       (t = 0 → exec (.buni sp sc n off) s = .next (completed spec c s1 none)) ∧
       (t = m → m ≠ 0 → exec (.buni sp sc n off) s = .next (completed spec c s1 (some (c1.pc + off.signExtend 24)))) ∧
       (t ≠ 0 → t ≠ m → exec (.buni sp sc n off) s = .next (takeFault s1 c1 NONUNI none false c.pc.toNat 0))))

/-- CALL pushes the fall-through address and RET pops it (R206). With room on the call stack CALL pushes the address
past itself and goes to the target; with 16 entries it takes STACK. RET pops the last entry into the pc; with an empty
stack it takes STACK. -/
def Obligations.CallAndReturn : Prop :=
  (∀ (sp : Option Word) (sc : BitVec 3) (off : BitVec 13) (s : State) (c : Ctx) (s1 : State) (c1 : Ctx),
      Executes (stackSpec sp sc) s c s1 c1 →
      (c1.calls.length < 16 → exec (.call sp sc off) s = .next (completed (stackSpec sp sc) c
        (setCtx s1 { c1 with calls := c1.calls ++ [c1.pc + BitVec.ofNat 24 (wordsOf false sp)] })
        (some (c1.pc + off.signExtend 24)))) ∧
      (16 ≤ c1.calls.length → exec (.call sp sc off) s = .next (takeFault s1 c1 STACK none false c.pc.toNat 0))) ∧
    ∀ (sp : Option Word) (sc : BitVec 3) (s : State) (c : Ctx) (s1 : State) (c1 : Ctx), Executes (stackSpec sp sc) s c s1 c1 →
      (∀ cs a, c1.calls = cs ++ [a] →
        exec (.ret sp sc) s = .next (completed (stackSpec sp sc) c (setCtx s1 { c1 with calls := cs }) (some a))) ∧
      (c1.calls = [] → exec (.ret sp sc) s = .next (takeFault s1 c1 STACK none false c.pc.toNat 0))

/-- The three LOOP forms open, close and leave a loop (R207, R58, R204, R206). LOOP with a zero count goes to its
exit; otherwise it pushes the count and the fall-through address, or takes STACK with 8 entries. LOOP next counts down
and goes to the top address, or pops at 1. LOOP leave pops. With an empty stack the last two take STACK. Where a
branch on a scalar, a CALL, a RET or a LOOP of any form answers a next state without a fault of its own, only its
context differs, and in it only its paths, stacks, checkpoint, region length and issue count. -/
def Obligations.LoopResults : Prop :=
  ((∀ (sp : Option Word) (sc : BitVec 3) (a : Reg) (off : BitVec 12) (s : State) (c : Ctx) (s1 : State) (c1 : Ctx),
       Executes (stackSpec sp sc) s c s1 c1 →
       (c1.sreg a.toNat = 0 →
         exec (.loop sp sc a off) s = .next (completed (stackSpec sp sc) c s1 (some (c1.pc + off.setWidth 24)))) ∧
       (c1.sreg a.toNat ≠ 0 → c1.loops.length < 8 →
         exec (.loop sp sc a off) s = .next (completed (stackSpec sp sc) c (setCtx s1 { c1 with
           loops := c1.loops ++ [(c1.sreg a.toNat, c1.pc + BitVec.ofNat 24 (wordsOf false sp))] }) none)) ∧
       (c1.sreg a.toNat ≠ 0 → 8 ≤ c1.loops.length →
         exec (.loop sp sc a off) s = .next (takeFault s1 c1 STACK none false c.pc.toNat 0))) ∧
     ∀ (sp : Option Word) (sc : BitVec 3) (s : State) (c : Ctx) (s1 : State) (c1 : Ctx), Executes (stackSpec sp sc) s c s1 c1 →
       (∀ ls n top, c1.loops = ls ++ [(n, top)] →
         (n ≠ 1 → exec (.loopNext sp sc) s = .next (completed (stackSpec sp sc) c
           (setCtx s1 { c1 with loops := ls ++ [(n - 1, top)] }) (some top))) ∧
         (n = 1 → exec (.loopNext sp sc) s = .next (completed (stackSpec sp sc) c (setCtx s1 { c1 with loops := ls }) none)) ∧
         exec (.loopLeave sp sc) s = .next (completed (stackSpec sp sc) c (setCtx s1 { c1 with loops := ls }) none)) ∧
       (c1.loops = [] →
         exec (.loopNext sp sc) s = .next (takeFault s1 c1 STACK none false c.pc.toNat 0) ∧
         exec (.loopLeave sp sc) s = .next (takeFault s1 c1 STACK none false c.pc.toNat 0))) ∧
  (∀ (i : Instr) (sp : Option Word) (sc : BitVec 3) (s : State) (c : Ctx) (s1 : State) (c1 : Ctx),
     ((∃ off g, branchResult i = some (sp, sc, off, g)) ∧ Executes (branchSpec sp sc) s c s1 c1 ∨
       ((∃ off, i = .call sp sc off) ∧ c1.calls.length < 16 ∨ i = .ret sp sc ∧ c1.calls ≠ [] ∨
         (∃ a off, i = .loop sp sc a off) ∧ c1.loops.length < 8 ∨ (i = .loopNext sp sc ∨ i = .loopLeave sp sc) ∧ c1.loops ≠ []) ∧
       Executes (stackSpec sp sc) s c s1 c1) →
     ∀ t, exec i s = .next t → onlyContext c.id s1 t ∧ ∀ x, getCtx t c.id = some x →
       x = { c1 with paths := x.paths, run := x.run, ckpt := x.ckpt, regionLen := x.regionLen, phase := x.phase,
                     issues := x.issues, calls := x.calls, loops := x.loops })

/-- END.lane exits the running path (R45). The spec: "Every lane it holds becomes exited, including lanes that EXMW
has turned off:" Every lane that the running path holds becomes exited: it is in the live-lane mask no more, no
instruction of any clause has it active, no EXMW brings it back, and it is in no mask, held set or meeting mask of any
path. Where no live path is left the group waits in its end and its entry in the gather state of its parent shows that it
is not live; otherwise it goes on. -/
def Obligations.PathExit : Prop :=
  ∀ (sp : Option Word) (s : State) (c : Ctx) (s1 : State) (c1 : Ctx),
    Executes { flowSpec sp 0 with laneScope := true } s c s1 c1 → c1.isGroup = true →
    ∃ t x, exec (.endc sp 0) s = .next t ∧ getCtx t c.id = some x ∧
      x.exited = c1.exited ||| c1.path.held ∧ x.liveMask &&& c1.path.held = 0 ∧
      (∀ q f, activeLanes x q f &&& c1.path.held = 0) ∧ (∀ v : LaneMask, (v &&& x.path.held &&& x.liveMask) &&& c1.path.held = 0) ∧
      (∀ p ∈ x.paths, p.mask &&& c1.path.held = 0 ∧ p.held &&& c1.path.held = 0 ∧ ∀ m ∈ p.meets, m.2 &&& c1.path.held = 0) ∧
      (x.livePaths = 0 → x.mode = .ending ∧
        ∀ p y, c1.parent = some p → getCtx t p = some y → ∀ r ∈ y.gather, r.child = c.id → r.live = false) ∧
      (x.livePaths ≠ 0 → x.mode = c1.mode)

/-- END of a context sends markers and waits, live no more (R33, R208). While a live child's descent queue is full, END at
the context's own scope stays at its word. With room in every live child's queue it completes its first step: each live child
has an end marker more in its queue and every other context keeps its own; the context waits in its end, changed in nothing
else but its paths, its region length and its issue count; its entry in the gather state of its parent shows that it is not
live; a grid's launch records that its grid has executed END, and no other part of the state differs. -/
def Obligations.ContextEnds : Prop :=
  ∀ (sp : Option Word) (sc : BitVec 3) (s : State) (c : Ctx) (s1 : State) (c1 : Ctx),
    Executes { flowSpec sp sc with laneScope := true } s c s1 c1 → sc ≠ 0 →
    (childFull s1 c1 = true → exec (.endc sp sc) s = .next s1) ∧
    (childFull s1 c1 = false → ∃ t x, exec (.endc sp sc) s = .next t ∧ getCtx t c.id = some x ∧
      x = { c1 with mode := .ending, paths := x.paths, regionLen := x.regionLen, issues := x.issues, gather := x.gather } ∧
      (c1.parent ≠ some c.id → x.gather = c1.gather) ∧
      (∀ y, getCtx s1 y.id = some y → y.id ≠ c.id → ∃ z, getCtx t y.id = some z ∧
        z = { y with descent := z.descent, gather := z.gather } ∧
        z.descent = (if y.parent = some c.id ∧ c1.liveChild y.id = true then y.descent ++ [.marker] else y.descent) ∧
        z.gather = (if c1.parent = some y.id then
          y.gather.map (fun r => if r.child = c.id then { r with live := false } else r) else y.gather)) ∧
      (∀ l, getLaunch s1 l.id = some l →
        getLaunch t l.id = some (if c1.level = 4 ∧ l.id = c1.launch then { l with gridEnd := true } else l)) ∧
      t = { s1 with ctxs := t.ctxs, launches := t.launches })

/-- BRL splits the running path by the predicate, MEET pushes a meeting point (R43, R44, R156, R209). BRL stays at its word
while an instruction that writes pN is pending. Once none is, the other live paths are one issue slot older; then, with T the
lanes of the running path's mask where pN is set: T empty falls through, T the whole mask branches; otherwise, with a free
entry, the lowest one becomes a path of age 0 at the target that holds T with the private registers, signature and meeting
stack of the running path, ready or, where the target is the top meeting address of that stack, waiting there, and the running
path keeps the other lanes and falls through; with none free the fault is PATHS. With fewer than 8 entries MEET pushes the pair
of its target and the running path's EXM on that path's meeting stack; with 8 it takes STACK. -/
def Obligations.PathSplitAndMeet : Prop :=
  (∀ (sp : Option Word) (sc n : BitVec 3) (off : BitVec 13) (s : State) (c : Ctx) (s1 : State) (c1 : Ctx),
     let spec : CtrlSpec := { branchSpec sp sc with levels := groupLevels, onlyScope := some 0, aged := true }
     let p := c1.path
     let t := c1.pred n.toNat &&& p.mask
     let target := c1.pc + off.signExtend 24
     Executes spec s c s1 c1 →
     (predPending s1 c1 n.toNat = true → exec (.brl sp sc n off) s = .next s1) ∧
     (predPending s1 c1 n.toNat = false →
       (t = 0 → exec (.brl sp sc n off) s = .next (completed spec c (setCtx s1 c1.ageOthers) none)) ∧
       (t ≠ 0 → t = p.mask → exec (.brl sp sc n off) s = .next (completed spec c (setCtx s1 c1.ageOthers) (some target))) ∧
       (t ≠ 0 → t ≠ p.mask → c1.freePath = none →
         exec (.brl sp sc n off) s = .next (takeFault s1 c1 PATHS none false c.pc.toNat 0)) ∧
       ∀ j, t ≠ 0 → t ≠ p.mask → c1.freePath = some j →
         exec (.brl sp sc n off) s = .next (completed spec c (setCtx s1 { c1 with
           paths := (c1.ageOthers.paths.set c1.run { p with mask := p.mask &&& ~~~ t, held := p.held &&& ~~~ t }).set j
             { p with state := if (p.meets.getLast?.map Prod.fst) = some target then 3 else 2
                      pc := target
                      mask := t
                      held := t
                      age := 0 } }) none))) ∧
  (∀ (sp : Option Word) (sc : BitVec 3) (off : BitVec 13) (s : State) (c : Ctx) (s1 : State) (c1 : Ctx),
     let spec : CtrlSpec := { flowSpec sp sc with levels := groupLevels, laneScope := true, onlyScope := some 0 }
     Executes spec s c s1 c1 →
     (c1.path.meets.length < 8 → exec (.meet sp sc off) s = .next (completed spec c (setCtx s1 (c1.setPath { c1.path with
       meets := c1.path.meets ++ [(c1.pc + off.signExtend 24, c1.path.mask)] })) none)) ∧
     (8 ≤ c1.path.meets.length → exec (.meet sp sc off) s = .next (takeFault s1 c1 STACK none false c.pc.toNat 0)))

/-- LANE enqueues a clause with its arguments and mask (R39, R64, R187, R210). Where the header and the first words w0 of the
clause's instructions, as far as they lie in the lane section, can be fetched, and LANE has S = 1 or none of those
instructions is a BATOM or LATOM: with fewer than 16 clauses in the queue LANE completes; the queue holds one clause more, with
the clause's offset, the four registers sd to sd+3, the running path's EXM, NBV, STALEPOL and the region's live-mask word as
they stand, and the running path's signature has absorbed those first words in order; with 16 it stays at its word. With S = 0
and a BATOM or LATOM among them it takes ILLEGAL. -/
def Obligations.LaneEnqueues : Prop :=
  ∀ (sp : Option Word) (d : Reg) (m : BitVec 16) (s : State) (c : Ctx) (s1 : State) (c1 : Ctx) (h : Word) (ws : List Word),
    let spec : CtrlSpec := { groupSpec sp false [] with ageing := true }
    let atomic := ∃ w ∈ ws, bits w 31 24 = 0x52 ∨ bits w 31 24 = 0x56
    Executes spec s c s1 c1 → fetchLane s1 c1 m.toNat 0 = .word h →
    ((List.range (bits h 31 28 + 1)).filter (fun i => m.toNat + 1 + i < 65536)).map
      (fun i => fetchLane s1 c1 (m.toNat + 1 + i) 0) = ws.map Fetch.word →
    (sp = none → atomic → exec (.lane sp d m) s = .next (takeFault s1 c1 ILLEGAL none false c.pc.toNat 0)) ∧
    (sp ≠ none ∨ ¬ atomic →
      (16 ≤ c1.clauses.length → exec (.lane sp d m) s = .next s1) ∧
      (c1.clauses.length < 16 → exec (.lane sp d m) s = .next (completed spec c
        (setCtx { s1 with nextId := s1.nextId + 1 } { c1.setPath { c1.path with sig := ws.foldl absorb c1.path.sig } with
          clauses := c1.clauses ++ [⟨s1.nextId, m, [c1.sreg d.toNat, c1.sreg (d.toNat + 1), c1.sreg (d.toNat + 2),
            c1.sreg (d.toNat + 3)], c1.path.mask, c1.nbv, effPols s1 c1, c1.run, c1.live, c1.liveRegs, false, 0, 0, 0, false⟩] }) none)))

/-- LSYNC, WAITF, WAITE, FENCE and NOP complete once their conditions hold, with no effect but a fence's (R145, R211, R212,
R220, R223, R235, R322). LSYNC completes when no clause and no instruction of the lane stream is outstanding; WAITF with an
empty mask, or when every clause's instructions have issued and each named flag counts zero; WAITE when the class's counter is
at most its threshold and, for class 1, each lane word not yet issued is known and is no MMA; NOP always. Until then the
first three stay at their word, and the state is the one in which their effect began. A FENCE with an acquire alone completes.
A FENCE with a release makes its release steps: nothing where its scope, as the group takes it, is block or narrower, else
the core's dirty lines are written back; it completes where the scope is block or narrower, or no write of the group and no
write-back of its core is then on its way and device time exceeds WCT, and stays at its word until then. A completing acquire
moves the point ahead of which later loads wait to the newest identity; at system scope it retires the core's clean lines, at
once where no lane access of the group is outstanding, else with this point noted to be done later. Retiring leaves the core
only lines that are dirty or pinned, each with no lease and only its dirty bytes, and every dirty line with its dirty bytes; no
other core and no other part of the state changes. -/
def Obligations.WaitsComplete : Prop :=
  (∀ (s : State) (c : Ctx) (s1 : State) (c1 : Ctx),
     (∀ sp, Executes (groupSpec sp false []) s c s1 c1 →
       let done := c1.clauses = [] ∧ c1.flights = []
       (done → exec (.lsync sp) s = .next (completed (groupSpec sp false []) c s1 none)) ∧ (¬ done → exec (.lsync sp) s = .next s1)) ∧
     (∀ sp (m : BitVec 12), Executes (groupSpec sp false []) s c s1 c1 →
       let done := m = 0 ∨ ((∀ q ∈ c1.clauses, q.started = true ∧ q.count ≤ q.next) ∧
         ∀ n, n < 12 → m.getLsbD n = true → c1.flagCount n = 0)
       (done → exec (.waitf sp m) s = .next (completed (groupSpec sp false []) c s1 none)) ∧
       (¬ done → exec (.waitf sp m) s = .next s1)) ∧
     (∀ sp (cls : BitVec 2) (th : BitVec 6), Executes (groupSpec sp false []) s c s1 c1 →
       let done := c1.engineCount cls ≤ th.toNat ∧ (cls = 1 → ∀ q ∈ c1.clauses, ∃ ws, clauseRest s1 c1 q = some ws ∧
         ∀ w ∈ ws, ∃ x, w = some x ∧ bits x.1 31 24 ≠ 0x60)
       (done → exec (.waite sp cls th) s = .next (completed (groupSpec sp false []) c s1 none)) ∧
       (¬ done → exec (.waite sp cls th) s = .next s1)) ∧
     ∀ sp, Executes (plainSpec sp allLevels) s c s1 c1 → exec (.nop sp) s = .next (completed (plainSpec sp allLevels) c s1 none)) ∧
  (∀ (sp : Option Word) (kind : BitVec 2) (sc : BitVec 3) (s : State) (c : Ctx) (s1 : State) (c1 : Ctx),
     Executes (groupSpec sp false []) s c s1 c1 →
     let busy := c1.flights.any (fun f => !f.accs.isEmpty)
     let acquired (t : State) : State :=
       let t1 := setCtx t { c1 with loadFence := t.nextId, retire := if sc = 5 ∧ busy = true then c1.retire ++ [t.nextId] else c1.retire }
       if sc = 5 ∧ busy = false then retireClean t1 c1.core else t1
     (kind = 0 → exec (.fence sp kind sc) s = .next (completed (groupSpec sp false []) c (acquired s1) none)) ∧
     (kind ≠ 0 →
       let s2 := released s1 c1 sc.toNat
       (ReleaseDone s1 c1 sc.toNat → exec (.fence sp kind sc) s =
         .next (completed (groupSpec sp false []) c (if kind = 1 then s2 else acquired s2) none)) ∧
       (¬ ReleaseDone s1 c1 sc.toNat → exec (.fence sp kind sc) s = .next s2))) ∧
  (∀ (s : State) (k : Nat), k < s.cores.length →
     (∀ x ∈ (getCore (retireClean s k) k).lines, (x.dirty ≠ 0 ∨ x.pinned = true) ∧ x.leaseEnd = 0 ∧
       ∀ b ∈ x.bytes, x.dirty.getLsbD b.1 = true) ∧
     (∀ x ∈ (getCore s k).lines, x.dirty ≠ 0 →
       ∃ y ∈ (getCore (retireClean s k) k).lines, y.line = x.line ∧ y.dirty = x.dirty ∧ y.bytes = x.dirtyBytes) ∧
     (∀ j, j ≠ k → getCore (retireClean s k) j = getCore s j) ∧ retireClean s k = { s with cores := (retireClean s k).cores })

/-- PTOS, EXMR and the VTOS forms move lane state to scalars; EXMW cuts the written mask (R41, R47, R213, R214, R65).
While the lane stream has anything outstanding PTOS and the VTOS forms stay at their word. With it idle PTOS writes the
predicate's low and high halves to sd and sd+1, or takes the fatal fault UE where the predicate holds uncorrectable data; EXMR
writes the running path's EXM the same way without waiting. VTOS of a lane, the pair form of two registers and the first form of
the lowest lane of EXM take PERM where a register they name does not exist. Otherwise they write 0 for a lane that is absent or
dead, and the first form with an empty EXM; take STALE with the granule's address where the lane's granule is stale and the REG
policy is TRAP; and else write the lane's words, where sound, with 0 for a word whose granule is stale. EXMW replaces the running
path's EXM with the pair s[a+1]:s[a] ANDed with the lanes that the path holds and with the live-lane mask, and has no other
effect. -/
def Obligations.PredicateAndLaneReads : Prop :=
  (∀ (s : State) (c : Ctx) (s1 : State) (c1 : Ctx) (sp : Option Word) (d a : Reg) (l : BitVec 6),
     let one := groupSpec sp false [d.toNat]
     let two := groupSpec sp false [d.toNat, d.toNat + 1]
     let bad (r l : Nat) : Prop := vstale s1 c1 r l = false ∧ poisonAt s1 (coreKey c1.core (c1.vregOff r l)) = true
     let word (r l : Nat) : Word := if vstale s1 c1 r l then 0 else vread s1 c1 r l
     let fault (code : Nat) (addr : Word) : State := takeFault s1 c1 code none false c.pc.toNat addr
     let stale (r l : Nat) : State := fault STALE (BitVec.ofNat 32 (c1.vregOff r l / 64 * 64))
     let low := lowestLane c1.path.mask
     (∀ n : BitVec 3, Executes two s c s1 c1 →
       (c1.laneIdle = false → exec (.ptos sp d n) s = .next s1) ∧
       (c1.laneIdle = true → c1.predUe n.toNat = true → exec (.ptos sp d n) s = .next (scalarUe s1 c1 c.pc.toNat 0)) ∧
       (c1.laneIdle = true → c1.predUe n.toNat = false → exec (.ptos sp d n) s = .next (completed two c
         (setCtx s1 ((c1.setSreg d.toNat ((c1.pred n.toNat).setWidth 32)).setSreg (d.toNat + 1)
           ((c1.pred n.toNat).extractLsb' 32 32))) none))) ∧
     (Executes two s c s1 c1 →
       exec (.exmr sp d) s = .next (completed two c
         (setCtx s1 ((c1.setSreg d.toNat (c1.path.mask.setWidth 32)).setSreg (d.toNat + 1)
           (c1.path.mask.extractLsb' 32 32))) none)) ∧
     (Executes one s c s1 c1 →
       (c1.laneIdle = false → exec (.vtos sp d a l) s = .next s1 ∧ exec (.vtosFirst sp d a) s = .next s1) ∧
       (c1.laneIdle = true → c1.vregs ≤ a.toNat →
         exec (.vtos sp d a l) s = .next (fault PERM 0) ∧ exec (.vtosFirst sp d a) s = .next (fault PERM 0)) ∧
       (c1.laneIdle = true → a.toNat < c1.vregs →
         let wrote (v : Word) : State := completed one c (setCtx s1 (c1.setSreg d.toNat v)) none
         (c1.deadOrAbsent l.toNat = true → exec (.vtos sp d a l) s = .next (wrote 0)) ∧
         (c1.deadOrAbsent l.toNat = false →
           (vstale s1 c1 a.toNat l.toNat = true → c1.polReg = true → exec (.vtos sp d a l) s = .next (stale a.toNat l.toNat)) ∧
           (¬ (vstale s1 c1 a.toNat l.toNat = true ∧ c1.polReg = true) → ¬ bad a.toNat l.toNat →
             exec (.vtos sp d a l) s = .next (wrote (word a.toNat l.toNat)))) ∧
         (c1.path.mask = 0 ∨ c1.deadOrAbsent low = true → exec (.vtosFirst sp d a) s = .next (wrote 0)) ∧
         (c1.path.mask ≠ 0 → c1.deadOrAbsent low = false →
           (vstale s1 c1 a.toNat low = true → c1.polReg = true → exec (.vtosFirst sp d a) s = .next (stale a.toNat low)) ∧
           (¬ (vstale s1 c1 a.toNat low = true ∧ c1.polReg = true) → ¬ bad a.toNat low →
             exec (.vtosFirst sp d a) s = .next (wrote (word a.toNat low)))))) ∧
     (Executes two s c s1 c1 →
       let r := a.toNat
       (c1.laneIdle = false → exec (.vtosPair sp d a l) s = .next s1) ∧
       (c1.laneIdle = true → c1.vregs ≤ r + 1 → exec (.vtosPair sp d a l) s = .next (fault PERM 0)) ∧
       (c1.laneIdle = true → r + 1 < c1.vregs →
         let wrote (v w : Word) : State := completed two c (setCtx s1 ((c1.setSreg d.toNat v).setSreg (d.toNat + 1) w)) none
         (c1.deadOrAbsent l.toNat = true → exec (.vtosPair sp d a l) s = .next (wrote 0 0)) ∧
         (c1.deadOrAbsent l.toNat = false →
           (vstale s1 c1 r l.toNat = true → c1.polReg = true → exec (.vtosPair sp d a l) s = .next (stale r l.toNat)) ∧
           (vstale s1 c1 r l.toNat = false → vstale s1 c1 (r + 1) l.toNat = true → c1.polReg = true →
             exec (.vtosPair sp d a l) s = .next (stale (r + 1) l.toNat)) ∧
           (¬ ((vstale s1 c1 r l.toNat = true ∨ vstale s1 c1 (r + 1) l.toNat = true) ∧ c1.polReg = true) → ¬ bad r l.toNat →
             ¬ bad (r + 1) l.toNat →
             exec (.vtosPair sp d a l) s = .next (wrote (word r l.toNat) (word (r + 1) l.toNat))))))) ∧
  (∀ (sp : Option Word) (a : Reg) (s : State) (c : Ctx) (s1 : State) (c1 : Ctx), Executes (groupSpec sp false []) s c s1 c1 →
     exec (.exmw sp a) s = .next (completed (groupSpec sp false []) c (setCtx s1 { c1 with
       paths := c1.paths.set c1.run { c1.path with
         mask := (c1.sreg (a.toNat + 1) ++ c1.sreg a.toNat) &&& c1.path.held &&& c1.liveMask } }) none))

/-- DOWN places one entry in every live child's queue (R33, R34, R35, R215). In a sequencer, not a task grid's, whose lower
section holds the offset: with room in every live child's queue DOWN completes, and each live child's queue, and no other, has
one segment entry more with the offset and the four registers; with a full queue the sequencer waits in the DOWN with those
words, and its completion event, once no live child's queue is full, makes the same entries and moves the pc past the DOWN. -/
def Obligations.DescentSends : Prop :=
  let sent (p : Ctx) (e : Descent) (t : State) : State := { t with ctxs := t.ctxs.map (fun x =>
    if x.parent = some p.id ∧ p.liveChild x.id = true then { x with descent := x.descent ++ [e] } else x) }
  (∀ (sp : Option Word) (d : Reg) (m : BitVec 16) (s : State) (c : Ctx) (s1 : State) (c1 : Ctx),
    Executes (plainSpec sp [2, 3, 4]) s c s1 c1 → (c1.level = 4 → taskMode s1 c1 = false) → m.toNat < lowerWords s1 c1 →
    let args := [c1.sreg d.toNat, c1.sreg (d.toNat + 1), c1.sreg (d.toNat + 2), c1.sreg (d.toNat + 3)]
    (childFull s1 c1 = false → exec (.down sp d m) s = .next (completed (plainSpec sp [2, 3, 4]) c (sent c1 (.segment m args) s1) none)) ∧
    (childFull s1 c1 = true → exec (.down sp d m) s = .next (setCtx s1 { c1 with mode := .down m args (wordsOf false sp) }))) ∧
  ∀ (t : State) (x : Ctx) (m : BitVec 16) (args : List Word) (len : Nat), getCtx t x.id = some x → x.mode = .down m args len →
    powered t = true →
    (childFull t x = true → exec (.descentUnstall x.id) t = .next t) ∧
    (childFull t x = false → exec (.descentUnstall x.id) t = .next (modCtx
      (sent x (.segment m args) (setCtx t { x with mode := .run })) x.id (fun y => y.setPc (y.pc + BitVec.ofNat 24 len))))

/-- SEGEND idles, a segment start takes the next entry, a marker ends the child (R33, R36, R216, R330). SEGEND leaves the
context idle with its issue slot counted. An idle child whose next entry is a segment begins it, a group once its memory and matrix
instructions have issued and its region is committed and until then not: s248 to s251 take the entry's four words and every lower scalar keeps its value, the pc is its
offset, the entry is consumed and DHEAD moves by one modulo 8; in a group the region is then empty with no live-mask word, and
the checkpoint holds the four words. An idle child whose next entry is an end marker waits while a live child of its own has a
full queue, and a group until its memory and matrix instructions have issued and its stores are committed; else it waits in its end
with that entry consumed, an end marker in each of its live children's queues, and its entry in the gather state of its parent
showing that it is not live. -/
def Obligations.SegmentsBeginAndEnd : Prop :=
  (∀ (sp : Option Word) (s : State) (c : Ctx) (s1 : State) (c1 : Ctx),
      let spec : CtrlSpec := { plainSpec sp [0, 2, 3] with single := true }
      Executes spec s c s1 c1 → exec (.segend sp) s = .next (setCtx s1 (({ c1 with mode := .idle } : Ctx).countIssue spec))) ∧
    (∀ (s : State) (x : Ctx) (off : BitVec 16) (args : List Word) (rest : List Descent), getCtx s x.id = some x → x.mode = .idle →
      x.descent = .segment off args :: rest → powered s = true → args.length = 4 → sparseWf 0 x.sregs = true →
      (x.isGroup = true → memLanesIssued s x = false → exec (.segmentStart x.id) s = .next s) ∧
      (x.isGroup = true → memLanesIssued s x = true → (commit s x).2 = false → exec (.segmentStart x.id) s = .next (commit s x).1) ∧
      ∀ s1 z, (x.isGroup = true → memLanesIssued s x = true) → (if x.isGroup then commit s x = (s1, true) else s1 = s) → getCtx s1 x.id = some z → z.sregs = x.sregs →
        z.run < z.paths.length →
        ∃ t y, exec (.segmentStart x.id) s = .next t ∧ getCtx t x.id = some y ∧ y.mode = .run ∧ y.descent = rest ∧
          y.dhead = (z.dhead + 1) % 8 ∧ y.pc = off.setWidth 24 ∧ (∀ i, i < 4 → y.sreg (248 + i) = args.getD i 0) ∧
          (∀ n, n < 248 → y.sreg n = x.sreg n) ∧
          (x.isGroup = true → y.regionLen = 0 ∧ y.replay = [] ∧ y.live = none ∧ y.ckpt.seg = some args)) ∧
    ∀ (s : State) (x : Ctx) (rest : List Descent), getCtx s x.id = some x → x.mode = .idle → x.descent = .marker :: rest →
      powered s = true →
      (childFull s x = true → exec (.endMarker x.id) s = .next s) ∧
      (childFull s x = false → x.isGroup = true → memLanesIssued s x = false → exec (.endMarker x.id) s = .next s) ∧
      (childFull s x = false → x.isGroup = true → memLanesIssued s x = true → (commit s x).2 = false →
        exec (.endMarker x.id) s = .next (commit s x).1) ∧
      ∀ s1 w p y, childFull s x = false → (x.isGroup = true → memLanesIssued s x = true) →
        (if x.isGroup then commit s x = (s1, true) else s1 = s) → getCtx s1 x.id = some w → w.parent = some p →
        let t := setCtx { s1 with ctxs := s1.ctxs.map (fun z =>
            if z.parent = some w.id ∧ w.liveChild z.id = true then { z with descent := z.descent ++ [.marker] } else z) }
          { w with mode := .ending, descent := rest, dhead := (w.dhead + 1) % 8 }
        getCtx t p = some y → exec (.endMarker x.id) s = .next (setCtx t { y with
          gather := y.gather.map (fun r => if r.child = w.id then { r with live := false } else r) })

/-- UP leaves one report and GATHER combines and consumes them (R37, R38, R217). UP with no report of this child
standing leaves the pair of its operator and s[a] in the parent's gather entry of the child; with one standing it
waits. GATHER with a report of every live child and one operator writes the combination to s[d] and consumes every
report; a live child without a report makes it wait; another operator, or .uni with two values, is NONUNI. Over a list
of reported words: .uni gives the common value, .sum the sum modulo 2^32, .min and .max the signed extremes, .and and
.or the bitwise combinations, .minu and .maxu the unsigned extremes; with no report the values are those of R37's last
column. -/
def Obligations.ReportsGather : Prop :=
  ((∀ (sp : Option Word) (a : Reg) (op : BitVec 3) (s : State) (c : Ctx) (s1 : State) (c1 p : Ctx),
       let spec : CtrlSpec := { plainSpec sp [0, 2, 3] with must := true, single := true }
       Executes spec s c s1 c1 → c1.parent.bind (getCtx s1) = some p →
       (reportOf p c1.id = none → exec (.up sp a op) s = .next (completed spec c (setCtx s1 { p with
         gather := p.gather.map (fun r => if r.child = c1.id then { r with standing := some (op, c1.sreg a.toNat) } else r) }) none)) ∧
       (reportOf p c1.id ≠ none → exec (.up sp a op) s = .next s1)) ∧
     ∀ (sp : Option Word) (d : Reg) (op : BitVec 3) (s : State) (c : Ctx) (s1 : State) (c1 : Ctx),
       let spec : CtrlSpec := { plainSpec sp [2, 3, 4] with writes := [d.toNat] }
       let rs := c1.gather.filterMap Report.standing
       Executes spec s c s1 c1 → (c1.level = 4 → taskMode s1 c1 = false) →
       ((∃ r ∈ c1.gather, r.live = true ∧ r.standing = none) → exec (.gather sp d op) s = .next s1) ∧
       ((∀ r ∈ c1.gather, r.live = true → r.standing ≠ none) →
         ((∀ r ∈ rs, r.1 = op) → (op = 0 → ∀ r ∈ rs, ∀ r' ∈ rs, r.2 = r'.2) →
           exec (.gather sp d op) s = .next (completed spec c (setCtx s1 (({ c1 with
             gather := c1.gather.map (fun r => { r with standing := none }) } : Ctx).setSreg d.toNat
               (gatherAll op.toNat (rs.map Prod.snd)))) none)) ∧
         ((∃ r ∈ rs, r.1 ≠ op) ∨ (op = 0 ∧ ∃ r ∈ rs, ∃ r' ∈ rs, r.2 ≠ r'.2) →
           exec (.gather sp d op) s = .next (takeFault s1 c1 NONUNI none false c.pc.toNat 0)))) ∧
  ((∀ (x : Word) (n : Nat), gatherAll 0 (List.replicate (n + 1) x) = x) ∧
     (∀ vs : List Word, vs ≠ [] → gatherAll 1 vs = BitVec.ofNat 32 (vs.map BitVec.toNat).sum) ∧
     (∀ vs : List Word, vs ≠ [] → gatherAll 2 vs ∈ vs ∧ ∀ v ∈ vs, (gatherAll 2 vs).toInt ≤ v.toInt) ∧
     (∀ vs : List Word, vs ≠ [] → gatherAll 3 vs ∈ vs ∧ ∀ v ∈ vs, v.toInt ≤ (gatherAll 3 vs).toInt) ∧
     (∀ (vs : List Word) (i : Nat), i < 32 → vs ≠ [] → ((gatherAll 4 vs).getLsbD i = true ↔ ∀ v ∈ vs, v.getLsbD i = true)) ∧
     (∀ (vs : List Word) (i : Nat), vs ≠ [] → ((gatherAll 5 vs).getLsbD i = true ↔ ∃ v ∈ vs, v.getLsbD i = true)) ∧
     (∀ vs : List Word, vs ≠ [] → gatherAll 6 vs ∈ vs ∧ ∀ v ∈ vs, (gatherAll 6 vs).toNat ≤ v.toNat) ∧
     (∀ vs : List Word, vs ≠ [] → gatherAll 7 vs ∈ vs ∧ ∀ v ∈ vs, v.toNat ≤ (gatherAll 7 vs).toNat) ∧
     (List.range 8).map (fun k => gatherAll k []) =
       [0, 0, 0x7FFFFFFF, 0x80000000, 0xFFFFFFFF, 0, 0xFFFFFFFF, 0])

/-- A group arrives at a barrier after its release steps, the barrier opens when all have arrived, and the reel resumes them in
waves (R51, R218, R219). In a task BAR completes at once. In a group BAR at block scope and BARC at cluster scope make the
release steps of a FENCE; once they are done the group is suspended at that barrier of its block or cluster context with its
issue slot counted, and until then it stays at its word. The barrier does not open while a live participant has not arrived.
Once none is missing it opens: every arrived group is handed to the reel, with, where all are on one cluster, their list in
ascending order of core and slot cut into waves of the cluster's WAVE + 1, the last one with what is left, the first due now.
The next wave of the reel that is due earliest, of two at once the one whose barrier opened first, resumes each of its groups past
its barrier, with later loads ordered behind this point, and the reel keeps its place with the waves that are left, the next due
after its gap. That the first wave is due at once and that a gap in clk is counted as time of the cluster's clock are the model's
choices (log entries 11 and 103). -/
def Obligations.BarrierResults : Prop :=
  (∀ (sp : Option Word) (n : BitVec 4) (s : State) (c : Ctx) (s1 : State) (c1 : Ctx),
      let spec : CtrlSpec := { groupSpec sp false [] with must := true, single := true }
      Executes spec s c s1 c1 →
      (c1.task = true → exec (.bar sp n) s = .next (completed spec c s1 none)) ∧
      (c1.task = false →
        (ReleaseDone s1 c1 2 → exec (.bar sp n) s = .next (setCtx (released s1 c1 2)
          (({ c1 with mode := .barrier (c1.parent.getD 0) n.toNat (.bar sp n) (wordsOf false sp) } : Ctx).countIssue spec))) ∧
        (¬ ReleaseDone s1 c1 2 → exec (.bar sp n) s = .next (released s1 c1 2)))) ∧
    (∀ (sp : Option Word) (n : BitVec 2) (s : State) (c : Ctx) (s1 : State) (c1 : Ctx),
      let spec : CtrlSpec := { plainSpec sp [0] with must := true, single := true }
      Executes spec s c s1 c1 →
      (ReleaseDone s1 c1 3 → exec (.barc sp n) s = .next (setCtx (released s1 c1 3) (({ c1 with
        mode := .barrier ((clusterOf s1 c1).getD 0) (16 + n.toNat) (.barc sp n) (wordsOf false sp) } : Ctx).countIssue spec))) ∧
      (¬ ReleaseDone s1 c1 3 → exec (.barc sp n) s = .next (released s1 c1 3))) ∧
    (∀ (owner n : Nat) (s : State), powered s = true → (∃ c ∈ s.ctxs, c.atBarrier owner n = true) →
      ((∃ c ∈ s.ctxs, participates s owner n c = true ∧ c.atBarrier owner n = false) → exec (.barrierOpen owner n) s = .next s) ∧
      ((∀ c ∈ s.ctxs, participates s owner n c = true → c.atBarrier owner n = true) →
        ∃ t, exec (.barrierOpen owner n) s = .next t ∧ t = { s with ctxs := t.ctxs, clusters := t.clusters } ∧
          t.ctxs = s.ctxs.map (fun c => match c.mode with
            | .barrier o m i len => if o = owner && m = n then { c with mode := .reel i len } else c
            | _ => c) ∧
          ∀ k, k < s.clusters.length → (∀ c ∈ s.ctxs, c.atBarrier owner n = true → c.cluster = k) →
            ∃ (order : List Ctx) (r : Reel), (getCluster t k).reels = (getCluster s k).reels ++ [r] ∧
              order.Perm (s.ctxs.filter (fun c => c.atBarrier owner n)) ∧
              order.Pairwise (fun x y => x.core * 128 + x.slot ≤ y.core * 128 + y.slot) ∧
              r.waves.flatten = order.map Ctx.id ∧ r.nextAt = clusterTime s k ∧
              r.gap = clkNs (getCluster s k).gap.toNat ∧
              (∀ w ∈ r.waves, 0 < w.length ∧ w.length ≤ (getCluster s k).wave.toNat + 1) ∧
              ∀ w ∈ r.waves.dropLast, w.length = (getCluster s k).wave.toNat + 1)) ∧
    (∀ (cl : Nat) (s : State) (i : Nat) (r : Reel) (w : List Nat) (ws : List (List Nat)), powered s = true →
      let reels := (getCluster s cl).reels
      reels[i]? = some r → r.nextAt ≤ clusterTime s cl → r.waves = w :: ws →
      (∀ j x, reels[j]? = some x → r.nextAt ≤ x.nextAt ∧ (x.nextAt = r.nextAt → i ≤ j)) →
      ∃ t, exec (.reelWave cl) s = .next t ∧ t = { s with ctxs := t.ctxs, clusters := t.clusters } ∧
        t.ctxs = s.ctxs.map (fun c => if w.contains c.id then c.leaveBarrier s.nextId else c) ∧
        (cl < s.clusters.length → (getCluster t cl).reels =
          if ws.isEmpty then reels.eraseIdx i else reels.set i { r with waves := ws, nextAt := clusterTime s cl + r.gap })) ∧
    ∀ (c : Ctx) (sp : Option Word) (i : Instr) (len k : Nat), c.mode = .reel i len → ((∃ n, i = .bar sp n) ∨ ∃ n, i = .barc sp n) →
      c.leaveBarrier k = ({ c with mode := .run, loadFence := k } : Ctx).advance
        { len := len, sp := sp, levels := [0], counted := true } (c.pc + BitVec.ofNat 24 len) k

/-- GETSR writes the register's value to s[d] (R69, R70, R71, R72, R232). In every context that executes it GETSR
answers the next state with the system register's value in s[d]; TIMELO and WCTLO also latch the high word of the same time,
and no other register latches anything. The values of SCOPEID, LOOPIX, TRAPCAUSE, TRAPPC and TRAPADDR, DMK, TIMELO and, in a
group, SIGREG are the fields that hold them. -/
def Obligations.SystemRegisterReads : Prop :=
  ∀ (sp : Option Word) (d : Reg) (m : BitVec 16) (s : State) (c : Ctx) (s1 : State) (c1 : Ctx),
    Executes (scalarSpec sp false d) s c s1 c1 →
    exec (.getsr sp d m) s = .next (completed (scalarSpec sp false d) c
      (setCtx s1 ((latchHigh s1 c1 m.toNat).setSreg d.toNat (sysRead s1 c1 m.toNat))) none) ∧
    sysRead s1 c1 0x001 = BitVec.ofNat 32 (c1.task.toNat * 8 + c1.level.toNat) ∧
    sysRead s1 c1 0x00A = c1.dmk.setWidth 32 ∧ sysRead s1 c1 0x00B = c1.dmk.extractLsb' 32 32 ∧
    sysRead s1 c1 0x00C = BitVec.ofNat 32 (dieTime s1 c1.die) ∧
    (∀ ls n top, c1.loops = ls ++ [(n, top)] → sysRead s1 c1 0x014 = n) ∧ (c1.loops = [] → sysRead s1 c1 0x014 = 0) ∧
    (c1.isGroup = true → sysRead s1 c1 0x030 = c1.path.sig) ∧
    sysRead s1 c1 0x040 = c1.trapCause ∧ sysRead s1 c1 0x041 = c1.trapPc ∧ sysRead s1 c1 0x042 = c1.trapAddr ∧
    latchHigh s1 c1 0x00C = { c1 with timeHi := some (BitVec.ofNat 32 (dieTime s1 c1.die / 2 ^ 32)) } ∧
    latchHigh s1 c1 0x00E = { c1 with wctHi := some (BitVec.ofNat 32 (c1.wct / 2 ^ 32)) } ∧
    (m ≠ 0x00C → m ≠ 0x00E → latchHigh s1 c1 m.toNat = c1)

/-- SETSR writes the writable registers and ignores the others (R70, R77, R78, R81, R232). With the lane stream idle
where the register asks for it, SETSR of NBV in a group sets it to 1 or 2 (0 and 3 are ILLEGAL), of AGELIM clamps to
64 to 4096, of SIGREG sets the running path's signature, and of a read-only register changes nothing; with the lane
stream busy NBV, STALEPOL and SIGREG wait. In a sequencer SETSR of NBV, AGELIM and SIGREG changes nothing. SETSR of STALEPOL: a
group with an idle lane stream sets its REG bit and that of its register rows; a block sets SCR and ACC and those of its runs; a
grid sets VLT and that of its vault units; a cluster sequencer changes nothing. -/
def Obligations.SystemRegisterWrites : Prop :=
  (∀ (sp : Option Word) (d : Reg) (m : BitVec 16) (s : State) (c : Ctx) (s1 : State) (c1 : Ctx),
     Executes (plainSpec sp allLevels) s c s1 c1 →
     let v := c1.sreg d.toNat
     let spec := plainSpec sp allLevels
     (c1.isGroup = true → (m = 0x020 ∨ m = 0x024 ∨ m = 0x030) → c1.laneIdle = false → exec (.setsr sp d m) s = .next s1) ∧
     (c1.isGroup = true → c1.laneIdle = true → m = 0x020 →
       (v.setWidth 2 = (1 : BitVec 2) ∨ v.setWidth 2 = (2 : BitVec 2) →
         exec (.setsr sp d m) s = .next (completed spec c (setCtx s1 { c1 with nbv := v.setWidth 2 }) none)) ∧
       (v.setWidth 2 = (0 : BitVec 2) ∨ v.setWidth 2 = (3 : BitVec 2) →
         exec (.setsr sp d m) s = .next (takeFault s1 c1 ILLEGAL none false c.pc.toNat 0))) ∧
     (c1.isGroup = true → m = 0x021 → exec (.setsr sp d m) s = .next (completed spec c
       (setCtx s1 { c1 with agelim := BitVec.ofNat 13 (max 64 (min 4096 (v.toNat % 2 ^ 13))) }) none)) ∧
     (c1.isGroup = true → c1.laneIdle = true → m = 0x030 →
       exec (.setsr sp d m) s = .next (completed spec c (setCtx s1 (c1.setPath { c1.path with sig := v })) none)) ∧
     (c1.isGroup = false → m = 0x020 ∨ m = 0x021 ∨ m = 0x030 → exec (.setsr sp d m) s = .next (completed spec c s1 none)) ∧
     (m ≠ 0x020 → m ≠ 0x021 → m ≠ 0x024 → m ≠ 0x030 → exec (.setsr sp d m) s = .next (completed spec c s1 none))) ∧
  (∀ (sp : Option Word) (d : Reg) (s : State) (c : Ctx) (s1 : State) (c1 : Ctx), Executes (plainSpec sp allLevels) s c s1 c1 →
     let v := c1.sreg d.toNat
     let ans (t : State) : Prop := exec (.setsr sp d 0x024) s = .next (completed (plainSpec sp allLevels) c t none)
     (c1.isGroup = true → c1.laneIdle = true → ans (setPolicy (setCtx s1 { c1 with polReg := v.getLsbD 0 }) c1.id [1] (v.getLsbD 0))) ∧
     (c1.level = 2 → ans (setPolicy (setPolicy (setCtx s1 { c1 with polScr := v.getLsbD 1, polAcc := v.getLsbD 2 }) c1.id [2]
       (v.getLsbD 1)) c1.id [6] (v.getLsbD 2))) ∧
     (c1.level = 4 → ans { setCtx s1 { c1 with polVlt := v.getLsbD 3 } with vaults := s1.vaults.map (fun x => { x with
       units := x.units.map (fun r => if r.owner = c1.launch then { r with policy := v.getLsbD 3 } else r) }) }) ∧
     (c1.level = 3 → ans s1))

/-- TRAP and BRK take their faults, a halted group resumes past BRK, SIGCHK checks the signature (R82, R233, R335,
R337, R68, R234). TRAP takes the fault TRAP, and BRK the fault BRK where the group is not held under halt-on-break,
with the 16-bit code in TRAPADDR; a held group halts at BRK with its issue slot counted, and the debug port resumes it past
the word, or to a replay where a change of a space has cancelled its region (log entry 118). That a BRK that halts raises no fault and so writes none of TRAPCAUSE, TRAPPC and TRAPADDR is the model's choice (log
entry 94; R233 does not say so). Where the running path's signature equals the literal SIGCHK sets it to 0xFFFFFFFF and goes on; otherwise it takes
SIG. -/
def Obligations.SoftwareTraps : Prop :=
  (∀ (sp : Option Word) (m : BitVec 16) (s : State) (c : Ctx) (s1 : State) (c1 : Ctx), Executes (groupSpec sp false []) s c s1 c1 →
     exec (.trap sp m) s = .next (takeFault s1 c1 TRAP none false c.pc.toNat (m.setWidth 32)) ∧
     (c1.haltOnBreak = false → exec (.brk sp m) s = .next (takeFault s1 c1 BRK none false c.pc.toNat (m.setWidth 32))) ∧
     (c1.haltOnBreak = true → exec (.brk sp m) s = .next (setCtx s1
       (({ c1 with mode := .halted (wordsOf false sp) } : Ctx).countIssue (groupSpec sp false []))))) ∧
  (∀ (t : State) (x : Ctx) (len : Nat), getCtx t x.id = some x → x.mode = .halted len →
     (x.cancelled = true → exec (.debugResume x.id) t = .next (setCtx t { x with mode := .page 0 })) ∧
     (x.cancelled = false → exec (.debugResume x.id) t = .next (setCtx t (({ x with mode := .run } : Ctx).advance
       { len := len, sp := if 1 < len then x.live else none, levels := groupLevels, counted := true }
       (x.pc + BitVec.ofNat 24 len) t.nextId)))) ∧
  (∀ (sp : Option Word) (lit : Word) (s : State) (c : Ctx) (s1 : State) (c1 : Ctx), Executes (groupSpec sp true []) s c s1 c1 →
     (c1.path.sig = lit → exec (.sigchk sp lit) s = .next (completed (groupSpec sp true []) c
       (setCtx s1 (c1.setPath { c1.path with sig := 0xFFFFFFFF })) none)) ∧
     (c1.path.sig ≠ lit → exec (.sigchk sp lit) s = .next (takeFault s1 c1 SIG none false c.pc.toNat 0)))

/-- What taking a fault saves and where it goes (R82, R330, R335, R336, R337, R338). In a group or task a fault that is not
replayable writes TRAPCAUSE (code, lane, count one higher and saturating), TRAPPC and TRAPADDR. A handler-eligible
code with a trap segment, with no fault in a trap segment before its commit and none on the way into one, stops the scalar
stream for the trap segment: a lane fault discards the clauses, the store buffer and the replay set at once, a scalar fault lets
them be. Once nothing is in flight and no clause is left, the context's next turn enters the segment: one path runs at it with
every live lane, the stacks, the store buffer and the replay set are empty, the region length is 0, there is no live-mask word,
faults are fatal until the next commit, and the checkpoint holds the three registers. Until then that turn changes nothing. Any
other code, and any fault of a sequencer, is fatal: the context stops, a kill of its launch is due, and a sequencer's
registers stay as they are. -/
def Obligations.TakingAFault : Prop :=
  (∀ (s : State) (c : Ctx) (code : Nat) (lane : Option Nat) (lst : Bool) (off : Nat) (addr : Word), getCtx s c.id = some c →
    let eligible := code = 0x08 ∨ code = 0x09 ∨ code = 0x15 ∨ code = 0x16
    ∃ x, getCtx (takeFault s c code lane lst off addr) c.id = some x ∧
    (c.isGroup = true → x.trapCause = trapCauseOf c.trapCause lane code ∧
      x.trapPc = BitVec.ofNat 32 (lst.toNat * 2 ^ 31 + off % 2 ^ 24) ∧ x.trapAddr = addr) ∧
    (c.isGroup = true → code < 0x40 → (∀ l, lane = some l → l < 64) → bits x.trapCause 7 0 = code ∧
      bits x.trapCause 31 16 = min 0xFFFF (bits c.trapCause 31 16 + 1) ∧ bits x.trapCause 15 15 = (if lane.isSome then 1 else 0) ∧
      ∀ l, lane = some l → bits x.trapCause 13 8 = l) ∧
    (c.isGroup = true → eligible → trapSegOf s c ≠ 0xFFFF → c.armed = false → c.mode ≠ .trap →
      x.mode = .trap ∧ (lst = true → x.clauses = [] ∧ x.rsb = [] ∧ x.replay = []) ∧
      (lst = false → x.clauses = c.clauses ∧ x.rsb = c.rsb ∧ x.replay = c.replay) ∧ x.paths = c.paths ∧ x.calls = c.calls) ∧
    (c.isGroup = false ∨ ¬ eligible ∨ trapSegOf s c = 0xFFFF ∨ c.armed = true ∨ c.mode = .trap →
      x.mode = .faulted ∧ (takeFault s c code lane lst off addr).kills = s.kills ++ [⟨c.launch, BitVec.ofNat 8 code⟩]) ∧
    (c.isGroup = false → x = { c with mode := .faulted })) ∧
  (∀ (s : State) (c : Ctx), s.turn = .ctrl c.id → getCtx s c.id = some c → powered s = true → c.mode = .trap →
    (c.flights ≠ [] ∨ c.clauses ≠ [] → turnStep s = .next s) ∧
    (c.flights = [] → c.clauses = [] → ∃ t x, turnStep s = .next t ∧ getCtx t c.id = some x ∧
      t = { s with ctxs := t.ctxs, nextId := s.nextId + 1 } ∧ x.mode = .run ∧ x.pc = BitVec.ofNat 24 (trapSegOf s c) ∧
      x.path.mask = c.liveMask ∧ x.path.held = c.liveMask ∧ x.path.meets = [] ∧ x.run = 0 ∧
      (∀ j, 0 < j → (x.paths.getD j defaultPath).state = 0) ∧ x.calls = [] ∧ x.loops = [] ∧ x.rsb = [] ∧
      x.replay = [] ∧ x.regionLen = 0 ∧ x.live = none ∧ x.armed = true ∧
      x.ckpt.trap = some (c.trapCause, c.trapPc, c.trapAddr)))

/-- A write under the owning generation lands, a late write is dropped and counted (R99, R101, R102). Consecutive
bytes written to a core store by coreWrite: where the generation owns the row, they read back, the granules they touch
bear the writer's tag, the other bytes of such a granule keep their value where the tag was the writer's already and
read zero otherwise, and no byte outside those granules changes. Where it does not own the row, no byte and no tag
changes and ECNT.LATE of the core is one higher, saturating. -/
def Obligations.TaggedWrites : Prop :=
  ∀ (s : State) (k off : Nat) (g : BitVec 12) (bs : List Byte), k < s.cores.length → off + bs.length ≤ (off / 256 + 1) * 256 →
    s.canonical →
    let t := coreWrite s k off g bs
    let touched (x : Nat) : Prop := ∃ i, i < bs.length ∧ granule (coreKey k (off + i)) = granule x
    (ownerGen (getCore s k).rows (off / 256) = g →
      (∀ i, i < bs.length → memRead t.mem (coreKey k (off + i)) = bs.getD i 0 ∧ tagAt t (coreKey k (off + i)) = g) ∧
      (∀ x, touched x → (∀ i, i < bs.length → x ≠ coreKey k (off + i)) →
        memRead t.mem x = if tagAt s x = g then memRead s.mem x else 0) ∧
      (∀ x, ¬ touched x → memRead t.mem x = memRead s.mem x ∧ tagAt t x = tagAt s x)) ∧
    (ownerGen (getCore s k).rows (off / 256) ≠ g →
      t.mem = s.mem ∧ t.tags = s.tags ∧ t.poison = s.poison ∧
      (getCore t k).late.toNat = min 0xFFFF ((getCore s k).late.toNat + 1))

/-- LDS reads and STS writes the word at its address (R86, R100, R197, R198, R116). LDS forms s[a] + 4*imm8 modulo
2^32; an address that the context may not touch is PERM and a misaligned one ALIGN. Otherwise, with no lane access outstanding
that a fence ordered ahead of it, no stale granule that the TRAP policy makes a fault, and no uncorrectable byte to be read,
s[d] takes the 4 bytes there, the group's own buffered bytes in preference to the stored ones, and nothing else changes. STS
makes the same two checks; at a permitted aligned address of the group's own register rows it writes the 4 bytes of s[d] under
the group's generation; at any other it enters the region store buffer, memory unchanged, or takes REGION where a 33rd entry
would be needed. -/
def Obligations.CoreStoreAccess : Prop :=
  (∀ (sp : Option Word) (d a : Reg) (i : BitVec 8) (s : State) (c : Ctx) (s1 : State) (c1 : Ctx),
     Executes (groupSpec sp false [d.toNat]) s c s1 c1 →
     let addr := ((c1.sreg a.toNat).toNat + 4 * i.toNat) % 2 ^ 32
     let k := coreKey c1.core addr
     (allocOf c1 (effPols s1 c1) addr 4 = none → exec (.lds sp d a i) s = .next (takeFault s1 c1 PERM none false c.pc.toNat 0)) ∧
     ∀ al, allocOf c1 (effPols s1 c1) addr 4 = some al →
       (addr % 4 ≠ 0 → exec (.lds sp d a i) s = .next (takeFault s1 c1 ALIGN none false c.pc.toNat 0)) ∧
       (addr % 4 = 0 → (al.policy = false ∨ staleGranule s1 c1 k 4 al.gen true .load = none) → c1.loadsHeld = false →
         poisoned s1 k 4 al.gen (rsbBytes c1 (.here k) 4) = false →
         exec (.lds sp d a i) s = .next (completed (groupSpec sp false [d.toNat]) c (setCtx s1 (c1.setSreg d.toNat
           (leWord ((List.range 4).map (fun j => (rsbByte c1 (.here (k + j))).getD ((readAs s1 k 4 al.gen).getD j 0)))))) none))) ∧
  (∀ (sp : Option Word) (d a : Reg) (i : BitVec 8) (s : State) (c : Ctx) (s1 : State) (c1 : Ctx),
     Executes (groupSpec sp false []) s c s1 c1 →
     let addr := ((c1.sreg a.toNat).toNat + 4 * i.toNat) % 2 ^ 32
     let k := coreKey c1.core addr
     (allocOf c1 (effPols s1 c1) addr 4 = none → exec (.sts sp d a i) s = .next (takeFault s1 c1 PERM none false c.pc.toNat 0)) ∧
     ∀ al, allocOf c1 (effPols s1 c1) addr 4 = some al →
       let buffered := bufferStore c1 0 false 0 0 (elementBytes (.here k) 0 (some al.gen) (wordBytes (c1.sreg d.toNat)))
       (addr % 4 ≠ 0 → exec (.sts sp d a i) s = .next (takeFault s1 c1 ALIGN none false c.pc.toNat 0)) ∧
       (addr % 4 = 0 →
         (ownRow c1 (.here k) = true → exec (.sts sp d a i) s = .next (completed (groupSpec sp false []) c
           (writeOwn s1 c1 [(.here k, wordBytes (c1.sreg d.toNat))]) none)) ∧
         (ownRow c1 (.here k) = false → ∀ c2, buffered = some c2 →
           exec (.sts sp d a i) s = .next (completed (groupSpec sp false []) c (setCtx s1 c2) none) ∧ onlyContext c.id s1 (setCtx s1 c2)) ∧
         (ownRow c1 (.here k) = false → buffered = none →
           exec (.sts sp d a i) s = .next (takeFault s1 c1 REGION none false c.pc.toNat 0))))

/-- A buffered byte is the newest of its place, and the buffer has 32 entries (R116, R249, R252). After a store of one byte that
the buffer takes, its place reads that byte from the buffer, every other place reads as before, and the buffer holds at most
32 entries. The store is not taken exactly where the buffer has 32 entries and it needs one more: it is a release store, or no
entry has its line, or the newest that has it was last written before an atomic of the group on that line that is still
outstanding (log entry 97). -/
def Obligations.StoreBuffer : Prop :=
  ∀ (c : Ctx) (sc : BitVec 3) (rel : Bool) (asid mg : BitVec 16) (b : StoreByte), c.rsb.length ≤ 32 →
    (∀ e ∈ c.rsb, (e.bytes.map Prod.fst).Pairwise (· < ·)) →
    (∀ c2, bufferStore c sc rel asid mg [b] = some c2 →
      rsbByte c2 b.place = some b.val ∧ (∀ p, p ≠ b.place → rsbByte c2 p = rsbByte c p) ∧ c2.rsb.length ≤ 32 ∧
      c2 = { c with rsb := c2.rsb } ∧ ∀ e ∈ c2.rsb, (e.bytes.map Prod.fst).Pairwise (· < ·)) ∧
    (bufferStore c sc rel asid mg [b] = none ↔
      c.rsb.length = 32 ∧ (rel = true ∨ ∀ e, c.rsb.reverse.find? (fun e => e.line = b.place.line) = some e →
        e.stamp < c.atomicBound b.place.line))

/-- SBLD and SBST access one element through a record (R96, R116, R125, R199, R312, R316). Where the record and address checks
pass: an out-of-bounds SBLD writes 0 and an out-of-bounds SBST is dropped, and where the record has BTRAP both then take BOUNDS
with the index in TRAPADDR. Of an element in bounds: while a fence holds loads SBLD stays at its word; otherwise, once a
retirement that is due has been made, an SBLD that the vault, or the core's L1 or the home of an HBM or host line serves,
writes the element's bytes, zero-extended, with the group's own buffered bytes over them, and an element of a peer is read from
the core's L1 or from the line that the peer has answered with in the same way, and SBLD stays at its word until there is an
answer; an SBST enters the region store buffer at device scope, or takes REGION where that has no room. -/
def Obligations.ScalarBufferAccess : Prop :=
  ∀ (sp : Option Word) (d a : Reg) (b : BitVec 7) (s : State) (c : Ctx) (s1 : State) (c1 : Ctx),
    let load := groupSpec sp false [d.toNat]
    let store := groupSpec sp false []
    let zero := c1.setSreg d.toNat 0
    (Executes load s c s1 c1 →
      (scalarElement s1 c1 a b false .load false = .oob none →
        exec (.sbld sp d a b) s = .next (completed load c (setCtx s1 zero) none)) ∧
      (∀ x, scalarElement s1 c1 a b false .load false = .oob (some x) →
        exec (.sbld sp d a b) s = .next (takeFault (setCtx s1 zero) zero BOUNDS none false c.pc.toNat x)) ∧
      ∀ p va g cnt r, scalarElement s1 c1 a b false .load false = .at p va g cnt r →
        let n := 2 ^ r.log2
        let own := rsbBytes c1 p n
        let u := retireDue s1 c1 c1.loadFence
        let got (bs : List Byte) (t : State) : Prop := exec (.sbld sp d a b) s = .next (completed load c
          (modCtx t c1.id (fun x => x.setSreg d.toNat (leWord (overlayOwn bs own)))) none)
        (c1.loadsHeld = true → exec (.sbld sp d a b) s = .next s1) ∧
        (c1.loadsHeld = false →
          (∀ k bs t, p = .here k → (∃ v off, spaceOf k = .vault v off) → vaultRead u c1 k n g own = .bytes bs t → got bs t) ∧
          (∀ k bs t, p = .here k → (spaceOf k = .hbm ∨ spaceOf k = .host) →
            l1Load u c1 r.asid (r.generation u) k n own = .bytes bs t →
            got bs (countAccess t p (cnt && !l1Hit u c1 r.asid (r.generation u) p n))) ∧
          (∀ dev ad bs t, p = .peer dev ad → scalarPeerLoad u c1 dev ad n r.asid (r.generation u) cnt = .ok (bs, t) → got bs t) ∧
          (∀ dev ad t, p = .peer dev ad → scalarPeerLoad u c1 dev ad n r.asid (r.generation u) cnt = .error t →
            exec (.sbld sp d a b) s = .next t))) ∧
    (Executes store s c s1 c1 →
      (scalarElement s1 c1 a b true .none false = .oob none →
        exec (.sbst sp d a b) s = .next (completed store c s1 none)) ∧
      (∀ x, scalarElement s1 c1 a b true .none false = .oob (some x) →
        exec (.sbst sp d a b) s = .next (takeFault s1 c1 BOUNDS none false c.pc.toNat x)) ∧
      ∀ p va g cnt r, scalarElement s1 c1 a b true .none false = .at p va g cnt r →
        let buffered := bufferStore c1 4 false r.asid (r.generation s1) (elementBytes p va (if g = 0 then none else some g)
          ((wordBytes (c1.sreg d.toNat)).take (2 ^ r.log2)))
        (∀ c2, buffered = some c2 →
          exec (.sbst sp d a b) s = .next (completed store c (setCtx s1 c2) none) ∧ onlyContext c.id s1 (setCtx s1 c2)) ∧
        (buffered = none → exec (.sbst sp d a b) s = .next (takeFault s1 c1 REGION none false c.pc.toNat 0)))

/-- A load within the lease, or of dirty bytes, is served by the core's copy and changes nothing (R88, R312). A global
load whose line the core holds sound with a lease that has not ended, or whose bytes are all dirty there, returns the copy's
bytes and changes no state. A load that the copy does not serve and that returns bytes found no write waiting at the home and
none of its core on the way, but those of engine operations; the home's horizon is then at least the core's device time plus 2^LEASE, memory is as it
was, and where the L1 portion has room for one line more it holds the line with that end of its lease. -/
def Obligations.LoadsHitTheCopy : Prop :=
  ∀ (s : State) (c : Ctx) (asid mg : BitVec 16) (k n : Nat) (own : List (Option Byte)) (x : Line),
    (findLine (getCore s c.core) asid mg (.here (lineOf k)) = some x → x.bad = 0 →
      (dieTime s c.die < x.leaseEnd ∨ ∀ i, i < n → x.dirty.getLsbD (k % 128 + i) = true) →
      l1Load s c asid mg k n own = .bytes ((List.range n).map (fun i => sget 0 x.bytes (k % 128 + i))) s) ∧
    ∀ bs t, l1Hit s c asid mg (.here k) n = false → l1Load s c asid mg k n own = .bytes bs t → c.core < s.cores.length →
      sparseWf 0 s.horizons = true →
      homeBusy s (.here (lineOf k)) = false ∧
      (∀ w ∈ s.homeQ, w.line = .here (lineOf k) → w.arrived = false ∧ (w.core = some c.core → w.op ≠ none)) ∧
      ((getCore s c.core).lines.length < 2 * l1Rows (getCore s c.core) →
        ∃ y, findLine (getCore t c.core) asid mg (.here (lineOf k)) = some y ∧ y.leaseEnd = dieTime s c.die + 2 ^ leaseOf s c) ∧
      dieTime s c.die + 2 ^ leaseOf s c ≤ sget 0 t.horizons (lineOf k) ∧ t.mem = s.mem

/-- SATOM reads and writes one word and returns the old value (R67, R200, R257, R322). Where its literal is legal, the
release steps of its scope, if its order has a release and it has not been sent to its home, are made first, and until they are
done, or while a fence holds loads, SATOM stays at its word. Then an element out of bounds gives s[d] = 0, and BOUNDS with the index in TRAPADDR where
the record has BTRAP. Where the home (HBM controller, host memory or vault) answers with the old word, SATOM writes f(OP,
old, operand) through it and s[d] takes the old word, and an acquire at system scope retires the core's clean lines; while
the home must wait SATOM stays at its word. A vault answers once nothing waits at its bank and the word is sound, takes the
new word under the run's generation, and its time enters WCT unless the write is late. An HBM controller answers where nothing
waits there, no write of the core is on its way, the core has no dirty byte of the word, the line's horizon is passed and the word
is sound. Whenever it or host memory answers, the old value is the word there, the new one replaces it, whatever it is, no other
byte of memory changes, and the time of the answer enters WCT. ADD, MIN, MAX, MINU, MAXU, AND, OR, XOR, XCHG and CAS give the new
value of R200 from the old one, the operand and the comparand, and FADD the FADD.f32 sum, to nearest even, under the NBV. -/
def Obligations.ScalarAtomic : Prop :=
  (∀ (sp : Option Word) (d a : Reg) (b : BitVec 7) (lit : Word) (s : State) (c : Ctx) (s1 : State) (c1 : Ctx),
     let spec : CtrlSpec := { groupSpec sp true [d.toNat] with must := true }
     let rel := (bits lit 9 8 = 2 ∨ bits lit 9 8 = 3) ∧ scalarSent s1 c1 = false
     let u := if rel then released s1 c1 (bits lit 6 4) else s1
     let zero := c1.setSreg d.toNat 0
     Executes spec s c s1 c1 → satomIllegal lit = false →
     (rel ∧ ¬ ReleaseDone s1 c1 (bits lit 6 4) ∨ c1.loadsHeld = true → exec (.satom sp d a b lit) s = .next u) ∧
     (¬ rel ∨ ReleaseDone s1 c1 (bits lit 6 4) → c1.loadsHeld = false →
       (scalarElement u c1 a b true .home true = .oob none →
         exec (.satom sp d a b lit) s = .next (completed spec c (setCtx u zero) none)) ∧
       (∀ x, scalarElement u c1 a b true .home true = .oob (some x) →
         exec (.satom sp d a b lit) s = .next (takeFault (setCtx u zero) zero BOUNDS none false c.pc.toNat x)) ∧
       ∀ k va g cnt r, scalarElement u c1 a b true .home true = .at (.here k) va g cnt r →
         let home := atHome u c1 (.scalar c1.id c1.pc) r.asid (r.generation u) g k
         (∀ old put, home = .old old put →
           let t := modCtx (put (atomOp (bits lit 3 0) (c1.nbv = 1) old (c1.sreg (bits lit 23 16)) (c1.sreg (bits lit 31 24)))) c1.id
             (fun x => x.setSreg d.toNat old)
           exec (.satom sp d a b lit) s = .next (completed spec c
             (if bits lit 9 8 % 2 = 1 ∧ bits lit 6 4 = 5 then retireClean t c1.core else t) none)) ∧
         (∀ t, home = .later t → exec (.satom sp d a b lit) s = .next t) ∧
         ∀ v off, spaceOf k = .vault v off → homeHeld u c1 (.here (k / 128)) = false → poisoned u k 4 g [] = false →
           home = .old (leWord (readAs u k 4 g)) (fun w =>
             if lateAt u (k / 128) (some g) then vaultWrite u v off g (wordBytes w)
             else raiseWct (vaultWrite u v off g (wordBytes w)) (some c1.id) (dieTime u (clusterDie v)))) ∧
       ∀ k va g cnt r y, scalarElement u c1 a b true .home true = .at (.here k) va g cnt r → spaceOf k = .hbm ∨ spaceOf k = .host →
         getCtx u c1.id = some y → Memory.wf u.mem = true →
         let home := atHome u c1 (.scalar c1.id c1.pc) r.asid (r.generation u) g k
         (∀ old put, home = .old old put → old = readWord u k ∧ ∀ w,
           (getCtx (put w) c1.id).map Ctx.wct = some (max y.wct (lineTime u (.here (k / 128)))) ∧ readWord (put w) k = w ∧
           ∀ x, x < k ∨ k + 4 ≤ x → memRead (put w).mem x = memRead u.mem x) ∧
         (spaceOf k = .hbm → ownDirty u c1 r.asid (r.generation u) (.here k) 4 = none → homeHeld u c1 (.here (k / 128)) = false →
           (∀ w ∈ u.homeQ, w.hold ≠ some (.scalar c1.id c1.pc)) → dueTime u (.here (k / 128)) ≤ lineTime u (.here (k / 128)) →
           poisonAt u k = false → ∃ put, home = .old (readWord u k) put)) ∧
  (∀ (v1 : Bool) (o x cmp : Word),
     atomOp 0 v1 o x cmp = BitVec.ofNat 32 (o.toNat + x.toNat) ∧
     (atomOp 1 v1 o x cmp).toInt = min o.toInt x.toInt ∧ (atomOp 2 v1 o x cmp).toInt = max o.toInt x.toInt ∧
     (atomOp 3 v1 o x cmp).toNat = min o.toNat x.toNat ∧ (atomOp 4 v1 o x cmp).toNat = max o.toNat x.toNat ∧
     atomOp 5 v1 o x cmp = o &&& x ∧ atomOp 6 v1 o x cmp = o ||| x ∧ atomOp 7 v1 o x cmp = o ^^^ x ∧
     atomOp 8 v1 o x cmp = x ∧ atomOp 9 v1 o x cmp = (if o = cmp then x else o) ∧ atomOp 10 v1 o x cmp = f32Add 0 v1 o x)

/-- GROW changes V or waits, and a grant completes it (R84, R202, R365). While the lane stream has anything outstanding GROW
stays at its word. With it idle GROW of 0 changes nothing; a V outside 1 to 240 is GROWMAX; a V for which the rows can be
had now is taken; otherwise the group waits in GROW with its issue slot counted, and the core notes whether it found every resident
group in that wait. The grant of a waiting GROW does nothing
while an older one of the core could be granted; otherwise, where the rows can be had, it gives the group its V, resumes
it past the word, and the note is gone. Shrinking can always be had: it changes no byte and no tag of memory, and in its context only V and the
registers that the live-mask word describes. -/
def Obligations.RegisterGrowth : Prop :=
  (∀ (sp : Option Word) (m : BitVec 16) (s : State) (c : Ctx) (s1 : State) (c1 : Ctx),
      let spec : CtrlSpec := { groupSpec sp false [] with must := true, single := true }
      let v : Int := c1.vregs + m.toInt
      Executes spec s c s1 c1 →
      (c1.laneIdle = false → exec (.grow sp m) s = .next s1) ∧
      (c1.laneIdle = true →
        (v < 1 ∨ 240 < v → exec (.grow sp m) s = .next (takeFault s1 c1 GROWMAX none false c.pc.toNat 0)) ∧
        (1 ≤ v → v ≤ 240 → m = 0 → exec (.grow sp m) s = .next (completed spec c s1 none)) ∧
        (1 ≤ v → v ≤ 240 → m ≠ 0 →
          (∀ s2, growTo s1 c1 v.toNat = some s2 → exec (.grow sp m) s = .next (completed spec c s2 none)) ∧
          (growTo s1 c1 v.toNat = none → let c2 : Ctx := { c1 with mode := .grow (.grow sp m) (wordsOf false sp) }
            exec (.grow sp m) s = .next (setCtx (growBegins (setCtx s1 c2) c1.core) (c2.countIssue spec)))))) ∧
    (∀ (s : State) (c : Ctx) (n : Nat), n ≤ c.vregs → getCtx s c.id = some c →
      ∃ t, growTo s c n = some t ∧ t.mem = s.mem ∧ t.tags = s.tags ∧ getCtx t c.id = some { c with vregs := n, liveRegs := n }) ∧
    ∀ (s : State) (x : Ctx) (sp : Option Word) (n len : Nat), getCtx s x.id = some x →
      x.growWaits = some (sp, n, len) → powered s = true →
      (olderGrow s x = true → exec (.growGrant x.id) s = .next s) ∧
      ∀ t, olderGrow s x = false → growTo s x n = some t → exec (.growGrant x.id) s =
        .next (resumePast (setCore t x.core { getCore t x.core with growCheck := false }) x.id len sp)

/-- WAITA takes its condition or suspends, and its wake tests again (R151, R152, R153, R160, R221). The ring form with a nonzero
b is ILLEGAL: R221 has it 0 and not read, and the fault is the model's reading (log entry 24). Where the object's condition holds WAITA writes the value to s[d]; where it does not, the object's WAITERS counts
the group, and the group suspends with its issue slot counted; a fault of its checks is taken. A suspended group's wake leaves
it suspended while the condition does not hold; when it holds WAITERS counts one less, s[d] takes the value, and the group goes
on past the word; when a check fails WAITERS counts one less and the fault is taken, which the rule says of OBJGONE alone (log
entry 25). Of an object that the context may touch,
aligned, under its allocation's generation and sound: WAITA on an arrival object returns PHASE, its second word, exactly when it
differs from s[b], and takes nothing from the object; on a ring object whose SLOTS and SIZE are valid it returns TAIL where the
count of filled slots is above 0 and no group suspended on the ring before it, and then that count is one less, TAIL one
higher modulo SLOTS (within its 12 bits), and else it waits. That SLOTS above 4,096 is valid is the model's choice (log entry
107). -/
def Obligations.WaitOnArrival : Prop :=
  ((∀ (sp : Option Word) (d a b : Reg) (s : State) (c : Ctx) (s1 : State) (c1 : Ctx), Executes (groupSpec sp false [d.toNat]) s c s1 c1 →
       (waitaRing c a = true ∧ b ≠ 0 → exec (.waita sp d a b) s = .next (takeFault s c ILLEGAL none false c.pc.toNat 0)) ∧
       (¬ (waitaRing c a = true ∧ b ≠ 0) →
         (∀ v t, waitaTest s1 c1 a b s1.nextId = .yes v t → exec (.waita sp d a b) s =
           .next (completed (groupSpec sp false [d.toNat]) c (modCtx t c1.id (fun x => x.setSreg d.toNat v)) none)) ∧
         (waitaTest s1 c1 a b s1.nextId = .no → ∃ t, exec (.waita sp d a b) s = .next t ∧
           t.mem = (modWaiters s1 (coreKey c1.core (waitaAddr c1 a)) (waitaRing c1 a) (· + 1)).mem ∧
           getCtx t c.id = some (({ c1 with mode := .waita (.waita sp d a b) (wordsOf false sp) s1.nextId } : Ctx).countIssue
             (groupSpec sp false [d.toNat]))) ∧
         (∀ code, waitaTest s1 c1 a b s1.nextId = .fault code →
           exec (.waita sp d a b) s = .next (takeFault s1 c1 code none false c.pc.toNat 0)))) ∧
     ∀ (s : State) (x : Ctx) (sp : Option Word) (d a b : Reg) (len order : Nat), getCtx s x.id = some x →
       x.mode = .waita (.waita sp d a b) len order → powered s = true →
       let left (t : State) : State := modWaiters t (coreKey x.core (waitaAddr x a)) (waitaRing x a) (· - 1)
       (waitaTest s x a b order = .no → exec (.waitaWake x.id) s = .next s) ∧
       (∀ v t, waitaTest s x a b order = .yes v t →
         exec (.waitaWake x.id) s = .next (resumePast (modCtx (left t) x.id (fun y => y.setSreg d.toNat v)) x.id len sp)) ∧
       ∀ code, waitaTest s x a b order = .fault code →
         exec (.waitaWake x.id) s = .next (takeFault (left s) { x with mode := .run } code none false x.pc.toNat 0)) ∧
  (∀ (s : State) (c : Ctx) (a b : Reg) (order : Nat) (al : Alloc),
     let k := coreKey c.core (waitaAddr c a)
     tagAt s k = al.gen → poisonAt s k = false →
     (waitaRing c a = false → allocOf c (effPols s c) (waitaAddr c a) 16 = some al → waitaAddr c a % 16 = 0 →
       let phase := readWord s (k + 4)
       (phase ≠ c.sreg b.toNat → waitaTest s c a b order = .yes phase s) ∧
       (phase = c.sreg b.toNat → waitaTest s c a b order = .no)) ∧
     (waitaRing c a = true → allocOf c (effPols s c) (waitaAddr c a) 32 = some al → waitaAddr c a % 32 = 0 → s.canonical →
       let slots := bits (readWord s k) 15 0
       let size := readWord s (k + 4)
       let filled := readWord s (k + 12)
       let tail := bits (readWord s (k + 20)) 11 0
       slots ≠ 0 → size ≠ 0 → size.toNat % 64 = 0 →
       (0 < filled.toInt → ringAhead s c (waitaAddr c a) order = false → ∃ t, waitaTest s c a b order = .yes (BitVec.ofNat 32 tail) t ∧
         readWord t (k + 12) = filled - 1 ∧ bits (readWord t (k + 20)) 11 0 = (tail + 1) % slots % 4096) ∧
       (filled.toInt ≤ 0 ∨ ringAhead s c (waitaAddr c a) order = true → waitaTest s c a b order = .no)))

/-- TRYW returns 1 on its condition, 0 on its timeout or out of bounds, and waits otherwise (R222, R322). An element out of
bounds gives s[d] = 0, and BOUNDS where the record has BTRAP. With the word read at its home, a vault's bank or the HBM
controller or host memory: the condition gives s[d] = 1 and retires the core's clean lines, a hint of 0 gives 0, and
otherwise the group suspends with the time at which it began and its issue slot counted. A suspended TRYW's wake returns 1
once the condition holds and otherwise leaves it suspended since the same time; its timeout does nothing before the hint has
passed and then, where the condition does not hold, returns 0. -/
def Obligations.TryWait : Prop :=
  let reads (s : State) (c : Ctx) (k : Nat) (g : BitVec 12) (cnt : Bool) (r : Rec) (bs : List Byte) (t : State) : Prop :=
    (∃ v off, spaceOf k = .vault v off) ∧ vaultRead s c k 4 g [] = .bytes bs t ∨
      (spaceOf k = .hbm ∨ spaceOf k = .host) ∧ ∃ t1, homeRead s c r.asid (r.generation s) k 4 = .bytes bs t1 ∧
        t = countAccess t1 (.here k) cnt
  (∀ (sp : Option Word) (d a : Reg) (b : BitVec 7) (lit : Word) (s : State) (c : Ctx) (s1 : State) (c1 : Ctx),
      let spec : CtrlSpec := groupSpec sp true [d.toNat]
      let zero := c1.setSreg d.toNat 0
      Executes spec s c s1 c1 → trywIllegal lit = false →
      (scalarElement s1 c1 a b false .home true = .oob none →
        exec (.tryw sp d a b lit) s = .next (completed spec c (setCtx s1 zero) none)) ∧
      (∀ x, scalarElement s1 c1 a b false .home true = .oob (some x) →
        exec (.tryw sp d a b lit) s = .next (takeFault (setCtx s1 zero) zero BOUNDS none false c.pc.toNat x)) ∧
      ∀ k va g cnt r bs s2, scalarElement s1 c1 a b false .home true = .at (.here k) va g cnt r → c1.loadsHeld = false →
        reads s1 c1 k g cnt r bs s2 →
        (trywCond (bits lit 3 0) (leWord bs) (c1.sreg d.toNat) = true → exec (.tryw sp d a b lit) s =
          .next (completed spec c (retireClean (modCtx s2 c1.id (fun x => x.setSreg d.toNat 1)) c1.core) none)) ∧
        (trywCond (bits lit 3 0) (leWord bs) (c1.sreg d.toNat) = false →
          (bits lit 27 4 = 0 → exec (.tryw sp d a b lit) s =
            .next (completed spec c (modCtx s2 c1.id (fun x => x.setSreg d.toNat 0)) none)) ∧
          (0 < bits lit 27 4 → exec (.tryw sp d a b lit) s = .next (modCtx s2 c1.id (fun x => ({ x with
            mode := .tryw (.tryw sp d a b lit) (wordsOf true sp) (dieTime s1 c1.die) } : Ctx).countIssue spec))))) ∧
    ∀ (s : State) (x : Ctx) (sp : Option Word) (d a : Reg) (b : BitVec 7) (lit : Word) (len t0 : Nat), getCtx s x.id = some x →
      x.mode = .tryw (.tryw sp d a b lit) len t0 → powered s = true →
      let y : Ctx := { x with mode := .run }
      let past : State → State := fun t => modCtx t x.id (fun z => z.advance
        { groupSpec sp true [d.toNat] with len := len, counted := true } (x.pc + BitVec.ofNat 24 len) t.nextId)
      (dieTime s x.die < t0 + bits lit 27 4 → exec (.trywTimeout x.id) s = .next s) ∧
      ∀ k va g cnt r bs s2, scalarElement (setCtx s y) y a b false .home true = .at (.here k) va g cnt r →
        y.loadsHeld = false → reads (setCtx s y) y k g cnt r bs s2 →
        (trywCond (bits lit 3 0) (leWord bs) (y.sreg d.toNat) = true → exec (.trywWake x.id) s =
          .next (past (retireClean (modCtx s2 x.id (fun z => z.setSreg d.toNat 1)) x.core))) ∧
        (trywCond (bits lit 3 0) (leWord bs) (y.sreg d.toNat) = false →
          (t0 + bits lit 27 4 ≤ dieTime s x.die → exec (.trywTimeout x.id) s =
            .next (past (modCtx s2 x.id (fun z => z.setSreg d.toNat 0)))) ∧
          (dieTime s x.die < t0 + bits lit 27 4 → exec (.trywWake x.id) s =
            .next (modCtx s2 x.id (fun z => { z with mode := .tryw (.tryw sp d a b lit) (wordsOf true sp) t0 }))))

/-- SPAWN checks its frame, counts its join record up, releases and pushes (R110, R111, R113, R129, R224). A frame
that fails the checks of R224 is FRAME; DEPTH 32, or a full spill ring, is TASKOVF. Otherwise, with no join record or with its
count already made (phase 1), SPAWN stays at its word until its release steps are done and there is room; then it completes:
the frame, with the spawner's DEPTH, is pushed and the grid has one task more. With a join record in this device or the host
whose home answers, a count of 2^31 - 1 is TASKOVF, and any other count goes up by one and its count is made. A push onto a
deque of fewer than 256 frames puts the frame at its bottom and changes nothing else. -/
def Obligations.SpawnRunsATask : Prop :=
  (∀ (sp : Option Word) (d : Reg) (s : State) (c : Ctx) (s1 : State) (c1 : Ctx),
     let spec : CtrlSpec := { plainSpec sp [1] with must := true, single := true }
     let f0 := c1.sregRun d.toNat 16
     let f := setFrameDepth (frameWord f0 0) c1.depth :: f0.tail
     let asid := (getLaunch s1 c1.launch).elim 0 Launch.asid
     let bad := frameBad (groupWords s1 c1.launch) f0 (frameEntry f0) true
     Executes spec s c s1 c1 →
     (c1.phase ≠ 1 → bad = true → exec (.spawn sp d) s = .next (takeFault s1 c1 FRAME none false c.pc.toNat 0)) ∧
     (c1.phase ≠ 1 → bad = false → c1.depth = 32 ∨ ringFull (getCore s1 c1.core) = true →
       exec (.spawn sp d) s = .next (takeFault s1 c1 TASKOVF none false c.pc.toNat 0)) ∧
     (c1.phase = 1 ∨ (bad = false ∧ c1.depth ≠ 32 ∧ ringFull (getCore s1 c1.core) = false ∧ frameJoin f = 0) →
       let u := released s1 c1 4
       (¬ ReleaseDone s1 c1 4 ∨ pushFrame u c1.launch c1.core f = none → exec (.spawn sp d) s = .next u) ∧
       ∀ t, ReleaseDone s1 c1 4 → pushFrame u c1.launch c1.core f = some t →
         exec (.spawn sp d) s = .next (completed spec c (addTask t c1.launch (· + 1)) none)) ∧
     ∀ k pin w put, c1.phase ≠ 1 → bad = false → c1.depth ≠ 32 → ringFull (getCore s1 c1.core) = false → frameJoin f ≠ 0 →
       s1.changing.contains asid = false → joinPlace s1 c1 (frameJoin f) = .ok (.here k) true pin →
       atHome s1 c1 (.scalar c1.id c1.pc) asid (astGen s1 asid) 0 k = .old w put →
       (w = 0x7FFFFFFF → exec (.spawn sp d) s = .next (takeFault s1 c1 TASKOVF none false c.pc.toNat 0)) ∧
       (w ≠ 0x7FFFFFFF → exec (.spawn sp d) s = .next (modCtx (put (w + 1)) c1.id (fun x => { x with phase := 1 })))) ∧
  (∀ (s : State) (launch k : Nat) (f : List Word), k < s.cores.length → (getCore s k).deque.length < 256 →
     ∃ t, pushFrame s launch k f = some t ∧ (getCore t k).deque = (getCore s k).deque ++ [f] ∧ t = { s with cores := t.cores } ∧
       (∀ j, j ≠ k → getCore t j = getCore s j) ∧ getCore t k = { getCore s k with deque := (getCore t k).deque })

/-- JOINC writes its continuation, releases, decrements its record, and completes with the push of what fired (R129, R154,
R225). In order: with a frame that fails the checks of R224, an entry outside the section, or an address that is 0 or not
128-byte aligned, JOINC is FRAME. Otherwise, with a writable record in this device or the host, the armed state and the
continuation, with its entry, the depth one below the task's and the task's own join link, are sent to the record's home, and
the task's link becomes 0. Then JOINC stays at its word until its release steps, which come before the decrement is sent, are done
and the record has been decremented, and takes UE where the record is uncorrectable. Then, with nothing fired, or once there is room and the continuation that
fired is pushed, JOINC completes. At a record's home, a decrement to a positive value only stores it; a decrement to zero of
an armed record makes it fired, its state word with 2 in the low bits in the same sequence, counts a task and answers the stored
continuation, marked; a decrement to zero of an empty record makes it fired; a decrement below zero or of a fired record writes an error record of kind 8 and answers nothing. -/
def Obligations.JoinContinuation : Prop :=
  (∀ (sp : Option Word) (d a b : Reg) (lit : Word) (s : State) (c : Ctx) (s1 : State) (c1 : Ctx),
     let spec : CtrlSpec := { len := wordsOf true sp, sp := sp, must := true, levels := [1], single := true }
     let f0 := c1.sregRun d.toNat 16
     let addr := joincAddr c1 a b
     let asid := (getLaunch s1 c1.launch).elim 0 Launch.asid
     let bad := frameBad (groupWords s1 c1.launch) f0 (bits lit 23 0) false = true ∨ addr = 0 ∨ addr % 128 ≠ 0
     let i : Instr := .joinc sp d a b lit
     Executes spec s c s1 c1 → bits lit 31 24 = 0 →
     (c1.phase = 0 → bad → exec i s = .next (takeFault s1 c1 FRAME none false c.pc.toNat 0)) ∧
     (c1.phase = 0 → ¬ bad → s1.changing.contains asid = false → ∀ k pin, joinPlace s1 c1 addr = .ok (.here k) true pin →
       let w0 := setFrameDepth ((f0.getD 0 0 &&& 0xFF000000) ||| BitVec.ofNat 32 (bits lit 23 0)) (c1.depth - 1)
       let w2 := (f0.getD 2 0 &&& 0xFFF00000) ||| BitVec.ofNat 32 (c1.join / 2 ^ 32)
       let frame := (w0 :: BitVec.ofNat 32 c1.join :: w2 :: f0.drop 3).flatMap wordBytes
       let st : Byte := ((readWord s1 (k + 4)).setWidth 8 &&& 0xFC) ||| 1
       exec i s = .next (modCtx (homePush s1 (.here (k / 128)) ((4, st) :: (List.range 64).map (fun j => (64 + j, frame.getD j 0)))
         (some c1.id) (some c1.core) false none 0 none (some asid)) c1.id (fun x => { x with phase := 1, join := 0 }))) ∧
     (c1.phase = 1 → c1.owing = none → s1.changing.contains asid = false →
       let sent := scalarSent s1 c1 = true
       let u := if sent then s1 else released s1 c1 4
       (¬ sent → ¬ ReleaseDone s1 c1 4 → exec i s = .next u) ∧
       (sent ∨ ReleaseDone s1 c1 4 →
         (∀ t, joinDecrement u c1 addr = .error (.wait t) → exec i s = .next t) ∧
         (∀ k, joinDecrement u c1 addr = .error (.ue k) → exec i s = .next (scalarUe u c1 c.pc.toNat k)) ∧
         ∀ t push, joinDecrement u c1 addr = .ok (t, push) →
           exec i s = .next (modCtx t c1.id (fun x => { x with phase := 2, pushing := push })))) ∧
     (c1.phase = 2 →
       (c1.pushing = none → exec i s = .next (completed spec c s1 none)) ∧
       ∀ f, c1.pushing = some f →
         (pushFrame s1 c1.launch c1.core f = none → exec i s = .next s1) ∧
         ∀ t, pushFrame s1 c1.launch c1.core f = some t →
           exec i s = .next (completed spec c (modCtx t c1.id (fun x => { x with pushing := none })) none))) ∧
  (∀ (s : State) (c : Ctx) (addr k : Nat) (wr pin : Bool) (w : Word) (put : Word → State),
     let asid := (getLaunch s c.launch).elim 0 Launch.asid
     let p := put (w - 1)
     let st := readWord p (k + 4)
     let fired := fireAt p c asid (astGen p asid) (k + 4) st
     fired.mem = (writeWord p (k + 4) ((st &&& 0xFFFFFFFC) ||| 2)).mem ∧ fired = { p with mem := fired.mem, cores := fired.cores } ∧ (
     joinPlace s c addr = .ok (.here k) wr pin → atHome s c (.scalar c.id c.pc) asid (astGen s asid) 0 k = .old w put →
     (1 < w.toInt → bits st 1 0 < 2 → joinDecrement s c addr = .ok (put (w - 1), none)) ∧
     (w = 1 → bits st 1 0 = 0 → joinDecrement s c addr = .ok (fired, none)) ∧
     (w = 1 → bits st 1 0 = 1 → ∃ f, joinDecrement s c addr = .ok (addTask fired c.launch (· + 1), some f) ∧
       f.length = 16 ∧ f.getD 0 0 = readWord (put (w - 1)) (k + 64) ||| 0x20000000 ∧
       ∀ i, i < 16 → i ≠ 0 → f.getD i 0 = readWord (put (w - 1)) (k + 64 + 4 * i)) ∧
     (w.toInt ≤ 0 ∧ w ≠ 0x80000000 ∨ 2 ≤ bits st 1 0 →
       joinDecrement s c addr = .ok (ctxError p c 8 0 none addr (trapPcOf false c.pc.toNat) 0, none))))

/-- The owner pops its newest frame, a thief takes the oldest, and a frame starts as a task (R50, R110, R112, R114,
R115, R128, R360, R361). A pop takes the bottom frame of a deque that holds one, once its footprint fits. A steal takes from the
first victim that has a frame, of the ring's oldest frame before the top of the deque, and a pass that finds none is repeated
after 256 clk of the cluster's clock. A popped or stolen frame starts once it fits: one context more, a task at its entry with
its lanes, registers, join link and s0 to s11 from the frame, at one depth more, active where its partition has fewer than four
groups; memory is as it was. That 256 clk are counted as time of the cluster's clock, and that a popped frame is held out of the
deque until it fits, are the model's choices (log entries 11, 103 and 47). -/
def Obligations.DequesAndSteals : Prop :=
  (∀ (k : Nat) (s : State) (l : Launch) (r : List (List Word)) (f : List Word), (getCore s k).grid.bind (getLaunch s) = some l →
      (getCore s k).popped = none → freeSlot s k = true → powered s = true → (getCore s k).deque = r ++ [f] →
      (startTask s k l.id f).isSome = true →
      exec (.ownerPop k) s = .next (setCore s k { getCore s k with deque := r, popped := some f })) ∧
    (∀ (k : Nat) (s : State) (l : Launch) (pre post : List Nat) (v : Nat) (f : List Word) (s1 : State),
      (getCore s k).grid.bind (getLaunch s) = some l → coreIdle s k = true → powered s = true → victims k = pre ++ v :: post →
      (∀ x ∈ pre, stealFrom s l k x = .none) → stealFrom s l k v = .frame f s1 →
      let t := setCore s1 k { getCore s1 k with latch := some (f, v), retryAt := none }
      ((getCore s k).retryAt = none → exec (.steal k) s = .next t) ∧
      (∀ x, (getCore s k).retryAt = some x → x ≤ clusterTime s (k / 4) → exec (.stealRetry k) s = .next t)) ∧
    (∀ (k : Nat) (s : State) (l : Launch), (getCore s k).grid.bind (getLaunch s) = some l → coreIdle s k = true → powered s = true →
      (∀ x ∈ victims k, stealFrom s l k x = .none) →
      let t := setCore s k { getCore s k with retryAt := some (clusterTime s (k / 4) + clkNs 256) }
      ((getCore s k).retryAt = none → exec (.steal k) s = .next t) ∧
      (∀ x, (getCore s k).retryAt = some x → x ≤ clusterTime s (k / 4) → exec (.stealRetry k) s = .next t)) ∧
    (∀ (s : State) (l : Launch) (k v : Nat), (getCore s v).grid = some l.id →
      (∀ a, (getCore s v).ringCount ≠ 0 → ringKeys s l v (getCore s v).ringPos.toNat 1 = some [a] → readHeld s (some k) (.here (a / 128)) = false →
        stealFrom s l k v = .frame (readWords s a 16) (setCore s v { getCore s v with
          ringPos := (getCore s v).ringPos + 1, ringCount := (getCore s v).ringCount - 1 })) ∧
      (∀ f r, (getCore s v).ringCount = 0 → (getCore s v).deque = f :: r →
        stealFrom s l k v = .frame f (setCore s v { getCore s v with deque := r })) ∧
      ((getCore s v).ringCount = 0 → (getCore s v).deque = [] → stealFrom s l k v = .none)) ∧
    ∀ (k : Nat) (s : State) (l : Nat) (f : List Word) (t : State), powered s = true → (getCore s k).grid = some l → f.length = 16 →
      ((getCore s k).popped = some f ∧ startTask (setCore s k { getCore s k with popped := none }) k l f = some t ∨
       ((getCore s k).popped = none ∧ (∃ v, (getCore s k).latch = some (f, v)) ∧
        startTask (setCore s k { getCore s k with latch := none }) k l f = some t)) →
      exec (.taskStart k) s = .next t ∧ t.mem = s.mem ∧ ∃ x, t.ctxs = s.ctxs ++ [x] ∧ x.task = true ∧ x.level = 1 ∧ x.core = k ∧
        x.launch = l ∧ x.pc = BitVec.ofNat 24 (frameEntry f) ∧ x.lanes = frameLanes f ∧ x.vregs = frameVregs f ∧
        x.scrRows = frameScr f ∧ x.tiles = frameTiles f ∧ x.join = frameJoin f ∧ x.depth = frameDepth f + 1 ∧
        (x.active = true ↔ (partitionOf s.ctxs k x.slot).length < 4) ∧ ∀ i, i < 12 → x.sreg i = f.getD (4 + i) 0

/-- TCOPY, GCOPY, WBLOAD and RCOPY form their operation or fault, and enter their class (R94, R107, R117, R143, R227, R228,
R230, R127, R144, R299). For each of the four engine instructions: a fault of its descriptor, record or box checks is taken.
An instruction whose operation forms stays at its word with the class counter at 63, with 256 operations of the class queued
on the core, or while an address space of its records is being changed; otherwise it completes: the operation enters its
class's queue and its context's counter of the class, a WBLOAD's slots become invalid and each queued MMA that names one of
them counts one WBLOAD more, and the leading complete operations of the class retire. The operation formed is of its kind's
class, bears the context, the next identity and the generations and NBV of issue, has a descriptor that passes R127's
checks, and is complete from the start exactly where an extent is 0; a retirement of a class removes exactly its leading
complete operations, in issue order, from the context's counter, and no other operation. -/
def Obligations.EngineIssue : Prop :=
  (∀ (k : EngKind) (sp : Option Word) (d a b : Reg) (s : State) (c : Ctx) (s1 : State) (c1 : Ctx),
     let spec : CtrlSpec := { groupSpec sp false [] with must := true, single := true }
     Executes spec s c s1 c1 →
     (∀ code addr, formOp s1 c1 k d a b = .error (code, addr) →
       exec (engineInstr k sp d a b) s = .next (takeFault s1 c1 code none false c.pc.toNat addr)) ∧
     ∀ o, formOp s1 c1 k d a b = .ok o →
       let stalls := 63 ≤ c1.engineCount k.cls ∨ (∃ x ∈ opSpaces o, x ∈ s1.changing) ∨
         256 ≤ (s1.ops.filter (fun x => x.core = c1.core && x.cls = k.cls && x.stage = .queued)).length
       (stalls → exec (engineInstr k sp d a b) s = .next s1) ∧
       (¬ stalls →
         let slots := (List.range ((parseDesc o.desc).count * (parseDesc o.desc).size / 1024)).map (o.wslot + ·)
         let core := getCore s1 c1.core
         let freed : State := if k = .wbload then setCore s1 c1.core { core with
             valid := core.valid.filter (fun w => !slots.contains w)
             matq := core.matq.map (fun x =>
               if x.opcode = 0x60 && slots.any (fun w => x.slot ≤ w && w < x.slot + x.slots) then { x with loads := x.loads + 1 } else x) }
           else s1
         let entered : State := { setCtx freed { c1 with engines := c1.engines ++ [(k.cls, o.id)] } with
           ops := s1.ops ++ [o], nextId := s1.nextId + 1 }
         exec (engineInstr k sp d a b) s = .next (completed spec c (retireOps entered c1.id k.cls 63) none))) ∧
  ((∀ (s : State) (c : Ctx) (k : EngKind) (d a b : Reg) (o : EngOp), formOp s c k d a b = .ok o →
       o.id = s.nextId ∧ o.ctx = c.id ∧ o.core = c.core ∧ o.cls = k.cls ∧ o.nbv = c.nbv ∧ o.gens = ctxGens s c ∧
       o.opcode = k.opcode ∧ descBad k o.desc = false ∧ (o.stage = .complete ↔ (parseDesc o.desc).count = 0)) ∧
     ∀ (s : State) (c : Ctx) (cls : Nat), getCtx s c.id = some c → c.engineCount (BitVec.ofNat 2 cls) ≤ 63 →
       let ids := (c.engines.filter (fun e => e.1 = BitVec.ofNat 2 cls)).map Prod.snd
       let done := ids.takeWhile (fun o => (getOp s o).elim true (fun x => x.stage = .complete))
       ∃ t, exec (.engineRetire c.id cls) s = .next t ∧ t.mem = s.mem ∧ t = { s with ctxs := t.ctxs, ops := t.ops } ∧
         getCtx t c.id = some { c with engines := c.engines.filter (fun e => !done.contains e.2) } ∧
         ∀ o, o ∉ done → getOp t o = getOp s o)

/-- An operation starts in queue order, takes its ring slot, lands and resumes (R117, R151, R153, R228, R229, R230, R231, R246,
R312). The head of a class queue starts; a ring copy reads its ring object, takes its fault, or waits for a slot, and with
FREE above 0 takes the slot at HEAD: FREE is one less and HEAD one more modulo SLOTS. An operation that stopped at an absent
page resumes once its batch is served. A landing of n bytes on an arrival object that it may write: where n is at least REMAIN,
REMAIN becomes 0, PHASE one more, and OVF is set where n exceeds REMAIN; otherwise REMAIN is n less, PHASE and OVF stay. Of a
piece of the current unit of a started operation: while an earlier acquiring access of its group is outstanding it does not
land. Where the unit has absent pages the operation stops with one batch of records of them, which waits in the line for room. Where all are present and the
sources can be read, it lands: into the core store, the vault or a weight slot at once, with its arrival update where the block
is whole and the write was not late; into global memory as a write at its home; and each host line that it read is counted. An
RCOPY element is updated at its home, with its arrival update under the same conditions; on a peer its update is sent, and the
element is done once the peer has answered. That the ring object is checked at the start, that a landing waits for acquiring
accesses of the group that were issued before, that a late landing gives no arrival update, and that the pieces of a unit land in
any order are the model's reading (log entries 81 and 82), SLOTS above 4,096 its choice (log entry 107). -/
def Obligations.EngineProgress : Prop :=
  ((∀ (k cls : Nat) (s : State) (o : EngOp), headOp s k (BitVec.ofNat 2 cls) = some o → powered s = true →
       (o.isRing = false → exec (.engineOpStart k cls) s = .next (setOp s { o with stage := .started })) ∧
       (o.isRing = true → ringFault s o = none → exec (.engineOpStart k cls) s = .next (setOp s { o with stage := .ringWait })) ∧
       (∀ code, o.isRing = true → ringFault s o = some code → exec (.engineOpStart k cls) s = .next (engineFault s o code))) ∧
     (∀ (s : State) (o : EngOp), getOp s o.id = some o → o.stage = .ringWait → powered s = true → s.canonical →
       objectHeld s o o.ring 8 →
       let w := objRead s o o.ring 8
       let slots := bits (w.getD 0 0) 15 0
       let head := bits (w.getD 4 0) 11 0
       ((w.getD 2 0).toInt ≤ 0 → exec (.ringSlotTake o.id) s = .next s) ∧
       (0 < (w.getD 2 0).toInt → slots ≠ 0 → ∃ t, exec (.ringSlotTake o.id) s = .next t ∧
         getOp t o.id = some { o with stage := .started, ringSlot := some (bits (w.getD 6 0) 23 0 + head * (w.getD 1 0).toNat) } ∧
         (objRead t o o.ring 8).getD 2 0 = w.getD 2 0 - 1 ∧ bits ((objRead t o o.ring 8).getD 4 0) 11 0 = (head + 1) % slots % 4096 ∧
         ∀ i, i < 8 → i ≠ 2 → i ≠ 4 → (objRead t o o.ring 8).getD i 0 = w.getD i 0)) ∧
     ∀ (s : State) (o : EngOp) (b : Nat), getOp s o.id = some o → o.stage = .stopped b → powered s = true →
       (batchPassed s b = true → exec (.engineResume o.id) s = .next (setOp s { o with stage := .started })) ∧
       (batchPassed s b = false → exec (.engineResume o.id) s = .next s)) ∧
  (∀ (s : State) (o : EngOp) (recs : List (List Word)), getOp s o.id = some o → o.stage = .owing recs → powered s = true →
     (fqServes s (.engine o.id) recs.length = true → exec (.engineResume o.id) s =
       .next (setOp (fqBatch s recs).2 { o with stage := .stopped (fqBatch s recs).1 })) ∧
     (fqServes s (.engine o.id) recs.length = false → exec (.engineResume o.id) s = .next (fqJoin s (.engine o.id)))) ∧
  (∀ (s : State) (o : EngOp) (n : Nat), (parseDesc o.desc).av = true → s.canonical → objectHeld s o (parseDesc o.desc).arrival 3 →
     0 < n →
     let w := objRead s o (parseDesc o.desc).arrival 3
     let t := arrivalUpdate s o n
     objRead t o (parseDesc o.desc).arrival 3 =
       if (w.getD 0 0).toNat ≤ n then
         [0, w.getD 1 0 + 1, if (w.getD 0 0).toNat < n then w.getD 2 0 ||| 0x80000000 else w.getD 2 0]
       else [BitVec.ofNat 32 ((w.getD 0 0).toNat - n), w.getD 1 0, w.getD 2 0]) ∧
  (∀ (s : State) (o : EngOp) (blk : Nat) (es : List Nat), getOp s o.id = some o → o.stage = .started → o.cls ≠ 1 →
     powered s = true → o.unit < (parseDesc o.desc).units → (∀ x ∈ opSpaces o, x ∉ s.changing) → o.landed.contains blk = false →
     (o.pieces o.unit)[blk]? = some es → es ≠ [] →
     (acquireAhead s o = true → exec (.landing o.id blk) s = .next s) ∧
     (acquireAhead s o = false → unitPages s o ≠ [] → fqRoom s (unitPages s o).length = true → exec (.landing o.id blk) s =
       .next (setOp (fqBatch s (unitPages s o)).2 { o with stage := .stopped (fqBatch s (unitPages s o)).1 })) ∧
     (acquireAhead s o = false → unitPages s o ≠ [] → fqRoom s (unitPages s o).length = false → exec (.landing o.id blk) s =
       .next (fqJoin (setOp s { o with stage := .owing (unitPages s o) }) (.engine o.id))) ∧
     ∀ p elems s0, acquireAhead s o = false → unitPages s o = [] → dstPlace s o (es.headD 0) = .ok p →
       let e := es.headD 0
       let u := o.keepWords s es
       let landed := o.landed ++ [blk]
       let b := ((u.dstSpot e).block).getD 0
       let n := if u.blockDone b landed then u.blockBytes b else 0
       let counted (t : State) : State := if n = 0 then t else arrivalUpdate t u n
       (engineReads s u es = .ok (elems, s0) → o.opcode ≠ 0x63 →
         let s1 := countLines s0 u es
         (∀ k, o.dstSpot e = .key k →
           let off (e : Nat) : Nat := match u.dstSpot e with
             | .key x => x - k / 64 * 64
             | _ => 0
           let r := landBlock s1 u (k / 64 * 64) (elementTable off elems [])
           exec (.landing o.id blk) s = .next (afterPiece (if r.2 = true then counted r.1 else r.1) u landed)) ∧
         (∀ va, o.dstSpot e = .va va →
           let off (e : Nat) : Nat := match u.dstSpot e with
             | .va x => x - va / 64 * 64
             | _ => 0
           let first : Nat := match p with
             | .here k => k / 64 * 64 % 128
             | .peer _ x => x / 64 * 64 % 128
           exec (.landing o.id blk) s = .next (afterPiece
             (homePush s1 p.line ((elementTable off elems []).map (fun x => (first + x.1, x.2))) (some o.ctx) (some o.core) false none 0
               (some (o.id, n)) (some (parseRec o.dstRec).asid)) u landed))) ∧
       (o.opcode = 0x63 → reduceSent s u e = none → engineReads s u [e] = .ok (elems, s0) →
         (∀ k late s2, p = .here k → reduceAt s0 u k (leWord ((elems.headD (0, [])).2)) = .bytes late s2 →
           exec (.landing o.id blk) s =
             .next (afterPiece (if late = [] then counted (countLines s2 u [e]) else s2) u landed)) ∧
         (∀ d a, p = .peer d a → exec (.landing o.id blk) s =
           .next (reduceAsk (countLines s0 u [e]) u e d a (leWord ((elems.headD (0, [])).2))))) ∧
       (∀ r, o.opcode = 0x63 → reduceSent s u e = some r → r.answer.isSome = true →
         exec (.landing o.id blk) s = .next (afterPiece (counted (forgetRequest s r.id)) u landed)))

/-- A lane arithmetic instruction writes its function of the sources in every active lane (R236, R237, R238, R239,
R280, R281, R283, R290, R61, R142, R192, R331). Each of the 44 instructions of the tables of R237 to R239, R280 to
R287 and R290, VSEL apart, completes: v[d] of each active lane takes the instruction's function of that lane's sources, all read
before, and the next instruction of the clause stands. A write of lanes of one register: each lane listed reads back
its word; every other lane of that register and every other register reads as before; and no byte or tag outside the
register's row changes, and nothing of any context. Of the same instructions, where they do not execute so: a register
that is not below V is PERM; otherwise a register with a pending write in an active lane is UNGUARD in its lane;
otherwise, while an earlier access in the row is outstanding, the instruction stays; otherwise a write, in some active lane, of a
register live at the open safe point is IDEMP (R331), whose place after UNGUARD is the model's reading (log entries 35 and 39). -/
def Obligations.LaneResults : Prop :=
  ((∀ (i : Instr) (op : Nat) (f : LaneForm) (n : Nat) (g : Word → Word → Word → Word), intLane i = some (op, f, n, g) →
       ∀ (s : State) (c : Ctx) (q : Clause), LaneExecutes (laneSpec op f n) s c q →
       exec i s = .next (laneDone (laneSpec op f n) q c.id (writeLanes s c f.d.toNat ((lanesOf (activeLanes c q f)).map (fun l =>
         (l, g (opnd s c q f f.a l) (opnd s c q f f.b l) (opnd s c q f f.c l))))))) ∧
     ∀ (i : Instr) (op : Nat) (f : LaneForm) (n : Nat) (g : Bool → Word → Word → Word → Word), floatLane i = some (op, f, n, g) →
       ∀ (s : State) (c : Ctx) (q : Clause), LaneExecutes (laneSpec op f n) s c q →
       exec i s = .next (laneDone (laneSpec op f n) q c.id (writeLanes s c f.d.toNat ((lanesOf (activeLanes c q f)).map (fun l =>
         (l, g (decide (q.nbv = 1)) (opnd s c q f f.a l) (opnd s c q f f.b l) (opnd s c q f f.c l))))))) ∧
  (∀ (s : State) (c : Ctx) (n : Nat) (ls : List (Nat × Word)), registersOwned s c → s.canonical → n < c.vregs →
     (ls.map Prod.fst).Nodup → (∀ x ∈ ls, x.1 < 64) →
     let t := writeLanes s c n ls
     (∀ l w, (l, w) ∈ ls → vread t c n l = w) ∧
     (∀ r l, r < c.vregs → l < 64 → (r ≠ n ∨ l ∉ ls.map Prod.fst) → vread t c r l = vread s c r l) ∧
     (∀ x, (∀ off, off < 256 → x ≠ coreKey c.core ((c.regBase + n) * 256 + off)) →
       memRead t.mem x = memRead s.mem x ∧ tagAt t x = tagAt s x) ∧
     t = { s with mem := t.mem, tags := t.tags, poison := t.poison }) ∧
  (∀ (i : Instr) (op : Nat) (f : LaneForm) (n : Nat), (∃ g, intLane i = some (op, f, n, g)) ∨ (∃ g, floatLane i = some (op, f, n, g)) →
     ∀ (s : State) (c : Ctx) (q : Clause), LaneTurn s c q f →
     let spec := laneSpec op f n
     let regs := spec.reads ++ spec.writes
     ((∃ r ∈ regs, c.vregs ≤ r) → exec i s = .next (takeFault s c PERM none true q.at 0)) ∧
     ((∀ r ∈ regs, r < c.vregs) →
       (∀ l, c.unguarded regs (activeLanes c q f) = some l → exec i s = .next (takeFault s c UNGUARD (some l) true q.at 0)) ∧
       (c.unguarded regs (activeLanes c q f) = none →
         (c.rowHeld spec.writes (activeLanes c q f) = true → exec i s = .next s) ∧
         (c.rowHeld spec.writes (activeLanes c q f) = false → activeLanes c q f ≠ 0 → idempVector q.live q.liveRegs spec.writes = true →
           exec i s = .next (takeFault s c IDEMP none true q.at 0)))))

/-- Predicates, selections, shuffles, votes, reductions and scans (R63, R240, R241, R242, R243, R200, R239, R244,
R288, R289, R291). VSEL writes in each active lane its first source where its predicate's bit is 1, else its second.
VCMP and PLOG write exactly the bits of their predicate in the active lanes: the comparison MOD of the two sources, or
the function MOD of three predicates; a write of p0 changes nothing. LNOP changes nothing but its flag. SHFL and SHFLX
with sound source rows: each active lane takes v[A] of its source lane, or 0 where that lane is dead or absent, and
its bit of pN tells which. VOTE gives every active lane one result of the active lanes whose source is not zero:
whether there is one, whether all are, their mask in two registers, how many there are; or whether every source is
equal. REDUX gives every active lane the combination of the active lanes' sources in ascending lane order; SCAN gives
the k-th active lane the combination of the first k + 1, or, exclusive, of the first k. The combination is the sum
modulo 2^32, the signed or unsigned extremes, or the bitwise and, or and exclusive or, the operator's identity of no source, and
the FADD one is rounded step by step from the lowest lane on, starting at −0, where the pseudocode of R244 starts at the first
value (the model's reading, log entry 95). CVT, whose second source is read only for a
narrowing destination, writes each active lane's converted elements under the bound of its lane, or of the format
block its address names; QUANT quantises by the lane's scale byte and the block's bound; a fault of the block's
address or checks is taken. -/
def Obligations.LanesTogether : Prop :=
  ((∀ (f : LaneForm) (s : State) (c : Ctx) (q : Clause), LaneExecutes (laneSpec 0x16 f 2) s c q →
       exec (.vsel f) s = .next (laneDone (laneSpec 0x16 f 2) q c.id (writeLanes s c f.d.toNat ((lanesOf (activeLanes c q f)).map (fun l =>
         (l, if (c.pred f.c.toNat).getLsbD l then opnd s c q f f.a l else opnd s c q f f.b l)))))) ∧
     (∀ (f : LaneForm) (s : State) (c : Ctx) (q : Clause), c.preds.length = 7 → f.mod.toNat < 6 →
       let spec := predSpec 0x18 f (srcReg f.a ++ srcReg f.b)
       LaneExecutes spec s c q → ∃ x, exec (.vcmp f) s = .next (laneDone spec q c.id (setCtx s x)) ∧
         predicateWritten f.d.toNat (activeLanes c q f) (fun l =>
           let x := opnd s c q f f.a l
           let y := opnd s c q f f.b l
           let lt (a b : Word) : Bool := if f.ty = 1 then decide (a.toNat < b.toNat) else decide (a.toInt < b.toInt)
           [decide (x = y), decide (x ≠ y), lt x y, decide (x = y) || lt x y, lt y x, decide (x = y) || lt y x].getD f.mod.toNat false) c x) ∧
     (∀ (f : LaneForm) (s : State) (c : Ctx) (q : Clause), c.preds.length = 7 → f.mod.toNat < 6 →
       LaneExecutes (predSpec 0x1A f []) s c q →
       ∃ x, exec (.plog f) s = .next (laneDone (predSpec 0x1A f []) q c.id (setCtx s x)) ∧
         predicateWritten f.d.toNat (activeLanes c q f) (fun l =>
           let a := (c.pred f.a.toNat).getLsbD l
           let b := (c.pred f.b.toNat).getLsbD l
           let z := (c.pred f.c.toNat).getLsbD l
           [a && b, a || b, a != b, a && !b, a && b && z, if z then a else b].getD f.mod.toNat false) c x) ∧
     ∀ (f : LaneForm) (s : State) (c : Ctx) (q : Clause), LaneExecutes (predSpec 0x70 f []) s c q →
       exec (.lnop f) s = .next (laneDone (predSpec 0x70 f []) q c.id s)) ∧
  (∀ (xor : Bool) (f : LaneForm) (s : State) (c : Ctx) (q : Clause), LaneExecutes (shuffleSpec xor f) s c q →
     let src (l : Nat) : Nat := sourceLane xor l (opnd s c q f f.b l)
     let dead (l : Nat) : Bool := !c.present.getLsbD (src l) || c.dmk.getLsbD (src l)
     let m := activeLanes c q f
     (∀ l ∈ lanesOf m, dead l = false → vstale s c f.a.toNat (src l) = true ∨
       poisonAt s (coreKey c.core (c.vregOff f.a.toNat (src l))) = false) → c.preds.length = 7 →
     ∃ x, predicateWritten f.c.toNat m dead c x ∧
       exec (shuffle xor f) s = .next (laneDone (shuffleSpec xor f) q c.id (writeLanes (setCtx s x) c f.d.toNat
         ((lanesOf m).map (fun l => (l, if dead l then 0 else vread s c f.a.toNat (src l))))))) ∧
  (∀ (f : LaneForm) (s : State) (c : Ctx) (q : Clause),
     let spec : LaneSpec := { op := 0x42, f := f, reads := srcReg f.a, writes := regRun f.d (if f.mod = 2 then 2 else 1) }
     LaneExecutes spec s c q → f.mod.toNat < 5 →
     let ls := lanesOf (activeLanes c q f)
     let v (l : Nat) : Word := opnd s c q f f.a l
     let one (w : Word) : State := writeLanes s c f.d.toNat (ls.map (fun l => (l, w)))
     (f.mod = 0 → exec (.vote f) s = .next (laneDone spec q c.id (one (if ls.any (fun l => v l ≠ 0) then 1 else 0)))) ∧
     (f.mod = 1 → exec (.vote f) s = .next (laneDone spec q c.id (one (if ls.all (fun l => v l ≠ 0) then 1 else 0)))) ∧
     (f.mod = 2 → ∃ lo hi : Word, (∀ j, j < 32 → (lo.getLsbD j = (ls.contains j && decide (v j ≠ 0))) ∧
         (hi.getLsbD j = (ls.contains (32 + j) && decide (v (32 + j) ≠ 0)))) ∧
       exec (.vote f) s = .next (laneDone spec q c.id
         (writeLanes (one lo) c (f.d.toNat + 1) (ls.map (fun l => (l, hi)))))) ∧
     (f.mod = 3 → exec (.vote f) s = .next (laneDone spec q c.id (one (BitVec.ofNat 32 (ls.filter (fun l => v l ≠ 0)).length)))) ∧
     (f.mod = 4 → exec (.vote f) s = .next (laneDone spec q c.id
       (one (if ls.all (fun l => ls.all (fun k => v l = v k)) then 1 else 0))))) ∧
  (∀ (f : LaneForm) (s : State) (c : Ctx) (q : Clause),
     let ls := lanesOf (activeLanes c q f)
     let vs := ls.map (fun l => opnd s c q f f.a l)
     let comb (xs : List Word) : Word := reduceWords f.mod.toNat (decide (q.nbv = 1)) xs
     (LaneExecutes { op := 0x43, f := f, reads := srcReg f.a, writes := [f.d.toNat] } s c q →
       exec (.redux f) s = .next (laneDone { op := 0x43, f := f, reads := srcReg f.a, writes := [f.d.toNat] } q c.id
         (writeLanes s c f.d.toNat (ls.map (fun l => (l, comb vs)))))) ∧
     (LaneExecutes { op := 0x44, f := f, reads := srcReg f.a, writes := [f.d.toNat] } s c q →
       exec (.scan f) s = .next (laneDone { op := 0x44, f := f, reads := srcReg f.a, writes := [f.d.toNat] } q c.id
         (writeLanes s c f.d.toNat (ls.zip ((List.range ls.length).map (fun k =>
           comb (vs.take (if f.sub.getLsbD 0 then k else k + 1)))))))) ∧
     (∀ (v : Bool) (xs : List Word), reduceWords 0 v xs = BitVec.ofNat 32 (xs.map BitVec.toNat).sum ∧
       (xs ≠ [] → (reduceWords 1 v xs ∈ xs ∧ ∀ x ∈ xs, (reduceWords 1 v xs).toInt ≤ x.toInt) ∧
         (reduceWords 2 v xs ∈ xs ∧ ∀ x ∈ xs, x.toInt ≤ (reduceWords 2 v xs).toInt) ∧
         (reduceWords 3 v xs ∈ xs ∧ ∀ x ∈ xs, (reduceWords 3 v xs).toNat ≤ x.toNat) ∧
         (reduceWords 4 v xs ∈ xs ∧ ∀ x ∈ xs, x.toNat ≤ (reduceWords 4 v xs).toNat)) ∧
       (∀ j, j < 32 → ((reduceWords 5 v xs).getLsbD j = true ↔ ∀ x ∈ xs, x.getLsbD j = true) ∧
         ((reduceWords 6 v xs).getLsbD j = true ↔ ∃ x ∈ xs, x.getLsbD j = true) ∧
         (reduceWords 7 v xs).getLsbD j = decide ((xs.filter (fun x => x.getLsbD j)).length % 2 = 1)) ∧
       ∀ y, reduceWords 10 v (xs ++ [y]) = f32Add 0 v (reduceWords 10 v xs) y) ∧
     ∀ v, [0, 1, 2, 3, 4, 5, 6, 7, 10].map (fun op => reduceWords op v []) =
       [0, 0x7FFFFFFF, 0x80000000, 0xFFFFFFFF, 0, 0xFFFFFFFF, 0, 0, 0x80000000]) ∧
  ((∀ (f : LaneForm) (s : State) (c : Ctx) (q : Clause),
       let narrowing := [3, 4, 7, 8, 9].contains f.ty.toNat
       let spec : LaneSpec := { laneSpec 0x38 f 1 with
         reads := srcReg f.a ++ (if narrowing then srcReg f.b else []), collects := srcReg f.a ++ (if narrowing then srcReg f.b else []) }
       let out (b : Nat → FVal) : State := writeLanes s c f.d.toNat ((lanesOf (activeLanes c q f)).map (fun l =>
         (l, cvtWord f.ty.toNat (f.sub.extractLsb' 0 4).toNat f.mod.toNat (decide (q.nbv = 1)) (b l) (opnd s c q f f.a l))))
       LaneExecutes spec s c q →
       (f.sub.getLsbD 4 = false → exec (.cvt f) s = .next (laneDone spec q c.id
         (out (fun l => conformBound f.ty.toNat (decide (q.nbv = 1)) (opnd s c q f f.b l))))) ∧
       (f.sub.getLsbD 4 = true → ∀ b, readBlock s c q f.ty.toNat (opnd s c q f f.b 0).toNat = .ok b →
         exec (.cvt f) s = .next (laneDone spec q c.id (out (fun _ => b.bound)))) ∧
       (f.sub.getLsbD 4 = true → ∀ code w, readBlock s c q f.ty.toNat (opnd s c q f f.b 0).toNat = .error (code, w) →
         exec (.cvt f) s = .next (takeFault s c code none true q.at w))) ∧
     ∀ (f : LaneForm) (s : State) (c : Ctx) (q : Clause), LaneExecutes (laneSpec 0x39 f 2) s c q →
       (∀ b, readBlock s c q f.ty.toNat (opnd s c q f f.c 0).toNat = .ok b →
         exec (.quant f) s = .next (laneDone (laneSpec 0x39 f 2) q c.id (writeLanes s c f.d.toNat
           ((lanesOf (activeLanes c q f)).map (fun l => (l, quantWord f.ty.toNat f.mod.toNat (decide (q.nbv = 1)) b.bound
             (opnd s c q f f.a l) (opnd s c q f f.b l))))))) ∧
       ∀ code w, readBlock s c q f.ty.toNat (opnd s c q f f.c 0).toNat = .error (code, w) →
         exec (.quant f) s = .next (takeFault s c code none true q.at w))

/-- BLD, LLD, PLD and VLD issue their accesses or take the deciding fault (R142, R245, R247, R250, R254, R255, R256,
R86, R96, R100). Where every active lane's access is out of bounds or permitted, and no peer that holds one of them is
left to ask or has refused, the load issues as a flight tied to its flag, with the destination pending in the active lanes and one access for each, out of bounds ones among them, each with the group's own buffered bytes, but those that an
atomic outstanding since they were stored will leave (R249); BLD then forgets the peers' answers, and the other three
ask no peer. A BLD whose lines a peer has not answered for stays, asking for each line once; one that a peer has
refused is REMOTE in the lowest lane. That one check for each line is sent ahead of the access is the model's form (log entry
114). Where a lane's access has a fault, the fault of the first class found, in its
lowest lane, is taken and nothing issues. A local access of n bytes in a lane is PERM outside what the group may
touch, otherwise ALIGN at an address that n does not divide, otherwise the core's own byte at the address under the
allocation's generation, with no more checks where the allocation's policy is ZERO or no bytes are read. -/
def Obligations.LaneLoads : Prop :=
  (∀ (i : Instr) (op : Nat) (f : LaneForm), loadForm i = some (op, f) → ∀ (s : State) (c : Ctx) (q : Clause) (asid mg : BitVec 16)
     (hs : List (Nat × Hit)), let spec := loadSpec op f
     LaneExecutes spec s c q → formHits i s c q (activeLanes c q f) = some (asid, mg, hs) →
     (∀ s1, hitsClear hs → peersChecked i s c q asid mg hs = .ok s1 →
       s1 = { s with requests := s1.requests } ∧
       (∀ r, r ∈ s1.requests ↔ r ∈ s.requests ∧ ((∀ g, i ≠ .bld g) ∨ askedBy c (trapPcOf true q.at) (.check false) r = false)) ∧
       ∃ fl, exec i s = .next (laneFlies spec q c.id s1 fl) ∧ fl.id = s.nextId ∧ fl.kind = .load ∧ fl.form = f ∧
       fl.clause = q.id ∧ fl.flag = q.flagOf f.flag ∧ fl.pend = activeLanes c q f ∧ fl.firstReg = f.d.toNat ∧ fl.nRegs = widthRun f ∧
       fl.asid = asid ∧ fl.mapgen = mg ∧ fl.accs.map LaneAcc.lane = hs.map Prod.fst ∧
       ∀ h ∈ hs, ∃ a ∈ fl.accs, a.lane = h.1 ∧ (h.2 = .oob → a.place = none) ∧
         ∀ p va g n, h.2 = .ok p va g n → a.place = some p ∧ a.gen = g ∧
           a.own = (List.range (widthOf f)).map (fun i => if atomicSince c (p.plus i) then none else rsbByte c (p.plus i))) ∧
     (∀ t, hitsClear hs → peersChecked i s c q asid mg hs = .error (.wait t) → exec i s = .next t) ∧
     (∀ t l, hitsClear hs → peersChecked i s c q asid mg hs = .error (.fault t REMOTE l 0) →
       exec i s = .next (takeFault t c REMOTE l true q.at 0)) ∧
     (∀ t l r, hitsClear hs → peersChecked i s c q asid mg hs = .error (.remote t l r) →
       exec i s = .next (takeRemote t c false l q.at r)) ∧
     ∀ l r code addr, (l, Hit.bad r code addr) ∈ hs →
       (∀ h ∈ hs, ∀ r', h.2.rank = some r' → r < r' ∨ (r = r' ∧ l ≤ h.1)) → (hs.map Prod.fst).Pairwise (· < ·) →
       exec i s = .next (takeFault s c code (some l) true q.at addr)) ∧
  (∀ (s : State) (c : Ctx) (pols : BitVec 4) (read : Reading) (n addr : Nat),
     (allocOf c pols addr n = none → localHit s c pols read n addr = .bad 0 PERM 0) ∧
     ∀ al, allocOf c pols addr n = some al →
       (addr % n ≠ 0 → localHit s c pols read n addr = .bad 1 ALIGN 0) ∧
       (addr % n = 0 → al.policy = false ∨ read = .none →
         localHit s c pols read n addr = .ok (.here (coreKey c.core addr)) 0 al.gen false))

/-- BST, LST, PST and VST write own register rows or enter the store buffer (R116, R223, R245, R246, R247, R249, R250,
R254, R255, R256). Where every active lane's access is out of bounds or permitted and no peer of a BST is left to ask
or has refused: the bytes for other places than own register rows enter the group's region store buffer with the
instruction's scope and order, in ascending lane order, and a buffer that cannot take them is REGION with nothing
changed; memory is unchanged where there are no own ones. Bytes of the group's own register rows are written at once;
an earlier access to them that is outstanding, or, of a release store, release steps that are not complete, keep the
instruction at its place. -/
def Obligations.LaneStores : Prop :=
  ∀ (i : Instr) (op : Nat) (f : LaneForm), storeForm i = some (op, f) → ∀ (s : State) (c : Ctx) (q : Clause) (asid mg : BitVec 16)
    (hs : List (Nat × Hit)) (s1 : State), let spec := storeSpec op f
    LaneExecutes spec s c q → formHits i s c q (activeLanes c q f) = some (asid, mg, hs) → hitsClear hs →
    peersChecked i s c q asid mg hs = .ok s1 →
    let own := storedBytes s1 c f true hs
    let buf := (storedBytes s1 c f false hs).flatMap (fun a => elementBytes a.1 a.2.1 (if a.2.2.1 = 0 then none else some a.2.2.1) a.2.2.2)
    let u := if f.releases then released s1 c f.scope.toNat else s1
    let held := ∃ a ∈ own, c.accessPending a.1 (widthOf f) = true
    (bufferStore c f.scope f.releases asid mg buf = none → exec i s = .next (takeFault s1 c REGION none true q.at 0)) ∧
    ∀ c1, bufferStore c f.scope f.releases asid mg buf = some c1 →
      (own = [] → exec i s = .next (laneDone spec q c.id (setCtx s1 c1)) ∧ (laneDone spec q c.id (setCtx s1 c1)).mem = s.mem) ∧
      (own ≠ [] → held → exec i s = .next s1) ∧
      (own ≠ [] → ¬ held → f.releases = true → ¬ ReleaseDone s1 c f.scope.toNat → exec i s = .next u) ∧
      (own ≠ [] → ¬ held → f.releases = false ∨ ReleaseDone s1 c f.scope.toNat →
        exec i s = .next (laneDone spec q c.id (writeOwn (modCtx u c.id (fun x => { x with rsb := c1.rsb })) c
          (own.map (fun a => (a.1, a.2.2.2))))))

/-- BATOM and LATOM issue their read-modify-writes, BPF only prefetches (R200, R223, R246, R247, R253, R257, R258,
R259, R332). Where every active lane's access is out of bounds or permitted and no peer of a BATOM is left to ask or
has refused, an atomic first takes its release steps where it releases, staying until they are complete, and then
issues with an access, an operand and a comparand for each active lane. A page fault of an atomic leaves a batch and
stops the lane stream, not the region; a retried peer holds the atomic before any lane of it (the check requests are the model's
form, log entry 114, and that the atomic is held for the notice its reading, log entry 57). BPF of a vault record
changes nothing. Of any other record BPF stays while a write waits at the home of one of its lines or a peer has not
answered for one, and then completes with no byte of memory, no tag and nothing of the context but its pins changed,
of which a group has at most 16 by it; an address out of bounds or absent is no fault. -/
def Obligations.LaneAtomics : Prop :=
  (∀ (i : Instr) (op : Nat) (f : LaneForm), atomForm i = some (op, f) → ∀ (s : State) (c : Ctx) (q : Clause) (asid mg : BitVec 16)
     (hs : List (Nat × Hit)), let spec := atomSpec op f
     LaneExecutes spec s c q → formHits i s c q (activeLanes c q f) = some (asid, mg, hs) →
     (∀ s1, hitsClear hs → peersChecked i s c q asid mg hs = .ok s1 →
       let u := if f.releases then released s1 c f.scope.toNat else s1
       (f.releases = true → ¬ ReleaseDone s1 c f.scope.toNat → exec i s = .next u) ∧
       (f.releases = false ∨ ReleaseDone s1 c f.scope.toNat → ∃ fl, exec i s = .next (laneFlies spec q c.id u fl) ∧
         fl.kind = .atomic ∧ fl.form = f ∧ fl.pend = activeLanes c q f ∧ fl.firstReg = f.d.toNat ∧ fl.nRegs = 1 ∧
         fl.accs.map LaneAcc.lane = hs.map Prod.fst ∧
         fl.operands = (lanesOf (activeLanes c q f)).map (fun l =>
           if f.mod = 9 then (l, vread s1 c (f.b.toNat + 1) l, vread s1 c f.b.toNat l) else (l, opnd s1 c q f f.b l, 0)))) ∧
     (∀ l recs, laneChecks s c q true asid mg hs = some (.page s l recs) →
       exec i s = .next (takeAtomicPage s c l q.at recs)) ∧
     ∀ t l r, hitsClear hs → peersChecked i s c q asid mg hs = .error (.remote t l r) →
       exec i s = .next (takeRemote t c true l q.at r)) ∧
  (∀ (f : LaneForm) (s : State) (c : Ctx) (q : Clause) (r : Rec),
     let spec : LaneSpec := { op := 0x53, f := f, reads := srcReg f.a, writes := [] }
     LaneExecutes spec s c q → bufferSpecCheck s c q f false false (widthOf f) = .ok r →
     let hs := bpfHits s c q f r (activeLanes c q f)
     let far := peerLines [] hs
     let asked := askedLines s c (trapPcOf true q.at) (.prefetch (f.sub.getLsbD 0)) far
     (r.vault = true → exec (.bpf f) s = .next (laneDone spec q c.id s)) ∧
     (r.vault = false → (∃ l ∈ hitLines hs, homeHeld s c l = true) → exec (.bpf f) s = .next s) ∧
     (r.vault = false → (∀ l ∈ hitLines hs, homeHeld s c l = false) → asked.length = far.length → (∀ x ∈ asked, x.answered = true) →
       ∃ t, exec (.bpf f) s = .next (laneDone spec q c.id t) ∧ t.mem = s.mem ∧ t.tags = s.tags ∧
       ∃ x, getCtx t c.id = some x ∧ x = { c with pins := x.pins } ∧ x.pins.length ≤ max 16 c.pins.length))

/-- A clause starts at its header, and a lane's access completes (R108, R140, R141, R142, R169, R245, R248, R249,
R250, R254, R257, R322). The clause at the head of the queue, with its words present and its header legal, starts with
its first instruction and its count; an illegal header is ILLEGAL at the header. Where the access of a lane of a load
may be made and its bytes can be had, once a retirement that a fence left due is made, they land in the destination
registers of the lane, the access is over and the lane's write no longer pends; the lanes of a BLD in one line of this device are one
request, which is performed when each of them may be and has its bytes; a byte or halfword is zero-extended,
or sign-extended under .sx. An access that may not be made yet changes nothing. A flight with no access left is over,
its flag counts one less, and any other stands. The lanes of one element of an atomic, at a home that answers with the
old word: in ascending lane order each lane's register takes the value the ones before it left, and the home takes the
last. -/
def Obligations.LaneStream : Prop :=
  (∀ (s : State) (c : Ctx) (q : Clause) (h w1 w2 : Word) (is : List Word), getCtx s c.id = some c → c.headClause = some q →
     q.started = false → c.lanesRun = true → powered s = true → laneWords s c q.off.toNat [0, 1, 2] = .ok [h, w1, w2] →
     let n := bits h 31 28 + 1
     (65536 < q.off.toNat + 1 + n → exec (.clauseHead c.id) s = .next (takeFault s c ILLEGAL none true q.off.toNat 0)) ∧
     (q.off.toNat + 1 + n ≤ 65536 → clauseW1 s c (q.off.toNat + 1) n = .ok is →
       (headerIllegal q.off.toNat h w1 w2 is = true →
         exec (.clauseHead c.id) s = .next (takeFault s c ILLEGAL none true q.off.toNat 0)) ∧
       (headerIllegal q.off.toNat h w1 w2 is = false →
         exec (.clauseHead c.id) s = .next (setCtx s (c.setClause { q with started := true, head := h, count := n, next := 0 }))))) ∧
  ((∀ (s : State) (c : Ctx) (fl : Flight) (a : LaneAcc) (l : Nat), getCtx s c.id = some c → fl ∈ c.flights →
       c.flights.find? (fun f => f.id == fl.id) = some fl → fl.accs.find? (fun a => a.lane == l) = some a → l < 64 → fl.kind = .load →
       powered s = true →
       ((∃ b ∈ fl.together a, mayAccess c fl b = false) → exec (.laneCompletion c.id fl.id (BitVec.twoPow 64 l)) s = .next s) ∧
       ((∀ b ∈ fl.together a, mayAccess c fl b = true) →
         (∀ b ∈ fl.together a, ∃ bs s1, loadElement (retireDue s c fl.fence) c fl b = .bytes bs s1) →
         exec (.laneCompletion c.id fl.id (BitVec.twoPow 64 l)) s = .next (endFlight
           (loadLanes (retireDue s c fl.fence) c.id fl.id fl.pc (fl.together a)) c.id fl.id)) ∧
       ((∀ b ∈ fl.together a, mayAccess c fl b = true) → fl.together a = [a] →
         ∀ bs s1, loadElement (retireDue s c fl.fence) c fl a = .bytes bs s1 →
         exec (.laneCompletion c.id fl.id (BitVec.twoPow 64 l)) s = .next (endFlight (landWords (modCtx s1 c.id (fun x =>
           x.setFlight { fl with accs := fl.accs.filter (fun b => b.lane != l), pend := fl.pend &&& ~~~ BitVec.twoPow 64 l }))
           c fl.form.d.toNat l (loadWords fl.form bs)) c.id fl.id))) ∧
     (∀ (fl : Flight) (a b : LaneAcc), b ∈ fl.together a ↔ b ∈ fl.accs ∧ (b.lane = a.lane ∨ fl.opcode = 0x50 ∧
       ∃ k k', a.place = some (.here k) ∧ b.place = some (.here k') ∧ k / 128 = k' / 128)) ∧
     (∀ (s : State) (c : Ctx) (fl : Flight) (a : LaneAcc) (bad : List Nat) (bs : List Byte) (s1 : State), getCtx s c.id = some c →
       c.flights.find? (fun f => f.id == fl.id) = some fl → loadElement s c fl a = .bytes bs s1 →
       loadLane c.id fl.id (s, bad) a = (landWords (modCtx s1 c.id (fun x =>
         x.setFlight { fl with accs := fl.accs.filter (fun b => b.lane != a.lane), pend := fl.pend &&& ~~~ BitVec.twoPow 64 a.lane }))
         c fl.form.d.toNat a.lane (loadWords fl.form bs), bad)) ∧
     (∀ (f : LaneForm) (b b' : Byte),
       loadWords f [b] = [if f.sub.getLsbD 4 then BitVec.ofInt 32 b.toInt else BitVec.ofNat 32 b.toNat] ∧
       loadWords f [b, b'] = [if f.sub.getLsbD 4 then BitVec.ofInt 32 (b' ++ b).toInt else BitVec.ofNat 32 (b.toNat + 256 * b'.toNat)]) ∧
     ∀ (s : State) (c : Ctx) (fl : Flight), getCtx s c.id = some c → c.flights.find? (fun f => f.id == fl.id) = some fl →
       (fl.accs ≠ [] → endFlight s c.id fl.id = s) ∧
       (fl.accs = [] → fl.kind ≠ .matrix → sparseWf 0 c.flags = true → ∃ x,
         endFlight s c.id fl.id = setCtx (if fl.acq = true ∧ fl.scope = 5 then retireClean s c.core else s) x ∧
         x.flights = c.flights.filter (fun f => f.id ≠ fl.id) ∧ ∀ n, fl.flag = some n → x.flagCount n = c.flagCount n - 1)) ∧
  ((∀ (s : State) (c : Ctx) (fl : Flight) (a : LaneAcc) (l k : Nat) (w : Word) (put : Word → State), getCtx s c.id = some c →
       c.flights.find? (fun f => f.id == fl.id) = some fl → fl.accs.find? (fun a => a.lane == l) = some a → l < 64 →
       fl.kind = .atomic → powered s = true → mayAccess c fl a = true → a.place = some (.here k) →
       atHome s c (.lane c.id fl.id l) fl.asid fl.mapgen a.gen k = .old w put →
       let ls := (fl.accs.filter (fun b => b.place = a.place)).map LaneAcc.lane
       let r := atomicSteps fl.form.mod.toNat (decide (fl.nbv = 1)) w (fl.operands.filter (fun o => ls.contains o.1))
       exec (.laneCompletion c.id fl.id (BitVec.twoPow 64 l)) s = .next (endFlight (r.2.foldl
         (fun t o => landWords t c fl.form.d.toNat o.1 [o.2])
         (modCtx (put r.1) c.id (fun x => x.setFlight (fl.perform (r.2.map Prod.fst))))) c.id fl.id)) ∧
     ∀ (op : Nat) (v : Bool) (w : Word) (xs ys : List (Nat × Word × Word)) (l : Nat) (x cmp : Word),
       let r := atomicSteps op v w (xs ++ (l, x, cmp) :: ys)
       let before := (atomicSteps op v w xs).1
       r.2[xs.length]? = some (l, before) ∧ r.1 = (atomicSteps op v (atomOp op v before x cmp) ys).1)

/-- MMA, ACCRD, ACCWR and ACCZ check their tiles and enter the MATRIX queue (R117, R143, R148, R292, R293, R294, R300,
R301, R302, R303). MMA: a fault of its pair is taken; a register run past v239 is ILLEGAL, past V PERM, pending
UNGUARD; a tile or slot outside the block's runs is PERM. With its scale bytes readable and its rows fresh and sound,
an MMA stays while its counter is 63 or the queue has no room for its operations; otherwise, outside a replay, one
operation for each octet with an active lane enters the queue with the octet's rows and their A bytes, the pair and
the first slot. ACCRD and ACCWR: a tile past the block's run is PERM; without room in the queue the instruction stays;
otherwise, outside a replay, one operation for each octet with an active lane enters, an ACCWR's with the rows'
register bytes. ACCZ: a tile past the run is PERM, with no active lane nothing enters, without room it stays, and
otherwise, outside a replay, one operation for each of its tiles enters. -/
def Obligations.MatrixIssue : Prop :=
  (∀ (f : LaneForm) (s : State) (c : Ctx) (q : Clause), LaneTurn s c q f → f.a.toNat < c.vregs → c.core < s.cores.length →
     let m := activeLanes c q f
     let have' := (blockOf s c).elim c.wslots Ctx.wslots
     (∀ code w, readPair s c q f = .error (code, w) → exec (.mma f) s = .next (takeFault s c code none true q.at w)) ∧
     ∀ p, readPair s c q f = .ok p →
       let n := familyRegs (family (pairA p).fmt)
       let slots := bits f.imm 23 16 + bSlots (family (pairB p).fmt) (pairB p).comp
       (0xEF < f.a.toNat + n - 1 → exec (.mma f) s = .next (takeFault s c ILLEGAL none true q.at 0)) ∧
       (f.a.toNat + n - 1 ≤ 0xEF → c.vregs < f.a.toNat + n → exec (.mma f) s = .next (takeFault s c PERM none true q.at 0)) ∧
       (f.a.toNat + n - 1 ≤ 0xEF → f.a.toNat + n ≤ c.vregs →
         (∀ l, c.unguarded (regRun f.a n) m = some l → exec (.mma f) s = .next (takeFault s c UNGUARD (some l) true q.at 0)) ∧
         (c.unguarded (regRun f.a n) m = none →
           (∀ o ∈ octets m, (∀ o' ∈ octets m, o' ≤ o) → c.tiles ≤ f.d.toNat + o ∨ have' < slots →
             exec (.mma f) s = .next (takeFault s c PERM none true q.at 0)) ∧
           ((∀ o ∈ octets m, f.d.toNat + o < c.tiles) → slots ≤ have' → m ≠ 0 → 
             ((pairA p).noscale = true ∨ ∃ as bs,
               scaleBytes s c q.pols (scaleAddrs (pairA p) (familyK (family (pairA p).fmt)) (lanesOf m)) = .ok as ∧
               scaleBytes s c q.pols (scaleAddrs (pairB p) (familyK (family (pairA p).fmt)) (List.range 64)) = .ok bs) →
             (∀ l ∈ lanesOf m, ∀ r ∈ regRun f.a n, vstale s c r l = false ∨ q.pols.getLsbD 0 = false) →
             (∀ l ∈ lanesOf m, ∀ r ∈ regRun f.a n, vstale s c r l = true ∨ poisonAt s (coreKey c.core (c.vregOff r l)) = false) →
             (63 ≤ c.engineCount 1 ∨ matrixFull s c.core (octets m).length = true → exec (.mma f) s = .next s) ∧
             (c.engineCount 1 < 63 → matrixFull s c.core (octets m).length = false → c.reissue = [] →
             entersMatrix (.mma f) (mmaSpec f) s c q ((octets m).map (fun o => c.tileBase + f.d.toNat + o)) (fun x =>
               x.rows = octetRows m x.octet ∧ x.slot = (slotRunOf s c).2 + bits f.imm 23 16 ∧ x.pair = p ∧ x.close = decide (f.mod = 1) ∧
               x.nbv = q.nbv ∧ x.tile = c.tileBase + f.d.toNat + x.octet ∧
               ∀ r, r < 8 → m.getLsbD (8 * x.octet + r) = true → x.arows.getD r [] =
                 (List.range n).flatMap (fun j => wordBytes (vread s c (f.a.toNat + j) (8 * x.octet + r))))))))) ∧
  ((∀ (f : LaneForm) (s : State) (c : Ctx) (q : Clause), c.core < s.cores.length → c.reissue = [] →
       let spec : LaneSpec := { op := 0x61, f := f, reads := [], writes := regRun f.d 16 }
       let m := activeLanes c q f
       LaneExecutes spec s c q →
       ((∃ o ∈ octets m, c.tiles ≤ f.a.toNat + o) → exec (.accrd f) s = .next (takeFault s c PERM none true q.at 0)) ∧
       ((∀ o ∈ octets m, f.a.toNat + o < c.tiles) → matrixFull s c.core (octets m).length = true → exec (.accrd f) s = .next s) ∧
       ((∀ o ∈ octets m, f.a.toNat + o < c.tiles) → matrixFull s c.core (octets m).length = false → m ≠ 0 →
         entersMatrix (.accrd f) spec s c q ((octets m).map (fun o => c.tileBase + f.a.toNat + o)) (fun x =>
           x.rows = octetRows m x.octet ∧ x.slice = bits f.imm 1 0 ∧ x.reg = f.d.toNat))) ∧
     (∀ (f : LaneForm) (s : State) (c : Ctx) (q : Clause), c.core < s.cores.length → c.reissue = [] →
       let spec : LaneSpec := { op := 0x62, f := f, reads := regRun f.a 16, writes := [] }
       let m := activeLanes c q f
       LaneExecutes spec s c q →
       ((∃ o ∈ octets m, c.tiles ≤ f.d.toNat + o) → exec (.accwr f) s = .next (takeFault s c PERM none true q.at 0)) ∧
       ((∀ o ∈ octets m, f.d.toNat + o < c.tiles) → matrixFull s c.core (octets m).length = true → exec (.accwr f) s = .next s) ∧
       ((∀ o ∈ octets m, f.d.toNat + o < c.tiles) → matrixFull s c.core (octets m).length = false → m ≠ 0 →
         entersMatrix (.accwr f) spec s c q ((octets m).map (fun o => c.tileBase + f.d.toNat + o)) (fun x =>
           x.rows = octetRows m x.octet ∧ x.slice = bits f.imm 1 0 ∧ ∀ r, r < 8 → m.getLsbD (8 * x.octet + r) = true →
             x.arows.getD r [] = (List.range 16).flatMap (fun j => wordBytes (vread s c (f.a.toNat + j) (8 * x.octet + r)))))) ∧
     ∀ (f : LaneForm) (s : State) (c : Ctx) (q : Clause), c.core < s.cores.length → c.reissue = [] →
       let spec : LaneSpec := { op := 0x63, f := f, reads := [], writes := [] }
       let n := bits f.imm 7 0 + 1
       LaneExecutes spec s c q →
       (c.tiles < f.d.toNat + n → exec (.accz f) s = .next (takeFault s c PERM none true q.at 0)) ∧
       (f.d.toNat + n ≤ c.tiles → activeLanes c q f = 0 → exec (.accz f) s = .next (laneDone spec q c.id s)) ∧
       (f.d.toNat + n ≤ c.tiles → activeLanes c q f ≠ 0 → matrixFull s c.core n = true → exec (.accz f) s = .next s) ∧
       (f.d.toNat + n ≤ c.tiles → activeLanes c q f ≠ 0 → matrixFull s c.core n = false →
         entersMatrix (.accz f) spec s c q ((List.range n).map (fun j => c.tileBase + f.d.toNat + j)) (fun _ => True)))

/-- The array delivers, starts and performs the operations of its queue (R102, R147, R148, R275, R295, R296, R299,
R300, R301, R302, R364, R370). The oldest MMA operation that has its version and no delivery gets its B tile, with those that fuse
with it. An operation may start that has its version, with nothing under way that changes its tile and none older on the
tile that waits for the same version or is an ACCZ with nothing before it; an MMA's also needs its delivery, no WBLOAD covering its slots, and the older ones of
its delivery started. Of those that may, the oldest MMA reads its slots, or is FORMAT where the open-state checks fail; an ACCRD reads its granules, and an ACCWR starts; the core's array then leaves a running churn. A started operation is performed and leaves the queue; ACCZ is performed once
nothing before it is on its tile. Performing an MMA on a tile that its generation still owns, with no uncorrectable data:
every element becomes the integer step of its old word in integer mode and the scaled or floating accumulation otherwise;
the version is one more, and in integer mode the tile is closed or stands open with one operation more. With uncorrectable
data the version alone changes, and an error record of kind 4 names the tile and the first slot of B that had an error, or the first
slot where none had; late, neither. In integer mode one closing operation on a closed tile adds its exact sum of
products to the element, saturating; an opening operation followed by a closing one leaves the exact sum of the two. -/
def Obligations.MatrixUnit : Prop :=
  (∀ (k i : Nat) (s : State) (op : MatOp), (getCore s k).matq[i]? = some op → powered s = true →
     let needs (x : MatOp) : Bool := x.opcode = 0x60 && x.delivery.isNone && versionMet s k x
     let q := (getCore s k).matq
     (needs op = true → (∀ x ∈ q.take i, needs x = false) →
       exec (.weightDelivery k i) s = .next (setCore s k { getCore s k with
         matq := q.map (fun x => if needs x && fuses op x then { x with delivery := some op.id } else x) })) ∧
     (mayStart s k i op = true ↔ op.started = false ∧ op.opcode ≠ 0x63 ∧ versionMet s k op = true ∧
       (∀ x ∈ q, x.tile = op.tile → x.started = true → x.opcode = 0x61) ∧
       (∀ x ∈ q.take i, x.tile = op.tile → x.started = false → x.ver = op.ver → x.opcode = 0x63) ∧
       (∀ j x, j < i → q[j]? = some x → x.tile = op.tile → (∀ y ∈ q.take j, y.tile ≠ op.tile) → x.opcode ≠ 0x63) ∧
       (op.opcode = 0x60 → op.delivery ≠ none ∧ loadCovers s k op = false ∧
         ∀ x ∈ q.take i, x.opcode = 0x60 → x.delivery = op.delivery → x.started = true)) ∧
     (mayStart s k i op = true → op.opcode = 0x60 → (∀ j x, j < i → q[j]? = some x → x.opcode = 0x60 → mayStart s k j x = false) →
       (openBad (tileOf s k op.tile) op = true → exec (.octetStart k i) s = .next (matrixFault s k op FORMAT none 0)) ∧
       (openBad (tileOf s k op.tile) op = false → exec (.octetStart k i) s =
         .next (leaveChurn (setMat s k { op with started := true, bbytes := bBytes s k op, bad := slotPoison s k op }) k))) ∧
     (mayStart s k i op = true → op.opcode = 0x62 →
       exec (.octetStart k i) s = .next (leaveChurn (setMat s k { op with started := true }) k)) ∧
     (mayStart s k i op = true → op.opcode = 0x61 → op.policy = false →
       (∀ l ∈ octetLanes op, tilePoison s k op (4 * (l % 8) + op.slice) = false) → exec (.octetStart k i) s =
         .next (leaveChurn (setMat s k { op with started := true, arows := (List.range 8).map (fun r =>
           (List.range 16).flatMap (fun h => wordBytes (tileWord s k op r (16 * op.slice + h)))) }) k)) ∧
     (op.started = true →
       (op.opcode = 0x60 → exec (.octetComplete k i) s = .next (endMatrix (dropMat (finishMma s k op) k op.id) k op.ctx op.parent)) ∧
       (op.opcode = 0x62 → exec (.octetComplete k i) s = .next (endMatrix (dropMat (finishWrite s k op) k op.id) k op.ctx op.parent)) ∧
       (op.opcode = 0x61 → op.policy = false ∨ (∀ x ∈ q, x.parent = op.parent → x.started = true) →
         exec (.octetComplete k i) s = .next (endMatrix (dropMat (clearPend (finishRead s k op) op) k op.id) k op.ctx op.parent))) ∧
     (op.opcode = 0x63 → (∀ x ∈ q.take i, x.tile ≠ op.tile) → exec (.acczPerform k i) s = .next (endMatrix (dropMat
       (if tileHeld s k op then setTile (writeTile s k op (fun _ _ => 0)) k op.tile ⟨op.ver, false, 0⟩ else countLate s k) k op.id)
       k op.ctx op.parent))) ∧
  (∀ (s : State) (k : Nat) (op : MatOp), s.canonical → sparseWf ⟨0, false, 0⟩ (getCore s k).tileState = true → k < s.cores.length →
     let t := finishMma s k op
     let a := pairA op.pair
     let clean := op.bad = none ∧ ∀ g, g < 32 → tilePoison s k op g = false
     (tileHeld s k op = true → clean →
       (a.noscale = true → a.fmt = 9 →
         (∀ r c, r < 8 → c < 64 → tileWord t k op r c = integerStep op (tileOf s k op.tile).opened r c (tileWord s k op r c)) ∧
         tileOf t k op.tile = if op.close then ⟨op.ver + 1, false, 0⟩ else
           ⟨op.ver + 1, true, (if (tileOf s k op.tile).opened then (tileOf s k op.tile).count else 0) + 1⟩) ∧
       (a.noscale = false ∨ a.fmt ≠ 9 →
         (∀ r c, r < 8 → c < 64 → tileWord t k op r c = accumulate op r c (tileWord s k op r c)) ∧
         tileOf t k op.tile = { tileOf s k op.tile with version := op.ver + 1 })) ∧
     (tileHeld s k op = true → ¬ clean → t.mem = s.mem ∧ t.tags = s.tags ∧
       tileOf t k op.tile = { tileOf s k op.tile with version := op.ver + 1 } ∧
       ∃ u r, t = pushError u r ∧ bits (r.getD 0 0) 31 24 = 4 ∧
         r.getD 7 0 = BitVec.ofNat 32 (op.bad.getD op.slot * 256 + op.tile)) ∧
     (tileHeld s k op = false → t = countLate s k)) ∧
  ((∀ (op : MatOp) (r c : Nat) (old : Word), op.close = true → integerStep op false r c old = BitVec.ofInt 32
       (max (-2 ^ 31) (min (2 ^ 31 - 1) (old.toInt + rnsSum (op.arows.getD r []) (pairB op.pair).comp op.bbytes c 0 64)))) ∧
     ∀ (x y : MatOp) (r c : Nat) (old : Word), x.close = false → y.close = true →
       (integerStep y true r c (integerStep x false r c old)).toInt =
         rnsSum (x.arows.getD r []) (pairB x.pair).comp x.bbytes c 0 64 + rnsSum (y.arows.getD r []) (pairB y.pair).comp y.bbytes c 0 64)

/-- A home performs its writes in arrival order, and lines, tags, skims and counters change as told (R62, R67, R88,
R90, R91, R92, R98, R104, R122, R310, R311, R347). A write on its way arrives once none of its lane that was sent before it is
still on the way: it then stands behind those that have arrived, with T = max(that time, the line's horizon + 8 ns), or that
time where the line has no horizon. The first write to have arrived on a line, once the line's time has reached its T, is
performed: its bytes read so at the home, every other byte as before, the write has left the queue, the others stand, and its
completion time enters the writer's WCT: T, and for a host line the time at which it is performed. A write that is not the first
there on its line, or is not due, waits. A line's write-back sends its dirty bytes home, as poison in the granules that are
uncorrectable and then with an error record of kind 5, and drops it, and leaves a pinned line. A line leaves the device cache with
nothing else changed. A released row's granules get tag 0 and the row returns to the pool, its bytes unchanged. A finished skim of
value g leaves no granule of its core's rows and tiles, or of its vault, tagged g but in live allocations of g. Every access
counter is halved, its write mark kept. A vault's cache share changes only over units that hold no allocation. The memory
manager's allocation of units of a vault for a region takes the lowest free run under a fresh generation, and a size of 0 frees its
units there. That a write arrives at its first HOME_WRITE event is the model's reading (log entry 115); the lowest free run (log
entry 71) and the units' kind (log entry 121) are its choices. -/
def Obligations.HomesPerformWrites : Prop :=
  ((∀ (s : State) (i : Nat) (w : HomeWrite) (l : Nat), s.canonical → s.homeQ[i]? = some w → w.line = .here l → memoryUp s = true →
       w.hold = none → w.op = none → w.gen = none → (w.bytes.map Prod.fst).Nodup → s.ops = [] →
       let now := lineTime s (.here l)
       let horizon := sget 0 s.horizons l
       (w.arrived = false →
         ((∃ x ∈ s.homeQ, x.id < w.id ∧ x.arrived = false ∧ sameLane x w = true) → exec (.homeWrite i) s = .next s) ∧
         ((∀ x ∈ s.homeQ, x.id < w.id → x.arrived = false → sameLane x w = false) → exec (.homeWrite i) s = .next { s with
           homeQ := s.homeQ.filter (fun x => x.id ≠ w.id) ++
             [{ w with arrived := true, due := if horizon = 0 then now else max now (horizon + 8) }] })) ∧
       (w.arrived = true → (∃ x ∈ s.homeQ.take i, x.line = w.line ∧ x.arrived = true) ∨ now < w.due → exec (.homeWrite i) s = .next s) ∧
       (w.arrived = true → (∀ x ∈ s.homeQ.take i, x.line = w.line → x.arrived = false) → w.due ≤ now → ∃ t, exec (.homeWrite i) s = .next t ∧
         (∀ b ∈ w.bytes, memRead t.mem (l * 128 + b.1) = b.2) ∧
         (∀ k, (∀ b ∈ w.bytes, k ≠ l * 128 + b.1) → memRead t.mem k = memRead s.mem k) ∧
         t.homeQ = s.homeQ.filter (fun x => x.id ≠ w.id) ∧ t.tags = s.tags ∧
         ∀ c, w.ctx = some c.id → getCtx s c.id = some c → getCtx t c.id = some { c with
           wct := max c.wct (if spaceOf (l * 128) = .host then max w.due now else w.due) })) ∧
     (∀ (k line : Nat) (bad : Bool) (s : State) (x : Line), (getCore s k).lines[line]? = some x → powered s = true → k < s.cores.length →
       (x.pinned = true → exec (.l1WriteBack k line bad) s = .next s) ∧
       (x.pinned = false → ∃ t, exec (.l1WriteBack k line bad) s = .next t ∧ t.mem = s.mem ∧
         findLine (getCore t k) x.asid x.mapgen x.line = none ∧ (x.dirty = 0 → t.homeQ = s.homeQ) ∧
         (x.dirty ≠ 0 →
           let half (h : Nat) : Bool := (x.bad.getLsbD h || bad) && x.dirtyBytes.any (fun b => b.1 / 64 = h)
           (∃ w, t.homeQ = s.homeQ ++ [w] ∧ w.line = x.line ∧ w.bytes = x.dirtyBytes ∧ ∀ h, h < 2 → w.poison.getLsbD h = half h) ∧
           t.errors = (if half 0 = false ∧ half 1 = false then s else poisonRecord s k x).errors))) ∧
     (∀ (line : Nat) (s : State), ∃ t, exec (.deviceCacheEviction line) s = .next t ∧ t = { s with dcache := t.dcache } ∧
       (sparseWf (0, false) s.dcache = true → ∀ l, sget (0, false) t.dcache l = if l = line then (0, false) else sget (0, false) s.dcache l))) ∧
  ((∀ (k row : Nat) (s : State), s.canonical → row < 8192 → k < s.cores.length → powered s = true → row ∈ (getCore s k).rewriting →
       ∃ t, exec (.tagRewrite k row) s = .next t ∧ t.mem = s.mem ∧ row ∉ (getCore t k).rewriting ∧
         (∀ x, (∃ off, off < 256 ∧ x = coreKey k (row * 256 + off)) → tagAt t x = 0) ∧
         (∀ x, (∀ off, off < 256 → x ≠ coreKey k (row * 256 + off)) → tagAt t x = tagAt s x)) ∧
     (∀ (g : Nat) (s : State) (v : BitVec 12) (r : List (BitVec 12)), s.canonical → g < 192 → g < s.cores.length → powered s = true →
       (getCore s g).skim = v :: r → ∃ t, exec (.skim g) s = .next t ∧ t.mem = s.mem ∧ (getCore t g).skim = r ∧
         (∀ off, off < coreStoreEnd → tagAt t (coreKey g off) =
           if tagAt s (coreKey g off) = v ∧ ownerGen (getCore s g).rows (off / 256) ≠ v then 0 else tagAt s (coreKey g off)) ∧
         ∀ x b, x < 256 → b < 2048 → tagAt t (tileKey g x b) =
           if tagAt s (tileKey g x b) = v ∧ ownerGen (getCore s g).tileRuns x ≠ v then 0 else tagAt s (tileKey g x b)) ∧
     (∀ (g : Nat) (s : State) (v : BitVec 12) (r : List (BitVec 12)), s.canonical → g < 48 → g < s.vaults.length → powered s = true →
       (getVault s g).skim = v :: r → ∃ t, exec (.skim (192 + g)) s = .next t ∧ t.mem = s.mem ∧ (getVault t g).skim = r ∧
         ∀ off, off < 2 ^ 24 → tagAt t (vaultKey g off) =
           if tagAt s (vaultKey g off) = v ∧ ownerGen (getVault s g).units (off / 65536) ≠ v then 0 else tagAt s (vaultKey g off)) ∧
     (∀ s : State, (s.time0 < s.halveAt → exec .accessCounterHalve s = .next s) ∧
       (s.halveAt ≤ s.time0 → ∃ t, exec .accessCounterHalve s = .next t ∧ t = { s with access := t.access, halveAt := s.halveAt + 1024000 } ∧
       (sparseWf (0, false) s.access = true → ∀ r, sget (0, false) t.access r =
         ((sget (0, false) s.access r).1 / 2, (sget (0, false) s.access r).2)))) ∧
     ∀ (v share : Nat) (s : State), v < 48 → v < s.vaults.length → share ∈ [0, 4, 8, 12] → powered s = true →
       ((∃ r ∈ (getVault s v).units, (16 - max (getVault s v).share share) * 16 < r.first + r.count) →
         exec (.cacheShareChange v share) s = .next s) ∧
       ((∀ r ∈ (getVault s v).units, r.first + r.count ≤ (16 - max (getVault s v).share share) * 16) →
         ∃ t, exec (.cacheShareChange v share) s = .next t ∧ t.mem = s.mem ∧ (getVault t v).share = share ∧
           (getVault t v).units = (getVault s v).units ∧ ∀ x ∈ t.dcache, x.2.1 ≠ v)) ∧
  ∀ (node v : Nat) (n : DWord) (s : State) (x : Node), getNode s node = some x → v < 48 → v < s.vaults.length → s.stage ≠ 0xFF →
    (n.toNat = 0 → ∃ t, exec (.registerWrite (.regionVault node v) n) s = .next t ∧
      (getVault t v).units = (getVault s v).units.filter (fun r => r.owner ≠ regionOwner node)) ∧
    (n.toNat ≠ 0 → (getVault s v).issueReady 1 = true →
      (freeVault (getVault s v) n.toNat = none → exec (.registerWrite (.regionVault node v) n) s = .next s) ∧
      ∀ u, freeVault (getVault s v) n.toNat = some u → ∃ t, exec (.registerWrite (.regionVault node v) n) s = .next t ∧
        (getVault t v).units = (getVault s v).units ++ [⟨u, n.toNat, (getVault s v).issueGen.1, 2, false, regionOwner node⟩])

/-- An address space changes between its accesses, and what a page fault stopped goes on once served (R98, R118, R130,
R137, R324, R329, R332, R333, R334, R352, R401). A change of an address space first marks it, then waits until nothing
translated under its generation is under way, then writes its dirty lines back, and then takes effect: the space is no
longer marked, no L1 line of the old generation is left, and no context holds a buffered store of it, since a region that held one
and was not at its commit is cancelled and replays (log entry 118), but where it has a fatal fault, has ended, or is on its way into
its trap segment. Its entry then holds the new table, and the map generation
is the next one and never 0. A region's migration or replication begins with the same mark, of a region under a level-1 leaf too (log entry 60); below its
threshold nothing happens, and without room, or where it may be neither migrated nor replicated, the counter returns to 0. The oldest batch of fault
records is passed. A group stopped by a page fault or by a retried peer replays once its batch is passed or its notice
has come, and no load, atomic or ACCRD of it is outstanding: it stands again at its checkpoint, with its paths and the
region length 0. A held atomic then issues again, and a context stopped at an absent word fetches again; before that
neither replay nor atomic moves. -/
def Obligations.SpacesAndReplays : Prop :=
  ((∀ (asid table : Nat) (edits : List (Nat × DWord)) (s : State), powered s = true →
       let a := BitVec.ofNat 16 asid
       (a ∉ s.changing → exec (.mapChange asid table edits) s = .next { s with changing := s.changing ++ [a] }) ∧
       (a ∈ s.changing → spaceQuiet s a = false → exec (.mapChange asid table edits) s = .next s) ∧
       (a ∈ s.changing → spaceQuiet s a = true → dirtyLines s a ≠ [] → ∃ t, exec (.mapChange asid table edits) s = .next t ∧
         t.mem = s.mem ∧ t.changing = s.changing ∧ dirtyLines t a = []) ∧
       (a ∈ s.changing → spaceQuiet s a = true → dirtyLines s a = [] → ∀ t,
         finishChange (writeEntries s edits) a (table % 2 ^ 52 / 65536 * 65536) = t →
         exec (.mapChange asid table edits) s = .next t ∧ a ∉ t.changing ∧
           (∀ c ∈ t.ctxs, c.buffers a = false ∨ c.mode = .faulted ∨ c.mode = .ended ∨ c.mode = .trap) ∧
           ∀ k ∈ t.cores, ∀ x ∈ k.lines, x.asid = a → x.mapgen ≠ astGen (writeEntries s edits) a)) ∧
     (∀ (s : State) (asid : BitVec 16) (table : Nat), s.canonical →
       let t := writeSpace s asid table (nextMapgen (astGen s asid))
       readWord t (t.astBase + 32 * asid.toNat) = BitVec.ofNat 32 table ∧
       readWord t (t.astBase + 32 * asid.toNat + 4) = BitVec.ofNat 32 (table / 2 ^ 32) ∧
       astGen t asid = nextMapgen (astGen s asid) ∧ nextMapgen (astGen s asid) ≠ 0) ∧
     ∀ (asid region frame free : Nat) (full : Bool) (s : State) (r : Nat), regionCounter s (BitVec.ofNat 16 asid) region = some r →
       powered s = true →
       let ps := remotePages s (BitVec.ofNat 16 asid) region
       let n := (sget (0, false) s.access r).1
       let wrote := (sget (0, false) s.access r).2
       let leaf := leafEntry s (BitVec.ofNat 16 asid) (region * 2 ^ 21)
       let frames := if leaf = none then 32 else 33
       let room := 4096 + frames < free ∧ (frame + frames) * 65536 ≤ hbmBytes
       let replicable := match leaf with
         | some e => e.2.getLsbD 5 = true
         | none => ∀ x ∈ ps, x.2.2.1.getLsbD 5 = true
       (n.toNat < (if full then 128 else 256) → exec (.regionMigrate asid region frame free full) s = .next s) ∧
       ((if full then 128 else 256) ≤ n.toNat → ¬ (room ∧ (wrote = true ∨ replicable)) →
         exec (.regionMigrate asid region frame free full) s = .next { s with access := sput (0, false) s.access r (0, wrote) }) ∧
       ((if full then 128 else 256) ≤ n.toNat → room → wrote = true ∨ replicable → BitVec.ofNat 16 asid ∉ s.changing →
         exec (.regionMigrate asid region frame free full) s = .next { s with changing := s.changing ++ [BitVec.ofNat 16 asid] })) ∧
  ((∀ (s : State) (b p : Nat) (r : List (Nat × Nat)), s.fqBatches = (b, p) :: r → powered s = true →
       exec .faultBatchServed s = .next { s with fqBatches := r, fqConsumed := p, inbound := s.inbound.filter (fun x => x.batch.all (p < ·)) }) ∧
     (∀ (s : State) (c : Ctx), getCtx s c.id = some c → powered s = true →
       let due := (∃ b, c.mode = .page b ∧ batchPassed s b = true) ∨ (∃ n, c.mode = .notice n ∧ ∀ r ∈ s.requests, r.id ≠ n)
       (¬ due → exec (.pageReplay c.id) s = .next s) ∧
       (due → c.longPending = true → exec (.pageReplay c.id) s = .next s) ∧
       (due → c.longPending = false → exec (.pageReplay c.id) s = .next
           { setCtx s c.restore with requests := s.requests.filter (fun r => !(r.ctx = c.id && r.asks)) } ∧
         c.restore.regionLen = 0 ∧ c.restore.mode = .run ∧ c.restore.run = c.ckpt.run ∧
         c.restore.paths.map PathEntry.pc = c.ckpt.paths.map PathEntry.pc)) ∧
     (∀ (s : State) (c : Ctx), getCtx s c.id = some c → powered s = true →
       let due := (∃ b, c.laneMode = .atomic b ∧ batchPassed s b = true) ∨
         (∃ n, c.laneMode = .notice n ∧ ∀ r ∈ s.requests, r.id = n → r.retry = false)
       (¬ due → exec (.atomicReissue c.id) s = .next s) ∧
       (due → exec (.atomicReissue c.id) s = .next (setCtx s { c with laneMode := .run }))) ∧
     ∀ (s : State) (c : Ctx) (b : Nat), getCtx s c.id = some c → powered s = true → batchPassed s b = true →
       (c.mode = .fetch b → ∃ x, exec (.fetchRetry c.id) s = .next (setCtx s x) ∧ x.mode = .run ∧ x.pc = c.pc) ∧
       (c.laneMode = .fetch b → ∃ x, exec (.fetchRetry c.id) s = .next (setCtx s x) ∧ x.laneMode = .run ∧ x.clauses = c.clauses))

/-- A launch is placed, its contexts end, its grid retires, a kill takes its domain (R28, R33, R50, R136, R155, R208, R226,
R341, R346, R355, R357, R360). A waiting launch stays while a self-test runs, or while one that could be placed or restored comes before it in the order of
R357. Otherwise: where it fits with its tokens, its grid comes into
being (a block grid with one context for the grid and for each cluster, block and group; a task grid with one context and a
task count of 1), and where it would not fit on an empty device either it closes as unplaceable. The next block of the first launch in that order that wants tokens takes its own all at once or none (log entry 73). A notified counter starts its launch. A launch that has
waited past LATTOL is late. A context that waits in its END, with no live child, ends: a cluster's leaves its parent, a
block's ends once its MMAs are done, a group's commits, releases and ends, and a task's first decrements its join record (or
nothing, where its link is 0), then ends and counts its grid's tasks one down. A grid's retirement writes the completion
record once, then for each successor reads its counter's address and adds −1 to the counter, then frees everything, and its
context is gone at the end (log entry 63); a task
grid's begins once its task count is 0. A kill of the oldest fatal fault acts on its launch's fault domain: the node is
marked killed with the code and the launch, no context of a launch beneath it is left, and each such launch closes with
status 2 and that code, or is gone where its completion record had been written; with no kill due, a closing launch alone on
the device gets its completion record. -/
def Obligations.LaunchLife : Prop :=
  (∀ (s : State) (x : Launch), getLaunch s x.id = some x → powered s = true →
     let goesFirst (wants : Launch → Bool) : Prop := ∃ y ∈ s.launches, y.id ≠ x.id ∧ wants y = true ∧ comesFirst s wants y x = true
     (x.stage = .waiting → goesFirst (able s) ∨ s.selftest ≠ none → exec (.placement x.id) s = .next s) ∧
     (x.stage = .waiting → s.selftest = none → ¬ goesFirst (able s) →
       (fits s x = none → fits (emptied s) x = none →
         exec (.placement x.id) s = .next (setLaunch s { x with stage := .closing 3 0 0 0, tokens := 0 })) ∧
       (fits s x = none → fits (emptied s) x ≠ none → exec (.placement x.id) s = .next s) ∧
       (∀ n, fits s x = some n → x.tokens < n → exec (.placement x.id) s = .next s) ∧
       (∀ n, fits s x = some n → n ≤ x.tokens → x.taskMode = true → (∀ k ∈ planTasks s x, (getCore s k.1).issueReady 1 = true) →
         exec (.placement x.id) s = .next (placeTasks s x (planTasks s x)) ∧
         ∃ g l, (placeTasks s x (planTasks s x)).ctxs = s.ctxs ++ [g] ∧ g.level = 4 ∧ g.launch = x.id ∧ g.parent = none ∧
           getLaunch (placeTasks s x (planTasks s x)) x.id = some l ∧ l.stage = .placed ∧ l.tasks = 1) ∧
       (∀ n p, fits s x = some n → n ≤ x.tokens → x.taskMode = false → planGrid s x = some p → gensReady s x p = true →
         exec (.placement x.id) s = .next (placeGrid s { x with tokens := n } p) ∧
         (placeGrid s { x with tokens := n } p).ctxs.length =
           s.ctxs.length + 1 + p.held.length + p.blocks.length + (p.blocks.map (fun b => b.groups.length)).sum ∧
         ∃ l, getLaunch (placeGrid s { x with tokens := n } p) x.id = some l ∧ l.stage = .placed ∧ l.tokens = n)) ∧
     (¬ goesFirst (fun y => tokensWanted s y ≠ 0) →
       let n := nextTokens x.tokens (tokenBlocks s x) 0
       (n ≠ 0 → n ≤ tokensFree s → exec (.tokenGrant x.id) s = .next (setLaunch s { x with tokens := x.tokens + n })) ∧
       (n = 0 ∨ tokensFree s < n → exec (.tokenGrant x.id) s = .next s)) ∧
     (∀ r, s.notes = x.id :: r → x.stage = .depend →
       exec .depNotification s = .next (setLaunch { s with notes := r } { x with stage := .waiting, since := s.time0 })) ∧
     (x.stage = .waiting → exec (.lattolExpiry x.id) s =
       .next (if x.since + effLattol (chainOf s x) * 1000 < s.time0 then setLaunch s { x with late := true } else s))) ∧
  (∀ (bs : List Nat) (i : Nat), (∀ b ∈ bs, 0 < b) → i < bs.length → nextTokens ((bs.take i).sum) bs 0 = bs.getD i 0) ∧
  ((∀ (s : State) (x : Ctx), getCtx s x.id = some x → x.mode = .ending → children s x = [] → powered s = true →
       (x.isGroup = false → x.level = 3 → exec (.contextEnd x.id) s = .next (dropCtx s x)) ∧
       (x.isGroup = false → x.level = 2 → matrixDone s x = true → exec (.contextEnd x.id) s = .next (endBlock s x)) ∧
       (x.isGroup = false → x.level = 4 → ∀ l, getLaunch s x.launch = some l → taskMode s x = false →
         exec (.contextEnd x.id) s = .next (retireGrid s x l)) ∧
       (x.isGroup = true → x.laneIdle = true → x.phase ≠ 1 → ∀ s1 c1 c2, commit s x = (s1, true) → getCtx s1 x.id = some c1 →
         let s2 := if scalarSent s1 x then s1 else released s1 c1 4
         scalarSent s1 x = true ∨ ReleaseDone s1 c1 4 → getCtx s2 x.id = some c2 →
         (x.task = false → exec (.contextEnd x.id) s = .next (endGroup s2 c2)) ∧
         (x.task = true → c2.join = 0 → exec (.contextEnd x.id) s = .next (modCtx s2 x.id (fun y => { y with phase := 1 }))) ∧
         (x.task = true → c2.join ≠ 0 → c2.owing = none → ∀ p pin s3 push, joinPlace s2 c2 c2.join = .ok p true pin →
           s2.changing.contains ((getLaunch s2 c2.launch).elim 0 Launch.asid) = false → joinDecrement s2 c2 c2.join = .ok (s3, push) →
           exec (.contextEnd x.id) s = .next (modCtx s3 x.id (fun y => { y with phase := 1, pushing := push })))) ∧
       (x.isGroup = true → x.laneIdle = true → x.phase = 1 → x.pushing = none →
         exec (.contextEnd x.id) s = .next (addTask (endGroup s x) x.launch (· - 1)))) ∧
     (∀ (s : State) (l : Launch) (g : Ctx), getLaunch s l.id = some l → gridOf s l.id = some g → powered s = true → taskMode s g = true →
       g.mode = .ending → l.gridEnd = true →
       (l.tasks = 0 → exec (.gridRetire l.id) s = .next (retireGrid s g l)) ∧ (l.tasks ≠ 0 → exec (.gridRetire l.id) s = .next s)) ∧
     ∀ (s : State) (g : Ctx) (l : Launch), g.owing = none → let n := bits (l.words.getD 41 0) 3 0
       (g.phase = 0 → ∀ s1, writeCompletion s l g.die 1 0 0 0 = some s1 → retireGrid s g l = modCtx s1 g.id (fun y => { y with phase := 1 })) ∧
       (0 < g.phase → g.phase ≤ 2 * n → s.changing.contains l.asid = false →
         (g.phase % 2 = 1 → ∀ a s1, depAddress s g l ((g.phase - 1) / 2) = .done (a, s1) →
           retireGrid s g l = modCtx s1 g.id (fun y => { y with join := a, phase := g.phase + 1 })) ∧
         (g.phase % 2 = 0 → ∀ s1, depAdd s g l.asid g.join = .done s1 →
           retireGrid s g l = modCtx s1 g.id (fun y => { y with phase := g.phase + 1 }))) ∧
       (∀ addr k w pin, walk s l.asid addr = .ok (.here k) w pin → lineReady s none (k / 128) = true → s.canonical →
         ∃ t, depAdd s g l.asid addr = .done t ∧ readWord t k = readWord s k - 1) ∧
       (2 * n < g.phase → ∃ t, retireGrid s g l = t ∧ getLaunch t l.id = none ∧ getCtx t g.id = none ∧
         ∀ k, k < t.cores.length → ∀ r ∈ (getCore t k).rows, r.owner ≠ l.id)) ∧
  ((∀ (s : State) (k : Kill) (r : List Kill) (l : Launch) (n : Node), s.kills = k :: r → powered s = true → getLaunch s k.launch = some l →
       faultDomain (chainOf s l) = some n → getNode s n.addr = some n →
       ∃ t m, exec .kill s = .next t ∧ getNode t n.addr = some m ∧ m.killed = true ∧ m.kcode = k.code ∧ m.klaunch = l.addr ∧
         ∀ y ∈ beneath s n, (¬ ∃ a b c d, y.stage = .closing a b c d) → (∀ c ∈ t.ctxs, c.launch ≠ y.id) ∧
           (getLaunch s y.id = some y →
             (recorded s y.id = false → ∃ z, getLaunch t y.id = some z ∧ z.stage = .closing 2 k.code.toNat n.addr l.addr) ∧
             (recorded s y.id = true → getLaunch t y.id = none))) ∧
     (∀ (s : State) (l : Launch) (a b c d : Nat) (s1 : State), s.kills = [] → powered s = true → s.launches = [l] →
       l.stage = .closing a b c d → writeCompletion s l 0 a b c d = some s1 → exec .kill s = .next (recharge (dropLaunch s1 l.id))))

/-- A launch is saved and restored, a GROW deadlock is broken, and partitions swap their groups (R342, R343, R346,
R357, R361, R362, R363, R365). A launch that a late launch of higher priority needs gone, once it can be stopped, is
saved and leaves the device, released rows that are to rejoin their pool counting as free; a saved launch that can be placed
again is, unless one that could be placed or restored comes before it in the order of R357. On a core whose resident groups
all wait in GROW, as the last of them found that began to wait, or with no released row still to rejoin the pool, the youngest is saved at its GROW and its rows released (log
entry 72); it comes back with its V. A waiting active group gives its place to the oldest ready pending one, and one that has
aged to AGELIM displaces the group that entered first; a swap may come at any turn from then on (log entry 74). -/
def Obligations.PreemptionAndActiveSets : Prop :=
  (∀ (s : State) (v x : Launch), getLaunch s v.id = some v → powered s = true → launchStoppable s v.id = true → x ∈ s.launches →
      x.stage = .waiting → x.late = true → fits (rewritten s) x = none → (victimsOf s x).head? = some v →
      fits (rewritten (recharge ((victimsOf s x).foldl vacate s))) x ≠ none →
      ∃ t z, exec (.preemption v.id) s = .next t ∧ t = preempt s v ∧ (∀ c ∈ t.ctxs, c.launch ≠ v.id) ∧ getLaunch t v.id = some z ∧
        z.stage = .preempted ∧ z.tokens = 0 ∧ ∃ p ∈ t.saved, p.launch = v.id ∧
          p.parts.map (fun y => y.ctx.id) = (s.ctxs.filter (fun c => c.launch = v.id)).map Ctx.id) ∧
    (∀ (s : State) (l : Launch), getLaunch s l.id = some l → powered s = true →
      let goesFirst : Prop := ∃ y ∈ s.launches, y.id ≠ l.id ∧ able s y = true ∧ comesFirst s (able s) y l = true
      (∀ t, restorable s l = some t → ¬ goesFirst → exec (.restore l.id) s = .next t) ∧
      (restorable s l = none ∨ goesFirst → exec (.restore l.id) s = .next s)) ∧
    (∀ (s : State) (wants : Launch → Bool) (y x : Launch),
      (y.stage = .preempted → x.stage = .preempted → (comesFirst s wants y x = true ↔ y.moved < x.moved)) ∧
      (y.stage = .preempted → x.stage = .waiting → (comesFirst s wants y x = true ↔ prioOf s x ≤ prioOf s y)) ∧
      (y.stage = .waiting → x.stage = .waiting →
        (comesFirst s wants y x = true ↔ prioOf s x < prioOf s y ∨ prioOf s x = prioOf s y ∧ y.order < x.order))) ∧
    (∀ (s : State) (k : Nat) (c : Ctx) (rest : List Ctx), powered s = true → k < s.cores.length → getCtx s c.id = some c →
      sortBy (younger s) (residents s k) = c :: rest →
      (∀ x ∈ s.ctxs, x.isGroup = true → x.core = k → x.mode ≠ .evicted → ∃ g, x.growWaits = some g ∧ growTo s x g.2.1 = none) →
      quietCtx s c = true →
      ((getCore s k).rewriting ≠ [] → (getCore s k).growCheck = false → exec (.growDeadlock k) s = .next s) ∧
      ((getCore s k).rewriting = [] ∨ (getCore s k).growCheck = true →
      ∃ t y, exec (.growDeadlock k) s = .next t ∧ t.mem = s.mem ∧ getCtx t c.id = some y ∧ y.mode = .evicted ∧ y.vregs = c.vregs ∧
        (getCore t k).rows = (getCore s k).rows.filter (fun r => !(r.kind = 1 && r.owner = c.id)) ∧
        ∃ p, t.saved = s.saved ++ [p] ∧ p.launch = c.id)) ∧
    (∀ (s : State) (c : Ctx) (x : SavedLaunch) (p : Saved) (ps : List Saved) (t : State), powered s = true → getLaunch s c.id = none →
      getCtx s c.id = some c → c.mode = .evicted → s.saved.find? (fun y => y.launch = c.id) = some x → x.parts = p :: ps →
      restoreEvicted s c p = some t → exec (.restore c.id) s = .next t ∧
        ∃ y, getCtx t c.id = some y ∧ y.vregs = c.vregs ∧ y.mode = .run) ∧
    (∀ (s : State) (c p : Ctx), getCtx s c.id = some c → c.isGroup = true → powered s = true → nextPending s c = some p →
      (partitionActive s.ctxs c.core c.slot < 4 → exec (.activeSetSwap c.id) s = .next (enterActive s p.id)) ∧
      (4 ≤ partitionActive s.ctxs c.core c.slot → c.active = true → swapsOut s c = true →
        exec (.activeSetSwap c.id) s = .next (enterActive (leaveActive s c.id) p.id)) ∧
      (4 ≤ partitionActive s.ctxs c.core c.slot → c.active = false ∨ swapsOut s c = false → exec (.activeSetSwap c.id) s = .next s)) ∧
    ∀ (s : State) (c p e : Ctx) (r : List Ctx), getCtx s c.id = some c → c.isGroup = true → powered s = true → c.active = false →
      swapsOut s c = false → nextPending s c = some p →
      sortBy (fun (a b : Ctx) => a.entered < b.entered || (a.entered = b.entered && b.slot < a.slot))
        ((partition s c).filter (fun y => y.active)) = e :: r →
      (c.agelim.toNat ≤ c.pendAge.toNat → exec (.agelimSwap c.id) s = .next (enterActive (leaveActive s e.id) p.id)) ∧
      (c.pendAge.toNat < c.agelim.toNat → exec (.agelimSwap c.id) s = .next s)

/-- Doorbells, creation, destruction, slots, waking and parking (R120, R121, R353, R354, R386, R387, R383). A doorbell of an
active queue sets WPTR, whatever the supply; with more packets pending than the ring has it is a queue error of cause 4, and
WPTR stays; a sleeping queue wakes at once where its tolerance is 0 and otherwise has its deadline set anew. Of the queues that want one, the first in priority
order takes a free slot, or the slot of the lowest holder that it outranks. A sleeping queue wakes with the others that wait
once a deadline has come. A parked queue competes again once its batch is passed; one whose fault found no room for its
record writes it once there is room and it stands first in the line. While READY reads 1 a
well-formed creation reads the descriptor: out of range it gets STATUS 4 and no queue; otherwise an active, sleeping queue with a number that no queue has and no launch runs under. A destruction removes the queue at once; its launches go
on. The deadlines, WPTR after an error and the destruction at once are log entry 75's, the queue's number log entry 16's. -/
def Obligations.HostQueues : Prop :=
  ((∀ (v : DWord) (s : State) (q : HostQueue), getQueue s (v.toNat % 2 ^ 32) = some q → v.extractLsb' 48 16 = 0 → q.state = .active →
       let w : BitVec 16 := v.extractLsb' 32 16
       let n := (w - q.rptr).toNat
       (2 ^ q.log2n < n → exec (.doorbell v) s = .next (queueError s q 4) ∧ ∃ x, getQueue (queueError s q 4) q.qid = some x ∧
         x.state = .error ∧ x.wptr = q.wptr) ∧
       (n ≤ 2 ^ q.log2n → ∃ x, exec (.doorbell v) s = .next (setQueue s x) ∧ x.wptr = w ∧ x.rptr = q.rptr ∧ x.state = .active ∧
         x.slot = q.slot ∧ (q.asleep = false ∨ n = 0 → x.asleep = q.asleep ∧ x.deadline = q.deadline) ∧
         (q.asleep = true → n ≠ 0 → queueTol s q = 0 → x.asleep = false) ∧
         (q.asleep = true → n ≠ 0 → queueTol s q ≠ 0 → x.asleep = true ∧ x.deadline = some (s.time0 + queueTol s q)))) ∧
     (∀ (s : State) (x : HostQueue), getQueue s x.qid = some x → powered s = true → x.wantsSlot = true →
       (∀ y ∈ s.queues, y.wantsSlot = true → queueBefore s y x = false) →
       ((s.queues.filter (fun y => y.slot)).length < 128 → exec (.queueSlotTake x.qid) s = .next (setQueue s { x with slot := true })) ∧
       (128 ≤ (s.queues.filter (fun y => y.slot)).length → ∀ y, lowestHolder s = some y →
         (queuePrio s y < queuePrio s x →
           exec (.queueSlotTake x.qid) s = .next (setQueue (setQueue s { y with slot := false }) { x with slot := true })) ∧
         (queuePrio s x ≤ queuePrio s y → exec (.queueSlotTake x.qid) s = .next s))) ∧
     (∀ (s : State), powered s = true →
       ((∃ q ∈ s.queues, q.asleep = true ∧ ∃ t, q.deadline = some t ∧ t ≤ s.time0) → exec .queueWake s =
         .next { s with queues := (s.queues.map (fun q => if q.asleep && q.deadline.isSome then { q with asleep := false, deadline := none } else q)) }) ∧
       ((∀ q ∈ s.queues, q.asleep = true → ∀ t, q.deadline = some t → s.time0 < t) → exec .queueWake s = .next s)) ∧
     (∀ (s : State) (x : HostQueue), getQueue s x.qid = some x → powered s = true →
       (∀ b, x.parked = some b → x.owing = none →
         exec (.queueUnpark x.qid) s = .next (if batchPassed s b then setQueue s { x with parked := none } else s)) ∧
       ∀ va, x.owing = some va → let served := fqRoom s 1 = true ∨ fqServes s (.queue x.qid) 1 = true
         (¬ served → exec (.queueUnpark x.qid) s = .next (fqJoin (setQueue s { x with slot := false }) (.queue x.qid))) ∧
         (served → ∃ t b, exec (.queueUnpark x.qid) s =
           .next (setQueue t { x with slot := false, parked := some b, owing := none }) ∧ t.queues = s.queues))) ∧
  ((∀ (v : DWord) (s : State), v.toNat % 64 = 1 → s.ready = true → s.supply ≠ .retention true → s.supply ≠ .off →
       let desc := v.toNat / 64 * 64
       let ws := readWords s (hostKey desc) 16
       (descriptorBad ws = true → exec (.queueCreate v) s = .next (descStatus s desc 4 none)) ∧
       (descriptorBad ws = false → s.queues.length + s.launches.length < 65536 → ∃ t q, exec (.queueCreate v) s = .next t ∧ t.queues = s.queues ++ [q] ∧
         getQueue s q.qid = none ∧ (∀ l ∈ s.launches, l.queue ≠ q.qid) ∧ q.qid < 65536 ∧ q.desc = desc ∧ q.state = .active ∧ q.asleep = true ∧ q.rptr = 0 ∧ q.wptr = 0 ∧
         q.slot = false ∧ q.ring = pair64 (ws.getD 2 0) (ws.getD 3 0) ∧ q.region = pair64 (ws.getD 4 0) (ws.getD 5 0) ∧
         q.log2n = bits (ws.getD 1 0) 4 0 ∧ q.asid.toNat = bits (ws.getD 1 0) 31 16)) ∧
     ∀ (v : DWord) (s : State), v.toNat % 64 = 2 → s.supply ≠ .off → s.stage ≠ 0xFF →
       let desc := v.toNat / 64 * 64
       (∃ q ∈ s.queues, q.desc = desc) → ∃ t, exec (.queueDestroy v) s = .next t ∧
         t.queues = s.queues.filter (fun q => q.desc ≠ desc) ∧ t.launches = s.launches ∧ t.ctxs = s.ctxs)

/-- The parser takes a queue's next packet and does what its type says (R121, R134, R135, R155, R181, R353, R387, R388). Of
a queue that may be served, with no other queue's packet first: an unknown type, a reserved field or a misaligned address is
a queue error with its cause; a NOP is only taken; a WAIT is taken once its condition holds, and parks its queue at an
absent page; a SIGNAL is taken once every launch of the queue has its completion record, with its write made and its vector
raised where asked; a REGION's block is accepted, or rejected as a queue error of some cause (log entry 18). A LAUNCH: with its record, region block and
image read, a malformed record or region makes a launch that closes as malformed; a good one waits, or is published on its
counter where it is in sink mode, at once or, at a home that is not ready or a peer that has not answered, later. A taken packet moves RPTR by one modulo 65,536, and a queue with nothing pending sleeps
without its slot. -/
def Obligations.Packets : Prop :=
  (∀ (s : State) (x : HostQueue) (ws : List Word) (s1 : State), getQueue s x.qid = some x → servable s x = true →
     servedFirst s x = true → powered s = true → s.ready = true → s.selftest = none → parserRead s x.asid x.packetVa 16 = .words ws s1 →
     let run (i : Instr) (t : State) : Prop := exec i s = .next t
     let ty := packetType ws
     let bad := queueError s1 x (BitVec.ofNat 8 (packetCause ws))
     (4 < ty → packetCause ws = 1 ∧ run (.unknownPacket x.qid) bad) ∧
     (packetCause ws ≠ 0 → (ty = 0 → run (.nopPacket x.qid) bad) ∧ (ty = 1 → run (.launchPacket x.qid) bad) ∧
       (ty = 2 → run (.waitPacket x.qid) bad) ∧ (ty = 3 → run (.signalPacket x.qid) bad) ∧ (ty = 4 → run (.regionPacket x.qid) bad)) ∧
     (packetCause ws = 0 →
       (ty = 0 → run (.nopPacket x.qid) (takePacket s1 x)) ∧
       (ty = 2 → (∀ vs s2, parserRead s1 x.asid (packetAddr ws) 1 = .words vs s2 →
           (trywCond (packetArg ws) (vs.getD 0 0) (ws.getD 4 0) = true → run (.waitPacket x.qid) (takePacket s2 x)) ∧
           (trywCond (packetArg ws) (vs.getD 0 0) (ws.getD 4 0) = false → run (.waitPacket x.qid) s)) ∧
         (parserRead s1 x.asid (packetAddr ws) 1 = .absent → run (.waitPacket x.qid) (parkQueue s x (packetAddr ws)))) ∧
       (ty = 3 → ((∃ l ∈ s.launches, l.queue = x.qid ∧ recorded s l.id = false) → run (.signalPacket x.qid) s) ∧
         ((∀ l ∈ s.launches, l.queue = x.qid → recorded s l.id = true) → ∀ s2, signalWrite s s1 x ws = .done s2 → run (.signalPacket x.qid)
           (if (ws.getD 0 0).getLsbD 12 then raiseVector (takePacket s2 x) 4 else takePacket s2 x))) ∧
       (ty = 4 → ∀ bs s2, parserRead s1 x.asid (packetAddr ws) 32 = .words bs s2 →
         (nodeBad s2 bs = false → run (.regionPacket x.qid) (takePacket (recharge (acceptNode s2 x.asid (packetAddr ws) bs)) x)) ∧
         (nodeBad s2 bs = true → ∃ w s3, run (.regionPacket x.qid) (queueError s3 x w) ∧ s3.queues = s2.queues)))) ∧
  ((∀ (s : State) (x : HostQueue) (pk ws : List Word) (s0 s1 : State), getQueue s x.qid = some x → servable s x = true →
       servedFirst s x = true → powered s = true → s.ready = true → s.selftest = none →
       parserRead s x.asid x.packetVa 16 = .words pk s0 → packetType pk = 1 → packetCause pk = 0 →
       parserRead s0 x.asid (packetAddr pk) 64 = .words ws s1 →
       let bad (t : State) : State := takePacket (addLaunch t (newLaunch s1 x ws (packetAddr pk) [] (.closing 4 0 0 0))) x
       let node := pair64 (ws.getD 34 0) (ws.getD 35 0)
       let asid : BitVec 16 := BitVec.ofNat 16 (bits (ws.getD 0 0) 31 16)
       (recordBad ws = true → exec (.launchPacket x.qid) s = .next (bad s1)) ∧
       (recordBad ws = false → ∀ bs s2, parserRead s1 asid node 32 = .words bs s2 →
         (regionGood s2 bs = false → exec (.launchPacket x.qid) s = .next (bad s2)) ∧
         (regionGood s2 bs = true → ∀ image s3, parserRecords asid (pair64 (ws.getD 32 0) (ws.getD 33 0)) (bits (ws.getD 0 0) 15 8) s2 =
             .words image s3 →
           let t := acceptNode s3 asid node bs
           let l := newLaunch t x ws (packetAddr pk) image .waiting
           ((ws.getD 0 0).getLsbD 2 = false → exec (.launchPacket x.qid) s = .next (takePacket (addLaunch t l) x)) ∧
           ((ws.getD 0 0).getLsbD 2 = true → ∀ u, (publish s t l = .done u → exec (.launchPacket x.qid) s = .next (takePacket u x)) ∧
             (publish s t l = .later u → exec (.launchPacket x.qid) s = .next u))))) ∧
     ∀ (s : State) (x : HostQueue), getQueue s x.qid = some x → ∃ q, getQueue (takePacket s x) x.qid = some q ∧ q.rptr = x.rptr + 1 ∧
       q.wptr = x.wptr ∧ (x.wptr = x.rptr + 1 → q.asleep = true ∧ q.slot = false) ∧
       (x.wptr ≠ x.rptr + 1 → q.asleep = x.asleep ∧ q.slot = x.slot))

/-- Every step keeps memory and tags in canonical form (R83, R95, R99, R101). From every state whose memory and tags
are in canonical form (rising keys, no listed byte or tag equal to what an unlisted one reads as, log entry 3), a step
that answers a next state gives such a state. -/
def Obligations.MemoryStaysCanonical : Prop :=
  ∀ s t : State, s.canonical → step s = .next t → t.canonical

/-- SLOPE.WAVE and SLOPE.GAP follow SLOPE.LIMIT (R219, R368). Writing LIMIT = L to a cluster sets its WAVE and
GAP by the rule of R368, with the values of the table, leaves every other cluster and everything else as it was, and makes
each wave's rise per microsecond (groups times 0.02 A in GAP + 1 clk of 1/1050 microseconds) at most L hundredths of
an ampere whenever GAP is below 255; for LIMIT 400 waves are of 4 groups with GAP 20, so that by R219 each resumes 20 clk after
the one before. That the rise is reckoned over GAP + 1 clk is the model's reading of R368 (log entry 134): R219 has GAP clk between
waves, over which the bound does not hold. -/
def Obligations.SlopeLimits : Prop :=
  (∀ (cl : Nat) (lim : BitVec 16) (s : State), cl < s.clusters.length →
      let l := lim.toNat
      let w := if l = 0xFFFF then 64 else if l = 0 then 1 else min 64 (max 1 (l / 100))
      let g := if l = 0xFFFF then 0 else if l = 0 then 255 else min 255 ((w * 2100 + (l - 1)) / l - 1)
      ∃ t, exec (.slopeWrite cl lim) s = .next t ∧ t = { s with clusters := t.clusters } ∧
        (getCluster t cl).limit = lim ∧ (getCluster t cl).wave.toNat = w - 1 ∧ (getCluster t cl).gap.toNat = g ∧
        getCluster t cl = { getCluster s cl with limit := lim, wave := (getCluster t cl).wave, gap := (getCluster t cl).gap } ∧
        (∀ j, j ≠ cl → getCluster t j = getCluster s j) ∧
        (l ≠ 0xFFFF → g < 255 → w * 2 * 1050 ≤ l * (g + 1))) ∧
    slopeOf 0xFFFF = (64, 0) ∧ slopeOf 10000 = (64, 13) ∧ slopeOf 400 = (4, 20) ∧ slopeOf 50 = (1, 41) ∧ slopeOf 0 = (1, 255)

/-- Control registers, the power manager, supply loss, retention and the resume (R54, R351, R356, R366, R367, R369, R385, R396,
R397, R398, R400). The control registers store their clamped fields (log entry 108), and a refused device takes no such write; a
host read of DEVSTAT is answered and clears RETAINED. A draw above the cap lowers every slice at the highest ratio by one, or
MXLIM where all stand at 4; a draw under 95 % of it raises MXLIM, then the lowest ratios, unless a die last reported more than
100 degrees; a report that leaves one so lowers them whatever the draw (log entry 111). A droop is counted and moves no clock.
The churn runs only where FALL sets a limit, on the arrays idle when it starts; a microsecond after its last step fewer toggle,
or it ends, and its end is kept (log entries 109 and 127). A supply-loss warning, or heat of 115 degrees on either die, stops
issue, churn and self-test and notes the marker: the time of the die that the event names (die 0's for heat; log entry 109) and
up to 14 placed launches. Each further event is the sequence's next step, by the named die's time: the first and the fourth
change nothing; the second waits for copies to reach the end of their unit and leaves no dirty L1 line; the third waits for the
kills' records and for the writes on their way to HBM and cleans the device cache (log entry 77); the fifth seals the marker,
and retention begins. A step whose time has passed ends the sequence, with the marker sealed and MISSED naming it. While
unpowered a stream's turn does nothing. A thermal hold stands until both dies are below 90 degrees and operation 3 was written.
A resume with no lost cluster leaves every context, launch and byte; it clears the marker, sets RETAINED, raises vector 5, has
every port train again (log entry 78), and an abandoned self-test gets its record with STATUS 4 and the time of the loss, and
raises vector 3 (log entry 143). A lost cluster without launches
comes back with stores zero, tag 0, its cached lines dropped, the HBM granules of dirty ones poisoned. A failure of both rails
leaves nothing but host memory and the marker. -/
def Obligations.PowerAndSupply : Prop :=
  ((∀ s : State, exec .devstatRead s = .next { s with hostOut := some (devstat s), retained := false } ∧
       bits (devstat s) 23 16 = s.stage.toNat ∧ bits (devstat s) 7 7 = s.stfail.toNat ∧ bits (devstat s) 6 6 = s.retained.toNat ∧
       bits (devstat s) 5 5 = s.lost.toNat ∧ bits (devstat s) 4 4 = s.selftest.isSome.toNat ∧
       bits (devstat s) 0 0 = (if s.ready = true ∧ s.supply ≠ .retention true then 1 else 0)) ∧
     (∀ (s : State) (v : DWord) (r : RegTarget), s.stage = 0xFF → exec (.registerWrite r v) s = .next s) ∧
     (∀ (s : State) (v : DWord) (off c a : Nat), c < 48 → c < s.clusters.length → s.stage ≠ 0xFF →
       exec (.registerWrite (.bar0 off) v) s = .next s ∧
       (∃ t, exec (.registerWrite (.hostDebug a) v) s = .next t ∧ t = { s with hostDebug := t.hostDebug } ∧ (a ∈ t.hostDebug ↔ v ≠ 0) ∧
         ∀ b, b ≠ a → (b ∈ t.hostDebug ↔ b ∈ s.hostDebug)) ∧
       (∃ t, exec (.registerWrite .pwrslope v) s = .next t ∧ t = { s with fall := t.fall } ∧ t.fall.toNat = v.toNat / 65536 % 65536) ∧
       (∃ t, exec (.registerWrite .powerCap v) s = .next t ∧ t = { s with cap := t.cap } ∧ t.cap ≤ 1800 ∧ (v.toNat ≤ 1800 → t.cap = v.toNat)) ∧
       (∃ t, exec (.registerWrite .spaceTable v) s = .next t ∧ t = { s with astBase := t.astBase } ∧ t.astBase % 32 = 0 ∧
         t.astBase ≤ v.toNat % 2 ^ 52 ∧ v.toNat % 2 ^ 52 < t.astBase + 32) ∧
       (∃ t, exec (.registerWrite .faultBase v) s = .next t ∧ t = { s with fqBase := t.fqBase } ∧ t.fqBase % 32 = 0 ∧
         t.fqBase ≤ v.toNat % 2 ^ 52 ∧ v.toNat % 2 ^ 52 < t.fqBase + 32) ∧
       (∃ t, exec (.registerWrite .faultLog v) s = .next t ∧ t = { s with fqLog := t.fqLog } ∧ 8 ≤ t.fqLog ∧ t.fqLog ≤ 16 ∧
         (8 ≤ v.toNat → v.toNat ≤ 16 → t.fqLog = v.toNat)) ∧
       (∃ t, exec (.registerWrite (.exclude c) v) s = .next t ∧ t = { s with clusters := t.clusters } ∧
         getCluster t c = { getCluster s c with excluded := decide (v.toNat ≠ 0) } ∧ ∀ j, j ≠ c → getCluster t j = getCluster s j)) ∧
     (∀ (s : State) (v : Word) (k : Nat), k < s.cores.length →
       (∃ t, exec (.tokpoolWrite v) s = .next t ∧ t = { s with tokSize := t.tokSize } ∧ t.tokSize.toNat = min 192 (v.toNat % 256)) ∧
       (∃ t, exec (.slicectlWrite k v) s = .next t ∧ t = { s with cores := t.cores } ∧ mxlim (getCore t k).slice = min 8 (max 1 (mxlim v)) ∧
         (∀ i, i < 4 → ratio (getCore t k).slice i = min 8 (max 4 (ratio v i))) ∧ (getCore t k).slice.toNat < 2 ^ 20 ∧
         ∀ j, j ≠ k → getCore t j = getCore s j)) ∧
     (∀ (draw : Nat) (s : State), powered s = true → s.cores ≠ [] →
       (∀ k, k < s.cores.length → 1 ≤ mxlim (getCore s k).slice ∧ mxlim (getCore s k).slice ≤ 8 ∧
         ∀ i, i < 4 → 4 ≤ ratio (getCore s k).slice i ∧ ratio (getCore s k).slice i ≤ 8) →
       let sets (mx : Nat → Nat) (r : Nat → Nat) : Prop := ∃ t, exec (.powerCheck draw) s = .next t ∧ t = { s with cores := t.cores } ∧
         t.cores.length = s.cores.length ∧ ∀ k, k < s.cores.length → mxlim (getCore t k).slice = mx (mxlim (getCore s k).slice) ∧
           ∀ i, i < 4 → ratio (getCore t k).slice i = r (ratio (getCore s k).slice i)
       let isRatio (m : Nat) : Prop := ∃ k i, k < s.cores.length ∧ i < 4 ∧ ratio (getCore s k).slice i = m
       (s.cap < draw → (∀ m, isRatio m → (∀ x, isRatio x → x ≤ m) → 4 < m → sets id (fun x => if x = m then m - 1 else x)) ∧
         ((∀ x, isRatio x → x = 4) → sets (fun x => max 1 (x - 1)) id)) ∧
       (draw * 100 < s.cap * 95 → s.junction0 ≤ 100 → s.junction1 ≤ 100 → ((∃ k, k < s.cores.length ∧ mxlim (getCore s k).slice < 8) → sets (fun x => min 8 (x + 1)) id) ∧
         ((∀ k, k < s.cores.length → mxlim (getCore s k).slice = 8) →
           (∀ m, isRatio m → (∀ x, isRatio x → m ≤ x) → m < 8 → sets id (fun x => if x = m then m + 1 else x)) ∧
           ((∀ x, isRatio x → x = 8) → exec (.powerCheck draw) s = .next s))) ∧
       (draw ≤ s.cap → s.cap * 95 ≤ draw * 100 ∨ 100 < s.junction0 ∨ 100 < s.junction1 → exec (.powerCheck draw) s = .next s)) ∧
     (∀ (r : DieTemp) (draw : Nat) (s : State), powered s = true → let s1 := reported s r
       (100 < s1.junction0 ∨ 100 < s1.junction1 → s.cap < draw → exec (.thermalThrottle r) s = exec (.powerCheck draw) s1) ∧
       (s1.junction0 ≤ 100 → s1.junction1 ≤ 100 → exec (.thermalThrottle r) s = .next s1) ∧
       (s1.junction0 < 115 → s1.junction1 < 115 → exec (.thermalShutdown r) s = .next s1) ∧
       (115 ≤ s1.junction0 ∨ 115 ≤ s1.junction1 → ∃ u m, exec (.supplyLoss 0) s1 = .next u ∧ u.supply = .losing 0 m false ∧
         exec (.thermalShutdown r) s = .next { u with supply := .losing 0 m true })) ∧
     (∀ (cl : Nat) (on : Bool) (s : State), cl < s.clusters.length → ∃ t, exec (.droop cl on) s = .next t ∧ t = { s with clusters := t.clusters } ∧
       (getCluster t cl).stretched = on ∧ (getCluster t cl).droops = (getCluster s cl).droops + on.toNat) ∧
     ∀ (on : Bool) (s : State), let runs := on = true ∧ s.fall ≠ 0xFFFF ∧ powered s = true
       let ended (c : Churn) (t : State) : Prop := ∃ w n, t = { s with churn := none, churns := s.churns ++ [(c.since, s.time0 - c.since, w)], freeCtr := n }
       (runs → (s.churn = none → ∃ c, exec (.churn on) s = .next { s with churn := some c } ∧ c.since = s.time0 ∧ c.stepped = s.time0 ∧
           ∀ k, k ∈ c.arrays ↔ k < s.cores.length ∧ ∀ x ∈ (getCore s k).matq, x.started = false) ∧
         ∀ c, s.churn = some c → (s.time0 < c.stepped + 1000 → exec (.churn on) s = .next s) ∧
           (c.stepped + 1000 ≤ s.time0 → ∃ t, exec (.churn on) s = .next t ∧ (ended c t ∨ ∃ d, t = { s with churn := some d, freeCtr := t.freeCtr } ∧
             d.since = c.since ∧ d.stepped = s.time0 ∧ d.arrays.length < c.arrays.length ∧ ∀ k ∈ d.arrays, k ∈ c.arrays))) ∧
       (¬ runs → (s.churn = none → exec (.churn on) s = .next s) ∧ ∀ c, s.churn = some c → ∃ t, exec (.churn on) s = .next t ∧ ended c t)) ∧
  ((∀ (die : BitVec 1) (s : State), s.supply = .on → ∃ (m : Marker) (u : State), u = { s with churn := none, churns := u.churns, freeCtr := u.freeCtr } ∧
       (s.churn = none → u = s) ∧ exec (.supplyLoss die) s = .next { u with supply := .losing 0 m false, holdRelease := false, selftest := none, abandoned := (s.selftest.map (fun x => (x.1, x.2, dieTime s die))).or s.abandoned } ∧
       m.sealed = false ∧ m.missed = 0 ∧ m.time = dieTime s die ∧
       m.launches = ((s.launches.filter (fun l => l.stage == .placed)).map Launch.addr).take 14 ∧
       m.nlaunch = min 14 (s.launches.filter (fun l => l.stage == .placed)).length) ∧
     (∀ (die : BitVec 1) (s : State) (n : Nat) (m : Marker) (hold : Bool), s.supply = .losing n m hold → n < 5 →
       let by_ := [2000, 60000, 140000, 160000, 200000].getD n 0
       let inTime := dieTime s die ≤ m.time + by_
       let toHbm (w : HomeWrite) : Prop := w.hold = none ∧ ∃ l, w.line = .here l ∧ spaceOf (l * 128) = .hbm
       (¬ inTime → exec (.supplyLoss die) s = .next { s with
         supply := .retention hold, marker := { m with sealed := true, missed := BitVec.ofNat 4 (n + 1) } }) ∧
       (inTime → n = 0 ∨ n = 3 → exec (.supplyLoss die) s = .next { s with supply := .losing (n + 1) m hold }) ∧
       (inTime → n = 1 → (∃ o ∈ s.ops, opAtUnit s o = false) → exec (.supplyLoss die) s = .next s) ∧
       (inTime → n = 1 → (∀ o ∈ s.ops, opAtUnit s o = true) → ∃ t, exec (.supplyLoss die) s = .next t ∧ t.supply = .losing 2 m hold ∧
         (∀ k ∈ t.cores, ∀ x ∈ k.lines, x.dirty = 0) ∧
         (s.kills = [] → (∀ l ∈ s.launches, ∀ a b c d, l.stage ≠ .closing a b c d) → (∀ k ∈ s.cores, ∀ x ∈ k.matq, x.started = false) →
           (∀ k ∈ s.cores, ∀ x ∈ k.lines, x.dirty = 0) → t = { s with supply := .losing 2 m hold })) ∧
       (inTime → n = 2 → killsDone s = false → ∃ t, exec (.supplyLoss die) s = .next t ∧ t.supply = .losing 2 m hold) ∧
       (inTime → n = 2 → killsDone s = true → (∃ w ∈ s.homeQ, toHbm w) → exec (.supplyLoss die) s = .next s) ∧
       (inTime → n = 2 → killsDone s = true → (∀ w ∈ s.homeQ, ¬ toHbm w) → ∃ t, exec (.supplyLoss die) s = .next t ∧
         t = { s with supply := .losing 3 m hold, dcache := t.dcache } ∧ ∀ x ∈ t.dcache, x.2.2 = false) ∧
       (inTime → n = 4 → exec (.supplyLoss die) s = .next { s with supply := .retention hold, marker := { m with sealed := true } })) ∧
     (∀ (die : BitVec 1) (s : State), s.supply = .off ∨ (∃ h, s.supply = .retention h) → exec (.supplyLoss die) s = .next s) ∧
     (∀ (s : State) (id : Nat), powered s = false → s.turn = .ctrl id ∨ s.turn = .lane id → step s = .next (tick s)) ∧
     (∀ (v : DWord) (r : DieTemp) (lost : BitVec 48) (s : State), s.supply = .retention true →
       let s1 := reported s r
       let cool := s1.junction0 < 90 ∧ s1.junction1 < 90
       exec (.supplyResume lost) s = .next s ∧ (v ≠ 3 → exec (.thermalHoldRelease v r) s = .next s1) ∧
       (cool → exec (.thermalHoldRelease 3 r) s = .next { s1 with supply := .retention false, holdRelease := false }) ∧
       (¬ cool → exec (.thermalHoldRelease 3 r) s = .next { s1 with holdRelease := true }) ∧
       (s.holdRelease = true ∧ cool →
         exec (.thermalHoldTemperatureFall r) s = .next { s1 with supply := .retention false, holdRelease := false }) ∧
       (s.holdRelease = false ∨ ¬ cool → exec (.thermalHoldTemperatureFall r) s = .next s1))) ∧
  ((∀ (s : State), s.supply = .retention false → s.abandoned = none → ∃ t, exec (.supplyResume 0) s = .next t ∧ t.supply = .on ∧
       t = { s with supply := .on, marker := t.marker, retained := true, vectors := s.vectors ||| 32, ports := t.ports } ∧
       t.marker = ⟨false, 0, 0, 0, []⟩ ∧ t.ports.length = s.ports.length ∧
       ∀ p, p < s.ports.length → let x := s.ports.getD p Port.reset
         t.ports.getD p Port.reset = { x with state := if x.state = 0 then 1 else 3 }) ∧
     (∀ (s : State) (parts : BitVec 4) (addr e : Nat), s.supply = .retention false → s.abandoned = some (parts, addr, e) → s.canonical →
       ∃ t, exec (.supplyResume 0) s = .next t ∧ readWord t (hostKey addr) = BitVec.ofNat 32 (parts.toNat * 256 + 4) ∧
         readWord t (hostKey addr + 4) = BitVec.ofNat 32 e ∧ readWord t (hostKey addr + 8) = BitVec.ofNat 32 (e / 2 ^ 32) ∧
         t.stfail = false ∧ t.abandoned = none ∧ t.vectors = s.vectors ||| 40) ∧
     (∀ (cl : Nat) (lost : BitVec 48) (s : State), s.supply = .retention false → s.abandoned = none → cl < 48 →
       (∀ j, j < 48 → (lost.getLsbD j = true ↔ j = cl)) → (∀ l ∈ s.launches, onCluster s cl l = false) →
       s.errors.length < 1024 → ∃ t, exec (.supplyResume lost) s = .next t ∧ t.ctxs = s.ctxs ∧ t.launches = s.launches ∧
         (∀ k, inCluster cl k = true → memRead t.mem k = 0 ∧ tagAt t k = 0) ∧
         (s.canonical → ∀ k, inCluster cl k = false → memRead t.mem k = memRead s.mem k) ∧
         (∀ j off, j < 4 → off < coreStoreEnd → inCluster cl (coreKey (4 * cl + j) off) = true) ∧
         (∀ x ∈ t.dcache, x.2.1 ≠ cl) ∧
         (∀ x ∈ s.dcache, x.2.1 = cl → x.2.2 = true → 2 * x.1 ∈ t.poison ∧ 2 * x.1 + 1 ∈ t.poison) ∧ t.errors.length = s.errors.length + 1) ∧
     ∀ (s : State) (h : Bool), s.supply = .retention h → ∃ t, exec .auxiliaryRailFailure s = .next t ∧ t.supply = .off ∧ t.ctxs = [] ∧
       t.launches = [] ∧ t.queues = [] ∧ t.time0 = 0 ∧ t.marker = s.marker ∧ (∀ k, isHost k = false → memRead t.mem k = 0) ∧
       (s.canonical → ∀ k, isHost k = true → memRead t.mem k = memRead s.mem k))

/-- Reset, boot, measurements, the self-test, mailboxes, the error queue, a region's frames and a partner's retention (R53,
R107, R119, R133, R158, R389, R393, R394, R395, R397, R398). A cold reset ends every context and launch and starts times and
generation counters afresh. The boot goes by stages: the ROM runs, and LOST tells that the marker was sealed; a first stage
is loaded whose key stands in a slot not revoked, whose signature holds and whose version is not below the fused least, from
the source tried first or else the other, and with neither the boot is refused; the seven other cores' firmware is verified
the same way, and only then is the device ready. Each digest is recorded before its stage runs, the configuration's with the firmware's (log entry 112). The
first stage derives the attestation key from the fused secret; the measurements are returned in their order, signed with it (log
entry 145). A self-test is refused with STATUS 3 and PARTS 0 (log entry 76), at once, where a context exists, live or saved; else it runs
with the parts selected, all for 0, or ends as it starts where the supply is lost (log entry 143); one that runs is not disturbed. At its end every byte of the device is zero with tag 0 and every generation counter is 1,
failed lanes are retried, the record says what failed, STFAIL follows it, and vector 3 is raised. Host memory outside the
record is as before. A mailbox holds at most eight entries of sixteen words: the receiver's takes leave its oldest end, the sender's entry, if it has one, is appended where there is room, the receiver's interrupt stands while one of its mailboxes
has an entry, and no other mailbox changes. The error
handler takes the oldest records of the error queue, and the memory manager sets the HBM frames charged to a region (log
entry 100). A partner that signals retention makes a port that is not down pause. -/
def Obligations.BootAndSelfTest : Prop :=
  ((∀ s : State, ∃ t, exec .coldReset s = .next t ∧ t.ctxs = [] ∧ t.launches = [] ∧ t.queues = [] ∧ t.nodes = [] ∧ t.time0 = 0 ∧
       t.time1 = 0 ∧ t.stage = 0 ∧ t.ready = false ∧ t.marker = s.marker ∧ t.fuses = s.fuses ∧ t.attestKey = none ∧ (∀ k, k < 192 → (getCore t k).genNext = 1 ∧ (getCore t k).valid = []) ∧
       (∀ k, k < 48 → (getVault t k).genNext = 1) ∧ t.tags = []) ∧
     (∀ (img : BootImage) (s : State), powered s = true →
       let passes (x : SignedImage) : Prop := (∃ i, i < 4 ∧ s.fuses.revoked.getLsbD i = false ∧ s.fuses.keys[i]? = some x.key) ∧
         x.signed = true ∧ s.fuses.minVersion.toNat ≤ x.version.toNat
       let refused (o : Option SignedImage) : Prop := ∀ x, o = some x → ¬ passes x
       let loads (x : SignedImage) : Prop := exec (.boot img) s = .next { s with
         stage := 2, measurements := s.measurements ++ [x.digest], attestKey := some (Config.attestationKey s.fuses.secret) }
       (s.stage = 0 → exec (.boot img) s = .next { s with stage := 1, lost := s.marker.sealed, measurements := [Config.romDigest] }) ∧
       (s.stage = 1 → (∀ x, img.first = some x → passes x → loads x) ∧
         (refused img.first → (∀ x, img.second = some x → passes x → loads x) ∧
           (refused img.second → exec (.boot img) s = .next { s with stage := 0xFF }))) ∧
       (s.stage = 2 → (img.cores.length = 7 → (∀ x ∈ img.cores, passes x) → exec (.boot img) s =
           .next { s with stage := 3, measurements := s.measurements ++ [img.firmware, img.config] }) ∧
         ((∃ x ∈ img.cores, ¬ passes x) → exec (.boot img) s = .next s)) ∧
       (s.stage = 3 → exec (.boot img) s = .next { s with stage := 4, ready := true }) ∧
       (s.stage ∉ ([0, 1, 2, 3] : List (BitVec 8)) → exec (.boot img) s = .next s)) ∧
     ∀ s : State, exec .getMeasurements s = .next { s with
       spdmOut := s.measurements, spdmSig := s.attestKey.map (fun k => Config.signature k s.measurements) }) ∧
  ((∀ (v : DWord) (s : State), s.supply ≠ .off → s.stage ≠ 0xFF → s.canonical → s.selftest = none →
       let addr := v.toNat / 64 * 64
       let parts : BitVec 4 := v.extractLsb' 0 4
       (s.ctxs ≠ [] ∨ s.saved ≠ [] → ∃ t, exec (.selfTest v) s = .next t ∧ readWord t (hostKey addr) = 3 ∧ t = { s with mem := t.mem } ∧
         readWord t (hostKey addr + 4) = BitVec.ofNat 32 s.time0 ∧ readWord t (hostKey addr + 8) = BitVec.ofNat 32 (s.time0 / 2 ^ 32) ∧
         ∀ k, k < hostKey addr ∨ hostKey addr + 64 ≤ k → memRead t.mem k = memRead s.mem k) ∧
       (s.ctxs = [] → s.saved = [] → powered s = true → exec (.selfTest v) s =
         .next { s with selftest := some (if parts = 0 then 15 else parts, addr) }) ∧
       (s.ctxs = [] → s.saved = [] → powered s = false → s.abandoned = none → exec (.selfTest v) s =
         .next { s with abandoned := some (if parts = 0 then 15 else parts, addr, s.time0) })) ∧
     (∀ (v : DWord) (s : State), s.selftest ≠ none ∨ s.supply = .off ∨ s.stage = 0xFF → exec (.selfTest v) s = .next s) ∧
     ∀ (r : List Word) (s : State) (parts : BitVec 4) (addr : Nat), powered s = true → s.canonical → s.selftest = some (parts, addr) →
       addr + 64 ≤ 2 ^ 64 → ∃ t, exec (.selfTestEnd r) s = .next t ∧ t.selftest = none ∧ t.tags = [] ∧ t.vectors = s.vectors ||| 8 ∧
         (∀ k, isHost k = false → memRead t.mem k = 0) ∧
         (∀ k, isHost k = true → k < hostKey addr ∨ hostKey addr + 64 ≤ k → memRead t.mem k = memRead s.mem k) ∧
         (∀ k, k < s.cores.length → (getCore t k).genNext = 1 ∧ (getCore t k).valid = []) ∧
         (∀ k, k < s.vaults.length → (getVault t k).genNext = 1) ∧
         (∀ p ∈ t.ports, p.failed = 0) ∧
         (∀ j, j < 7 → readWord t (hostKey addr + 12 + 4 * j) = (testResults parts r).getD j 0) ∧
         (∀ j, j < 6 → readWord t (hostKey addr + 40 + 4 * j) = 0) ∧
         (t.stfail = true ↔ ∃ w ∈ testResults parts r, w ≠ 0) ∧
         readWord t (hostKey addr) = BitVec.ofNat 32 (parts.toNat * 256 + (if t.stfail then 2 else 1)) ∧
         (parts.getLsbD 0 = false → (testResults parts r).getD 0 0 = 0 ∧ (testResults parts r).getD 1 0 = 0) ∧
         (parts.getLsbD 1 = false → (testResults parts r).getD 2 0 = 0)) ∧
  ((∀ (src dst taken : Nat) (d : List Word) (s : State), src < 8 → dst < 8 → src ≠ dst → powered s = true →
       let left := (mailbox s src dst).drop taken
       ∃ t, exec (.mailboxSend src dst taken d) s = .next t ∧ t = { s with mailboxes := t.mailboxes } ∧
         (d ≠ [] → left.length < 8 → ∃ e, mailbox t src dst = left ++ [e] ∧ e.length = 16 ∧ (d.length = 16 → e = d)) ∧
         (d = [] ∨ 8 ≤ left.length → mailbox t src dst = left) ∧
         (mailboxInterrupt t dst = true ↔ ∃ m ∈ t.mailboxes, m.1 % 8 = dst ∧ m.2 ≠ []) ∧
         (mailbox t src dst ≠ [] → mailboxInterrupt t dst = true) ∧
         ∀ a b, a < 8 → b < 8 → (a ≠ src ∨ b ≠ dst) → mailbox t a b = mailbox s a b) ∧
     (∀ (n : DWord) (node : Nat) (s : State) (x : Node), getNode s node = some x → s.stage ≠ 0xFF →
       exec (.registerWrite .errorsTaken n) s = .next { s with errors := s.errors.drop n.toNat } ∧
       ∃ t y, exec (.registerWrite (.regionFrames node) n) s = .next t ∧ getNode t node = some y ∧ y.frames = n.toNat) ∧
     ∀ (p : Nat) (s : State), p < 18 → p < s.ports.length →
       ((s.ports.getD p Port.reset).state = 0 → exec (.partnerRetention p) s = .next s) ∧
       ((s.ports.getD p Port.reset).state ≠ 0 → ∃ t, exec (.partnerRetention p) s = .next t ∧ t = { s with ports := t.ports } ∧
         t.ports.getD p Port.reset = { s.ports.getD p Port.reset with state := 3 } ∧
         ∀ j, j ≠ p → t.ports.getD j Port.reset = s.ports.getD j Port.reset))

/-- What the host, peers, links and the debug port do to the device (R75, R105, R122, R320, R321, R323, R349, R352, R390, R391,
R392, R399). A host write lands at once at its home; no other byte or tag changes, and no lease, horizon, queue or L1 copy. A snoop of a host line writes its dirty bytes back, ending no lease. A peer's access of one line is performed here, a
read-modify-write as one step, or its fault is served here: a page is queued and the access kept, a failure is a link record (log entry 58). An answer waits for the earlier accesses of its hash lane and for a way to the peer that is up. It gives a request its bytes,
a read-modify-write its completion time, and a prefetch its pin; a posted write leaves the queue, and its time enters the writer's WCT. A retry leaves what only asked, a fetch, an engine's access, a posted write (log entry 99) and what an END or a later
step of JOINC asks, which writes the trap registers, waiting, is no answer to an atomic's own access (log entry 114), and rolls back the group of a scalar access or a load, until
the notice, which sends the request again or lets it be made again (log entry 57). A failure of what only asked is kept; any
other, or 200 ms without an answer, is a fatal fault, REMOTE or RTIMEOUT, of a prefetch none. A write to the host without
completion for as long is RTIMEOUT too, with WCT unchanged. A retried one's time runs on until its notice (log entry 110).
Sixteen replays of a flit pause its port, and so do failing lanes of a port that is up; a retraining counts once, adds its failed
lanes, and leaves the port at full width, at half (window and weight halved, cost doubled) or down. The host port's unrecovered error is a link record. A debug read changes only the port's answer: as owner a granule as its allocation reads it, with its tag; raw, where the launch
allows it, one tagged by the context's allocation, else a refusal with zero data; registers, ages and region length as they stand. Through BAR0 the host has the accesses of tenants whose policy
allows it (log entry 123). A debug write is as-owner, halt-on-break or the clearing of ECNT. -/
def Obligations.OutsideWorld : Prop :=
  ((∀ (addr : Nat) (d : List Byte) (s : State), s.canonical → addr + d.length ≤ hbmBytes ∨ hostKey 0 ≤ addr ∧ addr + d.length ≤ hostKey (2 ^ 64) →
       powered s = true → ∃ t, exec (.hostWrite addr d) s = .next t ∧ t = { s with mem := t.mem, poison := t.poison, dcache := t.dcache } ∧
         (∀ i, i < d.length → memRead t.mem (addr + i) = d.getD i 0) ∧
         ∀ k, k < addr ∨ addr + d.length ≤ k → memRead t.mem k = memRead s.mem k) ∧
     (∀ (line : Nat) (s : State), hostKey 0 ≤ line * 128 → line * 128 < hostKey (2 ^ 64) → powered s = true →
       (∀ k, k < s.cores.length → ((getCore s k).lines.map (fun x => (x.line, x.asid, x.mapgen))).Nodup) →
       ∃ t ws, exec (.hostSnoop line) s = .next t ∧ t.mem = s.mem ∧ t.ctxs = s.ctxs ∧ t.homeQ = s.homeQ ++ ws ∧
         (∀ w ∈ ws, w.line = .here line) ∧ (∀ k x, k < s.cores.length → x ∈ (getCore t k).lines → x.line = .here line → x.dirty = 0) ∧
         ∀ k a m p, k < s.cores.length →
           (findLine (getCore t k) a m p).map Line.leaseEnd = (findLine (getCore s k) a m p).map Line.leaseEnd) ∧
     ∀ (r : PeerAccess) (s : State), powered s = true → linkUp s r.peer = true → r.asid ∉ s.changing → r.va.toNat % 128 + r.size ≤ 128 →
       (r.rmw = none ∨ r.size = 4 ∧ r.va.toNat % 4 = 0) →
       let stale := r.mapgen ≠ 0 ∧ r.mapgen ≠ astGen s r.asid
       let write := r.data ≠ none ∨ r.rmw ≠ none
       let inside := r.va.toNat < 2 ^ 52 ∧ r.va.toNat + r.size ≤ 2 ^ 52
       let run (t : State) : Prop := exec (.inboundPeerAccess r) s = .next t
       (¬ inside → run (inboundError s r BOUNDS)) ∧
       let owed := ⟨r, none⟩ ∈ s.inbound
       (inside → owed ∨ walk s r.asid r.va.toNat = .absent → (¬ owed → stale → run (inboundError s r MAPGEN)) ∧
         (owed ∨ ¬ stale → fqRoom s 1 = true ∨ fqServes s (.inbound r) 1 = true → ∃ t b, run t ∧
           t.inbound = s.inbound.filter (fun x => x ≠ ⟨r, none⟩) ++ [⟨r, some b⟩] ∧ t.fqBatches = s.fqBatches ++ [(1, b)] ∧
           (s.errors.length < 1024 → t.errors.length = s.errors.length + 1)) ∧
         (owed ∨ ¬ stale → fqRoom s 1 = false → fqServes s (.inbound r) 1 = false → ∃ t, run t ∧
           t = { s with inbound := t.inbound, fqLine := t.fqLine } ∧ .inbound r ∈ t.fqLine ∧
           t.inbound = s.inbound.filter (fun x => x ≠ ⟨r, none⟩) ++ [⟨r, none⟩])) ∧
       ∀ p w pin, inside → ¬ owed → walk s r.asid r.va.toNat = .ok p w pin →
         (write → w = false → run (inboundError s r PERM)) ∧
         (¬ write ∨ w = true → stale → run (inboundError s r MAPGEN)) ∧
         (¬ stale → ¬ write ∨ w = true → ∀ k, p = .here k →
           let sound := ∀ i, i < r.size → poisonAt s (k + i) = false
           (r.data = none ∨ r.rmw ≠ none → ¬ sound → run (inboundError s r UE)) ∧
           (¬ write → sound → ∃ t, run t ∧ t = { s with dcache := t.dcache }) ∧
           (∀ v1 op x cmp, r.rmw = some (v1, op, x, cmp) → sound → s.canonical → ∃ t, run t ∧
             t = { s with mem := t.mem, poison := t.poison, dcache := t.dcache, access := t.access } ∧
             (∀ y, y < k ∨ (if op = 16 then k + 8 else k + 4) ≤ y → memRead t.mem y = memRead s.mem y) ∧
             (op < 16 → readWord t k = atomOp op v1 (readWord s k) x cmp) ∧
             (op = 16 → readWord t k = readWord s k - 1 ∧ readWord t (k + 4) =
               if readWord s k = 1 ∧ bits (readWord s (k + 4)) 1 0 < 2 then (readWord s (k + 4) &&& 0xFFFFFFFC) ||| 2 else readWord s (k + 4)) ∧
             (op = 17 → readWord t k = (readWord s k &&& 0xFFFFFFFC) ||| 1)) ∧
           (∀ d, r.rmw = none → r.data = some d → d.length = r.size → s.canonical → ∃ t, run t ∧
             t = { s with mem := t.mem, poison := t.poison, dcache := t.dcache, access := t.access } ∧
             (∀ i, i < d.length → memRead t.mem (k + i) = d.getD i 0) ∧
             ∀ x, x < k ∨ k + d.length ≤ x → memRead t.mem x = memRead s.mem x))) ∧
  ((∀ (s : State) (r : Request), s.requests.find? (fun x => x.id == r.id) = some r → powered s = true → r.answered = false →
       let asks := r.asks = true
       let rmw := ∃ v1 op steps, r.ask = .rmw v1 op steps
       let inOrder := linkUp s r.peer = true ∧ laneAhead s r.id r.peer r.addr = false
       (¬ inOrder → ∀ ans, exec (.remoteAnswer r.id ans) s = .next s) ∧
       (inOrder →
         (∀ d time, ∃ t x, exec (.remoteAnswer r.id (.done d time)) s = .next t ∧ t.mem = s.mem ∧
           t.requests.find? (fun y => y.id == r.id) = some x ∧ x.answer = some (answerBytes r d) ∧
           (¬ rmw → r.prefetches = false → t.ctxs = s.ctxs) ∧
           (∀ c, r.prefetches = true → getCtx s r.ctx = some c → ∃ y, getCtx t r.ctx = some y ∧ y = { c with pins := y.pins }) ∧ (∀ c, rmw → getCtx s r.ctx = some c →
             getCtx t r.ctx = some { c with wct := max c.wct time.toNat })) ∧
         (∀ code, asks → ∃ t x, exec (.remoteAnswer r.id (.failure code)) s = .next t ∧ t.ctxs = s.ctxs ∧
           t.requests.find? (fun y => y.id == r.id) = some x ∧ x.failed = true) ∧
         (atomicAccess s r = true → exec (.remoteAnswer r.id .retry) s = .next s) ∧
         (atomicAccess s r = false → asks ∨ r.ask = .fetch ∨ r.engine ≠ none → ∃ t x, exec (.remoteAnswer r.id .retry) s = .next t ∧ t.ctxs = s.ctxs ∧
           t.requests.find? (fun y => y.id == r.id) = some x ∧ x.retry = true)) ∧
       (∀ c, getCtx s r.ctx = some c → c.alive = true → r.engine = none →
         let ends (i : Instr) (code : Nat) : Prop := ∃ t y, exec i s = .next t ∧ getCtx t r.ctx = some y ∧ y.mode = .faulted ∧
           t.kills = s.kills ++ [⟨c.launch, BitVec.ofNat 8 code⟩] ∧ (∀ x ∈ t.requests, x.id ≠ r.id) ∧
           (c.isGroup = true → bits y.trapCause 7 0 = code)
         (inOrder → ¬ asks → ∀ code, ends (.remoteAnswer r.id (.failure code)) REMOTE) ∧
         (r.issued + 200000000 ≤ dieTime s c.die → (r.prefetches = false → ends (.rtimeout r.id) RTIMEOUT) ∧
           (r.prefetches = true → ∃ t x, exec (.rtimeout r.id) s = .next t ∧ t.ctxs = s.ctxs ∧ t.kills = s.kills ∧
             t.requests.find? (fun y => y.id == r.id) = some x ∧ x.failed = true)) ∧
         (dieTime s c.die < r.issued + 200000000 → exec (.rtimeout r.id) s = .next s) ∧
         (inOrder → ¬ asks → r.ask ≠ .fetch → c.holdsRequest r = false → atomicAccess s r = false →
           ∃ t x y, exec (.remoteAnswer r.id .retry) s = .next t ∧ getCtx t r.ctx = some y ∧
             y.mode = .notice r.id ∧ y.rsb = [] ∧ t.requests.find? (fun z => z.id == r.id) = some x ∧ x.retry = true) ∧
         (inOrder → ¬ asks → r.ask ≠ .fetch → c.holdsRequest r = true → atomicAccess s r = false → ∃ t x,
           exec (.remoteAnswer r.id .retry) s = .next t ∧
             getCtx t r.ctx = some (if c.isGroup then c.recordFault REMOTE r.lane r.pc 0 else c) ∧
             t.requests.find? (fun z => z.id == r.id) = some x ∧ x.retry = true))) ∧
     (∀ (s : State) (r : Request), s.requests.find? (fun x => x.id == r.id) = some r → powered s = true →
       let others := s.requests.filter (fun x => x.id ≠ r.id)
       let again := r.asks = false ∧ (r.ask = .fetch ∨ r.engine ≠ none ∨
         ∃ c, getCtx s r.ctx = some c ∧ (c.laneMode = .notice r.id ∨ c.holdsRequest r = true))
       (r.retry = false ∨ linkUp s r.peer = false → exec (.remoteResolutionNotice r.id) s = .next s) ∧
       (r.retry = true → linkUp s r.peer = true → again → ∃ now, exec (.remoteResolutionNotice r.id) s = .next { s with
         requests := others ++ [{ r with id := s.nextId, retry := false, issued := now }], nextId := s.nextId + 1 } ∧
         ∀ c, getCtx s r.ctx = some c → now = dieTime s c.die) ∧
       (r.retry = true → linkUp s r.peer = true → ¬ again → exec (.remoteResolutionNotice r.id) s = .next { s with requests := others })) ∧
     (∀ (s : State) (c : Ctx) (w : HomeWrite), (∀ r ∈ s.requests, r.id ≠ w.id) → postedWrite s w.id = none → hostWrite s w.id = some w →
       powered s = true → (w.hold = none ∧ w.op = none ∧ w.ctx = some c.id ∨ ∃ n, w.hold = some (.scalar c.id n)) → getCtx s c.id = some c → c.alive = true →
       (s.time0 < w.due + 200000000 → exec (.rtimeout w.id) s = .next s) ∧
       (w.due + 200000000 ≤ s.time0 → ∃ t y, exec (.rtimeout w.id) s = .next t ∧ getCtx t c.id = some y ∧ y.mode = .faulted ∧
         y.wct = c.wct ∧ t.homeQ = s.homeQ.filter (fun x => x.id ≠ w.id))) ∧
     ∀ (s : State) (w : HomeWrite) (peer : BitVec 12) (l : Nat) (d : List Byte) (time : DWord),
       (∀ r ∈ s.requests, r.id ≠ w.id) → s.homeQ.find? (fun x => x.id == w.id) = some w → w.line = .peer peer l → powered s = true → s.ops = [] →
       w.op = none → w.retry = false →
       (linkUp s peer = false ∨ laneAhead s w.id peer (l * 128) = true → exec (.remoteAnswer w.id (.done d time)) s = .next s) ∧
       (linkUp s peer = true → laneAhead s w.id peer (l * 128) = false →
         (∃ t, exec (.remoteAnswer w.id (.done d time)) s = .next t ∧ t.homeQ = s.homeQ.filter (fun x => x.id ≠ w.id) ∧
           t.mem = s.mem ∧ ∀ c, w.ctx = some c.id → getCtx s c.id = some c → getCtx t c.id = some { c with wct := max c.wct time.toNat }) ∧
         ∃ t, exec (.remoteAnswer w.id .retry) s = .next t ∧ t.ctxs = s.ctxs ∧
           t.homeQ = s.homeQ.map (fun x => if x.id = w.id then { x with retry := true } else x))) ∧
  ((∀ (p count : Nat) (s : State), p < 18 → p < s.ports.length → powered s = true → (s.ports.getD p Port.reset).state ≠ 0 →
       (count < 16 → exec (.flitReplay p count) s = .next s) ∧
       (16 ≤ count → ∃ t, exec (.flitReplay p count) s = .next t ∧ t = { s with ports := t.ports } ∧
         t.ports.getD p Port.reset = { s.ports.getD p Port.reset with state := 3 })) ∧
     (∀ (p : Nat) (failed : BitVec 8) (peer : BitVec 12) (s : State), p < 18 → p < s.ports.length → powered s = true →
       s.errors.length < 1024 →
       let x := s.ports.getD p Port.reset
       let f := x.failed ||| failed
       let low := f &&& 0x0F ≠ 0
       let high := f &&& 0xF0 ≠ 0
       (x.state = 2 → (failed = 0 → exec (.retrain p failed peer) s = .next s) ∧
         (failed ≠ 0 → ∃ t, exec (.retrain p failed peer) s = .next t ∧ t.ports.getD p Port.reset = { x with failed := f, state := 3 } ∧
           (∀ j, j ≠ p → t.ports.getD j Port.reset = s.ports.getD j Port.reset) ∧ t.errors.length = s.errors.length + 1 ∧
           t.ctxs = s.ctxs ∧ t.mem = s.mem)) ∧
       (x.state ≠ 2 → ∃ t y, exec (.retrain p failed peer) s = .next t ∧ t.ports.getD p Port.reset = y ∧ y.failed = f ∧ y.peer = peer ∧
         y.window = (if y.half then 1 else 2) ∧ y.weight = (if y.half then 1 else 2) ∧ y.cost = (if y.half then 2 else 1) ∧
         (x.state ≠ 0 → y.retrains.toNat = min 255 (x.retrains.toNat + 1)) ∧
         (low ∧ high → y.state = 0) ∧ (¬ (low ∧ high) → y.state = 2 ∧ (y.half = true ↔ low ∨ high)) ∧
         (∀ j, j ≠ p → t.ports.getD j Port.reset = s.ports.getD j Port.reset) ∧
         (failed = 0 → t.errors = s.errors) ∧ (failed ≠ 0 → t.errors.length = s.errors.length + 1) ∧ t.ctxs = s.ctxs ∧ t.mem = s.mem)) ∧
     (∀ s : State, exec (.pcieRecovery true) s = .next s ∧ (s.errors.length < 1024 → ∃ t r, exec (.pcieRecovery false) s = .next t ∧
       t = { s with errors := t.errors, vectors := t.vectors } ∧ t.errors = s.errors ++ [r] ∧ bits (r.getD 0 0) 31 24 = 7)) ∧
     (∀ (r : DebugAccess) (s : State), exec (.debugRead r) s = .next { s with debugOut := debugAnswer s r }) ∧
     (∀ (ctx kind g : Nat) (d : List Byte) (s : State),
       let refused : Option DebugData := some ⟨true, 0, List.replicate 64 0⟩
       (∀ k run, debugRun s ctx kind g = some (k, run) →
         debugAnswer s (.asOwner ctx kind g d) = some ⟨false, tagAt s (g * 64), readTagged s (g * 64) run.gen 64⟩) ∧
       (debugRun s ctx kind g = none → debugOther s ctx kind g = none → debugAnswer s (.asOwner ctx kind g d) = refused) ∧
       (∀ c l, getCtx s ctx = some c → getLaunch s c.launch = some l →
         let mine := tagAt s (g * 64) ≠ 0 ∧ tagAt s (g * 64) ∈ debugGens s ctx g
         (l.rawdbg = true → mine → debugAnswer s (.raw ctx g) = some ⟨false, tagAt s (g * 64), readBytes s (g * 64) 64⟩) ∧
         (l.rawdbg = false ∨ ¬ mine → debugAnswer s (.raw ctx g) = refused)) ∧
       (∀ c, getCtx s ctx = some c → debugAnswer s (.ages ctx) =
         some ⟨false, 0, (c.pendAge.toNat :: c.regionLen :: c.paths.map (fun p => p.age.toNat)).flatMap (leBytes 8)⟩) ∧
       ∀ k off, let shown (w : Word) : Option DebugData := some ⟨false, 0, wordBytes w⟩
         debugAnswer s (.register (.slicectl k)) = shown (getCore s k).slice ∧ debugAnswer s (.register .tokpool) = shown (tokpool s) ∧
         debugAnswer s (.register .pwrslope) = shown (pwrslope s) ∧ debugAnswer s (.register (.ecnt k)) = shown ((getCore s k).ce ++ (getCore s k).late) ∧
         debugAnswer s (.register (.bar0 0)) = shown (devstat s) ∧
         (off < 18 → debugAnswer s (.register (.bar0 (0x4000 + 4 * off))) = shown (portstat (s.ports.getD off Port.reset))) ∧
         (0 < off → off < 0x4000 → debugAnswer s (.register (.bar0 off)) = shown 0)) ∧
     (∀ (r : DebugAccess) (s : State),
       let allowed := s.stage ≠ 0xFF ∧ ∃ l t, debugLaunch s r = some l ∧ tenantOf s l = some t ∧ t ∈ s.hostDebug
       (allowed → debugAnswer s (.window r) = debugAnswer s r ∧ exec (.debugWrite (.window r)) s = exec (.debugWrite r) s) ∧
       (¬ allowed → debugAnswer s (.window r) = some ⟨true, 0, List.replicate 64 0⟩ ∧ exec (.debugWrite (.window r)) s = .next s)) ∧
     (∀ (ctx kind g k : Nat) (d : List Byte) (run : Run) (s : State), s.canonical → debugRun s ctx kind g = some (k, run) →
       (∀ r ∈ (getCore s k).rows, r.kind = 2 → r.gen ≠ run.gen) →
       d.length ≤ 64 → d ≠ [] → ∃ t, exec (.debugWrite (.asOwner ctx kind g d)) s = .next t ∧ tagAt t (g * 64) = run.gen ∧
         (∀ i, i < 64 → memRead t.mem (g * 64 + i) =
           if i < d.length then d.getD i 0 else if tagAt s (g * 64) = run.gen then memRead s.mem (g * 64 + i) else 0) ∧
         (∀ x, x / 64 ≠ g → memRead t.mem x = memRead s.mem x ∧ tagAt t x = tagAt s x) ∧ t.ctxs = s.ctxs) ∧
     (∀ (ctx kind g k : Nat) (d : List Byte) (on : Bool) (s : State),
       (debugRun s ctx kind g = none → debugOther s ctx kind g = none → exec (.debugWrite (.asOwner ctx kind g d)) s = .next s) ∧
       exec (.debugWrite (.raw ctx g)) s = .next s ∧ exec (.debugWrite (.context ctx)) s = .next s ∧
       (∀ r, exec (.debugWrite (.register r)) s = .next s) ∧
       (∀ c, getCtx s ctx = some c → exec (.debugWrite (.haltOnBreak ctx on)) s = .next (setCtx s { c with haltOnBreak := on })) ∧
       (k < s.cores.length → ∃ t, exec (.debugWrite (.clearEcnt k)) s = .next t ∧
         t = { s with cores := t.cores } ∧ getCore t k = { getCore s k with ce := 0, late := 0 } ∧ ∀ j, j ≠ k → getCore t j = getCore s j)))
end

