-- ==== Sys2Proof/Laws/State.lean ====
section
/-! SUPPORT. One lemma for each field and each update of a state or a context: what the update leaves as it was. -/

namespace Sys2Proof.Machine

/-! setCtx -/
@[simp] theorem setCtx_turn (s : State) (c : Ctx) : (setCtx s c).turn = s.turn := rfl
@[simp] theorem setCtx_steps (s : State) (c : Ctx) : (setCtx s c).steps = s.steps := rfl
@[simp] theorem setCtx_freeCtr (s : State) (c : Ctx) : (setCtx s c).freeCtr = s.freeCtr := rfl
@[simp] theorem setCtx_time0 (s : State) (c : Ctx) : (setCtx s c).time0 = s.time0 := rfl
@[simp] theorem setCtx_time1 (s : State) (c : Ctx) : (setCtx s c).time1 = s.time1 := rfl
@[simp] theorem setCtx_mem (s : State) (c : Ctx) : (setCtx s c).mem = s.mem := rfl
@[simp] theorem setCtx_tags (s : State) (c : Ctx) : (setCtx s c).tags = s.tags := rfl
@[simp] theorem setCtx_poison (s : State) (c : Ctx) : (setCtx s c).poison = s.poison := rfl
@[simp] theorem setCtx_launches (s : State) (c : Ctx) : (setCtx s c).launches = s.launches := rfl
@[simp] theorem setCtx_nodes (s : State) (c : Ctx) : (setCtx s c).nodes = s.nodes := rfl
@[simp] theorem setCtx_saved (s : State) (c : Ctx) : (setCtx s c).saved = s.saved := rfl
@[simp] theorem setCtx_cores (s : State) (c : Ctx) : (setCtx s c).cores = s.cores := rfl
@[simp] theorem setCtx_clusters (s : State) (c : Ctx) : (setCtx s c).clusters = s.clusters := rfl
@[simp] theorem setCtx_vaults (s : State) (c : Ctx) : (setCtx s c).vaults = s.vaults := rfl
@[simp] theorem setCtx_ops (s : State) (c : Ctx) : (setCtx s c).ops = s.ops := rfl
@[simp] theorem setCtx_homeQ (s : State) (c : Ctx) : (setCtx s c).homeQ = s.homeQ := rfl
@[simp] theorem setCtx_horizons (s : State) (c : Ctx) : (setCtx s c).horizons = s.horizons := rfl
@[simp] theorem setCtx_dcache (s : State) (c : Ctx) : (setCtx s c).dcache = s.dcache := rfl
@[simp] theorem setCtx_requests (s : State) (c : Ctx) : (setCtx s c).requests = s.requests := rfl
@[simp] theorem setCtx_inbound (s : State) (c : Ctx) : (setCtx s c).inbound = s.inbound := rfl
@[simp] theorem setCtx_orphans (s : State) (c : Ctx) : (setCtx s c).orphans = s.orphans := rfl
@[simp] theorem setCtx_kills (s : State) (c : Ctx) : (setCtx s c).kills = s.kills := rfl
@[simp] theorem setCtx_notes (s : State) (c : Ctx) : (setCtx s c).notes = s.notes := rfl
@[simp] theorem setCtx_nextId (s : State) (c : Ctx) : (setCtx s c).nextId = s.nextId := rfl
@[simp] theorem setCtx_astBase (s : State) (c : Ctx) : (setCtx s c).astBase = s.astBase := rfl
@[simp] theorem setCtx_changing (s : State) (c : Ctx) : (setCtx s c).changing = s.changing := rfl
@[simp] theorem setCtx_fqBase (s : State) (c : Ctx) : (setCtx s c).fqBase = s.fqBase := rfl
@[simp] theorem setCtx_fqLog (s : State) (c : Ctx) : (setCtx s c).fqLog = s.fqLog := rfl
@[simp] theorem setCtx_fqProduced (s : State) (c : Ctx) : (setCtx s c).fqProduced = s.fqProduced := rfl
@[simp] theorem setCtx_fqConsumed (s : State) (c : Ctx) : (setCtx s c).fqConsumed = s.fqConsumed := rfl
@[simp] theorem setCtx_fqSeq (s : State) (c : Ctx) : (setCtx s c).fqSeq = s.fqSeq := rfl
@[simp] theorem setCtx_fqBatches (s : State) (c : Ctx) : (setCtx s c).fqBatches = s.fqBatches := rfl
@[simp] theorem setCtx_fqLine (s : State) (c : Ctx) : (setCtx s c).fqLine = s.fqLine := rfl
@[simp] theorem setCtx_access (s : State) (c : Ctx) : (setCtx s c).access = s.access := rfl
@[simp] theorem setCtx_halveAt (s : State) (c : Ctx) : (setCtx s c).halveAt = s.halveAt := rfl
@[simp] theorem setCtx_errors (s : State) (c : Ctx) : (setCtx s c).errors = s.errors := rfl
@[simp] theorem setCtx_errOverflow (s : State) (c : Ctx) : (setCtx s c).errOverflow = s.errOverflow := rfl
@[simp] theorem setCtx_stage (s : State) (c : Ctx) : (setCtx s c).stage = s.stage := rfl
@[simp] theorem setCtx_stfail (s : State) (c : Ctx) : (setCtx s c).stfail = s.stfail := rfl
@[simp] theorem setCtx_retained (s : State) (c : Ctx) : (setCtx s c).retained = s.retained := rfl
@[simp] theorem setCtx_lost (s : State) (c : Ctx) : (setCtx s c).lost = s.lost := rfl
@[simp] theorem setCtx_selftest (s : State) (c : Ctx) : (setCtx s c).selftest = s.selftest := rfl
@[simp] theorem setCtx_abandoned (s : State) (c : Ctx) : (setCtx s c).abandoned = s.abandoned := rfl
@[simp] theorem setCtx_ready (s : State) (c : Ctx) : (setCtx s c).ready = s.ready := rfl
@[simp] theorem setCtx_vectors (s : State) (c : Ctx) : (setCtx s c).vectors = s.vectors := rfl
@[simp] theorem setCtx_queues (s : State) (c : Ctx) : (setCtx s c).queues = s.queues := rfl
@[simp] theorem setCtx_ports (s : State) (c : Ctx) : (setCtx s c).ports = s.ports := rfl
@[simp] theorem setCtx_cap (s : State) (c : Ctx) : (setCtx s c).cap = s.cap := rfl
@[simp] theorem setCtx_mailboxes (s : State) (c : Ctx) : (setCtx s c).mailboxes = s.mailboxes := rfl
@[simp] theorem setCtx_measurements (s : State) (c : Ctx) : (setCtx s c).measurements = s.measurements := rfl
@[simp] theorem setCtx_fuses (s : State) (c : Ctx) : (setCtx s c).fuses = s.fuses := rfl
@[simp] theorem setCtx_attestKey (s : State) (c : Ctx) : (setCtx s c).attestKey = s.attestKey := rfl
@[simp] theorem setCtx_hostDebug (s : State) (c : Ctx) : (setCtx s c).hostDebug = s.hostDebug := rfl
@[simp] theorem setCtx_tokSize (s : State) (c : Ctx) : (setCtx s c).tokSize = s.tokSize := rfl
@[simp] theorem setCtx_fall (s : State) (c : Ctx) : (setCtx s c).fall = s.fall := rfl
@[simp] theorem setCtx_churn (s : State) (c : Ctx) : (setCtx s c).churn = s.churn := rfl
@[simp] theorem setCtx_churns (s : State) (c : Ctx) : (setCtx s c).churns = s.churns := rfl
@[simp] theorem setCtx_junction0 (s : State) (c : Ctx) : (setCtx s c).junction0 = s.junction0 := rfl
@[simp] theorem setCtx_junction1 (s : State) (c : Ctx) : (setCtx s c).junction1 = s.junction1 := rfl
@[simp] theorem setCtx_supply (s : State) (c : Ctx) : (setCtx s c).supply = s.supply := rfl
@[simp] theorem setCtx_holdRelease (s : State) (c : Ctx) : (setCtx s c).holdRelease = s.holdRelease := rfl
@[simp] theorem setCtx_marker (s : State) (c : Ctx) : (setCtx s c).marker = s.marker := rfl
@[simp] theorem setCtx_debugOut (s : State) (c : Ctx) : (setCtx s c).debugOut = s.debugOut := rfl
@[simp] theorem setCtx_hostOut (s : State) (c : Ctx) : (setCtx s c).hostOut = s.hostOut := rfl
@[simp] theorem setCtx_spdmOut (s : State) (c : Ctx) : (setCtx s c).spdmOut = s.spdmOut := rfl
@[simp] theorem setCtx_spdmSig (s : State) (c : Ctx) : (setCtx s c).spdmSig = s.spdmSig := rfl
@[simp] theorem setCtx_skimStalls (s : State) (c : Ctx) : (setCtx s c).skimStalls = s.skimStalls := rfl

/-! setCore -/
@[simp] theorem setCore_turn (s : State) (k : Nat) (c : Core) : (setCore s k c).turn = s.turn := rfl
@[simp] theorem setCore_steps (s : State) (k : Nat) (c : Core) : (setCore s k c).steps = s.steps := rfl
@[simp] theorem setCore_freeCtr (s : State) (k : Nat) (c : Core) : (setCore s k c).freeCtr = s.freeCtr := rfl
@[simp] theorem setCore_time0 (s : State) (k : Nat) (c : Core) : (setCore s k c).time0 = s.time0 := rfl
@[simp] theorem setCore_time1 (s : State) (k : Nat) (c : Core) : (setCore s k c).time1 = s.time1 := rfl
@[simp] theorem setCore_mem (s : State) (k : Nat) (c : Core) : (setCore s k c).mem = s.mem := rfl
@[simp] theorem setCore_tags (s : State) (k : Nat) (c : Core) : (setCore s k c).tags = s.tags := rfl
@[simp] theorem setCore_poison (s : State) (k : Nat) (c : Core) : (setCore s k c).poison = s.poison := rfl
@[simp] theorem setCore_ctxs (s : State) (k : Nat) (c : Core) : (setCore s k c).ctxs = s.ctxs := rfl
@[simp] theorem setCore_launches (s : State) (k : Nat) (c : Core) : (setCore s k c).launches = s.launches := rfl
@[simp] theorem setCore_nodes (s : State) (k : Nat) (c : Core) : (setCore s k c).nodes = s.nodes := rfl
@[simp] theorem setCore_saved (s : State) (k : Nat) (c : Core) : (setCore s k c).saved = s.saved := rfl
@[simp] theorem setCore_clusters (s : State) (k : Nat) (c : Core) : (setCore s k c).clusters = s.clusters := rfl
@[simp] theorem setCore_vaults (s : State) (k : Nat) (c : Core) : (setCore s k c).vaults = s.vaults := rfl
@[simp] theorem setCore_ops (s : State) (k : Nat) (c : Core) : (setCore s k c).ops = s.ops := rfl
@[simp] theorem setCore_homeQ (s : State) (k : Nat) (c : Core) : (setCore s k c).homeQ = s.homeQ := rfl
@[simp] theorem setCore_horizons (s : State) (k : Nat) (c : Core) : (setCore s k c).horizons = s.horizons := rfl
@[simp] theorem setCore_dcache (s : State) (k : Nat) (c : Core) : (setCore s k c).dcache = s.dcache := rfl
@[simp] theorem setCore_requests (s : State) (k : Nat) (c : Core) : (setCore s k c).requests = s.requests := rfl
@[simp] theorem setCore_inbound (s : State) (k : Nat) (c : Core) : (setCore s k c).inbound = s.inbound := rfl
@[simp] theorem setCore_orphans (s : State) (k : Nat) (c : Core) : (setCore s k c).orphans = s.orphans := rfl
@[simp] theorem setCore_kills (s : State) (k : Nat) (c : Core) : (setCore s k c).kills = s.kills := rfl
@[simp] theorem setCore_notes (s : State) (k : Nat) (c : Core) : (setCore s k c).notes = s.notes := rfl
@[simp] theorem setCore_nextId (s : State) (k : Nat) (c : Core) : (setCore s k c).nextId = s.nextId := rfl
@[simp] theorem setCore_astBase (s : State) (k : Nat) (c : Core) : (setCore s k c).astBase = s.astBase := rfl
@[simp] theorem setCore_changing (s : State) (k : Nat) (c : Core) : (setCore s k c).changing = s.changing := rfl
@[simp] theorem setCore_fqBase (s : State) (k : Nat) (c : Core) : (setCore s k c).fqBase = s.fqBase := rfl
@[simp] theorem setCore_fqLog (s : State) (k : Nat) (c : Core) : (setCore s k c).fqLog = s.fqLog := rfl
@[simp] theorem setCore_fqProduced (s : State) (k : Nat) (c : Core) : (setCore s k c).fqProduced = s.fqProduced := rfl
@[simp] theorem setCore_fqConsumed (s : State) (k : Nat) (c : Core) : (setCore s k c).fqConsumed = s.fqConsumed := rfl
@[simp] theorem setCore_fqSeq (s : State) (k : Nat) (c : Core) : (setCore s k c).fqSeq = s.fqSeq := rfl
@[simp] theorem setCore_fqBatches (s : State) (k : Nat) (c : Core) : (setCore s k c).fqBatches = s.fqBatches := rfl
@[simp] theorem setCore_fqLine (s : State) (k : Nat) (c : Core) : (setCore s k c).fqLine = s.fqLine := rfl
@[simp] theorem setCore_access (s : State) (k : Nat) (c : Core) : (setCore s k c).access = s.access := rfl
@[simp] theorem setCore_halveAt (s : State) (k : Nat) (c : Core) : (setCore s k c).halveAt = s.halveAt := rfl
@[simp] theorem setCore_errors (s : State) (k : Nat) (c : Core) : (setCore s k c).errors = s.errors := rfl
@[simp] theorem setCore_errOverflow (s : State) (k : Nat) (c : Core) : (setCore s k c).errOverflow = s.errOverflow := rfl
@[simp] theorem setCore_stage (s : State) (k : Nat) (c : Core) : (setCore s k c).stage = s.stage := rfl
@[simp] theorem setCore_stfail (s : State) (k : Nat) (c : Core) : (setCore s k c).stfail = s.stfail := rfl
@[simp] theorem setCore_retained (s : State) (k : Nat) (c : Core) : (setCore s k c).retained = s.retained := rfl
@[simp] theorem setCore_lost (s : State) (k : Nat) (c : Core) : (setCore s k c).lost = s.lost := rfl
@[simp] theorem setCore_selftest (s : State) (k : Nat) (c : Core) : (setCore s k c).selftest = s.selftest := rfl
@[simp] theorem setCore_abandoned (s : State) (k : Nat) (c : Core) : (setCore s k c).abandoned = s.abandoned := rfl
@[simp] theorem setCore_ready (s : State) (k : Nat) (c : Core) : (setCore s k c).ready = s.ready := rfl
@[simp] theorem setCore_vectors (s : State) (k : Nat) (c : Core) : (setCore s k c).vectors = s.vectors := rfl
@[simp] theorem setCore_queues (s : State) (k : Nat) (c : Core) : (setCore s k c).queues = s.queues := rfl
@[simp] theorem setCore_ports (s : State) (k : Nat) (c : Core) : (setCore s k c).ports = s.ports := rfl
@[simp] theorem setCore_cap (s : State) (k : Nat) (c : Core) : (setCore s k c).cap = s.cap := rfl
@[simp] theorem setCore_mailboxes (s : State) (k : Nat) (c : Core) : (setCore s k c).mailboxes = s.mailboxes := rfl
@[simp] theorem setCore_measurements (s : State) (k : Nat) (c : Core) : (setCore s k c).measurements = s.measurements := rfl
@[simp] theorem setCore_fuses (s : State) (k : Nat) (c : Core) : (setCore s k c).fuses = s.fuses := rfl
@[simp] theorem setCore_attestKey (s : State) (k : Nat) (c : Core) : (setCore s k c).attestKey = s.attestKey := rfl
@[simp] theorem setCore_hostDebug (s : State) (k : Nat) (c : Core) : (setCore s k c).hostDebug = s.hostDebug := rfl
@[simp] theorem setCore_tokSize (s : State) (k : Nat) (c : Core) : (setCore s k c).tokSize = s.tokSize := rfl
@[simp] theorem setCore_fall (s : State) (k : Nat) (c : Core) : (setCore s k c).fall = s.fall := rfl
@[simp] theorem setCore_churn (s : State) (k : Nat) (c : Core) : (setCore s k c).churn = s.churn := rfl
@[simp] theorem setCore_churns (s : State) (k : Nat) (c : Core) : (setCore s k c).churns = s.churns := rfl
@[simp] theorem setCore_junction0 (s : State) (k : Nat) (c : Core) : (setCore s k c).junction0 = s.junction0 := rfl
@[simp] theorem setCore_junction1 (s : State) (k : Nat) (c : Core) : (setCore s k c).junction1 = s.junction1 := rfl
@[simp] theorem setCore_supply (s : State) (k : Nat) (c : Core) : (setCore s k c).supply = s.supply := rfl
@[simp] theorem setCore_holdRelease (s : State) (k : Nat) (c : Core) : (setCore s k c).holdRelease = s.holdRelease := rfl
@[simp] theorem setCore_marker (s : State) (k : Nat) (c : Core) : (setCore s k c).marker = s.marker := rfl
@[simp] theorem setCore_debugOut (s : State) (k : Nat) (c : Core) : (setCore s k c).debugOut = s.debugOut := rfl
@[simp] theorem setCore_hostOut (s : State) (k : Nat) (c : Core) : (setCore s k c).hostOut = s.hostOut := rfl
@[simp] theorem setCore_spdmOut (s : State) (k : Nat) (c : Core) : (setCore s k c).spdmOut = s.spdmOut := rfl
@[simp] theorem setCore_spdmSig (s : State) (k : Nat) (c : Core) : (setCore s k c).spdmSig = s.spdmSig := rfl
@[simp] theorem setCore_skimStalls (s : State) (k : Nat) (c : Core) : (setCore s k c).skimStalls = s.skimStalls := rfl

/-! setVault -/
@[simp] theorem setVault_turn (s : State) (k : Nat) (v : Vault) : (setVault s k v).turn = s.turn := rfl
@[simp] theorem setVault_steps (s : State) (k : Nat) (v : Vault) : (setVault s k v).steps = s.steps := rfl
@[simp] theorem setVault_freeCtr (s : State) (k : Nat) (v : Vault) : (setVault s k v).freeCtr = s.freeCtr := rfl
@[simp] theorem setVault_time0 (s : State) (k : Nat) (v : Vault) : (setVault s k v).time0 = s.time0 := rfl
@[simp] theorem setVault_time1 (s : State) (k : Nat) (v : Vault) : (setVault s k v).time1 = s.time1 := rfl
@[simp] theorem setVault_mem (s : State) (k : Nat) (v : Vault) : (setVault s k v).mem = s.mem := rfl
@[simp] theorem setVault_tags (s : State) (k : Nat) (v : Vault) : (setVault s k v).tags = s.tags := rfl
@[simp] theorem setVault_poison (s : State) (k : Nat) (v : Vault) : (setVault s k v).poison = s.poison := rfl
@[simp] theorem setVault_ctxs (s : State) (k : Nat) (v : Vault) : (setVault s k v).ctxs = s.ctxs := rfl
@[simp] theorem setVault_launches (s : State) (k : Nat) (v : Vault) : (setVault s k v).launches = s.launches := rfl
@[simp] theorem setVault_nodes (s : State) (k : Nat) (v : Vault) : (setVault s k v).nodes = s.nodes := rfl
@[simp] theorem setVault_saved (s : State) (k : Nat) (v : Vault) : (setVault s k v).saved = s.saved := rfl
@[simp] theorem setVault_cores (s : State) (k : Nat) (v : Vault) : (setVault s k v).cores = s.cores := rfl
@[simp] theorem setVault_clusters (s : State) (k : Nat) (v : Vault) : (setVault s k v).clusters = s.clusters := rfl
@[simp] theorem setVault_ops (s : State) (k : Nat) (v : Vault) : (setVault s k v).ops = s.ops := rfl
@[simp] theorem setVault_homeQ (s : State) (k : Nat) (v : Vault) : (setVault s k v).homeQ = s.homeQ := rfl
@[simp] theorem setVault_horizons (s : State) (k : Nat) (v : Vault) : (setVault s k v).horizons = s.horizons := rfl
@[simp] theorem setVault_dcache (s : State) (k : Nat) (v : Vault) : (setVault s k v).dcache = s.dcache := rfl
@[simp] theorem setVault_requests (s : State) (k : Nat) (v : Vault) : (setVault s k v).requests = s.requests := rfl
@[simp] theorem setVault_inbound (s : State) (k : Nat) (v : Vault) : (setVault s k v).inbound = s.inbound := rfl
@[simp] theorem setVault_orphans (s : State) (k : Nat) (v : Vault) : (setVault s k v).orphans = s.orphans := rfl
@[simp] theorem setVault_kills (s : State) (k : Nat) (v : Vault) : (setVault s k v).kills = s.kills := rfl
@[simp] theorem setVault_notes (s : State) (k : Nat) (v : Vault) : (setVault s k v).notes = s.notes := rfl
@[simp] theorem setVault_nextId (s : State) (k : Nat) (v : Vault) : (setVault s k v).nextId = s.nextId := rfl
@[simp] theorem setVault_astBase (s : State) (k : Nat) (v : Vault) : (setVault s k v).astBase = s.astBase := rfl
@[simp] theorem setVault_changing (s : State) (k : Nat) (v : Vault) : (setVault s k v).changing = s.changing := rfl
@[simp] theorem setVault_fqBase (s : State) (k : Nat) (v : Vault) : (setVault s k v).fqBase = s.fqBase := rfl
@[simp] theorem setVault_fqLog (s : State) (k : Nat) (v : Vault) : (setVault s k v).fqLog = s.fqLog := rfl
@[simp] theorem setVault_fqProduced (s : State) (k : Nat) (v : Vault) : (setVault s k v).fqProduced = s.fqProduced := rfl
@[simp] theorem setVault_fqConsumed (s : State) (k : Nat) (v : Vault) : (setVault s k v).fqConsumed = s.fqConsumed := rfl
@[simp] theorem setVault_fqSeq (s : State) (k : Nat) (v : Vault) : (setVault s k v).fqSeq = s.fqSeq := rfl
@[simp] theorem setVault_fqBatches (s : State) (k : Nat) (v : Vault) : (setVault s k v).fqBatches = s.fqBatches := rfl
@[simp] theorem setVault_fqLine (s : State) (k : Nat) (v : Vault) : (setVault s k v).fqLine = s.fqLine := rfl
@[simp] theorem setVault_access (s : State) (k : Nat) (v : Vault) : (setVault s k v).access = s.access := rfl
@[simp] theorem setVault_halveAt (s : State) (k : Nat) (v : Vault) : (setVault s k v).halveAt = s.halveAt := rfl
@[simp] theorem setVault_errors (s : State) (k : Nat) (v : Vault) : (setVault s k v).errors = s.errors := rfl
@[simp] theorem setVault_errOverflow (s : State) (k : Nat) (v : Vault) : (setVault s k v).errOverflow = s.errOverflow := rfl
@[simp] theorem setVault_stage (s : State) (k : Nat) (v : Vault) : (setVault s k v).stage = s.stage := rfl
@[simp] theorem setVault_stfail (s : State) (k : Nat) (v : Vault) : (setVault s k v).stfail = s.stfail := rfl
@[simp] theorem setVault_retained (s : State) (k : Nat) (v : Vault) : (setVault s k v).retained = s.retained := rfl
@[simp] theorem setVault_lost (s : State) (k : Nat) (v : Vault) : (setVault s k v).lost = s.lost := rfl
@[simp] theorem setVault_selftest (s : State) (k : Nat) (v : Vault) : (setVault s k v).selftest = s.selftest := rfl
@[simp] theorem setVault_abandoned (s : State) (k : Nat) (v : Vault) : (setVault s k v).abandoned = s.abandoned := rfl
@[simp] theorem setVault_ready (s : State) (k : Nat) (v : Vault) : (setVault s k v).ready = s.ready := rfl
@[simp] theorem setVault_vectors (s : State) (k : Nat) (v : Vault) : (setVault s k v).vectors = s.vectors := rfl
@[simp] theorem setVault_queues (s : State) (k : Nat) (v : Vault) : (setVault s k v).queues = s.queues := rfl
@[simp] theorem setVault_ports (s : State) (k : Nat) (v : Vault) : (setVault s k v).ports = s.ports := rfl
@[simp] theorem setVault_cap (s : State) (k : Nat) (v : Vault) : (setVault s k v).cap = s.cap := rfl
@[simp] theorem setVault_mailboxes (s : State) (k : Nat) (v : Vault) : (setVault s k v).mailboxes = s.mailboxes := rfl
@[simp] theorem setVault_measurements (s : State) (k : Nat) (v : Vault) : (setVault s k v).measurements = s.measurements := rfl
@[simp] theorem setVault_fuses (s : State) (k : Nat) (v : Vault) : (setVault s k v).fuses = s.fuses := rfl
@[simp] theorem setVault_attestKey (s : State) (k : Nat) (v : Vault) : (setVault s k v).attestKey = s.attestKey := rfl
@[simp] theorem setVault_hostDebug (s : State) (k : Nat) (v : Vault) : (setVault s k v).hostDebug = s.hostDebug := rfl
@[simp] theorem setVault_tokSize (s : State) (k : Nat) (v : Vault) : (setVault s k v).tokSize = s.tokSize := rfl
@[simp] theorem setVault_fall (s : State) (k : Nat) (v : Vault) : (setVault s k v).fall = s.fall := rfl
@[simp] theorem setVault_churn (s : State) (k : Nat) (v : Vault) : (setVault s k v).churn = s.churn := rfl
@[simp] theorem setVault_churns (s : State) (k : Nat) (v : Vault) : (setVault s k v).churns = s.churns := rfl
@[simp] theorem setVault_junction0 (s : State) (k : Nat) (v : Vault) : (setVault s k v).junction0 = s.junction0 := rfl
@[simp] theorem setVault_junction1 (s : State) (k : Nat) (v : Vault) : (setVault s k v).junction1 = s.junction1 := rfl
@[simp] theorem setVault_supply (s : State) (k : Nat) (v : Vault) : (setVault s k v).supply = s.supply := rfl
@[simp] theorem setVault_holdRelease (s : State) (k : Nat) (v : Vault) : (setVault s k v).holdRelease = s.holdRelease := rfl
@[simp] theorem setVault_marker (s : State) (k : Nat) (v : Vault) : (setVault s k v).marker = s.marker := rfl
@[simp] theorem setVault_debugOut (s : State) (k : Nat) (v : Vault) : (setVault s k v).debugOut = s.debugOut := rfl
@[simp] theorem setVault_hostOut (s : State) (k : Nat) (v : Vault) : (setVault s k v).hostOut = s.hostOut := rfl
@[simp] theorem setVault_spdmOut (s : State) (k : Nat) (v : Vault) : (setVault s k v).spdmOut = s.spdmOut := rfl
@[simp] theorem setVault_spdmSig (s : State) (k : Nat) (v : Vault) : (setVault s k v).spdmSig = s.spdmSig := rfl
@[simp] theorem setVault_skimStalls (s : State) (k : Nat) (v : Vault) : (setVault s k v).skimStalls = s.skimStalls := rfl

/-! setCluster -/
@[simp] theorem setCluster_turn (s : State) (k : Nat) (c : Cluster) : (setCluster s k c).turn = s.turn := rfl
@[simp] theorem setCluster_steps (s : State) (k : Nat) (c : Cluster) : (setCluster s k c).steps = s.steps := rfl
@[simp] theorem setCluster_freeCtr (s : State) (k : Nat) (c : Cluster) : (setCluster s k c).freeCtr = s.freeCtr := rfl
@[simp] theorem setCluster_time0 (s : State) (k : Nat) (c : Cluster) : (setCluster s k c).time0 = s.time0 := rfl
@[simp] theorem setCluster_time1 (s : State) (k : Nat) (c : Cluster) : (setCluster s k c).time1 = s.time1 := rfl
@[simp] theorem setCluster_mem (s : State) (k : Nat) (c : Cluster) : (setCluster s k c).mem = s.mem := rfl
@[simp] theorem setCluster_tags (s : State) (k : Nat) (c : Cluster) : (setCluster s k c).tags = s.tags := rfl
@[simp] theorem setCluster_poison (s : State) (k : Nat) (c : Cluster) : (setCluster s k c).poison = s.poison := rfl
@[simp] theorem setCluster_ctxs (s : State) (k : Nat) (c : Cluster) : (setCluster s k c).ctxs = s.ctxs := rfl
@[simp] theorem setCluster_launches (s : State) (k : Nat) (c : Cluster) : (setCluster s k c).launches = s.launches := rfl
@[simp] theorem setCluster_nodes (s : State) (k : Nat) (c : Cluster) : (setCluster s k c).nodes = s.nodes := rfl
@[simp] theorem setCluster_saved (s : State) (k : Nat) (c : Cluster) : (setCluster s k c).saved = s.saved := rfl
@[simp] theorem setCluster_cores (s : State) (k : Nat) (c : Cluster) : (setCluster s k c).cores = s.cores := rfl
@[simp] theorem setCluster_vaults (s : State) (k : Nat) (c : Cluster) : (setCluster s k c).vaults = s.vaults := rfl
@[simp] theorem setCluster_ops (s : State) (k : Nat) (c : Cluster) : (setCluster s k c).ops = s.ops := rfl
@[simp] theorem setCluster_homeQ (s : State) (k : Nat) (c : Cluster) : (setCluster s k c).homeQ = s.homeQ := rfl
@[simp] theorem setCluster_horizons (s : State) (k : Nat) (c : Cluster) : (setCluster s k c).horizons = s.horizons := rfl
@[simp] theorem setCluster_dcache (s : State) (k : Nat) (c : Cluster) : (setCluster s k c).dcache = s.dcache := rfl
@[simp] theorem setCluster_requests (s : State) (k : Nat) (c : Cluster) : (setCluster s k c).requests = s.requests := rfl
@[simp] theorem setCluster_inbound (s : State) (k : Nat) (c : Cluster) : (setCluster s k c).inbound = s.inbound := rfl
@[simp] theorem setCluster_orphans (s : State) (k : Nat) (c : Cluster) : (setCluster s k c).orphans = s.orphans := rfl
@[simp] theorem setCluster_kills (s : State) (k : Nat) (c : Cluster) : (setCluster s k c).kills = s.kills := rfl
@[simp] theorem setCluster_notes (s : State) (k : Nat) (c : Cluster) : (setCluster s k c).notes = s.notes := rfl
@[simp] theorem setCluster_nextId (s : State) (k : Nat) (c : Cluster) : (setCluster s k c).nextId = s.nextId := rfl
@[simp] theorem setCluster_astBase (s : State) (k : Nat) (c : Cluster) : (setCluster s k c).astBase = s.astBase := rfl
@[simp] theorem setCluster_changing (s : State) (k : Nat) (c : Cluster) : (setCluster s k c).changing = s.changing := rfl
@[simp] theorem setCluster_fqBase (s : State) (k : Nat) (c : Cluster) : (setCluster s k c).fqBase = s.fqBase := rfl
@[simp] theorem setCluster_fqLog (s : State) (k : Nat) (c : Cluster) : (setCluster s k c).fqLog = s.fqLog := rfl
@[simp] theorem setCluster_fqProduced (s : State) (k : Nat) (c : Cluster) : (setCluster s k c).fqProduced = s.fqProduced := rfl
@[simp] theorem setCluster_fqConsumed (s : State) (k : Nat) (c : Cluster) : (setCluster s k c).fqConsumed = s.fqConsumed := rfl
@[simp] theorem setCluster_fqSeq (s : State) (k : Nat) (c : Cluster) : (setCluster s k c).fqSeq = s.fqSeq := rfl
@[simp] theorem setCluster_fqBatches (s : State) (k : Nat) (c : Cluster) : (setCluster s k c).fqBatches = s.fqBatches := rfl
@[simp] theorem setCluster_fqLine (s : State) (k : Nat) (c : Cluster) : (setCluster s k c).fqLine = s.fqLine := rfl
@[simp] theorem setCluster_access (s : State) (k : Nat) (c : Cluster) : (setCluster s k c).access = s.access := rfl
@[simp] theorem setCluster_halveAt (s : State) (k : Nat) (c : Cluster) : (setCluster s k c).halveAt = s.halveAt := rfl
@[simp] theorem setCluster_errors (s : State) (k : Nat) (c : Cluster) : (setCluster s k c).errors = s.errors := rfl
@[simp] theorem setCluster_errOverflow (s : State) (k : Nat) (c : Cluster) : (setCluster s k c).errOverflow = s.errOverflow := rfl
@[simp] theorem setCluster_stage (s : State) (k : Nat) (c : Cluster) : (setCluster s k c).stage = s.stage := rfl
@[simp] theorem setCluster_stfail (s : State) (k : Nat) (c : Cluster) : (setCluster s k c).stfail = s.stfail := rfl
@[simp] theorem setCluster_retained (s : State) (k : Nat) (c : Cluster) : (setCluster s k c).retained = s.retained := rfl
@[simp] theorem setCluster_lost (s : State) (k : Nat) (c : Cluster) : (setCluster s k c).lost = s.lost := rfl
@[simp] theorem setCluster_selftest (s : State) (k : Nat) (c : Cluster) : (setCluster s k c).selftest = s.selftest := rfl
@[simp] theorem setCluster_abandoned (s : State) (k : Nat) (c : Cluster) : (setCluster s k c).abandoned = s.abandoned := rfl
@[simp] theorem setCluster_ready (s : State) (k : Nat) (c : Cluster) : (setCluster s k c).ready = s.ready := rfl
@[simp] theorem setCluster_vectors (s : State) (k : Nat) (c : Cluster) : (setCluster s k c).vectors = s.vectors := rfl
@[simp] theorem setCluster_queues (s : State) (k : Nat) (c : Cluster) : (setCluster s k c).queues = s.queues := rfl
@[simp] theorem setCluster_ports (s : State) (k : Nat) (c : Cluster) : (setCluster s k c).ports = s.ports := rfl
@[simp] theorem setCluster_cap (s : State) (k : Nat) (c : Cluster) : (setCluster s k c).cap = s.cap := rfl
@[simp] theorem setCluster_mailboxes (s : State) (k : Nat) (c : Cluster) : (setCluster s k c).mailboxes = s.mailboxes := rfl
@[simp] theorem setCluster_measurements (s : State) (k : Nat) (c : Cluster) : (setCluster s k c).measurements = s.measurements := rfl
@[simp] theorem setCluster_fuses (s : State) (k : Nat) (c : Cluster) : (setCluster s k c).fuses = s.fuses := rfl
@[simp] theorem setCluster_attestKey (s : State) (k : Nat) (c : Cluster) : (setCluster s k c).attestKey = s.attestKey := rfl
@[simp] theorem setCluster_hostDebug (s : State) (k : Nat) (c : Cluster) : (setCluster s k c).hostDebug = s.hostDebug := rfl
@[simp] theorem setCluster_tokSize (s : State) (k : Nat) (c : Cluster) : (setCluster s k c).tokSize = s.tokSize := rfl
@[simp] theorem setCluster_fall (s : State) (k : Nat) (c : Cluster) : (setCluster s k c).fall = s.fall := rfl
@[simp] theorem setCluster_churn (s : State) (k : Nat) (c : Cluster) : (setCluster s k c).churn = s.churn := rfl
@[simp] theorem setCluster_churns (s : State) (k : Nat) (c : Cluster) : (setCluster s k c).churns = s.churns := rfl
@[simp] theorem setCluster_junction0 (s : State) (k : Nat) (c : Cluster) : (setCluster s k c).junction0 = s.junction0 := rfl
@[simp] theorem setCluster_junction1 (s : State) (k : Nat) (c : Cluster) : (setCluster s k c).junction1 = s.junction1 := rfl
@[simp] theorem setCluster_supply (s : State) (k : Nat) (c : Cluster) : (setCluster s k c).supply = s.supply := rfl
@[simp] theorem setCluster_holdRelease (s : State) (k : Nat) (c : Cluster) : (setCluster s k c).holdRelease = s.holdRelease := rfl
@[simp] theorem setCluster_marker (s : State) (k : Nat) (c : Cluster) : (setCluster s k c).marker = s.marker := rfl
@[simp] theorem setCluster_debugOut (s : State) (k : Nat) (c : Cluster) : (setCluster s k c).debugOut = s.debugOut := rfl
@[simp] theorem setCluster_hostOut (s : State) (k : Nat) (c : Cluster) : (setCluster s k c).hostOut = s.hostOut := rfl
@[simp] theorem setCluster_spdmOut (s : State) (k : Nat) (c : Cluster) : (setCluster s k c).spdmOut = s.spdmOut := rfl
@[simp] theorem setCluster_spdmSig (s : State) (k : Nat) (c : Cluster) : (setCluster s k c).spdmSig = s.spdmSig := rfl
@[simp] theorem setCluster_skimStalls (s : State) (k : Nat) (c : Cluster) : (setCluster s k c).skimStalls = s.skimStalls := rfl

/-! setLaunch -/
@[simp] theorem setLaunch_turn (s : State) (l : Launch) : (setLaunch s l).turn = s.turn := rfl
@[simp] theorem setLaunch_steps (s : State) (l : Launch) : (setLaunch s l).steps = s.steps := rfl
@[simp] theorem setLaunch_freeCtr (s : State) (l : Launch) : (setLaunch s l).freeCtr = s.freeCtr := rfl
@[simp] theorem setLaunch_time0 (s : State) (l : Launch) : (setLaunch s l).time0 = s.time0 := rfl
@[simp] theorem setLaunch_time1 (s : State) (l : Launch) : (setLaunch s l).time1 = s.time1 := rfl
@[simp] theorem setLaunch_mem (s : State) (l : Launch) : (setLaunch s l).mem = s.mem := rfl
@[simp] theorem setLaunch_tags (s : State) (l : Launch) : (setLaunch s l).tags = s.tags := rfl
@[simp] theorem setLaunch_poison (s : State) (l : Launch) : (setLaunch s l).poison = s.poison := rfl
@[simp] theorem setLaunch_ctxs (s : State) (l : Launch) : (setLaunch s l).ctxs = s.ctxs := rfl
@[simp] theorem setLaunch_nodes (s : State) (l : Launch) : (setLaunch s l).nodes = s.nodes := rfl
@[simp] theorem setLaunch_saved (s : State) (l : Launch) : (setLaunch s l).saved = s.saved := rfl
@[simp] theorem setLaunch_cores (s : State) (l : Launch) : (setLaunch s l).cores = s.cores := rfl
@[simp] theorem setLaunch_clusters (s : State) (l : Launch) : (setLaunch s l).clusters = s.clusters := rfl
@[simp] theorem setLaunch_vaults (s : State) (l : Launch) : (setLaunch s l).vaults = s.vaults := rfl
@[simp] theorem setLaunch_ops (s : State) (l : Launch) : (setLaunch s l).ops = s.ops := rfl
@[simp] theorem setLaunch_homeQ (s : State) (l : Launch) : (setLaunch s l).homeQ = s.homeQ := rfl
@[simp] theorem setLaunch_horizons (s : State) (l : Launch) : (setLaunch s l).horizons = s.horizons := rfl
@[simp] theorem setLaunch_dcache (s : State) (l : Launch) : (setLaunch s l).dcache = s.dcache := rfl
@[simp] theorem setLaunch_requests (s : State) (l : Launch) : (setLaunch s l).requests = s.requests := rfl
@[simp] theorem setLaunch_inbound (s : State) (l : Launch) : (setLaunch s l).inbound = s.inbound := rfl
@[simp] theorem setLaunch_orphans (s : State) (l : Launch) : (setLaunch s l).orphans = s.orphans := rfl
@[simp] theorem setLaunch_kills (s : State) (l : Launch) : (setLaunch s l).kills = s.kills := rfl
@[simp] theorem setLaunch_notes (s : State) (l : Launch) : (setLaunch s l).notes = s.notes := rfl
@[simp] theorem setLaunch_nextId (s : State) (l : Launch) : (setLaunch s l).nextId = s.nextId := rfl
@[simp] theorem setLaunch_astBase (s : State) (l : Launch) : (setLaunch s l).astBase = s.astBase := rfl
@[simp] theorem setLaunch_changing (s : State) (l : Launch) : (setLaunch s l).changing = s.changing := rfl
@[simp] theorem setLaunch_fqBase (s : State) (l : Launch) : (setLaunch s l).fqBase = s.fqBase := rfl
@[simp] theorem setLaunch_fqLog (s : State) (l : Launch) : (setLaunch s l).fqLog = s.fqLog := rfl
@[simp] theorem setLaunch_fqProduced (s : State) (l : Launch) : (setLaunch s l).fqProduced = s.fqProduced := rfl
@[simp] theorem setLaunch_fqConsumed (s : State) (l : Launch) : (setLaunch s l).fqConsumed = s.fqConsumed := rfl
@[simp] theorem setLaunch_fqSeq (s : State) (l : Launch) : (setLaunch s l).fqSeq = s.fqSeq := rfl
@[simp] theorem setLaunch_fqBatches (s : State) (l : Launch) : (setLaunch s l).fqBatches = s.fqBatches := rfl
@[simp] theorem setLaunch_fqLine (s : State) (l : Launch) : (setLaunch s l).fqLine = s.fqLine := rfl
@[simp] theorem setLaunch_access (s : State) (l : Launch) : (setLaunch s l).access = s.access := rfl
@[simp] theorem setLaunch_halveAt (s : State) (l : Launch) : (setLaunch s l).halveAt = s.halveAt := rfl
@[simp] theorem setLaunch_errors (s : State) (l : Launch) : (setLaunch s l).errors = s.errors := rfl
@[simp] theorem setLaunch_errOverflow (s : State) (l : Launch) : (setLaunch s l).errOverflow = s.errOverflow := rfl
@[simp] theorem setLaunch_stage (s : State) (l : Launch) : (setLaunch s l).stage = s.stage := rfl
@[simp] theorem setLaunch_stfail (s : State) (l : Launch) : (setLaunch s l).stfail = s.stfail := rfl
@[simp] theorem setLaunch_retained (s : State) (l : Launch) : (setLaunch s l).retained = s.retained := rfl
@[simp] theorem setLaunch_lost (s : State) (l : Launch) : (setLaunch s l).lost = s.lost := rfl
@[simp] theorem setLaunch_selftest (s : State) (l : Launch) : (setLaunch s l).selftest = s.selftest := rfl
@[simp] theorem setLaunch_abandoned (s : State) (l : Launch) : (setLaunch s l).abandoned = s.abandoned := rfl
@[simp] theorem setLaunch_ready (s : State) (l : Launch) : (setLaunch s l).ready = s.ready := rfl
@[simp] theorem setLaunch_vectors (s : State) (l : Launch) : (setLaunch s l).vectors = s.vectors := rfl
@[simp] theorem setLaunch_queues (s : State) (l : Launch) : (setLaunch s l).queues = s.queues := rfl
@[simp] theorem setLaunch_ports (s : State) (l : Launch) : (setLaunch s l).ports = s.ports := rfl
@[simp] theorem setLaunch_cap (s : State) (l : Launch) : (setLaunch s l).cap = s.cap := rfl
@[simp] theorem setLaunch_mailboxes (s : State) (l : Launch) : (setLaunch s l).mailboxes = s.mailboxes := rfl
@[simp] theorem setLaunch_measurements (s : State) (l : Launch) : (setLaunch s l).measurements = s.measurements := rfl
@[simp] theorem setLaunch_fuses (s : State) (l : Launch) : (setLaunch s l).fuses = s.fuses := rfl
@[simp] theorem setLaunch_attestKey (s : State) (l : Launch) : (setLaunch s l).attestKey = s.attestKey := rfl
@[simp] theorem setLaunch_hostDebug (s : State) (l : Launch) : (setLaunch s l).hostDebug = s.hostDebug := rfl
@[simp] theorem setLaunch_tokSize (s : State) (l : Launch) : (setLaunch s l).tokSize = s.tokSize := rfl
@[simp] theorem setLaunch_fall (s : State) (l : Launch) : (setLaunch s l).fall = s.fall := rfl
@[simp] theorem setLaunch_churn (s : State) (l : Launch) : (setLaunch s l).churn = s.churn := rfl
@[simp] theorem setLaunch_churns (s : State) (l : Launch) : (setLaunch s l).churns = s.churns := rfl
@[simp] theorem setLaunch_junction0 (s : State) (l : Launch) : (setLaunch s l).junction0 = s.junction0 := rfl
@[simp] theorem setLaunch_junction1 (s : State) (l : Launch) : (setLaunch s l).junction1 = s.junction1 := rfl
@[simp] theorem setLaunch_supply (s : State) (l : Launch) : (setLaunch s l).supply = s.supply := rfl
@[simp] theorem setLaunch_holdRelease (s : State) (l : Launch) : (setLaunch s l).holdRelease = s.holdRelease := rfl
@[simp] theorem setLaunch_marker (s : State) (l : Launch) : (setLaunch s l).marker = s.marker := rfl
@[simp] theorem setLaunch_debugOut (s : State) (l : Launch) : (setLaunch s l).debugOut = s.debugOut := rfl
@[simp] theorem setLaunch_hostOut (s : State) (l : Launch) : (setLaunch s l).hostOut = s.hostOut := rfl
@[simp] theorem setLaunch_spdmOut (s : State) (l : Launch) : (setLaunch s l).spdmOut = s.spdmOut := rfl
@[simp] theorem setLaunch_spdmSig (s : State) (l : Launch) : (setLaunch s l).spdmSig = s.spdmSig := rfl
@[simp] theorem setLaunch_skimStalls (s : State) (l : Launch) : (setLaunch s l).skimStalls = s.skimStalls := rfl

/-! setOp -/
@[simp] theorem setOp_turn (s : State) (o : EngOp) : (setOp s o).turn = s.turn := rfl
@[simp] theorem setOp_steps (s : State) (o : EngOp) : (setOp s o).steps = s.steps := rfl
@[simp] theorem setOp_freeCtr (s : State) (o : EngOp) : (setOp s o).freeCtr = s.freeCtr := rfl
@[simp] theorem setOp_time0 (s : State) (o : EngOp) : (setOp s o).time0 = s.time0 := rfl
@[simp] theorem setOp_time1 (s : State) (o : EngOp) : (setOp s o).time1 = s.time1 := rfl
@[simp] theorem setOp_mem (s : State) (o : EngOp) : (setOp s o).mem = s.mem := rfl
@[simp] theorem setOp_tags (s : State) (o : EngOp) : (setOp s o).tags = s.tags := rfl
@[simp] theorem setOp_poison (s : State) (o : EngOp) : (setOp s o).poison = s.poison := rfl
@[simp] theorem setOp_ctxs (s : State) (o : EngOp) : (setOp s o).ctxs = s.ctxs := rfl
@[simp] theorem setOp_launches (s : State) (o : EngOp) : (setOp s o).launches = s.launches := rfl
@[simp] theorem setOp_nodes (s : State) (o : EngOp) : (setOp s o).nodes = s.nodes := rfl
@[simp] theorem setOp_saved (s : State) (o : EngOp) : (setOp s o).saved = s.saved := rfl
@[simp] theorem setOp_cores (s : State) (o : EngOp) : (setOp s o).cores = s.cores := rfl
@[simp] theorem setOp_clusters (s : State) (o : EngOp) : (setOp s o).clusters = s.clusters := rfl
@[simp] theorem setOp_vaults (s : State) (o : EngOp) : (setOp s o).vaults = s.vaults := rfl
@[simp] theorem setOp_homeQ (s : State) (o : EngOp) : (setOp s o).homeQ = s.homeQ := rfl
@[simp] theorem setOp_horizons (s : State) (o : EngOp) : (setOp s o).horizons = s.horizons := rfl
@[simp] theorem setOp_dcache (s : State) (o : EngOp) : (setOp s o).dcache = s.dcache := rfl
@[simp] theorem setOp_requests (s : State) (o : EngOp) : (setOp s o).requests = s.requests := rfl
@[simp] theorem setOp_inbound (s : State) (o : EngOp) : (setOp s o).inbound = s.inbound := rfl
@[simp] theorem setOp_orphans (s : State) (o : EngOp) : (setOp s o).orphans = s.orphans := rfl
@[simp] theorem setOp_kills (s : State) (o : EngOp) : (setOp s o).kills = s.kills := rfl
@[simp] theorem setOp_notes (s : State) (o : EngOp) : (setOp s o).notes = s.notes := rfl
@[simp] theorem setOp_nextId (s : State) (o : EngOp) : (setOp s o).nextId = s.nextId := rfl
@[simp] theorem setOp_astBase (s : State) (o : EngOp) : (setOp s o).astBase = s.astBase := rfl
@[simp] theorem setOp_changing (s : State) (o : EngOp) : (setOp s o).changing = s.changing := rfl
@[simp] theorem setOp_fqBase (s : State) (o : EngOp) : (setOp s o).fqBase = s.fqBase := rfl
@[simp] theorem setOp_fqLog (s : State) (o : EngOp) : (setOp s o).fqLog = s.fqLog := rfl
@[simp] theorem setOp_fqProduced (s : State) (o : EngOp) : (setOp s o).fqProduced = s.fqProduced := rfl
@[simp] theorem setOp_fqConsumed (s : State) (o : EngOp) : (setOp s o).fqConsumed = s.fqConsumed := rfl
@[simp] theorem setOp_fqSeq (s : State) (o : EngOp) : (setOp s o).fqSeq = s.fqSeq := rfl
@[simp] theorem setOp_fqBatches (s : State) (o : EngOp) : (setOp s o).fqBatches = s.fqBatches := rfl
@[simp] theorem setOp_fqLine (s : State) (o : EngOp) : (setOp s o).fqLine = s.fqLine := rfl
@[simp] theorem setOp_access (s : State) (o : EngOp) : (setOp s o).access = s.access := rfl
@[simp] theorem setOp_halveAt (s : State) (o : EngOp) : (setOp s o).halveAt = s.halveAt := rfl
@[simp] theorem setOp_errors (s : State) (o : EngOp) : (setOp s o).errors = s.errors := rfl
@[simp] theorem setOp_errOverflow (s : State) (o : EngOp) : (setOp s o).errOverflow = s.errOverflow := rfl
@[simp] theorem setOp_stage (s : State) (o : EngOp) : (setOp s o).stage = s.stage := rfl
@[simp] theorem setOp_stfail (s : State) (o : EngOp) : (setOp s o).stfail = s.stfail := rfl
@[simp] theorem setOp_retained (s : State) (o : EngOp) : (setOp s o).retained = s.retained := rfl
@[simp] theorem setOp_lost (s : State) (o : EngOp) : (setOp s o).lost = s.lost := rfl
@[simp] theorem setOp_selftest (s : State) (o : EngOp) : (setOp s o).selftest = s.selftest := rfl
@[simp] theorem setOp_abandoned (s : State) (o : EngOp) : (setOp s o).abandoned = s.abandoned := rfl
@[simp] theorem setOp_ready (s : State) (o : EngOp) : (setOp s o).ready = s.ready := rfl
@[simp] theorem setOp_vectors (s : State) (o : EngOp) : (setOp s o).vectors = s.vectors := rfl
@[simp] theorem setOp_queues (s : State) (o : EngOp) : (setOp s o).queues = s.queues := rfl
@[simp] theorem setOp_ports (s : State) (o : EngOp) : (setOp s o).ports = s.ports := rfl
@[simp] theorem setOp_cap (s : State) (o : EngOp) : (setOp s o).cap = s.cap := rfl
@[simp] theorem setOp_mailboxes (s : State) (o : EngOp) : (setOp s o).mailboxes = s.mailboxes := rfl
@[simp] theorem setOp_measurements (s : State) (o : EngOp) : (setOp s o).measurements = s.measurements := rfl
@[simp] theorem setOp_fuses (s : State) (o : EngOp) : (setOp s o).fuses = s.fuses := rfl
@[simp] theorem setOp_attestKey (s : State) (o : EngOp) : (setOp s o).attestKey = s.attestKey := rfl
@[simp] theorem setOp_hostDebug (s : State) (o : EngOp) : (setOp s o).hostDebug = s.hostDebug := rfl
@[simp] theorem setOp_tokSize (s : State) (o : EngOp) : (setOp s o).tokSize = s.tokSize := rfl
@[simp] theorem setOp_fall (s : State) (o : EngOp) : (setOp s o).fall = s.fall := rfl
@[simp] theorem setOp_churn (s : State) (o : EngOp) : (setOp s o).churn = s.churn := rfl
@[simp] theorem setOp_churns (s : State) (o : EngOp) : (setOp s o).churns = s.churns := rfl
@[simp] theorem setOp_junction0 (s : State) (o : EngOp) : (setOp s o).junction0 = s.junction0 := rfl
@[simp] theorem setOp_junction1 (s : State) (o : EngOp) : (setOp s o).junction1 = s.junction1 := rfl
@[simp] theorem setOp_supply (s : State) (o : EngOp) : (setOp s o).supply = s.supply := rfl
@[simp] theorem setOp_holdRelease (s : State) (o : EngOp) : (setOp s o).holdRelease = s.holdRelease := rfl
@[simp] theorem setOp_marker (s : State) (o : EngOp) : (setOp s o).marker = s.marker := rfl
@[simp] theorem setOp_debugOut (s : State) (o : EngOp) : (setOp s o).debugOut = s.debugOut := rfl
@[simp] theorem setOp_hostOut (s : State) (o : EngOp) : (setOp s o).hostOut = s.hostOut := rfl
@[simp] theorem setOp_spdmOut (s : State) (o : EngOp) : (setOp s o).spdmOut = s.spdmOut := rfl
@[simp] theorem setOp_spdmSig (s : State) (o : EngOp) : (setOp s o).spdmSig = s.spdmSig := rfl
@[simp] theorem setOp_skimStalls (s : State) (o : EngOp) : (setOp s o).skimStalls = s.skimStalls := rfl

/-! writeBytes -/
@[simp] theorem writeBytes_turn (s : State) (k : Nat) (bs : List Byte) : (writeBytes s k bs).turn = s.turn := rfl
@[simp] theorem writeBytes_steps (s : State) (k : Nat) (bs : List Byte) : (writeBytes s k bs).steps = s.steps := rfl
@[simp] theorem writeBytes_freeCtr (s : State) (k : Nat) (bs : List Byte) : (writeBytes s k bs).freeCtr = s.freeCtr := rfl
@[simp] theorem writeBytes_time0 (s : State) (k : Nat) (bs : List Byte) : (writeBytes s k bs).time0 = s.time0 := rfl
@[simp] theorem writeBytes_time1 (s : State) (k : Nat) (bs : List Byte) : (writeBytes s k bs).time1 = s.time1 := rfl
@[simp] theorem writeBytes_tags (s : State) (k : Nat) (bs : List Byte) : (writeBytes s k bs).tags = s.tags := rfl
@[simp] theorem writeBytes_poison (s : State) (k : Nat) (bs : List Byte) : (writeBytes s k bs).poison = s.poison := rfl
@[simp] theorem writeBytes_ctxs (s : State) (k : Nat) (bs : List Byte) : (writeBytes s k bs).ctxs = s.ctxs := rfl
@[simp] theorem writeBytes_launches (s : State) (k : Nat) (bs : List Byte) : (writeBytes s k bs).launches = s.launches := rfl
@[simp] theorem writeBytes_nodes (s : State) (k : Nat) (bs : List Byte) : (writeBytes s k bs).nodes = s.nodes := rfl
@[simp] theorem writeBytes_saved (s : State) (k : Nat) (bs : List Byte) : (writeBytes s k bs).saved = s.saved := rfl
@[simp] theorem writeBytes_cores (s : State) (k : Nat) (bs : List Byte) : (writeBytes s k bs).cores = s.cores := rfl
@[simp] theorem writeBytes_clusters (s : State) (k : Nat) (bs : List Byte) : (writeBytes s k bs).clusters = s.clusters := rfl
@[simp] theorem writeBytes_vaults (s : State) (k : Nat) (bs : List Byte) : (writeBytes s k bs).vaults = s.vaults := rfl
@[simp] theorem writeBytes_ops (s : State) (k : Nat) (bs : List Byte) : (writeBytes s k bs).ops = s.ops := rfl
@[simp] theorem writeBytes_homeQ (s : State) (k : Nat) (bs : List Byte) : (writeBytes s k bs).homeQ = s.homeQ := rfl
@[simp] theorem writeBytes_horizons (s : State) (k : Nat) (bs : List Byte) : (writeBytes s k bs).horizons = s.horizons := rfl
@[simp] theorem writeBytes_dcache (s : State) (k : Nat) (bs : List Byte) : (writeBytes s k bs).dcache = s.dcache := rfl
@[simp] theorem writeBytes_requests (s : State) (k : Nat) (bs : List Byte) : (writeBytes s k bs).requests = s.requests := rfl
@[simp] theorem writeBytes_inbound (s : State) (k : Nat) (bs : List Byte) : (writeBytes s k bs).inbound = s.inbound := rfl
@[simp] theorem writeBytes_orphans (s : State) (k : Nat) (bs : List Byte) : (writeBytes s k bs).orphans = s.orphans := rfl
@[simp] theorem writeBytes_kills (s : State) (k : Nat) (bs : List Byte) : (writeBytes s k bs).kills = s.kills := rfl
@[simp] theorem writeBytes_notes (s : State) (k : Nat) (bs : List Byte) : (writeBytes s k bs).notes = s.notes := rfl
@[simp] theorem writeBytes_nextId (s : State) (k : Nat) (bs : List Byte) : (writeBytes s k bs).nextId = s.nextId := rfl
@[simp] theorem writeBytes_astBase (s : State) (k : Nat) (bs : List Byte) : (writeBytes s k bs).astBase = s.astBase := rfl
@[simp] theorem writeBytes_changing (s : State) (k : Nat) (bs : List Byte) : (writeBytes s k bs).changing = s.changing := rfl
@[simp] theorem writeBytes_fqBase (s : State) (k : Nat) (bs : List Byte) : (writeBytes s k bs).fqBase = s.fqBase := rfl
@[simp] theorem writeBytes_fqLog (s : State) (k : Nat) (bs : List Byte) : (writeBytes s k bs).fqLog = s.fqLog := rfl
@[simp] theorem writeBytes_fqProduced (s : State) (k : Nat) (bs : List Byte) : (writeBytes s k bs).fqProduced = s.fqProduced := rfl
@[simp] theorem writeBytes_fqConsumed (s : State) (k : Nat) (bs : List Byte) : (writeBytes s k bs).fqConsumed = s.fqConsumed := rfl
@[simp] theorem writeBytes_fqSeq (s : State) (k : Nat) (bs : List Byte) : (writeBytes s k bs).fqSeq = s.fqSeq := rfl
@[simp] theorem writeBytes_fqBatches (s : State) (k : Nat) (bs : List Byte) : (writeBytes s k bs).fqBatches = s.fqBatches := rfl
@[simp] theorem writeBytes_fqLine (s : State) (k : Nat) (bs : List Byte) : (writeBytes s k bs).fqLine = s.fqLine := rfl
@[simp] theorem writeBytes_access (s : State) (k : Nat) (bs : List Byte) : (writeBytes s k bs).access = s.access := rfl
@[simp] theorem writeBytes_halveAt (s : State) (k : Nat) (bs : List Byte) : (writeBytes s k bs).halveAt = s.halveAt := rfl
@[simp] theorem writeBytes_errors (s : State) (k : Nat) (bs : List Byte) : (writeBytes s k bs).errors = s.errors := rfl
@[simp] theorem writeBytes_errOverflow (s : State) (k : Nat) (bs : List Byte) : (writeBytes s k bs).errOverflow = s.errOverflow := rfl
@[simp] theorem writeBytes_stage (s : State) (k : Nat) (bs : List Byte) : (writeBytes s k bs).stage = s.stage := rfl
@[simp] theorem writeBytes_stfail (s : State) (k : Nat) (bs : List Byte) : (writeBytes s k bs).stfail = s.stfail := rfl
@[simp] theorem writeBytes_retained (s : State) (k : Nat) (bs : List Byte) : (writeBytes s k bs).retained = s.retained := rfl
@[simp] theorem writeBytes_lost (s : State) (k : Nat) (bs : List Byte) : (writeBytes s k bs).lost = s.lost := rfl
@[simp] theorem writeBytes_selftest (s : State) (k : Nat) (bs : List Byte) : (writeBytes s k bs).selftest = s.selftest := rfl
@[simp] theorem writeBytes_abandoned (s : State) (k : Nat) (bs : List Byte) : (writeBytes s k bs).abandoned = s.abandoned := rfl
@[simp] theorem writeBytes_ready (s : State) (k : Nat) (bs : List Byte) : (writeBytes s k bs).ready = s.ready := rfl
@[simp] theorem writeBytes_vectors (s : State) (k : Nat) (bs : List Byte) : (writeBytes s k bs).vectors = s.vectors := rfl
@[simp] theorem writeBytes_queues (s : State) (k : Nat) (bs : List Byte) : (writeBytes s k bs).queues = s.queues := rfl
@[simp] theorem writeBytes_ports (s : State) (k : Nat) (bs : List Byte) : (writeBytes s k bs).ports = s.ports := rfl
@[simp] theorem writeBytes_cap (s : State) (k : Nat) (bs : List Byte) : (writeBytes s k bs).cap = s.cap := rfl
@[simp] theorem writeBytes_mailboxes (s : State) (k : Nat) (bs : List Byte) : (writeBytes s k bs).mailboxes = s.mailboxes := rfl
@[simp] theorem writeBytes_measurements (s : State) (k : Nat) (bs : List Byte) : (writeBytes s k bs).measurements = s.measurements := rfl
@[simp] theorem writeBytes_fuses (s : State) (k : Nat) (bs : List Byte) : (writeBytes s k bs).fuses = s.fuses := rfl
@[simp] theorem writeBytes_attestKey (s : State) (k : Nat) (bs : List Byte) : (writeBytes s k bs).attestKey = s.attestKey := rfl
@[simp] theorem writeBytes_hostDebug (s : State) (k : Nat) (bs : List Byte) : (writeBytes s k bs).hostDebug = s.hostDebug := rfl
@[simp] theorem writeBytes_tokSize (s : State) (k : Nat) (bs : List Byte) : (writeBytes s k bs).tokSize = s.tokSize := rfl
@[simp] theorem writeBytes_fall (s : State) (k : Nat) (bs : List Byte) : (writeBytes s k bs).fall = s.fall := rfl
@[simp] theorem writeBytes_churn (s : State) (k : Nat) (bs : List Byte) : (writeBytes s k bs).churn = s.churn := rfl
@[simp] theorem writeBytes_churns (s : State) (k : Nat) (bs : List Byte) : (writeBytes s k bs).churns = s.churns := rfl
@[simp] theorem writeBytes_junction0 (s : State) (k : Nat) (bs : List Byte) : (writeBytes s k bs).junction0 = s.junction0 := rfl
@[simp] theorem writeBytes_junction1 (s : State) (k : Nat) (bs : List Byte) : (writeBytes s k bs).junction1 = s.junction1 := rfl
@[simp] theorem writeBytes_supply (s : State) (k : Nat) (bs : List Byte) : (writeBytes s k bs).supply = s.supply := rfl
@[simp] theorem writeBytes_holdRelease (s : State) (k : Nat) (bs : List Byte) : (writeBytes s k bs).holdRelease = s.holdRelease := rfl
@[simp] theorem writeBytes_marker (s : State) (k : Nat) (bs : List Byte) : (writeBytes s k bs).marker = s.marker := rfl
@[simp] theorem writeBytes_debugOut (s : State) (k : Nat) (bs : List Byte) : (writeBytes s k bs).debugOut = s.debugOut := rfl
@[simp] theorem writeBytes_hostOut (s : State) (k : Nat) (bs : List Byte) : (writeBytes s k bs).hostOut = s.hostOut := rfl
@[simp] theorem writeBytes_spdmOut (s : State) (k : Nat) (bs : List Byte) : (writeBytes s k bs).spdmOut = s.spdmOut := rfl
@[simp] theorem writeBytes_spdmSig (s : State) (k : Nat) (bs : List Byte) : (writeBytes s k bs).spdmSig = s.spdmSig := rfl
@[simp] theorem writeBytes_skimStalls (s : State) (k : Nat) (bs : List Byte) : (writeBytes s k bs).skimStalls = s.skimStalls := rfl

/-! setTag -/
@[simp] theorem setTag_turn (s : State) (k : Nat) (g : BitVec 12) : (setTag s k g).turn = s.turn := rfl
@[simp] theorem setTag_steps (s : State) (k : Nat) (g : BitVec 12) : (setTag s k g).steps = s.steps := rfl
@[simp] theorem setTag_freeCtr (s : State) (k : Nat) (g : BitVec 12) : (setTag s k g).freeCtr = s.freeCtr := rfl
@[simp] theorem setTag_time0 (s : State) (k : Nat) (g : BitVec 12) : (setTag s k g).time0 = s.time0 := rfl
@[simp] theorem setTag_time1 (s : State) (k : Nat) (g : BitVec 12) : (setTag s k g).time1 = s.time1 := rfl
@[simp] theorem setTag_mem (s : State) (k : Nat) (g : BitVec 12) : (setTag s k g).mem = s.mem := rfl
@[simp] theorem setTag_poison (s : State) (k : Nat) (g : BitVec 12) : (setTag s k g).poison = s.poison := rfl
@[simp] theorem setTag_ctxs (s : State) (k : Nat) (g : BitVec 12) : (setTag s k g).ctxs = s.ctxs := rfl
@[simp] theorem setTag_launches (s : State) (k : Nat) (g : BitVec 12) : (setTag s k g).launches = s.launches := rfl
@[simp] theorem setTag_nodes (s : State) (k : Nat) (g : BitVec 12) : (setTag s k g).nodes = s.nodes := rfl
@[simp] theorem setTag_saved (s : State) (k : Nat) (g : BitVec 12) : (setTag s k g).saved = s.saved := rfl
@[simp] theorem setTag_cores (s : State) (k : Nat) (g : BitVec 12) : (setTag s k g).cores = s.cores := rfl
@[simp] theorem setTag_clusters (s : State) (k : Nat) (g : BitVec 12) : (setTag s k g).clusters = s.clusters := rfl
@[simp] theorem setTag_vaults (s : State) (k : Nat) (g : BitVec 12) : (setTag s k g).vaults = s.vaults := rfl
@[simp] theorem setTag_ops (s : State) (k : Nat) (g : BitVec 12) : (setTag s k g).ops = s.ops := rfl
@[simp] theorem setTag_homeQ (s : State) (k : Nat) (g : BitVec 12) : (setTag s k g).homeQ = s.homeQ := rfl
@[simp] theorem setTag_horizons (s : State) (k : Nat) (g : BitVec 12) : (setTag s k g).horizons = s.horizons := rfl
@[simp] theorem setTag_dcache (s : State) (k : Nat) (g : BitVec 12) : (setTag s k g).dcache = s.dcache := rfl
@[simp] theorem setTag_requests (s : State) (k : Nat) (g : BitVec 12) : (setTag s k g).requests = s.requests := rfl
@[simp] theorem setTag_inbound (s : State) (k : Nat) (g : BitVec 12) : (setTag s k g).inbound = s.inbound := rfl
@[simp] theorem setTag_orphans (s : State) (k : Nat) (g : BitVec 12) : (setTag s k g).orphans = s.orphans := rfl
@[simp] theorem setTag_kills (s : State) (k : Nat) (g : BitVec 12) : (setTag s k g).kills = s.kills := rfl
@[simp] theorem setTag_notes (s : State) (k : Nat) (g : BitVec 12) : (setTag s k g).notes = s.notes := rfl
@[simp] theorem setTag_nextId (s : State) (k : Nat) (g : BitVec 12) : (setTag s k g).nextId = s.nextId := rfl
@[simp] theorem setTag_astBase (s : State) (k : Nat) (g : BitVec 12) : (setTag s k g).astBase = s.astBase := rfl
@[simp] theorem setTag_changing (s : State) (k : Nat) (g : BitVec 12) : (setTag s k g).changing = s.changing := rfl
@[simp] theorem setTag_fqBase (s : State) (k : Nat) (g : BitVec 12) : (setTag s k g).fqBase = s.fqBase := rfl
@[simp] theorem setTag_fqLog (s : State) (k : Nat) (g : BitVec 12) : (setTag s k g).fqLog = s.fqLog := rfl
@[simp] theorem setTag_fqProduced (s : State) (k : Nat) (g : BitVec 12) : (setTag s k g).fqProduced = s.fqProduced := rfl
@[simp] theorem setTag_fqConsumed (s : State) (k : Nat) (g : BitVec 12) : (setTag s k g).fqConsumed = s.fqConsumed := rfl
@[simp] theorem setTag_fqSeq (s : State) (k : Nat) (g : BitVec 12) : (setTag s k g).fqSeq = s.fqSeq := rfl
@[simp] theorem setTag_fqBatches (s : State) (k : Nat) (g : BitVec 12) : (setTag s k g).fqBatches = s.fqBatches := rfl
@[simp] theorem setTag_fqLine (s : State) (k : Nat) (g : BitVec 12) : (setTag s k g).fqLine = s.fqLine := rfl
@[simp] theorem setTag_access (s : State) (k : Nat) (g : BitVec 12) : (setTag s k g).access = s.access := rfl
@[simp] theorem setTag_halveAt (s : State) (k : Nat) (g : BitVec 12) : (setTag s k g).halveAt = s.halveAt := rfl
@[simp] theorem setTag_errors (s : State) (k : Nat) (g : BitVec 12) : (setTag s k g).errors = s.errors := rfl
@[simp] theorem setTag_errOverflow (s : State) (k : Nat) (g : BitVec 12) : (setTag s k g).errOverflow = s.errOverflow := rfl
@[simp] theorem setTag_stage (s : State) (k : Nat) (g : BitVec 12) : (setTag s k g).stage = s.stage := rfl
@[simp] theorem setTag_stfail (s : State) (k : Nat) (g : BitVec 12) : (setTag s k g).stfail = s.stfail := rfl
@[simp] theorem setTag_retained (s : State) (k : Nat) (g : BitVec 12) : (setTag s k g).retained = s.retained := rfl
@[simp] theorem setTag_lost (s : State) (k : Nat) (g : BitVec 12) : (setTag s k g).lost = s.lost := rfl
@[simp] theorem setTag_selftest (s : State) (k : Nat) (g : BitVec 12) : (setTag s k g).selftest = s.selftest := rfl
@[simp] theorem setTag_abandoned (s : State) (k : Nat) (g : BitVec 12) : (setTag s k g).abandoned = s.abandoned := rfl
@[simp] theorem setTag_ready (s : State) (k : Nat) (g : BitVec 12) : (setTag s k g).ready = s.ready := rfl
@[simp] theorem setTag_vectors (s : State) (k : Nat) (g : BitVec 12) : (setTag s k g).vectors = s.vectors := rfl
@[simp] theorem setTag_queues (s : State) (k : Nat) (g : BitVec 12) : (setTag s k g).queues = s.queues := rfl
@[simp] theorem setTag_ports (s : State) (k : Nat) (g : BitVec 12) : (setTag s k g).ports = s.ports := rfl
@[simp] theorem setTag_cap (s : State) (k : Nat) (g : BitVec 12) : (setTag s k g).cap = s.cap := rfl
@[simp] theorem setTag_mailboxes (s : State) (k : Nat) (g : BitVec 12) : (setTag s k g).mailboxes = s.mailboxes := rfl
@[simp] theorem setTag_measurements (s : State) (k : Nat) (g : BitVec 12) : (setTag s k g).measurements = s.measurements := rfl
@[simp] theorem setTag_fuses (s : State) (k : Nat) (g : BitVec 12) : (setTag s k g).fuses = s.fuses := rfl
@[simp] theorem setTag_attestKey (s : State) (k : Nat) (g : BitVec 12) : (setTag s k g).attestKey = s.attestKey := rfl
@[simp] theorem setTag_hostDebug (s : State) (k : Nat) (g : BitVec 12) : (setTag s k g).hostDebug = s.hostDebug := rfl
@[simp] theorem setTag_tokSize (s : State) (k : Nat) (g : BitVec 12) : (setTag s k g).tokSize = s.tokSize := rfl
@[simp] theorem setTag_fall (s : State) (k : Nat) (g : BitVec 12) : (setTag s k g).fall = s.fall := rfl
@[simp] theorem setTag_churn (s : State) (k : Nat) (g : BitVec 12) : (setTag s k g).churn = s.churn := rfl
@[simp] theorem setTag_churns (s : State) (k : Nat) (g : BitVec 12) : (setTag s k g).churns = s.churns := rfl
@[simp] theorem setTag_junction0 (s : State) (k : Nat) (g : BitVec 12) : (setTag s k g).junction0 = s.junction0 := rfl
@[simp] theorem setTag_junction1 (s : State) (k : Nat) (g : BitVec 12) : (setTag s k g).junction1 = s.junction1 := rfl
@[simp] theorem setTag_supply (s : State) (k : Nat) (g : BitVec 12) : (setTag s k g).supply = s.supply := rfl
@[simp] theorem setTag_holdRelease (s : State) (k : Nat) (g : BitVec 12) : (setTag s k g).holdRelease = s.holdRelease := rfl
@[simp] theorem setTag_marker (s : State) (k : Nat) (g : BitVec 12) : (setTag s k g).marker = s.marker := rfl
@[simp] theorem setTag_debugOut (s : State) (k : Nat) (g : BitVec 12) : (setTag s k g).debugOut = s.debugOut := rfl
@[simp] theorem setTag_hostOut (s : State) (k : Nat) (g : BitVec 12) : (setTag s k g).hostOut = s.hostOut := rfl
@[simp] theorem setTag_spdmOut (s : State) (k : Nat) (g : BitVec 12) : (setTag s k g).spdmOut = s.spdmOut := rfl
@[simp] theorem setTag_spdmSig (s : State) (k : Nat) (g : BitVec 12) : (setTag s k g).spdmSig = s.spdmSig := rfl
@[simp] theorem setTag_skimStalls (s : State) (k : Nat) (g : BitVec 12) : (setTag s k g).skimStalls = s.skimStalls := rfl

/-! modCtx -/
@[simp] theorem modCtx_turn (s : State) (id : Nat) (f : Ctx → Ctx) : (modCtx s id f).turn = s.turn := by unfold modCtx; split <;> rfl
@[simp] theorem modCtx_steps (s : State) (id : Nat) (f : Ctx → Ctx) : (modCtx s id f).steps = s.steps := by unfold modCtx; split <;> rfl
@[simp] theorem modCtx_freeCtr (s : State) (id : Nat) (f : Ctx → Ctx) : (modCtx s id f).freeCtr = s.freeCtr := by unfold modCtx; split <;> rfl
@[simp] theorem modCtx_time0 (s : State) (id : Nat) (f : Ctx → Ctx) : (modCtx s id f).time0 = s.time0 := by unfold modCtx; split <;> rfl
@[simp] theorem modCtx_time1 (s : State) (id : Nat) (f : Ctx → Ctx) : (modCtx s id f).time1 = s.time1 := by unfold modCtx; split <;> rfl
@[simp] theorem modCtx_mem (s : State) (id : Nat) (f : Ctx → Ctx) : (modCtx s id f).mem = s.mem := by unfold modCtx; split <;> rfl
@[simp] theorem modCtx_tags (s : State) (id : Nat) (f : Ctx → Ctx) : (modCtx s id f).tags = s.tags := by unfold modCtx; split <;> rfl
@[simp] theorem modCtx_poison (s : State) (id : Nat) (f : Ctx → Ctx) : (modCtx s id f).poison = s.poison := by unfold modCtx; split <;> rfl
@[simp] theorem modCtx_launches (s : State) (id : Nat) (f : Ctx → Ctx) : (modCtx s id f).launches = s.launches := by unfold modCtx; split <;> rfl
@[simp] theorem modCtx_nodes (s : State) (id : Nat) (f : Ctx → Ctx) : (modCtx s id f).nodes = s.nodes := by unfold modCtx; split <;> rfl
@[simp] theorem modCtx_saved (s : State) (id : Nat) (f : Ctx → Ctx) : (modCtx s id f).saved = s.saved := by unfold modCtx; split <;> rfl
@[simp] theorem modCtx_cores (s : State) (id : Nat) (f : Ctx → Ctx) : (modCtx s id f).cores = s.cores := by unfold modCtx; split <;> rfl
@[simp] theorem modCtx_clusters (s : State) (id : Nat) (f : Ctx → Ctx) : (modCtx s id f).clusters = s.clusters := by unfold modCtx; split <;> rfl
@[simp] theorem modCtx_vaults (s : State) (id : Nat) (f : Ctx → Ctx) : (modCtx s id f).vaults = s.vaults := by unfold modCtx; split <;> rfl
@[simp] theorem modCtx_ops (s : State) (id : Nat) (f : Ctx → Ctx) : (modCtx s id f).ops = s.ops := by unfold modCtx; split <;> rfl
@[simp] theorem modCtx_homeQ (s : State) (id : Nat) (f : Ctx → Ctx) : (modCtx s id f).homeQ = s.homeQ := by unfold modCtx; split <;> rfl
@[simp] theorem modCtx_horizons (s : State) (id : Nat) (f : Ctx → Ctx) : (modCtx s id f).horizons = s.horizons := by unfold modCtx; split <;> rfl
@[simp] theorem modCtx_dcache (s : State) (id : Nat) (f : Ctx → Ctx) : (modCtx s id f).dcache = s.dcache := by unfold modCtx; split <;> rfl
@[simp] theorem modCtx_requests (s : State) (id : Nat) (f : Ctx → Ctx) : (modCtx s id f).requests = s.requests := by unfold modCtx; split <;> rfl
@[simp] theorem modCtx_inbound (s : State) (id : Nat) (f : Ctx → Ctx) : (modCtx s id f).inbound = s.inbound := by unfold modCtx; split <;> rfl
@[simp] theorem modCtx_orphans (s : State) (id : Nat) (f : Ctx → Ctx) : (modCtx s id f).orphans = s.orphans := by unfold modCtx; split <;> rfl
@[simp] theorem modCtx_kills (s : State) (id : Nat) (f : Ctx → Ctx) : (modCtx s id f).kills = s.kills := by unfold modCtx; split <;> rfl
@[simp] theorem modCtx_notes (s : State) (id : Nat) (f : Ctx → Ctx) : (modCtx s id f).notes = s.notes := by unfold modCtx; split <;> rfl
@[simp] theorem modCtx_nextId (s : State) (id : Nat) (f : Ctx → Ctx) : (modCtx s id f).nextId = s.nextId := by unfold modCtx; split <;> rfl
@[simp] theorem modCtx_astBase (s : State) (id : Nat) (f : Ctx → Ctx) : (modCtx s id f).astBase = s.astBase := by unfold modCtx; split <;> rfl
@[simp] theorem modCtx_changing (s : State) (id : Nat) (f : Ctx → Ctx) : (modCtx s id f).changing = s.changing := by unfold modCtx; split <;> rfl
@[simp] theorem modCtx_fqBase (s : State) (id : Nat) (f : Ctx → Ctx) : (modCtx s id f).fqBase = s.fqBase := by unfold modCtx; split <;> rfl
@[simp] theorem modCtx_fqLog (s : State) (id : Nat) (f : Ctx → Ctx) : (modCtx s id f).fqLog = s.fqLog := by unfold modCtx; split <;> rfl
@[simp] theorem modCtx_fqProduced (s : State) (id : Nat) (f : Ctx → Ctx) : (modCtx s id f).fqProduced = s.fqProduced := by unfold modCtx; split <;> rfl
@[simp] theorem modCtx_fqConsumed (s : State) (id : Nat) (f : Ctx → Ctx) : (modCtx s id f).fqConsumed = s.fqConsumed := by unfold modCtx; split <;> rfl
@[simp] theorem modCtx_fqSeq (s : State) (id : Nat) (f : Ctx → Ctx) : (modCtx s id f).fqSeq = s.fqSeq := by unfold modCtx; split <;> rfl
@[simp] theorem modCtx_fqBatches (s : State) (id : Nat) (f : Ctx → Ctx) : (modCtx s id f).fqBatches = s.fqBatches := by unfold modCtx; split <;> rfl
@[simp] theorem modCtx_fqLine (s : State) (id : Nat) (f : Ctx → Ctx) : (modCtx s id f).fqLine = s.fqLine := by unfold modCtx; split <;> rfl
@[simp] theorem modCtx_access (s : State) (id : Nat) (f : Ctx → Ctx) : (modCtx s id f).access = s.access := by unfold modCtx; split <;> rfl
@[simp] theorem modCtx_halveAt (s : State) (id : Nat) (f : Ctx → Ctx) : (modCtx s id f).halveAt = s.halveAt := by unfold modCtx; split <;> rfl
@[simp] theorem modCtx_errors (s : State) (id : Nat) (f : Ctx → Ctx) : (modCtx s id f).errors = s.errors := by unfold modCtx; split <;> rfl
@[simp] theorem modCtx_errOverflow (s : State) (id : Nat) (f : Ctx → Ctx) : (modCtx s id f).errOverflow = s.errOverflow := by unfold modCtx; split <;> rfl
@[simp] theorem modCtx_stage (s : State) (id : Nat) (f : Ctx → Ctx) : (modCtx s id f).stage = s.stage := by unfold modCtx; split <;> rfl
@[simp] theorem modCtx_stfail (s : State) (id : Nat) (f : Ctx → Ctx) : (modCtx s id f).stfail = s.stfail := by unfold modCtx; split <;> rfl
@[simp] theorem modCtx_retained (s : State) (id : Nat) (f : Ctx → Ctx) : (modCtx s id f).retained = s.retained := by unfold modCtx; split <;> rfl
@[simp] theorem modCtx_lost (s : State) (id : Nat) (f : Ctx → Ctx) : (modCtx s id f).lost = s.lost := by unfold modCtx; split <;> rfl
@[simp] theorem modCtx_selftest (s : State) (id : Nat) (f : Ctx → Ctx) : (modCtx s id f).selftest = s.selftest := by unfold modCtx; split <;> rfl
@[simp] theorem modCtx_abandoned (s : State) (id : Nat) (f : Ctx → Ctx) : (modCtx s id f).abandoned = s.abandoned := by unfold modCtx; split <;> rfl
@[simp] theorem modCtx_ready (s : State) (id : Nat) (f : Ctx → Ctx) : (modCtx s id f).ready = s.ready := by unfold modCtx; split <;> rfl
@[simp] theorem modCtx_vectors (s : State) (id : Nat) (f : Ctx → Ctx) : (modCtx s id f).vectors = s.vectors := by unfold modCtx; split <;> rfl
@[simp] theorem modCtx_queues (s : State) (id : Nat) (f : Ctx → Ctx) : (modCtx s id f).queues = s.queues := by unfold modCtx; split <;> rfl
@[simp] theorem modCtx_ports (s : State) (id : Nat) (f : Ctx → Ctx) : (modCtx s id f).ports = s.ports := by unfold modCtx; split <;> rfl
@[simp] theorem modCtx_cap (s : State) (id : Nat) (f : Ctx → Ctx) : (modCtx s id f).cap = s.cap := by unfold modCtx; split <;> rfl
@[simp] theorem modCtx_mailboxes (s : State) (id : Nat) (f : Ctx → Ctx) : (modCtx s id f).mailboxes = s.mailboxes := by unfold modCtx; split <;> rfl
@[simp] theorem modCtx_measurements (s : State) (id : Nat) (f : Ctx → Ctx) : (modCtx s id f).measurements = s.measurements := by unfold modCtx; split <;> rfl
@[simp] theorem modCtx_fuses (s : State) (id : Nat) (f : Ctx → Ctx) : (modCtx s id f).fuses = s.fuses := by unfold modCtx; split <;> rfl
@[simp] theorem modCtx_attestKey (s : State) (id : Nat) (f : Ctx → Ctx) : (modCtx s id f).attestKey = s.attestKey := by unfold modCtx; split <;> rfl
@[simp] theorem modCtx_hostDebug (s : State) (id : Nat) (f : Ctx → Ctx) : (modCtx s id f).hostDebug = s.hostDebug := by unfold modCtx; split <;> rfl
@[simp] theorem modCtx_tokSize (s : State) (id : Nat) (f : Ctx → Ctx) : (modCtx s id f).tokSize = s.tokSize := by unfold modCtx; split <;> rfl
@[simp] theorem modCtx_fall (s : State) (id : Nat) (f : Ctx → Ctx) : (modCtx s id f).fall = s.fall := by unfold modCtx; split <;> rfl
@[simp] theorem modCtx_churn (s : State) (id : Nat) (f : Ctx → Ctx) : (modCtx s id f).churn = s.churn := by unfold modCtx; split <;> rfl
@[simp] theorem modCtx_churns (s : State) (id : Nat) (f : Ctx → Ctx) : (modCtx s id f).churns = s.churns := by unfold modCtx; split <;> rfl
@[simp] theorem modCtx_junction0 (s : State) (id : Nat) (f : Ctx → Ctx) : (modCtx s id f).junction0 = s.junction0 := by unfold modCtx; split <;> rfl
@[simp] theorem modCtx_junction1 (s : State) (id : Nat) (f : Ctx → Ctx) : (modCtx s id f).junction1 = s.junction1 := by unfold modCtx; split <;> rfl
@[simp] theorem modCtx_supply (s : State) (id : Nat) (f : Ctx → Ctx) : (modCtx s id f).supply = s.supply := by unfold modCtx; split <;> rfl
@[simp] theorem modCtx_holdRelease (s : State) (id : Nat) (f : Ctx → Ctx) : (modCtx s id f).holdRelease = s.holdRelease := by unfold modCtx; split <;> rfl
@[simp] theorem modCtx_marker (s : State) (id : Nat) (f : Ctx → Ctx) : (modCtx s id f).marker = s.marker := by unfold modCtx; split <;> rfl
@[simp] theorem modCtx_debugOut (s : State) (id : Nat) (f : Ctx → Ctx) : (modCtx s id f).debugOut = s.debugOut := by unfold modCtx; split <;> rfl
@[simp] theorem modCtx_hostOut (s : State) (id : Nat) (f : Ctx → Ctx) : (modCtx s id f).hostOut = s.hostOut := by unfold modCtx; split <;> rfl
@[simp] theorem modCtx_spdmOut (s : State) (id : Nat) (f : Ctx → Ctx) : (modCtx s id f).spdmOut = s.spdmOut := by unfold modCtx; split <;> rfl
@[simp] theorem modCtx_spdmSig (s : State) (id : Nat) (f : Ctx → Ctx) : (modCtx s id f).spdmSig = s.spdmSig := by unfold modCtx; split <;> rfl
@[simp] theorem modCtx_skimStalls (s : State) (id : Nat) (f : Ctx → Ctx) : (modCtx s id f).skimStalls = s.skimStalls := by unfold modCtx; split <;> rfl

/-! Ctx.setPath and Ctx.setPc -/
@[simp] theorem Ctx.setPath_id (c : Ctx) (p : PathEntry) : (c.setPath p).id = c.id := rfl
@[simp] theorem Ctx.setPc_id (c : Ctx) (pc : Pc) : (c.setPc pc).id = c.id := rfl
@[simp] theorem Ctx.setPath_level (c : Ctx) (p : PathEntry) : (c.setPath p).level = c.level := rfl
@[simp] theorem Ctx.setPc_level (c : Ctx) (pc : Pc) : (c.setPc pc).level = c.level := rfl
@[simp] theorem Ctx.setPath_task (c : Ctx) (p : PathEntry) : (c.setPath p).task = c.task := rfl
@[simp] theorem Ctx.setPc_task (c : Ctx) (pc : Pc) : (c.setPc pc).task = c.task := rfl
@[simp] theorem Ctx.setPath_launch (c : Ctx) (p : PathEntry) : (c.setPath p).launch = c.launch := rfl
@[simp] theorem Ctx.setPc_launch (c : Ctx) (pc : Pc) : (c.setPc pc).launch = c.launch := rfl
@[simp] theorem Ctx.setPath_parent (c : Ctx) (p : PathEntry) : (c.setPath p).parent = c.parent := rfl
@[simp] theorem Ctx.setPc_parent (c : Ctx) (pc : Pc) : (c.setPc pc).parent = c.parent := rfl
@[simp] theorem Ctx.setPath_die (c : Ctx) (p : PathEntry) : (c.setPath p).die = c.die := rfl
@[simp] theorem Ctx.setPc_die (c : Ctx) (pc : Pc) : (c.setPc pc).die = c.die := rfl
@[simp] theorem Ctx.setPath_cluster (c : Ctx) (p : PathEntry) : (c.setPath p).cluster = c.cluster := rfl
@[simp] theorem Ctx.setPc_cluster (c : Ctx) (pc : Pc) : (c.setPc pc).cluster = c.cluster := rfl
@[simp] theorem Ctx.setPath_core (c : Ctx) (p : PathEntry) : (c.setPath p).core = c.core := rfl
@[simp] theorem Ctx.setPc_core (c : Ctx) (pc : Pc) : (c.setPc pc).core = c.core := rfl
@[simp] theorem Ctx.setPath_slot (c : Ctx) (p : PathEntry) : (c.setPath p).slot = c.slot := rfl
@[simp] theorem Ctx.setPc_slot (c : Ctx) (pc : Pc) : (c.setPc pc).slot = c.slot := rfl
@[simp] theorem Ctx.setPath_childIx (c : Ctx) (p : PathEntry) : (c.setPath p).childIx = c.childIx := rfl
@[simp] theorem Ctx.setPc_childIx (c : Ctx) (pc : Pc) : (c.setPc pc).childIx = c.childIx := rfl
@[simp] theorem Ctx.setPath_groupIx (c : Ctx) (p : PathEntry) : (c.setPath p).groupIx = c.groupIx := rfl
@[simp] theorem Ctx.setPc_groupIx (c : Ctx) (pc : Pc) : (c.setPc pc).groupIx = c.groupIx := rfl
@[simp] theorem Ctx.setPath_blockIx (c : Ctx) (p : PathEntry) : (c.setPath p).blockIx = c.blockIx := rfl
@[simp] theorem Ctx.setPc_blockIx (c : Ctx) (pc : Pc) : (c.setPc pc).blockIx = c.blockIx := rfl
@[simp] theorem Ctx.setPath_cctx (c : Ctx) (p : PathEntry) : (c.setPath p).cctx = c.cctx := rfl
@[simp] theorem Ctx.setPath_clusterIx (c : Ctx) (p : PathEntry) : (c.setPath p).clusterIx = c.clusterIx := rfl
@[simp] theorem Ctx.setPc_cctx (c : Ctx) (pc : Pc) : (c.setPc pc).cctx = c.cctx := rfl
@[simp] theorem Ctx.setPc_clusterIx (c : Ctx) (pc : Pc) : (c.setPc pc).clusterIx = c.clusterIx := rfl
@[simp] theorem Ctx.setPath_mode (c : Ctx) (p : PathEntry) : (c.setPath p).mode = c.mode := rfl
@[simp] theorem Ctx.setPc_mode (c : Ctx) (pc : Pc) : (c.setPc pc).mode = c.mode := rfl
@[simp] theorem Ctx.setPath_phase (c : Ctx) (p : PathEntry) : (c.setPath p).phase = c.phase := rfl
@[simp] theorem Ctx.setPc_phase (c : Ctx) (pc : Pc) : (c.setPc pc).phase = c.phase := rfl
@[simp] theorem Ctx.setPath_pushing (c : Ctx) (p : PathEntry) : (c.setPath p).pushing = c.pushing := rfl
@[simp] theorem Ctx.setPath_served (c : Ctx) (p : PathEntry) : (c.setPath p).served = c.served := rfl
@[simp] theorem Ctx.setPc_pushing (c : Ctx) (pc : Pc) : (c.setPc pc).pushing = c.pushing := rfl
@[simp] theorem Ctx.setPc_served (c : Ctx) (pc : Pc) : (c.setPc pc).served = c.served := rfl
@[simp] theorem Ctx.setPath_sregs (c : Ctx) (p : PathEntry) : (c.setPath p).sregs = c.sregs := rfl
@[simp] theorem Ctx.setPath_sregBad (c : Ctx) (p : PathEntry) : (c.setPath p).sregBad = c.sregBad := rfl
@[simp] theorem Ctx.setPc_sregs (c : Ctx) (pc : Pc) : (c.setPc pc).sregs = c.sregs := rfl
@[simp] theorem Ctx.setPc_sregBad (c : Ctx) (pc : Pc) : (c.setPc pc).sregBad = c.sregBad := rfl
@[simp] theorem Ctx.setPath_run (c : Ctx) (p : PathEntry) : (c.setPath p).run = c.run := rfl
@[simp] theorem Ctx.setPc_run (c : Ctx) (pc : Pc) : (c.setPc pc).run = c.run := rfl
@[simp] theorem Ctx.setPath_calls (c : Ctx) (p : PathEntry) : (c.setPath p).calls = c.calls := rfl
@[simp] theorem Ctx.setPc_calls (c : Ctx) (pc : Pc) : (c.setPc pc).calls = c.calls := rfl
@[simp] theorem Ctx.setPath_loops (c : Ctx) (p : PathEntry) : (c.setPath p).loops = c.loops := rfl
@[simp] theorem Ctx.setPc_loops (c : Ctx) (pc : Pc) : (c.setPc pc).loops = c.loops := rfl
@[simp] theorem Ctx.setPath_descent (c : Ctx) (p : PathEntry) : (c.setPath p).descent = c.descent := rfl
@[simp] theorem Ctx.setPc_descent (c : Ctx) (pc : Pc) : (c.setPc pc).descent = c.descent := rfl
@[simp] theorem Ctx.setPath_dhead (c : Ctx) (p : PathEntry) : (c.setPath p).dhead = c.dhead := rfl
@[simp] theorem Ctx.setPc_dhead (c : Ctx) (pc : Pc) : (c.setPc pc).dhead = c.dhead := rfl
@[simp] theorem Ctx.setPath_gather (c : Ctx) (p : PathEntry) : (c.setPath p).gather = c.gather := rfl
@[simp] theorem Ctx.setPc_gather (c : Ctx) (pc : Pc) : (c.setPc pc).gather = c.gather := rfl
@[simp] theorem Ctx.setPath_timeHi (c : Ctx) (p : PathEntry) : (c.setPath p).timeHi = c.timeHi := rfl
@[simp] theorem Ctx.setPc_timeHi (c : Ctx) (pc : Pc) : (c.setPc pc).timeHi = c.timeHi := rfl
@[simp] theorem Ctx.setPath_wctHi (c : Ctx) (p : PathEntry) : (c.setPath p).wctHi = c.wctHi := rfl
@[simp] theorem Ctx.setPc_wctHi (c : Ctx) (pc : Pc) : (c.setPc pc).wctHi = c.wctHi := rfl
@[simp] theorem Ctx.setPath_nbv (c : Ctx) (p : PathEntry) : (c.setPath p).nbv = c.nbv := rfl
@[simp] theorem Ctx.setPc_nbv (c : Ctx) (pc : Pc) : (c.setPc pc).nbv = c.nbv := rfl
@[simp] theorem Ctx.setPath_agelim (c : Ctx) (p : PathEntry) : (c.setPath p).agelim = c.agelim := rfl
@[simp] theorem Ctx.setPc_agelim (c : Ctx) (pc : Pc) : (c.setPc pc).agelim = c.agelim := rfl
@[simp] theorem Ctx.setPath_polVlt (c : Ctx) (p : PathEntry) : (c.setPath p).polVlt = c.polVlt := rfl
@[simp] theorem Ctx.setPc_polVlt (c : Ctx) (pc : Pc) : (c.setPc pc).polVlt = c.polVlt := rfl
@[simp] theorem Ctx.setPath_polAcc (c : Ctx) (p : PathEntry) : (c.setPath p).polAcc = c.polAcc := rfl
@[simp] theorem Ctx.setPc_polAcc (c : Ctx) (pc : Pc) : (c.setPc pc).polAcc = c.polAcc := rfl
@[simp] theorem Ctx.setPath_polScr (c : Ctx) (p : PathEntry) : (c.setPath p).polScr = c.polScr := rfl
@[simp] theorem Ctx.setPc_polScr (c : Ctx) (pc : Pc) : (c.setPc pc).polScr = c.polScr := rfl
@[simp] theorem Ctx.setPath_polReg (c : Ctx) (p : PathEntry) : (c.setPath p).polReg = c.polReg := rfl
@[simp] theorem Ctx.setPc_polReg (c : Ctx) (pc : Pc) : (c.setPc pc).polReg = c.polReg := rfl
@[simp] theorem Ctx.setPath_trapCause (c : Ctx) (p : PathEntry) : (c.setPath p).trapCause = c.trapCause := rfl
@[simp] theorem Ctx.setPc_trapCause (c : Ctx) (pc : Pc) : (c.setPc pc).trapCause = c.trapCause := rfl
@[simp] theorem Ctx.setPath_trapPc (c : Ctx) (p : PathEntry) : (c.setPath p).trapPc = c.trapPc := rfl
@[simp] theorem Ctx.setPc_trapPc (c : Ctx) (pc : Pc) : (c.setPc pc).trapPc = c.trapPc := rfl
@[simp] theorem Ctx.setPath_trapAddr (c : Ctx) (p : PathEntry) : (c.setPath p).trapAddr = c.trapAddr := rfl
@[simp] theorem Ctx.setPc_trapAddr (c : Ctx) (pc : Pc) : (c.setPc pc).trapAddr = c.trapAddr := rfl
@[simp] theorem Ctx.setPath_lanes (c : Ctx) (p : PathEntry) : (c.setPath p).lanes = c.lanes := rfl
@[simp] theorem Ctx.setPc_lanes (c : Ctx) (pc : Pc) : (c.setPc pc).lanes = c.lanes := rfl
@[simp] theorem Ctx.setPath_vregs (c : Ctx) (p : PathEntry) : (c.setPath p).vregs = c.vregs := rfl
@[simp] theorem Ctx.setPc_vregs (c : Ctx) (pc : Pc) : (c.setPc pc).vregs = c.vregs := rfl
@[simp] theorem Ctx.setPath_regBase (c : Ctx) (p : PathEntry) : (c.setPath p).regBase = c.regBase := rfl
@[simp] theorem Ctx.setPc_regBase (c : Ctx) (pc : Pc) : (c.setPc pc).regBase = c.regBase := rfl
@[simp] theorem Ctx.setPath_regGen (c : Ctx) (p : PathEntry) : (c.setPath p).regGen = c.regGen := rfl
@[simp] theorem Ctx.setPc_regGen (c : Ctx) (pc : Pc) : (c.setPc pc).regGen = c.regGen := rfl
@[simp] theorem Ctx.setPath_table (c : Ctx) (p : PathEntry) : (c.setPath p).table = c.table := rfl
@[simp] theorem Ctx.setPc_table (c : Ctx) (pc : Pc) : (c.setPc pc).table = c.table := rfl
@[simp] theorem Ctx.setPath_tableGen (c : Ctx) (p : PathEntry) : (c.setPath p).tableGen = c.tableGen := rfl
@[simp] theorem Ctx.setPc_tableGen (c : Ctx) (pc : Pc) : (c.setPc pc).tableGen = c.tableGen := rfl
@[simp] theorem Ctx.setPath_scrRow (c : Ctx) (p : PathEntry) : (c.setPath p).scrRow = c.scrRow := rfl
@[simp] theorem Ctx.setPc_scrRow (c : Ctx) (pc : Pc) : (c.setPc pc).scrRow = c.scrRow := rfl
@[simp] theorem Ctx.setPath_scrRows (c : Ctx) (p : PathEntry) : (c.setPath p).scrRows = c.scrRows := rfl
@[simp] theorem Ctx.setPc_scrRows (c : Ctx) (pc : Pc) : (c.setPc pc).scrRows = c.scrRows := rfl
@[simp] theorem Ctx.setPath_scrGen (c : Ctx) (p : PathEntry) : (c.setPath p).scrGen = c.scrGen := rfl
@[simp] theorem Ctx.setPc_scrGen (c : Ctx) (pc : Pc) : (c.setPc pc).scrGen = c.scrGen := rfl
@[simp] theorem Ctx.setPath_tileBase (c : Ctx) (p : PathEntry) : (c.setPath p).tileBase = c.tileBase := rfl
@[simp] theorem Ctx.setPc_tileBase (c : Ctx) (pc : Pc) : (c.setPc pc).tileBase = c.tileBase := rfl
@[simp] theorem Ctx.setPath_tiles (c : Ctx) (p : PathEntry) : (c.setPath p).tiles = c.tiles := rfl
@[simp] theorem Ctx.setPc_tiles (c : Ctx) (pc : Pc) : (c.setPc pc).tiles = c.tiles := rfl
@[simp] theorem Ctx.setPath_tileGen (c : Ctx) (p : PathEntry) : (c.setPath p).tileGen = c.tileGen := rfl
@[simp] theorem Ctx.setPc_tileGen (c : Ctx) (pc : Pc) : (c.setPc pc).tileGen = c.tileGen := rfl
@[simp] theorem Ctx.setPath_slotBase (c : Ctx) (p : PathEntry) : (c.setPath p).slotBase = c.slotBase := rfl
@[simp] theorem Ctx.setPc_slotBase (c : Ctx) (pc : Pc) : (c.setPc pc).slotBase = c.slotBase := rfl
@[simp] theorem Ctx.setPath_wslots (c : Ctx) (p : PathEntry) : (c.setPath p).wslots = c.wslots := rfl
@[simp] theorem Ctx.setPc_wslots (c : Ctx) (pc : Pc) : (c.setPc pc).wslots = c.wslots := rfl
@[simp] theorem Ctx.setPath_cores (c : Ctx) (p : PathEntry) : (c.setPath p).cores = c.cores := rfl
@[simp] theorem Ctx.setPc_cores (c : Ctx) (pc : Pc) : (c.setPc pc).cores = c.cores := rfl
@[simp] theorem Ctx.setPath_preds (c : Ctx) (p : PathEntry) : (c.setPath p).preds = c.preds := rfl
@[simp] theorem Ctx.setPc_preds (c : Ctx) (pc : Pc) : (c.setPc pc).preds = c.preds := rfl
@[simp] theorem Ctx.setPath_dmk (c : Ctx) (p : PathEntry) : (c.setPath p).dmk = c.dmk := rfl
@[simp] theorem Ctx.setPc_dmk (c : Ctx) (pc : Pc) : (c.setPc pc).dmk = c.dmk := rfl
@[simp] theorem Ctx.setPath_exited (c : Ctx) (p : PathEntry) : (c.setPath p).exited = c.exited := rfl
@[simp] theorem Ctx.setPc_exited (c : Ctx) (pc : Pc) : (c.setPc pc).exited = c.exited := rfl
@[simp] theorem Ctx.setPath_wct (c : Ctx) (p : PathEntry) : (c.setPath p).wct = c.wct := rfl
@[simp] theorem Ctx.setPc_wct (c : Ctx) (pc : Pc) : (c.setPc pc).wct = c.wct := rfl
@[simp] theorem Ctx.setPath_clauses (c : Ctx) (p : PathEntry) : (c.setPath p).clauses = c.clauses := rfl
@[simp] theorem Ctx.setPc_clauses (c : Ctx) (pc : Pc) : (c.setPc pc).clauses = c.clauses := rfl
@[simp] theorem Ctx.setPath_laneMode (c : Ctx) (p : PathEntry) : (c.setPath p).laneMode = c.laneMode := rfl
@[simp] theorem Ctx.setPc_laneMode (c : Ctx) (pc : Pc) : (c.setPc pc).laneMode = c.laneMode := rfl
@[simp] theorem Ctx.setPath_flights (c : Ctx) (p : PathEntry) : (c.setPath p).flights = c.flights := rfl
@[simp] theorem Ctx.setPc_flights (c : Ctx) (pc : Pc) : (c.setPc pc).flights = c.flights := rfl
@[simp] theorem Ctx.setPath_flags (c : Ctx) (p : PathEntry) : (c.setPath p).flags = c.flags := rfl
@[simp] theorem Ctx.setPc_flags (c : Ctx) (pc : Pc) : (c.setPc pc).flags = c.flags := rfl
@[simp] theorem Ctx.setPath_engines (c : Ctx) (p : PathEntry) : (c.setPath p).engines = c.engines := rfl
@[simp] theorem Ctx.setPc_engines (c : Ctx) (pc : Pc) : (c.setPc pc).engines = c.engines := rfl
@[simp] theorem Ctx.setPath_rsb (c : Ctx) (p : PathEntry) : (c.setPath p).rsb = c.rsb := rfl
@[simp] theorem Ctx.setPath_committing (c : Ctx) (p : PathEntry) : (c.setPath p).committing = c.committing := rfl
@[simp] theorem Ctx.setPc_rsb (c : Ctx) (pc : Pc) : (c.setPc pc).rsb = c.rsb := rfl
@[simp] theorem Ctx.setPc_committing (c : Ctx) (pc : Pc) : (c.setPc pc).committing = c.committing := rfl
@[simp] theorem Ctx.setPath_replay (c : Ctx) (p : PathEntry) : (c.setPath p).replay = c.replay := rfl
@[simp] theorem Ctx.setPc_replay (c : Ctx) (pc : Pc) : (c.setPc pc).replay = c.replay := rfl
@[simp] theorem Ctx.setPath_reissue (c : Ctx) (p : PathEntry) : (c.setPath p).reissue = c.reissue := rfl
@[simp] theorem Ctx.setPc_reissue (c : Ctx) (pc : Pc) : (c.setPc pc).reissue = c.reissue := rfl
@[simp] theorem Ctx.setPath_regionLen (c : Ctx) (p : PathEntry) : (c.setPath p).regionLen = c.regionLen := rfl
@[simp] theorem Ctx.setPath_issues (c : Ctx) (p : PathEntry) : (c.setPath p).issues = c.issues := rfl
@[simp] theorem Ctx.setPc_regionLen (c : Ctx) (pc : Pc) : (c.setPc pc).regionLen = c.regionLen := rfl
@[simp] theorem Ctx.setPc_issues (c : Ctx) (pc : Pc) : (c.setPc pc).issues = c.issues := rfl
@[simp] theorem Ctx.setPath_live (c : Ctx) (p : PathEntry) : (c.setPath p).live = c.live := rfl
@[simp] theorem Ctx.setPath_liveRegs (c : Ctx) (p : PathEntry) : (c.setPath p).liveRegs = c.liveRegs := rfl
@[simp] theorem Ctx.setPc_live (c : Ctx) (pc : Pc) : (c.setPc pc).live = c.live := rfl
@[simp] theorem Ctx.setPc_liveRegs (c : Ctx) (pc : Pc) : (c.setPc pc).liveRegs = c.liveRegs := rfl
@[simp] theorem Ctx.setPath_ckpt (c : Ctx) (p : PathEntry) : (c.setPath p).ckpt = c.ckpt := rfl
@[simp] theorem Ctx.setPc_ckpt (c : Ctx) (pc : Pc) : (c.setPc pc).ckpt = c.ckpt := rfl
@[simp] theorem Ctx.setPath_armed (c : Ctx) (p : PathEntry) : (c.setPath p).armed = c.armed := rfl
@[simp] theorem Ctx.setPc_armed (c : Ctx) (pc : Pc) : (c.setPc pc).armed = c.armed := rfl
@[simp] theorem Ctx.setPath_pins (c : Ctx) (p : PathEntry) : (c.setPath p).pins = c.pins := rfl
@[simp] theorem Ctx.setPc_pins (c : Ctx) (pc : Pc) : (c.setPc pc).pins = c.pins := rfl
@[simp] theorem Ctx.setPath_loadFence (c : Ctx) (p : PathEntry) : (c.setPath p).loadFence = c.loadFence := rfl
@[simp] theorem Ctx.setPath_retire (c : Ctx) (p : PathEntry) : (c.setPath p).retire = c.retire := rfl
@[simp] theorem Ctx.setPc_loadFence (c : Ctx) (pc : Pc) : (c.setPc pc).loadFence = c.loadFence := rfl
@[simp] theorem Ctx.setPc_retire (c : Ctx) (pc : Pc) : (c.setPc pc).retire = c.retire := rfl
@[simp] theorem Ctx.setPath_pendAge (c : Ctx) (p : PathEntry) : (c.setPath p).pendAge = c.pendAge := rfl
@[simp] theorem Ctx.setPc_pendAge (c : Ctx) (pc : Pc) : (c.setPc pc).pendAge = c.pendAge := rfl
@[simp] theorem Ctx.setPath_active (c : Ctx) (p : PathEntry) : (c.setPath p).active = c.active := rfl
@[simp] theorem Ctx.setPc_active (c : Ctx) (pc : Pc) : (c.setPc pc).active = c.active := rfl
@[simp] theorem Ctx.setPath_entered (c : Ctx) (p : PathEntry) : (c.setPath p).entered = c.entered := rfl
@[simp] theorem Ctx.setPc_entered (c : Ctx) (pc : Pc) : (c.setPc pc).entered = c.entered := rfl
@[simp] theorem Ctx.setPath_frame (c : Ctx) (p : PathEntry) : (c.setPath p).frame = c.frame := rfl
@[simp] theorem Ctx.setPath_join (c : Ctx) (p : PathEntry) : (c.setPath p).join = c.join := rfl
@[simp] theorem Ctx.setPc_frame (c : Ctx) (pc : Pc) : (c.setPc pc).frame = c.frame := rfl
@[simp] theorem Ctx.setPc_join (c : Ctx) (pc : Pc) : (c.setPc pc).join = c.join := rfl
@[simp] theorem Ctx.setPath_depth (c : Ctx) (p : PathEntry) : (c.setPath p).depth = c.depth := rfl
@[simp] theorem Ctx.setPc_depth (c : Ctx) (pc : Pc) : (c.setPc pc).depth = c.depth := rfl
@[simp] theorem Ctx.setPath_haltOnBreak (c : Ctx) (p : PathEntry) : (c.setPath p).haltOnBreak = c.haltOnBreak := rfl
@[simp] theorem Ctx.setPath_cancelled (c : Ctx) (p : PathEntry) : (c.setPath p).cancelled = c.cancelled := rfl
@[simp] theorem Ctx.setPc_haltOnBreak (c : Ctx) (pc : Pc) : (c.setPc pc).haltOnBreak = c.haltOnBreak := rfl
@[simp] theorem Ctx.setPc_cancelled (c : Ctx) (pc : Pc) : (c.setPc pc).cancelled = c.cancelled := rfl

/-! Ctx.setSreg -/
@[simp] theorem Ctx.setSreg_id (c : Ctx) (n : Nat) (v : Word) : (c.setSreg n v).id = c.id := by unfold Ctx.setSreg; split <;> rfl
@[simp] theorem Ctx.setSreg_level (c : Ctx) (n : Nat) (v : Word) : (c.setSreg n v).level = c.level := by unfold Ctx.setSreg; split <;> rfl
@[simp] theorem Ctx.setSreg_task (c : Ctx) (n : Nat) (v : Word) : (c.setSreg n v).task = c.task := by unfold Ctx.setSreg; split <;> rfl
@[simp] theorem Ctx.setSreg_launch (c : Ctx) (n : Nat) (v : Word) : (c.setSreg n v).launch = c.launch := by unfold Ctx.setSreg; split <;> rfl
@[simp] theorem Ctx.setSreg_parent (c : Ctx) (n : Nat) (v : Word) : (c.setSreg n v).parent = c.parent := by unfold Ctx.setSreg; split <;> rfl
@[simp] theorem Ctx.setSreg_die (c : Ctx) (n : Nat) (v : Word) : (c.setSreg n v).die = c.die := by unfold Ctx.setSreg; split <;> rfl
@[simp] theorem Ctx.setSreg_cluster (c : Ctx) (n : Nat) (v : Word) : (c.setSreg n v).cluster = c.cluster := by unfold Ctx.setSreg; split <;> rfl
@[simp] theorem Ctx.setSreg_core (c : Ctx) (n : Nat) (v : Word) : (c.setSreg n v).core = c.core := by unfold Ctx.setSreg; split <;> rfl
@[simp] theorem Ctx.setSreg_slot (c : Ctx) (n : Nat) (v : Word) : (c.setSreg n v).slot = c.slot := by unfold Ctx.setSreg; split <;> rfl
@[simp] theorem Ctx.setSreg_childIx (c : Ctx) (n : Nat) (v : Word) : (c.setSreg n v).childIx = c.childIx := by unfold Ctx.setSreg; split <;> rfl
@[simp] theorem Ctx.setSreg_groupIx (c : Ctx) (n : Nat) (v : Word) : (c.setSreg n v).groupIx = c.groupIx := by unfold Ctx.setSreg; split <;> rfl
@[simp] theorem Ctx.setSreg_blockIx (c : Ctx) (n : Nat) (v : Word) : (c.setSreg n v).blockIx = c.blockIx := by unfold Ctx.setSreg; split <;> rfl
@[simp] theorem Ctx.setSreg_cctx (c : Ctx) (n : Nat) (v : Word) : (c.setSreg n v).cctx = c.cctx := by unfold Ctx.setSreg; split <;> rfl
@[simp] theorem Ctx.setSreg_clusterIx (c : Ctx) (n : Nat) (v : Word) : (c.setSreg n v).clusterIx = c.clusterIx := by unfold Ctx.setSreg; split <;> rfl
@[simp] theorem Ctx.setSreg_mode (c : Ctx) (n : Nat) (v : Word) : (c.setSreg n v).mode = c.mode := by unfold Ctx.setSreg; split <;> rfl
@[simp] theorem Ctx.setSreg_phase (c : Ctx) (n : Nat) (v : Word) : (c.setSreg n v).phase = c.phase := by unfold Ctx.setSreg; split <;> rfl
@[simp] theorem Ctx.setSreg_pushing (c : Ctx) (n : Nat) (v : Word) : (c.setSreg n v).pushing = c.pushing := by unfold Ctx.setSreg; split <;> rfl
@[simp] theorem Ctx.setSreg_served (c : Ctx) (n : Nat) (v : Word) : (c.setSreg n v).served = c.served := by unfold Ctx.setSreg; split <;> rfl
@[simp] theorem Ctx.setSreg_run (c : Ctx) (n : Nat) (v : Word) : (c.setSreg n v).run = c.run := by unfold Ctx.setSreg; split <;> rfl
@[simp] theorem Ctx.setSreg_calls (c : Ctx) (n : Nat) (v : Word) : (c.setSreg n v).calls = c.calls := by unfold Ctx.setSreg; split <;> rfl
@[simp] theorem Ctx.setSreg_loops (c : Ctx) (n : Nat) (v : Word) : (c.setSreg n v).loops = c.loops := by unfold Ctx.setSreg; split <;> rfl
@[simp] theorem Ctx.setSreg_descent (c : Ctx) (n : Nat) (v : Word) : (c.setSreg n v).descent = c.descent := by unfold Ctx.setSreg; split <;> rfl
@[simp] theorem Ctx.setSreg_dhead (c : Ctx) (n : Nat) (v : Word) : (c.setSreg n v).dhead = c.dhead := by unfold Ctx.setSreg; split <;> rfl
@[simp] theorem Ctx.setSreg_gather (c : Ctx) (n : Nat) (v : Word) : (c.setSreg n v).gather = c.gather := by unfold Ctx.setSreg; split <;> rfl
@[simp] theorem Ctx.setSreg_timeHi (c : Ctx) (n : Nat) (v : Word) : (c.setSreg n v).timeHi = c.timeHi := by unfold Ctx.setSreg; split <;> rfl
@[simp] theorem Ctx.setSreg_wctHi (c : Ctx) (n : Nat) (v : Word) : (c.setSreg n v).wctHi = c.wctHi := by unfold Ctx.setSreg; split <;> rfl
@[simp] theorem Ctx.setSreg_nbv (c : Ctx) (n : Nat) (v : Word) : (c.setSreg n v).nbv = c.nbv := by unfold Ctx.setSreg; split <;> rfl
@[simp] theorem Ctx.setSreg_agelim (c : Ctx) (n : Nat) (v : Word) : (c.setSreg n v).agelim = c.agelim := by unfold Ctx.setSreg; split <;> rfl
@[simp] theorem Ctx.setSreg_polVlt (c : Ctx) (n : Nat) (v : Word) : (c.setSreg n v).polVlt = c.polVlt := by unfold Ctx.setSreg; split <;> rfl
@[simp] theorem Ctx.setSreg_polAcc (c : Ctx) (n : Nat) (v : Word) : (c.setSreg n v).polAcc = c.polAcc := by unfold Ctx.setSreg; split <;> rfl
@[simp] theorem Ctx.setSreg_polScr (c : Ctx) (n : Nat) (v : Word) : (c.setSreg n v).polScr = c.polScr := by unfold Ctx.setSreg; split <;> rfl
@[simp] theorem Ctx.setSreg_polReg (c : Ctx) (n : Nat) (v : Word) : (c.setSreg n v).polReg = c.polReg := by unfold Ctx.setSreg; split <;> rfl
@[simp] theorem Ctx.setSreg_trapCause (c : Ctx) (n : Nat) (v : Word) : (c.setSreg n v).trapCause = c.trapCause := by unfold Ctx.setSreg; split <;> rfl
@[simp] theorem Ctx.setSreg_trapPc (c : Ctx) (n : Nat) (v : Word) : (c.setSreg n v).trapPc = c.trapPc := by unfold Ctx.setSreg; split <;> rfl
@[simp] theorem Ctx.setSreg_trapAddr (c : Ctx) (n : Nat) (v : Word) : (c.setSreg n v).trapAddr = c.trapAddr := by unfold Ctx.setSreg; split <;> rfl
@[simp] theorem Ctx.setSreg_lanes (c : Ctx) (n : Nat) (v : Word) : (c.setSreg n v).lanes = c.lanes := by unfold Ctx.setSreg; split <;> rfl
@[simp] theorem Ctx.setSreg_vregs (c : Ctx) (n : Nat) (v : Word) : (c.setSreg n v).vregs = c.vregs := by unfold Ctx.setSreg; split <;> rfl
@[simp] theorem Ctx.setSreg_regBase (c : Ctx) (n : Nat) (v : Word) : (c.setSreg n v).regBase = c.regBase := by unfold Ctx.setSreg; split <;> rfl
@[simp] theorem Ctx.setSreg_regGen (c : Ctx) (n : Nat) (v : Word) : (c.setSreg n v).regGen = c.regGen := by unfold Ctx.setSreg; split <;> rfl
@[simp] theorem Ctx.setSreg_table (c : Ctx) (n : Nat) (v : Word) : (c.setSreg n v).table = c.table := by unfold Ctx.setSreg; split <;> rfl
@[simp] theorem Ctx.setSreg_tableGen (c : Ctx) (n : Nat) (v : Word) : (c.setSreg n v).tableGen = c.tableGen := by unfold Ctx.setSreg; split <;> rfl
@[simp] theorem Ctx.setSreg_scrRow (c : Ctx) (n : Nat) (v : Word) : (c.setSreg n v).scrRow = c.scrRow := by unfold Ctx.setSreg; split <;> rfl
@[simp] theorem Ctx.setSreg_scrRows (c : Ctx) (n : Nat) (v : Word) : (c.setSreg n v).scrRows = c.scrRows := by unfold Ctx.setSreg; split <;> rfl
@[simp] theorem Ctx.setSreg_scrGen (c : Ctx) (n : Nat) (v : Word) : (c.setSreg n v).scrGen = c.scrGen := by unfold Ctx.setSreg; split <;> rfl
@[simp] theorem Ctx.setSreg_tileBase (c : Ctx) (n : Nat) (v : Word) : (c.setSreg n v).tileBase = c.tileBase := by unfold Ctx.setSreg; split <;> rfl
@[simp] theorem Ctx.setSreg_tiles (c : Ctx) (n : Nat) (v : Word) : (c.setSreg n v).tiles = c.tiles := by unfold Ctx.setSreg; split <;> rfl
@[simp] theorem Ctx.setSreg_tileGen (c : Ctx) (n : Nat) (v : Word) : (c.setSreg n v).tileGen = c.tileGen := by unfold Ctx.setSreg; split <;> rfl
@[simp] theorem Ctx.setSreg_slotBase (c : Ctx) (n : Nat) (v : Word) : (c.setSreg n v).slotBase = c.slotBase := by unfold Ctx.setSreg; split <;> rfl
@[simp] theorem Ctx.setSreg_wslots (c : Ctx) (n : Nat) (v : Word) : (c.setSreg n v).wslots = c.wslots := by unfold Ctx.setSreg; split <;> rfl
@[simp] theorem Ctx.setSreg_cores (c : Ctx) (n : Nat) (v : Word) : (c.setSreg n v).cores = c.cores := by unfold Ctx.setSreg; split <;> rfl
@[simp] theorem Ctx.setSreg_preds (c : Ctx) (n : Nat) (v : Word) : (c.setSreg n v).preds = c.preds := by unfold Ctx.setSreg; split <;> rfl
@[simp] theorem Ctx.setSreg_dmk (c : Ctx) (n : Nat) (v : Word) : (c.setSreg n v).dmk = c.dmk := by unfold Ctx.setSreg; split <;> rfl
@[simp] theorem Ctx.setSreg_exited (c : Ctx) (n : Nat) (v : Word) : (c.setSreg n v).exited = c.exited := by unfold Ctx.setSreg; split <;> rfl
@[simp] theorem Ctx.setSreg_wct (c : Ctx) (n : Nat) (v : Word) : (c.setSreg n v).wct = c.wct := by unfold Ctx.setSreg; split <;> rfl
@[simp] theorem Ctx.setSreg_clauses (c : Ctx) (n : Nat) (v : Word) : (c.setSreg n v).clauses = c.clauses := by unfold Ctx.setSreg; split <;> rfl
@[simp] theorem Ctx.setSreg_laneMode (c : Ctx) (n : Nat) (v : Word) : (c.setSreg n v).laneMode = c.laneMode := by unfold Ctx.setSreg; split <;> rfl
@[simp] theorem Ctx.setSreg_flights (c : Ctx) (n : Nat) (v : Word) : (c.setSreg n v).flights = c.flights := by unfold Ctx.setSreg; split <;> rfl
@[simp] theorem Ctx.setSreg_flags (c : Ctx) (n : Nat) (v : Word) : (c.setSreg n v).flags = c.flags := by unfold Ctx.setSreg; split <;> rfl
@[simp] theorem Ctx.setSreg_engines (c : Ctx) (n : Nat) (v : Word) : (c.setSreg n v).engines = c.engines := by unfold Ctx.setSreg; split <;> rfl
@[simp] theorem Ctx.setSreg_rsb (c : Ctx) (n : Nat) (v : Word) : (c.setSreg n v).rsb = c.rsb := by unfold Ctx.setSreg; split <;> rfl
@[simp] theorem Ctx.setSreg_committing (c : Ctx) (n : Nat) (v : Word) : (c.setSreg n v).committing = c.committing := by unfold Ctx.setSreg; split <;> rfl
@[simp] theorem Ctx.setSreg_replay (c : Ctx) (n : Nat) (v : Word) : (c.setSreg n v).replay = c.replay := by unfold Ctx.setSreg; split <;> rfl
@[simp] theorem Ctx.setSreg_reissue (c : Ctx) (n : Nat) (v : Word) : (c.setSreg n v).reissue = c.reissue := by unfold Ctx.setSreg; split <;> rfl
@[simp] theorem Ctx.setSreg_regionLen (c : Ctx) (n : Nat) (v : Word) : (c.setSreg n v).regionLen = c.regionLen := by unfold Ctx.setSreg; split <;> rfl
@[simp] theorem Ctx.setSreg_issues (c : Ctx) (n : Nat) (v : Word) : (c.setSreg n v).issues = c.issues := by unfold Ctx.setSreg; split <;> rfl
@[simp] theorem Ctx.setSreg_live (c : Ctx) (n : Nat) (v : Word) : (c.setSreg n v).live = c.live := by unfold Ctx.setSreg; split <;> rfl
@[simp] theorem Ctx.setSreg_liveRegs (c : Ctx) (n : Nat) (v : Word) : (c.setSreg n v).liveRegs = c.liveRegs := by unfold Ctx.setSreg; split <;> rfl
@[simp] theorem Ctx.setSreg_ckpt (c : Ctx) (n : Nat) (v : Word) : (c.setSreg n v).ckpt = c.ckpt := by unfold Ctx.setSreg; split <;> rfl
@[simp] theorem Ctx.setSreg_armed (c : Ctx) (n : Nat) (v : Word) : (c.setSreg n v).armed = c.armed := by unfold Ctx.setSreg; split <;> rfl
@[simp] theorem Ctx.setSreg_pins (c : Ctx) (n : Nat) (v : Word) : (c.setSreg n v).pins = c.pins := by unfold Ctx.setSreg; split <;> rfl
@[simp] theorem Ctx.setSreg_loadFence (c : Ctx) (n : Nat) (v : Word) : (c.setSreg n v).loadFence = c.loadFence := by unfold Ctx.setSreg; split <;> rfl
@[simp] theorem Ctx.setSreg_retire (c : Ctx) (n : Nat) (v : Word) : (c.setSreg n v).retire = c.retire := by unfold Ctx.setSreg; split <;> rfl
@[simp] theorem Ctx.setSreg_pendAge (c : Ctx) (n : Nat) (v : Word) : (c.setSreg n v).pendAge = c.pendAge := by unfold Ctx.setSreg; split <;> rfl
@[simp] theorem Ctx.setSreg_active (c : Ctx) (n : Nat) (v : Word) : (c.setSreg n v).active = c.active := by unfold Ctx.setSreg; split <;> rfl
@[simp] theorem Ctx.setSreg_entered (c : Ctx) (n : Nat) (v : Word) : (c.setSreg n v).entered = c.entered := by unfold Ctx.setSreg; split <;> rfl
@[simp] theorem Ctx.setSreg_frame (c : Ctx) (n : Nat) (v : Word) : (c.setSreg n v).frame = c.frame := by unfold Ctx.setSreg; split <;> rfl
@[simp] theorem Ctx.setSreg_join (c : Ctx) (n : Nat) (v : Word) : (c.setSreg n v).join = c.join := by unfold Ctx.setSreg; split <;> rfl
@[simp] theorem Ctx.setSreg_depth (c : Ctx) (n : Nat) (v : Word) : (c.setSreg n v).depth = c.depth := by unfold Ctx.setSreg; split <;> rfl
@[simp] theorem Ctx.setSreg_haltOnBreak (c : Ctx) (n : Nat) (v : Word) : (c.setSreg n v).haltOnBreak = c.haltOnBreak := by unfold Ctx.setSreg; split <;> rfl
@[simp] theorem Ctx.setSreg_cancelled (c : Ctx) (n : Nat) (v : Word) : (c.setSreg n v).cancelled = c.cancelled := by unfold Ctx.setSreg; split <;> rfl

end Sys2Proof.Machine
end

