-- ==== Sys2Proof/Laws/Control.lean ====
section
/-! SUPPORT. What a control instruction does once, for all of them: `runCtrl` where none of its checks stops the
instruction, the entry state without a safe point, and what finishing leaves as it was. -/

namespace Sys2Proof.Machine

theorem entryState_none (s : State) (c : Ctx) : entryState none s c = some s := rfl

theorem entryState_sequencer (w : Option Word) (s : State) (c : Ctx) (h : c.isGroup = false) : entryState w s c = some s := by
  cases w <;> simp [entryState, h]

/-- The instruction's own effect runs in the entry state (R189, R329). -/
theorem runCtrl_passes (sp : CtrlSpec) (illegal : State → Ctx → Bool) (body : State → Ctx → Act) (s : State) (c : Ctx)
    (t : CtrlTurn s c) (p : CtrlPasses sp c) (legal : illegal s c = false)
    (mode : (sp.blockMode && c.level == 4 && taskMode s c) = false) (s1 : State)
    (h : entryState sp.sp s c = some s1) :
    runCtrl sp illegal body s = finishCtrl c.id sp c.pc c.pc.toNat (body s1 ((getCtx s1 c.id).getD c)) := by
  obtain ⟨turn, found, runs, power⟩ := t
  obtain ⟨must, level, scope, paths, region, idemp⟩ := p
  unfold runCtrl ctrlFault
  rw [turn]
  simp only [found, runs, power, Bool.not_true, Bool.or_self, Bool.false_eq_true, if_false, must, legal, level, mode, scope, paths,
    region, idemp]
  unfold entryState at h
  split at h
  · next hs =>
    cases h
    simp [hs, found]
  · next w hs =>
    simp only [hs]
    split at h
    · next hg =>
      cases h
      have : c.isGroup = false := by simpa using hg
      simp [this, found]
    · next hg =>
      have hg' : c.isGroup = true := by simpa using hg
      split at h
      · cases h
      · next hm =>
        have hm' : memLanesIssued s c = true := by simpa using hm
        split at h
        · cases h
        · next s2 hc =>
          cases h
          simp [hg', hm', getCtx]

/-- An instruction whose effect is a change of its own context. -/
theorem pureCtrl_passes (sp : CtrlSpec) (f : Ctx → Ctx) (s : State) (c : Ctx) (t : CtrlTurn s c) (p : CtrlPasses sp c)
    (mode : (sp.blockMode && c.level == 4 && taskMode s c) = false) (s1 : State) (c1 : Ctx) (h : entryState sp.sp s c = some s1) (hc : getCtx s1 c.id = some c1) :
    pureCtrl sp f s =
      .next (modCtx (setCtx s1 (f c1)) c.id (fun x => x.advance sp (c.pc + BitVec.ofNat 24 sp.len) s1.nextId)) := by
  unfold pureCtrl
  rw [runCtrl_passes sp _ _ s c t p rfl mode s1 h]
  simp [finishCtrl, hc]

end Sys2Proof.Machine
end

