-- ==== Sys2Proof/Laws/Lane.lean ====
section
/-! SUPPORT. What a lane instruction does once, for all of them: `runLane` where none of the shared checks stops it. -/

namespace Sys2Proof.Machine

/-- No active lane has an uncorrectable source. -/
theorem no_bad_lane (spec : LaneSpec) (s : State) (c : Ctx) (m : LaneMask)
    (h : (lanesOf m).all (fun l => spec.collects.all (fun r => vstale s c r l || !poisonAt s (coreKey c.core (c.vregOff r l)))) = true) :
    (lanesOf m).filter (fun l => spec.collects.any (fun r => !vstale s c r l && poisonAt s (coreKey c.core (c.vregOff r l)))) = [] := by
  rw [List.filter_eq_nil_iff]
  intro l hl
  have h1 := List.all_eq_true.1 h l hl
  simp only [Bool.not_eq_true, List.any_eq_false, Bool.and_eq_true, Bool.not_eq_eq_eq_not, Bool.not_true, not_and]
  intro r hr hv
  have h2 := List.all_eq_true.1 h1 r hr
  simpa [hv] using h2

theorem maskOf_nil : maskOf [] = 0 := rfl

/-- The instruction's own effect runs on its active lanes (R168, R192). -/
theorem runLane_passes (spec : LaneSpec) (body : State → Ctx → Clause → LaneMask → LAct) (s : State) (c : Ctx) (q : Clause)
    (t : LaneTurn s c q spec.f) (p : LanePasses spec s c q) (own : spec.ownChecks = false) :
    runLane spec body s = finishLane c.id q spec (body s c q (activeLanes c q spec.f)) := by
  obtain ⟨turn, found, head, runs, power, started, waits, room⟩ := t
  obtain ⟨regs, ready, held, idemp, fresh, sound⟩ := p
  unfold runLane
  rw [turn]
  simp only [found, head, runs, power, started, Bool.not_true, Bool.or_self, Bool.false_eq_true, if_false, waits, room, regs,
    own, ready, held, idemp]
  have hs : (if q.pols.getLsbD 0 = true then
      (sourcePairs spec s c q (activeLanes c q spec.f)).find? (fun p => vstale s c p.1 p.2) else none) = none := by
    split
    · next hp =>
      rw [hp, Bool.true_and, List.any_eq_false] at fresh
      exact List.find?_eq_none.2 (fun x hx => fresh x hx)
    · rfl
  simp only [hs, no_bad_lane spec s c _ sound, killForUe, found, head, Option.getD_some, maskOf_nil]
  rw [show ~~~(0 : LaneMask) = BitVec.allOnes 64 by rfl, BitVec.and_allOnes]

end Sys2Proof.Machine
end

