-- ==== Sys2Proof/Laws/Memory.lean ====
section
/-! SUPPORT. Tables and memory: reading after writing, the canonical form, and what writes to granules keep (R99 to R101). -/

namespace Sys2Proof.Machine

/-! Tables -/

theorem sput_mem_key {α : Type} [DecidableEq α] (d : α) (t : Sparse α) (k : Nat) (v : α) (x : Nat × α)
    (h : x ∈ sput d t k v) : x ∈ t ∨ x.1 = k := by
  induction t with
  | nil => simp only [sput] at h; split at h <;> simp_all
  | cons a r ih =>
    obtain ⟨k', w⟩ := a
    simp only [sput] at h
    split at h
    · split at h
      · exact .inl h
      · rcases List.mem_cons.1 h with h | h
        · exact .inr (by rw [h])
        · exact .inl h
    · split at h
      · split at h
        · exact .inl (List.mem_cons_of_mem _ h)
        · rcases List.mem_cons.1 h with h | h
          · exact .inr (by rw [h])
          · exact .inl (List.mem_cons_of_mem _ h)
      · rcases List.mem_cons.1 h with h | h
        · exact .inl (by rw [h]; exact List.mem_cons_self ..)
        · exact (ih h).imp (List.mem_cons_of_mem _) id

/-- The canonical form, as a statement on the list. -/
theorem sparseWf_cons {α : Type} [DecidableEq α] (d : α) (k : Nat) (v : α) (r : Sparse α) :
    sparseWf d ((k, v) :: r) = true ↔ v ≠ d ∧ sparseWf d r = true ∧ ∀ x ∈ r, k < x.1 := by
  induction r generalizing k v with
  | nil => simp [sparseWf]
  | cons a r ih =>
    obtain ⟨k', w⟩ := a
    simp only [sparseWf, Bool.and_eq_true, decide_eq_true_eq]
    constructor
    · rintro ⟨⟨hv, hk⟩, hr⟩
      refine ⟨hv, hr, ?_⟩
      intro x hx
      rcases List.mem_cons.1 hx with rfl | hx
      · exact hk
      · exact Nat.lt_trans hk ((ih k' w).1 hr |>.2.2 x hx)
    · rintro ⟨hv, hr, hall⟩
      exact ⟨⟨hv, hall (k', w) (List.mem_cons_self ..)⟩, hr⟩

/-- Writing a table keeps its canonical form. -/
theorem sparseWf_sput {α : Type} [DecidableEq α] (d : α) (t : Sparse α) (k : Nat) (v : α) (h : sparseWf d t = true) :
    sparseWf d (sput d t k v) = true := by
  induction t with
  | nil => simp only [sput]; split <;> simp_all [sparseWf]
  | cons a r ih =>
    obtain ⟨k', w⟩ := a
    obtain ⟨hw, hr, hall⟩ := (sparseWf_cons d k' w r).1 h
    simp only [sput]
    split
    · split
      · exact h
      · next hlt hv =>
        refine (sparseWf_cons ..).2 ⟨hv, h, ?_⟩
        intro x hx
        rcases List.mem_cons.1 hx with rfl | hx
        · exact hlt
        · exact Nat.lt_trans hlt (hall x hx)
    · split
      · split
        · exact hr
        · next hge heq hv => exact (sparseWf_cons ..).2 ⟨hv, hr, by subst heq; exact hall⟩
      · refine (sparseWf_cons ..).2 ⟨hw, ih hr, ?_⟩
        intro x hx
        rcases sput_mem_key d r k v x hx with hx | hx
        · exact hall x hx
        · omega

/-- A table that lists no key at or below `k` gives the default there. -/
theorem sget_lt {α : Type} (d : α) (t : Sparse α) (k : Nat) (h : ∀ x ∈ t, k < x.1) : sget d t k = d := by
  cases t with
  | nil => rfl
  | cons a r =>
    have := h a (List.mem_cons_self ..)
    simp only [sget]
    split
    · omega
    · rfl

/-- Reading a key after writing it, on a table in canonical form. -/
theorem sget_sput_same {α : Type} [DecidableEq α] (d : α) (t : Sparse α) (k : Nat) (v : α) (h : sparseWf d t = true) :
    sget d (sput d t k v) k = v := by
  induction t with
  | nil => simp only [sput]; split <;> simp_all [sget]
  | cons a r ih =>
    obtain ⟨k', w⟩ := a
    obtain ⟨_, hr, hall⟩ := (sparseWf_cons d k' w r).1 h
    simp only [sput]
    split
    · split
      · next hlt hv =>
        rw [sget_lt d _ k]
        · exact hv.symm
        · intro x hx
          rcases List.mem_cons.1 hx with rfl | hx
          · exact hlt
          · exact Nat.lt_trans hlt (hall x hx)
      · simp [sget]
    · split
      · split
        · next hge heq hv =>
          rw [sget_lt d _ k]
          · exact hv.symm
          · subst heq; exact hall
        · simp [sget]
      · next hge hne =>
        simp only [sget]
        rw [if_neg (fun e => hne e.symm), if_neg hge]
        exact ih hr

/-- Reading another key after a write. -/
theorem sget_sput_other {α : Type} [DecidableEq α] (d : α) (t : Sparse α) (k j : Nat) (v : α) (h : sparseWf d t = true)
    (hj : j ≠ k) : sget d (sput d t k v) j = sget d t j := by
  induction t with
  | nil => simp only [sput]; split <;> simp_all [sget, Ne.symm hj]
  | cons a r ih =>
    obtain ⟨k', w⟩ := a
    obtain ⟨_, hr, hall⟩ := (sparseWf_cons d k' w r).1 h
    simp only [sput]
    split
    · split
      · rfl
      · next hlt hv =>
        simp only [sget]
        rw [if_neg (Ne.symm hj)]
        split
        · next hjk =>
          rw [if_neg (by omega), if_pos (by omega)]
        · rfl
    · split
      · next hge heq =>
        subst heq
        split
        · simp only [sget]
          rw [if_neg (Ne.symm hj)]
          split
          · next hjk =>
            exact sget_lt d _ j (fun x hx => Nat.lt_trans hjk (hall x hx))
          · rfl
        · simp [sget, Ne.symm hj]
      · simp only [sget]
        split
        · rfl
        · split
          · rfl
          · exact ih hr

/-! Memory -/

theorem memWrite_wf (m : List Host.Cell) (k : Nat) (v : Byte) (h : Memory.wf m = true) : Memory.wf (memWrite m k v) = true :=
  sparseWf_sput unlistedByte m k v h

theorem memRead_memWrite_same (m : List Host.Cell) (k : Nat) (v : Byte) (h : Memory.wf m = true) :
    memRead (memWrite m k v) k = v := sget_sput_same unlistedByte m k v h

theorem memRead_memWrite_other (m : List Host.Cell) (k j : Nat) (v : Byte) (h : Memory.wf m = true) (hj : j ≠ k) :
    memRead (memWrite m k v) j = memRead m j := sget_sput_other unlistedByte m k j v h hj

theorem memWriteList_wf (bs : List Byte) (m : List Host.Cell) (k : Nat) (h : Memory.wf m = true) :
    Memory.wf (memWriteList m k bs) = true := by
  induction bs generalizing m k with
  | nil => exact h
  | cons b r ih => exact ih _ _ (memWrite_wf m k b h)

/-- A byte outside a run that is written reads as before. -/
theorem memRead_memWriteList_other (bs : List Byte) (m : List Host.Cell) (k j : Nat) (h : Memory.wf m = true)
    (hj : j < k ∨ k + bs.length ≤ j) : memRead (memWriteList m k bs) j = memRead m j := by
  induction bs generalizing m k with
  | nil => rfl
  | cons b r ih =>
    simp only [List.length_cons] at hj
    simp only [memWriteList]
    rw [ih _ _ (memWrite_wf m k b h) (by omega)]
    exact memRead_memWrite_other m k j b h (by omega)

/-- A byte of a run that is written reads as written. -/
theorem memRead_memWriteList_at (bs : List Byte) (m : List Host.Cell) (k i : Nat) (h : Memory.wf m = true)
    (hi : i < bs.length) : memRead (memWriteList m k bs) (k + i) = bs.getD i 0 := by
  induction bs generalizing m k i with
  | nil => simp at hi
  | cons b r ih =>
    simp only [memWriteList]
    cases i with
    | zero =>
      rw [memRead_memWriteList_other r _ _ _ (memWrite_wf m k b h) (by omega)]
      simpa using memRead_memWrite_same m k b h
    | succ i =>
      have := ih (memWrite m k b) (k + 1) i (memWrite_wf m k b h) (by simpa using hi)
      rw [show k + (i + 1) = k + 1 + i by omega, this]
      simp

theorem canonical_of_eq (s t : State) (hm : t.mem = s.mem) (ht : t.tags = s.tags) (h : s.canonical) : t.canonical := by
  unfold State.canonical at *
  rw [hm, ht]
  exact h

theorem writeBytes_canonical (s : State) (k : Nat) (bs : List Byte) (h : s.canonical) : (writeBytes s k bs).canonical :=
  ⟨memWriteList_wf bs s.mem k h.1, h.2⟩

theorem writeWord_canonical (s : State) (k : Nat) (w : Word) (h : s.canonical) : (writeWord s k w).canonical :=
  writeBytes_canonical s k _ h

theorem writeWords_canonical (ws : List Word) (s : State) (k : Nat) (h : s.canonical) : (writeWords s k ws).canonical := by
  induction ws generalizing s k with
  | nil => exact h
  | cons w r ih => exact ih _ _ (writeWord_canonical s k w h)

theorem setTag_canonical (s : State) (k : Nat) (g : BitVec 12) (h : s.canonical) : (setTag s k g).canonical :=
  ⟨h.1, sparseWf_sput 0 s.tags (granule k) g h.2⟩

theorem clearPoison_canonical (s : State) (k : Nat) (h : s.canonical) : (clearPoison s k).canonical := h

theorem zeroGranule_canonical (s : State) (k : Nat) (g : BitVec 12) (h : s.canonical) : (zeroGranule s k g).canonical := by
  unfold zeroGranule
  exact clearPoison_canonical _ k (setTag_canonical _ k g (writeBytes_canonical s _ _ h))

theorem writeTagged1_canonical (s : State) (k : Nat) (g : BitVec 12) (b : Byte) (h : s.canonical) :
    (writeTagged1 s k g b).canonical := by
  have h1 : (if tagAt s k = g then s else zeroGranule s k g).canonical := by
    split
    · exact h
    · exact zeroGranule_canonical s k g h
  exact ⟨memWrite_wf _ k b h1.1, h1.2⟩

theorem writeTagged_canonical (bs : List Byte) (s : State) (k : Nat) (g : BitVec 12) (h : s.canonical) :
    (writeTagged s k g bs).canonical := by
  induction bs generalizing s k with
  | nil => exact h
  | cons b r ih => exact ih _ _ (writeTagged1_canonical s k g b h)

theorem clearCovered_canonical (s : State) (ks : List Nat) (h : s.canonical) : (clearCovered s ks).canonical := by
  unfold clearCovered
  split
  · exact h
  · exact h

theorem writeAll_canonical (s : State) (k : Nat) (g : BitVec 12) (t : Sparse Byte) (h : s.canonical) :
    (writeAll s k g t).canonical := by
  refine clearCovered_canonical _ _ ?_
  generalize s = s at h ⊢
  induction t generalizing s with
  | nil => exact h
  | cons b r ih => exact ih _ (writeTagged1_canonical s _ g _ h)

theorem countLate_canonical (s : State) (k : Nat) (h : s.canonical) : (countLate s k).canonical := h

theorem coreWriteAt_canonical (s : State) (k off : Nat) (g : BitVec 12) (t : Sparse Byte) (h : s.canonical) :
    (coreWriteAt s k off g t).canonical := by
  unfold coreWriteAt
  split
  · exact writeAll_canonical s _ g t h
  · exact countLate_canonical s k h

theorem vaultWriteAt_canonical (s : State) (v off : Nat) (g : BitVec 12) (t : Sparse Byte) (h : s.canonical) :
    (vaultWriteAt s v off g t).canonical := by
  unfold vaultWriteAt
  split
  · exact writeAll_canonical s _ g t h
  · exact countLate_canonical s _ h

theorem vwrite_canonical (s : State) (c : Ctx) (n lane : Nat) (w : Word) (h : s.canonical) :
    (vwrite s c n lane w).canonical := coreWriteAt_canonical s _ _ _ _ h

theorem putLanes_canonical (ls : List (Nat × Word)) (s : State) (c : Ctx) (n : Nat) (h : s.canonical) :
    (putLanes s c n ls).canonical := by
  induction ls generalizing s with
  | nil => exact h
  | cons x r ih => exact ih _ (vwrite_canonical s c n x.1 x.2 h)

theorem writeLanes_canonical (s : State) (c : Ctx) (n : Nat) (ls : List (Nat × Word)) (h : s.canonical) :
    (writeLanes s c n ls).canonical := clearCovered_canonical _ _ (putLanes_canonical ls s c n h)

theorem landBytes_canonical (s : State) (l : Nat) (gen : Option (BitVec 12)) (t : Sparse Byte) (h : s.canonical) :
    (landBytes s l gen t).canonical := by
  unfold landBytes
  split
  · exact vaultWriteAt_canonical s _ _ _ t h
  · refine clearCovered_canonical _ _ ⟨?_, h.2⟩
    show Memory.wf (t.foldl _ s.mem) = true
    have := h.1
    generalize s.mem = m at this ⊢
    induction t generalizing m with
    | nil => exact this
    | cons b r ih => exact ih _ (memWrite_wf m _ _ this)

theorem setCtx_canonical (s : State) (c : Ctx) (h : s.canonical) : (setCtx s c).canonical := h
theorem setCore_canonical (s : State) (k : Nat) (c : Core) (h : s.canonical) : (setCore s k c).canonical := h
theorem modCtx_canonical (s : State) (id : Nat) (f : Ctx → Ctx) (h : s.canonical) : (modCtx s id f).canonical :=
  canonical_of_eq s _ (modCtx_mem s id f) (modCtx_tags s id f) h

/-- Reset lists no byte and no tag. -/
theorem reset_canonical : State.reset.canonical := by
  constructor <;> decide

end Sys2Proof.Machine
end

