-- ==== Sys2Proof/Laws/PerInstr.lean ====
section
/-! SUPPORT. Encoding and decoding agree, one lemma a constructor: the words that the encoder gives a well-formed
instruction decode to that instruction, whatever words follow a control instruction. -/

namespace Sys2Proof.Laws

set_option Elab.async false

/-- The words of a well-formed instruction decode to it, with their number (R159 to R169, R184, R190, R191). -/
def RoundTrip.Statement (i : Instr) : Prop :=
  i.wf = true →
    (∀ ws, encodeCtrl i = some ws → ∀ rest, decodeCtrlWords (ws ++ rest) = .ok (i, ws.length)) ∧
    (∀ op f, laneParts i = some (op, f) → decodeLaneWords (encLane op f) = .ok i)

/-! The fields of an encoded word -/

theorem field_low {v w n : Nat} {hi : BitVec v} {lo : BitVec w} {k : Nat} (h : k + n ≤ w) :
    (hi.append lo).extractLsb' k n = lo.extractLsb' k n := BitVec.extractLsb'_append_eq_of_add_le h

theorem field_high {v w n : Nat} {hi : BitVec v} {lo : BitVec w} {k : Nat} (h : w ≤ k) :
    (hi.append lo).extractLsb' k n = hi.extractLsb' (k - w) n := BitVec.extractLsb'_append_eq_of_le h

theorem field_all {w : Nat} (x : BitVec w) : x.extractLsb' 0 w = x := BitVec.extractLsb'_eq_self

theorem field_bit {w : Nat} (x : BitVec w) (k : Nat) : x.getLsbD k = (x.extractLsb' k 1).getLsbD 0 := by simp

theorem bit_ofBool (b : Bool) : (BitVec.ofBool b).getLsbD 0 = b := by cases b <;> rfl

theorem encCR_field (s : Bool) (op : BitVec 7) (d a b : Reg) (k n : Nat) : (encCR s op d a b).extractLsb' k n =
    (((((BitVec.ofBool s).append op).append d).append a).append b).extractLsb' k n := rfl

theorem encCW_field (s : Bool) (op : BitVec 7) (d : Reg) (m : BitVec 16) (k n : Nat) :
    (encCW s op d m).extractLsb' k n = ((((BitVec.ofBool s).append op).append d).append m).extractLsb' k n := rfl

theorem encCB_field (s : Bool) (op : BitVec 7) (sc : BitVec 3) (a : Reg) (off : BitVec 13) (k n : Nat) :
    (encCB s op sc a off).extractLsb' k n =
      (((((BitVec.ofBool s).append op).append sc).append a).append off).extractLsb' k n := rfl

section fields
variable (s : Bool) (op : BitVec 7) (d a b : Reg) (m : BitVec 16) (sc : BitVec 3) (off : BitVec 13)

theorem encCR_opcode : (encCR s op d a b).extractLsb' 24 7 = op := by
  simp only [encCR_field, field_high, field_low, field_all, Nat.reduceLeDiff, Nat.reduceSub, Nat.reduceAdd]

theorem encCR_d : (encCR s op d a b).extractLsb' 16 8 = d := by
  simp only [encCR_field, field_high, field_low, field_all, Nat.reduceLeDiff, Nat.reduceSub, Nat.reduceAdd]

theorem encCR_a : (encCR s op d a b).extractLsb' 8 8 = a := by
  simp only [encCR_field, field_high, field_low, field_all, Nat.reduceLeDiff, Nat.reduceSub, Nat.reduceAdd]

theorem encCR_b : (encCR s op d a b).extractLsb' 0 8 = b := by
  simp only [encCR_field, field_low, field_all, Nat.reduceLeDiff, Nat.reduceAdd]

theorem encCR_s : ctrlS (encCR s op d a b) = s := by
  rw [ctrlS, field_bit]
  simp only [encCR_field, field_high, field_all, bit_ofBool, Nat.reduceLeDiff, Nat.reduceSub, Nat.reduceAdd]

theorem encCW_opcode : (encCW s op d m).extractLsb' 24 7 = op := by
  simp only [encCW_field, field_high, field_low, field_all, Nat.reduceLeDiff, Nat.reduceSub, Nat.reduceAdd]

theorem encCW_d : (encCW s op d m).extractLsb' 16 8 = d := by
  simp only [encCW_field, field_high, field_low, field_all, Nat.reduceLeDiff, Nat.reduceSub, Nat.reduceAdd]

theorem encCW_m : (encCW s op d m).extractLsb' 0 16 = m := by
  simp only [encCW_field, field_low, field_all, Nat.reduceLeDiff, Nat.reduceAdd]

theorem encCW_s : ctrlS (encCW s op d m) = s := by
  rw [ctrlS, field_bit]
  simp only [encCW_field, field_high, field_all, bit_ofBool, Nat.reduceLeDiff, Nat.reduceSub, Nat.reduceAdd]

theorem encCB_opcode : (encCB s op sc a off).extractLsb' 24 7 = op := by
  simp only [encCB_field, field_high, field_low, field_all, Nat.reduceLeDiff, Nat.reduceSub, Nat.reduceAdd]

theorem encCB_sc : (encCB s op sc a off).extractLsb' 21 3 = sc := by
  simp only [encCB_field, field_high, field_low, field_all, Nat.reduceLeDiff, Nat.reduceSub, Nat.reduceAdd]

theorem encCB_a : (encCB s op sc a off).extractLsb' 13 8 = a := by
  simp only [encCB_field, field_high, field_low, field_all, Nat.reduceLeDiff, Nat.reduceSub, Nat.reduceAdd]

theorem encCB_off : (encCB s op sc a off).extractLsb' 0 13 = off := by
  simp only [encCB_field, field_low, field_all, Nat.reduceLeDiff, Nat.reduceAdd]

theorem encCB_s : ctrlS (encCB s op sc a off) = s := by
  rw [ctrlS, field_bit]
  simp only [encCB_field, field_high, field_all, bit_ofBool, Nat.reduceLeDiff, Nat.reduceSub, Nat.reduceAdd]

end fields

/-! The three kinds of constructor -/

/-- Decoding the words of a control instruction reads its control word, its literal and its live-mask word. -/
theorem decodeCtrlWords_enc {w : Word} {lit sp : Option Word} {i : Instr} (rest : List Word)
    (hs : ctrlS w = sp.isSome) (hl : ctrlHasLiteral w = lit.isSome)
    (hb : ctrlIsBranch (ctrlOpcode w) = true → (w.extractLsb' 21 3).toNat < 6)
    (hi : ∀ l, (∀ x, lit = some x → l = x) → decodeCtrlFields w l sp = .ok i) :
    decodeCtrlWords (encWords w lit sp ++ rest) = .ok (i, (encWords w lit sp).length) := by
  have hc : (ctrlIsBranch (ctrlOpcode w) && decide (6 ≤ (w.extractLsb' 21 3).toNat)) = false := by
    cases h : ctrlIsBranch (ctrlOpcode w) with
    | false => rfl
    | true => simpa only [Bool.true_and, decide_eq_false_iff_not, Nat.not_le] using hb h
  have hd (l v : Word) (h1 : ∀ x, lit = some x → l = x) (h2 : ∀ x, sp = some x → v = x) : decodeCtrl w l v = .ok i := by
    have h3 : (if ctrlS w = true then some v else none) = sp := by
      rw [hs]; cases sp with
      | none => rfl
      | some x => exact congrArg some (h2 x rfl)
    rw [decodeCtrl, hc, h3, hi l h1]; rfl
  have hn : ctrlLength w = (encWords w lit sp).length := by
    cases lit <;> cases sp <;> simp [ctrlLength, encWords, hs, hl]
  simp only [encWords, List.cons_append, decodeCtrlWords]
  rw [hd _ _ ?_ ?_, hn]
  · rfl
  · rintro x rfl; rfl
  · rintro x rfl; cases lit <;> simp [hl]

theorem RoundTrip.of_control {i : Instr} {w : Word} {lit sp : Option Word}
    (he : encodeCtrl i = some (encWords w lit sp)) (hn : laneParts i = none) (hs : ctrlS w = sp.isSome)
    (hl : ctrlHasLiteral w = lit.isSome)
    (hd : i.wf = true → (ctrlIsBranch (ctrlOpcode w) = true → (w.extractLsb' 21 3).toNat < 6) ∧
      ∀ l, (∀ x, lit = some x → l = x) → decodeCtrlFields w l sp = .ok i) : RoundTrip.Statement i := by
  intro hw
  refine ⟨fun ws h rest => ?_, fun op f h => ?_⟩
  · rw [he] at h
    obtain rfl := Option.some.inj h
    exact decodeCtrlWords_enc rest hs hl (hd hw).1 (hd hw).2
  · rw [hn] at h; cases h

theorem wf_ctrl {i : Instr} (h : i.wf = true) (hn : laneParts i = none) : i.ctrlWf = true := by
  rw [Instr.wf, hn, Bool.and_true] at h; exact h

theorem need_ok {c : Bool} {e : DecodeError} {r : Except DecodeError Instr} (h : c = true) : decodeNeed c e r = r :=
  if_pos h

theorem wide_back {n m : Nat} (i : BitVec n) (h : n ≤ m) : (i.setWidth m).setWidth n = i := by
  rw [BitVec.setWidth_setWidth_of_le _ h, BitVec.setWidth_eq]

theorem wide_lt {n m : Nat} (i : BitVec n) (h : n ≤ m) : (i.setWidth m).toNat < 2 ^ n := by
  rw [BitVec.toNat_setWidth_of_le h]; exact i.isLt

theorem wide_ok2 (i : BitVec 2) : decide ((i.setWidth 8).toNat < 4) = true := decide_eq_true (wide_lt i (by decide))
theorem wide_ok3 (i : BitVec 3) : decide ((i.setWidth 8).toNat < 8) = true := decide_eq_true (wide_lt i (by decide))
theorem wide_ok4 (i : BitVec 4) : decide ((i.setWidth 8).toNat < 16) = true := decide_eq_true (wide_lt i (by decide))
theorem wide_ok (i : BitVec 5) : decide ((i.setWidth 8).toNat < 32) = true := decide_eq_true (wide_lt i (by decide))
theorem wide_ok7 (i : BitVec 7) : ((i.setWidth 8).getLsbD 7 == false) = true := by simp

theorem RoundTrip.of_CR {i : Instr} {op : BitVec 7} {d a b : Reg} {lit sp : Option Word}
    (he : encodeCtrl i = some (encWords (encCR sp.isSome op d a b) lit sp)) (hn : laneParts i = none)
    (hl : [0x22, 0x28, 0x53, 0x59, 0x73].contains op.toNat = lit.isSome) (hb : ctrlIsBranch op.toNat = false)
    (hd : i.wf = true → ∀ l, (∀ x, lit = some x → l = x) →
      decodeCtrlFields (encCR sp.isSome op d a b) l sp = .ok i) : RoundTrip.Statement i := by
  refine RoundTrip.of_control he hn (encCR_s ..) ?_ fun h => ⟨?_, hd h⟩
  · rw [ctrlHasLiteral, ctrlOpcode, encCR_opcode, hl]
  · rw [ctrlOpcode, encCR_opcode, hb]; intro h; cases h

theorem RoundTrip.of_CW {i : Instr} {op : BitVec 7} {d : Reg} {m : BitVec 16} {lit sp : Option Word}
    (he : encodeCtrl i = some (encWords (encCW sp.isSome op d m) lit sp)) (hn : laneParts i = none)
    (hl : [0x22, 0x28, 0x53, 0x59, 0x73].contains op.toNat = lit.isSome) (hb : ctrlIsBranch op.toNat = false)
    (hd : i.wf = true → ∀ l, (∀ x, lit = some x → l = x) →
      decodeCtrlFields (encCW sp.isSome op d m) l sp = .ok i) : RoundTrip.Statement i := by
  refine RoundTrip.of_control he hn (encCW_s ..) ?_ fun h => ⟨?_, hd h⟩
  · rw [ctrlHasLiteral, ctrlOpcode, encCW_opcode, hl]
  · rw [ctrlOpcode, encCW_opcode, hb]; intro h; cases h

theorem RoundTrip.of_CB {i : Instr} {op : BitVec 7} {sc : BitVec 3} {a : Reg} {off : BitVec 13} {lit sp : Option Word}
    (he : encodeCtrl i = some (encWords (encCB sp.isSome op sc a off) lit sp)) (hn : laneParts i = none)
    (hl : [0x22, 0x28, 0x53, 0x59, 0x73].contains op.toNat = lit.isSome) (hb : i.wf = true → sc.toNat < 6)
    (hd : i.wf = true → ∀ l, (∀ x, lit = some x → l = x) →
      decodeCtrlFields (encCB sp.isSome op sc a off) l sp = .ok i) : RoundTrip.Statement i := by
  refine RoundTrip.of_control he hn (encCB_s ..) ?_ fun h => ⟨fun _ => ?_, hd h⟩
  · rw [ctrlHasLiteral, ctrlOpcode, encCB_opcode, hl]
  · rw [encCB_sc]; exact hb h

theorem RoundTrip.of_lane {i : Instr} {op : BitVec 8} {f : LaneForm} (he : encodeCtrl i = none)
    (hp : laneParts i = some (op, f)) (hi : laneInstr op.toNat f = some i) : RoundTrip.Statement i := by
  intro hw
  refine ⟨fun ws h rest => (by rw [he] at h; cases h), fun op' f' h => ?_⟩
  rw [hp] at h
  obtain ⟨rfl, rfl⟩ := Prod.mk.inj (Option.some.inj h)
  have hk : laneOk op.toNat f = true := by
    simp only [Instr.wf, hp, Bool.and_eq_true] at hw; exact hw.2
  have h0 (k n : Nat) : (op ++ f.d ++ f.a ++ f.b).extractLsb' k n =
      (((op.append f.d).append f.a).append f.b).extractLsb' k n := rfl
  have h1 (k n : Nat) :
      (f.c ++ f.guard ++ BitVec.ofBool f.neg ++ f.ty ++ f.mod ++ f.flag ++ f.scope ++ f.sub).extractLsb' k n =
      ((((((((f.c.append f.guard).append (BitVec.ofBool f.neg)).append f.ty).append f.mod).append f.flag).append
        f.scope).append f.sub)).extractLsb' k n := rfl
  have hop : (op ++ f.d ++ f.a ++ f.b).extractLsb' 24 8 = op := by
    simp only [h0, field_high, field_all, Nat.reduceLeDiff, Nat.reduceSub, Nat.reduceAdd]
  have hf : laneFields (op ++ f.d ++ f.a ++ f.b)
      (f.c ++ f.guard ++ BitVec.ofBool f.neg ++ f.ty ++ f.mod ++ f.flag ++ f.scope ++ f.sub) f.imm = f := by
    rw [laneFields, field_bit _ 20]
    simp only [h0, h1, field_high, field_low, field_all, bit_ofBool, Nat.reduceLeDiff, Nat.reduceSub, Nat.reduceAdd]
  simp only [encLane, decodeLaneWords, decodeLane]
  erw [hop, hf]
  simp [hi, hk]

theorem RoundTrip.of_event {i : Instr} (he : encodeCtrl i = none) (hp : laneParts i = none) : RoundTrip.Statement i :=
  fun _ => ⟨fun ws h => by (rw [he] at h; cases h), fun op f h => (by rw [hp] at h; cases h)⟩

/-! The constructors -/

theorem RoundTrip.add (sp : Option Word) (d a b : Reg) : RoundTrip.Statement (.add sp d a b) := by
  refine RoundTrip.of_CR rfl rfl rfl rfl fun h x hx => ?_
  simp only [decodeCtrlFields, ctrlOpcode, encCR_opcode, encCR_d, encCR_a, encCR_b, BitVec.reduceToNat]

theorem RoundTrip.sub (sp : Option Word) (d a b : Reg) : RoundTrip.Statement (.sub sp d a b) := by
  refine RoundTrip.of_CR rfl rfl rfl rfl fun h x hx => ?_
  simp only [decodeCtrlFields, ctrlOpcode, encCR_opcode, encCR_d, encCR_a, encCR_b, BitVec.reduceToNat]

theorem RoundTrip.mul (sp : Option Word) (d a b : Reg) : RoundTrip.Statement (.mul sp d a b) := by
  refine RoundTrip.of_CR rfl rfl rfl rfl fun h x hx => ?_
  simp only [decodeCtrlFields, ctrlOpcode, encCR_opcode, encCR_d, encCR_a, encCR_b, BitVec.reduceToNat]

theorem RoundTrip.mulh (sp : Option Word) (d a b : Reg) : RoundTrip.Statement (.mulh sp d a b) := by
  refine RoundTrip.of_CR rfl rfl rfl rfl fun h x hx => ?_
  simp only [decodeCtrlFields, ctrlOpcode, encCR_opcode, encCR_d, encCR_a, encCR_b, BitVec.reduceToNat]

theorem RoundTrip.mulhu (sp : Option Word) (d a b : Reg) : RoundTrip.Statement (.mulhu sp d a b) := by
  refine RoundTrip.of_CR rfl rfl rfl rfl fun h x hx => ?_
  simp only [decodeCtrlFields, ctrlOpcode, encCR_opcode, encCR_d, encCR_a, encCR_b, BitVec.reduceToNat]

theorem RoundTrip.andr (sp : Option Word) (d a b : Reg) : RoundTrip.Statement (.andr sp d a b) := by
  refine RoundTrip.of_CR rfl rfl rfl rfl fun h x hx => ?_
  simp only [decodeCtrlFields, ctrlOpcode, encCR_opcode, encCR_d, encCR_a, encCR_b, BitVec.reduceToNat]

theorem RoundTrip.orr (sp : Option Word) (d a b : Reg) : RoundTrip.Statement (.orr sp d a b) := by
  refine RoundTrip.of_CR rfl rfl rfl rfl fun h x hx => ?_
  simp only [decodeCtrlFields, ctrlOpcode, encCR_opcode, encCR_d, encCR_a, encCR_b, BitVec.reduceToNat]

theorem RoundTrip.xorr (sp : Option Word) (d a b : Reg) : RoundTrip.Statement (.xorr sp d a b) := by
  refine RoundTrip.of_CR rfl rfl rfl rfl fun h x hx => ?_
  simp only [decodeCtrlFields, ctrlOpcode, encCR_opcode, encCR_d, encCR_a, encCR_b, BitVec.reduceToNat]

theorem RoundTrip.shl (sp : Option Word) (d a b : Reg) : RoundTrip.Statement (.shl sp d a b) := by
  refine RoundTrip.of_CR rfl rfl rfl rfl fun h x hx => ?_
  simp only [decodeCtrlFields, ctrlOpcode, encCR_opcode, encCR_d, encCR_a, encCR_b, BitVec.reduceToNat]

theorem RoundTrip.shr (sp : Option Word) (d a b : Reg) : RoundTrip.Statement (.shr sp d a b) := by
  refine RoundTrip.of_CR rfl rfl rfl rfl fun h x hx => ?_
  simp only [decodeCtrlFields, ctrlOpcode, encCR_opcode, encCR_d, encCR_a, encCR_b, BitVec.reduceToNat]

theorem RoundTrip.sar (sp : Option Word) (d a b : Reg) : RoundTrip.Statement (.sar sp d a b) := by
  refine RoundTrip.of_CR rfl rfl rfl rfl fun h x hx => ?_
  simp only [decodeCtrlFields, ctrlOpcode, encCR_opcode, encCR_d, encCR_a, encCR_b, BitVec.reduceToNat]

theorem RoundTrip.minr (sp : Option Word) (d a b : Reg) : RoundTrip.Statement (.minr sp d a b) := by
  refine RoundTrip.of_CR rfl rfl rfl rfl fun h x hx => ?_
  simp only [decodeCtrlFields, ctrlOpcode, encCR_opcode, encCR_d, encCR_a, encCR_b, BitVec.reduceToNat]

theorem RoundTrip.maxr (sp : Option Word) (d a b : Reg) : RoundTrip.Statement (.maxr sp d a b) := by
  refine RoundTrip.of_CR rfl rfl rfl rfl fun h x hx => ?_
  simp only [decodeCtrlFields, ctrlOpcode, encCR_opcode, encCR_d, encCR_a, encCR_b, BitVec.reduceToNat]

theorem RoundTrip.minu (sp : Option Word) (d a b : Reg) : RoundTrip.Statement (.minu sp d a b) := by
  refine RoundTrip.of_CR rfl rfl rfl rfl fun h x hx => ?_
  simp only [decodeCtrlFields, ctrlOpcode, encCR_opcode, encCR_d, encCR_a, encCR_b, BitVec.reduceToNat]

theorem RoundTrip.maxu (sp : Option Word) (d a b : Reg) : RoundTrip.Statement (.maxu sp d a b) := by
  refine RoundTrip.of_CR rfl rfl rfl rfl fun h x hx => ?_
  simp only [decodeCtrlFields, ctrlOpcode, encCR_opcode, encCR_d, encCR_a, encCR_b, BitVec.reduceToNat]

theorem RoundTrip.slt (sp : Option Word) (d a b : Reg) : RoundTrip.Statement (.slt sp d a b) := by
  refine RoundTrip.of_CR rfl rfl rfl rfl fun h x hx => ?_
  simp only [decodeCtrlFields, ctrlOpcode, encCR_opcode, encCR_d, encCR_a, encCR_b, BitVec.reduceToNat]

theorem RoundTrip.sltu (sp : Option Word) (d a b : Reg) : RoundTrip.Statement (.sltu sp d a b) := by
  refine RoundTrip.of_CR rfl rfl rfl rfl fun h x hx => ?_
  simp only [decodeCtrlFields, ctrlOpcode, encCR_opcode, encCR_d, encCR_a, encCR_b, BitVec.reduceToNat]

theorem RoundTrip.seq (sp : Option Word) (d a b : Reg) : RoundTrip.Statement (.seq sp d a b) := by
  refine RoundTrip.of_CR rfl rfl rfl rfl fun h x hx => ?_
  simp only [decodeCtrlFields, ctrlOpcode, encCR_opcode, encCR_d, encCR_a, encCR_b, BitVec.reduceToNat]

theorem RoundTrip.clz (sp : Option Word) (d a : Reg) : RoundTrip.Statement (.clz sp d a) := by
  refine RoundTrip.of_CR rfl rfl rfl rfl fun h x hx => ?_
  simp only [decodeCtrlFields, ctrlOpcode, encCR_opcode, encCR_d, encCR_a, encCR_b, BitVec.reduceToNat]
  rfl

theorem RoundTrip.popc (sp : Option Word) (d a : Reg) : RoundTrip.Statement (.popc sp d a) := by
  refine RoundTrip.of_CR rfl rfl rfl rfl fun h x hx => ?_
  simp only [decodeCtrlFields, ctrlOpcode, encCR_opcode, encCR_d, encCR_a, encCR_b, BitVec.reduceToNat]
  rfl

theorem RoundTrip.divu (sp : Option Word) (d a b : Reg) : RoundTrip.Statement (.divu sp d a b) := by
  refine RoundTrip.of_CR rfl rfl rfl rfl fun h x hx => ?_
  simp only [decodeCtrlFields, ctrlOpcode, encCR_opcode, encCR_d, encCR_a, encCR_b, BitVec.reduceToNat]

theorem RoundTrip.remu (sp : Option Word) (d a b : Reg) : RoundTrip.Statement (.remu sp d a b) := by
  refine RoundTrip.of_CR rfl rfl rfl rfl fun h x hx => ?_
  simp only [decodeCtrlFields, ctrlOpcode, encCR_opcode, encCR_d, encCR_a, encCR_b, BitVec.reduceToNat]

theorem RoundTrip.bfx (sp : Option Word) (d a b : Reg) : RoundTrip.Statement (.bfx sp d a b) := by
  refine RoundTrip.of_CR rfl rfl rfl rfl fun h x hx => ?_
  simp only [decodeCtrlFields, ctrlOpcode, encCR_opcode, encCR_d, encCR_a, encCR_b, BitVec.reduceToNat]

theorem RoundTrip.addi (sp : Option Word) (d a : Reg) (i : BitVec 8) : RoundTrip.Statement (.addi sp d a i) := by
  refine RoundTrip.of_CR rfl rfl rfl rfl fun h x hx => ?_
  simp only [decodeCtrlFields, ctrlOpcode, encCR_opcode, encCR_d, encCR_a, encCR_b, BitVec.reduceToNat]

theorem RoundTrip.andi (sp : Option Word) (d a : Reg) (i : BitVec 8) : RoundTrip.Statement (.andi sp d a i) := by
  refine RoundTrip.of_CR rfl rfl rfl rfl fun h x hx => ?_
  simp only [decodeCtrlFields, ctrlOpcode, encCR_opcode, encCR_d, encCR_a, encCR_b, BitVec.reduceToNat]

theorem RoundTrip.ori (sp : Option Word) (d a : Reg) (i : BitVec 8) : RoundTrip.Statement (.ori sp d a i) := by
  refine RoundTrip.of_CR rfl rfl rfl rfl fun h x hx => ?_
  simp only [decodeCtrlFields, ctrlOpcode, encCR_opcode, encCR_d, encCR_a, encCR_b, BitVec.reduceToNat]

theorem RoundTrip.xori (sp : Option Word) (d a : Reg) (i : BitVec 8) : RoundTrip.Statement (.xori sp d a i) := by
  refine RoundTrip.of_CR rfl rfl rfl rfl fun h x hx => ?_
  simp only [decodeCtrlFields, ctrlOpcode, encCR_opcode, encCR_d, encCR_a, encCR_b, BitVec.reduceToNat]

theorem RoundTrip.shli (sp : Option Word) (d a : Reg) (i : BitVec 5) : RoundTrip.Statement (.shli sp d a i) := by
  refine RoundTrip.of_CR rfl rfl rfl rfl fun h x hx => ?_
  simp only [decodeCtrlFields, ctrlOpcode, encCR_opcode, encCR_d, encCR_a, encCR_b, BitVec.reduceToNat]
  rw [wide_back _ (by decide)]; exact need_ok (wide_ok i)

theorem RoundTrip.shri (sp : Option Word) (d a : Reg) (i : BitVec 5) : RoundTrip.Statement (.shri sp d a i) := by
  refine RoundTrip.of_CR rfl rfl rfl rfl fun h x hx => ?_
  simp only [decodeCtrlFields, ctrlOpcode, encCR_opcode, encCR_d, encCR_a, encCR_b, BitVec.reduceToNat]
  rw [wide_back _ (by decide)]; exact need_ok (wide_ok i)

theorem RoundTrip.sari (sp : Option Word) (d a : Reg) (i : BitVec 5) : RoundTrip.Statement (.sari sp d a i) := by
  refine RoundTrip.of_CR rfl rfl rfl rfl fun h x hx => ?_
  simp only [decodeCtrlFields, ctrlOpcode, encCR_opcode, encCR_d, encCR_a, encCR_b, BitVec.reduceToNat]
  rw [wide_back _ (by decide)]; exact need_ok (wide_ok i)

theorem RoundTrip.slti (sp : Option Word) (d a : Reg) (i : BitVec 8) : RoundTrip.Statement (.slti sp d a i) := by
  refine RoundTrip.of_CR rfl rfl rfl rfl fun h x hx => ?_
  simp only [decodeCtrlFields, ctrlOpcode, encCR_opcode, encCR_d, encCR_a, encCR_b, BitVec.reduceToNat]

theorem RoundTrip.movi (sp : Option Word) (d : Reg) (m : BitVec 16) : RoundTrip.Statement (.movi sp d m) := by
  refine RoundTrip.of_CW rfl rfl rfl rfl fun h x hx => ?_
  simp only [decodeCtrlFields, ctrlOpcode, encCW_opcode, encCW_d, encCW_m, BitVec.reduceToNat]

theorem RoundTrip.movhi (sp : Option Word) (d : Reg) (m : BitVec 16) : RoundTrip.Statement (.movhi sp d m) := by
  refine RoundTrip.of_CW rfl rfl rfl rfl fun h x hx => ?_
  simp only [decodeCtrlFields, ctrlOpcode, encCW_opcode, encCW_d, encCW_m, BitVec.reduceToNat]

theorem RoundTrip.movl (sp : Option Word) (d : Reg) (lit : Word) : RoundTrip.Statement (.movl sp d lit) := by
  refine RoundTrip.of_CW rfl rfl rfl rfl fun h x hx => ?_
  simp only [decodeCtrlFields, ctrlOpcode, encCW_opcode, encCW_d, encCW_m, BitVec.reduceToNat]
  rw [hx lit rfl]; rfl

theorem RoundTrip.addiw (sp : Option Word) (d : Reg) (m : BitVec 16) : RoundTrip.Statement (.addiw sp d m) := by
  refine RoundTrip.of_CW rfl rfl rfl rfl fun h x hx => ?_
  simp only [decodeCtrlFields, ctrlOpcode, encCW_opcode, encCW_d, encCW_m, BitVec.reduceToNat]

theorem RoundTrip.lds (sp : Option Word) (d a : Reg) (i : BitVec 8) : RoundTrip.Statement (.lds sp d a i) := by
  refine RoundTrip.of_CR rfl rfl rfl rfl fun h x hx => ?_
  simp only [decodeCtrlFields, ctrlOpcode, encCR_opcode, encCR_d, encCR_a, encCR_b, BitVec.reduceToNat]

theorem RoundTrip.sts (sp : Option Word) (d a : Reg) (i : BitVec 8) : RoundTrip.Statement (.sts sp d a i) := by
  refine RoundTrip.of_CR rfl rfl rfl rfl fun h x hx => ?_
  simp only [decodeCtrlFields, ctrlOpcode, encCR_opcode, encCR_d, encCR_a, encCR_b, BitVec.reduceToNat]

theorem RoundTrip.sbld (sp : Option Word) (d a : Reg) (b : BitVec 7) : RoundTrip.Statement (.sbld sp d a b) := by
  refine RoundTrip.of_CR rfl rfl rfl rfl fun h x hx => ?_
  simp only [decodeCtrlFields, ctrlOpcode, encCR_opcode, encCR_d, encCR_a, encCR_b, BitVec.reduceToNat]
  rw [wide_back _ (by decide)]; exact need_ok (wide_ok7 b)

theorem RoundTrip.sbst (sp : Option Word) (d a : Reg) (b : BitVec 7) : RoundTrip.Statement (.sbst sp d a b) := by
  refine RoundTrip.of_CR rfl rfl rfl rfl fun h x hx => ?_
  simp only [decodeCtrlFields, ctrlOpcode, encCR_opcode, encCR_d, encCR_a, encCR_b, BitVec.reduceToNat]
  rw [wide_back _ (by decide)]; exact need_ok (wide_ok7 b)

theorem RoundTrip.satom (sp : Option Word) (d a : Reg) (b : BitVec 7) (lit : Word) : RoundTrip.Statement (.satom sp d a b lit) := by
  refine RoundTrip.of_CR rfl rfl rfl rfl fun h x hx => ?_
  simp only [decodeCtrlFields, ctrlOpcode, encCR_opcode, encCR_d, encCR_a, encCR_b, BitVec.reduceToNat]
  rw [hx lit rfl, wide_back _ (by decide)]; exact need_ok (wide_ok7 b)

theorem RoundTrip.grow (sp : Option Word) (m : BitVec 16) : RoundTrip.Statement (.grow sp m) := by
  refine RoundTrip.of_CW rfl rfl rfl rfl fun h x hx => ?_
  simp only [decodeCtrlFields, ctrlOpcode, encCW_opcode, encCW_d, encCW_m, BitVec.reduceToNat]
  rfl

theorem RoundTrip.br (sp : Option Word) (sc : BitVec 3) (off : BitVec 13) : RoundTrip.Statement (.br sp sc off) := by
  refine RoundTrip.of_CB rfl rfl rfl (fun h => ?_) fun h x hx => ?_
  · exact of_decide_eq_true (wf_ctrl h rfl)
  simp only [decodeCtrlFields, ctrlOpcode, encCB_opcode, encCB_sc, encCB_a, encCB_off, BitVec.reduceToNat]
  rfl

theorem RoundTrip.bz (sp : Option Word) (sc : BitVec 3) (a : Reg) (off : BitVec 13) : RoundTrip.Statement (.bz sp sc a off) := by
  refine RoundTrip.of_CB rfl rfl rfl (fun h => ?_) fun h x hx => ?_
  · exact of_decide_eq_true (wf_ctrl h rfl)
  simp only [decodeCtrlFields, ctrlOpcode, encCB_opcode, encCB_sc, encCB_a, encCB_off, BitVec.reduceToNat]

theorem RoundTrip.bnz (sp : Option Word) (sc : BitVec 3) (a : Reg) (off : BitVec 13) : RoundTrip.Statement (.bnz sp sc a off) := by
  refine RoundTrip.of_CB rfl rfl rfl (fun h => ?_) fun h x hx => ?_
  · exact of_decide_eq_true (wf_ctrl h rfl)
  simp only [decodeCtrlFields, ctrlOpcode, encCB_opcode, encCB_sc, encCB_a, encCB_off, BitVec.reduceToNat]

theorem RoundTrip.bltz (sp : Option Word) (sc : BitVec 3) (a : Reg) (off : BitVec 13) : RoundTrip.Statement (.bltz sp sc a off) := by
  refine RoundTrip.of_CB rfl rfl rfl (fun h => ?_) fun h x hx => ?_
  · exact of_decide_eq_true (wf_ctrl h rfl)
  simp only [decodeCtrlFields, ctrlOpcode, encCB_opcode, encCB_sc, encCB_a, encCB_off, BitVec.reduceToNat]

theorem RoundTrip.bgez (sp : Option Word) (sc : BitVec 3) (a : Reg) (off : BitVec 13) : RoundTrip.Statement (.bgez sp sc a off) := by
  refine RoundTrip.of_CB rfl rfl rfl (fun h => ?_) fun h x hx => ?_
  · exact of_decide_eq_true (wf_ctrl h rfl)
  simp only [decodeCtrlFields, ctrlOpcode, encCB_opcode, encCB_sc, encCB_a, encCB_off, BitVec.reduceToNat]

theorem RoundTrip.buni (sp : Option Word) (sc n : BitVec 3) (off : BitVec 13) : RoundTrip.Statement (.buni sp sc n off) := by
  refine RoundTrip.of_CB rfl rfl rfl (fun h => ?_) fun h x hx => ?_
  · exact of_decide_eq_true (wf_ctrl h rfl)
  simp only [decodeCtrlFields, ctrlOpcode, encCB_opcode, encCB_sc, encCB_a, encCB_off, BitVec.reduceToNat]
  rw [wide_back _ (by decide)]; exact need_ok (wide_ok3 n)

theorem RoundTrip.call (sp : Option Word) (sc : BitVec 3) (off : BitVec 13) : RoundTrip.Statement (.call sp sc off) := by
  refine RoundTrip.of_CB rfl rfl rfl (fun h => ?_) fun h x hx => ?_
  · exact of_decide_eq_true (wf_ctrl h rfl)
  simp only [decodeCtrlFields, ctrlOpcode, encCB_opcode, encCB_sc, encCB_a, encCB_off, BitVec.reduceToNat]
  rfl

theorem RoundTrip.ret (sp : Option Word) (sc : BitVec 3) : RoundTrip.Statement (.ret sp sc) := by
  refine RoundTrip.of_CB rfl rfl rfl (fun h => ?_) fun h x hx => ?_
  · exact of_decide_eq_true (wf_ctrl h rfl)
  simp only [decodeCtrlFields, ctrlOpcode, encCB_opcode, encCB_sc, encCB_a, encCB_off, BitVec.reduceToNat]
  rfl

theorem RoundTrip.loop (sp : Option Word) (sc : BitVec 3) (a : Reg) (off : BitVec 12) : RoundTrip.Statement (.loop sp sc a off) := by
  refine RoundTrip.of_CB rfl rfl rfl (fun h => ?_) fun h x hx => ?_
  · exact of_decide_eq_true (Bool.and_eq_true_iff.1 (wf_ctrl h rfl)).1
  simp only [decodeCtrlFields, ctrlOpcode, encCB_opcode, encCB_sc, encCB_a, encCB_off, BitVec.reduceToNat]
  have h := wf_ctrl h rfl
  have hb : (off.setWidth 13).getLsbD 12 = false := by simp
  have hz : ((off.setWidth 13) != 0) = true := by
    have h2 := (Bool.and_eq_true_iff.1 h).2
    simp only [bne_iff_ne, ne_eq] at h2 ⊢
    intro h0; apply h2
    have : ((off.setWidth 13).setWidth 12) = off := by simp
    rw [← this, h0]; rfl
  rw [hb, if_neg (by decide), if_pos hz, wide_back _ (by decide)]

theorem RoundTrip.loopNext (sp : Option Word) (sc : BitVec 3) : RoundTrip.Statement (.loopNext sp sc) := by
  refine RoundTrip.of_CB rfl rfl rfl (fun h => ?_) fun h x hx => ?_
  · exact of_decide_eq_true (wf_ctrl h rfl)
  simp only [decodeCtrlFields, ctrlOpcode, encCB_opcode, encCB_sc, encCB_a, encCB_off, BitVec.reduceToNat]
  rfl

theorem RoundTrip.loopLeave (sp : Option Word) (sc : BitVec 3) : RoundTrip.Statement (.loopLeave sp sc) := by
  refine RoundTrip.of_CB rfl rfl rfl (fun h => ?_) fun h x hx => ?_
  · exact of_decide_eq_true (wf_ctrl h rfl)
  simp only [decodeCtrlFields, ctrlOpcode, encCB_opcode, encCB_sc, encCB_a, encCB_off, BitVec.reduceToNat]
  rfl

theorem RoundTrip.endc (sp : Option Word) (sc : BitVec 3) : RoundTrip.Statement (.endc sp sc) := by
  refine RoundTrip.of_CB rfl rfl rfl (fun h => ?_) fun h x hx => ?_
  · exact of_decide_eq_true (wf_ctrl h rfl)
  simp only [decodeCtrlFields, ctrlOpcode, encCB_opcode, encCB_sc, encCB_a, encCB_off, BitVec.reduceToNat]
  rfl

theorem RoundTrip.brl (sp : Option Word) (sc n : BitVec 3) (off : BitVec 13) : RoundTrip.Statement (.brl sp sc n off) := by
  refine RoundTrip.of_CB rfl rfl rfl (fun h => ?_) fun h x hx => ?_
  · exact of_decide_eq_true (wf_ctrl h rfl)
  simp only [decodeCtrlFields, ctrlOpcode, encCB_opcode, encCB_sc, encCB_a, encCB_off, BitVec.reduceToNat]
  rw [wide_back _ (by decide)]; exact need_ok (wide_ok3 n)

theorem RoundTrip.meet (sp : Option Word) (sc : BitVec 3) (off : BitVec 13) : RoundTrip.Statement (.meet sp sc off) := by
  refine RoundTrip.of_CB rfl rfl rfl (fun h => ?_) fun h x hx => ?_
  · exact of_decide_eq_true (wf_ctrl h rfl)
  simp only [decodeCtrlFields, ctrlOpcode, encCB_opcode, encCB_sc, encCB_a, encCB_off, BitVec.reduceToNat]
  rfl

theorem RoundTrip.lane (sp : Option Word) (d : Reg) (m : BitVec 16) : RoundTrip.Statement (.lane sp d m) := by
  refine RoundTrip.of_CW rfl rfl rfl rfl fun h x hx => ?_
  simp only [decodeCtrlFields, ctrlOpcode, encCW_opcode, encCW_d, encCW_m, BitVec.reduceToNat]
  have h := wf_ctrl h rfl
  exact need_ok h

theorem RoundTrip.lsync (sp : Option Word) : RoundTrip.Statement (.lsync sp) := by
  refine RoundTrip.of_CR rfl rfl rfl rfl fun h x hx => ?_
  simp only [decodeCtrlFields, ctrlOpcode, encCR_opcode, encCR_d, encCR_a, encCR_b, BitVec.reduceToNat]
  rfl

theorem RoundTrip.ptos (sp : Option Word) (d : Reg) (n : BitVec 3) : RoundTrip.Statement (.ptos sp d n) := by
  refine RoundTrip.of_CR rfl rfl rfl rfl fun h x hx => ?_
  simp only [decodeCtrlFields, ctrlOpcode, encCR_opcode, encCR_d, encCR_a, encCR_b, BitVec.reduceToNat]
  have h := wf_ctrl h rfl
  rw [wide_back _ (by decide)]; exact (need_ok (wide_ok3 n)).trans (need_ok h)

theorem RoundTrip.vtos (sp : Option Word) (d a : Reg) (l : BitVec 6) : RoundTrip.Statement (.vtos sp d a l) := by
  refine RoundTrip.of_CR rfl rfl rfl rfl fun h x hx => ?_
  simp only [decodeCtrlFields, ctrlOpcode, encCR_opcode, encCR_d, encCR_a, encCR_b, BitVec.reduceToNat]
  have h := wf_ctrl h rfl
  have ha : ¬ a.toNat ≥ 240 := by have := of_decide_eq_true h; omega
  rw [if_neg ha]
  have hb : (l.setWidth 8).extractLsb' 6 2 = 0 := by ext k hk; simp
  rw [hb, wide_back _ (by decide)]; rfl

theorem RoundTrip.vtosPair (sp : Option Word) (d a : Reg) (l : BitVec 6) : RoundTrip.Statement (.vtosPair sp d a l) := by
  refine RoundTrip.of_CR rfl rfl rfl rfl fun h x hx => ?_
  simp only [decodeCtrlFields, ctrlOpcode, encCR_opcode, encCR_d, encCR_a, encCR_b, BitVec.reduceToNat]
  have h := wf_ctrl h rfl
  have ha : ¬ a.toNat ≥ 240 := by have := of_decide_eq_true (Bool.and_eq_true_iff.1 h).1; omega
  rw [if_neg ha]
  have hb : ∀ l : BitVec 6, ((0x40 : BitVec 8) ||| l.setWidth 8).extractLsb' 6 2 = 1 := by decide
  have hl : ∀ l : BitVec 6, ((0x40 : BitVec 8) ||| l.setWidth 8).setWidth 6 = l := by decide
  rw [hb, hl]; exact need_ok (Bool.and_eq_true_iff.1 h).2

theorem RoundTrip.vtosFirst (sp : Option Word) (d a : Reg) : RoundTrip.Statement (.vtosFirst sp d a) := by
  refine RoundTrip.of_CR rfl rfl rfl rfl fun h x hx => ?_
  simp only [decodeCtrlFields, ctrlOpcode, encCR_opcode, encCR_d, encCR_a, encCR_b, BitVec.reduceToNat]
  have h := wf_ctrl h rfl
  have ha : ¬ a.toNat ≥ 240 := by have := of_decide_eq_true h; omega
  rw [if_neg ha]
  rfl

theorem RoundTrip.exmr (sp : Option Word) (d : Reg) : RoundTrip.Statement (.exmr sp d) := by
  refine RoundTrip.of_CR rfl rfl rfl rfl fun h x hx => ?_
  simp only [decodeCtrlFields, ctrlOpcode, encCR_opcode, encCR_d, encCR_a, encCR_b, BitVec.reduceToNat]
  have h := wf_ctrl h rfl
  exact need_ok h

theorem RoundTrip.exmw (sp : Option Word) (a : Reg) : RoundTrip.Statement (.exmw sp a) := by
  refine RoundTrip.of_CR rfl rfl rfl rfl fun h x hx => ?_
  simp only [decodeCtrlFields, ctrlOpcode, encCR_opcode, encCR_d, encCR_a, encCR_b, BitVec.reduceToNat]
  have h := wf_ctrl h rfl
  exact need_ok h

theorem RoundTrip.down (sp : Option Word) (d : Reg) (m : BitVec 16) : RoundTrip.Statement (.down sp d m) := by
  refine RoundTrip.of_CW rfl rfl rfl rfl fun h x hx => ?_
  simp only [decodeCtrlFields, ctrlOpcode, encCW_opcode, encCW_d, encCW_m, BitVec.reduceToNat]
  have h := wf_ctrl h rfl
  exact need_ok h

theorem RoundTrip.segend (sp : Option Word) : RoundTrip.Statement (.segend sp) := by
  refine RoundTrip.of_CR rfl rfl rfl rfl fun h x hx => ?_
  simp only [decodeCtrlFields, ctrlOpcode, encCR_opcode, encCR_d, encCR_a, encCR_b, BitVec.reduceToNat]
  rfl

theorem RoundTrip.up (sp : Option Word) (a : Reg) (op : BitVec 3) : RoundTrip.Statement (.up sp a op) := by
  refine RoundTrip.of_CR rfl rfl rfl rfl fun h x hx => ?_
  simp only [decodeCtrlFields, ctrlOpcode, encCR_opcode, encCR_d, encCR_a, encCR_b, BitVec.reduceToNat]
  rw [wide_back _ (by decide)]; exact need_ok (wide_ok3 op)

theorem RoundTrip.gather (sp : Option Word) (d : Reg) (op : BitVec 3) : RoundTrip.Statement (.gather sp d op) := by
  refine RoundTrip.of_CR rfl rfl rfl rfl fun h x hx => ?_
  simp only [decodeCtrlFields, ctrlOpcode, encCR_opcode, encCR_d, encCR_a, encCR_b, BitVec.reduceToNat]
  rw [wide_back _ (by decide)]; exact need_ok (wide_ok3 op)

theorem RoundTrip.bar (sp : Option Word) (n : BitVec 4) : RoundTrip.Statement (.bar sp n) := by
  refine RoundTrip.of_CR rfl rfl rfl rfl fun h x hx => ?_
  simp only [decodeCtrlFields, ctrlOpcode, encCR_opcode, encCR_d, encCR_a, encCR_b, BitVec.reduceToNat]
  rw [wide_back _ (by decide)]; exact need_ok (wide_ok4 n)

theorem RoundTrip.barc (sp : Option Word) (n : BitVec 2) : RoundTrip.Statement (.barc sp n) := by
  refine RoundTrip.of_CR rfl rfl rfl rfl fun h x hx => ?_
  simp only [decodeCtrlFields, ctrlOpcode, encCR_opcode, encCR_d, encCR_a, encCR_b, BitVec.reduceToNat]
  rw [wide_back _ (by decide)]; exact need_ok (wide_ok2 n)

theorem RoundTrip.waitf (sp : Option Word) (m : BitVec 12) : RoundTrip.Statement (.waitf sp m) := by
  refine RoundTrip.of_CW rfl rfl rfl rfl fun h x hx => ?_
  simp only [decodeCtrlFields, ctrlOpcode, encCW_opcode, encCW_d, encCW_m, BitVec.reduceToNat]
  have hm : (m.setWidth 16).setWidth 12 = m := by simp
  have hb : decide ((m.setWidth 16).toNat < 4096) = true := by
    have := m.isLt; simp only [BitVec.toNat_setWidth, decide_eq_true_eq]; omega
  rw [hm, hb]; rfl

theorem RoundTrip.waite (sp : Option Word) (cls : BitVec 2) (t : BitVec 6) : RoundTrip.Statement (.waite sp cls t) := by
  refine RoundTrip.of_CR rfl rfl rfl rfl fun h x hx => ?_
  simp only [decodeCtrlFields, ctrlOpcode, encCR_opcode, encCR_d, encCR_a, encCR_b, BitVec.reduceToNat]
  have h1 : ∀ (cls : BitVec 2) (t : BitVec 6), ((cls ++ t) : BitVec 8).extractLsb' 6 2 = cls := by decide
  have h2 : ∀ (cls : BitVec 2) (t : BitVec 6), ((cls ++ t) : BitVec 8).setWidth 6 = t := by decide
  erw [h1, h2]; rfl

theorem RoundTrip.waita (sp : Option Word) (d a b : Reg) : RoundTrip.Statement (.waita sp d a b) := by
  refine RoundTrip.of_CR rfl rfl rfl rfl fun h x hx => ?_
  simp only [decodeCtrlFields, ctrlOpcode, encCR_opcode, encCR_d, encCR_a, encCR_b, BitVec.reduceToNat]

theorem RoundTrip.tryw (sp : Option Word) (d a : Reg) (b : BitVec 7) (lit : Word) : RoundTrip.Statement (.tryw sp d a b lit) := by
  refine RoundTrip.of_CR rfl rfl rfl rfl fun h x hx => ?_
  simp only [decodeCtrlFields, ctrlOpcode, encCR_opcode, encCR_d, encCR_a, encCR_b, BitVec.reduceToNat]
  rw [hx lit rfl, wide_back _ (by decide)]; exact need_ok (wide_ok7 b)

theorem RoundTrip.fence (sp : Option Word) (kind : BitVec 2) (sc : BitVec 3) : RoundTrip.Statement (.fence sp kind sc) := by
  refine RoundTrip.of_CR rfl rfl rfl rfl fun h x hx => ?_
  simp only [decodeCtrlFields, ctrlOpcode, encCR_opcode, encCR_d, encCR_a, encCR_b, BitVec.reduceToNat]
  have h := wf_ctrl h rfl
  have h0 : ∀ (kind : BitVec 2) (sc : BitVec 3), ((0 : BitVec 3) ++ kind ++ sc).toNat < 32 := by decide
  have h1 : ∀ (kind : BitVec 2) (sc : BitVec 3), ((0 : BitVec 3) ++ kind ++ sc).extractLsb' 3 2 = kind := by decide
  have h2 : ∀ (kind : BitVec 2) (sc : BitVec 3), ((0 : BitVec 3) ++ kind ++ sc).setWidth 3 = sc := by decide
  rw [show ((0 : BitVec 8) == 0 && (0 : BitVec 8) == 0 && decide (((0 : BitVec 3) ++ kind ++ sc).toNat < 32)) = true by
    rw [decide_eq_true (h0 kind sc)]; rfl]
  erw [h1, h2]
  exact need_ok h

theorem RoundTrip.spawn (sp : Option Word) (d : Reg) : RoundTrip.Statement (.spawn sp d) := by
  refine RoundTrip.of_CR rfl rfl rfl rfl fun h x hx => ?_
  simp only [decodeCtrlFields, ctrlOpcode, encCR_opcode, encCR_d, encCR_a, encCR_b, BitVec.reduceToNat]
  have h := wf_ctrl h rfl
  exact need_ok h

theorem RoundTrip.joinc (sp : Option Word) (d a b : Reg) (lit : Word) : RoundTrip.Statement (.joinc sp d a b lit) := by
  refine RoundTrip.of_CR rfl rfl rfl rfl fun h x hx => ?_
  simp only [decodeCtrlFields, ctrlOpcode, encCR_opcode, encCR_d, encCR_a, encCR_b, BitVec.reduceToNat]
  have h := wf_ctrl h rfl
  rw [hx lit rfl]; exact need_ok h

theorem RoundTrip.tcopy (sp : Option Word) (d a b : Reg) : RoundTrip.Statement (.tcopy sp d a b) := by
  refine RoundTrip.of_CR rfl rfl rfl rfl fun h x hx => ?_
  simp only [decodeCtrlFields, ctrlOpcode, encCR_opcode, encCR_d, encCR_a, encCR_b, BitVec.reduceToNat]

theorem RoundTrip.gcopy (sp : Option Word) (d a b : Reg) : RoundTrip.Statement (.gcopy sp d a b) := by
  refine RoundTrip.of_CR rfl rfl rfl rfl fun h x hx => ?_
  simp only [decodeCtrlFields, ctrlOpcode, encCR_opcode, encCR_d, encCR_a, encCR_b, BitVec.reduceToNat]

theorem RoundTrip.wbload (sp : Option Word) (d a b : Reg) : RoundTrip.Statement (.wbload sp d a b) := by
  refine RoundTrip.of_CR rfl rfl rfl rfl fun h x hx => ?_
  simp only [decodeCtrlFields, ctrlOpcode, encCR_opcode, encCR_d, encCR_a, encCR_b, BitVec.reduceToNat]

theorem RoundTrip.rcopy (sp : Option Word) (d a b : Reg) : RoundTrip.Statement (.rcopy sp d a b) := by
  refine RoundTrip.of_CR rfl rfl rfl rfl fun h x hx => ?_
  simp only [decodeCtrlFields, ctrlOpcode, encCR_opcode, encCR_d, encCR_a, encCR_b, BitVec.reduceToNat]

theorem RoundTrip.getsr (sp : Option Word) (d : Reg) (m : BitVec 16) : RoundTrip.Statement (.getsr sp d m) := by
  refine RoundTrip.of_CW rfl rfl rfl rfl fun h x hx => ?_
  simp only [decodeCtrlFields, ctrlOpcode, encCW_opcode, encCW_d, encCW_m, BitVec.reduceToNat]
  have h := wf_ctrl h rfl
  exact need_ok h

theorem RoundTrip.setsr (sp : Option Word) (d : Reg) (m : BitVec 16) : RoundTrip.Statement (.setsr sp d m) := by
  refine RoundTrip.of_CW rfl rfl rfl rfl fun h x hx => ?_
  simp only [decodeCtrlFields, ctrlOpcode, encCW_opcode, encCW_d, encCW_m, BitVec.reduceToNat]
  have h := wf_ctrl h rfl
  exact need_ok h

theorem RoundTrip.trap (sp : Option Word) (m : BitVec 16) : RoundTrip.Statement (.trap sp m) := by
  refine RoundTrip.of_CW rfl rfl rfl rfl fun h x hx => ?_
  simp only [decodeCtrlFields, ctrlOpcode, encCW_opcode, encCW_d, encCW_m, BitVec.reduceToNat]
  rfl

theorem RoundTrip.sigchk (sp : Option Word) (lit : Word) : RoundTrip.Statement (.sigchk sp lit) := by
  refine RoundTrip.of_CW rfl rfl rfl rfl fun h x hx => ?_
  simp only [decodeCtrlFields, ctrlOpcode, encCW_opcode, encCW_d, encCW_m, BitVec.reduceToNat]
  rw [hx lit rfl]; rfl

theorem RoundTrip.brk (sp : Option Word) (m : BitVec 16) : RoundTrip.Statement (.brk sp m) := by
  refine RoundTrip.of_CW rfl rfl rfl rfl fun h x hx => ?_
  simp only [decodeCtrlFields, ctrlOpcode, encCW_opcode, encCW_d, encCW_m, BitVec.reduceToNat]
  rfl

theorem RoundTrip.nop (sp : Option Word) : RoundTrip.Statement (.nop sp) := by
  refine RoundTrip.of_CW rfl rfl rfl rfl fun h x hx => ?_
  simp only [decodeCtrlFields, ctrlOpcode, encCW_opcode, encCW_d, encCW_m, BitVec.reduceToNat]
  rfl

theorem RoundTrip.vadd (f : LaneForm) : RoundTrip.Statement (.vadd f) :=
  RoundTrip.of_lane rfl rfl rfl

theorem RoundTrip.vsub (f : LaneForm) : RoundTrip.Statement (.vsub f) :=
  RoundTrip.of_lane rfl rfl rfl

theorem RoundTrip.vmul (f : LaneForm) : RoundTrip.Statement (.vmul f) :=
  RoundTrip.of_lane rfl rfl rfl

theorem RoundTrip.vmulh (f : LaneForm) : RoundTrip.Statement (.vmulh f) :=
  RoundTrip.of_lane rfl rfl rfl

theorem RoundTrip.vmulhu (f : LaneForm) : RoundTrip.Statement (.vmulhu f) :=
  RoundTrip.of_lane rfl rfl rfl

theorem RoundTrip.vmad (f : LaneForm) : RoundTrip.Statement (.vmad f) :=
  RoundTrip.of_lane rfl rfl rfl

theorem RoundTrip.vand (f : LaneForm) : RoundTrip.Statement (.vand f) :=
  RoundTrip.of_lane rfl rfl rfl

theorem RoundTrip.vor (f : LaneForm) : RoundTrip.Statement (.vor f) :=
  RoundTrip.of_lane rfl rfl rfl

theorem RoundTrip.vxor (f : LaneForm) : RoundTrip.Statement (.vxor f) :=
  RoundTrip.of_lane rfl rfl rfl

theorem RoundTrip.vshl (f : LaneForm) : RoundTrip.Statement (.vshl f) :=
  RoundTrip.of_lane rfl rfl rfl

theorem RoundTrip.vshr (f : LaneForm) : RoundTrip.Statement (.vshr f) :=
  RoundTrip.of_lane rfl rfl rfl

theorem RoundTrip.vsar (f : LaneForm) : RoundTrip.Statement (.vsar f) :=
  RoundTrip.of_lane rfl rfl rfl

theorem RoundTrip.vmin (f : LaneForm) : RoundTrip.Statement (.vmin f) :=
  RoundTrip.of_lane rfl rfl rfl

theorem RoundTrip.vmax (f : LaneForm) : RoundTrip.Statement (.vmax f) :=
  RoundTrip.of_lane rfl rfl rfl

theorem RoundTrip.vminu (f : LaneForm) : RoundTrip.Statement (.vminu f) :=
  RoundTrip.of_lane rfl rfl rfl

theorem RoundTrip.vmaxu (f : LaneForm) : RoundTrip.Statement (.vmaxu f) :=
  RoundTrip.of_lane rfl rfl rfl

theorem RoundTrip.vabs (f : LaneForm) : RoundTrip.Statement (.vabs f) :=
  RoundTrip.of_lane rfl rfl rfl

theorem RoundTrip.vclz (f : LaneForm) : RoundTrip.Statement (.vclz f) :=
  RoundTrip.of_lane rfl rfl rfl

theorem RoundTrip.vpopc (f : LaneForm) : RoundTrip.Statement (.vpopc f) :=
  RoundTrip.of_lane rfl rfl rfl

theorem RoundTrip.vbfx (f : LaneForm) : RoundTrip.Statement (.vbfx f) :=
  RoundTrip.of_lane rfl rfl rfl

theorem RoundTrip.vbfi (f : LaneForm) : RoundTrip.Statement (.vbfi f) :=
  RoundTrip.of_lane rfl rfl rfl

theorem RoundTrip.vsel (f : LaneForm) : RoundTrip.Statement (.vsel f) :=
  RoundTrip.of_lane rfl rfl rfl

theorem RoundTrip.vmov (f : LaneForm) : RoundTrip.Statement (.vmov f) :=
  RoundTrip.of_lane rfl rfl rfl

theorem RoundTrip.vcmp (f : LaneForm) : RoundTrip.Statement (.vcmp f) :=
  RoundTrip.of_lane rfl rfl rfl

theorem RoundTrip.vadds (f : LaneForm) : RoundTrip.Statement (.vadds f) :=
  RoundTrip.of_lane rfl rfl rfl

theorem RoundTrip.plog (f : LaneForm) : RoundTrip.Statement (.plog f) :=
  RoundTrip.of_lane rfl rfl rfl

theorem RoundTrip.fadd (f : LaneForm) : RoundTrip.Statement (.fadd f) :=
  RoundTrip.of_lane rfl rfl rfl

theorem RoundTrip.fsub (f : LaneForm) : RoundTrip.Statement (.fsub f) :=
  RoundTrip.of_lane rfl rfl rfl

theorem RoundTrip.fmul (f : LaneForm) : RoundTrip.Statement (.fmul f) :=
  RoundTrip.of_lane rfl rfl rfl

theorem RoundTrip.ffma (f : LaneForm) : RoundTrip.Statement (.ffma f) :=
  RoundTrip.of_lane rfl rfl rfl

theorem RoundTrip.fmin (f : LaneForm) : RoundTrip.Statement (.fmin f) :=
  RoundTrip.of_lane rfl rfl rfl

theorem RoundTrip.fmax (f : LaneForm) : RoundTrip.Statement (.fmax f) :=
  RoundTrip.of_lane rfl rfl rfl

theorem RoundTrip.fcmp (f : LaneForm) : RoundTrip.Statement (.fcmp f) :=
  RoundTrip.of_lane rfl rfl rfl

theorem RoundTrip.frcp (f : LaneForm) : RoundTrip.Statement (.frcp f) :=
  RoundTrip.of_lane rfl rfl rfl

theorem RoundTrip.frsq (f : LaneForm) : RoundTrip.Statement (.frsq f) :=
  RoundTrip.of_lane rfl rfl rfl

theorem RoundTrip.fsqrt (f : LaneForm) : RoundTrip.Statement (.fsqrt f) :=
  RoundTrip.of_lane rfl rfl rfl

theorem RoundTrip.fexp (f : LaneForm) : RoundTrip.Statement (.fexp f) :=
  RoundTrip.of_lane rfl rfl rfl

theorem RoundTrip.flog (f : LaneForm) : RoundTrip.Statement (.flog f) :=
  RoundTrip.of_lane rfl rfl rfl

theorem RoundTrip.frint (f : LaneForm) : RoundTrip.Statement (.frint f) :=
  RoundTrip.of_lane rfl rfl rfl

theorem RoundTrip.fldexp (f : LaneForm) : RoundTrip.Statement (.fldexp f) :=
  RoundTrip.of_lane rfl rfl rfl

theorem RoundTrip.fexpx (f : LaneForm) : RoundTrip.Statement (.fexpx f) :=
  RoundTrip.of_lane rfl rfl rfl

theorem RoundTrip.fclass (f : LaneForm) : RoundTrip.Statement (.fclass f) :=
  RoundTrip.of_lane rfl rfl rfl

theorem RoundTrip.hadd2 (f : LaneForm) : RoundTrip.Statement (.hadd2 f) :=
  RoundTrip.of_lane rfl rfl rfl

theorem RoundTrip.hmul2 (f : LaneForm) : RoundTrip.Statement (.hmul2 f) :=
  RoundTrip.of_lane rfl rfl rfl

theorem RoundTrip.hfma2 (f : LaneForm) : RoundTrip.Statement (.hfma2 f) :=
  RoundTrip.of_lane rfl rfl rfl

theorem RoundTrip.cvt (f : LaneForm) : RoundTrip.Statement (.cvt f) :=
  RoundTrip.of_lane rfl rfl rfl

theorem RoundTrip.quant (f : LaneForm) : RoundTrip.Statement (.quant f) :=
  RoundTrip.of_lane rfl rfl rfl

theorem RoundTrip.packb (f : LaneForm) : RoundTrip.Statement (.packb f) :=
  RoundTrip.of_lane rfl rfl rfl

theorem RoundTrip.unpkb (f : LaneForm) : RoundTrip.Statement (.unpkb f) :=
  RoundTrip.of_lane rfl rfl rfl

theorem RoundTrip.shfl (f : LaneForm) : RoundTrip.Statement (.shfl f) :=
  RoundTrip.of_lane rfl rfl rfl

theorem RoundTrip.shflx (f : LaneForm) : RoundTrip.Statement (.shflx f) :=
  RoundTrip.of_lane rfl rfl rfl

theorem RoundTrip.vote (f : LaneForm) : RoundTrip.Statement (.vote f) :=
  RoundTrip.of_lane rfl rfl rfl

theorem RoundTrip.redux (f : LaneForm) : RoundTrip.Statement (.redux f) :=
  RoundTrip.of_lane rfl rfl rfl

theorem RoundTrip.scan (f : LaneForm) : RoundTrip.Statement (.scan f) :=
  RoundTrip.of_lane rfl rfl rfl

theorem RoundTrip.bld (f : LaneForm) : RoundTrip.Statement (.bld f) :=
  RoundTrip.of_lane rfl rfl rfl

theorem RoundTrip.bst (f : LaneForm) : RoundTrip.Statement (.bst f) :=
  RoundTrip.of_lane rfl rfl rfl

theorem RoundTrip.batom (f : LaneForm) : RoundTrip.Statement (.batom f) :=
  RoundTrip.of_lane rfl rfl rfl

theorem RoundTrip.bpf (f : LaneForm) : RoundTrip.Statement (.bpf f) :=
  RoundTrip.of_lane rfl rfl rfl

theorem RoundTrip.lld (f : LaneForm) : RoundTrip.Statement (.lld f) :=
  RoundTrip.of_lane rfl rfl rfl

theorem RoundTrip.lst (f : LaneForm) : RoundTrip.Statement (.lst f) :=
  RoundTrip.of_lane rfl rfl rfl

theorem RoundTrip.latom (f : LaneForm) : RoundTrip.Statement (.latom f) :=
  RoundTrip.of_lane rfl rfl rfl

theorem RoundTrip.pld (f : LaneForm) : RoundTrip.Statement (.pld f) :=
  RoundTrip.of_lane rfl rfl rfl

theorem RoundTrip.pst (f : LaneForm) : RoundTrip.Statement (.pst f) :=
  RoundTrip.of_lane rfl rfl rfl

theorem RoundTrip.vld (f : LaneForm) : RoundTrip.Statement (.vld f) :=
  RoundTrip.of_lane rfl rfl rfl

theorem RoundTrip.vst (f : LaneForm) : RoundTrip.Statement (.vst f) :=
  RoundTrip.of_lane rfl rfl rfl

theorem RoundTrip.mma (f : LaneForm) : RoundTrip.Statement (.mma f) :=
  RoundTrip.of_lane rfl rfl rfl

theorem RoundTrip.accrd (f : LaneForm) : RoundTrip.Statement (.accrd f) :=
  RoundTrip.of_lane rfl rfl rfl

theorem RoundTrip.accwr (f : LaneForm) : RoundTrip.Statement (.accwr f) :=
  RoundTrip.of_lane rfl rfl rfl

theorem RoundTrip.accz (f : LaneForm) : RoundTrip.Statement (.accz f) :=
  RoundTrip.of_lane rfl rfl rfl

theorem RoundTrip.lnop (f : LaneForm) : RoundTrip.Statement (.lnop f) :=
  RoundTrip.of_lane rfl rfl rfl

theorem RoundTrip.clauseHead (c : Nat) : RoundTrip.Statement (.clauseHead c) :=
  RoundTrip.of_event rfl rfl

theorem RoundTrip.laneCompletion (c op : Nat) (lanes : LaneMask) : RoundTrip.Statement (.laneCompletion c op lanes) :=
  RoundTrip.of_event rfl rfl

theorem RoundTrip.segmentStart (c : Nat) : RoundTrip.Statement (.segmentStart c) :=
  RoundTrip.of_event rfl rfl

theorem RoundTrip.endMarker (c : Nat) : RoundTrip.Statement (.endMarker c) :=
  RoundTrip.of_event rfl rfl

theorem RoundTrip.contextEnd (c : Nat) : RoundTrip.Statement (.contextEnd c) :=
  RoundTrip.of_event rfl rfl

theorem RoundTrip.gridRetire (l : Nat) : RoundTrip.Statement (.gridRetire l) :=
  RoundTrip.of_event rfl rfl

theorem RoundTrip.descentUnstall (c : Nat) : RoundTrip.Statement (.descentUnstall c) :=
  RoundTrip.of_event rfl rfl

theorem RoundTrip.barrierOpen (owner n : Nat) : RoundTrip.Statement (.barrierOpen owner n) :=
  RoundTrip.of_event rfl rfl

theorem RoundTrip.reelWave (cl : Nat) : RoundTrip.Statement (.reelWave cl) :=
  RoundTrip.of_event rfl rfl

theorem RoundTrip.waitaWake (c : Nat) : RoundTrip.Statement (.waitaWake c) :=
  RoundTrip.of_event rfl rfl

theorem RoundTrip.trywWake (c : Nat) : RoundTrip.Statement (.trywWake c) :=
  RoundTrip.of_event rfl rfl

theorem RoundTrip.trywTimeout (c : Nat) : RoundTrip.Statement (.trywTimeout c) :=
  RoundTrip.of_event rfl rfl

theorem RoundTrip.growGrant (c : Nat) : RoundTrip.Statement (.growGrant c) :=
  RoundTrip.of_event rfl rfl

theorem RoundTrip.ownerPop (k : Nat) : RoundTrip.Statement (.ownerPop k) :=
  RoundTrip.of_event rfl rfl

theorem RoundTrip.steal (k : Nat) : RoundTrip.Statement (.steal k) :=
  RoundTrip.of_event rfl rfl

theorem RoundTrip.stealRetry (k : Nat) : RoundTrip.Statement (.stealRetry k) :=
  RoundTrip.of_event rfl rfl

theorem RoundTrip.taskStart (k : Nat) : RoundTrip.Statement (.taskStart k) :=
  RoundTrip.of_event rfl rfl

theorem RoundTrip.engineOpStart (k cls : Nat) : RoundTrip.Statement (.engineOpStart k cls) :=
  RoundTrip.of_event rfl rfl

theorem RoundTrip.ringSlotTake (op : Nat) : RoundTrip.Statement (.ringSlotTake op) :=
  RoundTrip.of_event rfl rfl

theorem RoundTrip.landing (op blk : Nat) : RoundTrip.Statement (.landing op blk) :=
  RoundTrip.of_event rfl rfl

theorem RoundTrip.engineRetire (c cls : Nat) : RoundTrip.Statement (.engineRetire c cls) :=
  RoundTrip.of_event rfl rfl

theorem RoundTrip.engineResume (op : Nat) : RoundTrip.Statement (.engineResume op) :=
  RoundTrip.of_event rfl rfl

theorem RoundTrip.weightDelivery (k i : Nat) : RoundTrip.Statement (.weightDelivery k i) :=
  RoundTrip.of_event rfl rfl

theorem RoundTrip.octetStart (k i : Nat) : RoundTrip.Statement (.octetStart k i) :=
  RoundTrip.of_event rfl rfl

theorem RoundTrip.octetComplete (k i : Nat) : RoundTrip.Statement (.octetComplete k i) :=
  RoundTrip.of_event rfl rfl

theorem RoundTrip.acczPerform (k i : Nat) : RoundTrip.Statement (.acczPerform k i) :=
  RoundTrip.of_event rfl rfl

theorem RoundTrip.homeWrite (i : Nat) : RoundTrip.Statement (.homeWrite i) :=
  RoundTrip.of_event rfl rfl

theorem RoundTrip.l1WriteBack (k line : Nat) (bad : Bool) : RoundTrip.Statement (.l1WriteBack k line bad) :=
  RoundTrip.of_event rfl rfl

theorem RoundTrip.deviceCacheEviction (line : Nat) : RoundTrip.Statement (.deviceCacheEviction line) :=
  RoundTrip.of_event rfl rfl

theorem RoundTrip.tagRewrite (k row : Nat) : RoundTrip.Statement (.tagRewrite k row) :=
  RoundTrip.of_event rfl rfl

theorem RoundTrip.skim (g : Nat) : RoundTrip.Statement (.skim g) :=
  RoundTrip.of_event rfl rfl

theorem RoundTrip.accessCounterHalve : RoundTrip.Statement .accessCounterHalve :=
  RoundTrip.of_event rfl rfl

theorem RoundTrip.regionMigrate (asid region frame free : Nat) (full : Bool) : RoundTrip.Statement (.regionMigrate asid region frame free full) :=
  RoundTrip.of_event rfl rfl

theorem RoundTrip.mapChange (asid table : Nat) (edits : List (Nat × DWord)) : RoundTrip.Statement (.mapChange asid table edits) :=
  RoundTrip.of_event rfl rfl

theorem RoundTrip.faultBatchServed : RoundTrip.Statement .faultBatchServed :=
  RoundTrip.of_event rfl rfl

theorem RoundTrip.pageReplay (c : Nat) : RoundTrip.Statement (.pageReplay c) :=
  RoundTrip.of_event rfl rfl

theorem RoundTrip.atomicReissue (c : Nat) : RoundTrip.Statement (.atomicReissue c) :=
  RoundTrip.of_event rfl rfl

theorem RoundTrip.fetchRetry (c : Nat) : RoundTrip.Statement (.fetchRetry c) :=
  RoundTrip.of_event rfl rfl

theorem RoundTrip.kill : RoundTrip.Statement .kill :=
  RoundTrip.of_event rfl rfl

theorem RoundTrip.preemption (l : Nat) : RoundTrip.Statement (.preemption l) :=
  RoundTrip.of_event rfl rfl

theorem RoundTrip.restore (l : Nat) : RoundTrip.Statement (.restore l) :=
  RoundTrip.of_event rfl rfl

theorem RoundTrip.growDeadlock (k : Nat) : RoundTrip.Statement (.growDeadlock k) :=
  RoundTrip.of_event rfl rfl

theorem RoundTrip.lattolExpiry (l : Nat) : RoundTrip.Statement (.lattolExpiry l) :=
  RoundTrip.of_event rfl rfl

theorem RoundTrip.placement (l : Nat) : RoundTrip.Statement (.placement l) :=
  RoundTrip.of_event rfl rfl

theorem RoundTrip.tokenGrant (l : Nat) : RoundTrip.Statement (.tokenGrant l) :=
  RoundTrip.of_event rfl rfl

theorem RoundTrip.depNotification : RoundTrip.Statement .depNotification :=
  RoundTrip.of_event rfl rfl

theorem RoundTrip.activeSetSwap (c : Nat) : RoundTrip.Statement (.activeSetSwap c) :=
  RoundTrip.of_event rfl rfl

theorem RoundTrip.agelimSwap (c : Nat) : RoundTrip.Statement (.agelimSwap c) :=
  RoundTrip.of_event rfl rfl

theorem RoundTrip.doorbell (v : DWord) : RoundTrip.Statement (.doorbell v) :=
  RoundTrip.of_event rfl rfl

theorem RoundTrip.queueCreate (v : DWord) : RoundTrip.Statement (.queueCreate v) :=
  RoundTrip.of_event rfl rfl

theorem RoundTrip.queueDestroy (v : DWord) : RoundTrip.Statement (.queueDestroy v) :=
  RoundTrip.of_event rfl rfl

theorem RoundTrip.thermalHoldRelease (v : DWord) (t : DieTemp) : RoundTrip.Statement (.thermalHoldRelease v t) :=
  RoundTrip.of_event rfl rfl

theorem RoundTrip.queueSlotTake (q : Nat) : RoundTrip.Statement (.queueSlotTake q) :=
  RoundTrip.of_event rfl rfl

theorem RoundTrip.queueWake : RoundTrip.Statement .queueWake :=
  RoundTrip.of_event rfl rfl

theorem RoundTrip.nopPacket (q : Nat) : RoundTrip.Statement (.nopPacket q) :=
  RoundTrip.of_event rfl rfl

theorem RoundTrip.launchPacket (q : Nat) : RoundTrip.Statement (.launchPacket q) :=
  RoundTrip.of_event rfl rfl

theorem RoundTrip.waitPacket (q : Nat) : RoundTrip.Statement (.waitPacket q) :=
  RoundTrip.of_event rfl rfl

theorem RoundTrip.signalPacket (q : Nat) : RoundTrip.Statement (.signalPacket q) :=
  RoundTrip.of_event rfl rfl

theorem RoundTrip.regionPacket (q : Nat) : RoundTrip.Statement (.regionPacket q) :=
  RoundTrip.of_event rfl rfl

theorem RoundTrip.unknownPacket (q : Nat) : RoundTrip.Statement (.unknownPacket q) :=
  RoundTrip.of_event rfl rfl

theorem RoundTrip.queueUnpark (q : Nat) : RoundTrip.Statement (.queueUnpark q) :=
  RoundTrip.of_event rfl rfl

theorem RoundTrip.selfTest (v : DWord) : RoundTrip.Statement (.selfTest v) :=
  RoundTrip.of_event rfl rfl

theorem RoundTrip.selfTestEnd (r : List Word) : RoundTrip.Statement (.selfTestEnd r) :=
  RoundTrip.of_event rfl rfl

theorem RoundTrip.devstatRead : RoundTrip.Statement .devstatRead :=
  RoundTrip.of_event rfl rfl

theorem RoundTrip.registerWrite (t : RegTarget) (v : DWord) : RoundTrip.Statement (.registerWrite t v) :=
  RoundTrip.of_event rfl rfl

theorem RoundTrip.slopeWrite (cl : Nat) (lim : BitVec 16) : RoundTrip.Statement (.slopeWrite cl lim) :=
  RoundTrip.of_event rfl rfl

theorem RoundTrip.tokpoolWrite (v : Word) : RoundTrip.Statement (.tokpoolWrite v) :=
  RoundTrip.of_event rfl rfl

theorem RoundTrip.slicectlWrite (k : Nat) (v : Word) : RoundTrip.Statement (.slicectlWrite k v) :=
  RoundTrip.of_event rfl rfl

theorem RoundTrip.powerCheck (draw : Nat) : RoundTrip.Statement (.powerCheck draw) :=
  RoundTrip.of_event rfl rfl

theorem RoundTrip.droop (cl : Nat) (on : Bool) : RoundTrip.Statement (.droop cl on) :=
  RoundTrip.of_event rfl rfl

theorem RoundTrip.churn (on : Bool) : RoundTrip.Statement (.churn on) :=
  RoundTrip.of_event rfl rfl

theorem RoundTrip.thermalThrottle (t : DieTemp) : RoundTrip.Statement (.thermalThrottle t) :=
  RoundTrip.of_event rfl rfl

theorem RoundTrip.thermalShutdown (t : DieTemp) : RoundTrip.Statement (.thermalShutdown t) :=
  RoundTrip.of_event rfl rfl

theorem RoundTrip.supplyLoss (die : BitVec 1) : RoundTrip.Statement (.supplyLoss die) :=
  RoundTrip.of_event rfl rfl

theorem RoundTrip.supplyResume (lost : BitVec 48) : RoundTrip.Statement (.supplyResume lost) :=
  RoundTrip.of_event rfl rfl

theorem RoundTrip.coldReset : RoundTrip.Statement .coldReset :=
  RoundTrip.of_event rfl rfl

theorem RoundTrip.boot (img : BootImage) : RoundTrip.Statement (.boot img) :=
  RoundTrip.of_event rfl rfl

theorem RoundTrip.getMeasurements : RoundTrip.Statement .getMeasurements :=
  RoundTrip.of_event rfl rfl

theorem RoundTrip.mailboxSend (src dst taken : Nat) (d : List Word) : RoundTrip.Statement (.mailboxSend src dst taken d) :=
  RoundTrip.of_event rfl rfl

theorem RoundTrip.flitReplay (p count : Nat) : RoundTrip.Statement (.flitReplay p count) :=
  RoundTrip.of_event rfl rfl

theorem RoundTrip.retrain (p : Nat) (failed : BitVec 8) (peer : BitVec 12) : RoundTrip.Statement (.retrain p failed peer) :=
  RoundTrip.of_event rfl rfl

theorem RoundTrip.inboundPeerAccess (r : PeerAccess) : RoundTrip.Statement (.inboundPeerAccess r) :=
  RoundTrip.of_event rfl rfl

theorem RoundTrip.remoteResolutionNotice (id : Nat) : RoundTrip.Statement (.remoteResolutionNotice id) :=
  RoundTrip.of_event rfl rfl

theorem RoundTrip.rtimeout (id : Nat) : RoundTrip.Statement (.rtimeout id) :=
  RoundTrip.of_event rfl rfl

theorem RoundTrip.hostWrite (addr : Nat) (d : List Byte) : RoundTrip.Statement (.hostWrite addr d) :=
  RoundTrip.of_event rfl rfl

theorem RoundTrip.hostSnoop (line : Nat) : RoundTrip.Statement (.hostSnoop line) :=
  RoundTrip.of_event rfl rfl

theorem RoundTrip.debugRead (r : DebugAccess) : RoundTrip.Statement (.debugRead r) :=
  RoundTrip.of_event rfl rfl

theorem RoundTrip.debugWrite (r : DebugAccess) : RoundTrip.Statement (.debugWrite r) :=
  RoundTrip.of_event rfl rfl

theorem RoundTrip.debugResume (c : Nat) : RoundTrip.Statement (.debugResume c) :=
  RoundTrip.of_event rfl rfl

theorem RoundTrip.auxiliaryRailFailure : RoundTrip.Statement .auxiliaryRailFailure :=
  RoundTrip.of_event rfl rfl

theorem RoundTrip.thermalHoldTemperatureFall (t : DieTemp) : RoundTrip.Statement (.thermalHoldTemperatureFall t) :=
  RoundTrip.of_event rfl rfl

theorem RoundTrip.partnerRetention (p : Nat) : RoundTrip.Statement (.partnerRetention p) :=
  RoundTrip.of_event rfl rfl

theorem RoundTrip.cacheShareChange (v share : Nat) : RoundTrip.Statement (.cacheShareChange v share) :=
  RoundTrip.of_event rfl rfl

theorem RoundTrip.remoteAnswer (id : Nat) (ans : PeerAnswer) : RoundTrip.Statement (.remoteAnswer id ans) :=
  RoundTrip.of_event rfl rfl

theorem RoundTrip.pcieRecovery (ok : Bool) : RoundTrip.Statement (.pcieRecovery ok) :=
  RoundTrip.of_event rfl rfl

end Sys2Proof.Laws
end

