-- ==== Sys2Proof/Tests/Slice0.lean ====
section
/-! SUPPORT. Tests of the model: words of every family, ill-formed terms, single steps, and for every statement a state that
meets its hypotheses. Expected results are worked from the rules that each theorem names. -/

open Sys2Proof Sys2Proof.Machine

namespace Sys2Proof.Tests


set_option Elab.async false

/-! ## Words written out from R159, R165, R184 and R190 decode to the instructions they stand for -/

theorem test_words_scalar_registers_1 :
    (decodeCtrlWords [0x011405F6]).toOption = some (.add none 20 5 246, 1) ∧
    (decodeCtrlWords [0x021405F6]).toOption = some (.sub none 20 5 246, 1) ∧
    (decodeCtrlWords [0x031405F6]).toOption = some (.mul none 20 5 246, 1) ∧
    (decodeCtrlWords [0x041405F6]).toOption = some (.mulh none 20 5 246, 1) ∧
    (decodeCtrlWords [0x051405F6]).toOption = some (.mulhu none 20 5 246, 1) ∧
    (decodeCtrlWords [0x061405F6]).toOption = some (.andr none 20 5 246, 1) ∧
    (decodeCtrlWords [0x071405F6]).toOption = some (.orr none 20 5 246, 1) ∧
    (decodeCtrlWords [0x081405F6]).toOption = some (.xorr none 20 5 246, 1) ∧
    (decodeCtrlWords [0x091405F6]).toOption = some (.shl none 20 5 246, 1) ∧
    (decodeCtrlWords [0x0A1405F6]).toOption = some (.shr none 20 5 246, 1) ∧
    (decodeCtrlWords [0x0B1405F6]).toOption = some (.sar none 20 5 246, 1) ∧
    (decodeCtrlWords [0x0C1405F6]).toOption = some (.minr none 20 5 246, 1) := by
  decide

theorem test_words_scalar_registers_2 :
    (decodeCtrlWords [0x0D1405F6]).toOption = some (.maxr none 20 5 246, 1) ∧
    (decodeCtrlWords [0x0E1405F6]).toOption = some (.minu none 20 5 246, 1) ∧
    (decodeCtrlWords [0x0F1405F6]).toOption = some (.maxu none 20 5 246, 1) ∧
    (decodeCtrlWords [0x101405F6]).toOption = some (.slt none 20 5 246, 1) ∧
    (decodeCtrlWords [0x111405F6]).toOption = some (.sltu none 20 5 246, 1) ∧
    (decodeCtrlWords [0x121405F6]).toOption = some (.seq none 20 5 246, 1) ∧
    (decodeCtrlWords [0x151405F6]).toOption = some (.divu none 20 5 246, 1) ∧
    (decodeCtrlWords [0x161405F6]).toOption = some (.remu none 20 5 246, 1) ∧
    (decodeCtrlWords [0x171405F6]).toOption = some (.bfx none 20 5 246, 1) ∧
    (decodeCtrlWords [0x13140500]).toOption = some (.clz none 20 5, 1) ∧
    (decodeCtrlWords [0x14140500]).toOption = some (.popc none 20 5, 1) := by
  decide

theorem test_words_scalar_immediates_1 :
    (decodeCtrlWords [0x18140581]).toOption = some (.addi none 20 5 0x81, 1) ∧
    (decodeCtrlWords [0x19140581]).toOption = some (.andi none 20 5 0x81, 1) ∧
    (decodeCtrlWords [0x1A140581]).toOption = some (.ori none 20 5 0x81, 1) ∧
    (decodeCtrlWords [0x1B140581]).toOption = some (.xori none 20 5 0x81, 1) ∧
    (decodeCtrlWords [0x1F140581]).toOption = some (.slti none 20 5 0x81, 1) ∧
    (decodeCtrlWords [0x24140581]).toOption = some (.lds none 20 5 0x81, 1) ∧
    (decodeCtrlWords [0x25140581]).toOption = some (.sts none 20 5 0x81, 1) ∧
    (decodeCtrlWords [0x1C14051F]).toOption = some (.shli none 20 5 31, 1) ∧
    (decodeCtrlWords [0x1D14051F]).toOption = some (.shri none 20 5 31, 1) ∧
    (decodeCtrlWords [0x1E14051F]).toOption = some (.sari none 20 5 31, 1) ∧
    (decodeCtrlWords [0x20148001]).toOption = some (.movi none 20 0x8001, 1) ∧
    (decodeCtrlWords [0x21148001]).toOption = some (.movhi none 20 0x8001, 1) := by
  decide

theorem test_words_scalar_immediates_2 :
    (decodeCtrlWords [0x23148001]).toOption = some (.addiw none 20 0x8001, 1) ∧
    (decodeCtrlWords [0x22140000, 0x89ABCDEF]).toOption = some (.movl none 20 0x89ABCDEF, 2) := by
  decide

theorem test_words_scalar_memory :
    (decodeCtrlWords [0x2614057F]).toOption = some (.sbld none 20 5 127, 1) ∧
    (decodeCtrlWords [0x2714057F]).toOption = some (.sbst none 20 5 127, 1) ∧
    (decodeCtrlWords [0x28140503, 0x89ABCDEF]).toOption = some (.satom none 20 5 3 0x89ABCDEF, 2) ∧
    (decodeCtrlWords [0xA8140503, 0x89ABCDEF, 0x000000F0]).toOption = some (.satom (some 0xF0) 20 5 3 0x89ABCDEF, 3) ∧
    (decodeCtrlWords [0xA900FFF8, 0x000000F0]).toOption = some (.grow (some 0xF0) 0xFFF8, 2) := by
  decide

theorem test_words_flow_1 :
    (decodeCtrlWords [0x30A01001]).toOption = some (.br none 5 0x1001, 1) ∧
    (decodeCtrlWords [0x31419FFD]).toOption = some (.bz none 2 12 0x1FFD, 1) ∧
    (decodeCtrlWords [0x32419FFD]).toOption = some (.bnz none 2 12 0x1FFD, 1) ∧
    (decodeCtrlWords [0x33419FFD]).toOption = some (.bltz none 2 12 0x1FFD, 1) ∧
    (decodeCtrlWords [0x34419FFD]).toOption = some (.bgez none 2 12 0x1FFD, 1) ∧
    (decodeCtrlWords [0x3520E005]).toOption = some (.buni none 1 7 5, 1) ∧
    (decodeCtrlWords [0x3A00E005]).toOption = some (.brl none 0 7 5, 1) ∧
    (decodeCtrlWords [0x36200014]).toOption = some (.call none 1 20, 1) ∧
    (decodeCtrlWords [0x37200000]).toOption = some (.ret none 1, 1) ∧
    (decodeCtrlWords [0x3840AFFF]).toOption = some (.loop none 2 5 0xFFF, 1) ∧
    (decodeCtrlWords [0x38400000]).toOption = some (.loopNext none 2, 1) ∧
    (decodeCtrlWords [0x38402000]).toOption = some (.loopLeave none 2, 1) := by
  decide

theorem test_words_flow_2 :
    (decodeCtrlWords [0x39800000]).toOption = some (.endc none 4, 1) ∧
    (decodeCtrlWords [0x3B000009]).toOption = some (.meet none 0 9, 1) := by
  decide

theorem test_words_lanes :
    (decodeCtrlWords [0x40FC1234]).toOption = some (.lane none 252 0x1234, 1) ∧
    (decodeCtrlWords [0x41000000]).toOption = some (.lsync none, 1) ∧
    (decodeCtrlWords [0xC1000000, 0x00000003]).toOption = some (.lsync (some 3), 2) ∧
    (decodeCtrlWords [0x42140300]).toOption = some (.ptos none 20 3, 1) ∧
    (decodeCtrlWords [0x43090C05]).toOption = some (.vtos none 9 12 5, 1) ∧
    (decodeCtrlWords [0x43080C45]).toOption = some (.vtosPair none 8 12 5, 1) ∧
    (decodeCtrlWords [0x43090C80]).toOption = some (.vtosFirst none 9 12, 1) ∧
    (decodeCtrlWords [0x44FE0000]).toOption = some (.exmr none 254, 1) ∧
    (decodeCtrlWords [0x4500FE00]).toOption = some (.exmw none 254, 1) := by
  decide

theorem test_words_sequencers :
    (decodeCtrlWords [0x48080040]).toOption = some (.down none 8 0x40, 1) ∧
    (decodeCtrlWords [0x49000000]).toOption = some (.segend none, 1) ∧
    (decodeCtrlWords [0x4A000501]).toOption = some (.up none 5 1, 1) ∧
    (decodeCtrlWords [0x4B070007]).toOption = some (.gather none 7 7, 1) ∧
    (decodeCtrlWords [0x4C00000F]).toOption = some (.bar none 15, 1) ∧
    (decodeCtrlWords [0x4D000003]).toOption = some (.barc none 3, 1) := by
  decide

theorem test_words_waits :
    (decodeCtrlWords [0x5000000A]).toOption = some (.waitf none 0x00A, 1) ∧
    (decodeCtrlWords [0x5100007F]).toOption = some (.waite none 1 63, 1) ∧
    (decodeCtrlWords [0x52070405]).toOption = some (.waita none 7 4 5, 1) ∧
    (decodeCtrlWords [0x53060403, 0x00003E81]).toOption = some (.tryw none 6 4 3 0x3E81, 2) ∧
    (decodeCtrlWords [0x54000015]).toOption = some (.fence none 2 5, 1) ∧
    (decodeCtrlWords [0x5400000C]).toOption = some (.fence none 1 4, 1) := by
  decide

theorem test_words_tasks_and_engines :
    (decodeCtrlWords [0x58F00000]).toOption = some (.spawn none 240, 1) ∧
    (decodeCtrlWords [0xD9100405, 0x89ABCDEF, 0x00000000]).toOption = some (.joinc (some 0) 16 4 5 0x89ABCDEF, 3) ∧
    (decodeCtrlWords [0xE0140506, 0x00000007]).toOption = some (.tcopy (some 7) 20 5 6, 2) ∧
    (decodeCtrlWords [0xE1140506, 0x00000007]).toOption = some (.gcopy (some 7) 20 5 6, 2) ∧
    (decodeCtrlWords [0xE2140506, 0x00000007]).toOption = some (.wbload (some 7) 20 5 6, 2) ∧
    (decodeCtrlWords [0xE3140506, 0x00000007]).toOption = some (.rcopy (some 7) 20 5 6, 2) := by
  decide

theorem test_words_system :
    (decodeCtrlWords [0x700A000C]).toOption = some (.getsr none 10 0x00C, 1) ∧
    (decodeCtrlWords [0x710A0024]).toOption = some (.setsr none 10 0x024, 1) ∧
    (decodeCtrlWords [0x72000012]).toOption = some (.trap none 0x12, 1) ∧
    (decodeCtrlWords [0x73000000, 0x89ABCDEF]).toOption = some (.sigchk none 0x89ABCDEF, 2) ∧
    (decodeCtrlWords [0x74000001]).toOption = some (.brk none 1, 1) ∧
    (decodeCtrlWords [0x75000000]).toOption = some (.nop none, 1) := by
  decide

theorem test_words_lane_integer_1 :
    (decodeLaneWords [0x010405F6, 0x00750800, 0xDEADBEEF]).toOption = some (.vadd ⟨4, 5, 246, 0, 3, true, 5, 0, 2, 0, 0, 0xDEADBEEF⟩) ∧
    (decodeLaneWords [0x020405F6, 0x00760800, 0xDEADBEEF]).toOption = some (.vsub ⟨4, 5, 246, 0, 3, true, 6, 0, 2, 0, 0, 0xDEADBEEF⟩) ∧
    (decodeLaneWords [0x190405F6, 0x00710800, 0xDEADBEEF]).toOption = some (.vadds ⟨4, 5, 246, 0, 3, true, 1, 0, 2, 0, 0, 0xDEADBEEF⟩) ∧
    (decodeLaneWords [0x0D0405F6, 0x00700800, 0xDEADBEEF]).toOption = some (.vmin ⟨4, 5, 246, 0, 3, true, 0, 0, 2, 0, 0, 0xDEADBEEF⟩) ∧
    (decodeLaneWords [0x0E0405F6, 0x00750800, 0xDEADBEEF]).toOption = some (.vmax ⟨4, 5, 246, 0, 3, true, 5, 0, 2, 0, 0, 0xDEADBEEF⟩) ∧
    (decodeLaneWords [0x0F0405F6, 0x00760800, 0xDEADBEEF]).toOption = some (.vminu ⟨4, 5, 246, 0, 3, true, 6, 0, 2, 0, 0, 0xDEADBEEF⟩) ∧
    (decodeLaneWords [0x100405F6, 0x00700800, 0xDEADBEEF]).toOption = some (.vmaxu ⟨4, 5, 246, 0, 3, true, 0, 0, 2, 0, 0, 0xDEADBEEF⟩) ∧
    (decodeLaneWords [0x030405F6, 0x00700800, 0xDEADBEEF]).toOption = some (.vmul ⟨4, 5, 246, 0, 3, true, 0, 0, 2, 0, 0, 0xDEADBEEF⟩) ∧
    (decodeLaneWords [0x040405F6, 0x00700800, 0xDEADBEEF]).toOption = some (.vmulh ⟨4, 5, 246, 0, 3, true, 0, 0, 2, 0, 0, 0xDEADBEEF⟩) ∧
    (decodeLaneWords [0x050405F6, 0x00700800, 0xDEADBEEF]).toOption = some (.vmulhu ⟨4, 5, 246, 0, 3, true, 0, 0, 2, 0, 0, 0xDEADBEEF⟩) ∧
    (decodeLaneWords [0x070405F6, 0x00700800, 0xDEADBEEF]).toOption = some (.vand ⟨4, 5, 246, 0, 3, true, 0, 0, 2, 0, 0, 0xDEADBEEF⟩) ∧
    (decodeLaneWords [0x080405F6, 0x00700800, 0xDEADBEEF]).toOption = some (.vor ⟨4, 5, 246, 0, 3, true, 0, 0, 2, 0, 0, 0xDEADBEEF⟩) := by
  decide

theorem test_words_lane_integer_2 :
    (decodeLaneWords [0x090405F6, 0x00700800, 0xDEADBEEF]).toOption = some (.vxor ⟨4, 5, 246, 0, 3, true, 0, 0, 2, 0, 0, 0xDEADBEEF⟩) ∧
    (decodeLaneWords [0x0A0405F6, 0x00700800, 0xDEADBEEF]).toOption = some (.vshl ⟨4, 5, 246, 0, 3, true, 0, 0, 2, 0, 0, 0xDEADBEEF⟩) ∧
    (decodeLaneWords [0x0B0405F6, 0x00700800, 0xDEADBEEF]).toOption = some (.vshr ⟨4, 5, 246, 0, 3, true, 0, 0, 2, 0, 0, 0xDEADBEEF⟩) ∧
    (decodeLaneWords [0x0C0405F6, 0x00700800, 0xDEADBEEF]).toOption = some (.vsar ⟨4, 5, 246, 0, 3, true, 0, 0, 2, 0, 0, 0xDEADBEEF⟩) ∧
    (decodeLaneWords [0x140405F6, 0x00700800, 0xDEADBEEF]).toOption = some (.vbfx ⟨4, 5, 246, 0, 3, true, 0, 0, 2, 0, 0, 0xDEADBEEF⟩) ∧
    (decodeLaneWords [0x06EFF0F4, 0xF6000000, 0x80000000]).toOption = some (.vmad ⟨239, 240, 244, 246, 0, false, 0, 0, 0, 0, 0, 0x80000000⟩) ∧
    (decodeLaneWords [0x15EFF0F4, 0xF6000000, 0x80000000]).toOption = some (.vbfi ⟨239, 240, 244, 246, 0, false, 0, 0, 0, 0, 0, 0x80000000⟩) ∧
    (decodeLaneWords [0x11040500, 0x00000000, 0x00000000]).toOption = some (.vabs ⟨4, 5, 0, 0, 0, false, 0, 0, 0, 0, 0, 0x0⟩) ∧
    (decodeLaneWords [0x12040500, 0x00000000, 0x00000000]).toOption = some (.vclz ⟨4, 5, 0, 0, 0, false, 0, 0, 0, 0, 0, 0x0⟩) ∧
    (decodeLaneWords [0x13040500, 0x00000000, 0x00000000]).toOption = some (.vpopc ⟨4, 5, 0, 0, 0, false, 0, 0, 0, 0, 0, 0x0⟩) ∧
    (decodeLaneWords [0x17040500, 0x00000000, 0x00000000]).toOption = some (.vmov ⟨4, 5, 0, 0, 0, false, 0, 0, 0, 0, 0, 0x0⟩) := by
  decide

theorem test_words_lane_predicates :
    (decodeLaneWords [0x160601F6, 0x04000000, 0x00000000]).toOption = some (.vsel ⟨6, 1, 246, 4, 0, false, 0, 0, 0, 0, 0, 0x0⟩) ∧
    (decodeLaneWords [0x180301F0, 0x00002000, 0x00000000]).toOption = some (.vcmp ⟨3, 1, 240, 0, 0, false, 0, 2, 0, 0, 0, 0x0⟩) ∧
    (decodeLaneWords [0x1A040302, 0x00003000, 0x00000000]).toOption = some (.plog ⟨4, 3, 2, 0, 0, false, 0, 3, 0, 0, 0, 0x0⟩) ∧
    (decodeLaneWords [0x40070309, 0x05000000, 0x00000000]).toOption = some (.shfl ⟨7, 3, 9, 5, 0, false, 0, 0, 0, 0, 0, 0x0⟩) ∧
    (decodeLaneWords [0x41070309, 0x07000000, 0x00000000]).toOption = some (.shflx ⟨7, 3, 9, 7, 0, false, 0, 0, 0, 0, 0, 0x0⟩) ∧
    (decodeLaneWords [0x42070300, 0x00004000, 0x00000000]).toOption = some (.vote ⟨7, 3, 0, 0, 0, false, 0, 4, 0, 0, 0, 0x0⟩) ∧
    (decodeLaneWords [0x43070300, 0x00006000, 0x00000000]).toOption = some (.redux ⟨7, 3, 0, 0, 0, false, 0, 6, 0, 0, 0, 0x0⟩) ∧
    (decodeLaneWords [0x44070300, 0x00000001, 0x00000000]).toOption = some (.scan ⟨7, 3, 0, 0, 0, false, 0, 0, 0, 0, 1, 0x0⟩) := by
  decide

theorem test_words_lane_float_1 :
    (decodeLaneWords [0x20040102, 0x00024000, 0x00000000]).toOption = some (.fadd ⟨4, 1, 2, 0, 0, false, 2, 4, 0, 0, 0, 0x0⟩) ∧
    (decodeLaneWords [0x21040102, 0x00024000, 0x00000000]).toOption = some (.fsub ⟨4, 1, 2, 0, 0, false, 2, 4, 0, 0, 0, 0x0⟩) ∧
    (decodeLaneWords [0x22040102, 0x00024000, 0x00000000]).toOption = some (.fmul ⟨4, 1, 2, 0, 0, false, 2, 4, 0, 0, 0, 0x0⟩) ∧
    (decodeLaneWords [0x23040102, 0x03020000, 0x00000000]).toOption = some (.ffma ⟨4, 1, 2, 3, 0, false, 2, 0, 0, 0, 0, 0x0⟩) ∧
    (decodeLaneWords [0x24040102, 0x00020000, 0x00000000]).toOption = some (.fmin ⟨4, 1, 2, 0, 0, false, 2, 0, 0, 0, 0, 0x0⟩) ∧
    (decodeLaneWords [0x25040102, 0x00020000, 0x00000000]).toOption = some (.fmax ⟨4, 1, 2, 0, 0, false, 2, 0, 0, 0, 0, 0x0⟩) ∧
    (decodeLaneWords [0x26030102, 0x00026000, 0x00000000]).toOption = some (.fcmp ⟨3, 1, 2, 0, 0, false, 2, 6, 0, 0, 0, 0x0⟩) ∧
    (decodeLaneWords [0x27030200, 0x00020000, 0x00000000]).toOption = some (.frcp ⟨3, 2, 0, 0, 0, false, 2, 0, 0, 0, 0, 0x0⟩) ∧
    (decodeLaneWords [0x28030200, 0x00020000, 0x00000000]).toOption = some (.frsq ⟨3, 2, 0, 0, 0, false, 2, 0, 0, 0, 0, 0x0⟩) ∧
    (decodeLaneWords [0x29030200, 0x00020000, 0x00000000]).toOption = some (.fsqrt ⟨3, 2, 0, 0, 0, false, 2, 0, 0, 0, 0, 0x0⟩) ∧
    (decodeLaneWords [0x2A030200, 0x00020000, 0x00000000]).toOption = some (.fexp ⟨3, 2, 0, 0, 0, false, 2, 0, 0, 0, 0, 0x0⟩) ∧
    (decodeLaneWords [0x2B030200, 0x00020000, 0x00000000]).toOption = some (.flog ⟨3, 2, 0, 0, 0, false, 2, 0, 0, 0, 0, 0x0⟩) := by
  decide

theorem test_words_lane_float_2 :
    (decodeLaneWords [0x30030200, 0x00020000, 0x00000000]).toOption = some (.fexpx ⟨3, 2, 0, 0, 0, false, 2, 0, 0, 0, 0, 0x0⟩) ∧
    (decodeLaneWords [0x31030200, 0x00020000, 0x00000000]).toOption = some (.fclass ⟨3, 2, 0, 0, 0, false, 2, 0, 0, 0, 0, 0x0⟩) ∧
    (decodeLaneWords [0x2E050400, 0x00022000, 0x00000000]).toOption = some (.frint ⟨5, 4, 0, 0, 0, false, 2, 2, 0, 0, 0, 0x0⟩) ∧
    (decodeLaneWords [0x2F060507, 0x00020000, 0x00000000]).toOption = some (.fldexp ⟨6, 5, 7, 0, 0, false, 2, 0, 0, 0, 0, 0x0⟩) ∧
    (decodeLaneWords [0x32040102, 0x00030000, 0x00000000]).toOption = some (.hadd2 ⟨4, 1, 2, 0, 0, false, 3, 0, 0, 0, 0, 0x0⟩) ∧
    (decodeLaneWords [0x33040102, 0x00030000, 0x00000000]).toOption = some (.hmul2 ⟨4, 1, 2, 0, 0, false, 3, 0, 0, 0, 0, 0x0⟩) ∧
    (decodeLaneWords [0x34040102, 0x03043000, 0x00000000]).toOption = some (.hfma2 ⟨4, 1, 2, 3, 0, false, 4, 3, 0, 0, 0, 0x0⟩) := by
  decide

theorem test_words_lane_conversions :
    (decodeLaneWords [0x380904F0, 0x00070012, 0x00000000]).toOption = some (.cvt ⟨9, 4, 240, 0, 0, false, 7, 0, 0, 0, 18, 0x0⟩) ∧
    (decodeLaneWords [0x39090405, 0xF1070000, 0x00000000]).toOption = some (.quant ⟨9, 4, 5, 241, 0, false, 7, 0, 0, 0, 0, 0x0⟩) ∧
    (decodeLaneWords [0x3A090405, 0x00073000, 0x00000000]).toOption = some (.packb ⟨9, 4, 5, 0, 0, false, 7, 3, 0, 0, 0, 0x0⟩) ∧
    (decodeLaneWords [0x3B081400, 0x00073000, 0x00000000]).toOption = some (.unpkb ⟨8, 20, 0, 0, 0, false, 7, 3, 0, 0, 0, 0x0⟩) := by
  decide

theorem test_words_lane_memory :
    (decodeLaneWords [0x50050400, 0x02002120, 0x00000000]).toOption = some (.bld ⟨5, 4, 0, 2, 0, false, 0, 2, 0, 2, 32, 0x0⟩) ∧
    (decodeLaneWords [0x51080200, 0x04002240, 0x00000000]).toOption = some (.bst ⟨8, 2, 0, 4, 0, false, 0, 2, 0, 4, 64, 0x0⟩) ∧
    (decodeLaneWords [0x520A010C, 0x02009260, 0x00000000]).toOption = some (.batom ⟨10, 1, 12, 2, 0, false, 0, 9, 0, 4, 96, 0x0⟩) ∧
    (decodeLaneWords [0x53000100, 0x7F004000, 0x00000000]).toOption = some (.bpf ⟨0, 1, 0, 127, 0, false, 0, 4, 0, 0, 0, 0x0⟩) ∧
    (decodeLaneWords [0x54080200, 0x00002002, 0x00000040]).toOption = some (.lld ⟨8, 2, 0, 0, 0, false, 0, 2, 0, 0, 2, 0x40⟩) ∧
    (decodeLaneWords [0x55080200, 0x00002002, 0x00000040]).toOption = some (.lst ⟨8, 2, 0, 0, 0, false, 0, 2, 0, 0, 2, 0x40⟩) ∧
    (decodeLaneWords [0x560BF5F1, 0x00000002, 0x00000A00]).toOption = some (.latom ⟨11, 245, 241, 0, 0, false, 0, 0, 0, 0, 2, 0xA00⟩) ∧
    (decodeLaneWords [0x57090200, 0x00002004, 0x00000100]).toOption = some (.pld ⟨9, 2, 0, 0, 0, false, 0, 2, 0, 0, 4, 0x100⟩) ∧
    (decodeLaneWords [0x58090200, 0x00002004, 0x00000100]).toOption = some (.pst ⟨9, 2, 0, 0, 0, false, 0, 2, 0, 0, 4, 0x100⟩) ∧
    (decodeLaneWords [0x5914F000, 0x00002001, 0x00000000]).toOption = some (.vld ⟨20, 240, 0, 0, 0, false, 0, 2, 0, 0, 1, 0x0⟩) ∧
    (decodeLaneWords [0x5A14F000, 0x00002001, 0x00000000]).toOption = some (.vst ⟨20, 240, 0, 0, 0, false, 0, 2, 0, 0, 1, 0x0⟩) := by
  decide

theorem test_words_lane_matrix :
    (decodeLaneWords [0x60106400, 0x00000000, 0x05000000]).toOption = some (.mma ⟨16, 100, 0, 0, 0, false, 0, 0, 0, 0, 0, 0x5000000⟩) ∧
    (decodeLaneWords [0x61641000, 0x00000000, 0x06000000]).toOption = some (.accrd ⟨100, 16, 0, 0, 0, false, 0, 0, 0, 0, 0, 0x6000000⟩) ∧
    (decodeLaneWords [0x62106400, 0x00000000, 0x07000003]).toOption = some (.accwr ⟨16, 100, 0, 0, 0, false, 0, 0, 0, 0, 0, 0x7000003⟩) ∧
    (decodeLaneWords [0x63100000, 0x00000000, 0x05000007]).toOption = some (.accz ⟨16, 0, 0, 0, 0, false, 0, 0, 0, 0, 0, 0x5000007⟩) ∧
    (decodeLaneWords [0x70000000, 0x00400400, 0x00000000]).toOption = some (.lnop ⟨0, 0, 0, 0, 2, false, 0, 0, 1, 0, 0, 0x0⟩) := by
  decide

/-! ## What is not an instruction (R57, R69, R160, R165, R166, R184, R188, R190, R191) -/

/-- Each check of the control fields refuses a term, beside one that it accepts. -/
theorem test_ill_formed_control :
    (Instr.br none 6 0).wf = false ∧ (Instr.br none 5 0).wf = true ∧
    (Instr.loop none 2 5 0).wf = false ∧ (Instr.loop none 7 5 1).wf = false ∧ (Instr.loop none 2 5 1).wf = true ∧
    (Instr.fence none 3 0).wf = false ∧ (Instr.fence none 2 6).wf = false ∧ (Instr.fence none 2 5).wf = true ∧
    (Instr.ptos none 255 0).wf = false ∧ (Instr.exmr none 255).wf = false ∧ (Instr.exmr none 254).wf = true ∧
    (Instr.exmw none 255).wf = false ∧ (Instr.vtos none 0 0xF0 0).wf = false ∧ (Instr.vtosFirst none 0 0xF0).wf = false ∧
    (Instr.vtosPair none 255 0 0).wf = false ∧ (Instr.vtosPair none 0 0xF0 0).wf = false ∧ (Instr.vtosPair none 254 0xEF 0).wf = true ∧
    (Instr.lane none 253 0).wf = false ∧ (Instr.down none 253 0).wf = false ∧ (Instr.down none 252 0).wf = true ∧
    (Instr.spawn none 241).wf = false ∧ (Instr.joinc none 241 0 0 0).wf = false ∧ (Instr.spawn none 240).wf = true ∧
    (Instr.getsr none 0 0xFFF).wf = false ∧ (Instr.setsr none 0 0xFFF).wf = false ∧ (Instr.getsr none 0 0x00C).wf = true := by
  decide

/-- Each check that lane words share refuses a term: unused, vector, source and predicate fields, type, modifier, the guard's
negation alone, flag 3, an imm32 that nothing names, a scope and an order where there is none. -/
theorem test_ill_formed_lane :
    (Instr.vadd ⟨4, 5, 6, 0, 0, false, 0, 0, 0, 0, 0, 0⟩).wf = true ∧
    (Instr.vadd ⟨4, 5, 6, 1, 0, false, 0, 0, 0, 0, 0, 0⟩).wf = false ∧
    (Instr.vadd ⟨0xF0, 5, 6, 0, 0, false, 0, 0, 0, 0, 0, 0⟩).wf = false ∧
    (Instr.vadd ⟨4, 0xF7, 6, 0, 0, false, 0, 0, 0, 0, 0, 0⟩).wf = false ∧
    (Instr.vadd ⟨4, 5, 6, 0, 0, false, 2, 0, 0, 0, 0, 0⟩).wf = false ∧
    (Instr.vadd ⟨4, 5, 6, 0, 0, false, 0, 1, 0, 0, 0, 0⟩).wf = false ∧
    (Instr.vadd ⟨4, 5, 6, 0, 0, true, 0, 0, 0, 0, 0, 0⟩).wf = false ∧
    (Instr.vadd ⟨4, 5, 6, 0, 0, false, 0, 0, 3, 0, 0, 0⟩).wf = false ∧
    (Instr.vadd ⟨4, 5, 6, 0, 0, false, 0, 0, 0, 0, 0, 1⟩).wf = false ∧
    (Instr.vadd ⟨4, 5, 6, 0, 0, false, 0, 0, 0, 1, 0, 0⟩).wf = false ∧
    (Instr.vadd ⟨4, 5, 6, 0, 0, false, 0, 0, 0, 0, 0x20, 0⟩).wf = false ∧
    (Instr.vadd ⟨4, 5, 6, 0, 0, false, 0, 0, 0, 0, 1, 0⟩).wf = false ∧
    (Instr.vsel ⟨4, 5, 6, 8, 0, false, 0, 0, 0, 0, 0, 0⟩).wf = false ∧
    (Instr.fadd ⟨4, 5, 6, 0, 0, false, 2, 5, 0, 0, 0, 0⟩).wf = false := by
  decide

/-- Each check of one row refuses a term: the run of a wide access, a scope and an order, the operator and type of an atomic and
of a reduction, a sign extension of a word, a converted bound, an element number, the words of a matrix access, a record. -/
theorem test_ill_formed_rows :
    (Instr.bld ⟨0xEF, 4, 0, 2, 0, false, 0, 3, 0, 2, 0, 0⟩).wf = false ∧
    (Instr.bld ⟨0xEE, 4, 0, 2, 0, false, 0, 3, 0, 2, 0, 0⟩).wf = true ∧
    (Instr.bld ⟨5, 4, 0, 2, 0, false, 0, 2, 0, 6, 0, 0⟩).wf = false ∧
    (Instr.bld ⟨5, 4, 0, 2, 0, false, 0, 2, 0, 2, 0x40, 0⟩).wf = false ∧
    (Instr.bld ⟨5, 4, 0, 2, 0, false, 0, 2, 0, 2, 0x10, 0⟩).wf = false ∧
    (Instr.bld ⟨5, 4, 0, 128, 0, false, 0, 2, 0, 2, 0, 0⟩).wf = false ∧
    (Instr.batom ⟨5, 4, 6, 2, 0, false, 2, 0, 0, 4, 0, 0⟩).wf = false ∧
    (Instr.batom ⟨5, 4, 0xEF, 2, 0, false, 0, 9, 0, 4, 0, 0⟩).wf = false ∧
    (Instr.batom ⟨5, 4, 6, 2, 0, false, 0, 0, 0, 2, 0, 0⟩).wf = false ∧
    (Instr.redux ⟨5, 4, 0, 0, 0, false, 1, 1, 0, 0, 0, 0⟩).wf = false ∧
    (Instr.cvt ⟨9, 4, 0xF0, 0, 0, false, 2, 0, 0, 0, 2, 0⟩).wf = false ∧
    (Instr.cvt ⟨9, 4, 5, 0, 0, false, 7, 0, 0, 0, 0x12, 0⟩).wf = false ∧
    (Instr.packb ⟨9, 4, 5, 0, 0, false, 5, 2, 0, 0, 0, 0⟩).wf = false ∧
    (Instr.vote ⟨0xEF, 4, 0, 0, 0, false, 0, 2, 0, 0, 0, 0⟩).wf = false ∧
    (Instr.plog ⟨4, 3, 2, 1, 0, false, 0, 0, 0, 0, 0, 0⟩).wf = false ∧
    (Instr.lld ⟨8, 2, 0, 0, 0, false, 0, 2, 0, 0, 3, 0⟩).wf = false ∧
    (Instr.accrd ⟨0xE1, 16, 0, 0, 0, false, 0, 0, 0, 0, 0, 0⟩).wf = false ∧
    (Instr.accz ⟨16, 0, 0, 0, 0, false, 0, 0, 0, 0, 0, 0x100⟩).wf = false := by
  decide

/-- The decoder refuses by name. -/
theorem test_refused_words :
    let why (r : Except DecodeError Instr) : Option DecodeError := match r with
      | .error e => some e
      | .ok _ => none
    why (decodeCtrl 0x00000000 0 0) = some .opcode ∧ why (decodeCtrl 0x2A000000 0 0) = some .opcode ∧
    why (decodeCtrl 0xFF000000 0 0) = some .opcode ∧ why (decodeCtrl 0x13140501 0 0) = some .unusedField ∧
    why (decodeCtrl 0x41000001 0 0) = some .unusedField ∧ why (decodeCtrl 0x1C140520 0 0) = some .fieldRange ∧
    why (decodeCtrl 0x30C00000 0 0) = some .scopeCode ∧ why (decodeCtrl 0x40FD0000 0 0) = some .run ∧
    why (decodeCtrl 0x70000FFF 0 0) = some .sysReg ∧
    why (decodeLane 0x00000000 0 0) = some .opcode ∧ why (decodeLane 0x1B040506 0 0) = some .opcode ∧
    why (decodeLane 0x01040506 0x00100000 0) = some .fieldRange ∧ why (decodeLane 0x01040506 0 1) = some .fieldRange := by
  decide

/-- A word of the table as its first words in memory: 32, 64 and 96 bits (R161, R165). -/
theorem test_table_words :
    decodeTableWord 32 0x03040506 = some (.mul none 4 5 6) ∧
    decodeTableWord 64 0x3F31721822040000 = some (.movl none 4 0x3F317218) ∧
    decodeTableWord 96 0x000000000302000023040102 = some (.ffma ⟨4, 1, 2, 3, 0, false, 2, 0, 0, 0, 0, 0⟩) ∧
    decodeTableWord 32 0 = none := by
  decide

/-! ## Small states -/

/-- A group of two lanes with sixteen registers and two path entries, in launch 9, on core 0. -/
def grp : Ctx :=
  { newCtx 1 1 9 (some 2) 0 2 2 with vregs := 16, regGen := 1, table := 100, tableGen := 2, scrRow := 200, scrRows := 4, scrGen := 3
                                     sregs := [(1, 7), (2, 9)] }
/-- Its block, cluster and grid. -/
def blk : Ctx := { newCtx 2 2 9 (some 3) 0 0 1 with cores := [0], table := 100, tableGen := 2, scrRow := 200, scrRows := 4, scrGen := 3 }
def clu : Ctx := newCtx 3 3 9 (some 4) 0 0 1
def grd : Ctx := newCtx 4 4 9 none 0 0 1
/-- A task, in the same launch. -/
def tsk : Ctx := { grp with task := true, parent := none }

/-- Core 0 with the rows of the group, its block's table and its scratchpad. -/
def core0 : Core := { Core.reset with rows := [⟨0, 16, 1, 1, false, 1⟩, ⟨100, 17, 2, 2, false, 2⟩, ⟨200, 4, 3, 2, false, 2⟩] }

/-- The device with these contexts, and one agent's turn. -/
def dev (t : Turn) (cs : List Ctx) : State :=
  { State.reset with turn := t, ctxs := cs, nextId := 100, launches := [codeLaunch 9], cores := core0 :: List.replicate 191 Core.reset }

/-- The context whose control stream has the turn, first. -/
def onCtrl (c : Ctx) (cs : List Ctx) : State := dev (.ctrl c.id) (c :: cs)

/-- The outcome as a state; the old one where there is none. -/
def after (i : Instr) (s : State) : State := match exec i s with
  | .next t => t
  | _ => s
/-- Whether a next state is answered. -/
def goes (i : Instr) (s : State) : Bool := match exec i s with
  | .next _ => true
  | _ => false
/-- A context of the state. -/
def ctxOf (s : State) (id : Nat) : Ctx := (getCtx s id).getD grp

/-- Where an instruction's own effect starts. -/
def entered (sp : CtrlSpec) (s : State) (c : Ctx) : State := (entryState sp.sp s c).getD s
def enteredCtx (sp : CtrlSpec) (s : State) (c : Ctx) : Ctx := (getCtx (entered sp s c) c.id).getD c

/-- What `Executes` asks, as one check. -/
def runs (sp : CtrlSpec) (s : State) (c : Ctx) : Bool :=
  decide (s.turn = .ctrl c.id) && decide (getCtx s c.id = some c) && c.canRun && powered s &&
    !(c.isGroup && sp.must && sp.sp.isNone) && sp.levels.contains c.levelNo && scopeOk c sp && !manyPaths c sp &&
    !(c.isGroup && sp.sp.isNone && decide (4096 ≤ c.regionLen)) && !(c.isGroup && sp.sp.isNone && idempScalar c.live sp.writes) &&
    (entryState sp.sp s c).isSome && (getCtx (entered sp s c) c.id).isSome

theorem executes_of {sp : CtrlSpec} {s : State} {c : Ctx} (h : runs sp s c = true) :
    Executes sp s c (entered sp s c) (enteredCtx sp s c) := by
  simp only [runs, Bool.and_eq_true, decide_eq_true_eq, Bool.not_eq_true'] at h
  obtain ⟨⟨⟨⟨⟨⟨⟨⟨⟨⟨⟨h1, h2⟩, h3⟩, h4⟩, h5⟩, h6⟩, h7⟩, h8⟩, h9⟩, h10⟩, h11⟩, h12⟩ := h
  refine ⟨⟨h1, h2, h3, h4⟩, ⟨h5, h6, h7, h8, h9, h10⟩, ?_, ?_⟩
  · obtain ⟨x, hx⟩ := Option.isSome_iff_exists.1 h11
    simp [entered, hx]
  · obtain ⟨x, hx⟩ := Option.isSome_iff_exists.1 h12
    simp [enteredCtx, hx]

/-- The same where the instruction has no safe point. -/
theorem executes_plain {sp : CtrlSpec} {s : State} {c : Ctx} (hs : sp.sp = none) (h : runs sp s c = true) : Executes sp s c s c := by
  have e := executes_of h
  have hx : entered sp s c = s := by simp [entered, entryState, hs]
  have hc : enteredCtx sp s c = c := by
    have := e.turn.found
    simp [enteredCtx, hx, this]
  rwa [hx, hc] at e

/-- A clause of the lane stream that has started, with one instruction before it done and one left. -/
def cls (k : List Word) (h : Word) : Clause := ⟨7, 0, k, 3, 2, 0, 0, none, 0, true, h, 0, 2, true⟩
/-- The group with that clause at its head, and the turn of its lane stream. -/
def laneGrp (k : List Word) : Ctx := { grp with clauses := [cls k 5] }
def onLane (c : Ctx) : State := dev (.lane c.id) [c, blk]

/-- What `LaneExecutes` asks, as one check. -/
def laneRuns (spec : LaneSpec) (s : State) (c : Ctx) (q : Clause) : Bool :=
  decide (s.turn = .lane c.id) && decide (getCtx s c.id = some c) && decide (c.headClause = some q) && c.lanesRun && powered s &&
    q.started && !(!q.issued && !c.flagsClear q.waitMask) && !(q.flagOf spec.f.flag).any (fun n => decide (255 ≤ c.flagCount n))

def lanePasses (spec : LaneSpec) (s : State) (c : Ctx) (q : Clause) : Bool :=
  !c.noReg (spec.reads ++ spec.writes) && decide (c.unguarded (spec.reads ++ spec.writes) (activeLanes c q spec.f) = none) &&
    !c.rowHeld spec.writes (activeLanes c q spec.f) &&
    !(decide (activeLanes c q spec.f ≠ 0) && idempVector q.live q.liveRegs spec.writes) &&
    !(q.pols.getLsbD 0 && (sourcePairs spec s c q (activeLanes c q spec.f)).any (fun p => vstale s c p.1 p.2)) &&
    (lanesOf (activeLanes c q spec.f)).all (fun l => spec.collects.all (fun r =>
      vstale s c r l || !poisonAt s (coreKey c.core (c.vregOff r l))))

theorem laneTurn_of {spec : LaneSpec} {s : State} {c : Ctx} {q : Clause} (h : laneRuns spec s c q = true) :
    LaneTurn s c q spec.f := by
  simp only [laneRuns, Bool.and_eq_true, decide_eq_true_eq, Bool.not_eq_true'] at h
  obtain ⟨⟨⟨⟨⟨⟨⟨h1, h2⟩, h3⟩, h4⟩, h5⟩, h6⟩, h7⟩, h8⟩ := h
  exact ⟨h1, h2, h3, h4, h5, h6, h7, h8⟩

theorem laneExecutes_of {spec : LaneSpec} {s : State} {c : Ctx} {q : Clause} (h : laneRuns spec s c q = true)
    (h' : lanePasses spec s c q = true) : LaneExecutes spec s c q := by
  refine ⟨laneTurn_of h, ?_⟩
  simp only [lanePasses, Bool.and_eq_true, decide_eq_true_eq, Bool.not_eq_true'] at h'
  obtain ⟨⟨⟨⟨⟨h1, h2⟩, h3⟩, h4⟩, h5⟩, h6⟩ := h'
  exact ⟨h1, h2, h3, h4, h5, h6⟩

/-- `ReleaseDone`, as a check. -/
def relDone (s : State) (c : Ctx) (n : Nat) : Bool :=
  decide (effScope s c n ≤ 2) || ((released s c n).homeQ.all (fun w => w.ctx ≠ some c.id && (w.core ≠ some c.core || (w.op ≠ none || w.hold ≠ none))) &&
    decide (c.wct < dieTime s c.die))
theorem relDone_iff (s : State) (c : Ctx) (n : Nat) : relDone s c n = true ↔ ReleaseDone s c n := by
  simp [relDone, ReleaseDone, Decidable.imp_iff_not_or]
theorem relDone_not {s : State} {c : Ctx} {n : Nat} (h : relDone s c n = false) : ¬ ReleaseDone s c n := by
  rw [← relDone_iff, h]; decide

/-- Page 0 of space 0 in HBM at 0x40000, writable, by way of its tables from 0; unit 0 of vault 0 held by the grid under
generation 6; record 3 names four words from virtual 0x100, record 4 four words from the vault's start; word 1 of both is 5. -/
def memCells : List (Nat × Byte) :=
  [(0, 1), (2, 1), (0x10000, 1), (0x10002, 2), (0x20000, 1), (0x20002, 3), (0x30000, 0x11), (0x30002, 4), (0x40104, 5),
   (vaultKey 0 4, 5)] ++ ([(0x6461, 1), (0x6466, 0x20), (0x6468, 4), (0x646C, 4), (0x6486, 0x20), (0x6487, 0x20), (0x6488, 4),
   (0x648C, 4)] : List (Nat × Byte)).map (fun x => (coreKey 0 x.1, x.2))
def memTags : List (Nat × BitVec 12) := [(granule (vaultKey 0 0), 6), (granule (coreKey 0 0x6440), 2), (granule (coreKey 0 0x6480), 2)]
def memDev (t : Turn) (cs : List Ctx) : State :=
  setVault { dev t cs with launches := [{ codeLaunch 9 with vruns := [(0, 0, 1, 6)] }], mem := memCells, tags := memTags } 0
    { Vault.reset with units := [⟨0, 1, 6, 0, false, 9⟩] }

/-- The group with s5 = 1 and s6 = 4 as indices, and the turn of its control stream. -/
def memGrp : Ctx := { grp with sregs := [(5, 1), (6, 4)] }
def memS : State := memDev (.ctrl 1) [memGrp, blk]

def gotBytes : Got → Option (List Byte)
  | .bytes bs _ => some bs
  | _ => none
def oldWord : Home → Option Word
  | .old w _ => some w
  | _ => none
def waitsAtHome : Home → Bool
  | .later _ => true
  | _ => false
def elementAt : Element → Option (Place × Nat × Rec)
  | .at p va _ _ r => some (p, va, r)
  | _ => none
/-- Out of bounds, and whether the record asks for a trap. -/
def elementOob : Element → Option Bool
  | .oob t => some t.isSome
  | _ => none

/-! ## States that meet the hypotheses of the statements: encoding, steps, scalars, flow -/

theorem meets_EncodeDecodeAgree :
    (Instr.joinc (some 5) 240 4 5 0xFFFFFFFF).wf = true ∧ (Instr.joinc (some 5) 240 4 5 0xFFFFFFFF).encoded = true ∧
    (encodeCtrl (Instr.joinc (some 5) 240 4 5 0xFFFFFFFF)).isSome = true ∧
    (Instr.vadd ⟨0xEF, 0xF6, 0xF5, 0, 7, true, 0, 0, 2, 0, 0, 0xFFFFFFFF⟩).wf = true ∧
    (laneParts (Instr.vadd ⟨0xEF, 0xF6, 0xF5, 0, 7, true, 0, 0, 2, 0, 0, 0xFFFFFFFF⟩)).isSome = true := by decide

theorem meets_DecodeIsEncoded :
    (decodeCtrl 0xD9F00405 0xFFFFFFFF 5).toOption = some (.joinc (some 5) 240 4 5 0xFFFFFFFF) ∧
    (decodeLaneWords [0x01040506, 0x00F00800, 0]).toOption = some (.vadd ⟨4, 5, 6, 0, 7, true, 0, 0, 2, 0, 0, 0⟩) := by decide

/-- The boundary opcodes of R188, and a context that fetches one of them. -/
theorem meets_UnlistedOpcodesIllegal :
    [0x00, 0x2A, 0x2F, 0x3C, 0x3F, 0x46, 0x47, 0x4E, 0x4F, 0x55, 0x57, 0x5A, 0x5F, 0x64, 0x6F, 0x76, 0x7F].map
      (fun n => (ctrlOpcode (BitVec.ofNat 32 (n * 2 ^ 24 + 5)))) =
      [0x00, 0x2A, 0x2F, 0x3C, 0x3F, 0x46, 0x47, 0x4E, 0x4F, 0x55, 0x57, 0x5A, 0x5F, 0x64, 0x6F, 0x76, 0x7F] ∧
    (let s := State.reset.withFetchWord 32 0xAA000000
     let c := ctxOf s 1
     s.turn = .ctrl 1 ∧ getCtx s 1 = some c ∧ powered s = true ∧ c.canRun = true ∧ mayIssue s c = true ∧
       fetchCtrl s c c.pc.toNat = .word 0xAA000000) := by decide

theorem meets_StepRunsDecoded_1 :
    let s := State.reset.withFetchWord 64 0x3F31721822040000
    let c := ctxOf s 1
    s.turn = .ctrl 1 ∧ getCtx s 1 = some c ∧ powered s = true ∧ c.canRun = true ∧ mayIssue s c = true ∧
      (∃ ws, ctrlWordsAt s c = .ok ws ∧ decodeCtrlWords ws = .ok (.movl none 4 0x3F317218, 2)) := by
  refine ⟨by decide, by decide, by decide, by decide, by decide, [0x22040000, 0x3F317218], ?_, ?_⟩ <;> rfl

theorem meets_StepRunsDecoded_2 :
    let s := State.reset.withFetchWord 96 0x000000000302000023040102
    let c := ctxOf s 1
    let q := c.clauses.getD 0 default
    s.turn = .lane 1 ∧ getCtx s 1 = some c ∧ powered s = true ∧ c.lanesRun = true ∧ c.headClause = some q ∧ q.started = true ∧
      mayIssue s c = true ∧ laneWords s c q.at [0, 1, 2] = .ok [0x23040102, 0x03020000, 0] ∧
      decodeLaneWords [0x23040102, 0x03020000, 0] = .ok (.ffma ⟨4, 1, 2, 3, 0, false, 2, 0, 0, 0, 0, 0⟩) := by
  refine ⟨by decide, by decide, by decide, by decide, by decide, by decide, by decide, ?_, ?_⟩ <;> rfl

theorem meets_StepRunsDecoded_3 : State.reset.turn = .event (.boot ⟨none, none, [], 0, 0⟩) := by rfl

/-- A scalar that the word reads holds uncorrectable data. -/
theorem meets_StepRunsDecoded_upset :
    let s0 := State.reset.withFetchWord 32 0x011405F6
    let c : Ctx := { ctxOf s0 1 with sregBad := [5] }
    let s := setCtx s0 c
    s.turn = .ctrl 1 ∧ getCtx s 1 = some c ∧ c.canRun = true ∧ mayIssue s c = true ∧
      (scalarSources s c (.add none 20 5 246)).any c.sregUe = true ∧
      (scalarSources s0 (ctxOf s0 1) (.add none 20 5 246)).any (ctxOf s0 1).sregUe = false := by decide

/-- The largest distance of the clocks. -/
theorem meets_ClocksStayTogether :
    let s : State := { dev (.event .getMeasurements) [] with time0 := 4, time1 := 0 }
    (s.time0 ≤ s.time1 + 4 ∧ s.time1 ≤ s.time0 + 4) ∧ ∃ t, step s = .next t := by
  exact ⟨by decide, _, rfl⟩

theorem meets_MemoryStaysCanonical : State.reset.canonical ∧ ∃ t, step State.reset = .next t := by
  exact ⟨⟨by decide, by decide⟩, _, rfl⟩

theorem meets_ScalarResults :
    (scalarResult (.add none 3 1 2)).isSome = true ∧ (scalarResult (.movl none 255 0xFFFFFFFF)).isSome = true ∧
    Executes (scalarSpec none false 3) (onCtrl grp []) grp (onCtrl grp []) grp ∧
    Executes (scalarSpec none true 255) (onCtrl grp []) grp (onCtrl grp []) grp ∧
    sparseWf 0 grp.sregs = true := by
  exact ⟨by decide, by decide, executes_of (by decide), executes_of (by decide), by decide⟩

/-- An instruction with a safe point, in a group and in a sequencer. -/
theorem meets_ScalarResults_marked :
    Executes (scalarSpec (some 6) false 3) (onCtrl grp []) grp (entered (scalarSpec (some 6) false 3) (onCtrl grp []) grp)
      (enteredCtx (scalarSpec (some 6) false 3) (onCtrl grp []) grp) ∧
    Executes (scalarSpec (some 6) false 3) (onCtrl blk []) blk (onCtrl blk []) blk := by
  exact ⟨executes_of (by decide), executes_of (by decide)⟩

theorem meets_ScalarRegisterFile :
    grp.run < grp.paths.length ∧ grp.path.priv.length = 4 ∧ sparseWf 0 grp.sregs = true ∧
    (grp.setSreg 251 5).sreg 251 = 5 ∧ (grp.setSreg 252 5).sreg 252 = 5 ∧ (grp.setSreg 255 5).sreg 255 = 5 ∧
    (grp.setSreg 252 5).sreg 251 = 0 := by decide

theorem meets_ScalarRegisterFile_advance :
    (grp.path.state = 1 ∧ grp.path.meets = [] ∧ (grp.paths.getD 1 defaultPath).state = 0) ∧ grp.run < grp.paths.length ∧
      grp.paths.length = 2 ∧ (scalarSpec none false 3).sp = none ∧ (scalarSpec none false 3).counted = false ∧ grp.isGroup = true ∧
      blk.isGroup = false := by decide

theorem meets_BranchResults :
    (branchResult (.bz none 1 1 0x1FFF)).isSome = true ∧ Executes (branchSpec none 1) (onCtrl grp []) grp (onCtrl grp []) grp ∧
    Executes (branchSpec none 0) (onCtrl grp []) grp (onCtrl grp []) grp ∧
    Executes (branchSpec none 2) (onCtrl blk []) blk (onCtrl blk []) blk := by
  exact ⟨by decide, executes_of (by decide), executes_of (by decide), executes_of (by decide)⟩

def buniSpec : CtrlSpec := { flowSpec none 1 with levels := groupLevels, onlyScope := some 1, single := true }
/-- The predicate p7 in the group's two lanes: in none, in both, in one. -/
def withP7 (m : LaneMask) : Ctx := { grp with preds := [0, 0, 0, 0, 0, 0, m] }

theorem meets_BranchResults_uniform (m : LaneMask) (h : m = 0 ∨ m = 3 ∨ m = 2) :
    Executes buniSpec (onCtrl (withP7 m) []) (withP7 m) (onCtrl (withP7 m) []) (withP7 m) ∧
    predPending (onCtrl (withP7 m) []) (withP7 m) 7 = false ∧ (withP7 m).path.mask &&& (withP7 m).liveMask = 3 ∧
    (withP7 m).pred 7 &&& 3 = m := by
  rcases h with rfl | rfl | rfl <;> exact ⟨executes_of (by decide), by decide, by decide, by decide⟩

theorem meets_CallAndReturn :
    let full (n : Nat) : Ctx := { grp with calls := List.replicate n 5 }
    Executes (stackSpec none 1) (onCtrl (full 15) []) (full 15) (onCtrl (full 15) []) (full 15) ∧ (full 15).calls.length < 16 ∧
    Executes (stackSpec none 1) (onCtrl (full 16) []) (full 16) (onCtrl (full 16) []) (full 16) ∧ 16 ≤ (full 16).calls.length ∧
    (full 1).calls = [] ++ [5] ∧ Executes (stackSpec none 1) (onCtrl (full 0) []) (full 0) (onCtrl (full 0) []) (full 0) ∧
    (full 0).calls = [] := by
  exact ⟨executes_of (by decide), by decide, executes_of (by decide), by decide, by decide, executes_of (by decide), by decide⟩

theorem meets_LoopResults :
    let deep (n : Nat) (w : Word) : Ctx := { grp with loops := List.replicate n (w, 5) }
    Executes (stackSpec none 1) (onCtrl (deep 7 2) []) (deep 7 2) (onCtrl (deep 7 2) []) (deep 7 2) ∧
    (deep 7 2).sreg 0 = 0 ∧ (deep 7 2).sreg 1 ≠ 0 ∧ (deep 7 2).loops.length < 8 ∧
    Executes (stackSpec none 1) (onCtrl (deep 8 2) []) (deep 8 2) (onCtrl (deep 8 2) []) (deep 8 2) ∧ 8 ≤ (deep 8 2).loops.length ∧
    (deep 2 0).loops = [(0, 5)] ++ [(0, 5)] ∧ (0 : Word) ≠ 1 ∧
    Executes (stackSpec none 1) (onCtrl (deep 1 1) []) (deep 1 1) (onCtrl (deep 1 1) []) (deep 1 1) ∧ (deep 1 1).loops = [] ++ [(1, 5)] ∧
    Executes (stackSpec none 1) (onCtrl grp []) grp (onCtrl grp []) grp ∧ grp.loops = [] := by
  exact ⟨executes_of (by decide), by decide, by decide, by decide, executes_of (by decide), by decide, by decide, by decide,
    executes_of (by decide), by decide, executes_of (by decide), by decide⟩

/-- Each form that the frame of the flow instructions covers answers a next state. -/
theorem meets_LoopResults_frame :
    let c : Ctx := { grp with calls := [5], loops := [(2, 5)] }
    Executes (branchSpec none 1) (onCtrl c []) c (onCtrl c []) c ∧ Executes (stackSpec none 1) (onCtrl c []) c (onCtrl c []) c ∧
    c.calls.length < 16 ∧ c.calls ≠ [] ∧ c.loops.length < 8 ∧ c.loops ≠ [] ∧
    goes (.br none 1 5) (onCtrl c []) = true ∧ goes (.call none 1 5) (onCtrl c []) = true ∧ goes (.ret none 1) (onCtrl c []) = true ∧
    goes (.loop none 1 1 5) (onCtrl c []) = true ∧ goes (.loopNext none 1) (onCtrl c []) = true ∧
    goes (.loopLeave none 1) (onCtrl c []) = true := by
  exact ⟨executes_of (by decide), executes_of (by decide), by decide, by decide, by decide, by decide, by decide, by decide, by decide,
    by decide, by decide, by decide⟩

def endSpec (sc : BitVec 3) : CtrlSpec := { flowSpec none sc with laneScope := true }
/-- Two live paths, of one lane each. -/
def twoPaths : Ctx := { grp with paths := [{ grp.path with mask := 1, held := 1 }, { grp.path with state := 2, mask := 2, held := 2 }] }

theorem meets_PathExit :
    Executes (endSpec 0) (onCtrl twoPaths []) twoPaths (onCtrl twoPaths []) twoPaths ∧ twoPaths.isGroup = true ∧
    (ctxOf (after (.endc none 0) (onCtrl twoPaths [])) 1).livePaths = 1 ∧
    Executes (endSpec 0) (onCtrl grp []) grp (onCtrl grp []) grp ∧
    (ctxOf (after (.endc none 0) (onCtrl grp [])) 1).mode = .ending := by
  exact ⟨executes_of (by decide), by decide, by decide, executes_of (by decide), by decide⟩

/-- The block with the group live, and with the group past its END. -/
def blkLive (b : Bool) : Ctx := { blk with gather := [⟨1, b, none⟩] }

/-- A child with seven entries has room, one with eight has none; one that has executed END does not count. -/
theorem meets_ContextEnds :
    let child (n : Nat) : Ctx := { grp with descent := List.replicate n .marker }
    Executes (endSpec 2) (onCtrl (blkLive true) [child 7, clu]) (blkLive true) (onCtrl (blkLive true) [child 7, clu]) (blkLive true) ∧
    childFull (onCtrl (blkLive true) [child 7, clu]) (blkLive true) = false ∧
    Executes (endSpec 2) (onCtrl (blkLive true) [child 8]) (blkLive true) (onCtrl (blkLive true) [child 8]) (blkLive true) ∧
    childFull (onCtrl (blkLive true) [child 8]) (blkLive true) = true ∧
    childFull (onCtrl (blkLive false) [child 8]) (blkLive false) = false ∧
    getCtx (onCtrl (blkLive true) [child 7, clu]) 1 = some (child 7) ∧ (child 7).parent = some 2 ∧ (blkLive true).liveChild 1 = true ∧
    (blkLive true).parent = some 3 ∧ clu.parent ≠ some 2 ∧
    Executes (endSpec 4) (onCtrl grd []) grd (onCtrl grd []) grd ∧ grd.level = 4 ∧ (getLaunch (onCtrl grd []) 9).isSome = true := by
  exact ⟨executes_of (by decide), by decide, executes_of (by decide), by decide, by decide, by decide, by decide, by decide, by decide, by decide,
    executes_of (by decide), by decide, by decide⟩

def brlSpec : CtrlSpec := { branchSpec none 0 with levels := groupLevels, onlyScope := some 0, aged := true }
theorem meets_PathSplitAndMeet (m : LaneMask) (h : m = 0 ∨ m = 3 ∨ m = 2) :
    Executes brlSpec (onCtrl (withP7 m) []) (withP7 m) (onCtrl (withP7 m) []) (withP7 m) ∧
    predPending (onCtrl (withP7 m) []) (withP7 m) 7 = false ∧ (withP7 m).pred 7 &&& (withP7 m).path.mask = m ∧
    (withP7 m).path.mask = 3 ∧ (withP7 m).freePath = some 1 := by
  rcases h with rfl | rfl | rfl <;> exact ⟨executes_of (by decide), by decide, by decide, by decide, by decide⟩

theorem meets_PathSplitAndMeet_full :
    let c : Ctx := { withP7 1 with paths := [grp.path] }
    Executes brlSpec (onCtrl c []) c (onCtrl c []) c ∧ predPending (onCtrl c []) c 7 = false ∧ c.pred 7 &&& c.path.mask = 1 ∧
    c.path.mask = 3 ∧ c.freePath = none := by
  exact ⟨executes_of (by decide), by decide, by decide, by decide, by decide⟩

/-- A predicate that a clause in the queue still writes, and a target that is the top meeting address. -/
theorem meets_PathSplitAndMeet_waits :
    let c : Ctx := { withP7 2 with flights := [⟨50, 7, 0, some 3, .load, 0x26, ⟨7, 2, 0, 0, 0, false, 0, 2, 0, 0, 0, 0⟩, 2, [], 0, 8, 1, false, 0, 0, 0, 0, []⟩] }
    let d : Ctx := (withP7 2).setPath { grp.path with meets := [(5, 3)] }
    Executes brlSpec (onCtrl d []) d (onCtrl d []) d ∧ (d.path.meets.getLast?.map Prod.fst) = some (d.pc + (5 : BitVec 13).signExtend 24) ∧
    predPending (onCtrl d []) d 7 = false ∧ d.freePath = some 1 ∧
    Executes brlSpec (onCtrl { c with clauses := [cls [] 5] } []) { c with clauses := [cls [] 5] } (onCtrl { c with clauses := [cls [] 5] } [])
      { c with clauses := [cls [] 5] } ∧
    predPending (onCtrl { c with clauses := [cls [] 5] } []) { c with clauses := [cls [] 5] } 7 = true := by
  exact ⟨executes_of (by decide), by decide, by decide, by decide, executes_of (by decide), by decide⟩

def meetSpec : CtrlSpec := { flowSpec none 0 with levels := groupLevels, laneScope := true, onlyScope := some 0 }
theorem meets_PathSplitAndMeet_meet :
    let c (n : Nat) : Ctx := grp.setPath { grp.path with meets := List.replicate n (9, 3) }
    Executes meetSpec (onCtrl (c 7) []) (c 7) (onCtrl (c 7) []) (c 7) ∧ (c 7).path.meets.length < 8 ∧
    Executes meetSpec (onCtrl (c 8) []) (c 8) (onCtrl (c 8) []) (c 8) ∧ 8 ≤ (c 8).path.meets.length := by
  exact ⟨executes_of (by decide), by decide, executes_of (by decide), by decide⟩

/-- A launch whose first lane words, from byte 0 of its lane section, are a header of one instruction and that instruction. -/
def laneCode (op : Word) (n : Nat) : State :=
  let s0 := State.reset.withFetchWord 32 0x40040000
  let s1 := setCtx s0 { ctxOf s0 1 with clauses := List.replicate n (cls [] 5) }
  match walk s1 0 (((getLaunch s1 (ctxOf s1 1).launch).elim 0 (fun l => l.code + l.sect 4)) + 12) with
  | .ok (.here k) _ _ => writeWord s1 k op
  | _ => s1
def laneSpecC (sp : Option Word) : CtrlSpec := { groupSpec sp false [] with ageing := true }
def firstWord (s : State) (i : Nat) : Option Word := match fetchLane s (ctxOf s 1) i 0 with
  | .word w => some w
  | _ => none

/-- A clause of one VADD with 15 and 16 clauses in the queue; one of a BATOM with S = 0 and with S = 1. -/
theorem meets_LaneEnqueues :
    (∀ n, n = 15 ∨ n = 16 → Executes (laneSpecC none) (laneCode 0x01040506 n) (ctxOf (laneCode 0x01040506 n) 1) (laneCode 0x01040506 n)
      (ctxOf (laneCode 0x01040506 n) 1) ∧ firstWord (laneCode 0x01040506 n) 0 = some 0 ∧ firstWord (laneCode 0x01040506 n) 1 = some 0x01040506 ∧
      (ctxOf (laneCode 0x01040506 n) 1).clauses.length = n) ∧
    (List.range (bits (0 : Word) 31 28 + 1)).filter (fun i => 0 + 1 + i < 65536) = [0] ∧ bits (0x01040506 : Word) 31 24 = 0x01 ∧
    Executes (laneSpecC none) (laneCode 0x52040506 0) (ctxOf (laneCode 0x52040506 0) 1) (laneCode 0x52040506 0) (ctxOf (laneCode 0x52040506 0) 1) ∧
    firstWord (laneCode 0x52040506 0) 1 = some 0x52040506 ∧ bits (0x52040506 : Word) 31 24 = 0x52 := by
  refine ⟨?_, by decide +kernel, by decide +kernel, executes_plain rfl (by decide +kernel), by decide +kernel, by decide +kernel⟩
  rintro n (rfl | rfl) <;> exact ⟨executes_plain rfl (by decide +kernel), by decide +kernel, by decide +kernel, by decide +kernel⟩

theorem meets_LaneEnqueues_marked :
    let s := laneCode 0x52040506 0
    Executes (laneSpecC (some 0)) s (ctxOf s 1) (entered (laneSpecC (some 0)) s (ctxOf s 1)) (enteredCtx (laneSpecC (some 0)) s (ctxOf s 1)) ∧
    firstWord (entered (laneSpecC (some 0)) s (ctxOf s 1)) 1 = some 0x52040506 ∧
    (enteredCtx (laneSpecC (some 0)) s (ctxOf s 1)).clauses.length < 16 := by
  exact ⟨executes_of (by decide +kernel), by decide +kernel, by decide +kernel⟩

/-! ## Waits, lane reads, sequencers, barriers, system registers, traps -/

def gSpec (ws : List Nat) : CtrlSpec := groupSpec none false ws
/-- A flight that nothing is left of, and one of an MMA that the counter of class 1 counts. -/
def flight0 : Flight := ⟨50, 7, 0, some 3, .load, 0x54, ⟨8, 2, 0, 0, 0, false, 0, 2, 0, 0, 0, 0⟩, 2, [], 0, 8, 1, false, 0, 0, 0, 0, []⟩

theorem meets_WaitsComplete :
    let busy : Ctx := { grp with clauses := [cls [] 5], flags := [(3, 1)], engines := [(1, 40)] }
    Executes (gSpec []) (onCtrl grp []) grp (onCtrl grp []) grp ∧ grp.clauses = [] ∧ grp.flights = [] ∧
    grp.flagCount 3 = 0 ∧ grp.engineCount 1 ≤ 0 ∧
    Executes (gSpec []) (onCtrl busy []) busy (onCtrl busy []) busy ∧ busy.clauses ≠ [] ∧ busy.flagCount 3 = 1 ∧
    busy.engineCount 1 = 1 ∧ (cls [] 5).next < (cls [] 5).count ∧
    Executes (plainSpec none allLevels) (onCtrl clu []) clu (onCtrl clu []) clu := by
  exact ⟨executes_of (by decide), by decide, by decide, by decide, by decide, executes_of (by decide), by decide,
    by decide, by decide, by decide, executes_of (by decide)⟩

/-- The words that a clause has left: one that is no MMA, and one that cannot be read. -/
theorem meets_WaitsComplete_words :
    let s := laneCode 0x01040506 0
    let q : Clause := { cls [] 0 with started := false }
    (clauseRest s (ctxOf s 1) q).map (fun ws => ws.map (fun w => w.map (fun x => bits x.1 31 24))) = some [some 0x01] ∧
    (clauseRest (onCtrl grp []) grp (cls [] 0x10000000)).map (fun ws => ws.map Option.isSome) ≠ some [] := by decide +kernel

/-- Fences at block scope; at device scope with nothing on the way, before and after WCT; at system scope with an access outstanding. -/
theorem meets_WaitsComplete_fence :
    let now (n : Nat) : State := { onCtrl grp [blk] with time0 := n }
    let busy : Ctx := { grp with flights := [{ flight0 with accs := [⟨0, none, [], 0, false⟩] }] }
    Executes (gSpec []) (now 0) grp (now 0) grp ∧ ReleaseDone (now 0) grp 2 ∧ ¬ ReleaseDone (now 0) grp 4 ∧
    Executes (gSpec []) (now 1) grp (now 1) grp ∧ ReleaseDone (now 1) grp 4 ∧
    (grp.flights.any (fun f => !f.accs.isEmpty)) = false ∧
    Executes (gSpec []) (onCtrl busy [blk]) busy (onCtrl busy [blk]) busy ∧ (busy.flights.any (fun f => !f.accs.isEmpty)) = true := by
  exact ⟨executes_of (by decide), (relDone_iff _ _ _).1 (by decide), relDone_not (by decide), executes_of (by decide),
    (relDone_iff _ _ _).1 (by decide), by decide, executes_of (by decide), by decide⟩

def line1 : Line := ⟨0, 5, .here 8, 9, [(3, 7)], 8, 4, 1, false, 0⟩
theorem meets_WaitsComplete_clean :
    let s := setCore (dev (.event .getMeasurements) []) 3 { Core.reset with lines := [line1, { line1 with line := .here 9, dirty := 0 },
      { line1 with line := .here 10, dirty := 0, pinned := true }] }
    3 < s.cores.length ∧ (∃ x ∈ (getCore s 3).lines, x.dirty ≠ 0) ∧ (∃ x ∈ (getCore s 3).lines, x.pinned = true) ∧
    (getCore (retireClean s 3) 3).lines.length = 2 := by
  decide +kernel

theorem meets_PredicateAndLaneReads :
    let c : Ctx := { grp with lanes := 64, dmk := 0x8000000000000000, paths := [{ grp.path with mask := 2, held := 3 }] }
    let s := vwrite (vwrite (onCtrl c []) c 15 1 5) c 14 1 6
    Executes (gSpec [254, 255]) s c s c ∧ Executes (gSpec [255]) s c s c ∧ Executes (gSpec []) s c s c ∧ c.laneIdle = true ∧
    ({ c with clauses := [cls [] 5] } : Ctx).laneIdle = false ∧
    c.deadOrAbsent 63 = true ∧ c.deadOrAbsent 1 = false ∧
    vstale s c 15 1 = false ∧ vstale s c 14 1 = false ∧ poisonAt s (coreKey c.core (c.vregOff 15 1)) = false ∧
    poisonAt s (coreKey c.core (c.vregOff 14 1)) = false ∧ 15 < c.vregs ∧ c.path.mask ≠ 0 ∧ lowestLane c.path.mask = 1 := by
  refine ⟨executes_plain rfl (by decide +kernel), executes_plain rfl (by decide +kernel), executes_plain rfl (by decide +kernel), ?_⟩
  decide +kernel

/-- A struck predicate, a row that nothing has written under STALEPOL.REG, and a register past V. -/
theorem meets_PredicateAndLaneReads_faults :
    let c : Ctx := { grp with sregBad := [513], polReg := true, paths := [{ grp.path with mask := 2, held := 3 }] }
    let s := vwrite (vwrite (onCtrl c []) c 15 1 5) c 14 1 6
    Executes (gSpec [254, 255]) s c s c ∧ Executes (gSpec [255]) s c s c ∧ c.laneIdle = true ∧ c.predUe (1 : BitVec 3).toNat = true ∧
    c.predUe (2 : BitVec 3).toNat = false ∧ vstale s c 13 1 = true ∧ vstale s c 15 1 = false ∧ vstale s c 14 1 = false ∧
    vstale s c 16 1 = true ∧ c.polReg = true ∧ c.deadOrAbsent 1 = false ∧ c.vregs ≤ 16 ∧ c.vregs ≤ 15 + 1 ∧ 14 + 1 < c.vregs := by
  refine ⟨executes_plain rfl (by decide +kernel), executes_plain rfl (by decide +kernel), ?_⟩
  decide +kernel

theorem meets_DescentSends :
    let child (n : Nat) : Ctx := { grp with descent := List.replicate n .marker }
    let b := blkLive true
    let s (n : Nat) : State := onCtrl b [child n]
    let w : Ctx := { b with mode := .down 63 [1, 2, 3, 4] 1 }
    Executes (plainSpec none [2, 3, 4]) (s 7) b (s 7) b ∧ (b.level = 4 → taskMode (s 7) b = false) ∧
    63 < lowerWords (s 7) b ∧ childFull (s 7) b = false ∧
    Executes (plainSpec none [2, 3, 4]) (s 8) b (s 8) b ∧ childFull (s 8) b = true ∧
    getCtx (onCtrl w [child 7]) 2 = some w ∧ w.mode = .down 63 [1, 2, 3, 4] 1 ∧ childFull (onCtrl w [child 7]) w = false ∧
    childFull (onCtrl w [child 8]) w = true ∧ powered (onCtrl w [child 7]) = true := by
  exact ⟨executes_of (by decide), by decide, by decide, by decide, executes_of (by decide), by decide, by decide, by decide, by decide, by decide,
    by decide⟩

theorem meets_SegmentsBeginAndEnd :
    let spec : CtrlSpec := { plainSpec none [0, 2, 3] with single := true }
    let x : Ctx := { grp with mode := .idle, descent := [.segment 0xFFFF [1, 2, 3, 4], .marker], dhead := 7 }
    let y : Ctx := { blkLive true with mode := .idle, descent := [.marker], dhead := 7 }
    let up : Ctx := { clu with gather := [⟨2, true, none⟩] }
    Executes spec (onCtrl blk []) blk (onCtrl blk []) blk ∧
    getCtx (onCtrl x []) 1 = some x ∧ x.mode = .idle ∧ x.descent = .segment 0xFFFF [1, 2, 3, 4] :: [.marker] ∧
    powered (onCtrl x []) = true ∧ x.run < x.paths.length ∧ sparseWf 0 x.sregs = true ∧ x.isGroup = true ∧ (commit (onCtrl x []) x).2 = true ∧ memLanesIssued (onCtrl x []) x = true ∧
    (ctxOf (commit (onCtrl x []) x).1 1).sregs = x.sregs ∧
    (ctxOf (after (.segmentStart 1) (onCtrl x [])) 1).dhead = 0 ∧
    getCtx (onCtrl y [grp, up]) 2 = some y ∧ y.mode = .idle ∧ y.descent = .marker :: [] ∧ powered (onCtrl y [grp, up]) = true ∧
    childFull (onCtrl y [grp, up]) y = false ∧ childFull (onCtrl y [{ grp with descent := List.replicate 8 .marker }]) y = true ∧
    y.parent = some 3 ∧ getCtx (onCtrl y [grp, up]) 3 = some up := by
  refine ⟨executes_of (by decide), ?_⟩
  decide

/-- A region whose commit must wait: its release store stands behind WCT. -/
theorem meets_SegmentsBeginAndEnd_waits :
    let x : Ctx := { grp with mode := .idle, descent := [.segment 0 [1, 2, 3, 4]], rsb := [⟨.here 0x800, 2, [(0, 1)], 4, true, 0, 0, none, 0⟩] }
    let s : State := memDev (.ctrl 1) [x, blk]
    getCtx s 1 = some x ∧ (commit s x).2 = false ∧ memLanesIssued s x = true ∧
    memLanesIssued s { x with clauses := [{ cls [] 5 with started := false, off := 0xFFFF }] } = false := by decide +kernel

/-- A group at its end marker: with a clause whose words are not all issued, and with a commit that must wait, or need not. -/
theorem meets_SegmentsBeginAndEnd_marker :
    let g : Ctx := { grp with mode := .idle, descent := [.marker] }
    let q : Ctx := { g with clauses := [{ cls [] 5 with started := false, off := 0xFFFF }] }
    let w : Ctx := { g with rsb := [⟨.here 0x800, 2, [(0, 1)], 4, true, 0, 0, none, 0⟩] }
    let s (x : Ctx) : State := memDev (.ctrl 1) [x, { blk with gather := [⟨1, true, none⟩] }]
    (∀ x, x = g ∨ x = q ∨ x = w → getCtx (s x) 1 = some x ∧ x.mode = .idle ∧ x.descent = .marker :: [] ∧ x.isGroup = true ∧
      powered (s x) = true ∧ childFull (s x) x = false) ∧
    memLanesIssued (s q) q = false ∧ memLanesIssued (s w) w = true ∧ (commit (s w) w).2 = false ∧
    memLanesIssued (s g) g = true ∧ (commit (s g) g).2 = true ∧ (getCtx (commit (s g) g).1 1).isSome = true ∧ g.parent = some 2 := by
  refine ⟨?_, by decide +kernel⟩
  rintro x (rfl | rfl | rfl) <;> decide +kernel

/-- The group with S = 1, and its block with these standing reports. -/
def upSpec (sp : Option Word) : CtrlSpec := { plainSpec sp [0, 2, 3] with must := true, single := true }
def withReports (r : List Report) : Ctx := { blk with gather := r }

theorem meets_ReportsGather_up (r : Option (BitVec 3 × Word)) (h : r = none ∨ r = some (1, 5)) :
    let s := onCtrl grp [withReports [⟨1, true, r⟩]]
    Executes (upSpec (some 0)) s grp (entered (upSpec (some 0)) s grp) (enteredCtx (upSpec (some 0)) s grp) ∧
    (enteredCtx (upSpec (some 0)) s grp).parent.bind (getCtx (entered (upSpec (some 0)) s grp)) = some (withReports [⟨1, true, r⟩]) ∧
    reportOf (withReports [⟨1, true, r⟩]) 1 = r := by
  rcases h with rfl | rfl <;> exact ⟨executes_of (by decide), by decide, by decide⟩

/-- One report is missing; both stand and agree; the operators differ; .uni with two values; no live child at all. -/
theorem meets_ReportsGather (rs : List Report) (h : rs = [⟨1, true, some (1, 5)⟩, ⟨6, true, none⟩] ∨
    rs = [⟨1, true, some (1, 5)⟩, ⟨6, true, some (1, 7)⟩] ∨ rs = [⟨1, true, some (1, 5)⟩, ⟨6, true, some (2, 7)⟩] ∨
    rs = [⟨1, true, some (0, 5)⟩, ⟨6, true, some (0, 7)⟩] ∨ rs = []) :
    let c := withReports rs
    let spec : CtrlSpec := { plainSpec none [2, 3, 4] with writes := [255] }
    Executes spec (onCtrl c []) c (onCtrl c []) c ∧ (c.level = 4 → taskMode (onCtrl c []) c = false) := by
  rcases h with rfl | rfl | rfl | rfl | rfl <;> exact ⟨executes_of (by decide), by decide⟩

def barSpec (sp : Option Word) : CtrlSpec := { groupSpec sp false [] with must := true, single := true }
theorem meets_BarrierResults_arrive :
    let bs := barSpec (some 0)
    let cs : CtrlSpec := { plainSpec (some 0) [0] with must := true, single := true }
    let s : State := { onCtrl grp [blk, clu] with time0 := 1 }
    let t := onCtrl tsk []
    let u : State := { s with time0 := 0, launches := [{ codeLaunch 9 with words := [0x00000080] }] }
    Executes bs t tsk (entered bs t tsk) (enteredCtx bs t tsk) ∧ (enteredCtx bs t tsk).task = true ∧
    Executes bs s grp (entered bs s grp) (enteredCtx bs s grp) ∧ (enteredCtx bs s grp).task = false ∧
    ReleaseDone (entered bs s grp) (enteredCtx bs s grp) 2 ∧
    Executes cs s grp (entered cs s grp) (enteredCtx cs s grp) ∧ ReleaseDone (entered cs s grp) (enteredCtx cs s grp) 3 ∧
    Executes cs u grp (entered cs u grp) (enteredCtx cs u grp) ∧ ¬ ReleaseDone (entered cs u grp) (enteredCtx cs u grp) 3 := by
  exact ⟨executes_of (by decide), by decide, executes_of (by decide), by decide, (relDone_iff _ _ _).1 (by decide), executes_of (by decide),
    (relDone_iff _ _ _).1 (by decide), executes_of (by decide), relDone_not (by decide)⟩

/-- A block spread over two cores, whose BAR waits for its release. -/
theorem meets_BarrierResults_spread :
    let b : Ctx := { blk with cores := [0, 1] }
    let s := onCtrl grp [b]
    Executes (barSpec (some 0)) s grp (entered (barSpec (some 0)) s grp) (enteredCtx (barSpec (some 0)) s grp) ∧
    ¬ ReleaseDone (entered (barSpec (some 0)) s grp) (enteredCtx (barSpec (some 0)) s grp) 2 := by
  exact ⟨executes_of (by decide), relDone_not (by decide)⟩

theorem meets_BarrierResults_open :
    let a : Ctx := { grp with mode := .barrier 2 15 (.bar (some 0) 15) 2 }
    let s := dev (.event (.barrierOpen 2 15)) [a, { grp with id := 6 }, blk]
    let t := dev (.event (.barrierOpen 2 15)) [a, { a with id := 6 }, blk]
    powered s = true ∧ a.atBarrier 2 15 = true ∧
    (participates s 2 15 { grp with id := 6 } = true ∧ ({ grp with id := 6 } : Ctx).atBarrier 2 15 = false) ∧
    (∀ c ∈ t.ctxs, participates t 2 15 c = true → c.atBarrier 2 15 = true) ∧
    (let r : Reel := ⟨[[1], [6]], 3, 5⟩
     let u : State := setCluster { t with time0 := 3 } 0 { Cluster.reset with reels := [{ r with nextAt := 4 }, r] }
     dueReel (clusterTime u 0) (getCluster u 0).reels = some 1 ∧ (getCluster u 0).reels.getD 1 default = r ∧ r.waves = [1] :: [[6]] ∧
       0 < u.clusters.length) ∧
    (∀ c ∈ t.ctxs, c.atBarrier 2 15 = true → c.cluster = 0) ∧
    ({ a with mode := .reel (.bar (some 0) 15) 2 } : Ctx).mode = .reel (.bar (some 0) 15) 2 := by decide

theorem meets_SystemRegisterReads :
    let c : Ctx := { grp with loops := [(4, 5), (3, 6)] }
    Executes (scalarSpec none false 10) (onCtrl c []) c (onCtrl c []) c ∧ c.loops = [(4, 5)] ++ [(3, 6)] ∧ c.isGroup = true ∧
    Executes (scalarSpec none false 10) (onCtrl clu []) clu (onCtrl clu []) clu ∧ clu.loops = [] := by
  exact ⟨executes_of (by decide), by decide, by decide, executes_of (by decide), by decide⟩

/-- The values that NBV takes, and those that it does not. -/
theorem meets_SystemRegisterWrites :
    let v (w : Word) : Ctx := { grp with sregs := [(1, w)] }
    let busy : Ctx := { grp with clauses := [cls [] 5] }
    (∀ w, w = (0 : Word) ∨ w = 1 ∨ w = 2 ∨ w = 3 →
      Executes (plainSpec none allLevels) (onCtrl (v w) []) (v w) (onCtrl (v w) []) (v w) ∧ (v w).laneIdle = true ∧ (v w).sreg 1 = w) ∧
    Executes (plainSpec none allLevels) (onCtrl busy []) busy (onCtrl busy []) busy ∧ busy.laneIdle = false ∧ busy.isGroup = true ∧
    Executes (plainSpec none allLevels) (onCtrl blk []) blk (onCtrl blk []) blk ∧ blk.level = 2 ∧
    Executes (plainSpec none allLevels) (onCtrl clu []) clu (onCtrl clu []) clu ∧ clu.level = 3 ∧
    Executes (plainSpec none allLevels) (onCtrl grd []) grd (onCtrl grd []) grd ∧ grd.level = 4 := by
  refine ⟨?_, executes_of (by decide), by decide, by decide, executes_of (by decide), by decide, executes_of (by decide), by decide,
    executes_of (by decide), by decide⟩
  rintro w (rfl | rfl | rfl | rfl) <;> exact ⟨executes_of (by decide), by decide, by decide⟩

theorem meets_SoftwareTraps :
    let held : Ctx := { grp with haltOnBreak := true }
    let x : Ctx := { grp with mode := .halted 1 }
    Executes (gSpec []) (onCtrl grp []) grp (onCtrl grp []) grp ∧ grp.haltOnBreak = false ∧
    Executes (gSpec []) (onCtrl held []) held (onCtrl held []) held ∧ held.haltOnBreak = true ∧
    getCtx (onCtrl x []) 1 = some x ∧ x.mode = .halted 1 ∧ x.cancelled = false ∧ ({ x with cancelled := true } : Ctx).cancelled = true ∧
    Executes (groupSpec none true []) (onCtrl grp []) grp (onCtrl grp []) grp ∧ grp.path.sig = 0xFFFFFFFF ∧ grp.path.sig ≠ 0 := by
  exact ⟨executes_of (by decide), by decide, executes_of (by decide), by decide, by decide, by decide, by decide, by decide, executes_of (by decide), by decide, by decide⟩

/-- With a trap segment at offset 0 of the launch's group section, without one, already armed, and a sequencer. -/
theorem meets_TakingAFault :
    let seg (n : Word) : State := { onCtrl grp [] with launches := [{ codeLaunch 9 with words := (codeLaunch 9).words.set 15 n }] }
    getCtx (seg 0) 1 = some grp ∧ grp.isGroup = true ∧ grp.armed = false ∧ trapSegOf (seg 0) grp = 0 ∧
    trapSegOf (seg 0xFFFF) grp = 0xFFFF ∧ getCtx (onCtrl blk []) 2 = some blk ∧ blk.isGroup = false ∧
    ({ grp with armed := true } : Ctx).armed = true ∧ grp.mode ≠ .trap ∧ ({ grp with mode := .trap } : Ctx).mode = .trap ∧
    (onCtrl { grp with mode := .trap } []).turn = .ctrl 1 ∧ ({ grp with mode := .trap } : Ctx).flights = [] ∧ TRAP = 0x15 ∧ BRK = 0x16 ∧ BOUNDS = 0x08 ∧ STALE = 0x09 := by decide

/-! ## Core stores, buffers, homes, growth, arrivals -/

/-- Four bytes to the end of a row, under its owner's generation and under another. -/
theorem meets_TaggedWrites :
    let s := onCtrl grp []
    0 < s.cores.length ∧ 252 + 15 * 256 + [1, 2, 3, 4].length ≤ ((252 + 15 * 256) / 256 + 1) * 256 ∧
    Memory.wf s.mem = true ∧ sparseWf 0 s.tags = true ∧ ownerGen (getCore s 0).rows ((252 + 15 * 256) / 256) = 1 ∧
    ownerGen (getCore s 0).rows ((252 + 16 * 256) / 256) ≠ 1 := by decide +kernel

/-- The group's own rows end at 0x1000; the block's scratchpad stands at row 200. -/
theorem meets_CoreStoreAccess :
    let c : Ctx := { grp with sregs := [(1, 0xFFC), (2, 0xFFD), (3, 0x1000), (4, 0xC800)] }
    let s := vwrite (onCtrl c []) c 15 63 5
    let addr (a : Nat) : Nat := ((c.sreg a).toNat + 4 * 0) % 2 ^ 32
    Executes (groupSpec none false [9]) s c s c ∧ Executes (groupSpec none false []) s c s c ∧
    (allocOf c (effPols s c) (addr 1) 4).isSome = true ∧ addr 1 % 4 = 0 ∧
    ((allocOf c (effPols s c) (addr 1) 4).map Alloc.policy) = some false ∧ c.loadsHeld = false ∧
    poisoned s (coreKey 0 (addr 1)) 4 1 (rsbBytes c (.here (coreKey 0 (addr 1))) 4) = false ∧
    ownRow c (.here (coreKey 0 (addr 1))) = true ∧
    allocOf c (effPols s c) (addr 3) 4 = none ∧ allocOf c (effPols s c) 0xFFE 4 = none ∧
    (allocOf c (effPols s c) 0xFFA 4).isSome = true ∧ 0xFFA % 4 ≠ 0 ∧
    (allocOf c (effPols s c) (addr 4) 4).isSome = true ∧ ownRow c (.here (coreKey 0 (addr 4))) = false ∧
    (bufferStore c 0 false 0 0 (elementBytes (.here (coreKey 0 (addr 4))) 0 (some 3) [1, 2, 3, 4])).isSome = true := by
  refine ⟨executes_plain rfl (by decide +kernel), executes_plain rfl (by decide +kernel), ?_⟩
  decide +kernel

/-- A buffer with all its 32 entries. -/
def fullRsb : List BufEntry := (List.range 32).map (fun i => ⟨.here (1000 + i), 0, [(0, 1)], 0, false, 0, 0, some 3, 0⟩)

theorem meets_CoreStoreAccess_full :
    let c : Ctx := { grp with sregs := [(4, 0xC800)], rsb := fullRsb }
    let s := onCtrl c []
    Executes (groupSpec none false []) s c s c ∧ ownRow c (.here (coreKey 0 0xC800)) = false ∧
    bufferStore c 0 false 0 0 (elementBytes (.here (coreKey 0 0xC800)) 0 (some 3) [1, 2, 3, 4]) = none := by
  refine ⟨executes_plain rfl (by decide +kernel), ?_⟩
  decide +kernel

theorem meets_StoreBuffer :
    let c : Ctx := { grp with rsb := fullRsb }
    let inside (k : Nat) : StoreByte := ⟨.here k, 0, some 3, 9⟩
    c.rsb.length ≤ 32 ∧ (∀ e ∈ c.rsb, (e.bytes.map Prod.fst).Pairwise (· < ·)) ∧
    (bufferStore c 0 false 0 0 [inside (1031 * 128 + 127)]).isSome = true ∧
    bufferStore c 0 false 0 0 [inside (1032 * 128)] = none ∧ bufferStore c 0 true 0 0 [inside (1031 * 128)] = none ∧
    (bufferStore grp 0 true 0 0 [inside (1031 * 128)]).isSome = true := by decide +kernel

/-- A full buffer whose entry of a line was last written before an atomic of the group there, which is outstanding. -/
theorem meets_StoreBuffer_atomic :
    let f : Flight := { flight0 with kind := .atomic, accs := [⟨0, some (.here (1031 * 128)), [], 0, false⟩] }
    let c : Ctx := { grp with rsb := fullRsb, flights := [f] }
    c.rsb.length = 32 ∧ (∃ e ∈ c.rsb, e.line = .here 1031 ∧ e.stamp < c.atomicBound (.here 1031)) ∧
    bufferStore c 0 false 0 0 [⟨.here (1031 * 128), 0, some 3, 9⟩] = none := by decide +kernel

/-- Index 4 is out of bounds of a record of four elements; index 1 is element 1 of the page, and of the vault. -/
theorem meets_ScalarBufferAccess :
    Executes (groupSpec none false [9]) memS memGrp memS memGrp ∧ Executes (groupSpec none false []) memS memGrp memS memGrp ∧
    elementOob (scalarElement memS memGrp 6 3 false .load false) = some false ∧
    elementOob (scalarElement memS memGrp 6 3 true .none false) = some false ∧
    (elementAt (scalarElement memS memGrp 5 3 false .load false)).map (fun x => x.1) = some (.here 0x40104) ∧
    (elementAt (scalarElement memS memGrp 5 3 true .none false)).map (fun x => x.1) = some (.here 0x40104) ∧
    (elementAt (scalarElement memS memGrp 5 4 false .load false)).map (fun x => x.1) = some (.here (vaultKey 0 4)) ∧
    memGrp.loadsHeld = false ∧ spaceOf 0x40104 = .hbm ∧ spaceOf (vaultKey 0 4) = .vault 0 4 ∧
    gotBytes (vaultRead memS memGrp (vaultKey 0 4) 4 6 (rsbBytes memGrp (.here (vaultKey 0 4)) 4)) = some [5, 0, 0, 0] ∧
    gotBytes (l1Load memS memGrp 0 0 0x40104 4 (rsbBytes memGrp (.here 0x40104) 4)) = some [5, 0, 0, 0] ∧
    (bufferStore memGrp 4 false 0 0 (elementBytes (.here 0x40104) 0x104 none [9, 0, 0, 0])).isSome = true := by
  refine ⟨executes_plain rfl (by decide +kernel), executes_plain rfl (by decide +kernel), ?_⟩
  decide +kernel

/-- The same record with BTRAP, and an outstanding fence that holds loads. -/
theorem meets_ScalarBufferAccess_traps :
    let s : State := writeBytes memS (coreKey 0 0x6467) [0x10]
    let h : Ctx := { memGrp with loadFence := 99, flights := [{ flight0 with accs := [⟨0, none, [], 0, false⟩] }] }
    elementOob (scalarElement s memGrp 6 3 false .load false) = some true ∧ elementOob (scalarElement s memGrp 6 3 true .none false) = some true ∧
    h.loadsHeld = true := by decide +kernel

/-- Page 1 of the space is on peer 5, and record 3 begins in it; the core holds its line, leased, or does not. -/
def peerMem : List (Nat × Byte) := memCells.take 8 ++ [(0x30008, 0x11), (0x30009, 2), (0x3000A, 4), (0x3000E, 0x50)] ++ memCells.drop 8
def peerS (xs : List Line) : State :=
  let s := writeBytes { memS with mem := peerMem } (coreKey 0 0x6462) [1]
  setCore s 0 { getCore s 0 with lines := xs }
def peerLine : Line := ⟨0, 0, .peer 5 0x802, 1, [(4, 7), (5, 0), (6, 0), (7, 0)], 0, 0, 0, false, 0⟩
def peerBytes (s : State) : Option (List Byte) := match scalarPeerLoad s memGrp 5 0x40104 4 0 0 true with
  | .ok (bs, _) => some bs
  | .error _ => none

theorem meets_ScalarBufferAccess_peer :
    (elementAt (scalarElement (peerS []) memGrp 5 3 false .load false)).map (fun x => x.1) = some (.peer 5 0x40104) ∧
    Executes (groupSpec none false [9]) (peerS []) memGrp (peerS []) memGrp ∧
    peerBytes (peerS [peerLine]) = some [7, 0, 0, 0] ∧ peerBytes (peerS []) = none := by
  refine ⟨by decide +kernel, executes_plain rfl (by decide +kernel), by decide +kernel, by decide +kernel⟩

/-- A leased line, a line with dirty bytes and no lease, and a miss. -/
theorem meets_LoadsHitTheCopy :
    let x : Line := ⟨0, 0, .here 0x802, 1, [(4, 7), (5, 0), (6, 0), (7, 0)], 0, 0, 0, false, 0⟩
    let y : Line := { x with leaseEnd := 0, dirty := 0xF0 }
    let held (l : Line) : State := setCore memS 0 { getCore memS 0 with lines := [l] }
    findLine (getCore (held x) 0) 0 0 (.here (lineOf 0x40104)) = some x ∧ x.bad = 0 ∧ dieTime (held x) memGrp.die < x.leaseEnd ∧
    findLine (getCore (held y) 0) 0 0 (.here (lineOf 0x40104)) = some y ∧ (∀ i, i < 4 → y.dirty.getLsbD (0x40104 % 128 + i) = true) ∧
    l1Hit memS memGrp 0 0 (.here 0x40104) 4 = false ∧ (gotBytes (l1Load memS memGrp 0 0 0x40104 4 [])).isSome = true ∧
    memGrp.core < memS.cores.length ∧ sparseWf 0 memS.horizons = true ∧
    (getCore memS 0).lines.length < 2 * l1Rows (getCore memS 0) := by decide +kernel

def satomSpec : CtrlSpec := { groupSpec (some 0) true [9] with must := true }
def satomS : State := entered satomSpec memS memGrp
def satomC : Ctx := enteredCtx satomSpec memS memGrp

theorem meets_ScalarAtomic :
    Executes satomSpec memS memGrp satomS satomC ∧ satomIllegal 0x00050040 = false ∧ bits 0x00050040 9 8 < 2 ∧
    satomIllegal 0x05060049 = false ∧ satomC.loadsHeld = false ∧
    elementOob (scalarElement satomS satomC 6 3 true .home true) = some false ∧
    (elementAt (scalarElement satomS satomC 5 3 true .home true)).map (fun x => x.1) = some (.here 0x40104) ∧
    oldWord (atHome satomS satomC (.scalar 1 satomC.pc) 0 0 0 0x40104) = some 5 ∧
    (elementAt (scalarElement satomS satomC 5 4 true .home true)).map (fun x => x.1) = some (.here (vaultKey 0 4)) ∧
    spaceOf (vaultKey 0 4) = .vault 0 4 ∧ homeHeld satomS satomC (.here (vaultKey 0 4 / 128)) = false ∧
    poisoned satomS (vaultKey 0 4) 4 6 [] = false ∧ lateAt satomS (vaultKey 0 4 / 128) (some 6) = false ∧
    lateAt satomS (vaultKey 0 4 / 128) (some 7) = true ∧
    spaceOf 0x40104 = .hbm ∧ ownDirty satomS satomC 0 0 (.here 0x40104) 4 = none ∧ homeHeld satomS satomC (.here (0x40104 / 128)) = false ∧
    satomS.homeQ = [] ∧ dueTime satomS (.here (0x40104 / 128)) ≤ lineTime satomS (.here (0x40104 / 128)) ∧ poisonAt satomS 0x40104 = false ∧
    Memory.wf satomS.mem = true ∧
    (let s1 := homePush satomS (.here (0x40104 / 128)) [(0, 1)] none (some 0) false none 0 none none
     waitsAtHome (atHome s1 satomC (.scalar 1 satomC.pc) 0 0 0 0x40104) = true) := by
  refine ⟨executes_of (by decide +kernel), ?_⟩
  decide +kernel

/-- A release, before and after WCT, and an acquire at system scope. -/
theorem meets_ScalarAtomic_release :
    satomIllegal 0x00050250 = false ∧ bits 0x00050250 9 8 = 2 ∧ bits 0x00050250 6 4 = 5 ∧ ¬ ReleaseDone satomS satomC 5 ∧
    ReleaseDone { satomS with time0 := 1 } satomC 5 ∧ bits 0x00050350 9 8 % 2 = 1 ∧ satomIllegal 0x00050350 = false := by
  exact ⟨by decide, by decide, by decide, relDone_not (by decide +kernel), (relDone_iff _ _ _).1 (by decide +kernel), by decide, by decide⟩

def growSpec : CtrlSpec := { groupSpec (some 0) false [] with must := true, single := true }
/-- V from 16: to 240 and 1, past both; by nothing; and a core on which 1,000 rows cannot be had. -/
theorem meets_RegisterGrowth :
    let s := onCtrl grp []
    let full := setCore s 0 { core0 with rows := [⟨0, 16, 1, 1, false, 1⟩, ⟨16, 6000, 4, 1, false, 8⟩] }
    Executes growSpec s grp (entered growSpec s grp) (enteredCtx growSpec s grp) ∧ (enteredCtx growSpec s grp).laneIdle = true ∧
    ((16 : Int) + (224 : BitVec 16).toInt = 240) ∧ ((16 : Int) + (0xFFF1 : BitVec 16).toInt = 1) ∧
    ((16 : Int) + (225 : BitVec 16).toInt = 241) ∧ ((16 : Int) + (0xFFF0 : BitVec 16).toInt = 0) ∧
    (growTo (entered growSpec s grp) (enteredCtx growSpec s grp) 240).isSome = true ∧
    Executes growSpec full grp (entered growSpec full grp) (enteredCtx growSpec full grp) ∧
    growTo (entered growSpec full grp) (enteredCtx growSpec full grp) 17 = none ∧
    getCtx s grp.id = some grp ∧ 16 ≤ grp.vregs ∧
    (let busy : Ctx := { grp with flights := [flight0] }
     Executes growSpec (onCtrl busy []) busy (entered growSpec (onCtrl busy []) busy) (enteredCtx growSpec (onCtrl busy []) busy) ∧
       (enteredCtx growSpec (onCtrl busy []) busy).laneIdle = false) := by
  refine ⟨executes_of (by decide +kernel), by decide +kernel, by decide, by decide, by decide, by decide, by decide +kernel,
    executes_of (by decide +kernel), by decide +kernel, by decide +kernel, by decide +kernel, executes_of (by decide +kernel), ?_⟩
  decide +kernel

theorem meets_RegisterGrowth_grant :
    let x : Ctx := { grp with mode := .grow (.grow (some 0) 4) 2 }
    let s := onCtrl x []
    let y : Ctx := { x with id := 6, slot := 1 }
    getCtx s 1 = some x ∧ x.growWaits = some (some 0, 20, 2) ∧ olderGrow s x = false ∧ powered s = true ∧
    (growTo s x 20).isSome = true ∧
    getCtx (onCtrl x [y]) 6 = some y ∧ y.growWaits = some (some 0, 20, 2) ∧ olderGrow (onCtrl x [y]) y = true := by decide +kernel

/-- An arrival object in the scratchpad with PHASE 3, and s5 = 3. -/
def arrGrp (w : Word) : Ctx := { grp with sregs := [(4, 0xC800), (5, w)] }
def arrS (w : Word) : State := writeTagged (onCtrl (arrGrp w) []) (coreKey 0 0xC800) 3 ([7, 3, 0, 0].flatMap wordBytes)

def waitaSays : Waita → Nat
  | .yes v _ => 100 + v.toNat
  | .no => 1
  | .fault _ => 2
  | _ => 3

theorem meets_WaitOnArrival :
    Executes (groupSpec none false [9]) (arrS 2) (arrGrp 2) (arrS 2) (arrGrp 2) ∧ waitaSays (waitaTest (arrS 2) (arrGrp 2) 4 5 100) = 103 ∧
    Executes (groupSpec none false [9]) (arrS 3) (arrGrp 3) (arrS 3) (arrGrp 3) ∧ waitaSays (waitaTest (arrS 3) (arrGrp 3) 4 5 100) = 1 ∧
    waitaSays (waitaTest (arrS 3) (arrGrp 3) 5 5 100) = 2 ∧
    waitaRing (arrGrp 2) 4 = false ∧ (allocOf (arrGrp 2) (effPols (arrS 2) (arrGrp 2)) (waitaAddr (arrGrp 2) 4) 16).isSome = true ∧
    waitaAddr (arrGrp 2) 4 % 16 = 0 ∧ tagAt (arrS 2) (coreKey 0 0xC800) = 3 ∧ poisonAt (arrS 2) (coreKey 0 0xC800) = false := by
  refine ⟨executes_plain rfl (by decide +kernel), by decide +kernel, executes_plain rfl (by decide +kernel), ?_⟩
  decide +kernel

/-- A ring of two slots of 64 bytes with one filled and with none, a group that waits there already, and an operand b. -/
def waitRing : Ctx := { grp with sregs := [(4, 0xC801), (5, 1)] }
def waitRingS (filled : Word) (cs : List Ctx) : State :=
  writeTagged (onCtrl waitRing cs) (coreKey 0 0xC800) 3 (([2, 64, 1, filled, 1, 1, 0xC840, 0] : List Word).flatMap wordBytes)
theorem meets_WaitOnArrival_ring :
    let ahead : Ctx := { waitRing with id := 6, slot := 1, mode := .waita (.waita none 9 4 0) 1 7 }
    Executes (groupSpec none false [9]) (waitRingS 1 []) waitRing (waitRingS 1 []) waitRing ∧ waitaRing waitRing 4 = true ∧
    (5 : Reg) ≠ 0 ∧ (allocOf waitRing (effPols (waitRingS 1 []) waitRing) (waitaAddr waitRing 4) 32).isSome = true ∧
    waitaAddr waitRing 4 % 32 = 0 ∧ tagAt (waitRingS 1 []) (coreKey 0 0xC800) = 3 ∧ poisonAt (waitRingS 1 []) (coreKey 0 0xC800) = false ∧
    readWords (waitRingS 1 []) (coreKey 0 0xC800) 8 = [2, 64, 1, 1, 1, 1, 0xC840, 0] ∧
    ringAhead (waitRingS 1 []) waitRing (waitaAddr waitRing 4) 100 = false ∧
    ringAhead (waitRingS 1 [ahead]) waitRing (waitaAddr waitRing 4) 100 = true ∧
    waitaSays (waitaTest (waitRingS 1 []) waitRing 4 0 100) = 101 ∧ waitaSays (waitaTest (waitRingS 0 []) waitRing 4 0 100) = 1 := by
  refine ⟨executes_plain rfl (by decide +kernel), ?_⟩
  decide +kernel

/-- The memory of that ring keeps its canonical form. -/
theorem meets_WaitOnArrival_canonical : (waitRingS 1 []).canonical := by exact ⟨by decide +kernel, by decide +kernel⟩

/-- A suspended group whose object has been released. -/
theorem meets_WaitOnArrival_gone :
    let x : Ctx := { arrGrp 3 with mode := .waita (.waita none 9 4 5) 1 0 }
    let s := onCtrl x []
    getCtx s 1 = some x ∧ x.mode = .waita (.waita none 9 4 5) 1 0 ∧ powered s = true ∧
    (match waitaTest s x 4 5 0 with
     | .fault code => decide (code = OBJGONE)
     | _ => false) = true := by decide +kernel

theorem meets_WaitOnArrival_wake (w : Word) (h : w = 2 ∨ w = 3) :
    let x : Ctx := { arrGrp w with mode := .waita (.waita none 9 4 5) 1 0 }
    let s := setCtx (arrS w) x
    getCtx s 1 = some x ∧ x.mode = .waita (.waita none 9 4 5) 1 0 ∧ powered s = true ∧
    waitaSays (waitaTest s x 4 5 0) = if w = 2 then 103 else 1 := by
  rcases h with rfl | rfl <;> decide +kernel

def trywSpec : CtrlSpec := groupSpec none true [9]
/-- A wait on word 1 of the vault, which holds 5, for the condition "not equal to s9". -/
theorem meets_TryWait :
    let c (w : Word) : Ctx := { memGrp with sregs := [(5, 1), (6, 4), (9, w)] }
    let s (w : Word) : State := memDev (.ctrl 1) [c w, blk]
    Executes trywSpec (s 0) (c 0) (s 0) (c 0) ∧ trywIllegal 0x3E81 = false ∧ trywIllegal 0x1 = false ∧ (c 0).loadsHeld = false ∧
    elementOob (scalarElement (s 0) (c 0) 6 4 false .home true) = some false ∧
    elementOob (scalarElement (writeBytes (s 0) (coreKey 0 0x6487) [0x30]) (c 0) 6 4 false .home true) = some true ∧
    (elementAt (scalarElement (s 0) (c 0) 5 4 false .home true)).map (fun x => x.1) = some (.here (vaultKey 0 4)) ∧
    (elementAt (scalarElement (s 0) (c 0) 5 3 false .home true)).map (fun x => x.1) = some (.here 0x40104) ∧
    gotBytes (vaultRead (s 0) (c 0) (vaultKey 0 4) 4 6 []) = some [5, 0, 0, 0] ∧
    gotBytes (homeRead (s 0) (c 0) 0 0 0x40104 4) = some [5, 0, 0, 0] ∧
    trywCond (bits 0x3E81 3 0) 5 ((c 0).sreg 9) = true ∧ trywCond (bits 0x3E81 3 0) 5 ((c 5).sreg 9) = false ∧
    Executes trywSpec (s 5) (c 5) (s 5) (c 5) ∧ bits 0x3E81 27 4 = 1000 ∧ bits 0x1 27 4 = 0 := by
  refine ⟨executes_plain rfl (by decide +kernel), by decide, by decide, by decide, by decide +kernel, by decide +kernel, by decide +kernel,
    by decide +kernel, by decide +kernel, by decide +kernel, by decide, by decide, executes_plain rfl (by decide +kernel), by decide, by decide⟩

theorem meets_TryWait_suspended (t : Nat) (h : t = 999 ∨ t = 1000) (w : Word) (hw : w = 0 ∨ w = 5) :
    let x : Ctx := { memGrp with sregs := [(5, 1), (6, 4), (9, w)], mode := .tryw (.tryw none 9 5 4 0x3E81) 2 0 }
    let s : State := { memDev (.event (.trywWake 1)) [x, blk] with time0 := t }
    let y : Ctx := { x with mode := .run }
    getCtx s 1 = some x ∧ x.mode = .tryw (.tryw none 9 5 4 0x3E81) 2 0 ∧ powered s = true ∧ y.loadsHeld = false ∧
    (elementAt (scalarElement (setCtx s y) y 5 4 false .home true)).map (fun x => x.1) = some (.here (vaultKey 0 4)) ∧
    gotBytes (vaultRead (setCtx s y) y (vaultKey 0 4) 4 6 []) = some [5, 0, 0, 0] ∧
    (trywCond (bits 0x3E81 3 0) 5 (y.sreg 9) = if w = 0 then true else false) ∧ dieTime s x.die = t := by
  rcases h with rfl | rfl <;> rcases hw with rfl | rfl <;> decide +kernel

/-! ## Tasks and engines -/

/-- A task whose frame for SPAWN stands in s16 to s31, with a join link to virtual 0x80; device time is 1. -/
def spawner (vregs join : Word) : Ctx := { tsk with sregs := sputAll [(17, join), (18, 0x00100000), (19, vregs), (40, 0x80)] }
where sputAll (l : List (Nat × Word)) : List (Nat × Word) := l.filter (fun x => x.2 ≠ 0)
def taskDev (c : Ctx) (t : Nat) (w st : Word) : State :=
  let s := memDev (.ctrl 1) [c]
  { writeWord (writeWord s 0x40080 w) 0x40084 st with time0 := t }
def spawnSpec : CtrlSpec := { plainSpec (some 0) [1] with must := true, single := true }
def spS (c : Ctx) (t : Nat) (w st : Word) : State := entered spawnSpec (taskDev c t w st) c
def spC (c : Ctx) (t : Nat) (w st : Word) : Ctx := enteredCtx spawnSpec (taskDev c t w st) c
def badFrame (c : Ctx) : Bool :=
  let x := spC c 1 0 0
  frameBad (groupWords (spS c 1 0 0) x.launch) (x.sregRun 16 16) (frameEntry (x.sregRun 16 16)) true

/-- A bad frame, a depth of 32, a full spill ring; a frame without a join link, before and after its release; one with. -/
theorem meets_SpawnRunsATask :
    let deep : Ctx := { spawner 4 0 with depth := 32 }
    (∀ c, c = spawner 0 0 ∨ c = deep ∨ c = spawner 4 0 ∨ c = spawner 4 0x80 →
      Executes spawnSpec (taskDev c 1 5 0) c (spS c 1 5 0) (spC c 1 5 0)) ∧
    badFrame (spawner 0 0) = true ∧ badFrame deep = false ∧ badFrame (spawner 4 0) = false ∧ badFrame (spawner 4 0x80) = false ∧
    (spC (spawner 4 0) 1 0 0).phase ≠ 1 ∧ (spC deep 1 0 0).depth = 32 ∧
    ringFull { core0 with deque := List.replicate 256 [], ringCount := 3969 } = true ∧ ringFull core0 = false ∧
    frameJoin ((spC (spawner 4 0) 1 0 0).sregRun 16 16) = 0 ∧
    (releaseSteps (spS (spawner 4 0) 0 0 0) (spC (spawner 4 0) 0 0 0) 4).2 = false ∧
    (releaseSteps (spS (spawner 4 0) 1 0 0) (spC (spawner 4 0) 1 0 0) 4).2 = true ∧
    (pushFrame (spS (spawner 4 0) 1 0 0) 9 0 []).isSome = true ∧
    pushFrame (setCore (spS (spawner 4 0) 1 0 0) 0 { core0 with deque := List.replicate 256 [], ringCount := 3969 }) 9 0 [] = none ∧
    frameJoin ((spC (spawner 4 0x80) 1 5 0).sregRun 16 16) = 0x80 ∧
    joinPlace (spS (spawner 4 0x80) 1 5 0) (spC (spawner 4 0x80) 1 5 0) 0x80 = .ok (.here 0x40080) true false ∧
    oldWord (atHome (spS (spawner 4 0x80) 1 5 0) (spC (spawner 4 0x80) 1 5 0) (.scalar 1 0) 0 0 0 0x40080) = some 5 ∧
    oldWord (atHome (spS (spawner 4 0x80) 1 0x7FFFFFFF 0) (spC (spawner 4 0x80) 1 0x7FFFFFFF 0) (.scalar 1 0) 0 0 0 0x40080) =
      some 0x7FFFFFFF ∧
    0 < memS.cores.length ∧ (getCore memS 0).deque.length < 256 := by
  refine ⟨?_, ?_⟩
  · rintro c (rfl | rfl | rfl | rfl) <;> exact executes_of (by decide +kernel)
  · decide +kernel

def joincSpec : CtrlSpec := { len := wordsOf true (some 0), sp := some 0, must := true, levels := [1], single := true }
/-- JOINC in its three phases: its frame in s16, the record at virtual 0x80 in s40. -/
def joiner (phase : Nat) (push : Option (List Word)) : Ctx := { spawner 4 0 with phase := phase, pushing := push, join := 0x100, depth := 1 }
def jcS (c : Ctx) (w st : Word) : State := entered joincSpec (taskDev c 1 w st) c
def jcC (c : Ctx) (w st : Word) : Ctx := enteredCtx joincSpec (taskDev c 1 w st) c
def decremented (c : Ctx) (w st : Word) : Option (Option (List Word)) :=
  match joinDecrement (jcS c w st) (jcC c w st) 0x80 with
  | .ok (_, f) => some f
  | .error _ => none

theorem meets_JoinContinuation :
    (∀ c, c = joiner 0 none ∨ c = joiner 1 none ∨ c = joiner 2 (some []) →
      Executes joincSpec (taskDev c 1 2 1) c (jcS c 2 1) (jcC c 2 1)) ∧
    (jcC (joiner 0 none) 2 1).phase = 0 ∧ (jcC (joiner 1 none) 2 1).phase = 1 ∧ (jcC (joiner 2 none) 2 1).phase = 2 ∧
    joincAddr (jcC (joiner 0 none) 2 1) 40 0 = 0x80 ∧ joincAddr (jcC (joiner 0 none) 2 1) 0 0 = 0 ∧
    joincAddr (jcC (joiner 0 none) 2 1) 18 0 % 128 = 0 ∧ joincAddr (jcC (joiner 0 none) 2 1) 19 0 % 128 ≠ 0 ∧
    joinPlace (jcS (joiner 0 none) 2 1) (jcC (joiner 0 none) 2 1) 0x80 = .ok (.here 0x40080) true false ∧
    (jcS (joiner 0 none) 2 1).changing.contains 0 = false ∧
    (releaseSteps (jcS (joiner 1 none) 2 1) (jcC (joiner 1 none) 2 1) 4).2 = true ∧
    (decremented (joiner 1 none) 2 1) = some none ∧ (decremented (joiner 1 none) 1 0) = some none ∧
    ((decremented (joiner 1 none) 1 1).bind id).isSome = true ∧ (decremented (joiner 1 none) 0 1) = some none ∧
    (decremented (joiner 1 none) 5 2) = some none ∧
    (pushHeld (jcS (joiner 2 (some [])) 2 1) (jcC (joiner 2 (some [])) 2 1)).isSome = true ∧
    pushHeld (setCore (jcS (joiner 2 (some [])) 2 1) 0 { core0 with deque := List.replicate 256 [], ringCount := 3969 }) (jcC (joiner 2 (some [])) 2 1) = none ∧
    (0x80000001 : Word).toInt ≤ 0 ∧ (0x80000001 : Word) ≠ 0x80000000 := by
  refine ⟨?_, ?_⟩
  · rintro c (rfl | rfl | rfl) <;> exact executes_of (by decide +kernel)
  · decide +kernel

/-- A JOINC whose decrement has its place at the home, one whose release must wait, and a record that is poisoned, busy or absent. -/
theorem meets_JoinContinuation_waits :
    let c := jcC (joiner 1 none) 2 1
    let s := jcS (joiner 1 none) 2 1
    let held : State := { s with homeQ := [⟨70, .here 0x801, [], 0, some 1, some 0, 0, false, none, none, none, some (.scalar 1 c.pc), true, false⟩] }
    let sick : State := { s with poison := [granule 0x40080] }
    let old : State := { s with time0 := 0 }
    let busy : State := { s with homeQ := [⟨70, .here 0x801, [(0, 1)], 0, some 9, some 1, 9, false, none, none, none, none, true, false⟩] }
    let halts (t : State) (addr : Nat) : Nat := match joinDecrement t c addr with
      | .ok _ => 0
      | .error (.wait _) => 1
      | .error (.ue _) => 2
      | .error (.away _) => 3
    c.phase = 1 ∧ scalarSent held c = true ∧ scalarSent s c = false ∧ relDone s c 4 = true ∧ relDone old c 4 = false ∧
    halts sick 0x80 = 2 ∧ halts busy 0x80 = 1 ∧ halts held 0x80 = 0 ∧ halts s 0x10000 = 3 := by decide +kernel

/-- A task-mode grid's two cores, with a frame of two lanes and four registers. -/
def frame0 : List Word := [0, 0, 0x00100000, 4, 1, 2, 3, 4, 5, 6, 7, 8, 9, 10, 11, 12]
def taskCore (dq : List (List Word)) : Core :=
  { Core.reset with rows := [⟨100, 16, 2, 2, false, 9⟩], grid := some 9, deque := dq }
def stealDev (a b : Core) : State :=
  { dev (.event (.steal 0)) [] with cores := a :: b :: List.replicate 190 Core.reset }
def lootOf (s : State) (v : Nat) : Nat :=
  match stealFrom s (codeLaunch 9) 0 v with
  | .frame _ _ => 1
  | .none => 0
  | .wait => 2

theorem meets_DequesAndSteals :
    let s := stealDev (taskCore [[5], frame0]) Core.reset
    let t := stealDev (taskCore []) (taskCore [frame0])
    let u := stealDev (taskCore []) (taskCore [])
    let p := stealDev { taskCore [] with popped := some frame0 } (taskCore [])
    let q := stealDev { taskCore [] with latch := some (frame0, 1) } (taskCore [])
    (getCore s 0).grid.bind (getLaunch s) = some (codeLaunch 9) ∧ (getCore s 0).popped = none ∧ freeSlot s 0 = true ∧
    powered s = true ∧ (getCore s 0).deque = [[5]] ++ [frame0] ∧ (startTask s 0 9 frame0).isSome = true ∧
    coreIdle t 0 = true ∧ victims 0 = [] ++ 1 :: (victims 0).tail ∧ lootOf t 1 = 1 ∧ (getCore t 0).retryAt = none ∧
    coreIdle u 0 = true ∧ ((victims 0).all (fun v => lootOf u v = 0)) = true ∧
    (getCore p 0).popped = some frame0 ∧ (startTask (setCore p 0 { getCore p 0 with popped := none }) 0 9 frame0).isSome = true ∧
    frame0.length = 16 ∧ (getCore q 0).popped = none ∧ (getCore q 0).latch = some (frame0, 1) ∧
    (startTask (setCore q 0 { getCore q 0 with latch := none }) 0 9 frame0).isSome = true := by decide +kernel

/-- A thief that waits for its retry, and a victim whose ring holds its oldest frame. -/
theorem meets_DequesAndSteals_ring :
    let waits (c : Core) : Core := { c with retryAt := some 7 }
    let t : State := { stealDev (waits (taskCore [])) (taskCore [frame0]) with time0 := 7 }
    let l : Launch := { codeLaunch 9 with words := (codeLaunch 9).words ++ List.replicate 30 0 }
    let v : Core := { taskCore [] with ringPos := 4095, ringCount := 1 }
    let r : State := { memDev (.event (.steal 0)) [] with launches := [l], cores := [taskCore [], v] }
    (getCore t 0).retryAt = some 7 ∧ 7 ≤ dieTime t (clusterDie 0) ∧ coreIdle t 0 = true ∧ lootOf t 1 = 1 ∧
    (getCore r 1).grid = some l.id ∧ (getCore r 1).ringCount ≠ 0 ∧
    (∃ a, ringKeys { r with mem := writeBytes r 0x30038 (leBytes 8 (7 * 65536 + 17)) |>.mem } l 1 4095 1 = some [a]) := by
  refine ⟨by decide +kernel, by decide +kernel, by decide +kernel, by decide +kernel, by decide, by decide, 0x7FFC0, by decide +kernel⟩

/-! ## The engine -/

/-- A group whose s2 names a descriptor in the block's scratchpad, s3 an address outside it, s4 an index list. -/
def engGrp : Ctx := { grp with sregs := [(2, 0xC800), (3, 0x20000), (4, 0xCA00)], slotBase := 5 }
/-- Its block holds two weight slots from slot 5. -/
def engBlk : Ctx := { blk with wslots := 2, slotBase := 5 }
def engMem (s : State) (ws : List Word) : State := writeTagged s (coreKey 0 0xC800) 3 (ws.flatMap wordBytes)
def engS (c : Ctx) (ws : List Word) : State := engMem (memDev (.ctrl 1) [c, engBlk]) ws

/-- Four words of record 3 to the scratchpad, at 4 bytes each, with an arrival object at 0xC980. -/
def copyDesc : List Word := [0x00001020, 3, 0xC900, 0x8000C980, 0, 0, 0, 0, 4, 1, 4] ++ List.replicate 21 0
/-- Two rows of four words that an index list names. -/
def gatherDesc : List Word := [0x00001021, 3, 0xC900, 0, 0, 0, 0, 0, 4, 1, 4, 2, 4, 16] ++ List.replicate 18 0
/-- 256 words into one weight slot. -/
def slotDesc : List Word := [0x00000020, 3, 0, 0, 0, 0, 0, 0, 256, 1, 4] ++ List.replicate 21 0
/-- A ring of two slots of 64 bytes at 0xC940, in the object at 0xC980. -/
def ringDesc : List Word := [0x00003020, 3, 0xC980, 0, 0, 0, 0, 0, 4, 1, 4] ++ List.replicate 21 0

def engSpec : CtrlSpec := { groupSpec (some 0) false [] with must := true, single := true }
def eS (c : Ctx) (ws : List Word) : State := entered engSpec (engS c ws) c
def eC (c : Ctx) (ws : List Word) : Ctx := enteredCtx engSpec (engS c ws) c
def formed (k : EngKind) (c : Ctx) (ws : List Word) (d a : Reg) : Option EngOp := (formOp (eS c ws) (eC c ws) k d a 9).toOption
def formFault (k : EngKind) (c : Ctx) (ws : List Word) (d a : Reg) : Option Nat := match formOp (eS c ws) (eC c ws) k d a 9 with
  | .error f => some f.1
  | .ok _ => none

/-- A group whose counters of the classes 0, 2 and 3 all stand at 63. -/
def engFull : Ctx := { engGrp with engines := (List.range 63).flatMap (fun i => [(0, 200 + i), (2, 300 + i), (3, 400 + i)]) }

theorem meets_EngineIssue :
    Executes engSpec (engS engGrp copyDesc) engGrp (eS engGrp copyDesc) (eC engGrp copyDesc) ∧
    ((formed .tcopy engGrp copyDesc 9 2).map (fun o => (o.id, o.cls, o.stage, (parseDesc o.desc).count))) = some (101, 0, .queued, 4) ∧
    ((formed .rcopy engGrp copyDesc 9 2).map (fun o => (o.cls, o.opcode))) = some (3, 0x63) ∧
    (eC engGrp copyDesc).engineCount 0 = 0 ∧ (eC engGrp copyDesc).engineCount 3 = 0 ∧ (eS engGrp copyDesc).changing = [] ∧
    formFault .tcopy engGrp copyDesc 9 3 = some PERM ∧ formFault .rcopy engGrp copyDesc 9 3 = some PERM ∧
    (formed .tcopy engGrp [] 9 2).map EngOp.stage = some .complete := by
  refine ⟨executes_of (by decide +kernel), ?_⟩
  decide +kernel

theorem meets_EngineIssue_gather :
    Executes engSpec (engS engGrp gatherDesc) engGrp (eS engGrp gatherDesc) (eC engGrp gatherDesc) ∧
    ((formed .gcopy engGrp gatherDesc 4 2).map (fun o => (o.cls, o.idx, (parseDesc o.desc).count))) = some (2, [0, 0], 8) ∧
    (eC engGrp gatherDesc).engineCount 2 = 0 ∧ formFault .gcopy engGrp gatherDesc 3 2 = some PERM ∧
    formFault .gcopy engGrp copyDesc 4 2 = some FORMAT := by
  refine ⟨executes_of (by decide +kernel), ?_⟩
  decide +kernel

theorem meets_EngineIssue_slots :
    Executes engSpec (engS engGrp slotDesc) engGrp (eS engGrp slotDesc) (eC engGrp slotDesc) ∧
    ((formed .wbload engGrp slotDesc 9 2).map (fun o => (o.cls, o.wslot, o.holder))) = some (0, 5, 2) ∧
    formFault .wbload engGrp copyDesc 9 2 = some FORMAT := by
  refine ⟨executes_of (by decide +kernel), ?_⟩
  decide +kernel

theorem meets_EngineIssue_full :
    Executes engSpec (engS engFull copyDesc) engFull (eS engFull copyDesc) (eC engFull copyDesc) ∧
    (eC engFull copyDesc).engineCount 0 = 63 ∧ (eC engFull copyDesc).engineCount 3 = 63 ∧ (eC engFull copyDesc).engineCount 2 = 63 ∧
    (formed .tcopy engFull copyDesc 9 2).isSome = true := by
  refine ⟨executes_of (by decide +kernel), ?_⟩
  decide +kernel

/-- 256 operations of class 0 queued on the core, and an operation whose record's space is being changed. -/
theorem meets_EngineIssue_queue :
    let o := (formed .tcopy engGrp copyDesc 9 2).getD default
    let s : State := { eS engGrp copyDesc with ops := List.replicate 256 { o with ctx := 7 } }
    256 ≤ (s.ops.filter (fun x => x.core = 0 && x.cls = 0 && x.stage = .queued)).length ∧
    (eS engGrp copyDesc).ops.length = 0 ∧ opSpaces o ≠ [] := by decide +kernel

/-- An operation of the group, queued on core 0, and a device that holds it. -/
def opOf (opcode : Nat) (cls : BitVec 2) (ws : List Word) : EngOp :=
  { id := 99, ctx := 1, launch := 9, core := 0, slot := 0, holder := 2, cls := cls, opcode := opcode, desc := ws, idx := [], src := [0]
    dst := [0], srcRec := [0x100, 0x00200000, 4, 4, 0, 0, 0, 0], dstRec := [], nbv := 2
    gens := [(coreKey 0 0, 4096, 1), (coreKey 0 25600, 4096, 2), (coreKey 0 51200, 1024, 3), (vaultKey 0 0, 65536, 6)]
    stage := .queued, unit := 0, landed := [], words := [], ringSlot := none, wslot := 5, pc := 0 }
def copyOp : EngOp := opOf 0x60 0 copyDesc
def ringOp : EngOp := opOf 0x60 0 ringDesc
def opDev (o : EngOp) : State := { memDev (.event (.engineOpStart 0 0)) [engGrp, engBlk] with ops := [o] }
def ringObj (slots free head : Word) : List Word := [slots, 64, free, 0, head, 0, 0xC940, 0]
/-- The same with an object of these words at 0xC980. -/
def objDev (o : EngOp) (ws : List Word) : State :=
  { opDev o with
    mem := memCells ++ ((offsets (ws.flatMap wordBytes)).filter (fun x => x.2 ≠ 0)).map (fun x => (coreKey 0 (0xC980 + x.1), x.2))
    tags := memTags ++ [(granule (coreKey 0 0xC980), 3)] }

/-- A context with two operations of class 0, the first complete, and one of class 2. -/
theorem meets_EngineIssue_retire :
    let c : Ctx := { engGrp with engines := [(0, 99), (0, 98), (2, 97)] }
    let s : State := { opDev copyOp with ops := [{ copyOp with stage := .complete }], ctxs := [c, engBlk] }
    getCtx s c.id = some c ∧ c.engineCount (BitVec.ofNat 2 0) ≤ 63 := by decide +kernel

theorem meets_EngineProgress :
    let w : EngOp := { ringOp with stage := .ringWait }
    let stopped : EngOp := { copyOp with stage := .stopped 1 }
    let s := objDev w (ringObj 2 1 1)
    headOp (opDev copyOp) 0 0 = some copyOp ∧ powered (opDev copyOp) = true ∧ copyOp.isRing = false ∧ ringOp.isRing = true ∧
    headOp (objDev ringOp (ringObj 2 1 1)) 0 0 = some ringOp ∧ ringFault (objDev ringOp (ringObj 2 1 1)) ringOp = none ∧
    ringFault (objDev ringOp (ringObj 0 1 1)) ringOp = some FORMAT ∧
    getOp s w.id = some w ∧ objRead s w w.ring 8 = ringObj 2 1 1 ∧ (1 : Word).toInt = 1 ∧ bits (2 : Word) 15 0 ≠ 0 ∧
    objRead (objDev w (ringObj 2 0 1)) w w.ring 8 = ringObj 2 0 1 ∧
    getOp (opDev stopped) stopped.id = some stopped ∧ batchPassed (opDev stopped) 1 = false ∧
    batchPassed { opDev stopped with fqConsumed := 1 } 1 = true := by decide +kernel


theorem meets_EngineProgress_objects :
    let w : EngOp := { ringOp with stage := .ringWait }
    let s := objDev w (ringObj 2 1 1)
    let t := objDev copyOp [16, 7, 0]
    s.canonical ∧ objectHeld s w w.ring 8 ∧ (parseDesc copyOp.desc).av = true ∧ t.canonical ∧
    objectHeld t copyOp (parseDesc copyOp.desc).arrival 3 := by
  refine ⟨⟨?_, ?_⟩, ⟨?_, ?_, ?_, ?_, ?_, ?_⟩, ?_, ⟨?_, ?_⟩, ⟨?_, ?_, ?_, ?_, ?_, ?_⟩⟩ <;> decide +kernel

/-- A piece to the core store, to an absent page, to global memory, and a reduction's. -/
def globalOp : EngOp :=
  { opOf 0x60 0 [0x00000020, 3, 3, 0, 0, 0, 0, 0, 4, 1, 1] with dstRec := [0x100, 0x00200000, 4, 4, 0, 0, 0, 0], stage := .started }
def absentOp : EngOp := { globalOp with dstRec := [0x100, 0x00200003, 4, 4, 0, 0, 0, 0] }
def readsSound (s : State) (o : EngOp) (es : List Nat) : Bool := match engineReads s o es with
  | .ok _ => true
  | .error _ => false
def lateBytes : ERead → Option (List Byte)
  | .bytes bs _ => some bs
  | _ => none

def landOp : EngOp := { copyOp with stage := .started }
def reduceOp : EngOp := { opOf 0x63 3 copyDesc with stage := .started }
def landReady (x : EngOp) : Bool :=
  getOp (opDev x) x.id = some x && x.stage = .started && x.cls ≠ 1 && powered (opDev x) && x.unit < (parseDesc x.desc).units &&
    (opSpaces x).all (fun y => y ∉ (opDev x).changing) && !x.landed.contains 0

theorem meets_EngineProgress_ready :
    landReady landOp = true ∧ landReady reduceOp = true ∧ landReady globalOp = true ∧ landReady absentOp = true := by decide +kernel

theorem meets_EngineProgress_absent :
    (absentOp.pieces 0)[0]? = some [0, 1, 2, 3] ∧ unitPages (opDev absentOp) absentOp ≠ [] ∧
    fqRoom (opDev absentOp) (unitPages (opDev absentOp) absentOp).length = true := by decide +kernel

/-- An operation whose batch of one record waits for room: it stands first in the line, or the ring is full. -/
def owingOp : EngOp := { copyOp with stage := .owing [[]] }
def owingDev (full : Bool) : State := { opDev owingOp with fqLine := [.engine owingOp.id], fqProduced := if full then 256 else 0 }
def fullRing (s : State) : State := { s with fqProduced := 256 }
theorem meets_EngineProgress_owing :
    getOp (owingDev false) owingOp.id = some owingOp ∧ getOp (owingDev true) owingOp.id = some owingOp ∧
    powered (owingDev false) = true ∧ fqServes (owingDev false) (.engine owingOp.id) 1 = true ∧
    fqServes (owingDev true) (.engine owingOp.id) 1 = false ∧
    unitPages (fullRing (opDev absentOp)) absentOp ≠ [] ∧ fqRoom (fullRing (opDev absentOp)) 1 = false := by
  decide +kernel

theorem meets_EngineProgress_core :
    (landOp.pieces 0)[0]? = some [0, 1, 2, 3] ∧ unitPages (opDev landOp) landOp = [] ∧
    (dstPlace (opDev landOp) landOp 0).toOption = some (.here (coreKey 0 0xC900)) ∧ readsSound (opDev landOp) landOp [0, 1, 2, 3] = true ∧
    landOp.dstSpot 0 = .key (coreKey 0 0xC900) := by decide +kernel

theorem meets_EngineProgress_global :
    (globalOp.pieces 0)[0]? = some [0, 1, 2, 3] ∧ unitPages (opDev globalOp) globalOp = [] ∧
    (dstPlace (opDev globalOp) globalOp 0).toOption = some (.here 0x40100) ∧
    readsSound (opDev globalOp) globalOp [0, 1, 2, 3] = true ∧ globalOp.dstSpot 0 = .va 0x100 := by decide +kernel

theorem meets_EngineProgress_reduce :
    (reduceOp.pieces 0)[3]? = some [3] ∧ unitPages (opDev reduceOp) reduceOp = [] ∧
    (dstPlace (opDev reduceOp) reduceOp 3).toOption = some (.here (coreKey 0 0xC90C)) ∧ readsSound (opDev reduceOp) reduceOp [3] = true ∧
    reduceSent (opDev reduceOp) reduceOp 3 = none ∧
    lateBytes (reduceAt (opDev reduceOp) reduceOp (coreKey 0 0xC90C) 0) = some [] := by decide +kernel

/-- A reduction onto a peer's page, before its update is sent and after the peer's answer. -/
def peerReduce : EngOp :=
  { opOf 0x63 3 [0x00000020, 3, 3, 0, 0, 0, 0, 0, 4, 1, 1] with dstRec := [0x10100, 0x00200000, 4, 4, 0, 0, 0, 0], stage := .started }
def peerOpS (rs : List Request) : State := { opDev peerReduce with mem := peerMem, requests := rs }
def sentReduce (s : State) : State := match engineReads s peerReduce [0] with
  | .ok (es, s0) => reduceAsk (countLines s0 peerReduce [0]) peerReduce 0 5 0x40100 (leWord ((es.headD (0, [])).2))
  | .error _ => s
theorem meets_EngineProgress_peer :
    (peerReduce.pieces 0)[0]? = some [0] ∧ unitPages (peerOpS []) peerReduce = [] ∧ acquireAhead (peerOpS []) peerReduce = false ∧
    (dstPlace (peerOpS []) peerReduce 0).toOption = some (.peer 5 0x40100) ∧ readsSound (peerOpS []) peerReduce [0] = true ∧
    reduceSent (peerOpS []) peerReduce 0 = none ∧
    (reduceSent (sentReduce (peerOpS [])) peerReduce 0).map (fun r => r.answer.isSome) = some false ∧
    (let t := sentReduce (peerOpS [])
     (reduceSent { t with requests := t.requests.map (fun r => { r with answer := some [] }) } peerReduce 0).map
       (fun r => r.answer.isSome)) = some true := by decide +kernel

/-- An acquiring access of the group that was issued before the operation, and is outstanding. -/
theorem meets_EngineProgress_acquire :
    let c : Ctx := { engGrp with flights := [{ flight0 with kind := .atomic, acq := true, accs := [⟨0, none, [], 0, false⟩] }] }
    let s : State := { opDev landOp with ctxs := [c, engBlk] }
    getOp s landOp.id = some landOp ∧ acquireAhead s landOp = true ∧ acquireAhead (opDev landOp) landOp = false := by decide +kernel

/-! ## The lane stream -/

/-- A form of destination d and sources a and b, unguarded. -/
def lf (d a b : Reg) : LaneForm := ⟨d, a, b, 0, 0, false, 0, 0, 0, 0, 0, 0⟩
/-- The group with lanes 0 and 1, constants 1 and 2 in k0 and k1, and the turn of its lane stream. -/
def lg : Ctx := laneGrp [1, 2]
def lq : Clause := cls [1, 2] 5
def ls0 : State := onLane lg

theorem meets_LaneResults :
    (intLane (.vadd (lf 4 0xF0 0xF1))).isSome = true ∧ LaneExecutes (laneSpec 0x01 (lf 4 0xF0 0xF1) 2) ls0 lg lq ∧
    (floatLane (.fadd (lf 15 0xF0 0xF1))).isSome = true ∧ LaneExecutes (laneSpec 0x20 (lf 15 0xF0 0xF1) 2) ls0 lg lq :=
  ⟨by decide, laneExecutes_of (by decide) (by decide), by decide, laneExecutes_of (by decide) (by decide)⟩

theorem meets_LaneResults_write :
    registersOwned ls0 lg ∧ ls0.canonical ∧ 15 < lg.vregs ∧ (([(0, 5), (63, 6)] : List (Nat × Word)).map Prod.fst).Nodup ∧
    (∀ x ∈ ([(0, 5), (63, 6)] : List (Nat × Word)), x.1 < 64) := by
  refine ⟨⟨by decide +kernel, by decide, by decide +kernel⟩, ⟨by decide, by decide⟩, by decide, by decide, by decide⟩

/-- A register above V; a pending write of v5 in lane 1; a write of v4, live at the open safe point; a write of v15, which an earlier
load of the group still has to read. -/
def pendGrp : Ctx := { lg with flights := [⟨50, 7, 0, none, .load, 0x54, lf 5 0 0, 2, [⟨1, none, [], 0, false⟩], 2, 5, 1, false, 0, 0, 0, 0, []⟩] }
def liveCls : Clause := { lq with live := some 0xFFFFFFFF, liveRegs := 16 }
def liveGrp : Ctx := { lg with clauses := [liveCls] }
def heldGrp : Ctx := { lg with flights := [⟨50, 7, 0, none, .load, 0x54, lf 5 0 0, 2, [⟨0, some (.here (coreKey 0 3840)), [], 1, false⟩], 1, 5, 1, false,
  0, 0, 0, 0, []⟩] }

theorem meets_LaneResults_faults :
    LaneTurn ls0 lg lq (lf 16 4 5) ∧ (∃ r ∈ (laneSpec 0x01 (lf 16 4 5) 2).reads ++ (laneSpec 0x01 (lf 16 4 5) 2).writes, lg.vregs ≤ r) ∧
    LaneTurn (onLane pendGrp) pendGrp lq (lf 15 4 5) ∧
    pendGrp.unguarded ((laneSpec 0x01 (lf 15 4 5) 2).reads ++ (laneSpec 0x01 (lf 15 4 5) 2).writes) (activeLanes pendGrp lq (lf 15 4 5)) =
      some 1 ∧
    LaneTurn (onLane liveGrp) liveGrp liveCls (lf 4 1 2) ∧
    idempVector liveCls.live liveCls.liveRegs (laneSpec 0x01 (lf 4 1 2) 2).writes = true ∧
    liveGrp.rowHeld (laneSpec 0x01 (lf 4 1 2) 2).writes (activeLanes liveGrp liveCls (lf 4 1 2)) = false ∧
    LaneTurn (onLane heldGrp) heldGrp lq (lf 15 4 3) ∧
    heldGrp.unguarded ((laneSpec 0x01 (lf 15 4 3) 2).reads ++ (laneSpec 0x01 (lf 15 4 3) 2).writes) (activeLanes heldGrp lq (lf 15 4 3)) = none ∧
    heldGrp.rowHeld (laneSpec 0x01 (lf 15 4 3) 2).writes (activeLanes heldGrp lq (lf 15 4 3)) = true := by
  exact ⟨laneTurn_of (spec := laneSpec 0x01 (lf 16 4 5) 2) (by decide), by decide,
    laneTurn_of (spec := laneSpec 0x01 (lf 15 4 5) 2) (by decide), by decide,
    laneTurn_of (spec := laneSpec 0x01 (lf 4 1 2) 2) (by decide), by decide, by decide,
    laneTurn_of (spec := laneSpec 0x01 (lf 15 4 3) 2) (by decide), by decide, by decide⟩

theorem meets_LaneResults_live : activeLanes liveGrp liveCls (lf 4 1 2) ≠ 0 := by decide +kernel

theorem meets_LanesTogether :
    LaneExecutes (laneSpec 0x16 (lf 4 1 2) 2) ls0 lg lq ∧ lg.preds.length = 7 ∧
    LaneExecutes (predSpec 0x18 (lf 7 1 2) (srcReg 1 ++ srcReg 2)) ls0 lg lq ∧ LaneExecutes (predSpec 0x1A (lf 7 1 2) []) ls0 lg lq ∧
    LaneExecutes (predSpec 0x70 (lf 0 0 0) []) ls0 lg lq :=
  ⟨laneExecutes_of (by decide) (by decide), by decide, laneExecutes_of (by decide) (by decide),
    laneExecutes_of (by decide) (by decide), laneExecutes_of (by decide) (by decide)⟩

/-- Source lanes 1 (live) and 2 (absent) by a constant, and the partner of an exclusive or. -/
theorem meets_LanesTogether_shuffle :
    LaneExecutes (shuffleSpec false (lf 4 1 0xF0)) ls0 lg lq ∧ LaneExecutes (shuffleSpec true (lf 4 1 0xF1)) ls0 lg lq ∧
    sourceLane false 0 1 = 1 ∧ lg.deadOrAbsent 1 = false ∧ sourceLane true 0 2 = 2 ∧ lg.deadOrAbsent 2 = true ∧
    poisonAt ls0 (coreKey lg.core (lg.vregOff 1 1)) = false :=
  ⟨laneExecutes_of (by decide) (by decide), laneExecutes_of (by decide) (by decide), by decide, by decide, by decide, by decide, by decide⟩

theorem meets_LanesTogether_votes (m : BitVec 4) (h : m = 0 ∨ m = 1 ∨ m = 2 ∨ m = 3 ∨ m = 4) :
    let f : LaneForm := { lf 4 1 0 with mod := m }
    LaneExecutes { op := 0x42, f := f, reads := srcReg f.a, writes := regRun f.d (if f.mod = 2 then 2 else 1) } ls0 lg lq ∧
    LaneExecutes { op := 0x43, f := f, reads := srcReg f.a, writes := [f.d.toNat] } ls0 lg lq ∧
    LaneExecutes { op := 0x44, f := f, reads := srcReg f.a, writes := [f.d.toNat] } ls0 lg lq := by
  rcases h with rfl | rfl | rfl | rfl | rfl <;>
    exact ⟨laneExecutes_of (by decide) (by decide), laneExecutes_of (by decide) (by decide), laneExecutes_of (by decide) (by decide)⟩

/-- A format block of e4 in the block's scratchpad, and the group that names it by k0, or an address outside by k1. -/
def blockCls : Clause := cls [0xC800, 0x20000] 5
def blockGrp : Ctx := { lg with clauses := [blockCls] }
def blockDev (w : Word) : State :=
  { onLane blockGrp with
    mem := ((offsets (wordBytes w)).filter (fun x => x.2 ≠ 0)).map (fun x => (coreKey 0 (0xC800 + x.1), x.2))
    tags := [(granule (coreKey 0 0xC800), 3)] }
/-- CVT reads its second source for a narrowing destination only (R288). -/
def cvtSpec (f : LaneForm) : LaneSpec :=
  let bs := srcReg f.a ++ (if [3, 4, 7, 8, 9].contains f.ty.toNat then srcReg f.b else [])
  { laneSpec 0x38 f 1 with reads := bs, collects := bs }
def cvtForm (sub : BitVec 7) (b : Reg) : LaneForm := { lf 4 1 b with sub := sub, ty := 4 }
def blockCode (s : State) (b : Reg) : Option Nat := match readBlock s blockGrp blockCls 4 (opnd s blockGrp blockCls (cvtForm 0 b) b 0).toNat with
  | .ok _ => none
  | .error e => some e.1

theorem meets_LanesTogether_convert :
    LaneExecutes (cvtSpec (cvtForm 2 0xF0)) (onLane blockGrp) blockGrp blockCls ∧ (cvtForm 2 0xF0).sub.getLsbD 4 = false ∧
    LaneExecutes (cvtSpec { lf 4 1 0 with ty := 2 }) (onLane blockGrp) blockGrp blockCls ∧
    LaneExecutes (cvtSpec (cvtForm 0x12 0xF0)) (blockDev 4) blockGrp blockCls ∧ (cvtForm 0x12 0xF0).sub.getLsbD 4 = true ∧
    blockCode (blockDev 4) 0xF0 = none ∧ blockCode (blockDev 5) 0xF0 = some FORMAT ∧ blockCode (blockDev 4) 0xF1 = some PERM ∧
    LaneExecutes (cvtSpec (cvtForm 0x12 0xF1)) (blockDev 4) blockGrp blockCls ∧
    LaneExecutes (laneSpec 0x39 { lf 4 1 2 with ty := 4, c := 0xF0 } 2) (blockDev 4) blockGrp blockCls ∧
    LaneExecutes (laneSpec 0x39 { lf 4 1 2 with ty := 4, c := 0xF1 } 2) (blockDev 4) blockGrp blockCls := by
  exact ⟨laneExecutes_of (by decide +kernel) (by decide +kernel), by decide, laneExecutes_of (by decide +kernel) (by decide +kernel),
    laneExecutes_of (by decide +kernel) (by decide +kernel), by decide, by decide +kernel, by decide +kernel, by decide +kernel, laneExecutes_of (by decide +kernel) (by decide +kernel),
    laneExecutes_of (by decide +kernel) (by decide +kernel), laneExecutes_of (by decide +kernel) (by decide +kernel)⟩

/-! ## Lane memory -/

/-- Constants 1, 4 (out of bounds of record 3), 0 and 0x2000; the turn of the lane stream over the mapped page. -/
def mq : Clause := cls [1, 4, 0, 0x2000] 5
def mg : Ctx := { grp with clauses := [mq] }
def ms : State := memDev (.lane 1) [mg, blk]
/-- A word form with this source, third source and SUB. -/
def mf (d a b c : Reg) (sub : BitVec 7) : LaneForm := ⟨d, a, b, c, 0, false, 0, 2, 0, 0, sub, 0⟩
def hitsOf (i : Instr) (s : State) (c : Ctx) (q : Clause) (f : LaneForm) : Option (List (Nat × Hit)) :=
  (formHits i s c q (activeLanes c q f)).map (fun x => x.2.2)
def clear (hs : List (Nat × Hit)) : Bool := hs.all (fun h => match h.2 with
  | .oob => true
  | .ok _ _ _ _ => true
  | _ => false)

/-- Words of record 3, none of it, the scratchpad, another core's scratchpad, a run of the group's own rows; and a local address
outside what the group may touch. -/
theorem meets_LaneLoads :
    let g0 := mf 4 0xF0 0 3 0
    let g1 := mf 4 0xF1 0 3 0
    let g2 := mf 4 0xF2 0 0 2
    let g3 := mf 4 0xF2 0 0 1
    let g4 := mf 4 0xF3 0 0 2
    (LaneExecutes (loadSpec 0x50 g0) ms mg mq ∧ ((hitsOf (.bld g0) ms mg mq g0).map clear) = some true) ∧
    (LaneExecutes (loadSpec 0x50 g1) ms mg mq ∧ hitsOf (.bld g1) ms mg mq g1 = some [(0, .oob), (1, .oob)]) ∧
    (LaneExecutes (loadSpec 0x54 g2) ms mg mq ∧ ((hitsOf (.lld g2) ms mg mq g2).map clear) = some true) ∧
    (LaneExecutes (loadSpec 0x57 g2) ms mg mq ∧ ((hitsOf (.pld g2) ms mg mq g2).map clear) = some true) ∧
    (LaneExecutes (loadSpec 0x59 g3) ms mg mq ∧ ((hitsOf (.vld g3) ms mg mq g3).map clear) = some true) ∧
    LaneExecutes (loadSpec 0x54 g4) ms mg mq ∧ hitsOf (.lld g4) ms mg mq g4 = some [(0, .bad 0 PERM 0), (1, .bad 0 PERM 0)] := by
  refine ⟨⟨laneExecutes_of ?_ ?_, ?_⟩, ⟨laneExecutes_of ?_ ?_, ?_⟩, ⟨laneExecutes_of ?_ ?_, ?_⟩, ⟨laneExecutes_of ?_ ?_, ?_⟩,
    ⟨laneExecutes_of ?_ ?_, ?_⟩, laneExecutes_of ?_ ?_, ?_⟩ <;> decide +kernel

/-- Record 3 begins on a peer's page: the state once BLD or an atomic has asked about its line, with the requests as `fix` makes them. -/
def farDev : State := writeBytes { ms with mem := peerMem } (coreKey 0 0x6462) [1]
def farCheck (i : Instr) (s : State) (f : LaneForm) : Except LAct State := match formHits i s mg mq (activeLanes mg mq f) with
  | some (a, g, hs) => peersChecked i s mg mq a g hs
  | none => .ok s
def farAsked (i : Instr) (f : LaneForm) (fix : Request → Request) : State := match farCheck i farDev f with
  | .error (.wait t) => { t with requests := t.requests.map fix }
  | _ => farDev
/-- Ok; waits; REMOTE in a lane; held for a notice. -/
def farSays (i : Instr) (s : State) (f : LaneForm) : Nat := match farCheck i s f with
  | .ok _ => 0
  | .error (.wait _) => 1
  | .error (.fault _ code l w) => if code = REMOTE ∧ l = some 0 ∧ w = 0 then 2 else 9
  | .error (.remote _ l _) => if l = some 0 then 3 else 9
  | .error _ => 9

theorem meets_LaneLoads_peers :
    let g0 := mf 4 0xF0 0 3 0
    let i : Instr := .bld g0
    ((hitsOf i farDev mg mq g0).map clear) = some true ∧ LaneExecutes (loadSpec 0x50 g0) farDev mg mq ∧ farSays i farDev g0 = 1 ∧
    LaneExecutes (loadSpec 0x50 g0) (farAsked i g0 id) mg mq ∧ farSays i (farAsked i g0 id) g0 = 1 ∧
    farSays i (farAsked i g0 (fun r => { r with answer := some [] })) g0 = 0 ∧
    farSays i (farAsked i g0 (fun r => { r with failed := true })) g0 = 2 ∧
    farSays i (farAsked i g0 (fun r => { r with retry := true })) g0 = 3 ∧
    farSays (.lld (mf 4 0xF2 0 0 2)) ms (mf 4 0xF2 0 0 2) = 0 := by
  refine ⟨?_, laneExecutes_of ?_ ?_, ?_, laneExecutes_of ?_ ?_, ?_⟩ <;> decide +kernel

/-- The ends of the group's own rows, and a byte that a word does not divide. -/
theorem meets_LaneLoads_local :
    allocOf mg 0 0x1000 4 = none ∧ ((allocOf mg 0 0xFFC 4).map Alloc.policy) = some false ∧ 0xFFC % 4 = 0 ∧
    (allocOf mg 0 0xFFA 4).isSome = true ∧ 0xFFA % 4 ≠ 0 := by decide

def buffered (s : State) (c : Ctx) (f : LaneForm) (asid g : BitVec 16) (hs : List (Nat × Hit)) : Option Ctx :=
  bufferStore c f.scope f.releases asid g ((storedBytes s c f false hs).flatMap (fun a =>
    elementBytes a.1 a.2.1 (if a.2.2.1 = 0 then none else some a.2.2.1) a.2.2.2))
def storeCase (i : Instr) (s : State) (c : Ctx) (f : LaneForm) : Option (Bool × Bool × Bool) :=
  (formHits i s c mq (activeLanes c mq f)).map (fun x =>
    (clear x.2.2, (storedBytes s c f true x.2.2).isEmpty, (buffered s c f x.1 x.2.1 x.2.2).isSome))
/-- The same group with a full store buffer, and with a load of its own rows outstanding. -/
def mgFull : Ctx := { mg with rsb := fullRsb }
def mgBusy : Ctx := { mg with flights := [⟨50, 7, 0, none, .load, 0x54, mf 9 0 0 0 1, 2, [⟨0, some (.here 73786976294838206464), [], 1, false⟩], 1, 9, 1, false,
  0, 0, 0, 0, []⟩] }

/-- Stores to record 3, to the scratchpad by its own and by a peer form, and to own rows, each lane's and as a run. -/
theorem meets_LaneStores :
    let g0 := mf 4 0xF0 0 3 0
    let g2 := mf 4 0xF2 0 0 2
    let g3 := mf 4 0xF2 0 0 1
    (LaneExecutes (storeSpec 0x51 g0) ms mg mq ∧ storeCase (.bst g0) ms mg g0 = some (true, true, true)) ∧
    (LaneExecutes (storeSpec 0x55 g2) ms mg mq ∧ storeCase (.lst g2) ms mg g2 = some (true, true, true)) ∧
    (LaneExecutes (storeSpec 0x58 g2) ms mg mq ∧ storeCase (.pst g2) ms mg g2 = some (true, true, true)) ∧
    (LaneExecutes (storeSpec 0x5A g3) ms mg mq ∧ storeCase (.vst g3) ms mg g3 = some (true, false, true)) ∧
    (LaneExecutes (storeSpec 0x55 g3) ms mg mq ∧ storeCase (.lst g3) ms mg g3 = some (true, false, true) ∧ g3.releases = false) ∧
    (LaneExecutes (storeSpec 0x55 g2) (memDev (.lane 1) [mgFull, blk]) mgFull mq ∧
      storeCase (.lst g2) (memDev (.lane 1) [mgFull, blk]) mgFull g2 = some (true, true, false)) ∧
    LaneExecutes (storeSpec 0x55 g3) (memDev (.lane 1) [mgBusy, blk]) mgBusy mq ∧
      storeCase (.lst g3) (memDev (.lane 1) [mgBusy, blk]) mgBusy g3 = some (true, false, true) ∧
      mgBusy.accessPending (.here (coreKey 0 0)) 4 = true ∧
    (let g4 : LaneForm := { g3 with sub := 0x41, scope := 4 }
     LaneExecutes (storeSpec 0x55 g4) ms mg mq ∧ storeCase (.lst g4) ms mg g4 = some (true, false, true) ∧ g4.releases = true ∧
       relDone ms mg 4 = false ∧ relDone { ms with time0 := 1 } mg 4 = true) := by
  refine ⟨⟨laneExecutes_of ?_ ?_, ?_⟩, ⟨laneExecutes_of ?_ ?_, ?_⟩, ⟨laneExecutes_of ?_ ?_, ?_⟩, ⟨laneExecutes_of ?_ ?_, ?_⟩,
    ⟨laneExecutes_of ?_ ?_, ?_, ?_⟩, ⟨laneExecutes_of ?_ ?_, ?_⟩, laneExecutes_of ?_ ?_, ?_, ?_, laneExecutes_of ?_ ?_, ?_⟩ <;>
    decide +kernel

/-- A relaxed atomic, and a releasing one before and after its steps are done; an absent page; prefetches. -/
def isPage : Option LAct → Bool
  | some (.page _ _ _) => true
  | _ => false
def absentRec : State :=
  { ms with mem := memCells ++ ([(0x64A1, 1), (0x64A4, 3), (0x64A6, 0x20), (0x64A8, 4), (0x64AC, 4)] : List (Nat × Byte)).map (fun x => (coreKey 0 x.1, x.2)) }
def pageFound : Bool :=
  match formHits (.batom (mf 4 0xF0 0xF0 5 0)) absentRec mg mq (activeLanes mg mq (mf 4 0xF0 0xF0 5 0)) with
  | some (a, g, hs) => isPage (laneChecks absentRec mg mq true a g hs)
  | none => false
def recOk (s : State) (n : Reg) : Option Bool := match bufferSpecCheck s mg mq (mf 4 0xF0 0 n 0) false false 4 with
  | .ok r => some r.vault
  | .error _ => none

theorem meets_LaneAtomics_peers :
    let a0 : LaneForm := { mf 4 0xF0 0xF1 3 0 with mod := 0 }
    let i : Instr := .batom a0
    let st : Instr := .bst (mf 4 0xF0 0 3 0)
    LaneExecutes (atomSpec 0x52 a0) (farAsked i a0 (fun r => { r with retry := true })) mg mq ∧
    farSays i (farAsked i a0 (fun r => { r with retry := true })) a0 = 3 ∧
    farSays i (farAsked i a0 (fun r => { r with answer := some [] })) a0 = 0 ∧
    farSays st (farAsked st (mf 4 0xF0 0 3 0) (fun r => { r with answer := some [] })) (mf 4 0xF0 0 3 0) = 0 := by
  refine ⟨laneExecutes_of ?_ ?_, ?_⟩ <;> decide +kernel

theorem meets_LaneAtomics :
    let a0 : LaneForm := { mf 4 0xF0 0xF1 3 0 with mod := 0 }
    let a1 : LaneForm := { mf 4 0xF2 6 0 2 with mod := 9 }
    let a2 : LaneForm := { mf 4 0xF2 0xF1 0 0x42 with mod := 0, scope := 4 }
    (LaneExecutes (atomSpec 0x52 a0) ms mg mq ∧ ((hitsOf (.batom a0) ms mg mq a0).map clear) = some true ∧ a0.releases = false) ∧
    (LaneExecutes (atomSpec 0x56 a1) ms mg mq ∧ ((hitsOf (.latom a1) ms mg mq a1).map clear) = some true) ∧
    (LaneExecutes (atomSpec 0x56 a2) ms mg mq ∧ ((hitsOf (.latom a2) ms mg mq a2).map clear) = some true ∧ a2.releases = true ∧
      relDone ms mg 4 = false ∧ relDone { ms with time0 := 1 } mg 4 = true) ∧
    LaneExecutes (atomSpec 0x52 (mf 4 0xF0 0xF0 5 0)) absentRec mg mq ∧ pageFound = true := by
  refine ⟨⟨laneExecutes_of ?_ ?_, ?_, ?_⟩, ⟨laneExecutes_of ?_ ?_, ?_⟩, ⟨laneExecutes_of ?_ ?_, ?_, ?_, ?_, ?_⟩, laneExecutes_of ?_ ?_, ?_⟩ <;>
    decide +kernel

theorem meets_LaneAtomics_prefetch :
    let spec (n : Reg) : LaneSpec := { op := 0x53, f := mf 4 0xF0 0 n 0, reads := srcReg 0xF0, writes := [] }
    LaneExecutes (spec 3) ms mg mq ∧ LaneExecutes (spec 4) ms mg mq ∧ recOk ms 3 = some false ∧ recOk ms 4 = some true := by
  refine ⟨laneExecutes_of ?_ ?_, laneExecutes_of ?_ ?_, ?_, ?_⟩ <;> decide +kernel

/-- A write waits at the home of its line; its line is a peer's, not asked for, asked for, and answered. -/
theorem meets_LaneAtomics_prefetch_waits :
    let f := mf 4 0xF0 0 3 0
    let hits (s : State) : List (Nat × Hit) := (bufferSpecCheck s mg mq f false false 4).toOption.elim [] (fun r =>
      bpfHits s mg mq f r (activeLanes mg mq f))
    let s1 : State := { ms with homeQ := [⟨60, .here 0x802, [(0, 1)], 0, none, none, 0, false, none, none, none, none, true, false⟩] }
    let asked (s : State) := askedLines s mg (trapPcOf true mq.at) (.prefetch false) (peerLines [] (hits s))
    let far : State := askLines farDev mg (trapPcOf true mq.at) (.prefetch false) 0 0 (peerLines [] (hits farDev))
    let back : State := { far with requests := far.requests.map (fun r => { r with answer := some [] }) }
    (hitLines (hits s1)).any (homeHeld s1 mg) = true ∧ (hitLines (hits ms)).all (fun l => !homeHeld ms mg l) = true ∧
    (peerLines [] (hits farDev)).length = 1 ∧ (asked farDev).length = 0 ∧ (asked far).length = 1 ∧
    (asked far).all Request.answered = false ∧ (asked back).length = 1 ∧ (asked back).all Request.answered = true ∧
    (hitLines (hits back)).all (fun l => !homeHeld back mg l) = true := by decide +kernel

/-- A clause that has not started at a lane word of the mapped page: a legal header, an illegal one, one at the section's end. -/
def freshCls (off : BitVec 16) : Clause := { mq with off := off, started := false, head := 0, count := 0, next := 0 }
def freshGrp (off : BitVec 16) : Ctx := { mg with clauses := [freshCls off] }
def headDev (off : BitVec 16) (cells : List (Nat × Byte)) : State :=
  { memDev (.event (.clauseHead 1)) [freshGrp off, blk] with mem := memCells.take 8 ++ cells ++ memCells.drop 8 }
def headWords (s : State) (c : Ctx) (off : Nat) : Option (List Word) := (laneWords s c off [0, 1, 2]).toOption

theorem meets_LaneStream :
    (getCtx (headDev 0 []) 1 = some (freshGrp 0) ∧ (freshGrp 0).headClause = some (freshCls 0) ∧ (freshCls 0).started = false ∧
      (freshGrp 0).lanesRun = true ∧ powered (headDev 0 []) = true ∧ headWords (headDev 0 []) (freshGrp 0) 0 = some [0, 0, 0] ∧
      (clauseW1 (headDev 0 []) (freshGrp 0) 1 1).toOption = some [0] ∧ headerIllegal 0 0 0 0 [0] = true) ∧
    (headerIllegal 0 0x0000FF00 0 0 [0] = false ∧ bits (0x0000FF00 : Word) 31 28 + 1 = 1 ∧
      ((laneWords { headDev 0 [] with mem := memCells.take 8 ++ [(0x40401, 0xFF)] } (freshGrp 0) 0 [0, 1, 2]).toOption) = some [0xFF00, 0, 0]) ∧
    (freshGrp 0xFFFF).headClause = some (freshCls 0xFFFF) ∧ (0xFFFF : BitVec 16).toNat = 65535 ∧ 65536 < 65535 + 1 + 1 ∧
    headWords (headDev 0xFFFF [(0x30060, 0x11), (0x30062, 4)]) (freshGrp 0xFFFF) 65535 = some [0, 0, 0] := by decide +kernel

/-- Lane 0's word load of the block's scratchpad; the same behind an acquiring load; with no access left. -/
def ldFlight : Flight := ⟨50, 7, 0, some 3, .load, 0x54, mf 4 0xF2 0 0 2, 2, [⟨0, some (.here (coreKey 0 51200)), [], 3, false⟩], 1, 4, 1, false, 0, 0, 0, 0, []⟩
def acqFlight : Flight := { ldFlight with id := 40, acq := true }
def doneFlight : Flight := { ldFlight with accs := [], pend := 0 }
/-- Lanes 0 and 2 of a buffer load in one line, lane 1 in another. -/
def bldFlight : Flight := ⟨50, 7, 0, some 3, .load, 0x50, mf 4 0xF2 0 0 2, 2,
  [⟨0, some (.here 0x40100), [], 3, false⟩, ⟨1, some (.here 0x40180), [], 3, false⟩, ⟨2, some (.here 0x40104), [], 3, false⟩], 7, 4, 1, false, 0, 0, 0, 0, []⟩
def flyGrp (fs : List Flight) : Ctx := { mg with flights := fs, flags := [(3, 1)] }
def flyDev (fs : List Flight) : State := memDev (.event (.laneCompletion 1 50 1)) [flyGrp fs, blk]
def firstAcc (f : Flight) : LaneAcc := f.accs.headD default

theorem meets_LaneStream_loads :
    getCtx (flyDev [ldFlight]) 1 = some (flyGrp [ldFlight]) ∧
    (flyGrp [ldFlight]).flights.find? (fun f => f.id == 50) = some ldFlight ∧
    ldFlight.accs.find? (fun a => a.lane == 0) = some (firstAcc ldFlight) ∧ ldFlight.kind = .load ∧ powered (flyDev [ldFlight]) = true ∧
    mayAccess (flyGrp [ldFlight]) ldFlight (firstAcc ldFlight) = true ∧
    gotBytes (loadElement (flyDev [ldFlight]) (flyGrp [ldFlight]) ldFlight (firstAcc ldFlight)) = some [0, 0, 0, 0] ∧
    mayAccess (flyGrp [acqFlight, ldFlight]) ldFlight (firstAcc ldFlight) = false ∧
    ldFlight.together (firstAcc ldFlight) = [firstAcc ldFlight] ∧
    (bldFlight.together (firstAcc bldFlight)).map LaneAcc.lane = [0, 2] ∧
    (bldFlight.together (firstAcc bldFlight)).all (mayAccess (flyGrp [bldFlight]) bldFlight) = true ∧
    (bldFlight.together (firstAcc bldFlight)).all (fun a =>
      (gotBytes (loadElement (flyDev [bldFlight]) (flyGrp [bldFlight]) bldFlight a)).isSome) = true ∧
    (flyGrp [acqFlight, ldFlight]).flights.find? (fun f => f.id == 50) = some ldFlight ∧
    getCtx (flyDev [doneFlight]) 1 = some (flyGrp [doneFlight]) ∧ doneFlight.accs = [] ∧ sparseWf 0 (flyGrp [doneFlight]).flags = true ∧
    (flyGrp [doneFlight]).flights.find? (fun f => f.id == 50) = some doneFlight := by decide +kernel

def rmwFlight : Flight := ⟨50, 7, 0, none, .atomic, 0x52, { mf 4 0xF0 0xF1 3 0 with mod := 0 }, 2,
  [⟨0, some (.here 0x40104), [], 0, false⟩, ⟨1, some (.here 0x40104), [], 0, false⟩], 3, 4, 1, false, 0, 0, 0, 0, [(0, 4, 0), (1, 4, 0)]⟩
theorem meets_LaneStream_atomics :
    getCtx (flyDev [rmwFlight]) 1 = some (flyGrp [rmwFlight]) ∧ (flyGrp [rmwFlight]).flights.find? (fun f => f.id == 50) = some rmwFlight ∧
    rmwFlight.accs.find? (fun a => a.lane == 0) = some (firstAcc rmwFlight) ∧ rmwFlight.kind = .atomic ∧ powered (flyDev [rmwFlight]) = true ∧
    mayAccess (flyGrp [rmwFlight]) rmwFlight (firstAcc rmwFlight) = true ∧ (firstAcc rmwFlight).place = some (.here 0x40104) ∧
    oldWord (atHome (flyDev [rmwFlight]) (flyGrp [rmwFlight]) (.lane 1 50 0) 0 0 0 0x40104) = some 5 := by decide +kernel

/-! ## The matrix array -/

/-- The block holds four weight slots, the group 8 tiles under generation 4; k0 is 1. -/
def xq : Clause := cls [1, 0, 0, 0] 5
def xg : Ctx := { grp with clauses := [xq], tiles := 8, tileGen := 4 }
def xb : Ctx := { blk with wslots := 4 }
def xCore : Core := { core0 with tileRuns := [⟨0, 8, 4, 6, false, 1⟩], slotRuns := [⟨0, 4, 0, 7, false, 2⟩] }
/-- Pairs at 0xC800 (RNS-8 without scales), 0xC840 (with scale bytes at 0xC900), and 0xC880 (no format at all). -/
def pairCells : List (Nat × Byte) :=
  ([(0xC800, 9), (0xC802, 1), (0xC820, 9), (0xC822, 1), (0xC840, 9), (0xC845, 0xC9), (0xC860, 9), (0xC865, 0xC9), (0xC900, 0x7F)] :
    List (Nat × Byte)).map (fun x => (coreKey 0 x.1, x.2))
def xs (c : Ctx) : State :=
  setCore { dev (.lane 1) [c, xb] with
    mem := pairCells
    tags := [(granule (coreKey 0 0xC800), 3), (granule (coreKey 0 0xC840), 3), (granule (coreKey 0 0xC900), 3)] } 0 xCore
/-- MMA on tile d with A in v[a] on and this w2. -/
def xf (d a : Reg) (w : Word) : LaneForm := ⟨d, a, 0, 0, 0, false, 0, 0, 0, 0, 0, w⟩
def pairOf (c : Ctx) (f : LaneForm) : Option (List Byte) := (readPair (xs c) c xq f).toOption
def pairCode (c : Ctx) (f : LaneForm) : Option Nat := match readPair (xs c) c xq f with
  | .ok _ => none
  | .error e => some e.1
def xPend : Ctx := { xg with flights := [⟨50, 7, 0, none, .load, 0x54, lf 5 0 0, 2, [⟨1, none, [], 0, false⟩], 2, 5, 1, false, 0, 0, 0, 0, []⟩] }

/-- A sound MMA, without and with scale bytes; no pair, a bad pair; A past v239, past V, pending; the tile and the slots past
the runs. -/
theorem meets_MatrixIssue :
    (∀ f, f = xf 7 0 0x320 ∨ f = xf 0 0 0x321 ∨ f = xf 0 0 0x322 ∨ f = xf 0 0 0xFFFF ∨ f = xf 0 1 0x320 ∨ f = xf 8 0 0x320 ∨
      f = xf 0 0 0x10320 → LaneTurn (xs xg) xg xq f ∧ f.a.toNat < xg.vregs) ∧
    LaneTurn (xs { xg with vregs := 240 }) { xg with vregs := 240 } xq (xf 0 0xEF 0x320) ∧ LaneTurn (xs xPend) xPend xq (xf 0 0 0x320) ∧
    xg.core < (xs xg).cores.length ∧ xg.reissue = [] ∧ xg.engineCount 1 < 63 := by
  refine ⟨?_, laneTurn_of (spec := mmaSpec (xf 0 0xEF 0x320)) (by decide), laneTurn_of (spec := mmaSpec (xf 0 0 0x320)) (by decide),
    by decide +kernel, by decide, by decide⟩
  rintro f (rfl | rfl | rfl | rfl | rfl | rfl | rfl) <;> exact ⟨laneTurn_of (spec := mmaSpec _) (by decide), by decide⟩

def pairFmt (f : LaneForm) : Option (Nat × Bool × Nat) :=
  (pairOf xg f).map (fun p => (familyRegs (family (pairA p).fmt), (pairA p).noscale, bSlots (family (pairB p).fmt) (pairB p).comp))
def scalesRead (f : LaneForm) : Bool := match pairOf xg f with
  | some p => ((scaleBytes (xs xg) xg xq.pols (scaleAddrs (pairA p) 64 (lanesOf (activeLanes xg xq f)))).toOption).isSome &&
      ((scaleBytes (xs xg) xg xq.pols (scaleAddrs (pairB p) 64 (List.range 64))).toOption).isSome
  | none => false

theorem meets_MatrixIssue_cases :
    pairFmt (xf 7 0 0x320) = some (16, true, 4) ∧ pairFmt (xf 0 0 0x321) = some (16, false, 4) ∧
    pairCode xg (xf 0 0 0x322) = some FORMAT ∧ pairCode xg (xf 0 0 0xFFFF) = some PERM ∧
    octets (activeLanes xg xq (xf 7 0 0x320)) = [0] ∧ activeLanes xg xq (xf 7 0 0x320) ≠ 0 ∧
    (blockOf (xs xg) xg).map Ctx.wslots = some 4 ∧ bits (xf 0 0 0x10320).imm 23 16 + 4 = 5 ∧
    0xEF < (0xEF : Reg).toNat + 16 - 1 ∧ xg.vregs < 1 + 16 ∧
    xPend.unguarded (regRun 0 16) (activeLanes xPend xq (xf 0 0 0x320)) = some 1 ∧
    xg.unguarded (regRun 0 16) (activeLanes xg xq (xf 0 0 0x320)) = none ∧
    ((lanesOf (activeLanes xg xq (xf 0 0 0x320))).all (fun l => (regRun 0 16).all (fun r => !poisonAt (xs xg) (coreKey 0 (xg.vregOff r l))))) = true ∧
    xq.pols.getLsbD 0 = false ∧ matrixFull (xs xg) 0 8 = false := by decide +kernel

/-- A queue with room for one operation and no more, and a context whose counter stands at 63. -/
theorem meets_MatrixIssue_full :
    let full (n : Nat) : State := setCore (xs xg) 0 { xCore with matq := List.replicate n { (default : MatOp) with id := 7 } }
    matrixFull (full 255) 0 1 = false ∧ matrixFull (full 255) 0 2 = true ∧ matrixFull (full 256) 0 1 = true ∧
    LaneTurn (full 256) xg xq (xf 0 0 0x320) ∧
    ({ xg with engines := List.replicate 63 (1, 9) } : Ctx).engineCount 1 = 63 := by
  exact ⟨by decide +kernel, by decide +kernel, by decide +kernel, laneTurn_of (spec := mmaSpec (xf 0 0 0x320)) (by decide +kernel), by decide⟩

theorem meets_MatrixIssue_scales : scalesRead (xf 0 0 0x321) = true := by decide +kernel

theorem meets_MatrixIssue_tiles :
    (∀ f, f = lf 0 7 0 ∨ f = lf 0 8 0 → LaneExecutes { op := 0x61, f := f, reads := [], writes := regRun f.d 16 } (xs xg) xg xq) ∧
    (∀ f, f = lf 7 0 0 ∨ f = lf 8 0 0 → LaneExecutes { op := 0x62, f := f, reads := regRun f.a 16, writes := [] } (xs xg) xg xq) ∧
    (∀ f, f = xf 0 0 7 ∨ f = xf 0 0 8 ∨ f = { xf 0 0 7 with neg := true } →
      LaneExecutes { op := 0x63, f := f, reads := [], writes := [] } (xs xg) xg xq) ∧
    activeLanes xg xq { xf 0 0 7 with neg := true } = 0 ∧ xg.tiles = 8 ∧ bits (xf 0 0 7).imm 7 0 + 1 = 8 := by
  refine ⟨?_, ?_, ?_, by decide, by decide, by decide⟩
  · rintro f (rfl | rfl) <;> exact laneExecutes_of (by decide) (by decide +kernel)
  · rintro f (rfl | rfl) <;> exact laneExecutes_of (by decide) (by decide +kernel)
  · rintro f (rfl | rfl | rfl) <;> exact laneExecutes_of (by decide) (by decide +kernel)

/-- Operations on tile 0: by opcode, started or not. -/
def xPair : List Byte := [9, 0, 1] ++ List.replicate 29 0 ++ [9, 0, 1] ++ List.replicate 29 0
def fPair : List Byte := [7, 0, 1] ++ List.replicate 29 0 ++ [7, 0, 1] ++ List.replicate 29 0
def mop (opcode : Nat) (started : Bool) : MatOp :=
  ⟨60, 1, opcode, 50, 0, 0, 0, 0, 3, false, 2, 0, xPair, [], [], [[1], [2]], [], none, 0, 0, 4, false, 0, some 60, started, 0⟩
def xd (q : List MatOp) (t : Tile) : State :=
  { setCore (xs xg) 0 { xCore with matq := q, tileState := sput ⟨0, false, 0⟩ [] 0 t } with turn := .event (.octetStart 0 0) }
def wait : MatOp := { mop 0x60 false with delivery := none }

/-- An ACCZ stands before an MMA of its tile, and before one of another tile. -/
theorem meets_MatrixUnit_accz :
    mayStart (xd [mop 0x63 false, mop 0x60 false] ⟨0, false, 0⟩) 0 1 (mop 0x60 false) = false ∧
    mayStart (xd [{ mop 0x63 false with tile := 1 }, mop 0x60 false] ⟨0, false, 0⟩) 0 1 (mop 0x60 false) = true := by decide

theorem meets_MatrixUnit :
    (getCore (xd [wait] ⟨0, false, 0⟩) 0).matq[0]? = some wait ∧ powered (xd [wait] ⟨0, false, 0⟩) = true ∧
    versionMet (xd [wait] ⟨0, false, 0⟩) 0 wait = true ∧ loadCovers (xd [wait] ⟨0, false, 0⟩) 0 wait = false ∧
    fuses wait { wait with id := 61, tile := 1 } = true ∧ fuses wait { wait with id := 61, tile := 1, loads := 1 } = false ∧
    (∀ o, o = 0x60 ∨ o = 0x61 ∨ o = 0x62 → mayStart (xd [mop o false] ⟨0, false, 0⟩) 0 0 (mop o false) = true) ∧
    openBad (tileOf (xd [mop 0x60 false] ⟨0, true, 8⟩) 0 0) (mop 0x60 false) = true ∧
    mayStart (xd [mop 0x60 false] ⟨0, true, 8⟩) 0 0 (mop 0x60 false) = true ∧
    openBad (tileOf (xd [mop 0x60 false] ⟨0, true, 7⟩) 0 0) (mop 0x60 false) = false ∧
    (∀ l ∈ octetLanes (mop 0x61 false), tilePoison (xd [mop 0x61 false] ⟨0, false, 0⟩) 0 (mop 0x61 false) (4 * (l % 8)) = false) ∧
    (mop 0x60 true).started = true ∧ (mop 0x61 true).policy = false := by
  refine ⟨by decide, by decide, by decide, by decide, by decide, by decide, ?_, by decide, by decide, by decide, by decide, by decide, by decide⟩
  rintro o (rfl | rfl | rfl) <;> decide

theorem meets_MatrixUnit_performs :
    let s := xd [mop 0x60 true] ⟨0, false, 0⟩
    let late : State := { s with cores := Core.reset :: s.cores.tail }
    let sick : State := { s with tags := s.tags ++ [(granule (tileKey 0 0 0), 4)], poison := [granule (tileKey 0 0 0)] }
    s.canonical ∧ sparseWf ⟨0, false, 0⟩ (getCore s 0).tileState = true ∧ 0 < s.cores.length ∧
    tileHeld s 0 (mop 0x60 true) = true ∧ (mop 0x60 true).bad = none ∧
    ((List.range 32).all (fun g => !tilePoison s 0 (mop 0x60 true) g)) = true ∧
    (pairA xPair).noscale = true ∧ (pairA xPair).fmt = 9 ∧ (pairA fPair).fmt = 7 ∧
    tileHeld late 0 (mop 0x60 true) = false ∧ sick.canonical ∧ tilePoison sick 0 (mop 0x60 true) 0 = true := by
  refine ⟨⟨by decide +kernel, by decide +kernel⟩, by decide, by decide +kernel, by decide, by decide, by decide +kernel, by decide,
    by decide, by decide, by decide, ⟨by decide +kernel, by decide +kernel⟩, by decide +kernel⟩

theorem meets_MatrixUnit_sums : ({ mop 0x60 true with close := true } : MatOp).close = true ∧ (mop 0x60 true).close = false := by decide

/-- An operation that found an error in its second slot, and started ones whose churn runs on their core. -/
theorem meets_MatrixUnit_errors :
    let bad : MatOp := { mop 0x60 true with bad := some 1 }
    let s : State := { xd [mop 0x62 false] ⟨0, false, 0⟩ with churn := some ⟨0, 0, [0, 5]⟩ }
    tileHeld (xd [bad] ⟨0, false, 0⟩) 0 bad = true ∧ bad.bad ≠ none ∧ mayStart s 0 0 (mop 0x62 false) = true ∧
    (leaveChurn s 0).churn ≠ s.churn := by decide +kernel

/-! ## Homes, address spaces, replays -/

/-- Two writes on one line, the first due at 8 and the second at 9. -/
def hw (id due : Nat) : HomeWrite := ⟨id, .here 0x802, [(4, 7), (127, 8)], 0, some 1, none, due, false, none, none, none, none, true, false⟩
def hwDev (t : Nat) (q : List HomeWrite) : State := { memDev (.event (.homeWrite 0)) [grp, blk] with time0 := t, homeQ := q }

theorem meets_HomesPerformWrites :
    let s := hwDev 8 [hw 60 8, hw 61 9]
    s.canonical ∧ s.homeQ[0]? = some (hw 60 8) ∧ s.homeQ[1]? = some (hw 61 9) ∧ powered s = true ∧ (hw 60 8).hold = none ∧
    ((hw 60 8).bytes.map Prod.fst).Nodup ∧ s.ops = [] ∧ (∃ x ∈ s.homeQ.take 1, x.line = (hw 61 9).line) ∧
    (hw 60 8).due ≤ lineTime s (.here 0x802) ∧ lineTime (hwDev 7 [hw 60 8]) (.here 0x802) < (hw 60 8).due ∧
    getCtx s grp.id = some grp ∧ memoryUp s = true ∧ (hw 60 8).op = none ∧ (hw 60 8).gen = none ∧ (hw 60 8).arrived = true ∧
    (let u := hwDev 8 [hw 60 8, { hw 61 0 with arrived := false }, { hw 62 0 with arrived := false }]
     (∀ x ∈ u.homeQ.take 1, x.line = .here 0x802 → x.arrived = true) ∧
       ∃ x ∈ u.homeQ.take 2, x.line = .here 0x802 ∧ x.arrived = false) := by
  refine ⟨⟨by decide +kernel, by decide +kernel⟩, ?_⟩
  decide +kernel

/-- Writes on their way: behind another of their lane, and behind none; with and without a lease horizon. -/
theorem meets_HomesPerformWrites_arrival :
    let w (id line : Nat) : HomeWrite := { hw id 0 with line := .here line, arrived := false }
    let s := hwDev 8 [w 60 0x802, w 61 0x802, w 62 0x803]
    s.homeQ[1]? = some (w 61 0x802) ∧ (∃ x ∈ s.homeQ, x.id < 61 ∧ x.arrived = false ∧ sameLane x (w 61 0x802) = true) ∧
    s.homeQ[2]? = some (w 62 0x803) ∧ (∀ x ∈ s.homeQ, x.id < 62 → x.arrived = false → sameLane x (w 62 0x803) = false) ∧
    sget 0 s.horizons 0x803 = 0 ∧ sget 0 { s with horizons := [(0x803, 9)] }.horizons 0x803 ≠ 0 ∧ memoryUp s = true := by decide +kernel

/-- A dirty line with an uncorrectable half. -/
theorem meets_HomesPerformWrites_bad :
    let x : Line := { line1 with bad := 1 }
    let s := setCore (hwDev 0 []) 3 { Core.reset with lines := [x] }
    (getCore s 3).lines[0]? = some x ∧ x.pinned = false ∧ x.dirty ≠ 0 ∧ (x.dirtyBytes.any (fun b => b.1 / 64 = 0)) = true ∧
    x.bad.getLsbD 0 = true ∧ x.bad.getLsbD 1 = false ∧ powered s = true := by decide +kernel

theorem meets_HomesPerformWrites_lines :
    let s := setCore (hwDev 0 []) 3 { Core.reset with lines := [line1, { line1 with line := .here 9, dirty := 0 }, { line1 with pinned := true }] }
    (getCore s 3).lines[0]? = some line1 ∧ line1.pinned = false ∧ line1.dirty ≠ 0 ∧ (getCore s 3).lines[1]?.map Line.dirty = some 0 ∧
    (getCore s 3).lines[2]?.map Line.pinned = some true ∧ powered s = true ∧ 3 < s.cores.length ∧
    sparseWf (0, false) ([(8, (3, true))] : Sparse (Nat × Bool)) = true := by decide +kernel

theorem meets_HomesPerformWrites_tags :
    let s := setCore (memDev (.event (.skim 0)) []) 0 { core0 with rewriting := [8191], skim := [2, 5] }
    s.canonical ∧ 8191 ∈ (getCore s 0).rewriting ∧ 0 < s.cores.length ∧ powered s = true ∧ (getCore s 0).skim = 2 :: [5] ∧
    sparseWf (0, false) ([(8, (256, true))] : Sparse (BitVec 16 × Bool)) = true := by
  refine ⟨⟨by decide +kernel, by decide +kernel⟩, ?_⟩
  decide +kernel

/-- A skim of a vault whose only unit is owned under another value, and of a core whose tile is owned under the value itself. -/
theorem meets_HomesPerformWrites_skims :
    let s := setCore (setVault (memDev (.event (.skim 239)) []) 47 { Vault.reset with units := [⟨0, 1, 6, 2, false, 9⟩], skim := [5, 6] }) 0
      { core0 with tileRuns := [⟨0, 8, 4, 6, false, 1⟩], skim := [4] }
    s.canonical ∧ 47 < s.vaults.length ∧ (getVault s 47).skim = 5 :: [6] ∧ ownerGen (getVault s 47).units 0 ≠ 5 ∧
    (getCore s 0).skim = 4 :: [] ∧ ownerGen (getCore s 0).tileRuns 7 = 4 ∧ ownerGen (getCore s 0).tileRuns 8 ≠ 4 ∧ powered s = true := by
  refine ⟨⟨by decide +kernel, by decide +kernel⟩, ?_⟩
  decide +kernel

/-- A unit at the end of the units that a share of 12 leaves, and one past it. -/
theorem meets_HomesPerformWrites_shares :
    let v (n : Nat) : State := setVault (memDev (.event (.skim 0)) []) 47 { Vault.reset with units := [⟨0, n, 6, 0, false, 9⟩] }
    47 < (v 64).vaults.length ∧ 12 ∈ [0, 4, 8, 12] ∧ powered (v 64) = true ∧
    (∀ r ∈ (getVault (v 64) 47).units, r.first + r.count ≤ (16 - max (getVault (v 64) 47).share 12) * 16) ∧
    (∃ r ∈ (getVault (v 65) 47).units, (16 - max (getVault (v 65) 47).share 12) * 16 < r.first + r.count) := by decide +kernel

/-- 1 ns before the first halving is due, and at that time. -/
theorem meets_HomesPerformWrites_halving :
    ({ State.reset with time0 := 1023999 } : State).time0 < State.reset.halveAt ∧ State.reset.halveAt ≤ ({ State.reset with time0 := 1024000 } : State).time0 := by
  decide

/-- Units of a vault for a region: none free, the lowest free ones, and none asked for. -/
theorem meets_HomesPerformWrites_regions :
    let s := setVault { memDev (.event (.skim 0)) [] with nodes := [⟨0x5000, 0, [], 0, 0, 0, 0, false, 0, 0, []⟩] } 47
      { Vault.reset with units := [⟨0, 255, 6, 0, false, 9⟩] }
    (getNode s 0x5000).isSome = true ∧ 47 < s.vaults.length ∧ (2 : DWord).toNat ≠ 0 ∧ (getVault s 47).issueReady 1 = true ∧
    freeVault (getVault s 47) 1 = some 255 ∧ freeVault (getVault s 47) 2 = none := by decide +kernel

/-- Space 0 unmarked, marked with a write of its on the way, with a dirty line, and quiet. -/
def spaceDev (marked : Bool) (q : List HomeWrite) (ls : List Line) : State :=
  { setCore (hwDev 8 q) 3 { Core.reset with lines := ls } with changing := if marked then [0] else [] }

theorem meets_SpacesAndReplays :
    let w : HomeWrite := { hw 60 8 with space := some 0 }
    (0 : BitVec 16) ∉ (spaceDev false [] []).changing ∧ (0 : BitVec 16) ∈ (spaceDev true [w] []).changing ∧
    spaceQuiet (spaceDev true [w] []) 0 = false ∧ spaceQuiet (spaceDev true [] [{ line1 with asid := 0, mapgen := 0 }]) 0 = true ∧
    dirtyLines (spaceDev true [] [{ line1 with asid := 0, mapgen := 0 }]) 0 ≠ [] ∧
    spaceQuiet (spaceDev true [] []) 0 = true ∧ dirtyLines (spaceDev true [] []) 0 = [] ∧
    powered (spaceDev true [] []) = true := by decide +kernel

/-- Page 1 of the space in host memory, with leave to replicate, and its region's counter. -/
def remoteDev (n : BitVec 16) (wrote : Bool) : State :=
  { memDev (.event .accessCounterHalve) [] with
    mem := memCells.take 8 ++ [(0x30008, 0x31), (0x30009, 1), (0x3000A, 5)] ++ memCells.drop 8, access := [(0, (n, wrote))] }

theorem meets_SpacesAndReplays_regions :
    (remotePages (remoteDev 256 false) 0 0).map (fun x => (x.1, accessRegion x.2.2.2, x.2.2.1.getLsbD 5)) = [(1, some 0, true)] ∧
    (sget (0, false) (remoteDev 255 false).access 0).1.toNat < 256 ∧ (sget (0, false) (remoteDev 127 false).access 0).1.toNat < 128 ∧
    256 ≤ (sget (0, false) (remoteDev 256 true).access 0).1.toNat ∧ (sget (0, false) (remoteDev 256 true).access 0).2 = true ∧
    4096 + 32 < 4129 ∧ ¬ (4096 + 32 < 4128) ∧ (4 + 32) * 65536 ≤ hbmBytes ∧ (remoteDev 256 true).canonical := by
  refine ⟨by decide +kernel, by decide, by decide, by decide, by decide, by decide, by decide, by decide, ⟨by decide +kernel, by decide +kernel⟩⟩

/-- A space whose address 512 MiB lies under a level-1 leaf, which leaves room for 33 frames or does not. -/
theorem meets_SpacesAndReplays_leaf :
    let s : State := { memDev (.event .accessCounterHalve) [] with
      mem := memCells.take 6 ++ [(0x20008, 0x33), (0x2000C, 0x20), (0x2000D, 0x10)] ++ memCells.drop 6 }
    (leafEntry s 0 (256 * 2 ^ 21)).isSome = true ∧ leafEntry s 0 0 = none ∧ 4096 + 33 < 4130 ∧ ¬ (4096 + 33 < 4129) ∧
    (4 + 33) * 65536 ≤ hbmBytes := by decide +kernel

/-- A batch of two records passed; contexts that wait for it. -/
def pageGrp (m : Mode) : Ctx := { grp with mode := m }
def servedDev (n : Nat) (c : Ctx) : State := { memDev (.event .faultBatchServed) [c, blk] with fqConsumed := n, fqBatches := [(3, 5)] }

theorem meets_SpacesAndReplays_served :
    let p := pageGrp (.page 2)
    let a : Ctx := { grp with laneMode := .atomic 2 }
    let f := pageGrp (.fetch 2)
    let l : Ctx := { grp with laneMode := .fetch 2 }
    (servedDev 1 p).fqBatches = (3, 5) :: [] ∧ powered (servedDev 1 p) = true ∧
    getCtx (servedDev 1 p) 1 = some p ∧ p.mode = .page 2 ∧ batchPassed (servedDev 1 p) 2 = false ∧ batchPassed (servedDev 2 p) 2 = true ∧
    p.longPending = false ∧ getCtx (servedDev 2 a) 1 = some a ∧ a.laneMode = .atomic 2 ∧ getCtx (servedDev 2 f) 1 = some f ∧
    f.mode = .fetch 2 ∧ getCtx (servedDev 2 l) 1 = some l ∧ l.laneMode = .fetch 2 ∧ batchPassed (servedDev 2 l) 2 = true := by
  decide +kernel

/-- Contexts that wait for a peer's notice, before it and after it; one with a load outstanding. -/
theorem meets_SpacesAndReplays_notice :
    let q (r : Bool) : Request := ⟨70, 1, none, none, 5, 0, 128, .check false, 0, none, 0, none, 0, 0, false, r, false⟩
    let p := pageGrp (.notice 70)
    let a : Ctx := { grp with laneMode := .notice 70 }
    let b : Ctx := { p with flights := [{ flight0 with accs := [⟨0, none, [], 0, false⟩] }] }
    let dev (c : Ctx) (rs : List Request) : State := { servedDev 1 c with requests := rs }
    getCtx (dev p [q true]) 1 = some p ∧ p.mode = .notice 70 ∧ (∃ r ∈ (dev p [q true]).requests, r.id = 70) ∧
    (∀ r ∈ (dev p []).requests, r.id ≠ 70) ∧ b.longPending = true ∧ getCtx (dev b []) 1 = some b ∧
    getCtx (dev a [q true]) 1 = some a ∧ a.laneMode = .notice 70 ∧ (∃ r ∈ (dev a [q true]).requests, r.id = 70 ∧ r.retry = true) ∧
    (∀ r ∈ (dev a [q false]).requests, r.id = 70 → r.retry = false) := by decide +kernel

/-! ## Launches -/

/-- A tenant at 0x5000 with this priority and 192 cores, and a launch beneath it of one block of one group with 16 registers and
`v` vault units, waiting; a task-mode one. -/
def tenant (addr prio : Nat) : Node := ⟨addr, 0, [BitVec.ofNat 32 (prio * 65536), 0, 0, 0, 192, 12288], 0, 0, 0, 0, false, 0, 0, []⟩
def recWords (mode v region : Nat) : List Word :=
  [BitVec.ofNat 32 mode, 0x00100000, 0, 1, 0x00010001, BitVec.ofNat 32 (1 + v * 65536), 0, 0, 0, 256, 512, 768, 1024, 0, 0, 0x0000FFFF] ++
    List.replicate 18 0 ++ [BitVec.ofNat 32 region] ++ List.replicate 29 0
def lnch (v : Nat) : Launch := { codeLaunch 9 with stage := .waiting, cores := [], words := recWords 0 v 0x5000 }
/-- One beneath a tenant that has no cores. -/
def poor : Launch := { lnch 0 with words := recWords 0 0 0x7000 }
def tlnch : Launch := { lnch 0 with words := recWords 1 0 0x5000 }
def lDev (ls : List Launch) : State :=
  { State.reset with turn := .event (.placement 9), supply := .on, nextId := 100, launches := ls, time0 := 1000000000
                     nodes := [tenant 0x5000 8, tenant 0x6000 3, { tenant 0x7000 8 with words := [0, 0, 0, 0, 0, 0] }] }
def closed (s : State) : State := { s with clusters := s.clusters.map (fun c => { c with excluded := true }) }
/-- One with a weight slot that takes a token. -/
def slnch : Launch := { lnch 0 with words := (recWords 0 0 0x5000).set 2 0x00200000, token := true }
def tokDev (n : BitVec 8) : State := { lDev [slnch] with tokSize := n }

theorem meets_LaunchLife :
    let s := lDev [lnch 0]
    getLaunch s 9 = some (lnch 0) ∧ powered s = true ∧ (lnch 0).stage = .waiting ∧ heldBack s (able s) (lnch 0) = false ∧
    fits s (lnch 0) = some 0 ∧ (lnch 0).taskMode = false ∧ ((planGrid s (lnch 0)).map (fun p => gensReady s (lnch 0) p)) = some true ∧
    fits (closed s) (lnch 0) = none ∧ fits (emptied (closed s)) (lnch 0) ≠ none ∧
    fits (lDev [tlnch]) tlnch = some 0 ∧ tlnch.taskMode = true ∧
    ((planTasks (lDev [tlnch]) tlnch).all (fun k => (getCore (lDev [tlnch]) k.1).issueReady 1)) = true := by decide +kernel

/-- A self-test that runs, and a pre-empted launch that could be restored. -/
theorem meets_LaunchLife_stays :
    let s := lDev [lnch 0]
    let y : Launch := { lnch 0 with id := 5, order := 0 }
    ({ s with selftest := some (15, 0) } : State).selftest ≠ none ∧ heldBack s (able s) (lnch 0) = false ∧
    heldBack (lDev [y, { lnch 0 with order := 1 }]) (able (lDev [y, { lnch 0 with order := 1 }])) { lnch 0 with order := 1 } = true := by decide +kernel

theorem meets_LaunchLife_unplaceable : fits (lDev [poor]) poor = none ∧ fits (emptied (lDev [poor])) poor = none := by decide +kernel

theorem meets_LaunchLife_tokens :
    fits (tokDev 1) slnch = some 1 ∧ slnch.tokens < 1 ∧ tokensWanted (tokDev 1) slnch = 1 ∧ tokensFree (tokDev 1) = 1 ∧
    nextTokens slnch.tokens (tokenBlocks (tokDev 1) slnch) 0 = 1 ∧ nextTokens 1 (tokenBlocks (tokDev 1) slnch) 0 = 0 ∧
    tokensFree (tokDev 0) = 0 ∧ heldBack (tokDev 1) (fun y => tokensWanted (tokDev 1) y ≠ 0) slnch = false ∧
    ({ lDev [{ lnch 0 with stage := .depend }] with notes := [9] } : State).notes = 9 :: [] ∧
    (lnch 0).since + effLattol (chainOf (lDev [lnch 0]) (lnch 0)) * 1000 < (lDev [lnch 0]).time0 := by decide +kernel

/-- Contexts of the launch that wait in their END: grid, cluster, block, group, task. -/
def ends (c : Ctx) : Ctx := { c with mode := .ending }
def endDev (c : Ctx) (cs : List Ctx) : State := { memDev (.event (.contextEnd c.id)) (c :: cs) with time0 := 1 }
def endTask (phase : Nat) (join : Nat) : Ctx := { ends tsk with phase := phase, join := join, depth := 1 }

theorem meets_LaunchLife_ends :
    (getCtx (endDev (ends clu) []) 3 = some (ends clu) ∧ (ends clu).isGroup = false ∧ (ends clu).level = 3 ∧
      children (endDev (ends clu) []) (ends clu) = [] ∧ powered (endDev (ends clu) []) = true) ∧
    ((ends blk).isGroup = false ∧ (ends blk).level = 2 ∧ children (endDev (ends blk) []) (ends blk) = [] ∧
      matrixDone (endDev (ends blk) []) (ends blk) = true) ∧
    ((ends grd).level = 4 ∧ children (endDev (ends grd) []) (ends grd) = [] ∧ (getLaunch (endDev (ends grd) []) 9).isSome = true ∧
      taskMode (endDev (ends grd) []) (ends grd) = false) ∧
    ((ends grp).isGroup = true ∧ (ends grp).laneIdle = true ∧ (ends grp).phase = 0 ∧ (commit (endDev (ends grp) [blk]) (ends grp)).2 = true ∧
      relDone (commit (endDev (ends grp) [blk]) (ends grp)).1 (ends grp) 4 = true) ∧
    (endTask 0 0x80).task = true ∧ (commit (endDev (endTask 0 0x80) []) (endTask 0 0x80)).2 = true ∧
    relDone (commit (endDev (endTask 0 0x80) []) (endTask 0 0x80)).1 (endTask 0 0x80) 4 = true ∧
    (endDev (endTask 0 0x80) []).changing.contains 0 = false ∧
    joinPlace (endDev (endTask 0 0x80) []) (endTask 0 0x80) 0x80 = .ok (.here 0x40080) true false ∧
    poisonAt (endDev (endTask 0 0x80) []) 0x40080 = false ∧ (endTask 0 0).join = 0 ∧ (endTask 1 0).phase = 1 ∧
    (joinDecrement (endDev (endTask 0 0x80) []) (endTask 0 0x80) 0x80).toOption.isSome = true ∧
    (endTask 1 0).pushing = none ∧ (endTask 1 0).laneIdle = true := by decide +kernel

/-- A task-mode grid that has ended, with no task and with one; a grid with one successor in each of its phases. -/
def gridLaunch (tasks : Nat) : Launch := { tlnch with stage := .placed, gridEnd := true, tasks := tasks }
def gridDev (tasks : Nat) : State := { memDev (.event (.gridRetire 9)) [ends grd] with launches := [gridLaunch tasks], nodes := [tenant 0x5000 8] }
/-- Its array of successors is at virtual 0x108, and the one entry there names the counter at 0x100. -/
def depLaunch : Launch := { gridLaunch 0 with words := (((recWords 1 0 0x5000).set 41 1).set 42 0x108).set 43 0 }
def depDev : State := { gridDev 0 with mem := memCells.take 9 ++ [(0x40109, 1)] ++ memCells.drop 9, launches := [depLaunch] }
def reached {α : Type} : Reach α → Option α
  | .done x => some x
  | _ => none

theorem meets_LaunchLife_retires :
    getLaunch (gridDev 0) 9 = some (gridLaunch 0) ∧ gridOf (gridDev 0) 9 = some (ends grd) ∧ powered (gridDev 0) = true ∧
    taskMode (gridDev 0) (ends grd) = true ∧ (ends grd).mode = .ending ∧ (gridLaunch 0).gridEnd = true ∧ (gridLaunch 1).tasks ≠ 0 ∧
    (writeCompletion (gridDev 0) (gridLaunch 0) 0 1 0 0 0).isSome = true ∧ bits (depLaunch.words.getD 41 0) 3 0 = 1 ∧
    depDev.changing.contains depLaunch.asid = false ∧ (reached (depAddress depDev (ends grd) depLaunch 0)).map Prod.fst = some 0x100 ∧
    (reached (depAdd depDev (ends grd) 0 0x100)).isSome = true ∧ walk depDev 0 0x100 = .ok (.here 0x40100) true false ∧
    lineReady depDev none (0x40100 / 128) = true := by decide +kernel

theorem meets_LaunchLife_retires_canonical : depDev.canonical := ⟨by decide +kernel, by decide +kernel⟩

/-- A kill of the launch's domain, and a closing launch alone. -/
def killDev (ks : List Kill) (l : Launch) : State :=
  { memDev (.event .kill) [grp, blk, clu, grd] with launches := [l], nodes := [tenant 0x5000 8], kills := ks }

theorem meets_LaunchLife_kills :
    let l : Launch := { lnch 0 with stage := .placed }
    let c : Launch := { lnch 0 with stage := .closing 3 0 0 0 }
    (killDev [⟨9, 0x14⟩] l).kills = ⟨9, 0x14⟩ :: [] ∧ getLaunch (killDev [⟨9, 0x14⟩] l) 9 = some l ∧
    faultDomain (chainOf (killDev [⟨9, 0x14⟩] l) l) = some (tenant 0x5000 8) ∧ getNode (killDev [⟨9, 0x14⟩] l) 0x5000 = some (tenant 0x5000 8) ∧
    l ∈ beneath (killDev [⟨9, 0x14⟩] l) (tenant 0x5000 8) ∧ (¬ ∃ a b c d, l.stage = .closing a b c d) ∧
    recorded (killDev [⟨9, 0x14⟩] l) 9 = false ∧
    recorded { killDev [⟨9, 0x14⟩] l with ctxs := [{ ends grd with phase := 1 }] } 9 = true ∧ (killDev [] c).launches = [c] ∧ c.stage = .closing 3 0 0 0 ∧
    (writeCompletion (killDev [] c) c 0 3 0 0 0).isSome = true ∧ powered (killDev [] c) = true := by
  refine ⟨by decide, by decide, by decide +kernel, by decide +kernel, by decide +kernel, ?_, by decide +kernel, by decide +kernel, by decide,
    by decide, by decide +kernel, by decide⟩
  rintro ⟨_, _, _, _, h⟩
  cases h

/-! ## Pre-emption and active sets -/

/-- Launch 8 of the tenant at 0x6000, placed, with a grid, cluster, block and group; the 256 tiles of each core of cluster 0 are
its own, and the other clusters are excluded. Launch 9 of the tenant at 0x5000 waits, late, for a tile. -/
def of8 (c : Ctx) : Ctx := { c with launch := 8 }
def v8 : Launch := { lnch 0 with id := 8, stage := .placed, words := recWords 0 0 0x6000, order := 8 }
def x9 : Launch := { lnch 0 with late := true, words := (recWords 0 0 0x5000).set 2 0x00001000 }
def held (k : Core) : Core := { k with tileRuns := [⟨0, 256, 1, 6, false, 8⟩] }
def preDev : State :=
  { lDev [v8, x9] with
    turn := .event (.preemption 8)
    ctxs := [of8 grd, of8 clu, of8 blk, of8 grp]
    clusters := Cluster.reset :: List.replicate 47 { Cluster.reset with excluded := true }
    cores := [held core0, held Core.reset, held Core.reset, held Core.reset] ++ List.replicate 188 Core.reset }

theorem meets_PreemptionAndActiveSets :
    getLaunch preDev 8 = some v8 ∧ powered preDev = true ∧ launchStoppable preDev 8 = true ∧ x9 ∈ preDev.launches ∧ x9.stage = .waiting ∧
    x9.late = true ∧ fits (rewritten preDev) x9 = none ∧ (victimsOf preDev x9).head? = some v8 ∧
    fits (rewritten (recharge ((victimsOf preDev x9).foldl vacate preDev))) x9 ≠ none := by decide +kernel

/-- Launch 8 after its pre-emption, with launch 9 gone. -/
def savedDev : State := { preempt preDev v8 with launches := [{ v8 with stage := .preempted }] }
theorem meets_PreemptionAndActiveSets_restore :
    getLaunch savedDev 8 = some { v8 with stage := .preempted } ∧ powered savedDev = true ∧
    (restorable savedDev { v8 with stage := .preempted }).isSome = true ∧
    heldBack savedDev (able savedDev) { v8 with stage := .preempted } = false ∧
    ({ v8 with stage := .preempted } : Launch).stage = .preempted ∧ x9.stage = .waiting := by decide +kernel

/-- A group alone on its core, waiting for 240 registers more where no row is left for them. -/
def growGrp : Ctx := { grp with mode := .grow (.grow none 0xE0) 1 }
def fullCore : Core := { core0 with rows := core0.rows ++ [⟨300, 4080, 1, 1, false, 9⟩] }
def growDev (cs : List Ctx) (k : Core) : State := setCore (memDev (.event (.growDeadlock 0)) cs) 0 k
/-- The same evicted, with what was saved. -/
def evictedGrp : Ctx := { growGrp with mode := .evicted }
def keptGrp : Saved := (saveCtx (growDev [growGrp, blk] fullCore) growGrp).1
def evictedDev : State :=
  { growDev [evictedGrp, blk] { core0 with rows := core0.rows.tail } with launches := [], saved := [⟨1, [keptGrp], []⟩] }

theorem meets_PreemptionAndActiveSets_grow :
    let s := growDev [growGrp, blk] fullCore
    powered s = true ∧ 0 < s.cores.length ∧ getCtx s 1 = some growGrp ∧ (growGrp.growWaits.map (fun g => g.2.1)) = some 240 ∧
    growTo s growGrp 240 = none ∧ quietCtx s growGrp = true ∧ (getCore s 0).rewriting = [] ∧
    (getCore (growDev [growGrp, blk] { fullCore with rewriting := [9] }) 0).rewriting ≠ [] ∧
    (getCore (growBegins (growDev [growGrp, blk] { fullCore with rewriting := [9] }) 0) 0).growCheck = true ∧
    (getCore s 0).growCheck = false ∧ sortBy (younger s) (residents s 0) = growGrp :: [] ∧
    getLaunch evictedDev 1 = none ∧ getCtx evictedDev 1 = some evictedGrp ∧ evictedGrp.mode = .evicted ∧
    evictedDev.saved.find? (fun y => y.launch = 1) = some ⟨1, [keptGrp], []⟩ ∧
    (restoreEvicted evictedDev evictedGrp keptGrp).isSome = true := by decide +kernel

/-- Four active groups of a partition, one of which waits at a barrier, and a pending one that is ready. -/
def member (id slot : Nat) (active : Bool) (m : Mode) : Ctx :=
  { grp with id := id, slot := slot, active := active, mode := m, entered := id, agelim := 9, pendAge := if active then 0 else 9 }
def bar : Mode := .barrier 2 0 (.nop none) 1
def setDev (cs : List Ctx) : State := memDev (.event (.activeSetSwap 1)) (cs ++ [blk])
def four (m : Mode) : List Ctx := [member 11 0 true m, member 12 16 true .run, member 13 32 true .run, member 14 48 true .run, member 15 64 false .run]

theorem meets_PreemptionAndActiveSets_sets :
    getCtx (setDev (four bar)) 11 = some (member 11 0 true bar) ∧ nextPending (setDev (four bar)) (member 11 0 true bar) = some (member 15 64 false .run) ∧
    partitionActive (setDev (four bar)).ctxs 0 0 = 4 ∧ swapsOut (setDev (four bar)) (member 11 0 true bar) = true ∧
    partitionActive (setDev (four bar).tail).ctxs 0 16 = 3 ∧
    nextPending (setDev (four bar).tail) (member 12 16 true .run) = some (member 15 64 false .run) ∧
    (member 15 64 false .run).isGroup = true ∧ swapsOut (setDev (four .run)) (member 15 64 false .run) = false ∧
    nextPending (setDev (four .run)) (member 15 64 false .run) = some (member 15 64 false .run) ∧
    (sortBy (fun (a b : Ctx) => a.entered < b.entered || (a.entered = b.entered && b.slot < a.slot))
      ((partition (setDev (four .run)) (member 15 64 false .run)).filter (fun y => y.active))).head?.map Ctx.id = some 11 ∧
    (member 15 64 false .run).agelim.toNat ≤ (member 15 64 false .run).pendAge.toNat := by decide +kernel

/-! ## Host queues -/

/-- A queue over the tenant at 0x5000, its ring of 16 packets at virtual 0x800, with this many pending from packet 0 on. -/
def hq (n : Nat) : HostQueue :=
  { qid := 7, desc := 0x1000, asid := 0, log2n := 4, token := false, ring := 0x800, region := 0x5000, lattol := 5, rptr := 0
    wptr := BitVec.ofNat 16 n, state := .active, asleep := false, deadline := none, bells := [(BitVec.ofNat 16 n, 3)], slot := true, parked := none, owing := none }
def cellsAt (k : Nat) (ws : List Word) : List (Nat × Byte) :=
  ((offsets (ws.flatMap wordBytes)).filter (fun x => x.2 ≠ 0)).map (fun x => (k + x.1, x.2))
/-- Page 0 of space 0 with these words at virtual addresses above 0x104. -/
def qDev (q : HostQueue) (at' : List (Nat × List Word)) : State :=
  { State.reset with
    turn := .event (.nopPacket 7), supply := .on, ready := true, nextId := 100, queues := [q], time0 := 1000000
    nodes := [tenant 0x5000 8, tenant 0x6000 3]
    mem := memCells.take 9 ++ at'.flatMap (fun x => cellsAt (0x40000 + x.1) x.2) }
def bell (high w : Nat) : DWord := BitVec.ofNat 64 (high * 2 ^ 48 + w * 2 ^ 32 + 7)

theorem meets_HostQueues :
    let z : HostQueue := { hq 0 with asleep := true, slot := false }
    let z0 : HostQueue := { z with lattol := 0 }
    let w : HostQueue := { hq 1 with slot := false }
    let d : HostQueue := { hq 1 with asleep := true, deadline := some 1000000 }
    let p : HostQueue := { hq 1 with parked := some 2 }
    getQueue (qDev (hq 0) []) ((bell 0 16).toNat % 2 ^ 32) = some (hq 0) ∧ (bell 0 16).extractLsb' 48 16 = 0 ∧ (hq 0).state = .active ∧
    powered (qDev (hq 0) []) = true ∧ (((bell 0 17).extractLsb' 32 16 : BitVec 16) - (hq 0).rptr).toNat = 17 ∧
    (((bell 0 16).extractLsb' 32 16 : BitVec 16) - (hq 0).rptr).toNat = 2 ^ (hq 0).log2n ∧ (hq 0).asleep = false ∧ z.asleep = true ∧
    queueTol (qDev z []) z = 5000 ∧ queueTol (qDev z0 []) z0 = 0 ∧
    getQueue (qDev w []) 7 = some w ∧ w.wantsSlot = true ∧ (∀ y ∈ (qDev w []).queues, y.wantsSlot = true → queueBefore (qDev w []) y w = false) ∧
    ((qDev w []).queues.filter (fun y => y.slot)).length < 128 ∧
    d ∈ (qDev d []).queues ∧ d.asleep = true ∧ d.deadline = some 1000000 ∧ 1000000 ≤ (qDev d []).time0 ∧ p.parked = some 2 ∧ p.owing = none ∧
    (let o : HostQueue := { hq 1 with owing := some 0x10104 }
     getQueue (qDev o []) 7 = some o ∧ fqRoom { qDev o [] with fqLog := 8 } 1 = true ∧
       fqRoom { qDev o [] with fqLog := 8, fqProduced := 256 } 1 = false ∧
       fqServes { qDev o [] with fqLog := 8, fqLine := [.queue 7] } (.queue 7) 1 = true ∧ fqServes { qDev o [] with fqLog := 8 } (.queue 7) 1 = false) := by
  refine ⟨by decide +kernel, by decide, by decide, by decide, by decide, by decide, by decide, by decide, by decide +kernel, by decide +kernel,
    by decide +kernel, by decide, by decide +kernel, by decide, by decide, by decide, by decide, by decide, by decide, by decide, by decide +kernel⟩

/-- 128 holders of the priorities 8 and 3, and a queue that outranks the latter alone. -/
def crowd (region : Nat) : State :=
  { qDev (hq 0) [] with queues := { hq 1 with slot := false } :: (List.range 128).map (fun i => { hq 1 with qid := 1000 + i, region := region }) }
theorem meets_HostQueues_slots :
    let w : HostQueue := { hq 1 with slot := false }
    getQueue (crowd 0x6000) 7 = some w ∧ 128 ≤ ((crowd 0x6000).queues.filter (fun y => y.slot)).length ∧
    ((lowestHolder (crowd 0x6000)).map (fun y => queuePrio (crowd 0x6000) y)) = some 3 ∧ queuePrio (crowd 0x6000) w = 8 ∧
    ((lowestHolder (crowd 0x5000)).map (fun y => queuePrio (crowd 0x5000) y)) = some 8 := by decide +kernel

/-- QCTL for the descriptor at 0x1000: log2 of the ring 4, and 3, which is too small. -/
def qctlDev (log2n : Word) : State := { qDev (hq 0) [] with mem := cellsAt (hostKey 0x1000) [0, log2n, 0x800] }
theorem meets_HostQueues_control :
    (0x1001 : DWord).toNat % 64 = 1 ∧ (qctlDev 4).ready = true ∧ (qctlDev 4).supply ≠ .off ∧ (qctlDev 4).supply ≠ .retention true ∧ (qctlDev 4).stage ≠ 0xFF ∧ descriptorBad (readWords (qctlDev 4) (hostKey 0x1000) 16) = false ∧
    descriptorBad (readWords (qctlDev 3) (hostKey 0x1000) 16) = true ∧ (qctlDev 4).queues.length + (qctlDev 4).launches.length < 65536 ∧ (0x1002 : DWord).toNat % 64 = 2 ∧
    (∃ q ∈ (qctlDev 4).queues, q.desc = (0x1002 : DWord).toNat / 64 * 64) := by
  refine ⟨by decide, by decide, by decide, by decide, by decide, by decide +kernel, by decide +kernel, by decide, by decide, hq 0, by decide,
    by decide⟩

/-! ## Packets -/

def pkt (ws : List Word) : State := qDev (hq 1) [(0x800, ws)]
def pktWords (s : State) : Option (List Word) := match parserRead s 0 0x800 16 with
  | .words ws _ => some ws
  | _ => none
def readsWord (s : State) (va : Nat) : Option Word := match parserRead s 0 va 1 with
  | .words ws _ => some (ws.getD 0 0)
  | _ => none
def readAbsent (s : State) (va : Nat) : Bool := match parserRead s 0 va 1 with
  | .absent => true
  | _ => false
def full16 (ws : List Word) : List Word := ws ++ List.replicate (16 - ws.length) 0
/-- What the statements ask of a packet's state, with the words read and their cause. -/
def servesNow (s : State) (ws : List Word) (cause : Nat) : Bool :=
  decide (getQueue s 7 = some (hq 1)) && servable s (hq 1) && servedFirst s (hq 1) && powered s && s.ready && s.selftest.isNone &&
    decide (pktWords s = some (full16 ws)) && decide (packetCause (full16 ws) = cause)

/-- An unknown type; a reserved field of each type; misaligned addresses; then sound ones. -/
theorem meets_Packets :
    servesNow (pkt [5]) [5] 1 = true ∧ servesNow (pkt [0xFF]) [0xFF] 1 = true ∧ servesNow (pkt [0x100]) [0x100] 2 = true ∧
    servesNow (pkt [1, 0, 0x1080]) [1, 0, 0x1080] 3 = true ∧ servesNow (pkt [0x602]) [0x602] 2 = true ∧
    servesNow (pkt [3, 0, 0x101]) [3, 0, 0x101] 3 = true ∧ servesNow (pkt [4, 0, 0x2040]) [4, 0, 0x2040] 3 = true ∧
    servesNow (pkt []) [] 0 = true := by decide +kernel

/-- A WAIT for 5 at 0x104 (EQ), for 6, on an absent page; a SIGNAL with and without a launch of the queue. -/
theorem meets_Packets_waits :
    let w5 : List Word := [2, 0, 0x104, 0, 5]
    let w6 : List Word := [2, 0, 0x104, 0, 6]
    let wa : List Word := [2, 0, 0x10104, 0, 6]
    let sg : List Word := [0x1003, 0, 0x104, 0, 9]
    servesNow (pkt w5) w5 0 = true ∧ readsWord (pkt w5) 0x104 = some 5 ∧ trywCond 0 5 5 = true ∧
    servesNow (pkt w6) w6 0 = true ∧ trywCond 0 5 6 = false ∧ servesNow (pkt wa) wa 0 = true ∧ readAbsent (pkt wa) 0x10104 = true ∧
    servesNow (pkt sg) sg 0 = true ∧ (reached (signalWrite (pkt sg) (pkt sg) (hq 1) (full16 sg))).isSome = true ∧ (pkt sg).launches = [] ∧
    servesNow { pkt sg with launches := [{ codeLaunch 9 with queue := 7 }] } sg 0 = true ∧
    recorded { pkt sg with launches := [{ codeLaunch 9 with queue := 7 }] } 9 = false ∧
    recorded { pkt sg with launches := [{ codeLaunch 9 with queue := 7 }], ctxs := [{ grd with mode := .ending, phase := 1 }] } 9 = true := by
  decide +kernel

/-- A stream beneath the tenant, and one whose parent no node is. -/
def nodeWords (parent : Word) : List Word := [1, 0, parent]
def regionDev (parent : Word) : State := qDev (hq 1) [(0x800, [4, 0, 0x2000]), (0x2000, nodeWords parent)]
def regionWords (s : State) : Option (List Word) := match parserRead s 0 0x2000 32 with
  | .words ws _ => some ws
  | _ => none
theorem meets_Packets_regions :
    servesNow (regionDev 0x5000) [4, 0, 0x2000] 0 = true ∧
    ((regionWords (regionDev 0x5000)).map (nodeBad (regionDev 0x5000))) = some false ∧
    ((regionWords (regionDev 0x7000)).map (nodeBad (regionDev 0x7000))) = some true := by decide +kernel

/-- A LAUNCH: a sound record, a bad one; a region block of kind 3, and of kind 1; sink mode with its counter at 0x104. -/
def launchDev (w0 : Word) (kind : Word) : State :=
  qDev (hq 1) [(0x800, [1, 0, 0x1000]),
    (0x1000, (((recWords 0 0 0x2000).set 0 w0).set 7 0).set 38 0x104), (0x2000, [kind, 0, 0x5000])]
def launchWords (s : State) : Option (List Word) := match parserRead s 0 0x1000 64 with
  | .words ws _ => some ws
  | _ => none
theorem meets_Packets_launches :
    servesNow (launchDev 0 3) [1, 0, 0x1000] 0 = true ∧ ((launchWords (launchDev 0 3)).map recordBad) = some false ∧
    ((launchWords (launchDev 2 3)).map recordBad) = some true ∧ ((regionWords (launchDev 0 3)).map (regionGood (launchDev 0 3))) = some true ∧
    ((regionWords (launchDev 0 1)).map (regionGood (launchDev 0 1))) = some false ∧
    (match parserRecords 0 0 0 (launchDev 0 3) with
      | .words ws _ => some ws
      | _ => none) = some [] ∧ ((launchWords (launchDev 4 3)).map (fun ws => (ws.getD 0 0).getLsbD 2)) = some true ∧
    (reached (publish (launchDev 4 3) (launchDev 4 3) (newLaunch (launchDev 4 3) (hq 1) ((launchWords (launchDev 4 3)).getD []) 0x1000 [] .waiting))).isSome = true ∧
    (reached (publish (launchDev 4 3) { launchDev 4 3 with changing := [0] }
      (newLaunch (launchDev 4 3) (hq 1) ((launchWords (launchDev 4 3)).getD []) 0x1000 [] .waiting))).isSome = false ∧
    getQueue (launchDev 0 3) 7 = some (hq 1) ∧ (hq 1).wptr = (hq 1).rptr + 1 ∧ (hq 2).wptr ≠ (hq 2).rptr + 1 := by decide +kernel

/-! ## Power, boot, self-test, the outside world -/

theorem meets_SlopeLimits : 47 < State.reset.clusters.length ∧ slopeOf 0xFFFF = (64, 0) ∧ slopeOf 0 = (1, 255) := by decide

/-- Every core with this SLICECTL: MXLIM in its low part and the ratios above it as the register holds them. -/
def sliceDev (w : BitVec 20) (c : Nat) : State :=
  { dev (.event (.powerCheck 0)) [] with cores := List.replicate 192 { Core.reset with slice := w.setWidth 32 }, cap := c }
def ratiosOf (s : State) : Nat × List Nat := (mxlim (getCore s 0).slice, (List.range 4).map (ratio (getCore s 0).slice))
def sound (s : State) : Bool := (List.range s.cores.length).all (fun k =>
  1 ≤ mxlim (getCore s k).slice && mxlim (getCore s k).slice ≤ 8 &&
    (List.range 4).all (fun i => 4 ≤ ratio (getCore s k).slice i && ratio (getCore s k).slice i ≤ 8))

theorem meets_PowerAndSupply_registers :
    let s := dev (.event .devstatRead) []
    powered s = true ∧ s.stage ≠ 0xFF ∧ ({ s with stage := 0xFF } : State).stage = 0xFF ∧ 47 < s.clusters.length ∧ 191 < s.cores.length ∧ s.cores ≠ [] ∧ (8 : DWord).toNat = 8 ∧ (16 : DWord).toNat ≤ 16 := by decide +kernel

/-- At full speed, at the least, and between: draws above the cap, within 5 % of it, below. -/
theorem meets_PowerAndSupply_draws :
    let hi := sliceDev 0x88888 1000
    let lo := sliceDev 0x14444 1000
    let mid := sliceDev 0x84645 1000
    sound hi = true ∧ sound lo = true ∧ sound mid = true ∧ hi.cap < 1001 ∧ 949 * 100 < hi.cap * 95 ∧ hi.cap * 95 ≤ 950 * 100 ∧
    ratiosOf hi = (8, [8, 8, 8, 8]) ∧ (ratiosOf lo).2 = [4, 4, 4, 4] := by decide +kernel

/-- The device in retention, with or without a hold. -/
def asleep (h : Bool) (cs : List Ctx) : State := { memDev (.event (.supplyResume 0)) cs with supply := .retention h }

/-- The last temperature reported at the limit and above it; the churn off, running, and with no limit set. -/
theorem meets_PowerAndSupply_churn :
    let s := dev (.event (.powerCheck 0)) []
    s.junction0 ≤ 100 ∧ s.junction1 ≤ 100 ∧ 100 < (reported s ⟨1, 101⟩).junction1 ∧ 115 ≤ (reported s ⟨0, 115⟩).junction0 ∧ s.churn = none ∧
    ({ s with time0 := 999, churn := some ⟨0, 0, [5, 6]⟩ } : State).churn = some ⟨0, 0, [5, 6]⟩ ∧
    ({ s with time0 := 1000, churn := some ⟨0, 0, [5, 6]⟩ } : State).time0 = 0 + 1000 ∧ ({ s with fall := 5 } : State).fall ≠ 0xFFFF ∧ State.reset.fall = 0xFFFF ∧
    powered { s with fall := 5 } = true := by decide +kernel

/-- The supply-loss sequence about to take step n + 1 at time `t`, which its marker noted as beginning at 0. -/
def losing (n t : Nat) : State := { memDev (.event (.supplyLoss 0)) [grp, blk] with supply := .losing n ⟨false, 0, 0, 0, []⟩ false, time0 := t }

theorem meets_PowerAndSupply_loss :
    let s := memDev (.ctrl 1) [grp, blk]
    s.supply = .on ∧ s.churn = none ∧ (losing 1 0).kills = [] ∧ (∀ l ∈ (losing 1 0).launches, l.stage = .placed) ∧
    (∀ k ∈ (losing 1 0).cores, k.matq = []) ∧ (∀ k ∈ (losing 1 0).cores, ∀ x ∈ k.lines, x.dirty = 0) ∧ (losing 1 0).ops = [] ∧
    powered (asleep false [grp]) = false ∧ ({ asleep false [grp] with turn := .ctrl 1 } : State).turn = .ctrl 1 ∧
    (asleep true []).supply = .retention true ∧ (asleep true []).holdRelease = false ∧
    (reported (asleep true []) ⟨0, 89⟩).junction0 < 90 ∧ (reported (asleep true []) ⟨0, 89⟩).junction1 < 90 ∧
    ¬ (reported (asleep true []) ⟨1, 90⟩).junction1 < 90 := by
  refine ⟨by decide, by decide, by decide, by decide +kernel, by decide +kernel, by decide +kernel, by decide, by decide, by decide, by decide,
    by decide, by decide, by decide, by decide⟩

/-- Each step at its last moment and just past it; the second and the third with something left to wait for. -/
theorem meets_PowerAndSupply_steps :
    (∀ n t, (n, t) ∈ [(0, 2000), (1, 60000), (2, 140000), (3, 160000), (4, 200000)] →
      (losing n t).supply = .losing n ⟨false, 0, 0, 0, []⟩ false ∧ (losing n t).time0 ≤ [2000, 60000, 140000, 160000, 200000].getD n 0 ∧
      [2000, 60000, 140000, 160000, 200000].getD n 0 < (losing n (t + 1)).time0) ∧
    (let o : EngOp := { copyOp with stage := .started, landed := [0] }
     opAtUnit { losing 1 0 with ops := [o] } o = false) ∧
    (hw 60 8).hold = none ∧ (hw 60 8).line = .here 0x802 ∧ spaceOf (0x802 * 128) = .hbm ∧ (losing 2 0).homeQ = [] ∧
    killsDone (losing 2 0) = true ∧ killsDone { losing 2 0 with kills := [⟨9, 0x14⟩] } = false := by
  refine ⟨?_, by decide +kernel, by decide, by decide, by decide, by decide, by decide +kernel, by decide⟩
  intro n t h
  simp only [List.mem_cons, Prod.mk.injEq, List.not_mem_nil, or_false] at h
  rcases h with ⟨rfl, rfl⟩ | ⟨rfl, rfl⟩ | ⟨rfl, rfl⟩ | ⟨rfl, rfl⟩ | ⟨rfl, rfl⟩ <;> decide

/-- A line of cluster 3's part of the cache is dirty; nothing runs there. -/
def lossDev : State :=
  { asleep false [grp, blk] with dcache := [(0x4000, (3, true))], ports := { Port.reset with state := 2 } :: List.replicate 17 Port.reset }
theorem meets_PowerAndSupply_resume :
    lossDev.supply = .retention false ∧ lossDev.abandoned = none ∧ ({ lossDev with abandoned := some (1, 0x1000, 7) } : State).abandoned = some (1, 0x1000, 7) ∧
    lossDev.canonical ∧ (∀ j, j < 48 → ((8 : BitVec 48).getLsbD j = true ↔ j = 3)) ∧
    (lossDev.launches.all (fun l => !onCluster lossDev 3 l)) = true ∧ lossDev.errors.length < 1024 ∧
    (∃ x ∈ lossDev.dcache, x.2.1 = 3 ∧ x.2.2 = true) ∧ (∃ p ∈ lossDev.ports, p.state ≠ 0) := by
  refine ⟨by decide, by decide, by decide, ⟨by decide +kernel, by decide +kernel⟩, by decide, by decide +kernel, by decide, by decide, by decide⟩

/-- A first stage under key 1 of version 3, where slot 0 holds key 7 and slot 1 key 1, and the least version is 3. -/
def stage1 (key : BitVec 512) (signed : Bool) (version : DWord) : SignedImage := ⟨key, signed, version, 5⟩
def fused (stage : BitVec 8) (revoked : BitVec 4) : State :=
  { State.reset with supply := .on, stage := stage, fuses := ⟨[7, 1, 0, 0], revoked, 3, 9⟩ }
def accepted (s : State) (x : SignedImage) : Bool :=
  (List.range 4).any (fun i => !s.fuses.revoked.getLsbD i && s.fuses.keys[i]? == some x.key) && x.signed &&
    decide (s.fuses.minVersion.toNat ≤ x.version.toNat)

/-- Accepted; under a key in no slot, under a revoked one, unsigned, and of an older version. -/
theorem meets_BootAndSelfTest_boot :
    powered (fused 1 0) = true ∧ (fused 1 0).stage = 1 ∧ accepted (fused 1 0) (stage1 1 true 3) = true ∧
    accepted (fused 1 0) (stage1 2 true 3) = false ∧ accepted (fused 1 2) (stage1 1 true 3) = false ∧
    accepted (fused 1 2) (stage1 7 true 3) = true ∧ accepted (fused 1 0) (stage1 1 false 3) = false ∧
    accepted (fused 1 0) (stage1 1 true 2) = false ∧ (List.replicate 7 (stage1 1 true 3)).length = 7 ∧
    (0xFF : BitVec 8) ∉ ([0, 1, 2, 3] : List (BitVec 8)) := by decide +kernel

theorem meets_BootAndSelfTest :
    let s : State := { State.reset with supply := .on }
    let r : State := { s with selftest := some (15, 0x1000), ports := { Port.reset with failed := 1 } :: s.ports.tail }
    powered s = true ∧ s.supply ≠ .off ∧ (asleep false []).supply ≠ .off ∧ powered (asleep false []) = false ∧ (asleep false []).abandoned = none ∧
    (asleep false []).stage ≠ 0xFF ∧ (asleep false []).ctxs = [] ∧ (asleep false []).saved = [] ∧ (asleep false []).selftest = none ∧
    (asleep false [grp]).ctxs ≠ [] ∧ s.stage = 0 ∧ s.canonical ∧ s.selftest = none ∧ r.selftest ≠ none ∧ s.ctxs = [] ∧ s.saved = [] ∧ (memDev (.ctrl 1) [grp]).ctxs ≠ [] ∧
    (memDev (.ctrl 1) [grp]).canonical ∧ r.canonical ∧ r.selftest = some (15, 0x1000) ∧ 0x1000 + 64 ≤ 2 ^ 64 ∧ powered r = true ∧
    (15 : BitVec 4).getLsbD 0 = true ∧ (14 : BitVec 4).getLsbD 0 = false := by
  refine ⟨by decide, by decide, by decide, by decide, by decide, by decide, by decide, by decide, by decide, by decide, by decide,
    ⟨by decide, by decide⟩, by decide, by decide, by decide, by decide, by decide, ⟨by decide +kernel, by decide +kernel⟩,
    ⟨by decide, by decide⟩, by decide, by decide, by decide, by decide, by decide⟩

/-- A mailbox with seven entries, and with eight. -/
theorem meets_BootAndSelfTest_mailboxes :
    let box (n : Nat) : State := { memDev (.ctrl 1) [] with mailboxes := [(10, List.replicate n [])], ports := List.replicate 18 { Port.reset with state := 2 } }
    (mailbox (box 7) 1 2).length = 7 ∧ (box 7).stage ≠ 0xFF ∧
    (mailbox (box 8) 1 2).length = 8 ∧ powered (box 7) = true ∧ (getNode { box 7 with nodes := [tenant 0x5000 8] } 0x5000).isSome = true ∧ 17 < (box 7).ports.length ∧ ((box 7).ports.getD 17 Port.reset).state ≠ 0 := by
  decide +kernel

/-- Peers: reads of the mapped page and of an absent one, under the current map generation and under one that is not. -/
def peerRead (va mg : Nat) : PeerAccess := ⟨5, 0, BitVec.ofNat 16 mg, BitVec.ofNat 64 va, 4, none, none⟩
def peerWrite : PeerAccess := ⟨5, 0, 0, 0x104, 4, some [1, 2, 3, 4], none⟩
def peerRmw : PeerAccess := ⟨5, 0, 0, 0x104, 4, none, some (false, 0, 1, 0)⟩
def hostLine : Line := { line1 with line := .here 0x200000000002 }

/-- A peer's access whose fault record waits for room, first in the line. -/
def inbDev (c : Ctx) : State :=
  { memDev (.event (.hostSnoop 0)) [c] with inbound := [⟨peerRead 0x104 0, none⟩], fqLine := [.inbound (peerRead 0x104 0)] }

theorem meets_OutsideWorld :
    let s := memDev (.event (.hostSnoop 0)) [grp]
    let h : State := setCore s 3 { Core.reset with lines := [hostLine] }
    s.canonical ∧ 0x40104 + 4 ≤ hbmBytes ∧ hostKey 0 + 4 ≤ hostKey (2 ^ 64) ∧ powered s = true ∧
    hostKey 0 ≤ 0x200000000002 * 128 ∧ 0x200000000002 * 128 < hostKey (2 ^ 64) ∧ ((getCore h 3).lines.map (fun x => (x.line, x.asid, x.mapgen))).Nodup ∧
    hostLine.dirty ≠ 0 ∧ s.changing = [] ∧ (0x104 : DWord).toNat % 128 + 4 ≤ 128 ∧ peerRmw.rmw.isSome = true ∧ peerRmw.va.toNat % 4 = 0 ∧
    linkUp { s with ports := { Port.reset with state := 2 } :: List.replicate 17 Port.reset } 5 = true ∧ linkUp s 5 = false ∧
    linkUp { s with ports := { Port.reset with state := 2 } :: { Port.reset with state := 3, peer := 5 } :: List.replicate 16 Port.reset } 5 = false ∧
    joinFires (1 - 1) 1 = true ∧ joinFires (1 - 1) 2 = false ∧ bits (1 : Word) 1 0 < 2 ∧
    ¬ ((2 ^ 52 : DWord).toNat < 2 ^ 52) ∧ (2 ^ 52 - 4 : DWord).toNat + 4 ≤ 2 ^ 52 ∧
    walk s 0 0x104 = .ok (.here 0x40104) true false ∧ walk s 0 0x10104 = .absent ∧ astGen s 0 = 0 ∧ fqRoom s 1 = true ∧
    poisonAt s 0x40104 = false ∧ poisonAt { s with poison := [granule 0x40104] } 0x40104 = true ∧
    walk { s with mem := memCells.map (fun x => if x.1 = 0x30000 then (0x30000, 1) else x) } 0 0x104 = .ok (.here 0x40104) false false ∧
    (peerRead 0x104 7).mapgen ≠ 0 ∧ (peerRead 0x104 7).mapgen ≠ astGen s 0 ∧ peerWrite.size = 4 ∧ s.errors.length < 1024 ∧ s.inbound = [] ∧
    ⟨peerRead 0x104 0, none⟩ ∈ (inbDev grp).inbound ∧ fqServes (inbDev grp) (.inbound (peerRead 0x104 0)) 1 = true ∧
    fqRoom (fullRing s) 1 = false ∧ fqServes (fullRing s) (.inbound (peerRead 0x104 0)) 1 = false := by
  refine ⟨⟨by decide +kernel, by decide +kernel⟩, ?_⟩
  decide +kernel

/-- A scalar read of a group sent to peer 5 at time 0; one that was answered with a retry; a check; a write on the way to peer 5. -/
def rq (retry : Bool) : Request := ⟨60, 1, none, none, 5, 0x100, 128, .read true, 0, none, 0, none, 0, 0, false, retry, false⟩
def rqDev (rs : List Request) (t : Nat) (m : Mode) : State :=
  { memDev (.event (.rtimeout 60)) [{ grp with mode := m }, blk] with
    requests := rs, time0 := t, ports := { Port.reset with state := 2 } :: List.replicate 17 Port.reset }

theorem meets_OutsideWorld_requests :
    (rqDev [rq false] 0 .run).requests.find? (fun x => x.id == 60) = some (rq false) ∧ powered (rqDev [rq false] 0 .run) = true ∧
    (rq false).answered = false ∧ (rq false).asks = false ∧ ({ rq false with ask := .check true } : Request).asks = true ∧
    linkUp (rqDev [rq false] 0 .run) 5 = true ∧ atomicAccess (rqDev [rq false] 0 .run) (rq false) = false ∧
    ({ rq false with ask := .prefetch true } : Request).prefetches = true ∧ (rq false).prefetches = false ∧
    ({ rq false with ask := .prefetch true } : Request).asks = true ∧ laneAhead (rqDev [rq false] 0 .run) 60 5 0x100 = false ∧
    laneAhead (rqDev [{ rq false with id := 59 }, rq false] 0 .run) 60 5 0x100 = true ∧
    getCtx (rqDev [rq false] 0 .run) 1 = some grp ∧ grp.alive = true ∧
    (rq false).engine = none ∧ (rq false).flight = none ∧ (rq false).ask ≠ .fetch ∧ grp.holdsRequest (rq false) = false ∧
    (rq false).issued + 200000000 ≤ dieTime (rqDev [rq false] 200000000 .run) grp.die ∧
    dieTime (rqDev [rq false] 199999999 .run) grp.die < (rq false).issued + 200000000 ∧
    (rqDev [rq true] 0 (.notice 60)).requests.find? (fun x => x.id == 60) = some (rq true) ∧ (rq true).retry = true ∧
    ({ grp with mode := .ending } : Ctx).holdsRequest (rq false) = true ∧ ({ grp with mode := .ending } : Ctx).alive = true ∧
    getCtx (rqDev [rq false] 0 .ending) 1 = some { grp with mode := .ending } ∧ atomicAccess (rqDev [rq false] 0 .ending) (rq false) = false ∧
    grp.laneMode ≠ .notice 60 ∧ ({ grp with mode := .ending } : Ctx).holdsRequest (rq true) = true := by decide +kernel

/-- The read-modify-write of an atomic's lane. -/
theorem meets_OutsideWorld_atomics :
    let f : Flight := { flight0 with kind := .atomic, accs := [⟨0, some (.peer 5 0x100), [], 0, false⟩] }
    let c : Ctx := { grp with flights := [f] }
    let r : Request := { rq false with flight := some 50, ask := .rmw false 0 [(0, 0, 1, 0)], lane := some 0 }
    c.flights.find? (fun x => x.id == 50) = some f ∧ c.holdsRequest r = false ∧ r.asks = false ∧ c.alive = true ∧
    atomicAccess { rqDev [r] 0 .run with ctxs := [c, blk] } r = true := by decide +kernel

/-- A posted write to a peer, with the way free, with an earlier access of its lane, and with no port up; a write to the host. -/
theorem meets_OutsideWorld_writes :
    let w : HomeWrite := { hw 61 8 with line := .peer 5 2 }
    let h : HomeWrite := { hw 61 8 with line := .here 0x200000000002 }
    let s : State := { rqDev [] 0 .run with homeQ := [w] }
    let u (t : Nat) : State := { rqDev [] t .run with homeQ := [h] }
    s.homeQ.find? (fun x => x.id == 61) = some w ∧ w.op = none ∧ w.retry = false ∧ linkUp s 5 = true ∧ laneAhead s 61 5 (2 * 128) = false ∧
    laneAhead { s with homeQ := [{ w with id := 60 }, w] } 61 5 (2 * 128) = true ∧
    linkUp { s with ports := List.replicate 18 Port.reset } 5 = false ∧ h.hold = none ∧ h.op = none ∧
    (let k : HomeWrite := { h with hold := some (.scalar 1 0), arrived := false }
     hostWrite { u 0 with homeQ := [k] } 61 = some k) ∧
    (postedWrite (u 0) 61).isNone = true ∧ hostWrite (u 0) 61 = some h ∧ h.ctx = some 1 ∧ grp.alive = true ∧
    (u 200000007).time0 < h.due + 200000000 ∧ h.due + 200000000 ≤ (u 200000008).time0 := by decide +kernel

theorem meets_OutsideWorld_debug :
    let s := memDev (.event (.debugRead .marker)) [grp, blk]
    s.canonical ∧ debugRun s 1 1 (granule (coreKey 0 0xFC0)) = some (0, ⟨0, 16, 1, 1, false, 1⟩) ∧ (1 : BitVec 3) ≠ 2 ∧
    debugRun s 1 1 (granule (coreKey 0 0x1000)) = none ∧ debugOther s 1 1 (granule (coreKey 0 0x1000)) = none ∧
    getCtx s 1 = some grp ∧ 191 < s.cores.length ∧ 17 < s.ports.length ∧ ¬ (15 : Nat) ≥ 16 ∧ s.errors.length < 1024 ∧ Port.reset.state ≠ 2 ∧ ({ Port.reset with state := 2 } : Port).state = 2 ∧
    (∀ r ∈ (getCore s 0).rows, r.kind = 2 → r.gen ≠ 1) ∧
    (let g := granule (coreKey 0 0x6440)
     tagAt s (g * 64) = 2 ∧ tagAt s (g * 64) ∈ debugGens s 2 g ∧ tagAt s (g * 64) ∉ debugGens s 1 g ∧ getCtx s 2 = some blk ∧ tagAt s (granule (coreKey 0 0) * 64) = 0 ∧
       (getLaunch s blk.launch).map Launch.rawdbg = some false ∧ ({ codeLaunch 9 with rawdbg := true } : Launch).rawdbg = true) ∧
    (let w (host : List Nat) : State := { s with launches := [lnch 0], nodes := [tenant 0x5000 8], hostDebug := host }
     windowAllows (w [0x5000]) (.ages 1) = true ∧ windowAllows (w []) (.ages 1) = false ∧ windowAllows (w [0x5000]) .marker = false ∧
       tenantOf (w []) 9 = some 0x5000) := by
  refine ⟨⟨by decide +kernel, by decide +kernel⟩, ?_⟩
  decide +kernel

/-! ## One step each, against the worked examples and tables of the spec -/

/-- s4 after a control instruction of a group with s5 = 0x80000000, s6 = 0xFFFFFFFF and s9 = 0 (the table of R194). -/
def r194 (i : Instr) : Word :=
  (ctxOf (after i (onCtrl { grp with sregs := [(5, 0x80000000), (6, 0xFFFFFFFF)] } [])) 1).sreg 4

theorem test_scalar_table :
    r194 (.mul none 4 5 6) = 0x80000000 ∧ r194 (.mulh none 4 5 6) = 0 ∧ r194 (.mulhu none 4 5 6) = 0x7FFFFFFF ∧
    r194 (.sar none 4 5 6) = 0xFFFFFFFF ∧ r194 (.slt none 4 5 6) = 1 ∧ r194 (.divu none 4 5 6) = 0 ∧
    r194 (.divu none 4 5 9) = 0xFFFFFFFF ∧ r194 (.remu none 4 5 9) = 0x80000000 ∧ r194 (.bfx none 4 5 6) = 1 ∧
    r194 (.sub none 4 9 6) = 1 ∧ r194 (.clz none 4 9) = 32 ∧ r194 (.popc none 4 6) = 32 := by decide

/-- A group of 64 lanes with p2 = 0x00000000FFFF0000 whose MEET.lane names the word at 10 (the example of R43). -/
def splitGrp : Ctx :=
  { newCtx 1 1 9 (some 2) 0 64 2 with vregs := 16, regGen := 1, preds := [0, 0xFFFF0000, 0, 0, 0, 0, 0] }
theorem test_split :
    let m := after (.meet none 0 10) (onCtrl splitGrp [])
    let x := ctxOf (after (.brl none 0 2 6) (setCtx m (ctxOf m 1))) 1
    (ctxOf m 1).path.meets = [(10, 0xFFFFFFFFFFFFFFFF)] ∧
    x.paths.map PathEntry.mask = [0xFFFFFFFF0000FFFF, 0xFFFF0000] ∧ x.paths.map PathEntry.pc = [2, 7] ∧
    (x.paths.getD 1 default).meets = [(10, 0xFFFFFFFFFFFFFFFF)] := by decide

theorem test_calls :
    let s := after (.call none 1 5) (onCtrl grp [])
    (ctxOf s 1).pc = 5 ∧ (ctxOf s 1).calls = [1] ∧
    (ctxOf (after (.ret none 1) (onCtrl { grp with calls := [9, 7] } [])) 1).calls.length = 1 := by decide

/-- Lane 1's v4 after a lane instruction of the group with these constants, under numeric version `v`. -/
def laneDev (v : BitVec 2) (k : List Word) : State :=
  let c : Ctx := { grp with clauses := [{ cls k 5 with nbv := v }] }
  onLane c
def lv (v : BitVec 2) (k : List Word) (i : Instr) : Word := vread (after i (laneDev v k)) grp 4 1
def ff (ty : BitVec 4) (mod : BitVec 4) (sub : BitVec 7) : LaneForm := ⟨4, 0xF0, 0xF1, 0, 0, false, ty, mod, 0, 0, sub, 0⟩
def fu : LaneForm := ⟨4, 0xF0, 0, 0, 0, false, 2, 0, 0, 0, 0, 0⟩

/-- The table after R286, versions 2 and 1. -/
theorem test_single_source_floats :
    lv 2 [0x40400000] (.frcp fu) = 0x3EAAAAAB ∧ lv 1 [0x40400000] (.frcp fu) = 0x3EAAAAAB ∧
    lv 2 [0x7F000000] (.frcp fu) = 0x00400000 ∧ lv 1 [0x7F000000] (.frcp fu) = 0 ∧
    lv 2 [0x40000000] (.fsqrt fu) = 0x3FB504F3 ∧ lv 1 [0x40000000] (.fsqrt fu) = 0x3FB504F3 ∧
    lv 2 [1] (.flog fu) = 0xC3150000 ∧ lv 1 [1] (.flog fu) = 0xFF800000 ∧
    lv 2 [1] (.fexpx fu) = 0xFFFFFF6B ∧ lv 1 [1] (.fexpx fu) = 0x80000000 ∧
    lv 2 [1] (.fclass fu) = 0x20 ∧ lv 1 [1] (.fclass fu) = 0x20 ∧
    lv 2 [0x80000000] (.frsq fu) = 0xFF800000 ∧ lv 1 [0x80000000] (.frsq fu) = 0xFF800000 := by decide +kernel

/-- The table of R268: CVT.e4m3x4 of an FP32 value under a bound. -/
theorem test_narrow_table :
    let cvt (x b : Word) : Word := lv 2 [x, b] (.cvt (ff 7 0 2))
    cvt 0x43FA0000 0x43E00000 = 0x7E ∧ cvt 0x43FA0000 0x43C80000 = 0x7C ∧ cvt 0x43960000 0x43E00000 = 0x79 ∧
    cvt 0x3A83126F 0x43E00000 = 0x01 ∧ cvt 0xFF800000 0x43E00000 = 0xFE ∧ cvt 0x7FC00000 0x43E00000 = 0x7F := by decide +kernel

/-- QUANT's example in R291: a block of E4M3 with CLAMP 448.0 that k2 names; 1,000.0 by 0x81, −3.0 by 0x7D. -/
def quantOf (x sc : Word) : Word :=
  let q := cls [x, sc, 0xC800] 5
  let c : Ctx := { grp with clauses := [q] }
  let s : State := { onLane c with
    mem := ([(0xC800, 7), (0xC80E, 0xE0), (0xC80F, 0x43)] : List (Nat × Byte)).map (fun x => (coreKey 0 x.1, x.2))
    tags := [(granule (coreKey 0 0xC800), 3)] }
  vread (after (.quant ⟨4, 0xF0, 0xF1, 0xF2, 0, false, 7, 0, 0, 0, 0, 0⟩) s) grp 4 1
theorem test_quant : quantOf 0x447A0000 0x81 = 0x78 ∧ quantOf 0xC0400000 0x7D = 0xD4 := by decide +kernel

/-- The group of 8 lanes of R244's example: lane 3 dead, v3[i] = 100 + i, v9[i] = (i + 1) mod 8, v8[i] = i. -/
def eight : Ctx :=
  { newCtx 1 1 9 (some 2) 0 8 2 with
    vregs := 16, regGen := 1, dmk := 8, preds := [0, 0, 0, 0, 0, 0, 0], clauses := [{ cls [] 5 with mask := 0xFF }] }
def eightDev : State :=
  let row (r : Nat) (f : Nat → Nat) : List (Nat × Byte) := ((List.range 8).filter (fun i => f i ≠ 0)).map (fun i =>
    (coreKey 0 (256 * r + 4 * i), BitVec.ofNat 8 (f i)))
  { dev (.lane 1) [eight, blk] with
    mem := row 3 (fun i => 100 + i) ++ row 8 (fun i => i) ++ row 9 (fun i => (i + 1) % 8)
    tags := [3, 8, 9].map (fun r => (granule (coreKey 0 (256 * r)), 1)) }
def laneList (s : State) (r : Nat) : List Word := [0, 1, 2, 4, 5, 6, 7].map (vread s eight r)
theorem test_shuffle_example :
    let s := after (.shfl ⟨7, 3, 9, 5, 0, false, 0, 0, 0, 0, 0, 0⟩) eightDev
    laneList s 7 = [101, 102, 0, 105, 106, 107, 100] ∧ (ctxOf s 1).pred 5 = 4 := by decide +kernel
theorem test_vote_example : laneList (after (.vote ⟨11, 8, 0, 0, 0, false, 0, 3, 0, 0, 0, 0⟩) eightDev) 11 = [6, 6, 6, 6, 6, 6, 6] := by
  decide +kernel
theorem test_scan_example : laneList (after (.scan ⟨10, 8, 0, 0, 0, false, 0, 0, 0, 0, 1, 0⟩) eightDev) 10 = [0, 0, 1, 3, 7, 12, 18] := by
  decide +kernel

/-- Elements wrap by themselves (R236, R237): i8x4, i16x2 and i32 sums; a 16-bit difference below zero. -/
theorem test_packed_wrap :
    lv 2 [0x01FF7F80, 0x01018080] (.vadd (ff 6 0 0)) = 0x0200FF00 ∧ lv 2 [0x0001FFFF, 0x00010001] (.vadd (ff 5 0 0)) = 0x00020000 ∧
    lv 2 [0xFFFFFFFF, 1] (.vadd (ff 0 0 0)) = 0 ∧ lv 2 [0x00000000, 0x00010001] (.vsub (ff 5 0 0)) = 0xFFFFFFFF := by decide +kernel

/-- A device store of the scratchpad enters the region store buffer and no byte of memory (R116); own rows are written (R249). -/
theorem test_local_stores :
    let st (sub : BitVec 7) : State := after (.lst ⟨4, 0xF2, 0, 0, 0, false, 0, 2, 0, 0, sub, 8⟩) (laneDev 2 [1, 2, 0])
    (st 2).mem = [] ∧ ((ctxOf (st 2) 1).rsb.map BufEntry.line) = [.here ((coreKey 0 0xC800) / 128)] ∧ (ctxOf (st 1) 1).rsb = [] := by
  decide +kernel

/-- TRAP names its code, and stands in the wait of its launch's trap segment, or is fatal where there is none (R335 to R337). -/
theorem test_trap :
    let s : State := { onCtrl grp [blk] with launches := [{ codeLaunch 9 with words := (codeLaunch 9).words.set 15 0x20 }] }
    let x := ctxOf (after (.trap none 7) s) 1
    let y := ctxOf (after (.trap none 7) (onCtrl grp [blk])) 1
    bits x.trapCause 7 0 = 0x15 ∧ x.mode = .trap ∧ bits y.trapCause 7 0 = 0x15 ∧ y.mode = .faulted := by decide +kernel

/-- Loops: LOOP with a count of 2 pushes its body, NEXT returns to it, then leaves it (R207). -/
theorem test_loops :
    let s1 := after (.loop none 1 5 9) (onCtrl { grp with sregs := [(5, 2)] } [])
    let s2 := after (.loopNext none 1) { s1 with turn := .ctrl 1 }
    let s3 := after (.loopNext none 1) { s2 with turn := .ctrl 1 }
    (ctxOf s1 1).pc = 1 ∧ (ctxOf s1 1).loops.length = 1 ∧ (ctxOf s2 1).pc = 1 ∧ (ctxOf s2 1).loops.length = 1 ∧
    (ctxOf s3 1).loops = [] ∧ (ctxOf s3 1).pc = 2 := by decide

/-- MOVI and MOVL (R195): the immediate is sign-extended, the literal taken whole. -/
theorem test_moves :
    (ctxOf (after (.movi none 4 0xFFFE) (onCtrl grp [])) 1).sreg 4 = 0xFFFFFFFE ∧
    (ctxOf (after (.movl none 4 0x3F317218) (onCtrl grp [])) 1).sreg 4 = 0x3F317218 ∧
    (ctxOf (after (.movl none 4 0x3F317218) (onCtrl grp [])) 1).pc = 2 := by decide

/-- BOOT by BOOT of an accepted first stage and core firmware the stages are 1, 2, 3, 4, ready at the last alone (R393); a first stage
that no source offers is refused at 0xFF. -/
def bootOnce (img : BootImage) (s : State) : State := match exec (.boot img) s with
  | .next t => t
  | _ => s
theorem test_boot :
    let img : BootImage := ⟨some (stage1 0 true 0), none, List.replicate 7 (stage1 0 true 0), 2, 3⟩
    let s1 := bootOnce img State.reset
    let s2 := bootOnce img s1
    let s3 := bootOnce img s2
    [s1, s2, s3, bootOnce img s3].map (fun t => (t.stage, t.ready)) = [(1, false), (2, false), (3, false), (4, true)] ∧
    s3.measurements.length = 4 ∧ s3.measurements.tail = [5, 2, 3] ∧ (bootOnce ⟨none, none, [], 0, 0⟩ s1).stage = 0xFF := by
  decide +kernel

end Sys2Proof.Tests
end

section
/-! PROOFS. Device organisation: the clocks, the reset state, and what a step runs (O5, O6, O7). -/

open Sys2Proof Sys2Proof.Machine

namespace Sys2Proof.Proofs.DeviceOrganisation

/-! ## What every step adds: the clocks (R19) -/

@[simp] theorem tick_time0 (s : State) : (tick s).time0 = (nextTimes s.time0 s.time1 (Config.freeDelta s.steps)).1 := rfl
@[simp] theorem tick_time1 (s : State) : (tick s).time1 = (nextTimes s.time0 s.time1 (Config.freeDelta s.steps)).2 := rfl

/-- The clamp alone keeps the clocks together: die 1 is put within 4 ns of die 0, wherever it stood before. -/
theorem tick_clocksAgree (s : State) : (tick s).clocksAgree := by
  simp only [State.clocksAgree, tick_time0, tick_time1, nextTimes]
  omega

/-- Die 0 only adds. Die 1 keeps to its old time because that was within 4 ns of die 0, so that the upper clamp, 4 ns past
die 0's new time, does not cut below it. -/
theorem tick_clocks_monotone (s : State) (h : s.clocksAgree) : s.time0 ≤ (tick s).time0 ∧ s.time1 ≤ (tick s).time1 := by
  obtain ⟨h01, h10⟩ := h
  simp only [tick_time0, tick_time1, nextTimes]
  omega

/-- A step that answers a next state ends with what every step adds. -/
theorem turnStep_of_step_next {s t : State} (h : step s = .next t) : ∃ u, turnStep s = .next u ∧ t = tick u := by
  unfold step at h
  cases hu : turnStep s with
  | next u => rw [hu] at h; cases h; exact ⟨u, rfl, rfl⟩
  | fault r => rw [hu] at h; cases h
  | refused r => rw [hu] at h; cases h

/-! ## The units after reset -/

theorem getCluster_reset (k : Nat) : getCluster State.reset k = Cluster.reset := List.getElem?_getD_replicate_default_eq ..

theorem getCore_reset (k : Nat) : getCore State.reset k = Core.reset := List.getElem?_getD_replicate_default_eq ..

theorem getVault_reset (k : Nat) : getVault State.reset k = Vault.reset := List.getElem?_getD_replicate_default_eq ..

theorem eq_reset_of_mem_reset_ports {p : Port} (h : p ∈ State.reset.ports) : p = Port.reset := List.eq_of_mem_replicate h

/-! ## The fault queue's producer index: only a batch of page faults moves it (R118) -/

@[simp] theorem dropHolds_fqProduced (s : State) : (dropHolds s).fqProduced = s.fqProduced := rfl

@[simp] theorem settleActive_fqProduced (s : State) : (settleActive s).fqProduced = s.fqProduced := by
  unfold settleActive; split <;> rfl

@[simp] theorem countCorrected_fqProduced (s : State) (k : Nat) : (countCorrected s k).fqProduced = s.fqProduced := by
  unfold countCorrected; split <;> rfl

@[simp] theorem foldl_countCorrected_fqProduced (ks : List Nat) (s : State) :
    (ks.foldl countCorrected s).fqProduced = s.fqProduced := by
  induction ks generalizing s with
  | nil => rfl
  | cons k ks ih => simp [ih]

@[simp] theorem tick_fqProduced (s : State) : (tick s).fqProduced = s.fqProduced := by simp [tick]

@[simp] theorem agePending_fqProduced (id : Nat) (s t : State) : (agePending id s t).fqProduced = t.fqProduced := by
  unfold agePending
  split
  · rfl
  · split <;> rfl

@[simp] theorem dropWait_fqProduced (s : State) (c : Ctx) : (dropWait s c).fqProduced = s.fqProduced := by
  unfold dropWait
  split
  · dsimp only
    split <;> rfl
  · rfl

@[simp] theorem pushError_fqProduced (s : State) (r : List Word) : (pushError s r).fqProduced = s.fqProduced := by
  unfold pushError
  split
  · dsimp only
    split <;> rfl
  · rfl

@[simp] theorem fatal_fqProduced (s : State) (c : Ctx) (code : Nat) (lane : Option Nat) (pc : Word) :
    (fatal s c code lane pc).fqProduced = s.fqProduced := by simp [fatal, ctxError]

/-- A fault that is not replayable writes no fault record. -/
@[simp] theorem takeFault_fqProduced (s : State) (c : Ctx) (code : Nat) (lane : Option Nat) (lst : Bool) (off : Nat) (addr : Word) :
    (takeFault s c code lane lst off addr).fqProduced = s.fqProduced := by
  unfold takeFault
  dsimp only
  split
  · split <;> simp
  · simp

/-- Neither does uncorrectable data. -/
@[simp] theorem scalarUe_fqProduced (s : State) (c : Ctx) (off addr : Nat) : (scalarUe s c off addr).fqProduced = s.fqProduced := by
  unfold scalarUe
  dsimp only
  split <;> simp [ctxError]

@[simp] theorem writeWords_fqProduced (s : State) (k : Nat) (ws : List Word) : (writeWords s k ws).fqProduced = s.fqProduced := by
  induction ws generalizing s k with
  | nil => rfl
  | cons w ws ih => rw [writeWords, ih, writeWord, writeBytes_fqProduced]

@[simp] theorem fqWrite_fqProduced (s : State) (seq : Word) (rs : List (List Word)) :
    (fqWrite s seq rs).fqProduced = s.fqProduced + rs.length := by
  induction rs generalizing s with
  | nil => rfl
  | cons r rs ih =>
    rw [fqWrite, ih, List.length_cons]
    dsimp only
    rw [writeWords_fqProduced]
    omega

/-- A batch writes all its records. -/
theorem fqBatch_fqProduced (s : State) (rs : List (List Word)) : (fqBatch s rs).2.fqProduced = s.fqProduced + rs.length :=
  fqWrite_fqProduced s s.fqSeq rs

/-- A fetch of an absent word writes one record (R401). -/
theorem stallFetch_fqProduced (s : State) (c : Ctx) (va : Nat) (pc : Word) (room : fqRoom s 1 = true) :
    (stallFetch s c va pc).fqProduced = s.fqProduced + 1 := by
  unfold stallFetch
  dsimp only
  rw [if_pos room, setCtx_fqProduced, fqBatch_fqProduced, List.length_singleton]

/-! ## LANE whose clause cannot be read waits for it before its own checks and sources (R187, R189, R401) -/

/-- With an uncorrectable source too, a LANE without a live-mask word whose clause header stands on an absent page stalls as a
fetch does: it is neither the fault UE nor one of R189. -/
theorem exec_lane_absent_header (s : State) (c : Ctx) (d : Reg) (m : BitVec 16) (va : Nat) (turn : s.turn = .ctrlUe c.id)
    (found : getCtx s c.id = some c) (runs : c.canRun = true) (power : powered s = true)
    (absent : fetchLane s c m.toNat 0 = .absent va) :
    exec (.lane none d m) s = .next (stallFetch s c va (trapPcOf false c.pc.toNat)) := by
  have noAtomic : clauseHasAtomic s c m.toNat = false := by simp [clauseHasAtomic, absent]
  have fails : laneFetchFail s c m.toNat = some (.absent va) := by simp [laneFetchFail, absent]
  have blocked : laneBlocked none m s = some (.next (stallFetch s c va (trapPcOf false c.pc.toNat))) := by
    simp [laneBlocked, turn, found, runs, power, noAtomic, fails, fetchAct, finishCtrl]
  show (laneBlocked none m s).getD _ = _
  rw [blocked]
  rfl

/-- A group at LANE s0,0x8000 whose s0 an uncorrectable error has struck. The clause's header lies in page 6 of a code object of
which only page 0 is mapped. -/
def upsetLane : State :=
  let s := State.reset.withFetchWord 32 0x40008000
  setCtx s { (getCtx s 1).getD default with sregBad := [0] }

def upsetLaneCtx : Ctx := (getCtx upsetLane 1).getD default

/-- `upsetLane` where the context's control stream has found the struck register. -/
def upsetLaneTold : State := { upsetLane with turn := .ctrlUe 1 }

theorem upsetLane_decodes : ctrlWordsAt upsetLane upsetLaneCtx = .ok [0x40008000] ∧
    decodeCtrlWords [0x40008000] = .ok (.lane none 0 0x8000, 1) := ⟨rfl, rfl⟩

theorem upsetLane_runs : upsetLane.turn = .ctrl 1 ∧ getCtx upsetLane 1 = some upsetLaneCtx ∧ powered upsetLane = true ∧
    upsetLaneCtx.canRun = true ∧ mayIssue upsetLane upsetLaneCtx = true ∧
    (scalarSources upsetLane upsetLaneCtx (.lane none 0 0x8000)).any upsetLaneCtx.sregUe = true := by decide

theorem upsetLaneTold_stalls : exec (.lane none 0 0x8000) upsetLaneTold =
    .next (stallFetch upsetLaneTold upsetLaneCtx 0x60400 (trapPcOf false upsetLaneCtx.pc.toNat)) :=
  exec_lane_absent_header _ _ 0 0x8000 0x60400 rfl (by decide) (by decide) (by decide) (by decide)

/-- The turn of a control stream that finds an uncorrectable source runs the instruction in the turn `ctrlUe` (R347). -/
theorem ctrlTurn_of_upset (s : State) (id : Nat) (c : Ctx) (ws : List Word) (i : Instr) (n : Nat) (found : getCtx s id = some c)
    (power : powered s = true) (runs : c.canRun = true) (issues : mayIssue s c = true) (words : ctrlWordsAt s c = .ok ws)
    (decodes : decodeCtrlWords ws = .ok (i, n)) (upset : (scalarSources s c i).any c.sregUe = true) :
    ctrlTurn id s = exec i { s with turn := .ctrlUe id } := by
  have mode : c.mode = .run := by
    simp only [Ctx.canRun, Bool.and_eq_true, beq_iff_eq] at runs
    exact runs.1
  simp [ctrlTurn, found, power, mode, runs, issues, words, decodes, upset]

/-! ## The obligations -/

/-- Settles O6: whatever the turn did, what a step adds puts the clocks within 4 ns of each other. -/
theorem clocksStayTogether : Obligations.ClocksStayTogether := by
  refine ⟨fun s t _ h => ?_, tick_clocks_monotone⟩
  obtain ⟨u, -, rfl⟩ := turnStep_of_step_next h
  exact tick_clocksAgree u

/-- Refutes O5: in `upsetLane` a LANE's source holds uncorrectable data and its clause header stands on an absent page. The step
writes the fetch's fault record and waits (R401); UE and the faults of R189 write none. -/
theorem not_stepRunsDecoded : ¬ Obligations.StepRunsDecoded := by
  intro ⟨ctrl, _, _⟩
  obtain ⟨turn, found, power, runs, issues, upset⟩ := upsetLane_runs
  obtain ⟨words, decodes⟩ := upsetLane_decodes
  obtain ⟨t, hstep, ht⟩ := (ctrl _ 1 _ _ _ _ turn found power runs issues words decodes).2 upset
  have stalls : step upsetLane = afterTurn (streamTurn 1 upsetLane
      (.next (stallFetch upsetLaneTold upsetLaneCtx 0x60400 (trapPcOf false upsetLaneCtx.pc.toNat)))) := by
    rw [step, turnStep, turn]
    dsimp only
    rw [ctrlTurn_of_upset _ _ _ _ _ _ found power runs issues words decodes upset, ← upsetLaneTold_stalls]
    rfl
  have wrote : t.fqProduced = upsetLaneTold.fqProduced + 1 := by
    rw [stalls] at hstep
    injection hstep with hstep
    simpa [stallFetch_fqProduced _ _ _ _ (by decide : fqRoom upsetLaneTold 1 = true)] using (congrArg State.fqProduced hstep).symm
  have silent : t.fqProduced = upsetLaneTold.fqProduced := by
    rcases ht with rfl | ⟨code, -, rfl⟩
    · exact scalarUe_fqProduced ..
    · exact takeFault_fqProduced ..
  omega

/-- Settles O7. -/
theorem resetState : Obligations.ResetState := by
  refine ⟨reset_canonical, ⟨by decide, by decide⟩, rfl, rfl, rfl, fun k _ => ?_, fun k _ => ?_, fun k _ => ?_, rfl, rfl, rfl, rfl,
    rfl, rfl, rfl, List.length_replicate, fun p hp => ?_⟩
  · rw [getCluster_reset]
    exact ⟨rfl, rfl, rfl⟩
  · rw [getCore_reset]
    exact ⟨rfl, rfl⟩
  · rw [getVault_reset]
    rfl
  · rw [eq_reset_of_mem_reset_ports hp]
    rfl

end Sys2Proof.Proofs.DeviceOrganisation

end

section
/-! PROOFS. The execution model: contexts by identity, and what a control instruction that none of the checks of R189 stops
does with its own effect. -/

open Sys2Proof Sys2Proof.Machine

namespace Sys2Proof.Proofs.ExecutionModel

/-! ## Contexts by identity -/

theorem getCtx_id {s : State} {id : Nat} {c : Ctx} (h : getCtx s id = some c) : c.id = id := by
  simpa using List.find?_some h

theorem mem_of_getCtx {s : State} {id : Nat} {c : Ctx} (h : getCtx s id = some c) : c ∈ s.ctxs := List.mem_of_find?_eq_some h

theorem find_replaceCtx_same (c : Ctx) (cs : List Ctx) :
    (replaceCtx c cs).find? (fun x => x.id == c.id) = (cs.find? (fun x => x.id == c.id)).map (fun _ => c) := by
  induction cs with
  | nil => rfl
  | cons x r ih => by_cases h : x.id = c.id <;> simp [replaceCtx, h, ih]

theorem find_replaceCtx_other {c : Ctx} {j : Nat} (hj : j ≠ c.id) (cs : List Ctx) :
    (replaceCtx c cs).find? (fun x => x.id == j) = cs.find? (fun x => x.id == j) := by
  induction cs with
  | nil => rfl
  | cons x r ih =>
    by_cases h : x.id = c.id
    · simp [replaceCtx, h, hj.symm]
    · simp [replaceCtx, h, List.find?_cons, ih]

theorem getCtx_setCtx_same {s : State} {c x : Ctx} (h : getCtx s c.id = some x) : getCtx (setCtx s c) c.id = some c := by
  simp only [getCtx] at h
  simp [getCtx, setCtx, find_replaceCtx_same, h]

@[simp] theorem getCtx_setCtx_other {s : State} {c : Ctx} {j : Nat} (hj : j ≠ c.id) : getCtx (setCtx s c) j = getCtx s j :=
  find_replaceCtx_other hj s.ctxs

theorem replaceCtx_replaceCtx {c d : Ctx} (h : c.id = d.id) (cs : List Ctx) : replaceCtx d (replaceCtx c cs) = replaceCtx d cs := by
  induction cs with
  | nil => rfl
  | cons x r ih => by_cases hx : x.id = d.id <;> simp [replaceCtx, h, hx, ih]

/-- The later of two replacements of one context stands. -/
theorem setCtx_setCtx (s : State) {c d : Ctx} (h : c.id = d.id) : setCtx (setCtx s c) d = setCtx s d := by
  simp [setCtx, replaceCtx_replaceCtx h]

theorem modCtx_eq {s : State} {id : Nat} {c : Ctx} (h : getCtx s id = some c) (f : Ctx → Ctx) : modCtx s id f = setCtx s (f c) := by
  simp [modCtx, h]

theorem modCtx_eq_self {s : State} {id : Nat} (h : getCtx s id = none) (f : Ctx → Ctx) : modCtx s id f = s := by
  simp [modCtx, h]

theorem getCtx_modCtx_same {s : State} {id : Nat} {c : Ctx} {f : Ctx → Ctx} (h : getCtx s id = some c) (hf : (f c).id = c.id) :
    getCtx (modCtx s id f) id = some (f c) := by
  have hid : (f c).id = id := hf.trans (getCtx_id h)
  have := getCtx_setCtx_same (s := s) (c := f c) (x := c) (by rw [hid]; exact h)
  rwa [hid, ← modCtx_eq h] at this

theorem getCtx_modCtx_other {s : State} {id j : Nat} {f : Ctx → Ctx} (hf : ∀ c, (f c).id = c.id) (hj : j ≠ id) :
    getCtx (modCtx s id f) j = getCtx s j := by
  cases h : getCtx s id with
  | none => rw [modCtx_eq_self h]
  | some c => rw [modCtx_eq h, getCtx_setCtx_other (by rw [hf, getCtx_id h]; exact hj)]

/-- Replacing a context by itself changes nothing. -/
theorem setCtx_self {s : State} {c : Ctx} (h : getCtx s c.id = some c) : setCtx s c = s := by
  have keeps : ∀ cs : List Ctx, cs.find? (fun x => x.id == c.id) = some c → replaceCtx c cs = cs := by
    intro cs
    induction cs with
    | nil => simp
    | cons x r ih =>
      intro hx
      by_cases hid : x.id = c.id
      · have : x = c := by simpa [hid] using hx
        simp [replaceCtx, this]
      · simp [replaceCtx, hid, ih (by simpa [hid] using hx)]
  simp [setCtx, keeps _ h]

/-! ## A control instruction whose own effect runs -/

/-- The checks of R189 look at no more of an instruction than these fields. -/
theorem executes_congr {sp sp' : CtrlSpec} {s s1 : State} {c c1 : Ctx} (h : Executes sp s c s1 c1) (live : sp'.sp = sp.sp)
    (must : sp'.must = sp.must) (levels : sp'.levels = sp.levels) (scope : scopeOk c sp' = scopeOk c sp)
    (paths : manyPaths c sp' = manyPaths c sp) (writes : sp'.writes = sp.writes) : Executes sp' s c s1 c1 where
  turn := h.turn
  passes := by
    obtain ⟨pmust, plevel, pscope, ppaths, pregion, pidemp⟩ := h.passes
    exact ⟨by rw [must, live]; exact pmust, by rw [levels]; exact plevel, by rw [scope]; exact pscope, by rw [paths]; exact ppaths,
      by rw [live]; exact pregion, by rw [live, writes]; exact pidemp⟩
  entry := by rw [live]; exact h.entry
  own := h.own

/-- An instruction that executes makes its own effect in its entry state (R189, R329). -/
theorem runCtrl_executes {sp : CtrlSpec} {s s1 : State} {c c1 : Ctx} (h : Executes sp s c s1 c1) {illegal : State → Ctx → Bool}
    (legal : illegal s c = false) (mode : (sp.blockMode && c.level == 4 && taskMode s c) = false) (body : State → Ctx → Act) :
    runCtrl sp illegal body s = finishCtrl c.id sp c.pc c.pc.toNat (body s1 c1) := by
  rw [runCtrl_passes sp illegal body s c h.turn h.passes legal mode s1 h.entry, h.own]
  rfl

theorem executes_id {sp : CtrlSpec} {s s1 : State} {c c1 : Ctx} (h : Executes sp s c s1 c1) : c1.id = c.id := getCtx_id h.own

/-- Without a live-mask word the effect starts in the state itself. -/
theorem executes_plain {sp : CtrlSpec} {s s1 : State} {c c1 : Ctx} (h : Executes sp s c s1 c1) (live : sp.sp = none) :
    s1 = s ∧ c1 = c := by
  have he := h.entry
  rw [live, entryState_none] at he
  cases he
  exact ⟨rfl, Option.some.inj (h.own.symm.trans h.turn.found)⟩

/-- In a sequencer the effect starts in the state itself, with S = 1 too (R189). -/
theorem executes_sequencer {sp : CtrlSpec} {s s1 : State} {c c1 : Ctx} (h : Executes sp s c s1 c1) (hc : c.isGroup = false) :
    s1 = s ∧ c1 = c := by
  have he := h.entry
  rw [entryState_sequencer _ _ _ hc] at he
  cases he
  exact ⟨rfl, Option.some.inj (h.own.symm.trans h.turn.found)⟩

/-! What follows the effect -/

theorem finishCtrl_done (sp : CtrlSpec) (c : Ctx) (s : State) (next : Option Pc) :
    finishCtrl c.id sp c.pc c.pc.toNat (.done s next) = .next (completed sp c s next) := rfl

theorem finishCtrl_wait (sp : CtrlSpec) (c : Ctx) (s : State) : finishCtrl c.id sp c.pc c.pc.toNat (.wait s) = .next s := rfl

theorem finishCtrl_suspend (sp : CtrlSpec) (c : Ctx) (s : State) :
    finishCtrl c.id sp c.pc c.pc.toNat (.suspend s) = .next (modCtx s c.id (fun x => x.countIssue sp)) := rfl

theorem finishCtrl_fault {c c1 : Ctx} {s : State} (h : getCtx s c.id = some c1) (sp : CtrlSpec) (code : Nat) (addr : Word) :
    finishCtrl c.id sp c.pc c.pc.toNat (.fault s code addr) = .next (takeFault s c1 code none false c.pc.toNat addr) := by
  simp [finishCtrl, h]

theorem finishCtrl_ue {c c1 : Ctx} {s : State} (h : getCtx s c.id = some c1) (sp : CtrlSpec) (addr : Nat) :
    finishCtrl c.id sp c.pc c.pc.toNat (.ue s addr) = .next (scalarUe s c1 c.pc.toNat addr) := by
  simp [finishCtrl, h]

end Sys2Proof.Proofs.ExecutionModel

end

section
/-! PROOFS. The ends of paths and of contexts (O14, O15). -/

open Sys2Proof Sys2Proof.Machine

namespace Sys2Proof.Proofs.ExecutionModel

/-! ## What one context's change shows of the others -/

theorem getCtx_modCtx (s : State) {id j : Nat} {f : Ctx → Ctx} (hf : ∀ c, (f c).id = c.id) :
    getCtx (modCtx s id f) j = (getCtx s j).map (fun x => if j = id then f x else x) := by
  by_cases hj : j = id
  · subst hj
    cases h : getCtx s j with
    | none => simp [modCtx_eq_self h, h]
    | some c => simp [getCtx_modCtx_same h (hf c)]
  · simp [getCtx_modCtx_other hf hj, hj]

/-- A change of every context that keeps identities changes each where it stands. -/
theorem getCtx_map (s : State) {f : Ctx → Ctx} (hf : ∀ c, (f c).id = c.id) (j : Nat) :
    getCtx { s with ctxs := s.ctxs.map f } j = (getCtx s j).map f := by
  simp only [getCtx, List.find?_map]
  congr 2
  funext c
  simp [hf]

theorem modCtx_onlyCtxs (s : State) (id : Nat) (f : Ctx → Ctx) : modCtx s id f = { s with ctxs := (modCtx s id f).ctxs } := by
  unfold modCtx
  split <;> rfl

/-! ## Markers and the gather state (R33) -/

theorem getCtx_broadcast (s : State) (c : Ctx) (e : Descent) (j : Nat) :
    getCtx (broadcast s c e) j = (getCtx s j).map (fun x =>
      if x.parent = some c.id ∧ c.liveChild x.id = true then { x with descent := x.descent ++ [e] } else x) :=
  getCtx_map s (fun x => by split <;> rfl) j

theorem getCtx_leaveParent (s : State) (c : Ctx) (j : Nat) :
    getCtx (leaveParent s c) j = (getCtx s j).map (fun x => if c.parent = some j then x.unlive c.id else x) := by
  unfold leaveParent
  split
  · next p hp =>
    rw [getCtx_modCtx s (f := fun x => x.unlive c.id) (fun _ => rfl)]
    simp only [hp, Option.some.injEq, eq_comm]
  · next hp => simp [hp]

theorem leaveParent_onlyCtxs (s : State) (c : Ctx) : leaveParent s c = { s with ctxs := (leaveParent s c).ctxs } := by
  unfold leaveParent
  split
  · exact modCtx_onlyCtxs ..
  · rfl

/-! ## The issue slot (R156, R157) -/

theorem ageOthers_path (c : Ctx) : c.ageOthers.path = c.path := by
  by_cases h : c.run < c.paths.length <;> simp [Ctx.path, Ctx.ageOthers, List.getD, h]

theorem countIssue_frame (c : Ctx) (sp : CtrlSpec) : c.countIssue sp =
    { c with paths := (c.countIssue sp).paths, regionLen := (c.countIssue sp).regionLen, issues := (c.countIssue sp).issues } := by
  unfold Ctx.countIssue
  split
  · rfl
  · split <;> rfl

@[simp] theorem countIssue_id (c : Ctx) (sp : CtrlSpec) : (c.countIssue sp).id = c.id := by rw [countIssue_frame]

theorem countIssue_sequencer {c : Ctx} (h : c.isGroup = false) (sp : CtrlSpec) : c.countIssue sp = c := by
  simp [Ctx.countIssue, h]

/-- An instruction that has aged the other paths itself changes no path by its issue slot. -/
theorem countIssue_aged_paths (c : Ctx) {sp : CtrlSpec} (h : sp.aged = true) : (c.countIssue sp).paths = c.paths := by
  simp only [Ctx.countIssue, h, if_true]
  split <;> rfl

/-! ## Lanes that leave every mask (R44, R45) -/

/-- An entry of the path table in none of whose masks a lane of `m` stands. -/
def Cleared (m : LaneMask) (p : PathEntry) : Prop := p.mask &&& m = 0 ∧ p.held &&& m = 0 ∧ ∀ x ∈ p.meets, x.2 &&& m = 0

theorem cleared_default (m : LaneMask) : Cleared m defaultPath := by simp [Cleared, defaultPath]

theorem cleared_getD {m : LaneMask} {ps : List PathEntry} (h : ∀ p ∈ ps, Cleared m p) (j : Nat) : Cleared m (ps.getD j defaultPath) := by
  by_cases hj : j < ps.length
  · simpa [List.getD, hj] using h _ (List.getElem_mem hj)
  · simpa [List.getD, hj] using cleared_default m

theorem and_not_and (x m : LaneMask) : x &&& ~~~m &&& m = 0 := by
  rw [BitVec.and_assoc, BitVec.not_and_self]
  exact BitVec.and_zero

theorem unionMask_and {m : LaneMask} {ms : List LaneMask} (h : ∀ x ∈ ms, x &&& m = 0) : unionMask ms &&& m = 0 := by
  unfold unionMask
  refine List.foldlRecOn ms (· ||| ·) (motive := fun a => a &&& m = 0) (by simp) ?_
  intro a ha x hx
  rw [BitVec.and_comm, BitVec.and_or_distrib_left, BitVec.and_comm, ha, BitVec.and_comm, h x hx, BitVec.or_self]

theorem mergePool_cleared {m : LaneMask} {c : Ctx} (h : ∀ p ∈ c.paths, Cleared m p) (i : Nat) : ∀ p ∈ (c.mergePool i).paths, Cleared m p := by
  intro p hp
  simp only [Ctx.mergePool, List.mem_map, List.mem_range] at hp
  obtain ⟨j, -, rfl⟩ := hp
  split
  · refine ⟨unionMask_and ?_, unionMask_and ?_, ?_⟩
    · simp only [List.map_map, List.mem_map, Function.comp]
      rintro x ⟨k, -, rfl⟩
      exact (cleared_getD h k).1
    · simp only [List.map_map, List.mem_map, Function.comp]
      rintro x ⟨k, -, rfl⟩
      exact (cleared_getD h k).2.1
    · intro x hx
      exact (cleared_getD h _).2.2 x (List.mem_of_mem_dropLast hx)
  · split
    · exact cleared_default m
    · exact cleared_getD h j

theorem mergeAll_cleared {m : LaneMask} (n : Nat) {c : Ctx} (h : ∀ p ∈ c.paths, Cleared m p) : ∀ p ∈ (c.mergeAll n).paths, Cleared m p := by
  induction n generalizing c with
  | zero => exact h
  | succ n ih =>
    unfold Ctx.mergeAll
    split
    · exact ih (mergePool_cleared h _)
    · exact h

theorem schedule_cleared {m : LaneMask} {c : Ctx} (h : ∀ p ∈ c.paths, Cleared m p) : ∀ p ∈ c.schedule.paths, Cleared m p := by
  unfold Ctx.schedule
  split
  · exact h
  · split
    · next j _ =>
      intro p hp
      rcases List.mem_or_eq_of_mem_set hp with hp | rfl
      · exact h p hp
      · exact cleared_getD h j
    · exact h

theorem mergeAll_frame (n : Nat) (c : Ctx) : c.mergeAll n = { c with paths := (c.mergeAll n).paths, sregBad := (c.mergeAll n).sregBad } := by
  induction n generalizing c with
  | zero => rfl
  | succ n ih =>
    unfold Ctx.mergeAll
    split
    · next i _ => rw [ih]; rfl
    · rfl

theorem schedule_frame (c : Ctx) : c.schedule = { c with paths := c.schedule.paths, run := c.schedule.run } := by
  unfold Ctx.schedule
  split
  · rfl
  · split <;> rfl

theorem dropLanes_frame (c : Ctx) (m : LaneMask) : c.dropLanes m =
    { c with paths := (c.dropLanes m).paths, run := (c.dropLanes m).run, sregBad := (c.dropLanes m).sregBad } := by
  unfold Ctx.dropLanes
  dsimp only
  split
  · rw [schedule_frame, mergeAll_frame]
  · rfl

theorem dropLanes_cleared (c : Ctx) (m : LaneMask) : ∀ p ∈ (c.dropLanes m).paths, Cleared m p := by
  have dropped : ∀ p ∈ c.paths.map (fun p => ({ p with
      mask := p.mask &&& ~~~ m, held := p.held &&& ~~~ m, meets := p.meets.map (fun x => (x.1, x.2 &&& ~~~ m)) } : PathEntry)),
      Cleared m p := by
    simp only [List.mem_map]
    rintro p ⟨q, -, rfl⟩
    refine ⟨and_not_and .., and_not_and .., ?_⟩
    simp only [List.mem_map]
    rintro x ⟨y, -, rfl⟩
    exact and_not_and ..
  unfold Ctx.dropLanes
  dsimp only
  split
  · exact schedule_cleared (mergeAll_cleared _ dropped)
  · exact dropped

theorem exitPath_frame (c : Ctx) : c.exitPath = { c with
    exited := c.exited ||| c.path.held, paths := c.exitPath.paths, run := c.exitPath.run, sregBad := c.exitPath.sregBad } := by
  unfold Ctx.exitPath
  rw [dropLanes_frame]
  rfl

theorem exitPath_cleared (c : Ctx) : ∀ p ∈ c.exitPath.paths, Cleared c.path.held p :=
  fun p hp => dropLanes_cleared _ _ p hp

/-- Exited lanes are in the live-lane mask no more. -/
theorem liveMask_exited {c : Ctx} {m e : LaneMask} (h : c.exited = e ||| m) : c.liveMask &&& m = 0 := by
  rw [Ctx.liveMask, h, BitVec.not_or, ← BitVec.and_assoc, and_not_and]

/-- Lanes that have exited a group, and stand in no entry of its path table, are active nowhere and come back by no EXMW. -/
theorem exited_inactive {x : Ctx} {e m : LaneMask} (h : x.exited = e ||| m) :
    (∀ q f, activeLanes x q f &&& m = 0) ∧ ∀ v : LaneMask, (v &&& x.path.held &&& x.liveMask) &&& m = 0 := by
  have live := liveMask_exited h
  refine ⟨fun q f => ?_, fun v => ?_⟩
  · rw [activeLanes, BitVec.and_assoc, BitVec.and_comm _ m, ← BitVec.and_assoc, BitVec.and_assoc q.mask, live]
    simp
  · rw [BitVec.and_assoc, live]
    simp

/-! ## END (R33, R45, R208) -/

theorem exec_endc {sp : Option Word} {sc : BitVec 3} {s s1 : State} {c c1 : Ctx}
    (h : Executes { flowSpec sp sc with laneScope := true } s c s1 c1) : exec (.endc sp sc) s =
      finishCtrl c.id { flowSpec sp sc with laneScope := true, aged := sc == 0 } c.pc c.pc.toNat
        (if sc = 0 then endLane s1 c1 sp else endContext s1 c1) :=
  runCtrl_executes (sp := { flowSpec sp sc with laneScope := true, aged := sc == 0 }) (executes_congr h rfl rfl rfl rfl rfl rfl)
    (illegal := fun _ _ => false) rfl rfl (fun s c => if sc = 0 then endLane s c sp else endContext s c)

/-- The context that END.lane leaves, but for its issue slot: ending where its last path has exited. -/
def laneEnded (s : State) (c : Ctx) (sp : Option Word) : Ctx :=
  let x := c.ageOthers.exitPath
  if x.livePaths = 0 then { x.setPath { defaultPath with pc := c.pc } with mode := .ending }
  else { x with ckpt := sp.elim x.ckpt (fun w => x.checkpoint s.nextId (w.getLsbD 1)) }

/-- What END.lane changes in the context. -/
theorem laneEnded_frame (s : State) (c : Ctx) (sp : Option Word) : laneEnded s c sp = { c with
    exited := c.exited ||| c.path.held, mode := (laneEnded s c sp).mode, paths := (laneEnded s c sp).paths
    run := (laneEnded s c sp).run, sregBad := (laneEnded s c sp).sregBad, ckpt := (laneEnded s c sp).ckpt } := by
  have hx := exitPath_frame c.ageOthers
  rw [ageOthers_path] at hx
  by_cases none_left : c.ageOthers.exitPath.livePaths = 0
  · simp only [laneEnded, if_pos none_left]
    rw [hx]
    rfl
  · simp only [laneEnded, if_neg none_left]
    rw [hx]
    rfl

/-- The paths that stay hold none of the lanes that exit. -/
theorem laneEnded_cleared (s : State) (c : Ctx) (sp : Option Word) : ∀ p ∈ (laneEnded s c sp).paths, Cleared c.path.held p := by
  have stays := exitPath_cleared c.ageOthers
  rw [ageOthers_path] at stays
  intro p hp
  by_cases none_left : c.ageOthers.exitPath.livePaths = 0
  · rw [laneEnded, if_pos none_left] at hp
    rcases List.mem_or_eq_of_mem_set hp with hp | rfl
    · exact stays p hp
    · simp [Cleared, defaultPath]
  · rw [laneEnded, if_neg none_left] at hp
    exact stays p hp

/-- Freeing an entry makes no path live. -/
theorem livePaths_setPath_free {c : Ctx} (h : c.livePaths = 0) {p : PathEntry} (hp : p.state = 0) : (c.setPath p).livePaths = 0 := by
  simp only [Ctx.livePaths, List.length_eq_zero_iff, List.filter_eq_nil_iff, decide_eq_true_eq, not_not] at h ⊢
  intro q hq
  rcases List.mem_or_eq_of_mem_set hq with hq | rfl
  · exact h q hq
  · exact hp

theorem laneEnded_livePaths (s : State) (c : Ctx) (sp : Option Word) :
    (laneEnded s c sp).livePaths = c.ageOthers.exitPath.livePaths := by
  by_cases none_left : c.ageOthers.exitPath.livePaths = 0
  · rw [laneEnded, if_pos none_left, none_left]
    exact livePaths_setPath_free (p := { defaultPath with pc := c.pc }) none_left rfl
  · rw [laneEnded, if_neg none_left]
    rfl

/-- The group waits in its end exactly where no live path is left (R45). -/
theorem laneEnded_mode (s : State) (c : Ctx) (sp : Option Word) :
    (laneEnded s c sp).mode = if (laneEnded s c sp).livePaths = 0 then .ending else c.mode := by
  rw [laneEnded_livePaths]
  by_cases none_left : c.ageOthers.exitPath.livePaths = 0
  · rw [laneEnded, if_pos none_left, if_pos none_left]
  · rw [laneEnded, if_neg none_left, if_neg none_left, exitPath_frame]
    rfl

/-- The state that END.lane leaves: the context in place, and where it ends its parent's entry of it (R33, R45). -/
theorem endLane_eq (s : State) (c : Ctx) (sp : Option Word) : endLane s c sp = .suspend
    (if (laneEnded s c sp).livePaths = 0 then leaveParent (setCtx s (laneEnded s c sp)) c else setCtx s (laneEnded s c sp)) := by
  rw [laneEnded_livePaths]
  unfold endLane
  by_cases none_left : c.ageOthers.exitPath.livePaths = 0
  · simp only [laneEnded, if_pos none_left]
  · simp only [laneEnded, if_neg none_left]
    cases sp <;> rfl

/-- What O14 says of the context `x` that `c1` has become. -/
theorem laneEnded_exits {s : State} {c : Ctx} {sp : Option Word} {x : Ctx} (exited : x.exited = (laneEnded s c sp).exited)
    (paths : x.paths = (laneEnded s c sp).paths) : x.exited = c.exited ||| c.path.held ∧ x.liveMask &&& c.path.held = 0 ∧
      (∀ q f, activeLanes x q f &&& c.path.held = 0) ∧ (∀ v : LaneMask, (v &&& x.path.held &&& x.liveMask) &&& c.path.held = 0) ∧
      ∀ p ∈ x.paths, p.mask &&& c.path.held = 0 ∧ p.held &&& c.path.held = 0 ∧ ∀ m ∈ p.meets, m.2 &&& c.path.held = 0 := by
  have he : x.exited = c.exited ||| c.path.held := by rw [exited, laneEnded_frame]
  obtain ⟨active, back⟩ := exited_inactive he
  refine ⟨he, liveMask_exited he, active, back, ?_⟩
  rw [paths]
  exact laneEnded_cleared s c sp

/-- A context whose parent may be itself leaves its parent's gather state and counts its issue slot: its paths, lanes and mode stay. -/
theorem leave_countIssue_keeps (y : Ctx) (p : Prop) [Decidable p] (k : Nat) {sp : CtrlSpec} (h : sp.aged = true) :
    ((if p then y.unlive k else y).countIssue sp).exited = y.exited ∧ ((if p then y.unlive k else y).countIssue sp).paths = y.paths ∧
      ((if p then y.unlive k else y).countIssue sp).mode = y.mode := by
  refine ⟨?_, ?_, ?_⟩
  · rw [countIssue_frame]
    split <;> rfl
  · rw [countIssue_aged_paths _ h]
    split <;> rfl
  · rw [countIssue_frame]
    split <;> rfl

/-- What a context's leaving shows of each context, where it leaves. -/
theorem getCtx_leaveParent_if (p : Prop) [Decidable p] (s : State) (c : Ctx) (j : Nat) :
    getCtx (if p then leaveParent s c else s) j =
      (getCtx s j).map (fun x => if p ∧ c.parent = some j then x.unlive c.id else x) := by
  by_cases hp : p
  · simp only [hp, if_true, true_and, getCtx_leaveParent]
  · simp [hp]

/-- Settles O14. -/
theorem pathExit : Obligations.PathExit := by
  intro sp s c s1 c1 hx _
  have own := hx.own
  have hid : c1.id = c.id := executes_id hx
  have eid : (laneEnded s1 c1 sp).id = c.id := by rw [laneEnded_frame]; exact hid
  have placed : getCtx (setCtx s1 (laneEnded s1 c1 sp)) c.id = some (laneEnded s1 c1 sp) := by
    rw [← eid] at own ⊢
    exact getCtx_setCtx_same own
  have mode := laneEnded_mode s1 c1 sp
  have runs := exec_endc hx
  rw [if_pos rfl, endLane_eq, finishCtrl_suspend] at runs
  obtain ⟨exited, paths, hmode⟩ := leave_countIssue_keeps (laneEnded s1 c1 sp)
    ((laneEnded s1 c1 sp).livePaths = 0 ∧ c1.parent = some c.id) c1.id
    (sp := { flowSpec sp 0 with laneScope := true, aged := (0 : BitVec 3) == 0 }) rfl
  obtain ⟨h1, h2, h3, h4, h5⟩ := laneEnded_exits exited paths
  refine ⟨_, _, runs, ?_, h1, h2, h3, h4, h5, fun last => ⟨?_, ?_⟩, fun left => ?_⟩
  · rw [getCtx_modCtx _ (fun x => countIssue_id x _), getCtx_leaveParent_if, placed]
    simp
  · rw [Ctx.livePaths, paths] at last
    rw [hmode, mode, if_pos (by exact last)]
  · intro p y parent hy r hr hchild
    rw [Ctx.livePaths, paths] at last
    rw [getCtx_modCtx _ (fun x => countIssue_id x _), getCtx_leaveParent_if, Option.map_map, Option.map_eq_some_iff] at hy
    obtain ⟨z, -, rfl⟩ := hy
    have leaves : (laneEnded s1 c1 sp).livePaths = 0 ∧ c1.parent = some p := ⟨last, parent⟩
    have gather : r ∈ (z.unlive c1.id).gather := by
      simp only [Function.comp, if_pos leaves] at hr
      split at hr
      · rwa [countIssue_frame] at hr
      · exact hr
    simp only [Ctx.unlive, List.mem_map] at gather
    obtain ⟨q, -, rfl⟩ := gather
    split at hchild
    · next is_child => rw [if_pos is_child]
    · next other => exact absurd (hchild.trans hid.symm) other
  · rw [Ctx.livePaths, paths] at left
    rw [hmode, mode, if_neg (by exact left)]

/-- The launch of a grid records that the grid has executed END (R33). -/
def gridEnded (s : State) (c : Ctx) : State :=
  if c.level == 4 then
    match getLaunch s c.launch with
    | some l => setLaunch s { l with gridEnd := true }
    | none => s
  else s

theorem endContext_room {s : State} {c : Ctx} (room : childFull s c = false) : endContext s c =
    .suspend (leaveParent (setCtx (gridEnded (broadcast s c .marker) c) { c with mode := .ending }) c) := by
  simp only [endContext, room, gridEnded]
  rfl

theorem gridEnded_onlyLaunches (s : State) (c : Ctx) : gridEnded s c = { s with launches := (gridEnded s c).launches } := by
  unfold gridEnded
  split
  · split <;> rfl
  · rfl

theorem getCtx_gridEnded (s : State) (c : Ctx) (j : Nat) : getCtx (gridEnded s c) j = getCtx s j := by
  rw [gridEnded_onlyLaunches]
  rfl

theorem getLaunch_id {s : State} {id : Nat} {l : Launch} (h : getLaunch s id = some l) : l.id = id := by
  simpa using List.find?_some h

theorem getLaunch_setLaunch (s : State) (l : Launch) (j : Nat) :
    getLaunch (setLaunch s l) j = (getLaunch s j).map (fun x => if x.id = l.id then l else x) := by
  simp only [getLaunch, setLaunch, List.find?_map]
  congr 2
  funext x
  simp only [Function.comp]
  split
  · next h => rw [h]
  · rfl

theorem getLaunch_gridEnded {s : State} {l : Launch} (h : getLaunch s l.id = some l) (c : Ctx) : getLaunch (gridEnded s c) l.id =
    some (if c.level = 4 ∧ l.id = c.launch then { l with gridEnd := true } else l) := by
  unfold gridEnded
  by_cases level : c.level = 4
  · simp only [level, beq_self_eq_true, if_true, true_and]
    cases found : getLaunch s c.launch with
    | none =>
      have other : l.id ≠ c.launch := fun e => by rw [e, found] at h; cases h
      simp [h, other]
    | some g =>
      have gid := getLaunch_id found
      rw [getLaunch_setLaunch, h]
      by_cases same : l.id = c.launch
      · rw [same, found] at h
        cases h
        simp [same]
      · simp [same, gid]
  · rw [if_neg (by simpa using level), if_neg (fun both => level both.1)]
    exact h

/-- Settles O15. -/
theorem contextEnds : Obligations.ContextEnds := by
  intro sp sc s c s1 c1 hx hsc
  have own := hx.own
  have hid : c1.id = c.id := executes_id hx
  have runs := exec_endc hx
  rw [if_neg hsc] at runs
  refine ⟨fun full => ?_, fun room => ?_⟩
  · rw [runs, endContext, if_pos full, finishCtrl_wait]
  rw [endContext_room room, finishCtrl_suspend] at runs
  let spec : CtrlSpec := { flowSpec sp sc with laneScope := true, aged := sc == 0 }
  let v := setCtx (gridEnded (broadcast s1 c1 .marker) c1) { c1 with mode := .ending }
  -- every context after the step, from the one before the parent was told
  have after : ∀ j, getCtx (modCtx (leaveParent v c1) c.id (fun x => x.countIssue spec)) j = (getCtx v j).map (fun x =>
      let y := if c1.parent = some j then x.unlive c1.id else x
      if j = c.id then y.countIssue spec else y) := by
    intro j
    rw [getCtx_modCtx _ (fun x => countIssue_id x _), getCtx_leaveParent, Option.map_map]
    rfl
  have ending : getCtx v c.id = some { c1 with mode := .ending } := by
    have sent : getCtx (gridEnded (broadcast s1 c1 .marker) c1) c.id ≠ none := by
      rw [getCtx_gridEnded, getCtx_broadcast, own]
      simp
    obtain ⟨y, hy⟩ := Option.ne_none_iff_exists'.1 sent
    rw [← hid] at hy ⊢
    exact getCtx_setCtx_same (c := { c1 with mode := .ending }) hy
  refine ⟨_, _, runs, by rw [after, ending]; rfl, ?_, ?_, ?_, ?_, ?_⟩
  · dsimp only
    rw [if_pos rfl, countIssue_frame]
    split <;> rfl
  · intro other
    dsimp only
    rw [if_pos rfl, countIssue_frame, if_neg other]
  · intro y hy other
    have found : getCtx v y.id = some (if y.parent = some c1.id ∧ c1.liveChild y.id = true then
        { y with descent := y.descent ++ [.marker] } else y) := by
      rw [getCtx_setCtx_other (by rw [← hid] at other; exact other), getCtx_gridEnded, getCtx_broadcast, hy]
      rfl
    refine ⟨_, by rw [after, found]; rfl, ?_, ?_, ?_⟩
    · dsimp only
      rw [if_neg other]
      split <;> split <;> rfl
    · dsimp only
      rw [if_neg other, hid]
      split <;> split <;> rfl
    · dsimp only
      rw [if_neg other, hid]
      split <;> split <;> rfl
  · intro l hl
    have hl' : getLaunch (broadcast s1 c1 .marker) l.id = some l := hl
    rw [modCtx_onlyCtxs, leaveParent_onlyCtxs]
    exact getLaunch_gridEnded hl' c1
  · rw [modCtx_onlyCtxs, leaveParent_onlyCtxs]
    show _ = { s1 with ctxs := _, launches := _ }
    dsimp only [v, setCtx]
    rw [gridEnded_onlyLaunches]
    rfl

end Sys2Proof.Proofs.ExecutionModel

end

section
/-! PROOFS. BRL copies the marks of uncorrectable private registers (O16). -/

open Sys2Proof Sys2Proof.Machine

namespace Sys2Proof.Proofs.ExecutionModel

/-- A group of two lanes with two path entries: lane 1 has p7 set, and the running path's s252 is marked uncorrectable. -/
def markedGroup : Ctx :=
  { newCtx 1 1 9 (some 2) 0 2 2 with preds := [0, 0, 0, 0, 0, 0, 2], sregBad := [256] }

/-- The device with that group alone, its control stream's turn. -/
def markedState : State := { State.reset with turn := .ctrl 1, ctxs := [markedGroup] }

/-- BRL in group scope with S = 0. -/
def brlSpec : CtrlSpec := { branchSpec none 0 with levels := groupLevels, onlyScope := some 0, aged := true }

theorem brl_executes_marked : Executes brlSpec markedState markedGroup markedState markedGroup where
  turn := ⟨rfl, by decide, by decide, by decide⟩
  passes := ⟨by decide, by decide, by decide, by decide, by decide, by decide⟩
  entry := rfl
  own := by decide

/-- The marks that the group has after an outcome. -/
def marksAfter (o : Host.Outcome State Fault Refusal) : Option (List Nat) :=
  match o with
  | .next t => (getCtx t 1).map Ctx.sregBad
  | _ => none

/-- The split carries the mark of s252 over to the private registers of the new path. -/
theorem brl_marks_new_path : marksAfter (exec (.brl none 0 7 5) markedState) = some [256, 260] := by decide

/-- Refutes O16: a split copies, with the running path's private registers, the marks of those that hold uncorrectable data
(R347), and the statement leaves the group's marks as they were. With s252 of path 0 marked, BRL marks s252 of the new path too. -/
theorem not_pathSplitAndMeet : ¬ Obligations.PathSplitAndMeet := by
  intro ⟨brl, _⟩
  have split := ((brl none 0 7 5 _ _ _ _ brl_executes_marked).2 (by decide)).2.2.2 1 (by decide) (by decide) (by decide)
  have marks := brl_marks_new_path
  rw [split] at marks
  exact absurd marks (by decide)

end Sys2Proof.Proofs.ExecutionModel

end

section
/-! PROOFS. LANE (O17). -/

open Sys2Proof Sys2Proof.Machine

namespace Sys2Proof.Proofs.ExecutionModel

/-- An instruction that fails the first check of R189 takes ILLEGAL and does nothing else. -/
theorem runCtrl_illegal {sp : CtrlSpec} {s : State} {c : Ctx} (t : CtrlTurn s c) {illegal : State → Ctx → Bool}
    (bad : illegal s c = true) (body : State → Ctx → Act) :
    runCtrl sp illegal body s = .next (takeFault s c ILLEGAL none false c.pc.toNat 0) := by
  obtain ⟨turn, found, runs, power⟩ := t
  simp [runCtrl, turn, found, runs, power, ctrlFault, bad]

/-- What LANE does once its safe point is passed. -/
def laneBody (d : Reg) (m : BitVec 16) (s : State) (c : Ctx) : Act :=
  match laneFetchFail s c m.toNat with
  | some f => fetchAct s c (trapPcOf false c.pc.toNat) f
  | none =>
    if 16 ≤ c.clauses.length then .wait s
    else
      let h := (fetchLane s c m.toNat 0).val
      let sig := (clauseW0 s c m.toNat (bits h 31 28 + 1)).foldl (fun g f => absorb g f.val) c.path.sig
      let q : Clause := ⟨s.nextId, m, c.sregRun d.toNat 4, c.path.mask, c.nbv, effPols s c, c.run, c.live, c.liveRegs, false, 0, 0, 0, false⟩
      let c1 := c.setPath { c.path with sig := sig }
      .done (setCtx { s with nextId := s.nextId + 1 } { c1 with clauses := c1.clauses ++ [q] }) none

theorem exec_lane (sp : Option Word) (d : Reg) (m : BitVec 16) (s : State) : exec (.lane sp d m) s = (laneBlocked sp m s).getD
    (runCtrl (laneCtrl sp) (fun s c => sp.isNone && clauseHasAtomic s c m.toNat) (laneBody d m) s) := rfl

section
variable {s : State} {c : Ctx} {m : Nat} {h : Word} {ws : List Word} (header : fetchLane s c m 0 = .word h)
  (words : clauseW0 s c m (bits h 31 28 + 1) = ws.map Fetch.word)
include header words

theorem laneFetchFail_words : laneFetchFail s c m = none := by
  simp [laneFetchFail, header, words]

theorem clauseHasAtomic_words :
    clauseHasAtomic s c m = true ↔ ∃ w ∈ ws, bits w 31 24 = 0x52 ∨ bits w 31 24 = 0x56 := by
  simp [clauseHasAtomic, header, words, Fetch.val]

end

/-- Where the clause's words can be read, no word holds up a LANE with S = 0 (R401). -/
theorem laneBlocked_words {s : State} {c : Ctx} {m : BitVec 16} (t : CtrlTurn s c) (fetched : laneFetchFail s c m.toNat = none) (sp : Option Word) :
    laneBlocked sp m s = none := by
  obtain ⟨turn, found, runs, power⟩ := t
  simp [laneBlocked, turn, found, fetched]

/-- A LANE with S = 1 waits for no word before its safe point. -/
theorem laneBlocked_live {s : State} {c : Ctx} (t : CtrlTurn s c) (m : BitVec 16) (w : Word) :
    laneBlocked (some w) m s = none := by
  obtain ⟨turn, found, runs, power⟩ := t
  simp [laneBlocked, turn, found]

theorem absorb_words (ws : List Word) (g : Word) :
    (ws.map Fetch.word).foldl (fun g f => absorb g f.val) g = ws.foldl absorb g := by
  rw [List.foldl_map]
  rfl

/-- LANE's own effect where every word of its clause is read and the queue has room. -/
theorem laneBody_room {s : State} {c : Ctx} {m : BitVec 16} {h : Word} {ws : List Word} (header : fetchLane s c m.toNat 0 = .word h)
    (words : clauseW0 s c m.toNat (bits h 31 28 + 1) = ws.map Fetch.word) (d : Reg) (room : c.clauses.length < 16) :
    laneBody d m s c = .done (setCtx { s with nextId := s.nextId + 1 } { c.setPath { c.path with sig := ws.foldl absorb c.path.sig } with
          clauses := c.clauses ++ [⟨s.nextId, m, [c.sreg d.toNat, c.sreg (d.toNat + 1), c.sreg (d.toNat + 2),
            c.sreg (d.toNat + 3)], c.path.mask, c.nbv, effPols s c, c.run, c.live, c.liveRegs, false, 0, 0, 0, false⟩] }) none := by
  have hval : (fetchLane s c m.toNat 0).val = h := by rw [header]; rfl
  simp only [laneBody, laneFetchFail_words header words, if_neg (Nat.not_le.2 room), hval, words, absorb_words]
  rfl

theorem laneBody_full {s : State} {c : Ctx} {m : BitVec 16} (fetched : laneFetchFail s c m.toNat = none) (d : Reg) (full : 16 ≤ c.clauses.length) :
    laneBody d m s c = .wait s := by
  simp only [laneBody, fetched, if_pos full]

/-- Settles O17. -/
theorem laneEnqueues : Obligations.LaneEnqueues := by
  intro sp d m s c s1 c1 h ws spec atomic hx header words
  have fetched := laneFetchFail_words header words
  have hid := executes_id hx
  refine ⟨?_, fun clear => ?_⟩
  · rintro rfl hatomic
    obtain ⟨rfl, rfl⟩ := executes_plain hx rfl
    have bad : clauseHasAtomic s1 c1 m.toNat = true := (clauseHasAtomic_words header words).2 hatomic
    rw [exec_lane, laneBlocked_words hx.turn fetched]
    exact runCtrl_illegal hx.turn (by simpa using bad) _
  -- none of R187's check and of the words holds the LANE up, so its own effect runs
  have runs : exec (.lane sp d m) s = finishCtrl c.id spec c.pc c.pc.toNat (laneBody d m s1 c1) := by
    cases sp with
    | some w =>
      rw [exec_lane, laneBlocked_live hx.turn]
      exact runCtrl_executes hx rfl rfl _
    | none =>
      obtain ⟨rfl, rfl⟩ := executes_plain hx rfl
      have none_atomic : clauseHasAtomic s1 c1 m.toNat = false := by
        rw [← Bool.not_eq_true, clauseHasAtomic_words header words]
        exact clear.resolve_left (fun e => e rfl)
      rw [exec_lane, laneBlocked_words hx.turn fetched]
      exact runCtrl_executes hx (by simpa using none_atomic) rfl _
  refine ⟨fun full => ?_, fun room => ?_⟩
  · rw [runs, laneBody_full fetched d full, finishCtrl_wait]
  · rw [runs, laneBody_room header words d room, finishCtrl_done]

end Sys2Proof.Proofs.ExecutionModel

end

section
/-! PROOFS. PTOS, EXMR, EXMW and the VTOS forms (O19). -/

open Sys2Proof Sys2Proof.Machine

namespace Sys2Proof.Proofs.ExecutionModel

/-! ## A lane's word -/

/-- The four bytes of a lane's register lie in one granule. -/
theorem granule_vreg (c : Ctx) (r l i : Nat) (hi : i < 4) :
    granule (coreKey c.core (c.vregOff r l) + i) = granule (coreKey c.core (c.vregOff r l)) := by
  simp only [granule, coreKey, Ctx.vregOff]
  omega

/-- A register whose granule is stale reads 0 (R61, R100). -/
theorem vread_stale {s : State} {c : Ctx} {r l : Nat} (h : vstale s c r l = true) : vread s c r l = 0 := by
  have differs (i : Nat) (hi : i < 4) : tagAt s (coreKey c.core (c.vregOff r l) + i) ≠ c.regGen := by
    rw [tagAt, granule_vreg c r l i hi]
    exact of_decide_eq_true h
  have d0 := differs 0 (by omega)
  have d1 := differs 1 (by omega)
  have d2 := differs 2 (by omega)
  have d3 := differs 3 (by omega)
  rw [Nat.add_zero] at d0
  simp only [vread, readTagged, if_neg d0, Nat.add_assoc, Nat.reduceAdd, if_neg d1, if_neg d2, if_neg d3]
  rfl

theorem vread_eq (s : State) (c : Ctx) (r l : Nat) : (if vstale s c r l then 0 else vread s c r l) = vread s c r l := by
  split
  · next h => rw [vread_stale h]
  · rfl

/-! ## The read of a lane for VTOS (R213) -/

section
variable {s : State} {c : Ctx} {d l : Nat} {regs : List Nat}

theorem vtosRead_missing {r : Nat} (hr : r ∈ regs) (missing : c.vregs ≤ r) : vtosRead s c d regs l = .fault s PERM 0 := by
  have : regs.any (fun r => c.vregs ≤ r) = true := List.any_eq_true.2 ⟨r, hr, by simpa using missing⟩
  rw [vtosRead, if_pos this]

variable (exist : ∀ r ∈ regs, r < c.vregs)
include exist

theorem vtosRead_exist : vtosRead s c d regs l =
    if c.deadOrAbsent l then .done (setCtx s (c.setSregRun d (regs.map (fun _ => 0)))) none
    else
      match regs.find? (fun r => c.polReg && vstale s c r l) with
      | some r => .fault s STALE (BitVec.ofNat 32 (c.vregOff r l / 64 * 64))
      | none =>
        match regs.find? (fun r => !vstale s c r l && poisonAt s (coreKey c.core (c.vregOff r l))) with
        | some r => .ue s (c.vregOff r l)
        | none => .done (setCtx s (c.setSregRun d (regs.map (fun r => vread s c r l)))) none := by
  have : ¬ regs.any (fun r => c.vregs ≤ r) = true := by simpa using exist
  rw [vtosRead, if_neg this]
  rfl

theorem vtosRead_dead (dead : c.deadOrAbsent l = true) :
    vtosRead s c d regs l = .done (setCtx s (c.setSregRun d (regs.map (fun _ => 0)))) none := by
  rw [vtosRead_exist exist, if_pos dead]

variable (lives : c.deadOrAbsent l = false)
include lives

theorem vtosRead_stale {r : Nat} (first : regs.find? (fun r => c.polReg && vstale s c r l) = some r) :
    vtosRead s c d regs l = .fault s STALE (BitVec.ofNat 32 (c.vregOff r l / 64 * 64)) := by
  rw [vtosRead_exist exist, if_neg (by simp [lives]), first]

theorem vtosRead_words (traps : ∀ r ∈ regs, ¬ (vstale s c r l = true ∧ c.polReg = true))
    (sound : ∀ r ∈ regs, ¬ (vstale s c r l = false ∧ poisonAt s (coreKey c.core (c.vregOff r l)) = true)) :
    vtosRead s c d regs l =
      .done (setCtx s (c.setSregRun d (regs.map (fun r => if vstale s c r l then 0 else vread s c r l)))) none := by
  have no_trap : regs.find? (fun r => c.polReg && vstale s c r l) = none :=
    List.find?_eq_none.2 (fun r hr h => traps r hr (by simpa [and_comm] using h))
  have no_ue : regs.find? (fun r => !vstale s c r l && poisonAt s (coreKey c.core (c.vregOff r l))) = none :=
    List.find?_eq_none.2 (fun r hr h => sound r hr (by simpa using h))
  rw [vtosRead_exist exist, if_neg (by simp [lives]), no_trap, no_ue]
  simp only [vread_eq]

end

/-! ## The instructions in the state where their effect starts -/

section
variable {sp : Option Word} {s s1 : State} {c c1 : Ctx}

theorem exec_ptos {d : Reg} (n : BitVec 3) (h : Executes (groupSpec sp false [d.toNat, d.toNat + 1]) s c s1 c1) :
    exec (.ptos sp d n) s = finishCtrl c.id (groupSpec sp false [d.toNat, d.toNat + 1]) c.pc c.pc.toNat
      (if !c1.laneIdle then .wait s1
       else if c1.predUe n.toNat then .ue s1 0
       else .done (setCtx s1 (c1.setSregRun d.toNat [(c1.pred n.toNat).setWidth 32, (c1.pred n.toNat).extractLsb' 32 32])) none) :=
  runCtrl_executes h (illegal := fun _ _ => false) rfl rfl (fun s c =>
      if !c.laneIdle then .wait s
      else if c.predUe n.toNat then .ue s 0
      else
        let p := c.pred n.toNat
        .done (setCtx s (c.setSregRun d.toNat [p.setWidth 32, p.extractLsb' 32 32])) none)

theorem exec_vtos {d : Reg} (a : Reg) (l : BitVec 6) (h : Executes (groupSpec sp false [d.toNat]) s c s1 c1) :
    exec (.vtos sp d a l) s = finishCtrl c.id (groupSpec sp false [d.toNat]) c.pc c.pc.toNat
      (if c1.laneIdle then vtosRead s1 c1 d.toNat [a.toNat] l.toNat else .wait s1) :=
  runCtrl_executes h (illegal := fun _ _ => false) rfl rfl
    (fun s c => if c.laneIdle then vtosRead s c d.toNat [a.toNat] l.toNat else .wait s)

theorem exec_vtosPair {d : Reg} (a : Reg) (l : BitVec 6) (h : Executes (groupSpec sp false [d.toNat, d.toNat + 1]) s c s1 c1) :
    exec (.vtosPair sp d a l) s = finishCtrl c.id (groupSpec sp false [d.toNat, d.toNat + 1]) c.pc c.pc.toNat
      (if c1.laneIdle then vtosRead s1 c1 d.toNat [a.toNat, a.toNat + 1] l.toNat else .wait s1) :=
  runCtrl_executes h (illegal := fun _ _ => false) rfl rfl
    (fun s c => if c.laneIdle then vtosRead s c d.toNat [a.toNat, a.toNat + 1] l.toNat else .wait s)

theorem exec_vtosFirst {d : Reg} (a : Reg) (h : Executes (groupSpec sp false [d.toNat]) s c s1 c1) :
    exec (.vtosFirst sp d a) s = finishCtrl c.id (groupSpec sp false [d.toNat]) c.pc c.pc.toNat
      (if !c1.laneIdle then .wait s1
       else if c1.vregs ≤ a.toNat then .fault s1 PERM 0
       else if c1.path.mask = 0 then .done (setCtx s1 (c1.setSreg d.toNat 0)) none
       else vtosRead s1 c1 d.toNat [a.toNat] (lowestLane c1.path.mask)) :=
  runCtrl_executes h (illegal := fun _ _ => false) rfl rfl (fun s c =>
      if !c.laneIdle then .wait s
      else if c.vregs ≤ a.toNat then .fault s PERM 0
      else if c.path.mask = 0 then .done (setCtx s (c.setSreg d.toNat 0)) none
      else vtosRead s c d.toNat [a.toNat] (lowestLane c.path.mask))

/-- An instruction that only changes its own context completes with that change. -/
theorem pureCtrl_executes {spec : CtrlSpec} (h : Executes spec s c s1 c1) (mode : (spec.blockMode && c.level == 4 && taskMode s c) = false)
    (f : Ctx → Ctx) : pureCtrl spec f s = .next (completed spec c (setCtx s1 (f c1)) none) :=
  runCtrl_executes h (illegal := fun _ _ => false) rfl mode (fun s c => .done (setCtx s (f c)) none)

end

/-! ## The effects by case -/

section
variable {sp : Option Word} {s s1 : State} {c c1 : Ctx} {d : Reg}

/-- VTOS of one lane with the lane stream idle. -/
theorem exec_vtos_idle (a : Reg) (l : BitVec 6) (h : Executes (groupSpec sp false [d.toNat]) s c s1 c1) (idle : c1.laneIdle = true) :
    exec (.vtos sp d a l) s = finishCtrl c.id (groupSpec sp false [d.toNat]) c.pc c.pc.toNat
      (vtosRead s1 c1 d.toNat [a.toNat] l.toNat) := by
  rw [exec_vtos a l h, if_pos idle]

/-- The first form with the lane stream idle, a register that exists and an active lane. -/
theorem exec_vtosFirst_lane {a : Reg} (h : Executes (groupSpec sp false [d.toNat]) s c s1 c1) (idle : c1.laneIdle = true)
    (exist : a.toNat < c1.vregs) (some_lane : c1.path.mask ≠ 0) :
    exec (.vtosFirst sp d a) s = finishCtrl c.id (groupSpec sp false [d.toNat]) c.pc c.pc.toNat
      (vtosRead s1 c1 d.toNat [a.toNat] (lowestLane c1.path.mask)) := by
  rw [exec_vtosFirst a h, if_neg (by simp [idle]), if_neg (Nat.not_le.2 exist), if_neg some_lane]

theorem exec_vtosPair_idle (a : Reg) (l : BitVec 6) (h : Executes (groupSpec sp false [d.toNat, d.toNat + 1]) s c s1 c1)
    (idle : c1.laneIdle = true) :
    exec (.vtosPair sp d a l) s = finishCtrl c.id (groupSpec sp false [d.toNat, d.toNat + 1]) c.pc c.pc.toNat
      (vtosRead s1 c1 d.toNat [a.toNat, a.toNat + 1] l.toNat) := by
  rw [exec_vtosPair a l h, if_pos idle]

end

/-- Settles O19. -/
theorem predicateAndLaneReads : Obligations.PredicateAndLaneReads := by
  refine ⟨?_, fun sp a s c s1 c1 hx => pureCtrl_executes hx rfl _⟩
  intro s c s1 c1 sp d a l one two bad word fault stale low
  refine ⟨fun n hx => ?_, fun hx => pureCtrl_executes hx rfl _, fun hx => ?_, fun hx => ?_⟩
  · -- PTOS
    rw [exec_ptos n hx]
    refine ⟨fun busy => ?_, fun idle ue => ?_, fun idle sound => ?_⟩
    · rw [if_pos (by simp [busy]), finishCtrl_wait]
    · rw [if_neg (by simp [idle]), if_pos ue, finishCtrl_ue hx.own]
    · rw [if_neg (by simp [idle]), if_neg (by simp [sound]), finishCtrl_done]
      rfl
  · -- the forms of one register
    refine ⟨fun busy => ⟨?_, ?_⟩, fun idle missing => ⟨?_, ?_⟩, fun idle exist => ?_⟩
    · rw [exec_vtos a l hx, if_neg (by simp [busy]), finishCtrl_wait]
    · rw [exec_vtosFirst a hx, if_pos (by simp [busy]), finishCtrl_wait]
    · rw [exec_vtos_idle a l hx idle, vtosRead_missing (List.mem_singleton_self _) missing, finishCtrl_fault hx.own]
    · rw [exec_vtosFirst a hx, if_neg (by simp [idle]), if_pos missing, finishCtrl_fault hx.own]
    · have exists_one : ∀ r ∈ [a.toNat], r < c1.vregs := by simpa using exist
      refine ⟨fun dead => ?_, fun lives => ⟨fun st pol => ?_, fun trap sound => ?_⟩, fun none_or_dead => ?_,
        fun some_lane lives => ⟨fun st pol => ?_, fun trap sound => ?_⟩⟩
      · rw [exec_vtos_idle a l hx idle, vtosRead_dead exists_one dead]
        rfl
      · rw [exec_vtos_idle a l hx idle, vtosRead_stale (r := a.toNat) exists_one lives (List.find?_cons_of_pos (Bool.and_eq_true_iff.2 ⟨pol, st⟩)), finishCtrl_fault hx.own]
      · rw [exec_vtos_idle a l hx idle, vtosRead_words exists_one lives (by simpa using trap) (by simpa [bad] using sound)]
        rfl
      · by_cases none_left : c1.path.mask = 0
        · rw [exec_vtosFirst a hx, if_neg (by simp [idle]), if_neg (Nat.not_le.2 exist), if_pos none_left]
          rfl
        · rw [exec_vtosFirst_lane hx idle exist none_left, vtosRead_dead exists_one (none_or_dead.resolve_left none_left)]
          rfl
      · rw [exec_vtosFirst_lane hx idle exist some_lane, vtosRead_stale (r := a.toNat) exists_one lives (List.find?_cons_of_pos (Bool.and_eq_true_iff.2 ⟨pol, st⟩)),
          finishCtrl_fault hx.own]
      · rw [exec_vtosFirst_lane hx idle exist some_lane,
          vtosRead_words exists_one lives (by simpa using trap) (by simpa [bad] using sound)]
        rfl
  · -- the pair form
    intro r
    refine ⟨fun busy => ?_, fun idle missing => ?_, fun idle exist => ?_⟩
    · rw [exec_vtosPair a l hx, if_neg (by simp [busy]), finishCtrl_wait]
    · rw [exec_vtosPair_idle a l hx idle, vtosRead_missing (r := a.toNat + 1) (by simp) missing, finishCtrl_fault hx.own]
    · have exist_both : ∀ x ∈ [a.toNat, a.toNat + 1], x < c1.vregs := by
        simp only [List.mem_cons, List.not_mem_nil, or_false, forall_eq_or_imp, forall_eq]
        omega
      refine ⟨fun dead => ?_, fun lives => ⟨fun st pol => ?_, fun ok st pol => ?_, fun trap sound sound' => ?_⟩⟩
      · rw [exec_vtosPair_idle a l hx idle, vtosRead_dead exist_both dead]
        rfl
      · rw [exec_vtosPair_idle a l hx idle, vtosRead_stale (r := a.toNat) exist_both lives (List.find?_cons_of_pos (Bool.and_eq_true_iff.2 ⟨pol, st⟩)),
          finishCtrl_fault hx.own]
      · rw [exec_vtosPair_idle a l hx idle, vtosRead_stale (r := a.toNat + 1) exist_both lives
          (by simp [r] at ok st; simp [ok, st, pol]), finishCtrl_fault hx.own]
      · rw [exec_vtosPair_idle a l hx idle, vtosRead_words exist_both lives]
        · rfl
        · simp only [List.mem_cons, List.not_mem_nil, or_false, forall_eq_or_imp, forall_eq]
          exact ⟨fun h => trap ⟨.inl h.1, h.2⟩, fun h => trap ⟨.inr h.1, h.2⟩⟩
        · simp only [List.mem_cons, List.not_mem_nil, or_false, forall_eq_or_imp, forall_eq]
          exact ⟨sound, sound'⟩

end Sys2Proof.Proofs.ExecutionModel

end

section
/-! PROOFS. What write-backs and the release of buffered stores leave unchanged (R88, R223, R329). -/

open Sys2Proof Sys2Proof.Machine

namespace Sys2Proof.Proofs.ExecutionModel

/-- From `s` to `t` lines of core stores went on their way to their homes, and nothing else happened. -/
def SendsOnly (s t : State) : Prop := t = { s with
  cores := t.cores, homeQ := t.homeQ, nextId := t.nextId, errors := t.errors, errOverflow := t.errOverflow, vectors := t.vectors }

/-- From `s` to `t` bytes were written to core stores, or went on their way to their homes, and nothing else happened. -/
def WritesOnly (s t : State) : Prop := t = { s with
  mem := t.mem, tags := t.tags, poison := t.poison, cores := t.cores, homeQ := t.homeQ, nextId := t.nextId, errors := t.errors
  errOverflow := t.errOverflow, vectors := t.vectors }

theorem SendsOnly.refl (s : State) : SendsOnly s s := rfl

theorem SendsOnly.trans {s t u : State} (h : SendsOnly s t) (h' : SendsOnly t u) : SendsOnly s u := by
  unfold SendsOnly at *
  calc u = _ := h'
    _ = _ := by rw [h]

theorem WritesOnly.refl (s : State) : WritesOnly s s := rfl

theorem WritesOnly.trans {s t u : State} (h : WritesOnly s t) (h' : WritesOnly t u) : WritesOnly s u := by
  unfold WritesOnly at *
  calc u = _ := h'
    _ = _ := by rw [h]

theorem SendsOnly.writesOnly {s t : State} (h : SendsOnly s t) : WritesOnly s t := by
  unfold SendsOnly WritesOnly at *
  calc t = _ := h
    _ = _ := by rw [h]

theorem SendsOnly.ctxs {s t : State} (h : SendsOnly s t) : t.ctxs = s.ctxs := by rw [h]
theorem SendsOnly.mem {s t : State} (h : SendsOnly s t) : t.mem = s.mem := by rw [h]
theorem SendsOnly.launches {s t : State} (h : SendsOnly s t) : t.launches = s.launches := by rw [h]
theorem SendsOnly.getCtx {s t : State} (h : SendsOnly s t) (id : Nat) : getCtx t id = getCtx s id := by
  rw [Machine.getCtx, h.ctxs, Machine.getCtx]
theorem SendsOnly.dieTime {s t : State} (h : SendsOnly s t) (d : BitVec 1) : dieTime t d = dieTime s d := by
  rw [h]
  rfl

theorem WritesOnly.ctxs {s t : State} (h : WritesOnly s t) : t.ctxs = s.ctxs := by rw [h]
theorem WritesOnly.getCtx {s t : State} (h : WritesOnly s t) (id : Nat) : getCtx t id = getCtx s id := by
  rw [Machine.getCtx, h.ctxs, Machine.getCtx]

/-! ## Write-backs -/

theorem setCore_sendsOnly (s : State) (k : Nat) (c : Core) : SendsOnly s (setCore s k c) := rfl

theorem homePush_sendsOnly (s : State) (line : Place) (bytes : Sparse Byte) (ctx core : Option Nat) (system : Bool)
    (gen : Option (BitVec 12)) (poison : BitVec 2) (op : Option (Nat × Nat)) (space : Option (BitVec 16)) :
    SendsOnly s (homePush s line bytes ctx core system gen poison op space) := rfl

theorem pushError_sendsOnly (s : State) (r : List Word) : SendsOnly s (pushError s r) := by
  unfold pushError
  split
  · cases s.errors.isEmpty <;> exact rfl
  · exact rfl

theorem writeBackLine_sendsOnly (s : State) (k : Nat) (x : Line) (ctx : Option Nat) (upset : BitVec 2) :
    SendsOnly s (writeBackLine s k x ctx upset) := by
  unfold writeBackLine
  split
  · exact .refl s
  · have poisoned : SendsOnly s (if x.badDirty upset = 0 then s else poisonRecord s k x) := by
      split
      · exact .refl s
      · exact pushError_sendsOnly _ _
    exact (poisoned.trans (homePush_sendsOnly ..)).trans (setCore_sendsOnly ..)

theorem evictLine_sendsOnly (s : State) (k : Nat) (x : Line) : SendsOnly s (evictLine s k x) :=
  (writeBackLine_sendsOnly s k x none 0).trans (setCore_sendsOnly ..)

theorem trimLines_sendsOnly (n : Nat) (s : State) (k : Nat) : SendsOnly s (trimLines s k n) := by
  induction n generalizing s with
  | zero => exact .refl s
  | succ n ih =>
    unfold trimLines
    dsimp only
    split
    · exact .refl s
    · split
      · next x _ => exact (evictLine_sendsOnly s k x).trans (ih _)
      · exact .refl s

theorem rowsTaken_sendsOnly (s : State) (k : Nat) : SendsOnly s (rowsTaken s k) := trimLines_sendsOnly ..

theorem writeBackAll_sendsOnly (s : State) (k : Nat) (ctx : Option Nat) : SendsOnly s (writeBackAll s k ctx) := by
  refine List.foldlRecOn (getCore s k).lines _ (motive := SendsOnly s) (.refl s) ?_
  intro t ht x _
  exact ht.trans (writeBackLine_sendsOnly t k x ctx 0)

/-! ## The release of buffered stores -/

theorem releaseSteps_sendsOnly (s : State) (c : Ctx) (scope : Nat) : SendsOnly s (releaseSteps s c scope).1 := by
  unfold releaseSteps
  split
  · exact .refl s
  · exact writeBackAll_sendsOnly ..

theorem clearCovered_writesOnly (s : State) (ks : List Nat) : WritesOnly s (clearCovered s ks) := by
  unfold clearCovered
  split
  · exact .refl s
  · exact rfl

theorem putMem_writesOnly (s : State) (m : List Host.Cell) : WritesOnly s { s with mem := m } := rfl
theorem setTag_writesOnly (s : State) (k : Nat) (g : BitVec 12) : WritesOnly s (setTag s k g) := rfl
theorem clearPoison_writesOnly (s : State) (k : Nat) : WritesOnly s (clearPoison s k) := rfl

theorem zeroGranule_writesOnly (s : State) (k : Nat) (g : BitVec 12) : WritesOnly s (zeroGranule s k g) :=
  ((putMem_writesOnly ..).trans (setTag_writesOnly _ k g)).trans (clearPoison_writesOnly _ k)

theorem writeTagged1_writesOnly (s : State) (k : Nat) (g : BitVec 12) (b : Byte) : WritesOnly s (writeTagged1 s k g b) := by
  unfold writeTagged1
  dsimp only
  split
  · exact rfl
  · exact (zeroGranule_writesOnly s k g).trans (putMem_writesOnly ..)

theorem writeAll_writesOnly (s : State) (k : Nat) (g : BitVec 12) (t : Sparse Byte) : WritesOnly s (writeAll s k g t) := by
  have written : WritesOnly s (t.foldl (fun s b => writeTagged1 s (k + b.1) g b.2) s) := by
    refine List.foldlRecOn t _ (motive := WritesOnly s) (.refl s) ?_
    intro u hu b _
    exact hu.trans (writeTagged1_writesOnly u _ g b.2)
  exact written.trans (clearCovered_writesOnly ..)

theorem coreWriteAt_writesOnly (s : State) (k off : Nat) (g : BitVec 12) (t : Sparse Byte) : WritesOnly s (coreWriteAt s k off g t) := by
  unfold coreWriteAt
  split
  · exact writeAll_writesOnly ..
  · exact rfl

theorem landCore_writesOnly (s : State) (k off : Nat) (g : BitVec 12) (bytes : Sparse Byte) : WritesOnly s (landCore s k off g bytes) := by
  refine List.foldlRecOn (tableCopies s k off g) _ (motive := WritesOnly s) (.refl s) ?_
  intro u hu x _
  exact hu.trans (coreWriteAt_writesOnly ..)

theorem l1Store_sendsOnly (s : State) (k : Nat) (asid mg : BitVec 16) (line : Place) (sc : BitVec 3) (owner : BitVec 12)
    (bytes : Sparse Byte) : SendsOnly s (l1Store s k asid mg line sc owner bytes) := by
  have cleaned : SendsOnly s (if ((findLine (getCore s k) asid mg line).getD (emptyLine asid mg line)).dirty ≠ 0 &&
      ((findLine (getCore s k) asid mg line).getD (emptyLine asid mg line)).owner ≠ owner then
        writeBackLine s k ((findLine (getCore s k) asid mg line).getD (emptyLine asid mg line)) none else s) := by
    split
    · exact writeBackLine_sendsOnly ..
    · exact .refl s
  exact (cleaned.trans (setCore_sendsOnly ..)).trans (trimLines_sendsOnly ..)

theorem l1Update_sendsOnly (s : State) (k : Nat) (asid mg : BitVec 16) (line : Place) (bytes : Sparse Byte) :
    SendsOnly s (l1Update s k asid mg line bytes) := by
  unfold l1Update
  split
  · exact .refl s
  · exact setCore_sendsOnly ..

theorem releaseEntry_writesOnly (s : State) (c : Ctx) (e : BufEntry) : WritesOnly s (releaseEntry s c e) := by
  have send (u : State) : SendsOnly u (homePush u e.line e.bytes (some c.id) (some c.core) (e.scope == 5 || !e.line.isHere) e.gen 0 none
      (if e.gen.isNone then some e.asid else none)) := homePush_sendsOnly ..
  have global : SendsOnly s (if effScope s c e.scope.toNat ≤ 2 then l1Store s c.core e.asid e.mapgen e.line e.scope c.ownerTag e.bytes
      else homePush (l1Update s c.core e.asid e.mapgen e.line e.bytes) e.line e.bytes (some c.id) (some c.core)
        (e.scope == 5 || !e.line.isHere) e.gen 0 none (if e.gen.isNone then some e.asid else none)) := by
    split
    · exact l1Store_sendsOnly ..
    · exact (l1Update_sendsOnly ..).trans (send _)
  unfold releaseEntry
  dsimp only
  split
  · exact global.writesOnly
  · split
    · exact landCore_writesOnly ..
    · exact (send s).writesOnly
    · exact global.writesOnly

theorem commitEntries_writesOnly (c : Ctx) (es : List BufEntry) (s : State) : WritesOnly s (commitEntries s c es).1 := by
  induction es generalizing s with
  | nil => exact .refl s
  | cons e r ih =>
    unfold commitEntries
    split
    · exact .refl s
    · have stepped : WritesOnly s (if e.release then releaseSteps s c e.scope.toNat else (s, true)).1 := by
        split
        · exact (releaseSteps_sendsOnly ..).writesOnly
        · exact .refl s
      generalize (if e.release then releaseSteps s c e.scope.toNat else (s, true)) = p at stepped ⊢
      obtain ⟨s1, ok⟩ := p
      dsimp only at stepped ⊢
      split
      · exact (stepped.trans (releaseEntry_writesOnly ..)).trans (ih _)
      · exact stepped

/-- A context with what a commit leaves of its store buffer. -/
def heldBuffer (rest : List BufEntry) (c : Ctx) : Ctx := { c with rsb := rest, committing := !rest.isEmpty }

/-- A commit changes no context but its own, and there no more than the store buffer (R329). -/
theorem getCtx_commit (s : State) (c : Ctx) (j : Nat) : getCtx (commit s c).1 j =
    (getCtx s j).map (fun x => if j = c.id then heldBuffer (commitEntries s c c.rsb).2 x else x) := by
  rw [← (commitEntries_writesOnly c c.rsb s).getCtx]
  exact getCtx_modCtx _ (f := heldBuffer _) (fun _ => rfl)

end Sys2Proof.Proofs.ExecutionModel

end

section
/-! PROOFS. Descent: DOWN, segments and end markers (O20, O21). -/

open Sys2Proof Sys2Proof.Machine

namespace Sys2Proof.Proofs.ExecutionModel

/-- A change of the context that was just replaced. -/
theorem modCtx_setCtx {s : State} {c x : Ctx} (h : getCtx s c.id = some x) {f : Ctx → Ctx} (hf : (f c).id = c.id) :
    modCtx (setCtx s c) c.id f = setCtx s (f c) := by
  rw [modCtx_eq (getCtx_setCtx_same h), setCtx_setCtx s hf.symm]

/-- An instruction that suspends its context leaves that context with its issue slot counted. -/
theorem finishCtrl_suspend_setCtx {c c1 y : Ctx} {s : State} (own : getCtx s c.id = some c1) (hy : y.id = c.id) (sp : CtrlSpec) :
    finishCtrl c.id sp c.pc c.pc.toNat (.suspend (setCtx s y)) = .next (setCtx s (y.countIssue sp)) := by
  rw [finishCtrl_suspend, ← hy, modCtx_setCtx (by rw [hy]; exact own) (countIssue_id y sp)]

/-! ## DOWN (R34, R35, R215) -/

/-- An instruction of the levels above the group runs in no group. -/
theorem levels_no_group {sp : CtrlSpec} {s s1 : State} {c c1 : Ctx} (h : Executes sp s c s1 c1) (h0 : sp.levels.contains 0 = false)
    (h1 : sp.levels.contains 1 = false) : c.isGroup = false := by
  have level := h.passes.level
  by_contra hc
  rw [Bool.not_eq_false] at hc
  unfold Ctx.levelNo at level
  rw [if_pos hc] at level
  split at level
  · rw [h1] at level
    cases level
  · rw [h0] at level
    cases level

/-- R50's check passes where the context is no task grid. -/
theorem taskMode_passes {s : State} {c : Ctx} (mode : c.level = 4 → taskMode s c = false) (sp : CtrlSpec) :
    (sp.blockMode && c.level == 4 && taskMode s c) = false := by
  by_cases level : c.level = 4
  · rw [mode level, Bool.and_false]
  · rw [beq_false_of_ne level, Bool.and_false, Bool.false_and]

theorem exec_down {sp : Option Word} {m : BitVec 16} {s s1 : State} {c c1 : Ctx} (d : Reg)
    (h : Executes (plainSpec sp [2, 3, 4]) s c s1 c1) (mode : c1.level = 4 → taskMode s1 c1 = false) (inside : m.toNat < lowerWords s1 c1) :
    exec (.down sp d m) s = finishCtrl c.id { plainSpec sp [2, 3, 4] with blockMode := true } c.pc c.pc.toNat
      (if childFull s1 c1 then .suspend (setCtx s1 { c1 with mode := .down m (c1.sregRun d.toNat 4) (wordsOf false sp) })
       else .done (broadcast s1 c1 (.segment m (c1.sregRun d.toNat 4))) none) := by
  obtain ⟨rfl, rfl⟩ := executes_sequencer h (levels_no_group h rfl rfl)
  have runs := runCtrl_executes (sp := { plainSpec sp [2, 3, 4] with blockMode := true }) (executes_congr h rfl rfl rfl rfl rfl rfl)
    (illegal := fun _ _ => false) rfl (taskMode_passes mode _) (fun s c =>
      if lowerWords s c ≤ m.toNat then .fault s ILLEGAL 0
      else
        let args := c.sregRun d.toNat 4
        if childFull s c then .suspend (setCtx s { c with mode := .down m args (wordsOf false sp) })
        else .done (broadcast s c (.segment m args)) none)
  rw [if_neg (Nat.not_le.2 inside)] at runs
  exact runs

theorem exec_descentUnstall {t : State} {x : Ctx} {m : BitVec 16} {args : List Word} {len : Nat} (found : getCtx t x.id = some x)
    (mode : x.mode = .down m args len) (power : powered t = true) : exec (.descentUnstall x.id) t =
      if childFull t x then .next t
      else .next (modCtx (broadcast (setCtx t { x with mode := .run }) x (.segment m args)) x.id
        (fun y => y.setPc (y.pc + BitVec.ofNat 24 len))) := by
  show execDescentUnstall x.id t = _
  rw [execDescentUnstall, found]
  simp only [mode, power, Bool.not_true, Bool.or_false]

/-- Settles O20. -/
theorem descentSends : Obligations.DescentSends := by
  refine ⟨?_, ?_⟩
  · intro sp d m s c s1 c1 hx mode inside args
    have runs := exec_down d hx mode inside
    have sequencer : c.isGroup = false := levels_no_group hx rfl rfl
    obtain ⟨rfl, rfl⟩ := executes_sequencer hx sequencer
    refine ⟨fun room => ?_, fun full => ?_⟩
    · rw [runs, if_neg (by simp [room])]
      rfl
    · have no_group : ({ c1 with mode := .down m args (wordsOf false sp) } : Ctx).isGroup = false := sequencer
      rw [runs, if_pos full, ← countIssue_sequencer no_group { plainSpec sp [2, 3, 4] with blockMode := true }]
      exact finishCtrl_suspend_setCtx (y := { c1 with mode := .down m args (wordsOf false sp) }) hx.own rfl _
  · intro t x m args len found mode power
    rw [exec_descentUnstall found mode power]
    exact ⟨fun full => if_pos full, fun room => if_neg (by simp [room])⟩

/-! ## Segments (R36, R216, R330) -/

/-- A run of lower scalars written. -/
theorem setSregRun_lower (c : Ctx) (args : List Word) (n : Nat) (h : n + args.length ≤ 252) :
    ∃ regs bad, c.setSregRun n args = { c with sregs := regs, sregBad := bad } ∧ (sparseWf 0 c.sregs = true →
      (∀ i, i < args.length → sget 0 regs (n + i) = args.getD i 0) ∧ ∀ k, k < n → sget 0 regs k = sget 0 c.sregs k) := by
  induction args generalizing c n with
  | nil => exact ⟨c.sregs, c.sregBad, rfl, fun _ => ⟨by simp, fun _ _ => rfl⟩⟩
  | cons w r ih =>
    have hn : n < 252 := by simp only [List.length_cons] at h; omega
    obtain ⟨regs, bad, eq, reads⟩ := ih (c.setSreg n w) (n + 1) (by simp only [List.length_cons] at h; omega)
    have one : c.setSreg n w = { c with sregs := sput 0 c.sregs n w, sregBad := c.sregBad.filter (· ≠ c.sregKey n) } := by
      rw [Ctx.setSreg, if_pos hn]
    rw [one] at eq reads
    refine ⟨regs, bad, ?_, fun wf => ?_⟩
    · rw [Ctx.setSregRun, one, eq]
    · obtain ⟨written, kept⟩ := reads (sparseWf_sput _ _ _ _ wf)
      refine ⟨fun i hi => ?_, fun k hk => ?_⟩
      · cases i with
        | zero =>
          rw [Nat.add_zero, kept n (by omega), sget_sput_same _ _ _ _ wf]
          rfl
        | succ i =>
          rw [← Nat.add_assoc, Nat.add_right_comm, written i (by simpa using hi)]
          rfl
      · rw [kept k (by omega), sget_sput_other _ _ _ _ _ wf (by omega)]

/-- What a segment's start leaves of its context. -/
theorem beginSegment_starts {z : Ctx} {args : List Word} (four : args.length = 4) (wf : sparseWf 0 z.sregs = true)
    (hrun : z.run < z.paths.length) (off : BitVec 16) (rest : List Descent) (clause : Nat) :
    let y := z.beginSegment off args rest clause
    y.id = z.id ∧ y.mode = .run ∧ y.descent = rest ∧ y.dhead = (z.dhead + 1) % 8 ∧ y.pc = off.setWidth 24 ∧
      (∀ i, i < 4 → y.sreg (248 + i) = args.getD i 0) ∧ (∀ n, n < 248 → y.sreg n = z.sreg n) ∧
      (z.isGroup = true → y.regionLen = 0 ∧ y.replay = [] ∧ y.live = none ∧ y.ckpt.seg = some args) := by
  obtain ⟨regs, bad, eq, reads⟩ :=
    setSregRun_lower { z with descent := rest, dhead := (z.dhead + 1) % 8, mode := .run } args 248 (by omega)
  obtain ⟨written, kept⟩ := reads wf
  have arg (i : Nat) (hi : i < 4) : sget 0 regs (248 + i) = args.getD i 0 := written i (by omega)
  have pc (p : PathEntry) : (z.paths.set z.run p).getD z.run defaultPath = p := by simp [List.getD, hrun]
  intro y
  by_cases group : z.isGroup = true
  · have hy : y = _ := if_pos group
    rw [hy, eq]
    refine ⟨rfl, rfl, rfl, rfl, congrArg PathEntry.pc (pc _), fun i hi => ?_, fun n hn => ?_, fun _ => ⟨rfl, rfl, rfl, rfl⟩⟩
    · exact (if_pos (by omega)).trans (arg i hi)
    · exact ((if_pos (by omega)).trans (kept n hn)).trans (if_pos (by omega)).symm
  · have hy : y = _ := if_neg group
    rw [hy, eq]
    refine ⟨rfl, rfl, rfl, rfl, congrArg PathEntry.pc (pc _), fun i hi => ?_, fun n hn => ?_, fun g => absurd g group⟩
    · exact (if_pos (by omega)).trans (arg i hi)
    · exact ((if_pos (by omega)).trans (kept n hn)).trans (if_pos (by omega)).symm

/-- An idle child whose next entry is a segment (R36). -/
theorem exec_segmentStart {s : State} {x : Ctx} {off : BitVec 16} {args : List Word} {rest : List Descent} (found : getCtx s x.id = some x)
    (mode : x.mode = .idle) (next : x.descent = .segment off args :: rest) (power : powered s = true) :
    exec (.segmentStart x.id) s =
      if x.isGroup then
        if !memLanesIssued s x then .next s
        else
          match commit s x with
          | (s1, false) => .next s1
          | (s1, true) =>
            .next { setCtx s1 (((getCtx s1 x.id).getD x).beginSegment off args rest s1.nextId) with nextId := s1.nextId + 1 }
      else .next (setCtx s (x.beginSegment off args rest s.nextId)) := by
  show execSegmentStart x.id s = _
  rw [execSegmentStart, found]
  simp only [mode, next, power, Bool.not_true, Bool.false_eq_true, if_false] <;> rfl

/-- An idle child whose next entry is an end marker (R33). -/
theorem exec_endMarker {s : State} {x : Ctx} {rest : List Descent} (found : getCtx s x.id = some x)
    (mode : x.mode = .idle) (next : x.descent = .marker :: rest) (power : powered s = true) :
    exec (.endMarker x.id) s =
      if childFull s x then .next s
      else if x.isGroup then
        if !memLanesIssued s x then .next s
        else
          match commit s x with
          | (s1, false) => .next s1
          | (s1, true) => .next (markEnd s1 ((getCtx s1 x.id).getD x) rest)
      else .next (markEnd s x rest) := by
  show execEndMarker x.id s = _
  rw [execEndMarker, found]
  simp only [mode, next, power, Bool.not_true, Bool.or_false] <;> rfl

/-- A context after its own commit is a group where it was one, with its identity. -/
theorem commit_own {s s1 : State} {x z : Ctx} (found : getCtx s x.id = some x) (committed : (commit s x).1 = s1)
    (own : getCtx s1 x.id = some z) : z.level = x.level := by
  rw [← committed, getCtx_commit, found] at own
  cases own
  dsimp only
  rw [if_pos rfl]
  rfl

/-- The state in which a child takes its next entry: after its commit in a group, the state itself in a sequencer. -/
theorem taken_level {s s1 : State} {x z : Ctx} (found : getCtx s x.id = some x)
    (taken : if x.isGroup then commit s x = (s1, true) else s1 = s) (own : getCtx s1 x.id = some z) : z.level = x.level := by
  split at taken
  · exact commit_own found (by rw [taken]) own
  · subst taken
    rw [found] at own
    cases own
    rfl

/-- A child that takes its next segment once it may. -/
theorem segmentStart_taken {s s1 : State} {x z : Ctx} {off : BitVec 16} {args : List Word} {rest : List Descent}
    (found : getCtx s x.id = some x) (mode : x.mode = .idle) (next : x.descent = .segment off args :: rest)
    (power : powered s = true) (issued : x.isGroup = true → memLanesIssued s x = true)
    (taken : if x.isGroup then commit s x = (s1, true) else s1 = s) (own : getCtx s1 x.id = some z) :
    ∃ t, exec (.segmentStart x.id) s = .next t ∧ t.ctxs = (setCtx s1 (z.beginSegment off args rest s1.nextId)).ctxs := by
  rw [exec_segmentStart found mode next power]
  by_cases group : x.isGroup = true
  · rw [if_pos group] at taken ⊢
    rw [if_neg (by simp [issued group]), taken]
    exact ⟨_, rfl, by rw [own]; rfl⟩
  · rw [if_neg group] at taken ⊢
    subst taken
    rw [found] at own
    cases own
    exact ⟨_, rfl, rfl⟩

/-- A child that takes its end marker once it may. -/
theorem endMarker_taken {s s1 : State} {x w : Ctx} {rest : List Descent} (found : getCtx s x.id = some x) (mode : x.mode = .idle)
    (next : x.descent = .marker :: rest) (power : powered s = true) (room : childFull s x = false)
    (issued : x.isGroup = true → memLanesIssued s x = true)
    (taken : if x.isGroup then commit s x = (s1, true) else s1 = s) (own : getCtx s1 x.id = some w) :
    exec (.endMarker x.id) s = .next (markEnd s1 w rest) := by
  rw [exec_endMarker found mode next power, if_neg (by simp [room])]
  by_cases group : x.isGroup = true
  · rw [if_pos group] at taken ⊢
    rw [if_neg (by simp [issued group]), taken]
    dsimp only
    rw [own, Option.getD_some]
  · rw [if_neg group] at taken ⊢
    subst taken
    rw [found] at own
    cases own
    rfl

theorem exec_segend {sp : Option Word} {s s1 : State} {c c1 : Ctx}
    (h : Executes { plainSpec sp [0, 2, 3] with single := true } s c s1 c1) :
    exec (.segend sp) s = .next (setCtx s1 (({ c1 with mode := .idle } : Ctx).countIssue { plainSpec sp [0, 2, 3] with single := true })) := by
  have own_id := executes_id h
  have hid : ({ c1 with mode := .idle } : Ctx).id = c.id := own_id
  exact (runCtrl_executes h (illegal := fun _ _ => false) rfl rfl (fun s c => .suspend (setCtx s { c with mode := .idle }))).trans
    (finishCtrl_suspend_setCtx h.own hid _)

theorem leaveParent_eq {c : Ctx} {p : Nat} (parent : c.parent = some p) (s : State) :
    leaveParent s c = modCtx s p (fun x => x.unlive c.id) := by
  rw [leaveParent, parent]

/-- Settles O21. -/
theorem segmentsBeginAndEnd : Obligations.SegmentsBeginAndEnd := by
  refine ⟨fun _ _ _ _ _ => exec_segend, ?_, ?_⟩
  · intro s x off args rest found mode next power four wf
    refine ⟨fun group wait => ?_, fun group issued held => ?_, fun s1 z issued taken own sregs hrun => ?_⟩
    · rw [exec_segmentStart found mode next power, if_pos group, if_pos (by simp [wait])]
    · rw [exec_segmentStart found mode next power, if_pos group, if_neg (by simp [issued])]
      generalize commit s x = r at held
      obtain ⟨s1, _⟩ := r
      cases held
      rfl
    · obtain ⟨t, runs, after⟩ := segmentStart_taken found mode next power issued taken own
      obtain ⟨yid, ymode, ydescent, ydhead, ypc, yargs, ylower, ygroup⟩ :=
        beginSegment_starts (z := z) four (by rw [sregs]; exact wf) hrun off rest s1.nextId
      have zid := getCtx_id own
      refine ⟨t, z.beginSegment off args rest s1.nextId, runs, ?_, ymode, ydescent, ydhead, ypc, yargs, fun n hn => ?_, fun group => ?_⟩
      · have placed : getCtx (setCtx s1 (z.beginSegment off args rest s1.nextId)) x.id = some (z.beginSegment off args rest s1.nextId) := by
          rw [← yid.trans zid] at own ⊢
          exact getCtx_setCtx_same own
        rw [← placed, getCtx, after, getCtx]
      · rw [ylower n hn, Ctx.sreg, Ctx.sreg, if_pos (by omega), if_pos (by omega), sregs]
      · exact ygroup (by rw [Ctx.isGroup, taken_level found taken own]; exact group)
  · intro s x rest found mode next power
    refine ⟨fun full => ?_, fun room group wait => ?_, fun room group issued held => ?_, ?_⟩
    · rw [exec_endMarker found mode next power, if_pos full]
    · rw [exec_endMarker found mode next power, if_neg (by simp [room]), if_pos group, if_pos (by simp [wait])]
    · rw [exec_endMarker found mode next power, if_neg (by simp [room]), if_pos group, if_neg (by simp [issued])]
      generalize commit s x = r at held
      obtain ⟨s1, _⟩ := r
      cases held
      rfl
    · intro s1 w p y room issued taken own parent t hy
      rw [endMarker_taken found mode next power room issued taken own, markEnd]
      refine congrArg Host.Outcome.next ((leaveParent_eq (c := w) parent _).trans ?_)
      exact modCtx_eq hy (fun x => x.unlive w.id)

end Sys2Proof.Proofs.ExecutionModel

end

section
/-! PROOFS. Reports: UP, GATHER and the combinations of R37 (O22). -/

open Sys2Proof Sys2Proof.Machine

namespace Sys2Proof.Proofs.ExecutionModel

/-! ## UP and GATHER -/

theorem exec_up {sp : Option Word} {op : BitVec 3} {s s1 : State} {c c1 p : Ctx} (a : Reg)
    (h : Executes { plainSpec sp [0, 2, 3] with must := true, single := true } s c s1 c1) (parent : c1.parent.bind (getCtx s1) = some p) :
    exec (.up sp a op) s = finishCtrl c.id { plainSpec sp [0, 2, 3] with must := true, single := true } c.pc c.pc.toNat
      (if (reportOf p c1.id).isSome then .wait s1 else .done (setCtx s1 (setReport p c1.id (op, c1.sreg a.toNat))) none) := by
  have runs := runCtrl_executes h (illegal := fun _ _ => false) rfl rfl (fun s c =>
    match c.parent.bind (getCtx s) with
    | none => .wait s
    | some p =>
      if (reportOf p c.id).isSome then .wait s
      else .done (setCtx s (setReport p c.id (op, c.sreg a.toNat))) none)
  rw [parent] at runs
  exact runs

theorem exec_gather {sp : Option Word} {op : BitVec 3} {d : Reg} {s s1 : State} {c c1 : Ctx}
    (h : Executes { plainSpec sp [2, 3, 4] with writes := [d.toNat] } s c s1 c1) (mode : c1.level = 4 → taskMode s1 c1 = false) :
    exec (.gather sp d op) s = finishCtrl c.id { plainSpec sp [2, 3, 4] with blockMode := true, writes := [d.toNat] } c.pc c.pc.toNat
      (if c1.gather.any (fun r => r.live && r.standing.isNone) then .wait s1
       else if (c1.gather.filterMap Report.standing).any (fun r => r.1 ≠ op) then .fault s1 NONUNI 0
       else if op = 0 && ((c1.gather.filterMap Report.standing).map Prod.snd).any
          (fun v => v ≠ ((c1.gather.filterMap Report.standing).map Prod.snd).headD 0) then .fault s1 NONUNI 0
       else .done (setCtx s1 (({ c1 with gather := c1.gather.map (fun r => { r with standing := none }) } : Ctx).setSreg d.toNat
          (gatherAll op.toNat ((c1.gather.filterMap Report.standing).map Prod.snd)))) none) := by
  obtain ⟨rfl, rfl⟩ := executes_sequencer h (levels_no_group h rfl rfl)
  exact runCtrl_executes (sp := { plainSpec sp [2, 3, 4] with blockMode := true, writes := [d.toNat] })
    (executes_congr h rfl rfl rfl rfl rfl rfl) (illegal := fun _ _ => false) rfl (taskMode_passes mode _) (fun s c =>
      if c.gather.any (fun r => r.live && r.standing.isNone) then .wait s
      else
        let rs := c.gather.filterMap Report.standing
        let vs := rs.map Prod.snd
        if rs.any (fun r => r.1 ≠ op) then .fault s NONUNI 0
        else if op = 0 && vs.any (fun v => v ≠ vs.headD 0) then .fault s NONUNI 0
        else
          let c1 : Ctx := { c with gather := c.gather.map (fun r => { r with standing := none }) }
          .done (setCtx s (c1.setSreg d.toNat (gatherAll op.toNat vs))) none)

/-- A list differs from its first value somewhere exactly where it holds two values. -/
theorem any_ne_headD {rs : List (BitVec 3 × Word)} :
    (rs.map Prod.snd).any (fun v => v ≠ (rs.map Prod.snd).headD 0) = true ↔ ∃ r ∈ rs, ∃ r' ∈ rs, r.2 ≠ r'.2 := by
  cases rs with
  | nil => simp
  | cons x r =>
    simp only [List.any_eq_true, List.mem_map, decide_eq_true_eq]
    constructor
    · rintro ⟨_, ⟨y, hy, rfl⟩, differs⟩
      exact ⟨y, hy, x, List.mem_cons_self .., differs⟩
    · rintro ⟨y, hy, z, hz, differs⟩
      by_cases h : y.2 = x.2
      · exact ⟨z.2, ⟨z, hz, rfl⟩, fun e => differs (h.trans e.symm)⟩
      · exact ⟨y.2, ⟨y, hy, rfl⟩, h⟩

/-! ## The combinations of R37 -/

/-- A step that takes the value of the lesser key picks one of the values, with no greater a key than any. -/
theorem foldl_least {f : Word → Word → Word} {key : Word → Int}
    (least : ∀ x y, (f x y = x ∨ f x y = y) ∧ key (f x y) ≤ key x ∧ key (f x y) ≤ key y) (r : List Word) (x : Word) :
    r.foldl f x ∈ x :: r ∧ ∀ v ∈ x :: r, key (r.foldl f x) ≤ key v := by
  induction r generalizing x with
  | nil => simp
  | cons y r ih =>
    obtain ⟨picks, lex, ley⟩ := least x y
    obtain ⟨mem, le⟩ := ih (f x y)
    have first := le _ (List.mem_cons_self ..)
    refine ⟨?_, fun v hv => ?_⟩
    · rcases List.mem_cons.1 mem with e | later
      · rw [List.foldl_cons, e]
        rcases picks with p | p <;> simp [p]
      · exact List.mem_cons_of_mem _ (List.mem_cons_of_mem _ later)
    · rcases List.mem_cons.1 hv with rfl | hv
      · exact first.trans lex
      · rcases List.mem_cons.1 hv with rfl | hv
        · exact first.trans ley
        · exact le v (List.mem_cons_of_mem _ hv)

theorem gatherAll_least {op : Nat} {key : Word → Int}
    (least : ∀ x y, (gatherStep op x y = x ∨ gatherStep op x y = y) ∧ key (gatherStep op x y) ≤ key x ∧ key (gatherStep op x y) ≤ key y)
    (vs : List Word) (h : vs ≠ []) : gatherAll op vs ∈ vs ∧ ∀ v ∈ vs, key (gatherAll op vs) ≤ key v := by
  cases vs with
  | nil => exact absurd rfl h
  | cons x r => exact foldl_least least r x

theorem wMin_least (x y : Word) : (wMin x y = x ∨ wMin x y = y) ∧ (wMin x y).toInt ≤ x.toInt ∧ (wMin x y).toInt ≤ y.toInt := by
  unfold wMin
  split
  · next h => exact ⟨.inl rfl, le_refl _, le_of_lt (by simpa [BitVec.slt] using h)⟩
  · next h => exact ⟨.inr rfl, by simpa [BitVec.slt] using h, le_refl _⟩

theorem wMax_greatest (x y : Word) : (wMax x y = x ∨ wMax x y = y) ∧ -(wMax x y).toInt ≤ -x.toInt ∧ -(wMax x y).toInt ≤ -y.toInt := by
  unfold wMax
  split
  · next h => exact ⟨.inr rfl, neg_le_neg (le_of_lt (by simpa [BitVec.slt] using h)), le_refl _⟩
  · next h => exact ⟨.inl rfl, le_refl _, neg_le_neg (by simpa [BitVec.slt] using h)⟩

theorem wMinu_least (x y : Word) :
    (wMinu x y = x ∨ wMinu x y = y) ∧ ((wMinu x y).toNat : Int) ≤ x.toNat ∧ ((wMinu x y).toNat : Int) ≤ y.toNat := by
  unfold wMinu
  split
  · next h => exact ⟨.inl rfl, le_refl _, by simp [BitVec.ult] at h; omega⟩
  · next h => exact ⟨.inr rfl, by simp [BitVec.ult] at h; omega, le_refl _⟩

theorem wMaxu_greatest (x y : Word) :
    (wMaxu x y = x ∨ wMaxu x y = y) ∧ -((wMaxu x y).toNat : Int) ≤ -(x.toNat : Int) ∧ -((wMaxu x y).toNat : Int) ≤ -(y.toNat : Int) := by
  unfold wMaxu
  split
  · next h => exact ⟨.inr rfl, by simp [BitVec.ult] at h; omega, le_refl _⟩
  · next h => exact ⟨.inl rfl, le_refl _, by simp [BitVec.ult] at h; omega⟩

theorem foldl_first (r : List Word) (x : Word) : r.foldl (gatherStep 0) x = x := by
  induction r with
  | nil => rfl
  | cons y r ih => exact ih

theorem foldl_sum (r : List Word) (x : Word) : r.foldl (gatherStep 1) x = BitVec.ofNat 32 (x.toNat + (r.map BitVec.toNat).sum) := by
  induction r generalizing x with
  | nil => simp
  | cons y r ih =>
    rw [List.foldl_cons, ih, List.map_cons, List.sum_cons, ← Nat.add_assoc]
    apply BitVec.eq_of_toNat_eq
    simp [gatherStep, Nat.add_mod]

theorem foldl_and (r : List Word) (x : Word) (i : Nat) :
    (r.foldl (gatherStep 4) x).getLsbD i = true ↔ ∀ v ∈ x :: r, v.getLsbD i = true := by
  induction r generalizing x with
  | nil => simp
  | cons y r ih =>
    rw [List.foldl_cons, ih]
    simp [gatherStep, and_assoc]

theorem foldl_or (r : List Word) (x : Word) (i : Nat) :
    (r.foldl (gatherStep 5) x).getLsbD i = true ↔ ∃ v ∈ x :: r, v.getLsbD i = true := by
  induction r generalizing x with
  | nil => simp
  | cons y r ih =>
    rw [List.foldl_cons, ih]
    simp [gatherStep, or_assoc]

/-- The combinations over the reported words (R37). -/
theorem gatherAll_values : (∀ (x : Word) (n : Nat), gatherAll 0 (List.replicate (n + 1) x) = x) ∧
    (∀ vs : List Word, vs ≠ [] → gatherAll 1 vs = BitVec.ofNat 32 (vs.map BitVec.toNat).sum) ∧
    (∀ vs : List Word, vs ≠ [] → gatherAll 2 vs ∈ vs ∧ ∀ v ∈ vs, (gatherAll 2 vs).toInt ≤ v.toInt) ∧
    (∀ vs : List Word, vs ≠ [] → gatherAll 3 vs ∈ vs ∧ ∀ v ∈ vs, v.toInt ≤ (gatherAll 3 vs).toInt) ∧
    (∀ (vs : List Word) (i : Nat), i < 32 → vs ≠ [] → ((gatherAll 4 vs).getLsbD i = true ↔ ∀ v ∈ vs, v.getLsbD i = true)) ∧
    (∀ (vs : List Word) (i : Nat), vs ≠ [] → ((gatherAll 5 vs).getLsbD i = true ↔ ∃ v ∈ vs, v.getLsbD i = true)) ∧
    (∀ vs : List Word, vs ≠ [] → gatherAll 6 vs ∈ vs ∧ ∀ v ∈ vs, (gatherAll 6 vs).toNat ≤ v.toNat) ∧
    (∀ vs : List Word, vs ≠ [] → gatherAll 7 vs ∈ vs ∧ ∀ v ∈ vs, v.toNat ≤ (gatherAll 7 vs).toNat) ∧
    (List.range 8).map (fun k => gatherAll k []) = [0, 0, 0x7FFFFFFF, 0x80000000, 0xFFFFFFFF, 0, 0xFFFFFFFF, 0] := by
  refine ⟨fun x n => foldl_first _ x, fun vs h => ?_, gatherAll_least (op := 2) wMin_least, fun vs h => ?_, fun vs i _ h => ?_,
    fun vs i h => ?_, fun vs h => ?_, fun vs h => ?_, by decide⟩
  · cases vs with
    | nil => exact absurd rfl h
    | cons x r => exact foldl_sum r x
  · obtain ⟨mem, le⟩ := gatherAll_least (op := 3) wMax_greatest vs h
    exact ⟨mem, fun v hv => neg_le_neg_iff.1 (le v hv)⟩
  · cases vs with
    | nil => exact absurd rfl h
    | cons x r => exact foldl_and r x i
  · cases vs with
    | nil => exact absurd rfl h
    | cons x r => exact foldl_or r x i
  · obtain ⟨mem, le⟩ := gatherAll_least (op := 6) wMinu_least vs h
    exact ⟨mem, fun v hv => Int.ofNat_le.1 (le v hv)⟩
  · obtain ⟨mem, le⟩ := gatherAll_least (op := 7) wMaxu_greatest vs h
    exact ⟨mem, fun v hv => Int.ofNat_le.1 (neg_le_neg_iff.1 (le v hv))⟩

/-- Settles O22. -/
theorem reportsGather : Obligations.ReportsGather := by
  refine ⟨⟨?_, ?_⟩, gatherAll_values⟩
  · intro sp a op s c s1 c1 p spec hx parent
    rw [exec_up a hx parent]
    refine ⟨fun fresh => ?_, fun standing => ?_⟩
    · rw [fresh]
      rfl
    · rw [if_pos (Option.isSome_iff_ne_none.2 standing), finishCtrl_wait]
  · intro sp d op s c s1 c1 spec rs hx mode
    rw [exec_gather hx mode]
    refine ⟨fun missing => ?_, fun complete => ?_⟩
    · rw [if_pos, finishCtrl_wait]
      simpa using missing
    · rw [if_neg (by simpa using fun r hr live => by simpa using complete r hr live)]
      refine ⟨fun same uni => ?_, fun mixed => ?_⟩
      · have no_other : ¬ rs.any (fun r => r.1 ≠ op) = true := by simpa using same
        have one_value : ¬ (op = 0 && (rs.map Prod.snd).any (fun v => v ≠ (rs.map Prod.snd).headD 0)) = true := by
          rw [Bool.and_eq_true, any_ne_headD, decide_eq_true_eq]
          rintro ⟨h0, r, hr, r', hr', differs⟩
          exact differs (uni h0 r hr r' hr')
        rw [if_neg no_other, if_neg one_value]
        rfl
      · by_cases other : rs.any (fun r => r.1 ≠ op) = true
        · rw [if_pos other, finishCtrl_fault hx.own]
        · have two_values : (op = 0 && (rs.map Prod.snd).any (fun v => v ≠ (rs.map Prod.snd).headD 0)) = true := by
            rcases mixed with ⟨r, hr, ne⟩ | ⟨h0, two⟩
            · exact absurd (List.any_eq_true.2 ⟨r, hr, by simpa using ne⟩) other
            · rw [any_ne_headD.2 two, h0]
              rfl
          rw [if_neg other, if_pos two_values, finishCtrl_fault hx.own]

end Sys2Proof.Proofs.ExecutionModel

end

section
/-! PROOFS. Barriers and the reel (O23). -/

open Sys2Proof Sys2Proof.Machine

namespace Sys2Proof.Proofs.ExecutionModel

/-! ## The release steps (R223) -/

theorem released_sendsOnly (s : State) (c : Ctx) (scope : Nat) : SendsOnly s (released s c scope) := by
  unfold released
  split
  · exact .refl s
  · exact writeBackAll_sendsOnly ..

theorem releaseSteps_state (s : State) (c : Ctx) (scope : Nat) : (releaseSteps s c scope).1 = released s c scope := by
  unfold releaseSteps released
  split <;> rfl

theorem writesDone_iff (s : State) (c : Ctx) : writesDone s c = true ↔
    ∀ w ∈ s.homeQ, w.ctx ≠ some c.id ∧ (w.core = some c.core → w.op ≠ none ∨ w.hold ≠ none) := by
  simp only [writesDone, Bool.not_eq_true', List.any_eq_false, Bool.or_eq_true, Bool.and_eq_true, decide_eq_true_eq, not_or, not_and,
    Option.isNone_iff_eq_none]
  refine forall₂_congr fun w _ => and_congr_right fun _ => ?_
  by_cases op : w.op = none <;> by_cases core : w.core = some c.core <;> simp [op, core]

/-- The flag of the release steps tells that they are complete. -/
theorem releaseSteps_done {s : State} {c : Ctx} (own : getCtx s c.id = some c) (scope : Nat) :
    (releaseSteps s c scope).2 = true ↔ ReleaseDone s c scope := by
  unfold ReleaseDone
  by_cases narrow : effScope s c scope ≤ 2
  · simp [releaseSteps, narrow]
  · have sent := writeBackAll_sendsOnly s c.core (some c.id)
    have state : released s c scope = writeBackAll s c.core (some c.id) := if_neg narrow
    simp only [releaseSteps, if_false, Bool.and_eq_true, writesDone_iff, decide_eq_true_eq, state, narrow, false_or, sent.getCtx,
      own, sent.dieTime, Option.elim_some]

/-! ## Arrival (R218) -/

theorem arriveAt_done {s : State} {c : Ctx} (own : getCtx s c.id = some c) {scope : Nat} (done : ReleaseDone s c scope) (i : Instr)
    (len owner n : Nat) :
    arriveAt i len owner n scope s c = .suspend (setCtx (released s c scope) { c with mode := .barrier owner n i len }) := by
  have flag := (releaseSteps_done own scope).2 done
  have state := releaseSteps_state s c scope
  unfold arriveAt
  generalize releaseSteps s c scope = r at flag state
  obtain ⟨s1, ok⟩ := r
  subst flag state
  have own' : getCtx (released s c scope) c.id = some c := by rw [(released_sendsOnly s c scope).getCtx, own]
  exact congrArg Act.suspend (modCtx_eq own' (fun c => { c with mode := .barrier owner n i len }))

theorem arriveAt_waits {s : State} {c : Ctx} (own : getCtx s c.id = some c) {scope : Nat} (more : ¬ ReleaseDone s c scope) (i : Instr)
    (len owner n : Nat) : arriveAt i len owner n scope s c = .wait (released s c scope) := by
  have flag : (releaseSteps s c scope).2 = false := by
    rw [← Bool.not_eq_true, releaseSteps_done own]
    exact more
  have state := releaseSteps_state s c scope
  unfold arriveAt
  generalize releaseSteps s c scope = r at flag state
  obtain ⟨s1, ok⟩ := r
  subst flag state
  rfl

/-- What an instruction leaves that arrives at a barrier: its group suspended there once the release steps are done. -/
theorem finishCtrl_arriveAt {s : State} {c c1 : Ctx} (own : getCtx s c.id = some c1) (hid : c1.id = c.id) (sp : CtrlSpec) (i : Instr)
    (len owner n scope : Nat) :
    (ReleaseDone s c1 scope → finishCtrl c.id sp c.pc c.pc.toNat (arriveAt i len owner n scope s c1) =
      .next (setCtx (released s c1 scope) (({ c1 with mode := .barrier owner n i len } : Ctx).countIssue sp))) ∧
    (¬ ReleaseDone s c1 scope → finishCtrl c.id sp c.pc c.pc.toNat (arriveAt i len owner n scope s c1) = .next (released s c1 scope)) := by
  have self : getCtx s c1.id = some c1 := by rw [hid]; exact own
  refine ⟨fun done => ?_, fun more => ?_⟩
  · rw [arriveAt_done self done]
    exact finishCtrl_suspend_setCtx (y := { c1 with mode := .barrier owner n i len })
      (by rw [(released_sendsOnly s c1 scope).getCtx]; exact own) hid sp
  · rw [arriveAt_waits self more, finishCtrl_wait]

theorem exec_bar {sp : Option Word} {s s1 : State} {c c1 : Ctx} (n : BitVec 4)
    (h : Executes { groupSpec sp false [] with must := true, single := true } s c s1 c1) :
    exec (.bar sp n) s = finishCtrl c.id { groupSpec sp false [] with must := true, single := true } c.pc c.pc.toNat
      (if c1.task then .done s1 none else arriveAt (.bar sp n) (wordsOf false sp) (c1.parent.getD 0) n.toNat 2 s1 c1) :=
  runCtrl_executes h (illegal := fun _ _ => false) rfl rfl (fun s c =>
    if c.task then .done s none else arriveAt (.bar sp n) (wordsOf false sp) (c.parent.getD 0) n.toNat 2 s c)

theorem exec_barc {sp : Option Word} {s s1 : State} {c c1 : Ctx} (n : BitVec 2)
    (h : Executes { plainSpec sp [0] with must := true, single := true } s c s1 c1) :
    exec (.barc sp n) s = finishCtrl c.id { plainSpec sp [0] with must := true, single := true } c.pc c.pc.toNat
      (arriveAt (.barc sp n) (wordsOf false sp) ((clusterOf s1 c1).getD 0) (16 + n.toNat) 3 s1 c1) :=
  runCtrl_executes h (illegal := fun _ _ => false) rfl rfl (fun s c =>
    arriveAt (.barc sp n) (wordsOf false sp) ((clusterOf s c).getD 0) (16 + n.toNat) 3 s c)

/-! ## The order of the arrived groups and its waves (R219) -/

/-- A group's place in the order of core and slot. -/
def slotPlace (c : Ctx) : Nat := c.core * 128 + c.slot

theorem insertSlot_perm (c : Ctx) (l : List Ctx) : (insertSlot c l).Perm (c :: l) := by
  induction l with
  | nil => exact .refl _
  | cons x r ih =>
    unfold insertSlot
    split
    · exact .refl _
    · exact (ih.cons x).trans (.swap c x r)

theorem insertSlot_sorted (c : Ctx) {l : List Ctx} (h : l.Pairwise (fun x y => slotPlace x ≤ slotPlace y)) :
    (insertSlot c l).Pairwise (fun x y => slotPlace x ≤ slotPlace y) := by
  induction l with
  | nil => exact List.pairwise_singleton _ c
  | cons x r ih =>
    obtain ⟨first, rest⟩ := List.pairwise_cons.1 h
    unfold insertSlot
    split
    · next lt =>
      have lt' : slotPlace c < slotPlace x := lt
      refine List.pairwise_cons.2 ⟨fun y hy => ?_, h⟩
      rcases List.mem_cons.1 hy with rfl | hy
      · exact lt'.le
      · exact lt'.le.trans (first y hy)
    · next ge =>
      have ge' : slotPlace x ≤ slotPlace c := Nat.not_lt.1 ge
      refine List.pairwise_cons.2 ⟨fun y hy => ?_, ih rest⟩
      rcases List.mem_cons.1 ((insertSlot_perm c r).mem_iff.1 hy) with rfl | hy
      · exact ge'
      · exact first y hy

/-- Groups inserted one by one stand in ascending order of core and slot. -/
theorem foldl_insertSlot (cs l : List Ctx) (h : l.Pairwise (fun x y => slotPlace x ≤ slotPlace y)) :
    (cs.foldl (fun l c => insertSlot c l) l).Perm (l ++ cs) ∧
      (cs.foldl (fun l c => insertSlot c l) l).Pairwise (fun x y => slotPlace x ≤ slotPlace y) := by
  induction cs generalizing l with
  | nil => simpa using h
  | cons c r ih =>
    obtain ⟨perm, sorted⟩ := ih (insertSlot c l) (insertSlot_sorted c h)
    refine ⟨perm.trans (((insertSlot_perm c l).append_right r).trans ?_), sorted⟩
    exact List.perm_middle.symm

/-- A list cut into waves: nothing is lost, no wave is empty or too long, and each but the last is full. -/
theorem waves_cut {w : Nat} (hw : 0 < w) (n : Nat) (l : List Nat) (h : l.length ≤ n) : (waves w n l).flatten = l ∧
    (∀ x ∈ waves w n l, 0 < x.length ∧ x.length ≤ w) ∧ ∀ x ∈ (waves w n l).dropLast, x.length = w := by
  induction n generalizing l with
  | zero =>
    have : l = [] := List.length_eq_zero_iff.1 (Nat.le_zero.1 h)
    subst this
    exact ⟨rfl, by simp [waves], by simp [waves]⟩
  | succ n ih =>
    unfold waves
    split
    · next empty =>
      rw [List.isEmpty_iff] at empty
      subst empty
      simp
    · next some_left =>
      have hl : 0 < l.length := List.length_pos_iff.2 (by simpa using some_left)
      obtain ⟨flat, bound, full⟩ := ih (l.drop w) (by rw [List.length_drop]; omega)
      refine ⟨by rw [List.flatten_cons, flat, List.take_append_drop], fun x hx => ?_, fun x hx => ?_⟩
      · rcases List.mem_cons.1 hx with rfl | hx
        · rw [List.length_take]
          omega
        · exact bound x hx
      · by_cases last : waves w n (l.drop w) = []
        · rw [last] at hx
          simp at hx
        · rw [List.dropLast_cons_of_ne_nil last] at hx
          rcases List.mem_cons.1 hx with rfl | hx
          · have more : l.drop w ≠ [] := by
              intro e
              rw [e] at flat
              cases n with
              | zero => exact last rfl
              | succ n => exact last (by rw [e]; rfl)
            rw [List.length_take, Nat.min_eq_left]
            have := List.length_pos_iff.2 more
            rw [List.length_drop] at this
            omega
          · exact full x hx

/-! ## The barrier opens -/

theorem getCluster_setCluster_same {s : State} {k : Nat} (h : k < s.clusters.length) (c : Cluster) : getCluster (setCluster s k c) k = c := by
  simp [getCluster, setCluster, List.getD, h]

/-- A group that has arrived is handed to the reel. -/
def toReel (owner n : Nat) (c : Ctx) : Ctx :=
  match c.mode with
  | .barrier o m i len => if o = owner && m = n then { c with mode := .reel i len } else c
  | _ => c

/-- The arrived groups of a barrier in the order of core and slot. -/
def arrivedOrder (owner n : Nat) (s : State) : List Ctx := (s.ctxs.filter (fun c => c.atBarrier owner n)).foldl (fun l c => insertSlot c l) []

/-- The reel's list of an opening barrier on cluster `k`. -/
def openedReel (owner n : Nat) (s : State) (k : Nat) : Reel :=
  ⟨waves ((getCluster s k).wave.toNat + 1) (arrivedOrder owner n s).length ((arrivedOrder owner n s).map Ctx.id), clusterTime s k,
    clkNs (getCluster s k).gap.toNat⟩

/-- The cluster of the first group in that order, whose reel takes the list. -/
def reelCluster (owner n : Nat) (s : State) : Nat := ((arrivedOrder owner n s).headD default).cluster

/-- The state that an opening barrier leaves. -/
def opened (owner n : Nat) (s : State) : State :=
  let k := reelCluster owner n s
  let s1 := setCluster s k { getCluster s k with reels := (getCluster s k).reels ++ [openedReel owner n s k] }
  { s1 with ctxs := s1.ctxs.map (toReel owner n) }

theorem exec_barrierOpen (owner n : Nat) (s : State) : exec (.barrierOpen owner n) s =
    if (s.ctxs.filter (fun c => c.atBarrier owner n)).isEmpty || !powered s ||
        s.ctxs.any (fun c => participates s owner n c && !c.atBarrier owner n) then .next s
    else .next (opened owner n s) := rfl

theorem arrivedOrder_perm (owner n : Nat) (s : State) : (arrivedOrder owner n s).Perm (s.ctxs.filter (fun c => c.atBarrier owner n)) :=
  (foldl_insertSlot _ [] List.Pairwise.nil).1

theorem arrivedOrder_sorted (owner n : Nat) (s : State) : (arrivedOrder owner n s).Pairwise (fun x y => slotPlace x ≤ slotPlace y) :=
  (foldl_insertSlot _ [] List.Pairwise.nil).2

/-- With every arrived group on one cluster, that cluster's reel takes them. -/
theorem reelCluster_eq {owner n k : Nat} {s : State} (some_arrived : ∃ c ∈ s.ctxs, c.atBarrier owner n = true)
    (together : ∀ c ∈ s.ctxs, c.atBarrier owner n = true → c.cluster = k) : reelCluster owner n s = k := by
  obtain ⟨c, hc, at_barrier⟩ := some_arrived
  have perm := arrivedOrder_perm owner n s
  have hmem : c ∈ arrivedOrder owner n s := perm.mem_iff.2 (List.mem_filter.2 ⟨hc, at_barrier⟩)
  unfold reelCluster
  generalize arrivedOrder owner n s = l at perm hmem
  cases l with
  | nil => cases hmem
  | cons x r =>
    obtain ⟨hx, xat⟩ := List.mem_filter.1 (perm.mem_iff.1 (List.mem_cons_self ..))
    exact together x hx xat

theorem openedReel_waves (owner n : Nat) (s : State) (k : Nat) :
    (openedReel owner n s k).waves.flatten = (arrivedOrder owner n s).map Ctx.id ∧
      (∀ w ∈ (openedReel owner n s k).waves, 0 < w.length ∧ w.length ≤ (getCluster s k).wave.toNat + 1) ∧
      ∀ w ∈ (openedReel owner n s k).waves.dropLast, w.length = (getCluster s k).wave.toNat + 1 :=
  waves_cut (Nat.succ_pos _) _ _ (by rw [List.length_map])

/-! ## The next wave (R219) -/

/-- The reel whose wave comes next, where one is due earliest, and of several the first. -/
theorem dueReel_eq {now i : Nat} {l : List Reel} {r : Reel} (at_i : l[i]? = some r) (due : r.nextAt ≤ now)
    (first : ∀ (j : Nat) (x : Reel), l[j]? = some x → r.nextAt ≤ x.nextAt ∧ (x.nextAt = r.nextAt → i ≤ j)) : dueReel now l = some i := by
  obtain ⟨hi, hr⟩ := List.getElem?_eq_some_iff.1 at_i
  have earliest : (l.map Reel.nextAt).min? = some r.nextAt := by
    rw [List.min?_eq_some_iff]
    refine ⟨List.mem_map.2 ⟨r, List.mem_of_getElem? at_i, rfl⟩, fun t ht => ?_⟩
    obtain ⟨x, hx, rfl⟩ := List.mem_map.1 ht
    obtain ⟨j, hj⟩ := List.getElem?_of_mem hx
    exact (first j x hj).1
  have place : l.findIdx? (fun x => x.nextAt = r.nextAt) = some i := by
    rw [List.findIdx?_eq_some_iff_getElem]
    refine ⟨hi, by simp [hr], fun j hj same => ?_⟩
    have := (first j l[j] (List.getElem?_eq_getElem _)).2 (by simpa using same)
    omega
  rw [dueReel, earliest]
  simp only [Option.bind_some, if_pos due, place]

/-- A cluster's reels after the next wave of the reel `r` at place `i`, the wave after it due at `next`. -/
def reelsAfter (reels : List Reel) (i : Nat) (r : Reel) (ws : List (List Nat)) (next : Nat) : List Reel :=
  if ws.isEmpty then reels.eraseIdx i else reels.set i { r with waves := ws, nextAt := next }

/-- The state after a wave. -/
def waved (s : State) (cl : Nat) (w : List Nat) (reels : List Reel) : State :=
  { setCluster s cl { getCluster s cl with reels := reels } with
    ctxs := s.ctxs.map (fun c => if w.contains c.id then c.leaveBarrier s.nextId else c) }

theorem exec_reelWave {cl i : Nat} {s : State} {r : Reel} {w : List Nat} {ws : List (List Nat)} (power : powered s = true)
    (due : dueReel (clusterTime s cl) (getCluster s cl).reels = some i) (at_i : (getCluster s cl).reels[i]? = some r)
    (next : r.waves = w :: ws) : exec (.reelWave cl) s =
      .next (waved s cl w (reelsAfter (getCluster s cl).reels i r ws (clusterTime s cl + r.gap))) := by
  show execReelWave cl s = _
  have the_reel : (getCluster s cl).reels.getD i default = r := by rw [List.getD_eq_getElem?_getD, at_i, Option.getD_some]
  simp only [execReelWave, due, the_reel, power, next, Bool.not_true, Bool.false_eq_true, if_false]
  rfl

/-- A group that leaves its barrier completes its BAR or BARC, with later loads behind this point. -/
theorem leaveBarrier_completes {c : Ctx} {sp : Option Word} {i : Instr} {len : Nat} (mode : c.mode = .reel i len)
    (bar : (∃ n, i = .bar sp n) ∨ ∃ n, i = .barc sp n) (k : Nat) : c.leaveBarrier k =
      ({ c with mode := .run, loadFence := k } : Ctx).advance { len := len, sp := sp, levels := [0], counted := true }
        (c.pc + BitVec.ofNat 24 len) k := by
  rw [Ctx.leaveBarrier, mode]
  rcases bar with ⟨n, rfl⟩ | ⟨n, rfl⟩ <;> rfl

/-- Settles O23. -/
theorem barrierResults : Obligations.BarrierResults := by
  refine ⟨?_, ?_, ?_, ?_, fun c sp i len k mode bar => leaveBarrier_completes mode bar k⟩
  · intro sp n s c s1 c1 spec hx
    rw [exec_bar n hx]
    refine ⟨fun task => ?_, fun group => ?_⟩
    · rw [if_pos task, finishCtrl_done]
    · rw [if_neg (by simp [group])]
      exact finishCtrl_arriveAt hx.own (executes_id hx) ..
  · intro sp n s c s1 c1 spec hx
    rw [exec_barc n hx]
    exact finishCtrl_arriveAt hx.own (executes_id hx) ..
  · intro owner n s power some_arrived
    refine ⟨fun missing => ?_, fun complete => ?_⟩
    · have waits : s.ctxs.any (fun c => participates s owner n c && !c.atBarrier owner n) = true := by
        simpa [and_assoc] using missing
      rw [exec_barrierOpen, if_pos (by simp [waits])]
    · have opens : ¬ ((s.ctxs.filter (fun c => c.atBarrier owner n)).isEmpty || !powered s ||
          s.ctxs.any (fun c => participates s owner n c && !c.atBarrier owner n)) = true := by
        simp only [Bool.or_eq_true, not_or]
        refine ⟨⟨?_, by simp [power]⟩, ?_⟩
        · simpa using some_arrived
        · simpa using complete
      refine ⟨opened owner n s, by rw [exec_barrierOpen, if_neg opens], rfl, rfl, fun k hk together => ?_⟩
      have cluster := reelCluster_eq some_arrived together
      obtain ⟨flat, bound, full⟩ := openedReel_waves owner n s k
      refine ⟨arrivedOrder owner n s, openedReel owner n s k, ?_, arrivedOrder_perm .., arrivedOrder_sorted .., flat, rfl, rfl, bound, full⟩
      have reels := getCluster_setCluster_same hk { getCluster s k with reels := (getCluster s k).reels ++ [openedReel owner n s k] }
      have at_k : getCluster (opened owner n s) k =
          getCluster (setCluster s k { getCluster s k with reels := (getCluster s k).reels ++ [openedReel owner n s k] }) k := by
        rw [opened, cluster]
        rfl
      rw [at_k, reels]
  · intro cl s i r w ws power reels at_i due next first
    have runs := exec_reelWave power (dueReel_eq at_i due first) at_i next
    exact ⟨_, runs, rfl, rfl, fun hcl => congrArg Cluster.reels (getCluster_setCluster_same hcl _)⟩

end Sys2Proof.Proofs.ExecutionModel

end

section
/-! PROOFS. Deques, steals and the start of a task (O39). -/

open Sys2Proof Sys2Proof.Machine

namespace Sys2Proof.Proofs.ExecutionModel

/-! ## The start of a task (R51, R128, R360) -/

/-- A context that has what a frame says of its task. -/
structure TaskOf (k launch : Nat) (f : List Word) (x : Ctx) : Prop where
  task : x.task = true
  level : x.level = 1
  core : x.core = k
  launch : x.launch = launch
  pc : x.pc = BitVec.ofNat 24 (frameEntry f)
  lanes : x.lanes = frameLanes f
  vregs : x.vregs = frameVregs f
  scrRows : x.scrRows = frameScr f
  tiles : x.tiles = frameTiles f
  join : x.join = frameJoin f
  depth : x.depth = frameDepth f + 1
  sregs : ∀ i, i < 12 → x.sreg i = f.getD (4 + i) 0

/-- The scalars of a new context with the words of a frame. -/
theorem newCtx_args {f : List Word} (h : f.length = 16) (c : Ctx) (empty : c.sregs = []) (i : Nat) (hi : i < 12) :
    sget 0 (c.setSregRun 0 (f.drop 4)).sregs i = f.getD (4 + i) 0 := by
  obtain ⟨regs, bad, eq, reads⟩ := setSregRun_lower c (f.drop 4) 0 (by rw [List.length_drop]; omega)
  obtain ⟨written, -⟩ := reads (by rw [empty]; rfl)
  have := written i (by rw [List.length_drop]; omega)
  rw [Nat.zero_add] at this
  rw [eq]
  exact this.trans (by simp [List.getD])

theorem startTask_some {s t : State} {k launch : Nat} {f : List Word} (sixteen : f.length = 16) (h : startTask s k launch f = some t) :
    ∃ (x : Ctx) (now : Nat) (u : State), TaskOf k launch f x ∧ u.mem = s.mem ∧ u.ctxs = addGroup now s.ctxs x ∧ SendsOnly u t := by
  unfold startTask at h
  split at h
  · next l slot tab _ _ _ =>
    dsimp only at h
    split at h
    · split at h
      · next rb tb _ _ =>
        generalize (if frameTiles f = 0 then ((0 : BitVec 12), getCore s k)
          else takeTiles (getCore s k) tb (frameTiles f) l.stale (fresh s).1) = p at h
        obtain ⟨tg, c1⟩ := p
        dsimp only at h
        split at h
        · cases h
        · next sr _ =>
          generalize (if frameScr f = 0 then ((0 : BitVec 12), (takeRows c1 rb (frameVregs f) 1 l.stale (fresh s).1).2)
            else takeRows (takeRows c1 rb (frameVregs f) 1 l.stale (fresh s).1).2 sr (frameScr f) 3 l.stale (fresh s).1) = q at h
          obtain ⟨sg, c3⟩ := q
          cases h
          refine ⟨_, _, _, ?_, ?_, rfl, rowsTaken_sendsOnly ..⟩
          · exact ⟨rfl, rfl, rfl, rfl, rfl, rfl, rfl, rfl, rfl, rfl, rfl, fun i hi => (if_pos (by omega)).trans (newCtx_args sixteen _ rfl i hi)⟩
          · rfl
      · cases h
    · cases h
  · cases h

theorem joins_frame (c : Ctx) (cs : List Ctx) (now : Nat) :
    c.joins cs now = { c with active := (c.joins cs now).active, entered := (c.joins cs now).entered } := by
  unfold Ctx.joins
  split <;> rfl

/-- A group that comes into its partition is active where four or fewer are there (R361). -/
theorem joins_active (c : Ctx) (cs : List Ctx) (now : Nat) :
    (c.joins cs now).active = true ↔ (partitionOf cs c.core c.slot).length < 4 := by
  unfold Ctx.joins
  split
  · next few => exact iff_of_true rfl few
  · next many => exact iff_of_false Bool.false_ne_true many

theorem TaskOf.joins {k launch : Nat} {f : List Word} {x : Ctx} (h : TaskOf k launch f x) (cs : List Ctx) (now : Nat) :
    TaskOf k launch f (x.joins cs now) := by
  obtain ⟨h1, h2, h3, h4, h5, h6, h7, h8, h9, h10, h11, h12⟩ := h
  rw [joins_frame]
  exact ⟨h1, h2, h3, h4, h5, h6, h7, h8, h9, h10, h11, h12⟩

/-- What the start of a task leaves: one context more, the frame's, and memory as it was. -/
theorem startTask_adds {s t : State} {k launch : Nat} {f : List Word} (sixteen : f.length = 16) (h : startTask s k launch f = some t) :
    t.mem = s.mem ∧ ∃ x, t.ctxs = s.ctxs ++ [x] ∧ TaskOf k launch f x ∧
      (x.active = true ↔ (partitionOf s.ctxs k x.slot).length < 4) := by
  obtain ⟨x, now, u, task, mem, ctxs, sent⟩ := startTask_some sixteen h
  refine ⟨sent.mem.trans mem, x.joins s.ctxs now, sent.ctxs.trans ctxs, task.joins .., ?_⟩
  have slot : (x.joins s.ctxs now).slot = x.slot := by rw [joins_frame]
  rw [joins_active, slot, task.core]

theorem exec_taskStart_popped {k l : Nat} {s t : State} {f : List Word} (power : powered s = true) (grid : (getCore s k).grid = some l)
    (popped : (getCore s k).popped = some f) (starts : startTask (setCore s k { getCore s k with popped := none }) k l f = some t) :
    exec (.taskStart k) s = .next t := by
  show execTaskStart k s = _
  simp only [execTaskStart, power, Bool.not_true, Bool.false_eq_true, if_false, grid, popped]
  simp only [grid] at starts
  rw [starts, Option.getD_some]

theorem exec_taskStart_latch {k l v : Nat} {s t : State} {f : List Word} (power : powered s = true) (grid : (getCore s k).grid = some l)
    (popped : (getCore s k).popped = none) (latch : (getCore s k).latch = some (f, v))
    (starts : startTask (setCore s k { getCore s k with latch := none }) k l f = some t) : exec (.taskStart k) s = .next t := by
  show execTaskStart k s = _
  simp only [execTaskStart, power, Bool.not_true, Bool.false_eq_true, if_false, grid, popped, latch]
  simp only [grid, popped] at starts
  rw [starts, Option.getD_some]

/-! ## Pops (R110, R112) -/

theorem exec_ownerPop {k : Nat} {s : State} {l : Launch} {r : List (List Word)} {f : List Word}
    (grid : (getCore s k).grid.bind (getLaunch s) = some l) (popped : (getCore s k).popped = none) (free : freeSlot s k = true)
    (power : powered s = true) (deque : (getCore s k).deque = r ++ [f]) (fits : (startTask s k l.id f).isSome = true) :
    exec (.ownerPop k) s = .next (setCore s k { getCore s k with deque := r, popped := some f }) := by
  show execOwnerPop k s = _
  have some_frame : (r ++ [f]).isEmpty = false := by simp
  have newest : (r ++ [f]).getLast? = some f := by simp
  simp only [execOwnerPop, grid, popped, free, power, deque, some_frame, newest, Option.isSome_none, Bool.not_true, Bool.or_self,
    Bool.false_eq_true, if_false, Bool.false_and, fits, if_true, List.dropLast_concat]

/-! ## Steals (R114) -/

/-- A pass takes from the first victim that has a frame. -/
theorem stealPass_frame {s s1 : State} {l : Launch} {k v : Nat} {f : List Word} (pre post : List Nat)
    (empty : ∀ x ∈ pre, stealFrom s l k x = .none) (loot : stealFrom s l k v = .frame f s1) :
    stealPass s l k (pre ++ v :: post) = some (setCore s1 k { getCore s1 k with latch := some (f, v), retryAt := none }) := by
  induction pre with
  | nil => simp only [List.nil_append, stealPass, loot]
  | cons x r ih =>
    simp only [List.cons_append, stealPass, empty x (List.mem_cons_self ..)]
    exact ih (fun y hy => empty y (List.mem_cons_of_mem _ hy))

/-- A pass that finds no frame is repeated after 256 clk. -/
theorem stealPass_none {s : State} {l : Launch} {k : Nat} (vs : List Nat) (empty : ∀ x ∈ vs, stealFrom s l k x = .none) :
    stealPass s l k vs = some (setCore s k { getCore s k with retryAt := some (clusterTime s (k / 4) + clkNs 256) }) := by
  induction vs with
  | nil => rfl
  | cons x r ih =>
    simp only [stealPass, empty x (List.mem_cons_self ..)]
    exact ih (fun y hy => empty y (List.mem_cons_of_mem _ hy))

/-- Both a first steal of an idle core and a repeated one make one pass. -/
theorem exec_steal {k : Nat} {s t : State} {l : Launch} (grid : (getCore s k).grid.bind (getLaunch s) = some l) (idle : coreIdle s k = true)
    (power : powered s = true) (pass : stealPass s l k (victims k) = some t) :
    ((getCore s k).retryAt = none → exec (.steal k) s = .next t) ∧
      (∀ x, (getCore s k).retryAt = some x → x ≤ clusterTime s (k / 4) → exec (.stealRetry k) s = .next t) := by
  have one_pass : steal k s = .next t := by rw [steal, grid]; simp only [pass, Option.getD_some]
  refine ⟨fun first => ?_, fun x again due => ?_⟩
  · show execSteal k s = _
    rw [execSteal, if_pos (by simp [idle, first, power]), one_pass]
  · show execStealRetry k s = _
    simp only [execStealRetry, again, power, Bool.not_true, Bool.false_or, decide_eq_true_eq, if_neg (Nat.not_lt.2 due), if_pos idle, one_pass]

section
variable {s : State} {l : Launch} {k v : Nat} (grid : (getCore s v).grid = some l.id)
include grid

theorem stealFrom_ring {a : Nat} (count : (getCore s v).ringCount ≠ 0)
    (key : ringKeys s l v (getCore s v).ringPos.toNat 1 = some [a]) (free : readHeld s (some k) (.here (a / 128)) = false) :
    stealFrom s l k v = .frame (readWords s a 16) (setCore s v { getCore s v with
      ringPos := (getCore s v).ringPos + 1, ringCount := (getCore s v).ringCount - 1 }) := by
  simp only [stealFrom, grid, ne_eq, not_true, if_false, if_pos count, key, free, Bool.false_eq_true]

theorem stealFrom_deque {f : List Word} {r : List (List Word)} (count : (getCore s v).ringCount = 0) (deque : (getCore s v).deque = f :: r) :
    stealFrom s l k v = .frame f (setCore s v { getCore s v with deque := r }) := by
  simp only [stealFrom, grid, ne_eq, not_true, if_false, count, deque]

theorem stealFrom_empty (count : (getCore s v).ringCount = 0) (deque : (getCore s v).deque = []) : stealFrom s l k v = .none := by
  simp only [stealFrom, grid, ne_eq, not_true, if_false, count, deque]

end

/-- Settles O39. -/
theorem dequesAndSteals : Obligations.DequesAndSteals := by
  refine ⟨?_, ?_, ?_, ?_, ?_⟩
  · intro k s l r f grid popped free power deque fits
    exact exec_ownerPop grid popped free power deque fits
  · intro k s l pre post v f s1 grid idle power order empty loot
    exact exec_steal grid idle power (by rw [order]; exact stealPass_frame pre post empty loot)
  · intro k s l grid idle power empty
    exact exec_steal grid idle power (stealPass_none _ empty)
  · intro s l k v grid
    exact ⟨fun a count key free => stealFrom_ring grid count key free, fun f r count deque => stealFrom_deque grid count deque,
      fun count deque => stealFrom_empty grid count deque⟩
  · intro k s l f t power grid sixteen starts
    have runs : exec (.taskStart k) s = .next t := by
      rcases starts with ⟨popped, starts⟩ | ⟨popped, ⟨v, latch⟩, starts⟩
      · exact exec_taskStart_popped power grid popped starts
      · exact exec_taskStart_latch power grid popped latch starts
    have added : t.mem = s.mem ∧ ∃ x, t.ctxs = s.ctxs ++ [x] ∧ TaskOf k l f x ∧
        (x.active = true ↔ (partitionOf s.ctxs k x.slot).length < 4) := by
      rcases starts with ⟨_, starts⟩ | ⟨_, _, starts⟩
      · have added := startTask_adds sixteen starts
        exact added
      · have added := startTask_adds sixteen starts
        exact added
    obtain ⟨mem, x, ctxs, task, active⟩ := added
    obtain ⟨htask, level, core, launch, pc, lanes, vregs, scr, tiles, join, depth, sregs⟩ := task
    exact ⟨runs, mem, x, ctxs, htask, level, core, launch, pc, lanes, vregs, scr, tiles, join, depth, active, sregs⟩

end Sys2Proof.Proofs.ExecutionModel

end

section
/-! PROOFS. Memory words, and tables of which a part is dropped. -/

open Sys2Proof Sys2Proof.Machine

namespace Sys2Proof.Proofs.ExecutionModel

/-! ## Words in memory -/

theorem leNat_leBytes (n v : Nat) : leNat (leBytes n v) = v % 256 ^ n := by
  induction n generalizing v with
  | zero => simp [leNat, leBytes, Nat.mod_one]
  | succ n ih =>
    rw [leBytes, leNat, ih, Nat.pow_succ, Nat.mul_comm (256 ^ n), Nat.mod_mul]
    simp [BitVec.toNat_ofNat]

theorem leBytes_length (n v : Nat) : (leBytes n v).length = n := by
  induction n generalizing v with
  | zero => rfl
  | succ n ih => rw [leBytes, List.length_cons, ih]

theorem leWord_wordBytes (w : Word) : leWord (wordBytes w) = w := by
  rw [leWord, wordBytes, leNat_leBytes]
  apply BitVec.eq_of_toNat_eq
  rw [BitVec.toNat_ofNat]
  have := w.isLt
  omega

theorem readBytes_eq (s : State) (n k : Nat) (bs : List Byte) (len : bs.length = n) (h : ∀ i, i < n → memRead s.mem (k + i) = bs.getD i 0) :
    readBytes s k n = bs := by
  induction n generalizing k bs with
  | zero => rw [List.length_eq_zero_iff.1 len]; rfl
  | succ n ih =>
    cases bs with
    | nil => cases len
    | cons b r =>
      rw [readBytes, ih (k + 1) r (by simpa using len) (fun i hi => by
        have := h (i + 1) (by omega)
        rwa [show k + (i + 1) = k + 1 + i by omega, List.getD_cons_succ] at this)]
      have := h 0 (by omega)
      rw [Nat.add_zero, List.getD_cons_zero] at this
      rw [this]

theorem readBytes_congr {s t : State} (n k : Nat) (h : ∀ i, i < n → memRead t.mem (k + i) = memRead s.mem (k + i)) :
    readBytes t k n = readBytes s k n := by
  induction n generalizing k with
  | zero => rfl
  | succ n ih =>
    have first := h 0 (by omega)
    rw [Nat.add_zero] at first
    rw [readBytes, readBytes, first, ih (k + 1) (fun i hi => by
      have := h (i + 1) (by omega)
      rwa [show k + (i + 1) = k + 1 + i by omega] at this)]

theorem readWord_congr {s t : State} {k : Nat} (h : ∀ i, i < 4 → memRead t.mem (k + i) = memRead s.mem (k + i)) :
    readWord t k = readWord s k := by
  rw [readWord, readBytes_congr 4 k h, readWord]

theorem readWord_writeWord_same {s : State} (h : s.canonical) (k : Nat) (w : Word) : readWord (writeWord s k w) k = w := by
  have written : readBytes (writeWord s k w) k 4 = wordBytes w := readBytes_eq _ 4 k _ (leBytes_length ..) (fun i hi =>
    memRead_memWriteList_at _ _ _ _ h.1 (by rw [wordBytes, leBytes_length]; exact hi))
  rw [readWord, written, leWord_wordBytes]

theorem memRead_writeWord_other {s : State} (h : s.canonical) {k j : Nat} (w : Word) (hj : j < k ∨ k + 4 ≤ j) :
    memRead (writeWord s k w).mem j = memRead s.mem j :=
  memRead_memWriteList_other _ _ _ _ h.1 (by rw [wordBytes, leBytes_length]; exact hj)

theorem writeWords_onlyMem (ws : List Word) (s : State) (k : Nat) : writeWords s k ws = { s with mem := (writeWords s k ws).mem } := by
  induction ws generalizing s k with
  | nil => rfl
  | cons w r ih =>
    rw [writeWords, ih]
    rfl

theorem memRead_writeWords_other {s : State} (h : s.canonical) (ws : List Word) {k j : Nat} (hj : j < k ∨ k + 4 * ws.length ≤ j) :
    memRead (writeWords s k ws).mem j = memRead s.mem j := by
  induction ws generalizing s k with
  | nil => rfl
  | cons w r ih =>
    rw [List.length_cons] at hj
    rw [writeWords, ih (writeWord_canonical s k w h) (by omega), memRead_writeWord_other h w (by omega)]

/-- Words written one after another read as written. -/
theorem readWord_writeWords {s : State} (h : s.canonical) (ws : List Word) (k i : Nat) (hi : i < ws.length) :
    readWord (writeWords s k ws) (k + 4 * i) = ws.getD i 0 := by
  induction ws generalizing s k i with
  | nil => cases hi
  | cons w r ih =>
    have h1 := writeWord_canonical s k w h
    cases i with
    | zero =>
      rw [writeWords, readWord_congr (s := writeWord s k w) (fun j hj => memRead_writeWords_other h1 r (by omega)), Nat.mul_zero, Nat.add_zero,
        readWord_writeWord_same h, List.getD_cons_zero]
    | succ i =>
      rw [writeWords, show k + 4 * (i + 1) = k + 4 + 4 * i by omega, ih h1 (k + 4) i (by simpa using hi), List.getD_cons_succ]

/-! ## A part of a table -/

/-- A table that does not list a key gives the default there. -/
theorem sget_absent {α : Type} (d : α) (t : Sparse α) (k : Nat) (h : ∀ x ∈ t, x.1 ≠ k) : sget d t k = d := by
  induction t with
  | nil => rfl
  | cons a r ih =>
    obtain ⟨k', v⟩ := a
    have first : k' ≠ k := h _ (List.mem_cons_self ..)
    simp only [sget]
    rw [if_neg first]
    split
    · rfl
    · exact ih (fun x hx => h x (List.mem_cons_of_mem _ hx))

theorem sget_filter_dropped {α : Type} (d : α) (t : Sparse α) {p : Nat → Bool} {k : Nat} (hk : p k = false) :
    sget d (t.filter (fun x => p x.1)) k = d := by
  refine sget_absent d _ k (fun x hx e => ?_)
  rw [List.mem_filter, e, hk] at hx
  cases hx.2

theorem sget_filter_kept {α : Type} [DecidableEq α] (d : α) (t : Sparse α) (wf : sparseWf d t = true) {p : Nat → Bool} {k : Nat}
    (hk : p k = true) : sget d (t.filter (fun x => p x.1)) k = sget d t k := by
  induction t with
  | nil => rfl
  | cons a r ih =>
    obtain ⟨k', v⟩ := a
    obtain ⟨-, hr, above⟩ := (sparseWf_cons d k' v r).1 wf
    by_cases hp : p k' = true
    · simp only [List.filter_cons, hp, if_true, sget, ih hr]
    · have other : k' ≠ k := fun e => hp (by rw [e]; exact hk)
      simp only [List.filter_cons, hp, Bool.false_eq_true, if_false, ih hr, sget, if_neg other]
      split
      · next below => exact sget_lt d r k (fun x hx => Nat.lt_trans below (above x hx))
      · rfl

theorem sparseWf_filter {α : Type} [DecidableEq α] (d : α) (t : Sparse α) (wf : sparseWf d t = true) (p : Nat × α → Bool) :
    sparseWf d (t.filter p) = true := by
  induction t with
  | nil => rfl
  | cons a r ih =>
    obtain ⟨k', v⟩ := a
    obtain ⟨hv, hr, above⟩ := (sparseWf_cons d k' v r).1 wf
    by_cases hp : p (k', v) = true
    · rw [List.filter_cons_of_pos hp, sparseWf_cons]
      exact ⟨hv, ih hr, fun x hx => above x (List.mem_filter.1 hx).1⟩
    · rw [List.filter_cons_of_neg hp]
      exact ih hr

/-- Memory of which a part is dropped: the rest reads as before, the part as zero. -/
theorem memRead_filter_dropped (m : List Host.Cell) {p : Nat → Bool} {k : Nat} (hk : p k = false) :
    memRead (m.filter (fun c => p c.1)) k = 0 := sget_filter_dropped 0 m hk

theorem memRead_filter_kept {m : List Host.Cell} (wf : Memory.wf m = true) {p : Nat → Bool} {k : Nat} (hk : p k = true) :
    memRead (m.filter (fun c => p c.1)) k = memRead m k := sget_filter_kept unlistedByte m wf hk

end Sys2Proof.Proofs.ExecutionModel

end

section
/-! PROOFS. Reset, boot, the self-test, mailboxes and the other registers of O59. -/

open Sys2Proof Sys2Proof.Machine

namespace Sys2Proof.Proofs.ExecutionModel

/-! ## Reset and boot (R158, R393, R394) -/

/-- What a cold reset leaves. -/
theorem coldReset_afresh (s : State) : ∃ t, exec .coldReset s = .next t ∧ t.ctxs = [] ∧ t.launches = [] ∧ t.queues = [] ∧ t.nodes = [] ∧
    t.time0 = 0 ∧ t.time1 = 0 ∧ t.stage = 0 ∧ t.ready = false ∧ t.marker = s.marker ∧ t.fuses = s.fuses ∧ t.attestKey = none ∧
    (∀ k, k < 192 → (getCore t k).genNext = 1 ∧ (getCore t k).valid = []) ∧ (∀ k, k < 48 → (getVault t k).genNext = 1) ∧ t.tags = [] := by
  refine ⟨coldReset s, rfl, rfl, rfl, rfl, rfl, rfl, rfl, rfl, rfl, rfl, rfl, rfl, fun k _ => ?_, fun k _ => ?_, rfl⟩
  · rw [show getCore (coldReset s) k = Core.reset from DeviceOrganisation.getCore_reset k]
    exact ⟨rfl, rfl⟩
  · rw [show getVault (coldReset s) k = Vault.reset from DeviceOrganisation.getVault_reset k]
    rfl

/-- What the ROM asks of a signed image (R393). -/
theorem accepts_iff (f : Fuses) (x : SignedImage) : f.accepts x = true ↔
    (∃ i, i < 4 ∧ f.revoked.getLsbD i = false ∧ f.keys[i]? = some x.key) ∧ x.signed = true ∧ f.minVersion.toNat ≤ x.version.toNat := by
  simp [Fuses.accepts, and_assoc, BitVec.le_def]

section
variable {s : State} {img : BootImage} (power : powered s = true)
include power

theorem exec_boot_rom (stage : s.stage = 0) :
    exec (.boot img) s = .next { s with stage := 1, lost := s.marker.sealed, measurements := [Config.romDigest] } := by
  show execBoot img s = _
  simp only [execBoot, power, Bool.not_true, Bool.false_eq_true, if_false, if_pos stage]

theorem exec_boot_first (stage : s.stage = 1) : exec (.boot img) s =
    match firstStage s.fuses img with
    | none => .next { s with stage := 0xFF }
    | some x => .next { s with
        stage := 2, measurements := s.measurements ++ [x.digest], attestKey := some (Config.attestationKey s.fuses.secret) } := by
  show execBoot img s = _
  have not_rom : ¬ s.stage = 0 := by rw [stage]; decide
  rw [execBoot, if_neg (by simp [power]), if_neg not_rom, if_pos stage] <;> rfl

theorem exec_boot_firmware (stage : s.stage = 2) : exec (.boot img) s =
    if img.cores.length = 7 && img.cores.all s.fuses.accepts then
      .next { s with stage := 3, measurements := s.measurements ++ [img.firmware, img.config] }
    else .next s := by
  show execBoot img s = _
  have not_rom : ¬ s.stage = 0 := by rw [stage]; decide
  have not_first : ¬ s.stage = 1 := by rw [stage]; decide
  have not_last : ¬ s.stage = 3 := by rw [stage]; decide
  rw [execBoot, if_neg (by simp [power]), if_neg not_rom, if_neg not_first, if_neg not_last]
  simp only [decide_eq_true stage, Bool.true_and]

theorem exec_boot_ready (stage : s.stage = 3) : exec (.boot img) s = .next { s with stage := 4, ready := true } := by
  show execBoot img s = _
  have not_rom : ¬ s.stage = 0 := by rw [stage]; decide
  have not_first : ¬ s.stage = 1 := by rw [stage]; decide
  have not_firmware : ¬ s.stage = 2 := by rw [stage]; decide
  rw [execBoot, if_neg (by simp [power]), if_neg not_rom, if_neg not_first, if_neg (by simp only [decide_eq_false not_firmware, Bool.false_and, Bool.false_eq_true, not_false_eq_true]), if_pos stage]

theorem exec_boot_over (stage : s.stage ∉ ([0, 1, 2, 3] : List (BitVec 8))) : exec (.boot img) s = .next s := by
  show execBoot img s = _
  simp only [List.mem_cons, List.not_mem_nil, or_false, not_or] at stage
  obtain ⟨h0, h1, h2, h3⟩ := stage
  rw [execBoot, if_neg (by simp [power]), if_neg h0, if_neg h1, if_neg (by simp only [decide_eq_false h2, Bool.false_and, Bool.false_eq_true, not_false_eq_true]), if_neg h3]

end

/-- The source tried first, where it passes; else the other. -/
theorem firstStage_first {f : Fuses} {img : BootImage} {x : SignedImage} (first : img.first = some x) (passes : f.accepts x = true) :
    firstStage f img = some x := by
  simp [firstStage, first, Option.filter, passes]

theorem filter_accepts_none {f : Fuses} {o : Option SignedImage} (refused : ∀ x, o = some x → ¬ f.accepts x = true) :
    o.filter f.accepts = none := by
  cases o with
  | none => rfl
  | some x => simp [Option.filter, refused x rfl]

theorem firstStage_second {f : Fuses} {img : BootImage} (refused : ∀ x, img.first = some x → ¬ f.accepts x = true) :
    firstStage f img = img.second.filter f.accepts := by
  rw [firstStage, filter_accepts_none refused]

/-- The boot, stage by stage. -/
theorem boot_stages (img : BootImage) (s : State) (power : powered s = true) :
    let passes (x : SignedImage) : Prop := (∃ i, i < 4 ∧ s.fuses.revoked.getLsbD i = false ∧ s.fuses.keys[i]? = some x.key) ∧
      x.signed = true ∧ s.fuses.minVersion.toNat ≤ x.version.toNat
    let refused (o : Option SignedImage) : Prop := ∀ x, o = some x → ¬ passes x
    let loads (x : SignedImage) : Prop := exec (.boot img) s = .next { s with
      stage := 2, measurements := s.measurements ++ [x.digest], attestKey := some (Config.attestationKey s.fuses.secret) }
    (s.stage = 0 → exec (.boot img) s = .next { s with stage := 1, lost := s.marker.sealed, measurements := [Config.romDigest] }) ∧
    (s.stage = 1 → (∀ x, img.first = some x → passes x → loads x) ∧
      (refused img.first → (∀ x, img.second = some x → passes x → loads x) ∧
        (refused img.second → exec (.boot img) s = .next { s with stage := 0xFF }))) ∧
    (s.stage = 2 → (img.cores.length = 7 → (∀ x ∈ img.cores, passes x) → exec (.boot img) s =
        .next { s with stage := 3, measurements := s.measurements ++ [img.firmware, img.config] }) ∧
      ((∃ x ∈ img.cores, ¬ passes x) → exec (.boot img) s = .next s)) ∧
    (s.stage = 3 → exec (.boot img) s = .next { s with stage := 4, ready := true }) ∧
    (s.stage ∉ ([0, 1, 2, 3] : List (BitVec 8)) → exec (.boot img) s = .next s) := by
  intro passes refused loads
  have accepts (x : SignedImage) : s.fuses.accepts x = true ↔ passes x := accepts_iff s.fuses x
  refine ⟨exec_boot_rom power, fun stage => ⟨fun x first pass => ?_, fun no_first => ⟨fun x second pass => ?_, fun no_second => ?_⟩⟩,
    fun stage => ⟨fun seven pass => ?_, fun bad => ?_⟩, exec_boot_ready power, exec_boot_over power⟩
  · show exec (.boot img) s = _
    rw [exec_boot_first power stage, firstStage_first first ((accepts x).2 pass)]
  · show exec (.boot img) s = _
    rw [exec_boot_first power stage, firstStage_second (fun y hy => by rw [accepts]; exact no_first y hy), second]
    simp [Option.filter, (accepts x).2 pass]
  · rw [exec_boot_first power stage, firstStage_second (fun y hy => by rw [accepts]; exact no_first y hy),
      filter_accepts_none (fun y hy => by rw [accepts]; exact no_second y hy)]
  · rw [exec_boot_firmware power stage, if_pos]
    rw [Bool.and_eq_true, decide_eq_true_eq, List.all_eq_true]
    exact ⟨seven, fun x hx => (accepts x).2 (pass x hx)⟩
  · rw [exec_boot_firmware power stage, if_neg]
    rw [Bool.and_eq_true, List.all_eq_true]
    rintro ⟨-, all⟩
    obtain ⟨x, hx, fails⟩ := bad
    exact fails ((accepts x).1 (all x hx))

/-! ## The self-test (R395) -/

/-- The words of a self-test's record. -/
def recordWords (t status parts : Nat) (results : List Word) : List Word :=
  [BitVec.ofNat 32 (parts * 256 + status), BitVec.ofNat 32 t, BitVec.ofNat 32 (t / 2 ^ 32)] ++ (List.range 13).map (fun i => results.getD i 0)

theorem recordWords_length (t status parts : Nat) (results : List Word) : (recordWords t status parts results).length = 16 := by
  simp [recordWords]

theorem recordWords_result (t status parts : Nat) (results : List Word) (j : Nat) (hj : j < 13) :
    (recordWords t status parts results).getD (3 + j) 0 = results.getD j 0 := by
  simp only [recordWords, List.getD_eq_getElem?_getD]
  rw [List.getElem?_append_right (by simp)]
  simp [hj]

theorem testRecord_onlyMem (s : State) (t addr status parts : Nat) (results : List Word) :
    testRecord s t addr status parts results = { s with mem := (testRecord s t addr status parts results).mem } := writeWords_onlyMem ..

theorem readWord_testRecord {s : State} (h : s.canonical) (t addr status parts : Nat) (results : List Word) (i : Nat) (hi : i < 16) :
    readWord (testRecord s t addr status parts results) (hostKey addr + 4 * i) = (recordWords t status parts results).getD i 0 :=
  readWord_writeWords h _ _ _ (by rw [← recordWords, recordWords_length]; exact hi)

theorem memRead_testRecord_other {s : State} (h : s.canonical) (t addr status parts : Nat) (results : List Word) {k : Nat}
    (hk : k < hostKey addr ∨ hostKey addr + 64 ≤ k) : memRead (testRecord s t addr status parts results).mem k = memRead s.mem k :=
  memRead_writeWords_other h _ (by rw [← recordWords, recordWords_length]; exact hk)

/-- The test that a write to STCMD selects: all parts for 0, with the address of its record. -/
def selectedTest (v : DWord) : BitVec 4 × Nat :=
  (if (v.extractLsb' 0 4 : BitVec 4) = 0 then 15 else v.extractLsb' 0 4, v.toNat / 64 * 64)

/-- A self-test is refused, runs, or ends as it starts. -/
theorem exec_selfTest (v : DWord) (s : State) : exec (.selfTest v) s =
    if s.selftest.isSome || s.supply == .off || s.stage = 0xFF then .next s
    else if !s.ctxs.isEmpty || !s.saved.isEmpty then .next (testRecord s s.time0 (v.toNat / 64 * 64) 3 0 [])
    else if powered s then .next { s with selftest := some (selectedTest v) }
    else .next { s with abandoned := s.abandoned.or (some ((selectedTest v).1, (selectedTest v).2, s.time0)) } := rfl

theorem selfTest_starts (v : DWord) (s : State) (supply : s.supply ≠ .off) (stage : s.stage ≠ 0xFF) (h : s.canonical)
    (free : s.selftest = none) :
    let addr := v.toNat / 64 * 64
    let parts : BitVec 4 := v.extractLsb' 0 4
    (s.ctxs ≠ [] ∨ s.saved ≠ [] → ∃ t, exec (.selfTest v) s = .next t ∧ readWord t (hostKey addr) = 3 ∧ t = { s with mem := t.mem } ∧
      readWord t (hostKey addr + 4) = BitVec.ofNat 32 s.time0 ∧ readWord t (hostKey addr + 8) = BitVec.ofNat 32 (s.time0 / 2 ^ 32) ∧
      ∀ k, k < hostKey addr ∨ hostKey addr + 64 ≤ k → memRead t.mem k = memRead s.mem k) ∧
    (s.ctxs = [] → s.saved = [] → powered s = true → exec (.selfTest v) s =
      .next { s with selftest := some (if parts = 0 then 15 else parts, addr) }) ∧
    (s.ctxs = [] → s.saved = [] → powered s = false → s.abandoned = none → exec (.selfTest v) s =
      .next { s with abandoned := some (if parts = 0 then 15 else parts, addr, s.time0) }) := by
  intro addr parts
  have first : ¬ (s.selftest.isSome || s.supply == .off || s.stage = 0xFF) = true := by
    rw [decide_eq_false stage]
    simp [free, supply]
  refine ⟨fun held => ?_, fun no_ctx no_saved power => ?_, fun no_ctx no_saved power no_test => ?_⟩
  · have busy : (!s.ctxs.isEmpty || !s.saved.isEmpty) = true := by simpa using held
    refine ⟨testRecord s s.time0 addr 3 0 [], by rw [exec_selfTest, if_neg first, if_pos busy], readWord_testRecord h _ _ _ _ _ 0 (by decide),
      testRecord_onlyMem .., readWord_testRecord h _ _ _ _ _ 1 (by decide), readWord_testRecord h _ _ _ _ _ 2 (by decide),
      fun k hk => memRead_testRecord_other h _ _ _ _ _ hk⟩
  · rw [exec_selfTest, if_neg first, if_neg (by simp [no_ctx, no_saved]), if_pos power]
    rfl
  · rw [exec_selfTest, if_neg first, if_neg (by simp [no_ctx, no_saved]), if_neg (by simp [power]), no_test]
    rfl

theorem selfTest_undisturbed {s : State} (v : DWord) (h : s.selftest ≠ none ∨ s.supply = .off ∨ s.stage = 0xFF) :
    exec (.selfTest v) s = .next s := by
  rw [exec_selfTest, if_pos]
  rcases h with running | off | refused
  · simp [Option.isSome_iff_ne_none.2 running]
  · simp [off]
  · simp [refused]

/-- The device as the end of a self-test leaves it, but for the record. -/
def testedDevice (s : State) (failed : Bool) : State :=
  { zeroDevice s with
    cores := s.cores.map (fun c => { c with genNext := 1, skim := [], rewriting := [], lines := [], tileState := [], valid := [] })
    vaults := s.vaults.map (fun v => { v with genNext := 1, skim := [] })
    ports := s.ports.map Port.retried
    selftest := none
    stfail := failed }

/-- Some unit failed in the parts that ran. -/
def testFailed (parts : BitVec 4) (r : List Word) : Bool := (testResults parts r).any (fun w => w ≠ 0)

/-- The state that the end of a self-test leaves. -/
def testEnded (s : State) (parts : BitVec 4) (addr : Nat) (r : List Word) : State :=
  raiseVector (testRecord (testedDevice s (testFailed parts r)) s.time0 addr (if testFailed parts r then 2 else 1) parts.toNat
    (testResults parts r)) 3

theorem exec_selfTestEnd {s : State} {parts : BitVec 4} {addr : Nat} (power : powered s = true) (test : s.selftest = some (parts, addr))
    (r : List Word) : exec (.selfTestEnd r) s = .next (testEnded s parts addr r) := by
  show execSelfTestEnd r s = _
  rw [execSelfTestEnd, test]
  simp only [power, Bool.not_true, Bool.false_eq_true, if_false]
  rfl

theorem testEnded_frame (s : State) (parts : BitVec 4) (addr : Nat) (r : List Word) : testEnded s parts addr r =
    { testedDevice s (testFailed parts r) with mem := (testEnded s parts addr r).mem, vectors := s.vectors ||| 8 } := by
  have frame := testRecord_onlyMem (testedDevice s (testFailed parts r)) s.time0 addr (if testFailed parts r then 2 else 1) parts.toNat
    (testResults parts r)
  rw [testEnded]
  generalize testRecord (testedDevice s (testFailed parts r)) s.time0 addr (if testFailed parts r then 2 else 1) parts.toNat
    (testResults parts r) = u at frame ⊢
  rw [frame]
  rfl

theorem testedDevice_canonical {s : State} (h : s.canonical) (failed : Bool) : (testedDevice s failed).canonical :=
  ⟨sparseWf_filter _ _ h.1 _, rfl⟩

theorem retried_failed (x : Port) : x.retried.failed = 0 := by
  unfold Port.retried
  split
  · next h => exact h
  · rfl

/-- A part that was not run fails nothing. -/
theorem testResults_part (parts : BitVec 4) (r : List Word) :
    (parts.getLsbD 0 = false → (testResults parts r).getD 0 0 = 0 ∧ (testResults parts r).getD 1 0 = 0) ∧
      (parts.getLsbD 1 = false → (testResults parts r).getD 2 0 = 0) := by
  have skipped {n : Nat} (off : parts.getLsbD n = false) (w : Word) : (if parts.getLsbD n then w else 0) = 0 :=
    if_neg (by simp only [off, Bool.false_eq_true, not_false_eq_true])
  exact ⟨fun off => ⟨skipped off _, skipped off _⟩, fun off => skipped off _⟩

theorem readWord_raiseVector (s : State) (n k : Nat) : readWord (raiseVector s n) k = readWord s k := rfl
theorem raiseVector_mem (s : State) (n : Nat) : (raiseVector s n).mem = s.mem := rfl

theorem isHost_iff (k : Nat) : isHost k = true ↔ 2 ^ 52 ≤ k ∧ k < 2 ^ 52 + 2 ^ 64 := by
  rw [isHost, Bool.and_eq_true, decide_eq_true_eq, decide_eq_true_eq]
  rfl

section
variable {s : State} (h : s.canonical) (parts : BitVec 4) (addr : Nat) (r : List Word)
include h

theorem readWord_testEnded (i : Nat) (hi : i < 16) : readWord (testEnded s parts addr r) (hostKey addr + 4 * i) =
    (recordWords s.time0 (if testFailed parts r then 2 else 1) parts.toNat (testResults parts r)).getD i 0 := by
  rw [testEnded, readWord_raiseVector, readWord_testRecord (testedDevice_canonical h _) _ _ _ _ _ i hi]

theorem memRead_testEnded {k : Nat} (hk : k < hostKey addr ∨ hostKey addr + 64 ≤ k) :
    memRead (testEnded s parts addr r).mem k = memRead (s.mem.filter (fun c => isHost c.1)) k := by
  rw [testEnded, raiseVector_mem, memRead_testRecord_other (testedDevice_canonical h _) _ _ _ _ _ hk]
  rfl

/-- Host memory outside the record is as before. -/
theorem memRead_testEnded_host {k : Nat} (host : isHost k = true) (hk : k < hostKey addr ∨ hostKey addr + 64 ≤ k) :
    memRead (testEnded s parts addr r).mem k = memRead s.mem k :=
  (memRead_testEnded h parts addr r hk).trans (memRead_filter_kept h.1 host)

/-- Every byte of the device is zero. -/
theorem memRead_testEnded_device (inside : addr + 64 ≤ 2 ^ 64) {k : Nat} (device : isHost k = false) :
    memRead (testEnded s parts addr r).mem k = 0 := by
  have outside : k < hostKey addr ∨ hostKey addr + 64 ≤ k := by
    rw [← Bool.not_eq_true, isHost_iff] at device
    unfold hostKey
    omega
  exact (memRead_testEnded h parts addr r outside).trans (memRead_filter_dropped s.mem device)

/-- The record's words for each unit. -/
theorem readWord_testEnded_results (j : Nat) :
    (j < 7 → readWord (testEnded s parts addr r) (hostKey addr + 12 + 4 * j) = (testResults parts r).getD j 0) ∧
      (j < 6 → readWord (testEnded s parts addr r) (hostKey addr + 40 + 4 * j) = 0) := by
  refine ⟨fun hj => ?_, fun hj => ?_⟩
  · rw [show hostKey addr + 12 + 4 * j = hostKey addr + 4 * (3 + j) by omega, readWord_testEnded h parts addr r _ (by omega),
      recordWords_result _ _ _ _ _ (by omega)]
  · rw [show hostKey addr + 40 + 4 * j = hostKey addr + 4 * (3 + (7 + j)) by omega, readWord_testEnded h parts addr r _ (by omega),
      recordWords_result _ _ _ _ _ (by omega)]
    exact List.getD_eq_default _ _ (Nat.le_add_right ..)

end

theorem getCore_testEnded {s : State} {k : Nat} (hk : k < s.cores.length) (parts : BitVec 4) (addr : Nat) (r : List Word) :
    (getCore (testEnded s parts addr r) k).genNext = 1 ∧ (getCore (testEnded s parts addr r) k).valid = [] := by
  rw [testEnded_frame]
  simp [getCore, testedDevice, List.getD, hk]

theorem getVault_testEnded {s : State} {k : Nat} (hk : k < s.vaults.length) (parts : BitVec 4) (addr : Nat) (r : List Word) :
    (getVault (testEnded s parts addr r) k).genNext = 1 := by
  rw [testEnded_frame]
  simp [getVault, testedDevice, List.getD, hk]

theorem ports_testEnded (s : State) (parts : BitVec 4) (addr : Nat) (r : List Word) : ∀ p ∈ (testEnded s parts addr r).ports, p.failed = 0 := by
  rw [testEnded_frame]
  intro p hp
  obtain ⟨x, -, rfl⟩ := List.mem_map.1 hp
  exact retried_failed x

theorem stfail_testEnded (s : State) (parts : BitVec 4) (addr : Nat) (r : List Word) :
    (testEnded s parts addr r).stfail = testFailed parts r := by
  rw [testEnded_frame]
  rfl

theorem selftest_testEnded (s : State) (parts : BitVec 4) (addr : Nat) (r : List Word) : (testEnded s parts addr r).selftest = none ∧
    (testEnded s parts addr r).tags = [] ∧ (testEnded s parts addr r).vectors = s.vectors ||| 8 := by
  rw [testEnded_frame]
  exact ⟨rfl, rfl, rfl⟩

/-- The end of a self-test. -/
theorem selfTest_ends (r : List Word) (s : State) (parts : BitVec 4) (addr : Nat) (power : powered s = true) (h : s.canonical)
    (test : s.selftest = some (parts, addr)) (inside : addr + 64 ≤ 2 ^ 64) :
    ∃ t, exec (.selfTestEnd r) s = .next t ∧ t.selftest = none ∧ t.tags = [] ∧ t.vectors = s.vectors ||| 8 ∧
      (∀ k, isHost k = false → memRead t.mem k = 0) ∧
      (∀ k, isHost k = true → k < hostKey addr ∨ hostKey addr + 64 ≤ k → memRead t.mem k = memRead s.mem k) ∧
      (∀ k, k < s.cores.length → (getCore t k).genNext = 1 ∧ (getCore t k).valid = []) ∧
      (∀ k, k < s.vaults.length → (getVault t k).genNext = 1) ∧
      (∀ p ∈ t.ports, p.failed = 0) ∧
      (∀ j, j < 7 → readWord t (hostKey addr + 12 + 4 * j) = (testResults parts r).getD j 0) ∧
      (∀ j, j < 6 → readWord t (hostKey addr + 40 + 4 * j) = 0) ∧
      (t.stfail = true ↔ ∃ w ∈ testResults parts r, w ≠ 0) ∧
      readWord t (hostKey addr) = BitVec.ofNat 32 (parts.toNat * 256 + (if t.stfail then 2 else 1)) ∧
      (parts.getLsbD 0 = false → (testResults parts r).getD 0 0 = 0 ∧ (testResults parts r).getD 1 0 = 0) ∧
      (parts.getLsbD 1 = false → (testResults parts r).getD 2 0 = 0) := by
  obtain ⟨ended, tags, vectors⟩ := selftest_testEnded s parts addr r
  refine ⟨testEnded s parts addr r, exec_selfTestEnd power test r, ended, tags, vectors,
    fun k device => memRead_testEnded_device h parts addr r inside device, fun k host outside => memRead_testEnded_host h parts addr r host outside,
    fun k hk => getCore_testEnded hk parts addr r, fun k hk => getVault_testEnded hk parts addr r, ports_testEnded s parts addr r,
    fun j => (readWord_testEnded_results h parts addr r j).1, fun j => (readWord_testEnded_results h parts addr r j).2, ?_, ?_,
    (testResults_part parts r).1, (testResults_part parts r).2⟩
  · rw [stfail_testEnded, testFailed, List.any_eq_true]
    simp only [decide_eq_true_eq]
  · rw [stfail_testEnded]
    exact readWord_testEnded h parts addr r 0 (by decide)

end Sys2Proof.Proofs.ExecutionModel

end

section
/-! PROOFS. Mailboxes, the region frames, and the settlement of O59. -/

open Sys2Proof Sys2Proof.Machine

namespace Sys2Proof.Proofs.ExecutionModel

/-! ## Mailboxes (R107, R389) -/

theorem find_without {α : Type} (l : List (Nat × α)) {j k : Nat} (h : j ≠ k) :
    (l.filter (fun m => m.1 ≠ k)).find? (fun m => m.1 = j) = l.find? (fun m => m.1 = j) := by
  rw [List.find?_filter]
  congr 1
  funext m
  by_cases hm : m.1 = j <;> simp [hm, h]

theorem find_without_self {α : Type} (l : List (Nat × α)) (k : Nat) : (l.filter (fun m => m.1 ≠ k)).find? (fun m => m.1 = k) = none := by
  simp

theorem mailbox_setMailbox_same (s : State) (src dst : Nat) (es : List (List Word)) : mailbox (setMailbox s src dst es) src dst = es := by
  by_cases empty : es.isEmpty = true
  · rw [mailbox, setMailbox, if_pos empty, find_without_self, List.isEmpty_iff.1 empty]
    rfl
  · rw [mailbox, setMailbox, if_neg empty, List.find?_append, find_without_self]
    simp

theorem mailbox_setMailbox_other (s : State) {src dst a b : Nat} (h : 8 * a + b ≠ 8 * src + dst) (es : List (List Word)) :
    mailbox (setMailbox s src dst es) a b = mailbox s a b := by
  by_cases empty : es.isEmpty = true
  · rw [mailbox, setMailbox, if_pos empty, find_without _ h, mailbox]
  · rw [mailbox, setMailbox, if_neg empty, List.find?_append, find_without _ h, mailbox]
    simp [h.symm]

theorem mailboxInterrupt_iff (s : State) (dst : Nat) : mailboxInterrupt s dst = true ↔ ∃ m ∈ s.mailboxes, m.1 % 8 = dst ∧ m.2 ≠ [] := by
  simp [mailboxInterrupt]

theorem mailboxInterrupt_of_entry {s : State} {src dst : Nat} (hdst : dst < 8) (entry : mailbox s src dst ≠ []) :
    mailboxInterrupt s dst = true := by
  rw [mailboxInterrupt_iff]
  cases found : s.mailboxes.find? (fun m => m.1 = 8 * src + dst) with
  | none => exact absurd (by rw [mailbox, found]; rfl) entry
  | some m =>
    have key : m.1 = 8 * src + dst := by simpa using List.find?_some found
    exact ⟨m, List.mem_of_find?_eq_some found, by omega, by rw [mailbox, found] at entry; exact entry⟩

theorem exec_mailboxSend {src dst taken : Nat} {d : List Word} {s : State} (hsrc : src < 8) (hdst : dst < 8) (differ : src ≠ dst)
    (power : powered s = true) : exec (.mailboxSend src dst taken d) s = .next (setMailbox s src dst
      (if !d.isEmpty && ((mailbox s src dst).drop taken).length < 8 then
        (mailbox s src dst).drop taken ++ [(d ++ List.replicate 16 0).take 16] else (mailbox s src dst).drop taken)) := by
  show execMailboxSend src dst taken d s = _
  rw [execMailboxSend, if_neg (by simp [hsrc, hdst, differ, power])]

/-- A mailbox takes the sender's entry, if it has one, where there is room, and no other mailbox changes. -/
theorem mailbox_sends (src dst taken : Nat) (d : List Word) (s : State) (hsrc : src < 8) (hdst : dst < 8) (differ : src ≠ dst)
    (power : powered s = true) :
    let left := (mailbox s src dst).drop taken
    ∃ t, exec (.mailboxSend src dst taken d) s = .next t ∧ t = { s with mailboxes := t.mailboxes } ∧
      (d ≠ [] → left.length < 8 → ∃ e, mailbox t src dst = left ++ [e] ∧ e.length = 16 ∧ (d.length = 16 → e = d)) ∧
      (d = [] ∨ 8 ≤ left.length → mailbox t src dst = left) ∧
      (mailboxInterrupt t dst = true ↔ ∃ m ∈ t.mailboxes, m.1 % 8 = dst ∧ m.2 ≠ []) ∧
      (mailbox t src dst ≠ [] → mailboxInterrupt t dst = true) ∧
      ∀ a b, a < 8 → b < 8 → (a ≠ src ∨ b ≠ dst) → mailbox t a b = mailbox s a b := by
  intro left
  refine ⟨_, exec_mailboxSend hsrc hdst differ power, rfl, fun words room => ?_, fun no_room => ?_, mailboxInterrupt_iff _ _,
    mailboxInterrupt_of_entry hdst, fun a b ha hb other => mailbox_setMailbox_other s (by omega) _⟩
  · refine ⟨(d ++ List.replicate 16 0).take 16, ?_, by simp, fun sixteen => ?_⟩
    · have room' : ((mailbox s src dst).drop taken).length < 8 := room
      rw [mailbox_setMailbox_same, if_pos (by simpa [words] using room')]
    · rw [List.take_append_of_le_length (by omega), List.take_of_length_le (by omega)]
  · rw [mailbox_setMailbox_same, if_neg]
    rw [Bool.and_eq_true, decide_eq_true_eq]
    rintro ⟨words, room⟩
    rcases no_room with empty | full
    · simp [empty] at words
    · exact absurd room (Nat.not_lt.2 full)

/-! ## The frames of a region (R53, R133) -/

/-- From `s` to `t` every region control block keeps its address and its frames. -/
def FramesKept (s t : State) : Prop := t.nodes.map (fun x => (x.addr, x.frames)) = s.nodes.map (fun x => (x.addr, x.frames))

theorem FramesKept.trans {s t u : State} (h : FramesKept s t) (h' : FramesKept t u) : FramesKept s u := Eq.trans h' h

/-- Changes of each block that keep its address and frames. -/
theorem framesKept_map (s : State) {f : Node → Node} (hf : ∀ x, ((f x).addr, (f x).frames) = (x.addr, x.frames)) :
    FramesKept s { s with nodes := s.nodes.map f } := by
  simp only [FramesKept, List.map_map]
  exact List.map_congr_left (fun x _ => hf x)

theorem placeNode_sendsOnly (s : State) (n : Node) (i : Nat) (ws : List Word) : SendsOnly s (placeNode s n i ws) := by
  unfold placeNode
  split
  · exact homePush_sendsOnly ..
  · exact .refl s

theorem postNode_framesKept (s : State) (n : Node) (i : Nat) (ws : List Word) : FramesKept s (postNode s n i ws) := by
  unfold postNode
  split
  · exact framesKept_map s (fun x => by split <;> rfl)
  · rw [placeNode_sendsOnly s n i ws]
    exact rfl

theorem chargeNode_framesKept (s : State) (n : Node) : FramesKept s (chargeNode s n) := by
  unfold chargeNode
  dsimp only
  split
  · exact rfl
  · exact (framesKept_map s (fun x => by split <;> rfl)).trans (postNode_framesKept ..)

theorem recharge_framesKept (s : State) : FramesKept s (recharge s) := by
  refine List.foldlRecOn s.nodes chargeNode (motive := FramesKept s) rfl ?_
  intro t ht n _
  exact ht.trans (chargeNode_framesKept t n)

/-- A block's frames as they stand, where every block keeps its own. -/
theorem FramesKept.getNode {s t : State} (h : FramesKept s t) (a : Nat) :
    (Machine.getNode t a).map (fun x => (x.addr, x.frames)) = (Machine.getNode s a).map (fun x => (x.addr, x.frames)) := by
  have through (u : State) : (Machine.getNode u a).map (fun x => (x.addr, x.frames)) =
      (u.nodes.map (fun x => (x.addr, x.frames))).find? (fun y => y.1 == a) := by
    rw [List.find?_map]
    rfl
  rw [through, through, h]

theorem regionFrames_set {s : State} {node : Nat} {x : Node} (found : getNode s node = some x) (n : Nat) :
    ∃ y, getNode (regionFramesWrite s node n) node = some y ∧ y.frames = n := by
  let u : State := { s with nodes := s.nodes.map (fun x => if x.addr = node then { x with frames := n } else x) }
  have addr : x.addr = node := by simpa using List.find?_some found
  have set : getNode u node = some { x with frames := n } := by
    have keeps : (fun y : Node => y.addr == node) ∘ (fun x : Node => if x.addr = node then { x with frames := n } else x) =
        fun y => y.addr == node := by
      funext y
      simp only [Function.comp]
      split <;> rfl
    show (s.nodes.map _).find? _ = _
    rw [List.find?_map, keeps]
    have found' : s.nodes.find? (fun y => y.addr == node) = some x := found
    rw [found', Option.map_some, if_pos addr]
  have kept := (recharge_framesKept u).getNode node
  rw [set, Option.map_some, Option.map_eq_some_iff] at kept
  obtain ⟨y, hy, same⟩ := kept
  exact ⟨y, hy, congrArg Prod.snd same⟩

theorem exec_registerWrite_taken {s : State} (stage : s.stage ≠ 0xFF) (n : DWord) :
    exec (.registerWrite .errorsTaken n) s = .next { s with errors := s.errors.drop n.toNat } := if_neg stage

theorem exec_registerWrite_frames {s : State} (stage : s.stage ≠ 0xFF) (node : Nat) (n : DWord) :
    exec (.registerWrite (.regionFrames node) n) s = .next (regionFramesWrite s node n.toNat) := if_neg stage

/-! ## A partner's retention (R396) -/

theorem exec_partnerRetention {p : Nat} {s : State} (hp : p < 18) : exec (.partnerRetention p) s =
    if (s.ports.getD p Port.reset).state = 0 then .next s else .next (modPort s p (fun x => { x with state := 3 })) := by
  show execPartnerRetention p s = _
  unfold execPartnerRetention
  rw [decide_eq_false (Nat.not_le.2 hp)]
  simp only [Bool.false_or, decide_eq_true_eq]

theorem partner_pauses (p : Nat) (s : State) (hp : p < 18) (hs : p < s.ports.length) :
    ((s.ports.getD p Port.reset).state = 0 → exec (.partnerRetention p) s = .next s) ∧
    ((s.ports.getD p Port.reset).state ≠ 0 → ∃ t, exec (.partnerRetention p) s = .next t ∧ t = { s with ports := t.ports } ∧
      t.ports.getD p Port.reset = { s.ports.getD p Port.reset with state := 3 } ∧
      ∀ j, j ≠ p → t.ports.getD j Port.reset = s.ports.getD j Port.reset) := by
  rw [exec_partnerRetention hp]
  refine ⟨fun down => if_pos down, fun up => ⟨_, if_neg up, rfl, ?_, fun j hj => ?_⟩⟩
  · simp [modPort, List.getD, hs]
  · simp [modPort, List.getD, hj.symm]

/-- Settles O59. -/
theorem bootAndSelfTest : Obligations.BootAndSelfTest := by
  refine ⟨⟨coldReset_afresh, boot_stages, fun s => rfl⟩, ⟨selfTest_starts, fun v s => selfTest_undisturbed v, selfTest_ends⟩,
    ⟨mailbox_sends, fun n node s x found stage => ⟨exec_registerWrite_taken stage n, ?_⟩, partner_pauses⟩⟩
  obtain ⟨y, hy, frames⟩ := regionFrames_set found n.toNat
  exact ⟨_, y, exec_registerWrite_frames stage node n, hy, frames⟩

end Sys2Proof.Proofs.ExecutionModel

end

section
/-! PROOFS. The control registers, DEVSTAT, droops and the churn (O58). -/

open Sys2Proof Sys2Proof.Machine

namespace Sys2Proof.Proofs.ExecutionModel

/-! ## DEVSTAT (R385) -/

/-- The bits of DEVSTAT. -/
theorem devstat_toNat (s : State) : (devstat s).toNat = s.stage.toNat * 2 ^ 16 + s.stfail.toNat * 128 + s.retained.toNat * 64 +
    s.lost.toNat * 32 + s.selftest.isSome.toNat * 16 + (readyBit s).toNat := by
  rw [devstat, BitVec.toNat_ofNat, Nat.mod_eq_of_lt]
  have stage := s.stage.isLt
  have stfail := Bool.toNat_lt s.stfail
  have retained := Bool.toNat_lt s.retained
  have lost := Bool.toNat_lt s.lost
  have selftest := Bool.toNat_lt s.selftest.isSome
  have ready := Bool.toNat_lt (readyBit s)
  omega

theorem devstat_fields (s : State) : exec .devstatRead s = .next { s with hostOut := some (devstat s), retained := false } ∧
    bits (devstat s) 23 16 = s.stage.toNat ∧ bits (devstat s) 7 7 = s.stfail.toNat ∧ bits (devstat s) 6 6 = s.retained.toNat ∧
    bits (devstat s) 5 5 = s.lost.toNat ∧ bits (devstat s) 4 4 = s.selftest.isSome.toNat ∧
    bits (devstat s) 0 0 = (if s.ready = true ∧ s.supply ≠ .retention true then 1 else 0) := by
  have stage := s.stage.isLt
  have stfail := Bool.toNat_lt s.stfail
  have retained := Bool.toNat_lt s.retained
  have lost := Bool.toNat_lt s.lost
  have selftest := Bool.toNat_lt s.selftest.isSome
  have ready := Bool.toNat_lt (readyBit s)
  have ready_bit : (readyBit s).toNat = if s.ready = true ∧ s.supply ≠ .retention true then 1 else 0 := by
    by_cases on : s.ready = true <;> by_cases hold : s.supply = .retention true <;> simp [readyBit, thermalHold, on, hold]
  rw [← ready_bit]
  simp only [bits, devstat_toNat]
  refine ⟨rfl, ?_, ?_, ?_, ?_, ?_, ?_⟩ <;> omega

/-! ## Registers that take a write (R384; log entry 108) -/

theorem getCluster_setCluster_other (s : State) {k j : Nat} (h : j ≠ k) (c : Cluster) : getCluster (setCluster s k c) j = getCluster s j := by
  simp [getCluster, setCluster, List.getD, h.symm]

theorem getCore_setCore_same {s : State} {k : Nat} (h : k < s.cores.length) (c : Core) : getCore (setCore s k c) k = c := by
  simp [getCore, setCore, List.getD, h]

theorem getCore_setCore_other (s : State) {k j : Nat} (h : j ≠ k) (c : Core) : getCore (setCore s k c) j = getCore s j := by
  simp [getCore, setCore, List.getD, h.symm]

/-- A refused device takes no write. -/
theorem exec_registerWrite_refused (s : State) (v : DWord) (r : RegTarget) (stage : s.stage = 0xFF) : exec (.registerWrite r v) s = .next s :=
  if_pos stage

/-- Tenants whose policy allows the host's debug accesses, after a write for one of them. -/
def debugTenants (s : State) (a n : Nat) : List Nat :=
  if n = 0 then s.hostDebug.filter (· ≠ a) else s.hostDebug.filter (· ≠ a) ++ [a]

theorem mem_debugTenants (s : State) (a n : Nat) :
    (a ∈ debugTenants s a n ↔ n ≠ 0) ∧ ∀ b, b ≠ a → (b ∈ debugTenants s a n ↔ b ∈ s.hostDebug) := by
  unfold debugTenants
  by_cases off : n = 0
  · rw [if_pos off]
    simp +contextual [off]
  · rw [if_neg off]
    simp +contextual [off]

theorem low_bits_zero (n : Nat) : n / 32 * 32 % 32 = 0 ∧ n / 32 * 32 ≤ n ∧ n < n / 32 * 32 + 32 := by omega

/-- What each register stores of a write. -/
theorem registers_store (s : State) (v : DWord) (off c a : Nat) (hc : c < 48) (hcs : c < s.clusters.length) (stage : s.stage ≠ 0xFF) :
    exec (.registerWrite (.bar0 off) v) s = .next s ∧
    (∃ t, exec (.registerWrite (.hostDebug a) v) s = .next t ∧ t = { s with hostDebug := t.hostDebug } ∧ (a ∈ t.hostDebug ↔ v ≠ 0) ∧
      ∀ b, b ≠ a → (b ∈ t.hostDebug ↔ b ∈ s.hostDebug)) ∧
    (∃ t, exec (.registerWrite .pwrslope v) s = .next t ∧ t = { s with fall := t.fall } ∧ t.fall.toNat = v.toNat / 65536 % 65536) ∧
    (∃ t, exec (.registerWrite .powerCap v) s = .next t ∧ t = { s with cap := t.cap } ∧ t.cap ≤ 1800 ∧ (v.toNat ≤ 1800 → t.cap = v.toNat)) ∧
    (∃ t, exec (.registerWrite .spaceTable v) s = .next t ∧ t = { s with astBase := t.astBase } ∧ t.astBase % 32 = 0 ∧
      t.astBase ≤ v.toNat % 2 ^ 52 ∧ v.toNat % 2 ^ 52 < t.astBase + 32) ∧
    (∃ t, exec (.registerWrite .faultBase v) s = .next t ∧ t = { s with fqBase := t.fqBase } ∧ t.fqBase % 32 = 0 ∧
      t.fqBase ≤ v.toNat % 2 ^ 52 ∧ v.toNat % 2 ^ 52 < t.fqBase + 32) ∧
    (∃ t, exec (.registerWrite .faultLog v) s = .next t ∧ t = { s with fqLog := t.fqLog } ∧ 8 ≤ t.fqLog ∧ t.fqLog ≤ 16 ∧
      (8 ≤ v.toNat → v.toNat ≤ 16 → t.fqLog = v.toNat)) ∧
    (∃ t, exec (.registerWrite (.exclude c) v) s = .next t ∧ t = { s with clusters := t.clusters } ∧
      getCluster t c = { getCluster s c with excluded := decide (v.toNat ≠ 0) } ∧ ∀ j, j ≠ c → getCluster t j = getCluster s j) := by
  refine ⟨if_neg stage, ⟨{ s with hostDebug := debugTenants s a v.toNat }, if_neg stage, rfl, ?_, (mem_debugTenants s a v.toNat).2⟩,
    ⟨{ s with fall := v.extractLsb' 16 16 }, if_neg stage, rfl, ?_⟩, ⟨{ s with cap := min 1800 v.toNat }, if_neg stage, rfl, ?_⟩,
    ⟨{ s with astBase := v.toNat % 2 ^ 52 / 32 * 32 }, if_neg stage, rfl, low_bits_zero _⟩,
    ⟨{ s with fqBase := v.toNat % 2 ^ 52 / 32 * 32 }, if_neg stage, rfl, low_bits_zero _⟩,
    ⟨{ s with fqLog := min 16 (max 8 v.toNat) }, if_neg stage, rfl, ?_⟩,
    ⟨setCluster s c { getCluster s c with excluded := decide (v.toNat ≠ 0) }, ?_, rfl, getCluster_setCluster_same hcs _,
      fun j hj => getCluster_setCluster_other s hj _⟩⟩
  · rw [(mem_debugTenants s a v.toNat).1]
    exact not_congr (by rw [← BitVec.toNat_inj]; rfl)
  · show (v.extractLsb' 16 16).toNat = _
    rw [BitVec.extractLsb'_toNat, Nat.shiftRight_eq_div_pow]
  · dsimp only
    omega
  · dsimp only
    omega
  · exact (if_neg stage).trans (congrArg Host.Outcome.next (if_pos hc))

/-! ## Droops (R367) -/

theorem droop_counts (cl : Nat) (on : Bool) (s : State) (h : cl < s.clusters.length) :
    ∃ t, exec (.droop cl on) s = .next t ∧ t = { s with clusters := t.clusters } ∧
      (getCluster t cl).stretched = on ∧ (getCluster t cl).droops = (getCluster s cl).droops + on.toNat := by
  refine ⟨_, rfl, rfl, ?_⟩
  rw [getCluster_setCluster_same h]
  cases on <;> exact ⟨rfl, rfl⟩

/-! ## The churn (R369) -/

theorem stopChurn_some {s : State} {c : Churn} (h : s.churn = some c) : ∃ w n, stopChurn s =
    { s with churn := none, churns := s.churns ++ [(c.since, s.time0 - c.since, w)], freeCtr := n } := by
  refine ⟨(drawFree s).1, s.freeCtr + 1, ?_⟩
  rw [stopChurn, h]
  rfl

theorem stopChurn_none {s : State} (h : s.churn = none) : stopChurn s = s := by rw [stopChurn, h]

theorem exec_churn_stops {on : Bool} {s : State} (h : ¬ (on = true ∧ s.fall ≠ 0xFFFF ∧ powered s = true)) :
    exec (.churn on) s = .next (stopChurn s) := by
  show execChurn on s = _
  rw [execChurn, if_pos]
  rw [Bool.not_eq_true', Bool.eq_false_iff, Ne, Bool.and_eq_true, Bool.and_eq_true, decide_eq_true_eq, and_assoc]
  exact h

theorem exec_churn_runs {on : Bool} {s : State} (h : on = true ∧ s.fall ≠ 0xFFFF ∧ powered s = true) : exec (.churn on) s =
    match s.churn with
    | none => .next { s with churn := some ⟨s.time0, s.time0, idleArrays s⟩ }
    | some c => if s.time0 < c.stepped + 1000 then .next s else .next (churnStep s c) := by
  show execChurn on s = _
  have runs : ¬ (!(on && s.fall ≠ 0xFFFF && powered s)) = true := by
    rw [Bool.not_eq_true', Bool.eq_false_iff, Ne, Bool.and_eq_true, Bool.and_eq_true, decide_eq_true_eq, and_assoc, not_not]
    exact h
  rw [execChurn, if_neg runs] <;> cases s.churn <;> rfl

theorem mem_idleArrays (s : State) (k : Nat) :
    k ∈ idleArrays s ↔ k < s.cores.length ∧ ∀ x ∈ (getCore s k).matq, x.started = false := by
  simp [idleArrays]

/-- A step of the churn ends it, or leaves fewer arrays. -/
theorem churnStep_fewer {s : State} {c : Churn} (h : s.churn = some c) :
    (∃ w n, churnStep s c = { s with churn := none, churns := s.churns ++ [(c.since, s.time0 - c.since, w)], freeCtr := n }) ∨
    ∃ d, churnStep s c = { s with churn := some d, freeCtr := (churnStep s c).freeCtr } ∧
      d.since = c.since ∧ d.stepped = s.time0 ∧ d.arrays.length < c.arrays.length ∧ ∀ k ∈ d.arrays, k ∈ c.arrays := by
  unfold churnStep
  dsimp only
  split
  · exact .inl (stopChurn_some h)
  · next some_left =>
    refine .inr ⟨_, rfl, rfl, rfl, ?_, fun k hk => List.mem_of_mem_take hk⟩
    have nonempty : 0 < c.arrays.length := by
      by_contra none_left
      have : c.arrays = [] := List.length_eq_zero_iff.1 (by omega)
      simp [this] at some_left
    have := Nat.mod_lt (drawFree s).1.toNat nonempty
    dsimp only
    rw [List.length_take]
    omega

theorem churn_runs (on : Bool) (s : State) : let runs := on = true ∧ s.fall ≠ 0xFFFF ∧ powered s = true
    let ended (c : Churn) (t : State) : Prop := ∃ w n, t = { s with churn := none, churns := s.churns ++ [(c.since, s.time0 - c.since, w)], freeCtr := n }
    (runs → (s.churn = none → ∃ c, exec (.churn on) s = .next { s with churn := some c } ∧ c.since = s.time0 ∧ c.stepped = s.time0 ∧
        ∀ k, k ∈ c.arrays ↔ k < s.cores.length ∧ ∀ x ∈ (getCore s k).matq, x.started = false) ∧
      ∀ c, s.churn = some c → (s.time0 < c.stepped + 1000 → exec (.churn on) s = .next s) ∧
        (c.stepped + 1000 ≤ s.time0 → ∃ t, exec (.churn on) s = .next t ∧ (ended c t ∨ ∃ d, t = { s with churn := some d, freeCtr := t.freeCtr } ∧
          d.since = c.since ∧ d.stepped = s.time0 ∧ d.arrays.length < c.arrays.length ∧ ∀ k ∈ d.arrays, k ∈ c.arrays))) ∧
    (¬ runs → (s.churn = none → exec (.churn on) s = .next s) ∧ ∀ c, s.churn = some c → ∃ t, exec (.churn on) s = .next t ∧ ended c t) := by
  intro runs ended
  refine ⟨fun h => ⟨fun none_runs => ?_, fun c running => ⟨fun early => ?_, fun due => ?_⟩⟩, fun h => ⟨fun none_runs => ?_, fun c running => ?_⟩⟩
  · exact ⟨⟨s.time0, s.time0, idleArrays s⟩, by rw [exec_churn_runs h, none_runs], rfl, rfl, mem_idleArrays s⟩
  · rw [exec_churn_runs h, running]
    exact if_pos early
  · refine ⟨churnStep s c, ?_, churnStep_fewer running⟩
    rw [exec_churn_runs h, running]
    exact if_neg (Nat.not_lt.2 due)
  · rw [exec_churn_stops h, stopChurn_none none_runs]
  · exact ⟨stopChurn s, exec_churn_stops h, stopChurn_some running⟩

end Sys2Proof.Proofs.ExecutionModel

end

section
/-! PROOFS. SLICECTL, the power manager and the junction temperatures (O58). -/

open Sys2Proof Sys2Proof.Machine

namespace Sys2Proof.Proofs.ExecutionModel

/-! ## The fields of SLICECTL (R366) -/

section
variable {mx : Nat} {r : Nat → Nat} (hmx : mx < 16) (hr : ∀ i, i < 4 → r i < 16)
include hmx hr

theorem sliceWord_toNat : (sliceWord mx r).toNat = mx * 65536 + r 3 * 4096 + r 2 * 256 + r 1 * 16 + r 0 := by
  have r0 := hr 0 (by omega)
  have r1 := hr 1 (by omega)
  have r2 := hr 2 (by omega)
  have r3 := hr 3 (by omega)
  rw [sliceWord, BitVec.toNat_ofNat, Nat.mod_eq_of_lt]
  omega

theorem mxlim_sliceWord : mxlim (sliceWord mx r) = mx := by
  have r0 := hr 0 (by omega)
  have r1 := hr 1 (by omega)
  have r2 := hr 2 (by omega)
  have r3 := hr 3 (by omega)
  rw [mxlim, bits, sliceWord_toNat hmx hr]
  omega

theorem ratio_sliceWord (i : Nat) (hi : i < 4) : ratio (sliceWord mx r) i = r i := by
  have r0 := hr 0 (by omega)
  have r1 := hr 1 (by omega)
  have r2 := hr 2 (by omega)
  have r3 := hr 3 (by omega)
  rw [ratio, bits, sliceWord_toNat hmx hr]
  have : i = 0 ∨ i = 1 ∨ i = 2 ∨ i = 3 := by omega
  rcases this with rfl | rfl | rfl | rfl <;> simp only [Nat.mul_zero, Nat.zero_add, Nat.reduceMul, Nat.reduceAdd, Nat.reducePow, Nat.reduceSub] <;>
    omega

end

/-- A SLICECTL write is stored with its fields clamped. -/
theorem slicectl_stores (s : State) (v : Word) (k : Nat) (hk : k < s.cores.length) :
    ∃ t, exec (.slicectlWrite k v) s = .next t ∧ t = { s with cores := t.cores } ∧ mxlim (getCore t k).slice = min 8 (max 1 (mxlim v)) ∧
      (∀ i, i < 4 → ratio (getCore t k).slice i = min 8 (max 4 (ratio v i))) ∧ (getCore t k).slice.toNat < 2 ^ 20 ∧
      ∀ j, j ≠ k → getCore t j = getCore s j := by
  have hmx : min 8 (max 1 (mxlim v)) < 16 := by omega
  have hr : ∀ i, i < 4 → (fun i => min 8 (max 4 (ratio v i))) i < 16 := fun i _ => by dsimp only; omega
  have slice : (getCore (setSlice s k (storedSlice v)) k).slice =
      sliceWord (min 8 (max 1 (mxlim v))) (fun i => min 8 (max 4 (ratio v i))) := by
    rw [setSlice, getCore_setCore_same hk]
    rfl
  refine ⟨setSlice s k (storedSlice v), rfl, rfl, ?_, fun i hi => ?_, ?_, fun j hj => getCore_setCore_other s hj _⟩
  · rw [slice, mxlim_sliceWord hmx hr]
  · rw [slice, ratio_sliceWord hmx hr i hi]
  · rw [slice, sliceWord_toNat hmx hr]
    omega

/-- A TOKPOOL write is stored with its size clamped (R356). -/
theorem tokpool_stores (s : State) (v : Word) :
    ∃ t, exec (.tokpoolWrite v) s = .next t ∧ t = { s with tokSize := t.tokSize } ∧ t.tokSize.toNat = min 192 (v.toNat % 256) := by
  refine ⟨_, rfl, rfl, ?_⟩
  show (BitVec.ofNat 8 (min 192 (bits v 7 0))).toNat = _
  have : bits v 7 0 = v.toNat % 256 := by simp [bits]
  rw [this, BitVec.toNat_ofNat, Nat.mod_eq_of_lt]
  omega

/-! ## The steps of the power manager (R366) -/

/-- Every core's settings stand in their ranges. -/
def SlicesSet (s : State) : Prop := ∀ k, k < s.cores.length → 1 ≤ mxlim (getCore s k).slice ∧ mxlim (getCore s k).slice ≤ 8 ∧
  ∀ i, i < 4 → 4 ≤ ratio (getCore s k).slice i ∧ ratio (getCore s k).slice i ≤ 8

/-- Some slice stands at this ratio. -/
def HasRatio (s : State) (m : Nat) : Prop := ∃ k i, k < s.cores.length ∧ i < 4 ∧ ratio (getCore s k).slice i = m

/-- From `s` to `t` every core's MXLIM changed by `mx` and every ratio by `r`, and nothing else. -/
def SlicesChange (mx r : Nat → Nat) (s t : State) : Prop := t = { s with cores := t.cores } ∧ t.cores.length = s.cores.length ∧
  ∀ k, k < s.cores.length → mxlim (getCore t k).slice = mx (mxlim (getCore s k).slice) ∧
    ∀ i, i < 4 → ratio (getCore t k).slice i = r (ratio (getCore s k).slice i)

theorem getCore_eq_getElem {s : State} {k : Nat} (h : k < s.cores.length) : getCore s k = s.cores[k] := by
  simp [getCore, List.getD, h]

theorem mem_allRatios (s : State) (m : Nat) : m ∈ allRatios s ↔ HasRatio s m := by
  simp only [allRatios, List.mem_flatMap, List.mem_map, List.mem_range, HasRatio]
  constructor
  · rintro ⟨c, hc, i, hi, rfl⟩
    obtain ⟨k, hk, rfl⟩ := List.mem_iff_getElem.1 hc
    exact ⟨k, i, hk, hi, by rw [getCore_eq_getElem hk]⟩
  · rintro ⟨k, i, hk, hi, rfl⟩
    exact ⟨s.cores[k], List.getElem_mem hk, i, hi, by rw [getCore_eq_getElem hk]⟩

/-- A change of every core's fields that stays in the fields' widths. -/
theorem mapSlices_change {s : State} {mx r : Nat → Nat} (hmx : ∀ k, k < s.cores.length → mx (mxlim (getCore s k).slice) < 16)
    (hr : ∀ k i, k < s.cores.length → i < 4 → r (ratio (getCore s k).slice i) < 16) :
    SlicesChange mx r s (mapSlices s (fun v => sliceWord (mx (mxlim v)) (fun i => r (ratio v i)))) := by
  refine ⟨rfl, by simp [mapSlices], fun k hk => ?_⟩
  have core : (getCore (mapSlices s (fun v => sliceWord (mx (mxlim v)) (fun i => r (ratio v i)))) k).slice =
      sliceWord (mx (mxlim (getCore s k).slice)) (fun i => r (ratio (getCore s k).slice i)) := by
    simp [getCore, mapSlices, List.getD, hk]
  rw [core]
  exact ⟨mxlim_sliceWord (hmx k hk) (fun i hi => hr k i hk hi), fun i hi => ratio_sliceWord (hmx k hk) (fun i hi => hr k i hk hi) i hi⟩

theorem foldl_max_eq {l : List Nat} {m : Nat} (mem : m ∈ l) (top : ∀ x ∈ l, x ≤ m) : l.foldl max 0 = m := by
  have upper (l : List Nat) (a : Nat) (ha : a ≤ m) (top : ∀ x ∈ l, x ≤ m) : l.foldl max a ≤ m := by
    induction l generalizing a with
    | nil => exact ha
    | cons x r ih => exact ih _ (max_le ha (top x (List.mem_cons_self ..))) (fun y hy => top y (List.mem_cons_of_mem _ hy))
  have lower (l : List Nat) (a : Nat) (h : m ≤ a ∨ m ∈ l) : m ≤ l.foldl max a := by
    induction l generalizing a with
    | nil => exact h.resolve_right (List.not_mem_nil)
    | cons x r ih =>
      refine ih _ ?_
      rcases h with h | h
      · exact .inl (h.trans (le_max_left ..))
      · rcases List.mem_cons.1 h with rfl | h
        · exact .inl (le_max_right ..)
        · exact .inr h
  exact le_antisymm (upper l 0 (Nat.zero_le _) top) (lower l 0 (.inr mem))

theorem foldl_min_eq {l : List Nat} {m b : Nat} (hb : m ≤ b) (mem : m ∈ l) (low : ∀ x ∈ l, m ≤ x) : l.foldl min b = m := by
  have lower (l : List Nat) (a : Nat) (ha : m ≤ a) (low : ∀ x ∈ l, m ≤ x) : m ≤ l.foldl min a := by
    induction l generalizing a with
    | nil => exact ha
    | cons x r ih => exact ih _ (le_min ha (low x (List.mem_cons_self ..))) (fun y hy => low y (List.mem_cons_of_mem _ hy))
  have upper (l : List Nat) (a : Nat) (h : a ≤ m ∨ m ∈ l) : l.foldl min a ≤ m := by
    induction l generalizing a with
    | nil => exact h.resolve_right (List.not_mem_nil)
    | cons x r ih =>
      refine ih _ ?_
      rcases h with h | h
      · exact .inl ((min_le_left ..).trans h)
      · rcases List.mem_cons.1 h with rfl | h
        · exact .inl (min_le_right ..)
        · exact .inr h
  exact le_antisymm (upper l b (.inr mem)) (lower l b hb low)

section
variable {s : State} (set : SlicesSet s)
include set

/-- A step down lowers the slices at the highest ratio where that is above 4. -/
theorem stepDown_ratio {m : Nat} (has : HasRatio s m) (top : ∀ x, HasRatio s x → x ≤ m) (above : 4 < m) :
    SlicesChange id (fun x => if x = m then m - 1 else x) s (stepDown s) := by
  have highest : (allRatios s).foldl max 0 = m :=
    foldl_max_eq ((mem_allRatios s m).2 has) (fun x hx => top x ((mem_allRatios s x).1 hx))
  obtain ⟨k0, i0, hk0, hi0, rfl⟩ := has
  have bound := ((set k0 hk0).2.2 i0 hi0).2
  rw [stepDown, highest]
  simp only [if_pos above]
  refine mapSlices_change (mx := id) (fun k hk => ?_) (fun k i hk hi => ?_)
  · have := (set k hk).2.1
    exact Nat.lt_of_le_of_lt this (by decide)
  · have := ((set k hk).2.2 i hi).2
    split <;> omega

/-- With every slice at 4 a step down lowers MXLIM. -/
theorem stepDown_mxlim (some_core : s.cores ≠ []) (floor : ∀ x, HasRatio s x → x = 4) :
    SlicesChange (fun x => max 1 (x - 1)) id s (stepDown s) := by
  have some_ratio : HasRatio s 4 := by
    have first : HasRatio s (ratio (getCore s 0).slice 0) := ⟨0, 0, List.length_pos_iff.2 some_core, by decide, rfl⟩
    rwa [floor _ first] at first
  have highest : (allRatios s).foldl max 0 = 4 :=
    foldl_max_eq ((mem_allRatios s 4).2 some_ratio) (fun x hx => (floor x ((mem_allRatios s x).1 hx)).le)
  rw [stepDown, highest]
  simp only [Nat.lt_irrefl, if_false]
  refine mapSlices_change (mx := fun x => max 1 (x - 1)) (r := id) (fun k hk => ?_) (fun k i hk hi => ?_)
  · have := (set k hk).2.1
    omega
  · exact Nat.lt_of_le_of_lt ((set k hk).2.2 i hi).2 (by decide)

/-- A step up raises MXLIM where one is below 8. -/
theorem stepUp_mxlim (below : ∃ k, k < s.cores.length ∧ mxlim (getCore s k).slice < 8) :
    SlicesChange (fun x => min 8 (x + 1)) id s (stepUp s) := by
  have some_below : s.cores.any (fun c => mxlim c.slice < 8) = true := by
    obtain ⟨k, hk, lt⟩ := below
    exact List.any_eq_true.2 ⟨s.cores[k], List.getElem_mem hk, by rw [getCore_eq_getElem hk] at lt; exact decide_eq_true lt⟩
  rw [stepUp]
  simp only [some_below, if_true]
  refine mapSlices_change (mx := fun x => min 8 (x + 1)) (r := id) (fun k hk => ?_) (fun k i hk hi => ?_)
  · omega
  · exact Nat.lt_of_le_of_lt ((set k hk).2.2 i hi).2 (by decide)

omit set in
theorem none_below {s : State} (full : ∀ k, k < s.cores.length → mxlim (getCore s k).slice = 8) :
    ¬ s.cores.any (fun c => mxlim c.slice < 8) = true := by
  rw [List.any_eq_true]
  rintro ⟨c, hc, lt⟩
  obtain ⟨k, hk, rfl⟩ := List.mem_iff_getElem.1 hc
  have := full k hk
  rw [getCore_eq_getElem hk] at this
  rw [decide_eq_true_eq, this] at lt
  exact Nat.lt_irrefl 8 lt

/-- With every MXLIM at 8 a step up raises the slices at the lowest ratio. -/
theorem stepUp_ratio (full : ∀ k, k < s.cores.length → mxlim (getCore s k).slice = 8) {m : Nat} (has : HasRatio s m)
    (low : ∀ x, HasRatio s x → m ≤ x) (below : m < 8) : SlicesChange id (fun x => if x = m then m + 1 else x) s (stepUp s) := by
  have lowest : (allRatios s).foldl min 8 = m :=
    foldl_min_eq below.le ((mem_allRatios s m).2 has) (fun x hx => low x ((mem_allRatios s x).1 hx))
  rw [stepUp, lowest]
  simp only [if_neg (none_below full), if_pos below]
  refine mapSlices_change (mx := id) (fun k hk => ?_) (fun k i hk hi => ?_)
  · exact Nat.lt_of_le_of_lt (set k hk).2.1 (by decide)
  · have := ((set k hk).2.2 i hi).2
    split <;> omega

omit set in
/-- At the top nothing is raised. -/
theorem stepUp_top {s : State} (full : ∀ k, k < s.cores.length → mxlim (getCore s k).slice = 8) (top : ∀ x, HasRatio s x → x = 8) :
    stepUp s = s := by
  have lowest : ¬ (allRatios s).foldl min 8 < 8 := by
    have all : ∀ x ∈ allRatios s, x = 8 := fun x hx => top x ((mem_allRatios s x).1 hx)
    generalize allRatios s = l at all
    have keeps : l.foldl min 8 = 8 := by
      induction l with
      | nil => rfl
      | cons x r ih =>
        rw [List.foldl_cons, all x (List.mem_cons_self ..)]
        exact ih (fun y hy => all y (List.mem_cons_of_mem _ hy))
    rw [keeps]
    exact Nat.lt_irrefl 8
  rw [stepUp]
  simp only [if_neg (none_below full), if_neg lowest]

end

theorem exec_powerCheck {s : State} (power : powered s = true) (draw : Nat) : exec (.powerCheck draw) s =
    if s.cap < draw then .next (stepDown s) else if draw * 100 < s.cap * 95 && junction s ≤ 100 then .next (stepUp s) else .next s := by
  show execPowerCheck draw s = _
  rw [execPowerCheck, if_neg (by simp [power])]

/-- The power manager's check. -/
theorem powerCheck_steps (draw : Nat) (s : State) (power : powered s = true) (some_core : s.cores ≠ []) (set : SlicesSet s) :
    let sets (mx : Nat → Nat) (r : Nat → Nat) : Prop := ∃ t, exec (.powerCheck draw) s = .next t ∧ SlicesChange mx r s t
    (s.cap < draw → (∀ m, HasRatio s m → (∀ x, HasRatio s x → x ≤ m) → 4 < m → sets id (fun x => if x = m then m - 1 else x)) ∧
      ((∀ x, HasRatio s x → x = 4) → sets (fun x => max 1 (x - 1)) id)) ∧
    (draw * 100 < s.cap * 95 → s.junction0 ≤ 100 → s.junction1 ≤ 100 →
      ((∃ k, k < s.cores.length ∧ mxlim (getCore s k).slice < 8) → sets (fun x => min 8 (x + 1)) id) ∧
      ((∀ k, k < s.cores.length → mxlim (getCore s k).slice = 8) →
        (∀ m, HasRatio s m → (∀ x, HasRatio s x → m ≤ x) → m < 8 → sets id (fun x => if x = m then m + 1 else x)) ∧
        ((∀ x, HasRatio s x → x = 8) → exec (.powerCheck draw) s = .next s))) ∧
    (draw ≤ s.cap → s.cap * 95 ≤ draw * 100 ∨ 100 < s.junction0 ∨ 100 < s.junction1 → exec (.powerCheck draw) s = .next s) := by
  intro sets
  have runs := exec_powerCheck power draw
  refine ⟨fun above => ?_, fun below cool0 cool1 => ?_, fun not_above not_below => ?_⟩
  · rw [if_pos above] at runs
    exact ⟨fun m has top four => ⟨_, runs, stepDown_ratio set has top four⟩, fun floor => ⟨_, runs, stepDown_mxlim set some_core floor⟩⟩
  · have cool : (draw * 100 < s.cap * 95 && junction s ≤ 100) = true := by
      rw [Bool.and_eq_true, decide_eq_true_eq, decide_eq_true_eq, junction]
      omega
    rw [if_neg (by omega), if_pos cool] at runs
    exact ⟨fun some_below => ⟨_, runs, stepUp_mxlim set some_below⟩, fun full =>
      ⟨fun m has low eight => ⟨_, runs, stepUp_ratio set full has low eight⟩, fun top => by rw [runs, stepUp_top full top]⟩⟩
  · have hot : ¬ (draw * 100 < s.cap * 95 && junction s ≤ 100) = true := by
      rw [Bool.and_eq_true, decide_eq_true_eq, decide_eq_true_eq, junction]
      omega
    rw [runs, if_neg (by omega), if_neg hot]

/-! ## Junction temperatures (R400) -/

theorem setJunction_reported (s : State) (r : DieTemp) : setJunction s r = reported s r := by
  unfold setJunction reported
  split <;> rfl

theorem powered_reported (s : State) (r : DieTemp) : powered (reported s r) = powered s := rfl

/-- What a report of a junction temperature does. -/
theorem thermal_reports (r : DieTemp) (draw : Nat) (s : State) (power : powered s = true) : let s1 := reported s r
    (100 < s1.junction0 ∨ 100 < s1.junction1 → s.cap < draw → exec (.thermalThrottle r) s = exec (.powerCheck draw) s1) ∧
    (s1.junction0 ≤ 100 → s1.junction1 ≤ 100 → exec (.thermalThrottle r) s = .next s1) ∧
    (s1.junction0 < 115 → s1.junction1 < 115 → exec (.thermalShutdown r) s = .next s1) ∧
    (115 ≤ s1.junction0 ∨ 115 ≤ s1.junction1 → ∃ u m, exec (.supplyLoss 0) s1 = .next u ∧ u.supply = .losing 0 m false ∧
      exec (.thermalShutdown r) s = .next { u with supply := .losing 0 m true }) := by
  intro s1
  have power1 : powered s1 = true := power
  have throttle : exec (.thermalThrottle r) s = if 100 < junction s1 && powered s1 then .next (stepDown s1) else .next s1 := by
    show execThermalThrottle r s = _
    rw [execThermalThrottle, setJunction_reported]
    rfl
  have shutdown : exec (.thermalShutdown r) s = if 115 ≤ junction s1 && powered s1 then .next (startLoss s1 s1.time0 true) else .next s1 := by
    show execThermalShutdown r s = _
    rw [execThermalShutdown, setJunction_reported]
    rfl
  have supply : s1.supply = .on := by
    have := power1
    simp only [powered, Bool.and_eq_true, beq_iff_eq] at this
    exact this.1
  refine ⟨fun hot above => ?_, fun cool0 cool1 => ?_, fun cool0 cool1 => ?_, fun hot => ?_⟩
  · have above1 : s1.cap < draw := above
    rw [throttle, exec_powerCheck power1, if_pos above1, if_pos]
    rw [Bool.and_eq_true, decide_eq_true_eq, junction]
    exact ⟨by omega, power1⟩
  · rw [throttle, if_neg]
    rw [Bool.and_eq_true, decide_eq_true_eq, junction]
    omega
  · rw [shutdown, if_neg]
    rw [Bool.and_eq_true, decide_eq_true_eq, junction]
    omega
  · refine ⟨startLoss s1 s1.time0 false, markerOf s1 s1.time0, ?_, rfl, ?_⟩
    · show execSupplyLoss 0 s1 = _
      rw [execSupplyLoss, supply]
      rfl
    · rw [shutdown, if_pos]
      · rfl
      · rw [Bool.and_eq_true, decide_eq_true_eq, junction]
        exact ⟨by omega, power1⟩

end Sys2Proof.Proofs.ExecutionModel

end

section
/-! PROOFS. The supply-loss sequence and the thermal hold (O58). -/

open Sys2Proof Sys2Proof.Machine

namespace Sys2Proof.Proofs.ExecutionModel

/-! ## The flush of the L1 portions (R88, R396) -/

/-- Every line of a core is clean. -/
def CleanCore (c : Core) : Prop := ∀ x ∈ c.lines, x.dirty = 0

theorem pushError_cores (s : State) (r : List Word) : (pushError s r).cores = s.cores := by
  unfold pushError
  split
  · cases s.errors.isEmpty <;> rfl
  · rfl

/-- What a write-back of a dirty line leaves of the cores. -/
theorem writeBackLine_cores (s : State) (k : Nat) (x : Line) (ctx : Option Nat) (upset : BitVec 2) : (writeBackLine s k x ctx upset).cores =
    if x.dirty = 0 then s.cores else s.cores.set k (putLine (getCore s k) { x with dirty := 0, owner := 0, scope := 0 }) := by
  unfold writeBackLine
  split
  · rfl
  · have same : (if x.badDirty upset = 0 then s else poisonRecord s k x).cores = s.cores := by
      split
      · rfl
      · exact pushError_cores ..
    dsimp only
    generalize (if x.badDirty upset = 0 then s else poisonRecord s k x) = u at same
    show u.cores.set k (putLine (u.cores.getD k Core.reset) _) = _
    rw [same, getCore]

theorem getCore_writeBackLine_other (s : State) {k j : Nat} (h : j ≠ k) (x : Line) (ctx : Option Nat) (upset : BitVec 2) :
    getCore (writeBackLine s k x ctx upset) j = getCore s j := by
  rw [getCore, writeBackLine_cores]
  split
  · rfl
  · simp [getCore, List.getD, h.symm]

/-- A line that is left dirty was there, and is not the one written back. -/
theorem writeBackLine_dirty {s : State} {k : Nat} (hk : k < s.cores.length) (x : Line) (ctx : Option Nat) (upset : BitVec 2) {y : Line}
    (hy : y ∈ (getCore (writeBackLine s k x ctx upset) k).lines) (dirty : y.dirty ≠ 0) : y ∈ (getCore s k).lines ∧ y ≠ x := by
  rw [getCore, writeBackLine_cores] at hy
  split at hy
  · next clean => exact ⟨hy, fun e => dirty (by rw [e]; exact clean)⟩
  · have core : (s.cores.set k (putLine (getCore s k) { x with dirty := 0, owner := 0, scope := 0 })).getD k Core.reset =
        putLine (getCore s k) { x with dirty := 0, owner := 0, scope := 0 } := by simp [List.getD, hk]
    rw [core] at hy
    rcases List.mem_cons.1 hy with rfl | hy
    · exact absurd rfl dirty
    · obtain ⟨there, key⟩ := List.mem_filter.1 hy
      refine ⟨there, fun e => ?_⟩
      rw [e] at key
      simp at key

/-- After the write-back of a list of lines none of them is left dirty. -/
theorem foldl_writeBackLine_dirty (k : Nat) (ctx : Option Nat) (xs : List Line) (s : State) (hk : k < s.cores.length) :
    let t := xs.foldl (fun s x => writeBackLine s k x ctx) s
    t.cores.length = s.cores.length ∧ (∀ j, j ≠ k → getCore t j = getCore s j) ∧
      ∀ y ∈ (getCore t k).lines, y.dirty ≠ 0 → y ∈ (getCore s k).lines ∧ y ∉ xs := by
  induction xs generalizing s with
  | nil => exact ⟨rfl, fun _ _ => rfl, fun y hy _ => ⟨hy, List.not_mem_nil⟩⟩
  | cons x r ih =>
    have length : (writeBackLine s k x ctx).cores.length = s.cores.length := by
      rw [writeBackLine_cores]
      split <;> simp
    obtain ⟨len, others, left⟩ := ih (writeBackLine s k x ctx) (by rw [length]; exact hk)
    refine ⟨len.trans length, fun j hj => (others j hj).trans (getCore_writeBackLine_other s hj x ctx 0), fun y hy dirty => ?_⟩
    obtain ⟨there, notin⟩ := left y hy dirty
    obtain ⟨before, differs⟩ := writeBackLine_dirty hk x ctx 0 there dirty
    exact ⟨before, fun mem => (List.mem_cons.1 mem).elim differs notin⟩

/-- A core whose dirty lines are written back is clean, and the others stay. -/
theorem writeBackAll_clean {s : State} {k : Nat} (hk : k < s.cores.length) (ctx : Option Nat) :
    (writeBackAll s k ctx).cores.length = s.cores.length ∧ (∀ j, j ≠ k → getCore (writeBackAll s k ctx) j = getCore s j) ∧
      CleanCore (getCore (writeBackAll s k ctx) k) := by
  obtain ⟨len, others, left⟩ := foldl_writeBackLine_dirty k ctx (getCore s k).lines s hk
  refine ⟨len, others, fun y hy => ?_⟩
  by_contra dirty
  obtain ⟨there, notin⟩ := left y hy dirty
  exact notin there

theorem foldl_writeBackAll_clean (n : Nat) (s : State) (hn : n ≤ s.cores.length) :
    ((List.range n).foldl (fun s k => writeBackAll s k none) s).cores.length = s.cores.length ∧
      ∀ k, k < n → CleanCore (getCore ((List.range n).foldl (fun s k => writeBackAll s k none) s) k) := by
  induction n with
  | zero => exact ⟨rfl, fun k hk => absurd hk (Nat.not_lt_zero k)⟩
  | succ n ih =>
    obtain ⟨len, clean⟩ := ih (by omega)
    rw [List.range_succ, List.foldl_append]
    generalize (List.range n).foldl (fun s k => writeBackAll s k none) s = u at len clean
    obtain ⟨len', others, cleaned⟩ := writeBackAll_clean (s := u) (k := n) (by omega) none
    refine ⟨len'.trans len, fun k hk => ?_⟩
    by_cases last : k = n
    · subst last
      exact cleaned
    · show CleanCore (getCore (writeBackAll u n none) k)
      rw [others k last]
      exact clean k (by omega)

/-- The flush leaves no dirty line. -/
theorem flushLines_clean (s : State) : ∀ c ∈ (flushLines s).cores, CleanCore c := by
  obtain ⟨len, clean⟩ := foldl_writeBackAll_clean s.cores.length s le_rfl
  intro c hc
  obtain ⟨k, hk, rfl⟩ := List.mem_iff_getElem.1 hc
  rw [← getCore_eq_getElem hk]
  exact clean k (by rw [flushLines, len] at hk; exact hk)

theorem writeBackAll_idle {s : State} {k : Nat} (clean : CleanCore (getCore s k)) (ctx : Option Nat) : writeBackAll s k ctx = s := by
  refine List.foldlRecOn (getCore s k).lines _ (motive := fun t => t = s) rfl ?_
  rintro _ rfl x hx
  exact if_pos (clean x hx)

theorem getCore_clean {s : State} (clean : ∀ c ∈ s.cores, CleanCore c) {k : Nat} (hk : k < s.cores.length) : CleanCore (getCore s k) := by
  rw [getCore_eq_getElem hk]
  exact clean _ (List.getElem_mem hk)

/-- Nothing is flushed of clean L1 portions. -/
theorem flushLines_idle {s : State} (clean : ∀ c ∈ s.cores, CleanCore c) : flushLines s = s := by
  refine List.foldlRecOn (List.range s.cores.length) _ (motive := fun t => t = s) rfl ?_
  rintro _ rfl k hk
  exact writeBackAll_idle (getCore_clean clean (List.mem_range.1 hk)) none

/-- With no kill due and no launch closing no kill is finished. -/
theorem finishKills_idle {s : State} (kills : s.kills = []) (closing : ∀ l ∈ s.launches, ∀ a b c d, l.stage ≠ .closing a b c d) :
    finishKills s = s := by
  rw [finishKills, kills]
  refine List.foldlRecOn s.launches closeLaunch (motive := fun t => t = s) rfl ?_
  rintro _ rfl l hl
  unfold closeLaunch
  split
  · next a b c d stage => exact absurd stage (closing l hl a b c d)
  · rfl

/-- With no octet operation started none finishes. -/
theorem finishAllOctets_idle {s : State} (idle : ∀ k ∈ s.cores, ∀ x ∈ k.matq, x.started = false) : finishAllOctets s = s := by
  refine List.foldlRecOn (List.range s.cores.length) _ (motive := fun t => t = s) rfl ?_
  intro t ht k hk
  rw [ht]
  have none_started : firstStarted s k = none := by
    have matq : ∀ x ∈ (getCore s k).matq, x.started = false := by
      rw [getCore_eq_getElem (List.mem_range.1 hk)]
      exact idle _ (List.getElem_mem _)
    refine List.find?_eq_none.2 (fun i _ => ?_)
    rw [Bool.not_eq_true]
    cases at_i : (getCore s k).matq[i]? with
    | none => rfl
    | some x =>
      rw [Option.any_some, matq x (List.mem_of_getElem? at_i), Bool.false_and]
  cases (getCore s k).matq.length with
  | zero => rfl
  | succ n =>
    show finishOctets k (n + 1) s = s
    rw [finishOctets, none_started]

theorem mem_cleanCache (t : Sparse (Nat × Bool)) : ∀ x ∈ cleanCache t, x.2.2 = false := by
  induction t with
  | nil => exact fun x hx => absurd hx List.not_mem_nil
  | cons a r ih =>
    obtain ⟨l, v, d⟩ := a
    intro x hx
    rw [cleanCache] at hx
    split at hx
    · exact ih x hx
    · rcases List.mem_cons.1 hx with rfl | hx
      · rfl
      · exact ih x hx

/-! ## The sequence (R396, R397) -/

theorem exec_supplyLoss_losing {s : State} {n : Nat} {m : Marker} {hold : Bool} (supply : s.supply = .losing n m hold) (die : BitVec 1) :
    exec (.supplyLoss die) s = .next (lossStep (n + 1) (dieTime s die) m hold s) := by
  show execSupplyLoss die s = _
  rw [execSupplyLoss, supply]

/-- The warning notes the marker and stops issue, churn and self-test. -/
theorem supplyLoss_begins (die : BitVec 1) (s : State) (on : s.supply = .on) :
    ∃ (m : Marker) (u : State), u = { s with churn := none, churns := u.churns, freeCtr := u.freeCtr } ∧
      (s.churn = none → u = s) ∧ exec (.supplyLoss die) s = .next { u with supply := .losing 0 m false, holdRelease := false, selftest := none, abandoned := (s.selftest.map (fun x => (x.1, x.2, dieTime s die))).or s.abandoned } ∧
      m.sealed = false ∧ m.missed = 0 ∧ m.time = dieTime s die ∧
      m.launches = ((s.launches.filter (fun l => l.stage == .placed)).map Launch.addr).take 14 ∧
      m.nlaunch = min 14 (s.launches.filter (fun l => l.stage == .placed)).length := by
  refine ⟨markerOf s (dieTime s die), stopChurn s, ?_, stopChurn_none, ?_, rfl, rfl, rfl, List.map_take, rfl⟩
  · cases churn : s.churn with
    | none =>
      rw [stopChurn_none churn, ← churn]
    | some c =>
      obtain ⟨w, n, eq⟩ := stopChurn_some churn
      rw [eq]
  · show execSupplyLoss die s = _
    rw [execSupplyLoss, on]
    rfl

theorem toHbm_iff (w : HomeWrite) : w.toHbm = true ↔ w.hold = none ∧ ∃ l, w.line = .here l ∧ spaceOf (l * 128) = .hbm := by
  unfold HomeWrite.toHbm
  split
  · next l line => simp [line, and_comm]
  · next d l line => simp [line]

theorem lossBy_next {n : Nat} (h : n < 5) : lossBy (n + 1) = [2000, 60000, 140000, 160000, 200000].getD n 0 := by
  have : n = 0 ∨ n = 1 ∨ n = 2 ∨ n = 3 ∨ n = 4 := by omega
  rcases this with rfl | rfl | rfl | rfl | rfl <;> rfl

theorem lossStep_missed {n t : Nat} {m : Marker} (late : m.time + lossBy n < t) (hold : Bool) (s : State) : lossStep n t m hold s =
    { s with supply := .retention hold, marker := { m with sealed := true, missed := BitVec.ofNat 4 n } } := if_pos late

section
variable {n t : Nat} {m : Marker} (inTime : ¬ m.time + lossBy n < t) {s : State} (hold : Bool)
include inTime

theorem lossStep_waits (waits : lossReady s n = false) :
    lossStep n t m hold s = if n = 3 && !killsDone s then whileLosing finishKills s else s := by
  rw [lossStep, if_neg inTime, if_pos (by simp [waits])]

theorem lossStep_acts (ready : lossReady s n = true) (next : n < 5) :
    lossStep n t m hold s = { lossAct n s with supply := .losing n m hold } := by
  rw [lossStep, if_neg inTime, if_neg (by simp [ready]), if_pos next]

theorem lossStep_seals (ready : lossReady s n = true) (last : ¬ n < 5) :
    lossStep n t m hold s = { s with supply := .retention hold, marker := { m with sealed := true } } := by
  rw [lossStep, if_neg inTime, if_neg (by simp [ready]), if_neg last]

end

theorem whileLosing_idle {f : State → State} {s : State} (h : f { s with supply := .on } = { s with supply := .on }) : whileLosing f s = s := by
  rw [whileLosing, h]

/-- The second step with nothing to finish and nothing to flush. -/
theorem lossAct_idle {s : State} (kills : s.kills = []) (closing : ∀ l ∈ s.launches, ∀ a b c d, l.stage ≠ .closing a b c d)
    (octets : ∀ k ∈ s.cores, ∀ x ∈ k.matq, x.started = false) (clean : ∀ k ∈ s.cores, ∀ x ∈ k.lines, x.dirty = 0) : lossAct 2 s = s := by
  have quiet : whileLosing (fun s => finishAllOctets (finishKills s)) s = s := by
    refine whileLosing_idle ?_
    have no_kill : finishKills { s with supply := .on } = { s with supply := .on } := finishKills_idle kills closing
    have no_octet : finishAllOctets { s with supply := .on } = { s with supply := .on } := finishAllOctets_idle octets
    rw [no_kill, no_octet]
  rw [lossAct, if_pos rfl, quiet, flushLines_idle clean]

/-- Each event after the warning is the sequence's next step. -/
theorem supplyLoss_steps (die : BitVec 1) (s : State) (n : Nat) (m : Marker) (hold : Bool) (supply : s.supply = .losing n m hold) (hn : n < 5) :
    let by_ := [2000, 60000, 140000, 160000, 200000].getD n 0
    let inTime := dieTime s die ≤ m.time + by_
    let toHbm (w : HomeWrite) : Prop := w.hold = none ∧ ∃ l, w.line = .here l ∧ spaceOf (l * 128) = .hbm
    (¬ inTime → exec (.supplyLoss die) s = .next { s with
      supply := .retention hold, marker := { m with sealed := true, missed := BitVec.ofNat 4 (n + 1) } }) ∧
    (inTime → n = 0 ∨ n = 3 → exec (.supplyLoss die) s = .next { s with supply := .losing (n + 1) m hold }) ∧
    (inTime → n = 1 → (∃ o ∈ s.ops, opAtUnit s o = false) → exec (.supplyLoss die) s = .next s) ∧
    (inTime → n = 1 → (∀ o ∈ s.ops, opAtUnit s o = true) → ∃ t, exec (.supplyLoss die) s = .next t ∧ t.supply = .losing 2 m hold ∧
      (∀ k ∈ t.cores, ∀ x ∈ k.lines, x.dirty = 0) ∧
      (s.kills = [] → (∀ l ∈ s.launches, ∀ a b c d, l.stage ≠ .closing a b c d) → (∀ k ∈ s.cores, ∀ x ∈ k.matq, x.started = false) →
        (∀ k ∈ s.cores, ∀ x ∈ k.lines, x.dirty = 0) → t = { s with supply := .losing 2 m hold })) ∧
    (inTime → n = 2 → killsDone s = false → ∃ t, exec (.supplyLoss die) s = .next t ∧ t.supply = .losing 2 m hold) ∧
    (inTime → n = 2 → killsDone s = true → (∃ w ∈ s.homeQ, toHbm w) → exec (.supplyLoss die) s = .next s) ∧
    (inTime → n = 2 → killsDone s = true → (∀ w ∈ s.homeQ, ¬ toHbm w) → ∃ t, exec (.supplyLoss die) s = .next t ∧
      t = { s with supply := .losing 3 m hold, dcache := t.dcache } ∧ ∀ x ∈ t.dcache, x.2.2 = false) ∧
    (inTime → n = 4 → exec (.supplyLoss die) s = .next { s with supply := .retention hold, marker := { m with sealed := true } }) := by
  intro by_ inTime toHbm
  have runs := exec_supplyLoss_losing supply die
  have time : inTime ↔ ¬ m.time + lossBy (n + 1) < dieTime s die := by
    rw [lossBy_next hn, Nat.not_lt]
  refine ⟨fun late => ?_, fun early step => ?_, fun early step busy => ?_, fun early step atUnit => ?_, fun early step more => ?_,
    fun early step done on_way => ?_, fun early step done none_left => ?_, fun early step => ?_⟩
  · rw [runs, lossStep_missed (not_not.1 (fun h => late (time.2 h)))]
  · have ready : lossReady s (n + 1) = true := by rcases step with rfl | rfl <;> rfl
    have act : lossAct (n + 1) s = s := by rcases step with rfl | rfl <;> rfl
    rw [runs, lossStep_acts (time.1 early) hold ready (by omega), act]
  · subst step
    have waits : lossReady s 2 = false := by
      obtain ⟨o, ho, not_at⟩ := busy
      have : s.ops.all (opAtUnit s) = false := List.all_eq_false.2 ⟨o, ho, by rw [not_at]; decide⟩
      rw [lossReady, this]
      rfl
    rw [runs, lossStep_waits (time.1 early) hold waits]
    rfl
  · subst step
    have ready : lossReady s 2 = true := by
      have : s.ops.all (opAtUnit s) = true := List.all_eq_true.2 atUnit
      rw [lossReady, this]
      rfl
    refine ⟨{ lossAct 2 s with supply := .losing 2 m hold }, by rw [runs, lossStep_acts (time.1 early) hold ready (by decide)], rfl,
      flushLines_clean _, fun kills closing octets clean => ?_⟩
    rw [lossAct_idle kills closing octets clean]
  · subst step
    have waits : lossReady s 3 = false := by
      rw [lossReady, more]
      rfl
    have kills : lossStep 3 (dieTime s die) m hold s = whileLosing finishKills s := by
      rw [lossStep_waits (time.1 early) hold waits, more]
      rfl
    exact ⟨whileLosing finishKills s, by rw [runs, kills], supply⟩
  · subst step
    have waits : lossReady s 3 = false := by
      obtain ⟨w, hw, waits⟩ := on_way
      have : s.homeQ.any HomeWrite.toHbm = true := List.any_eq_true.2 ⟨w, hw, (toHbm_iff w).2 waits⟩
      rw [lossReady, this, done]
      rfl
    rw [runs, lossStep_waits (time.1 early) hold waits, done]
    rfl
  · subst step
    have ready : lossReady s 3 = true := by
      have : s.homeQ.any HomeWrite.toHbm = false :=
        List.any_eq_false.2 (fun w hw waits => none_left w hw ((toHbm_iff w).1 waits))
      rw [lossReady, this, done]
      rfl
    exact ⟨{ lossAct 3 s with supply := .losing 3 m hold }, by rw [runs, lossStep_acts (time.1 early) hold ready (by decide)], rfl,
      mem_cleanCache s.dcache⟩
  · subst step
    rw [runs, lossStep_seals (time.1 early) hold rfl (by decide)]

/-- A stream's turn does nothing while the device is not powered. -/
theorem unpowered_turn (s : State) (id : Nat) (power : powered s = false) (turn : s.turn = .ctrl id ∨ s.turn = .lane id) :
    step s = .next (tick s) := by
  have no_issue : agePending id s s = s := by
    unfold agePending
    cases found : getCtx s id with
    | none => rfl
    | some c => simp
  have control : ctrlTurn id s = .next s := by
    unfold ctrlTurn
    cases getCtx s id with
    | none => rfl
    | some c => exact if_pos (by simp [power])
  have lanes : laneTurn id s = .next s := by
    unfold laneTurn
    cases getCtx s id with
    | none => rfl
    | some c => exact if_pos (by simp [power])
  have turn_done : turnStep s = .next s := by
    rcases turn with ctrl | lane
    · simp only [turnStep, ctrl, control, streamTurn, no_issue]
    · simp only [turnStep, lane, lanes, streamTurn, no_issue]
  rw [step, turn_done]
  rfl

/-! ## The thermal hold (R400) -/

theorem thermal_hold (v : DWord) (r : DieTemp) (lost : BitVec 48) (s : State) (supply : s.supply = .retention true) :
    let s1 := reported s r
    let cool := s1.junction0 < 90 ∧ s1.junction1 < 90
    exec (.supplyResume lost) s = .next s ∧ (v ≠ 3 → exec (.thermalHoldRelease v r) s = .next s1) ∧
    (cool → exec (.thermalHoldRelease 3 r) s = .next { s1 with supply := .retention false, holdRelease := false }) ∧
    (¬ cool → exec (.thermalHoldRelease 3 r) s = .next { s1 with holdRelease := true }) ∧
    (s.holdRelease = true ∧ cool →
      exec (.thermalHoldTemperatureFall r) s = .next { s1 with supply := .retention false, holdRelease := false }) ∧
    (s.holdRelease = false ∨ ¬ cool → exec (.thermalHoldTemperatureFall r) s = .next s1) := by
  intro s1 cool
  have hold : thermalHold s = true := by rw [thermalHold, supply]; rfl
  have cools : cool ↔ junction s1 < 90 := by
    rw [junction]
    exact max_lt_iff.symm
  have release (w : DWord) : exec (.thermalHoldRelease w r) s = if w ≠ 3 then .next s1
      else if junction s1 < 90 then .next { s1 with supply := .retention false, holdRelease := false }
      else .next { s1 with holdRelease := true } := by
    show execThermalHoldRelease w r s = _
    rw [execThermalHoldRelease, setJunction_reported, hold]
    simp [s1]
  have fall : exec (.thermalHoldTemperatureFall r) s = if s.holdRelease = true ∧ junction s1 < 90 then
      .next { s1 with supply := .retention false, holdRelease := false } else .next s1 := by
    show execThermalHoldTemperatureFall r s = _
    rw [execThermalHoldTemperatureFall, setJunction_reported, hold]
    simp [s1]
  refine ⟨?_, fun other => ?_, fun low => ?_, fun high => ?_, fun kept => ?_, fun not_kept => ?_⟩
  · show execSupplyResume lost s = _
    rw [execSupplyResume, supply]
    rfl
  · rw [release, if_pos other]
  · rw [release, if_neg (not_not.2 rfl), if_pos (cools.1 low)]
  · rw [release, if_neg (not_not.2 rfl), if_neg (fun h => high (cools.2 h))]
  · rw [fall, if_pos ⟨kept.1, cools.1 kept.2⟩]
  · rw [fall, if_neg]
    rintro ⟨release_kept, low⟩
    rcases not_kept with off | high
    · rw [off] at release_kept
      cases release_kept
    · exact high (cools.2 low)

end Sys2Proof.Proofs.ExecutionModel

end

section
/-! PROOFS. The resume, lost clusters, the failure of both rails, and the settlement of O58. -/

open Sys2Proof Sys2Proof.Machine

namespace Sys2Proof.Proofs.ExecutionModel

/-! ## The resume (R398) -/

/-- The device back in power, but for the record of an abandoned self-test. -/
def resumedDevice (s : State) : State :=
  { s with marker := ⟨false, 0, 0, 0, []⟩, retained := true, vectors := s.vectors ||| 32, ports := s.ports.map Port.resumed }

theorem exec_supplyResume {s : State} (supply : s.supply = .retention false) (lost : BitVec 48) : exec (.supplyResume lost) s =
    .next (abandonTest (resumedDevice (((List.range 48).filter (fun c => lost.getLsbD c)).foldl loseCluster { s with supply := .on }))) := by
  show execSupplyResume lost s = _
  rw [execSupplyResume, if_neg (not_not.2 supply)]
  generalize ((List.range 48).filter (fun c => lost.getLsbD c)).foldl loseCluster { s with supply := .on } = u
  rfl

theorem no_lost_cluster : (List.range 48).filter (fun c => (0 : BitVec 48).getLsbD c) = [] := by decide

theorem exec_supplyResume_whole {s : State} (supply : s.supply = .retention false) :
    exec (.supplyResume 0) s = .next (abandonTest (resumedDevice { s with supply := .on })) := by
  rw [exec_supplyResume supply, no_lost_cluster]
  rfl

theorem abandonTest_none {s : State} (h : s.abandoned = none) : abandonTest s = s := by rw [abandonTest, h]

/-- A resume with no lost cluster leaves every context, launch and byte. -/
theorem resume_whole (s : State) (supply : s.supply = .retention false) (no_test : s.abandoned = none) :
    ∃ t, exec (.supplyResume 0) s = .next t ∧ t.supply = .on ∧
      t = { s with supply := .on, marker := t.marker, retained := true, vectors := s.vectors ||| 32, ports := t.ports } ∧
      t.marker = ⟨false, 0, 0, 0, []⟩ ∧ t.ports.length = s.ports.length ∧
      ∀ p, p < s.ports.length → let x := s.ports.getD p Port.reset
        t.ports.getD p Port.reset = { x with state := if x.state = 0 then 1 else 3 } := by
  refine ⟨resumedDevice { s with supply := .on }, ?_, rfl, rfl, rfl, List.length_map _, fun p hp => ?_⟩
  · rw [exec_supplyResume_whole supply]
    exact congrArg Host.Outcome.next (abandonTest_none no_test)
  · show (s.ports.map Port.resumed).getD p Port.reset = Port.resumed (s.ports.getD p Port.reset)
    simp [List.getD, hp]

theorem abandonTest_some {s : State} {parts : BitVec 4} {addr e : Nat} (h : s.abandoned = some (parts, addr, e)) : abandonTest s =
    raiseVector (testRecord { s with abandoned := none, stfail := false } e addr 4 parts.toNat []) 3 := by
  rw [abandonTest, h]

/-- A self-test that the loss ended has its record written (R395, R396). -/
theorem abandonTest_record {s : State} {parts : BitVec 4} {addr e : Nat} (h : s.abandoned = some (parts, addr, e)) (hs : s.canonical) :
    let t := abandonTest s
    readWord t (hostKey addr) = BitVec.ofNat 32 (parts.toNat * 256 + 4) ∧
      readWord t (hostKey addr + 4) = BitVec.ofNat 32 e ∧ readWord t (hostKey addr + 8) = BitVec.ofNat 32 (e / 2 ^ 32) ∧
      t.stfail = false ∧ t.abandoned = none ∧ t.vectors = s.vectors ||| 8 := by
  have word (i : Nat) (hi : i < 16) : readWord (abandonTest s) (hostKey addr + 4 * i) = (recordWords e 4 parts.toNat []).getD i 0 := by
    rw [abandonTest_some h, readWord_raiseVector, readWord_testRecord (s := { s with abandoned := none, stfail := false }) hs _ _ _ _ _ i hi]
  have frame := testRecord_onlyMem { s with abandoned := none, stfail := false } e addr 4 parts.toNat []
  refine ⟨word 0 (by decide), word 1 (by decide), word 2 (by decide), ?_⟩
  rw [abandonTest_some h]
  generalize testRecord { s with abandoned := none, stfail := false } e addr 4 parts.toNat [] = u at frame
  rw [frame]
  exact ⟨rfl, rfl, rfl⟩

theorem or_vectors (v : BitVec 6) : v ||| 32 ||| 8 = v ||| 40 := by
  rw [BitVec.or_assoc]
  rfl

theorem resume_abandoned (s : State) (parts : BitVec 4) (addr e : Nat) (supply : s.supply = .retention false)
    (test : s.abandoned = some (parts, addr, e)) (hs : s.canonical) :
    ∃ t, exec (.supplyResume 0) s = .next t ∧ readWord t (hostKey addr) = BitVec.ofNat 32 (parts.toNat * 256 + 4) ∧
      readWord t (hostKey addr + 4) = BitVec.ofNat 32 e ∧ readWord t (hostKey addr + 8) = BitVec.ofNat 32 (e / 2 ^ 32) ∧
      t.stfail = false ∧ t.abandoned = none ∧ t.vectors = s.vectors ||| 40 := by
  obtain ⟨status, lo, hi, stfail, abandoned, vectors⟩ := abandonTest_record (s := resumedDevice { s with supply := .on }) test hs
  exact ⟨_, exec_supplyResume_whole supply, status, lo, hi, stfail, abandoned, vectors.trans (or_vectors s.vectors)⟩

/-! ## A lost cluster (R351) -/

/-- The part of memory of a key, by the ranges of keys. -/
theorem spaceOf_ranges (k : Nat) : (k < 2 ^ 52 → spaceOf k = .hbm) ∧ (2 ^ 52 ≤ k → k < 2 ^ 65 → spaceOf k = .host) ∧
    (2 ^ 65 ≤ k → k < 2 ^ 66 → spaceOf k = .vault ((k - 2 ^ 65) / 2 ^ 24) ((k - 2 ^ 65) % 2 ^ 24)) ∧
    (2 ^ 66 ≤ k → k < 2 ^ 67 → spaceOf k = .core ((k - 2 ^ 66) / 2 ^ 21) ((k - 2 ^ 66) % 2 ^ 21)) ∧ (2 ^ 67 ≤ k → spaceOf k = .other) := by
  unfold spaceOf
  refine ⟨fun h => if_pos h, fun h h' => ?_, fun h h' => ?_, fun h h' => ?_, fun h => ?_⟩
  · rw [if_neg (by omega), if_pos h']
  · rw [if_neg (by omega), if_neg (by omega), if_pos h']
  · rw [if_neg (by omega), if_neg (by omega), if_neg (by omega), if_pos h']
  · rw [if_neg (by omega), if_neg (by omega), if_neg (by omega), if_neg (by omega)]

theorem tileKey_first : tileKey 0 0 0 = 2 ^ 67 := by norm_num [tileKey]

theorem slotKey_first : slotKey 0 0 0 = 2 ^ 68 := by norm_num [slotKey]

/-- A granule lies in one memory of one cluster, whole. -/
theorem inCluster_granule (cl k : Nat) : inCluster cl (k / 64 * 64) = inCluster cl k := by
  obtain ⟨hbm, host, vault, core, other⟩ := spaceOf_ranges k
  obtain ⟨hbm', host', vault', core', other'⟩ := spaceOf_ranges (k / 64 * 64)
  have regions : k < 2 ^ 52 ∨ (2 ^ 52 ≤ k ∧ k < 2 ^ 65) ∨ (2 ^ 65 ≤ k ∧ k < 2 ^ 66) ∨ (2 ^ 66 ≤ k ∧ k < 2 ^ 67) ∨ 2 ^ 67 ≤ k := by omega
  unfold inCluster
  rcases regions with h | ⟨h, h'⟩ | ⟨h, h'⟩ | ⟨h, h'⟩ | h
  · rw [hbm h, hbm' (by omega)]
  · rw [host h h', host' (by omega) (by omega)]
  · rw [vault h h', vault' (by omega) (by omega)]
    simp only [decide_eq_decide]
    omega
  · rw [core h h', core' (by omega) (by omega)]
    simp only [decide_eq_decide]
    omega
  · rw [other h, other' (by omega)]
    dsimp only
    rw [tileKey_first, slotKey_first]
    by_cases slots : k < 2 ^ 68
    · rw [if_pos slots, if_pos (by omega), decide_eq_decide]
      omega
    · rw [if_neg slots, if_neg (by omega), decide_eq_decide]
      omega

theorem coreStoreEnd_lt : coreStoreEnd < 2 ^ 21 := by norm_num [coreStoreEnd]

theorem spaceOf_coreKey {c off : Nat} (hc : c < 192) (hoff : off < coreStoreEnd) : spaceOf (coreKey c off) = .core c off := by
  have bound := Nat.lt_trans hoff coreStoreEnd_lt
  obtain ⟨key, hkey⟩ : ∃ key, key = coreKey c off := ⟨_, rfl⟩
  rw [← hkey]
  unfold coreKey at hkey
  rw [(spaceOf_ranges key).2.2.2.1 (by omega) (by omega)]
  have core : (key - 2 ^ 66) / 2 ^ 21 = c := by omega
  have offset : (key - 2 ^ 66) % 2 ^ 21 = off := by omega
  rw [core, offset]

theorem inCluster_of_core {k c off : Nat} (cl : Nat) (h : spaceOf k = .core c off) : inCluster cl k = decide (c / 4 = cl) := by
  unfold inCluster
  rw [h]

theorem inCluster_coreKey {cl j off : Nat} (hcl : cl < 48) (hj : j < 4) (hoff : off < coreStoreEnd) :
    inCluster cl (coreKey (4 * cl + j) off) = true := by
  rw [inCluster_of_core cl (spaceOf_coreKey (by omega) hoff), decide_eq_true_eq]
  omega

/-- Cores may change, and nothing else, where the cores of a cluster are wiped. -/
theorem foldl_setCore_onlyCores (js : List Nat) (k : Nat → Nat) (f : Core → Core) (s : State) :
    js.foldl (fun s j => setCore s (k j) (f (getCore s (k j)))) s =
      { s with cores := (js.foldl (fun s j => setCore s (k j) (f (getCore s (k j)))) s).cores } := by
  refine List.foldlRecOn js _ (motive := fun t : State => t = { s with cores := t.cores }) rfl ?_
  intro t ht j _
  rw [ht]
  rfl

/-- The dirty lines of HBM that a cluster's vault caches. -/
def lostLines (s : State) (cl : Nat) : Sparse (Nat × Bool) := s.dcache.filter (fun x => x.2.1 = cl && x.2.2)

theorem wipeCluster_frame (s : State) (cl : Nat) : wipeCluster s cl = { s with
    mem := s.mem.filter (fun c => !inCluster cl c.1)
    tags := s.tags.filter (fun t => !inCluster cl (t.1 * 64))
    poison := s.poison.filter (fun g => !inCluster cl (g * 64)) ++ (lostLines s cl).flatMap (fun x => [2 * x.1, 2 * x.1 + 1])
    dcache := s.dcache.filter (fun x => x.2.1 ≠ cl)
    cores := (wipeCluster s cl).cores } :=
  foldl_setCore_onlyCores (List.range 4) (fun j => 4 * cl + j) (fun c => { c with lines := [], valid := [], tileState := [] }) _

/-- Without a launch on it a lost cluster is recorded and wiped. -/
theorem loseCluster_free {s : State} {cl : Nat} (free : ∀ l ∈ s.launches, onCluster s cl l = false) :
    ∃ r, loseCluster s cl = wipeCluster (pushError s r) cl := by
  have none_there : s.launches.filter (onCluster s cl) = [] := List.filter_eq_nil_iff.2 (fun l hl => by rw [free l hl]; decide)
  rw [loseCluster, none_there]
  exact ⟨_, rfl⟩

theorem pushError_frame (s : State) (r : List Word) : pushError s r =
    { s with errors := (pushError s r).errors, errOverflow := (pushError s r).errOverflow, vectors := (pushError s r).vectors } := by
  unfold pushError
  split
  · cases s.errors.isEmpty <;> rfl
  · rfl

theorem pushError_room {s : State} (room : s.errors.length < 1024) (r : List Word) : (pushError s r).errors = s.errors ++ [r] := by
  unfold pushError
  rw [if_pos room]
  cases s.errors.isEmpty <;> rfl

/-- What a resume leaves after the loss of one cluster without launches. -/
theorem lost_one {lost : BitVec 48} {cl : Nat} (hcl : cl < 48) (one : ∀ j, j < 48 → (lost.getLsbD j = true ↔ j = cl)) :
    (List.range 48).filter (fun c => lost.getLsbD c) = [cl] := by
  have same : (List.range 48).filter (fun c => lost.getLsbD c) = (List.range 48).filter (fun c => decide (c = cl)) := by
    refine List.filter_congr (fun j hj => ?_)
    have := one j (List.mem_range.1 hj)
    by_cases h : j = cl
    · simp only [h, decide_true]
      exact (one cl hcl).2 rfl
    · simp only [h, decide_false]
      rw [Bool.eq_false_iff]
      exact fun lost => h (this.1 lost)
  have nodup : ((List.range 48).filter (fun c => decide (c = cl))) = [cl] := by
    rw [List.filter_eq]
    rw [List.count_eq_one_of_mem List.nodup_range (List.mem_range.2 hcl)]
    rfl
  rw [same, nodup]

/-- A cluster that lost its state comes back empty (R351). -/
theorem resume_lost (cl : Nat) (lost : BitVec 48) (s : State) (supply : s.supply = .retention false) (no_test : s.abandoned = none)
    (hcl : cl < 48) (one : ∀ j, j < 48 → (lost.getLsbD j = true ↔ j = cl)) (free : ∀ l ∈ s.launches, onCluster s cl l = false)
    (room : s.errors.length < 1024) :
    ∃ t, exec (.supplyResume lost) s = .next t ∧ t.ctxs = s.ctxs ∧ t.launches = s.launches ∧
      (∀ k, inCluster cl k = true → memRead t.mem k = 0 ∧ tagAt t k = 0) ∧
      (s.canonical → ∀ k, inCluster cl k = false → memRead t.mem k = memRead s.mem k) ∧
      (∀ j off, j < 4 → off < coreStoreEnd → inCluster cl (coreKey (4 * cl + j) off) = true) ∧
      (∀ x ∈ t.dcache, x.2.1 ≠ cl) ∧
      (∀ x ∈ s.dcache, x.2.1 = cl → x.2.2 = true → 2 * x.1 ∈ t.poison ∧ 2 * x.1 + 1 ∈ t.poison) ∧ t.errors.length = s.errors.length + 1 := by
  obtain ⟨r, lose⟩ := loseCluster_free (s := { s with supply := .on }) (cl := cl) free
  have frame := wipeCluster_frame (pushError { s with supply := .on } r) cl
  have error := pushError_frame { s with supply := .on } r
  have errors : (pushError { s with supply := .on } r).errors = s.errors ++ [r] := pushError_room (s := { s with supply := .on }) room r
  have runs := exec_supplyResume supply lost
  rw [lost_one hcl one, List.foldl_cons, List.foldl_nil, lose] at runs
  generalize wipeCluster (pushError { s with supply := .on } r) cl = u at frame runs
  generalize pushError { s with supply := .on } r = v at frame error errors
  have ended : abandonTest (resumedDevice u) = resumedDevice u := by
    refine abandonTest_none ?_
    show u.abandoned = none
    rw [frame, error]
    exact no_test
  rw [ended] at runs
  refine ⟨resumedDevice u, runs, ?_, ?_, fun k hk => ⟨?_, ?_⟩, fun hs k hk => ?_, fun j off hj hoff => inCluster_coreKey hcl hj hoff, ?_, ?_, ?_⟩
  · show u.ctxs = s.ctxs
    rw [frame, error]
  · show u.launches = s.launches
    rw [frame, error]
  · show memRead u.mem k = 0
    rw [frame]
    exact memRead_filter_dropped v.mem (p := fun k => !inCluster cl k) (by rw [hk]; rfl)
  · show sget 0 u.tags (k / 64) = 0
    rw [frame]
    exact sget_filter_dropped 0 v.tags (p := fun g => !inCluster cl (g * 64)) (by rw [inCluster_granule, hk]; rfl)
  · show memRead u.mem k = memRead s.mem k
    rw [frame, error]
    exact memRead_filter_kept hs.1 (p := fun k => !inCluster cl k) (by rw [hk]; rfl)
  · show ∀ x ∈ u.dcache, x.2.1 ≠ cl
    rw [frame]
    intro x hx
    simpa using (List.mem_filter.1 hx).2
  · intro x hx at_cl dirty
    show 2 * x.1 ∈ u.poison ∧ 2 * x.1 + 1 ∈ u.poison
    rw [frame, error]
    have mem : x ∈ s.dcache.filter (fun x => x.2.1 = cl && x.2.2) := List.mem_filter.2 ⟨hx, by simp [at_cl, dirty]⟩
    exact ⟨List.mem_append_right _ (List.mem_flatMap.2 ⟨x, mem, List.mem_cons_self ..⟩),
      List.mem_append_right _ (List.mem_flatMap.2 ⟨x, mem, List.mem_cons_of_mem _ (List.mem_cons_self ..)⟩)⟩
  · show u.errors.length = s.errors.length + 1
    rw [frame]
    show v.errors.length = _
    rw [errors, List.length_append]
    rfl

/-! ## Both rails down (R398) -/

theorem rails_down (s : State) (h : Bool) (supply : s.supply = .retention h) :
    ∃ t, exec .auxiliaryRailFailure s = .next t ∧ t.supply = .off ∧ t.ctxs = [] ∧
      t.launches = [] ∧ t.queues = [] ∧ t.time0 = 0 ∧ t.marker = s.marker ∧ (∀ k, isHost k = false → memRead t.mem k = 0) ∧
      (s.canonical → ∀ k, isHost k = true → memRead t.mem k = memRead s.mem k) := by
  refine ⟨{ coldReset s with supply := .off }, ?_, rfl, rfl, rfl, rfl, rfl, rfl, fun k device => memRead_filter_dropped s.mem device,
    fun hs k host => memRead_filter_kept hs.1 host⟩
  show execAuxiliaryRailFailure s = _
  rw [execAuxiliaryRailFailure, supply]

/-- Settles O58. -/
theorem powerAndSupply : Obligations.PowerAndSupply := by
  refine ⟨⟨devstat_fields, exec_registerWrite_refused, registers_store, fun s v k hk => ⟨tokpool_stores s v, slicectl_stores s v k hk⟩,
    powerCheck_steps, thermal_reports, droop_counts, churn_runs⟩, ⟨supplyLoss_begins, supplyLoss_steps, ?_, unpowered_turn, thermal_hold⟩,
    ⟨resume_whole, resume_abandoned, resume_lost, rails_down⟩⟩
  intro die s lost_power
  show execSupplyLoss die s = _
  rw [execSupplyLoss]
  rcases lost_power with off | ⟨h, retained⟩
  · rw [off]
  · rw [retained]

end Sys2Proof.Proofs.ExecutionModel

end

section
/-! PROOFS. What placements, frees and charges leave unchanged (R53, R62, R104, R133, R358). -/

open Sys2Proof Sys2Proof.Machine

namespace Sys2Proof.Proofs.ExecutionModel

/-! ## Changes of the hardware alone -/

/-- From `s` to `t` only stores, caches, clusters, vaults and what is on its way changed: no context, launch or region block. -/
def HardwareOnly (s t : State) : Prop := t = { s with
  mem := t.mem, tags := t.tags, poison := t.poison, cores := t.cores, clusters := t.clusters, vaults := t.vaults, homeQ := t.homeQ
  nextId := t.nextId, errors := t.errors, errOverflow := t.errOverflow, vectors := t.vectors }

theorem HardwareOnly.refl (s : State) : HardwareOnly s s := rfl

theorem HardwareOnly.trans {s t u : State} (h : HardwareOnly s t) (h' : HardwareOnly t u) : HardwareOnly s u := by
  unfold HardwareOnly at *
  calc u = _ := h'
    _ = _ := by rw [h]

theorem WritesOnly.hardwareOnly {s t : State} (h : WritesOnly s t) : HardwareOnly s t := by
  unfold WritesOnly HardwareOnly at *
  calc t = _ := h
    _ = _ := by rw [h]

theorem SendsOnly.hardwareOnly {s t : State} (h : SendsOnly s t) : HardwareOnly s t := h.writesOnly.hardwareOnly

theorem HardwareOnly.ctxs {s t : State} (h : HardwareOnly s t) : t.ctxs = s.ctxs := by rw [h]
theorem HardwareOnly.launches {s t : State} (h : HardwareOnly s t) : t.launches = s.launches := by rw [h]
theorem HardwareOnly.nodes {s t : State} (h : HardwareOnly s t) : t.nodes = s.nodes := by rw [h]

theorem HardwareOnly.foldl {α : Type} {f : State → α → State} (hf : ∀ s x, HardwareOnly s (f s x)) (l : List α) (s : State) :
    HardwareOnly s (l.foldl f s) :=
  List.foldlRecOn l f (motive := HardwareOnly s) (.refl s) (fun t ht x _ => ht.trans (hf t x))

theorem setCore_hardwareOnly (s : State) (k : Nat) (c : Core) : HardwareOnly s (setCore s k c) := rfl
theorem setVault_hardwareOnly (s : State) (k : Nat) (v : Vault) : HardwareOnly s (setVault s k v) := rfl
theorem setCluster_hardwareOnly (s : State) (k : Nat) (c : Cluster) : HardwareOnly s (setCluster s k c) := rfl

theorem writeTagged_hardwareOnly (k : Nat) (g : BitVec 12) (bs : List Byte) (s : State) : HardwareOnly s (writeTagged s k g bs) := by
  induction bs generalizing k s with
  | nil => exact .refl s
  | cons b r ih => exact (writeTagged1_writesOnly s k g b).hardwareOnly.trans (ih (k + 1) _)

theorem writeBytes_hardwareOnly (s : State) (k : Nat) (bs : List Byte) : HardwareOnly s (writeBytes s k bs) := rfl

theorem clearTags_hardwareOnly (n k : Nat) (s : State) : HardwareOnly s (clearTags s k n) := by
  induction n generalizing k s with
  | zero => exact .refl s
  | succ n ih => exact (setTag_writesOnly s k 0).hardwareOnly.trans (ih (k + 64) _)

theorem loadImage_hardwareOnly (s : State) (l : Launch) (k row : Nat) (g : BitVec 12) : HardwareOnly s (loadImage s l k row g) :=
  writeTagged_hardwareOnly ..

theorem dropWait_hardwareOnly (s : State) (c : Ctx) : HardwareOnly s (dropWait s c) := by
  unfold dropWait
  split
  · dsimp only
    split
    · exact writeBytes_hardwareOnly ..
    · exact .refl s
  · exact .refl s

theorem unpin_hardwareOnly (s : State) (stays : Nat → Bool) (c : Ctx) : HardwareOnly s (unpin s stays c) := by
  unfold unpin
  dsimp only
  split
  · exact .refl s
  · exact setCore_hardwareOnly ..

theorem discardDirty_hardwareOnly (p : Nat → BitVec 12 → Bool) (s : State) : HardwareOnly s (discardDirty p s) := rfl

/-! ## Frees -/

theorem freeCoreRuns_hardwareOnly (p : Run → Bool) (s : State) (k : Nat) : HardwareOnly s (freeCoreRuns p s k) :=
  (HardwareOnly.foldl (fun _ _ => clearTags_hardwareOnly ..) _ s).trans (setCore_hardwareOnly ..)

theorem freeRuns_hardwareOnly (p : Run → Bool) (s : State) : HardwareOnly s (freeRuns p s) := .foldl (freeCoreRuns_hardwareOnly p) _ s

theorem freeVaultRuns_hardwareOnly (l : Nat) (s : State) (v : Nat) : HardwareOnly s (freeVaultRuns l s v) :=
  (HardwareOnly.foldl (fun _ _ => clearTags_hardwareOnly ..) _ s).trans (setVault_hardwareOnly ..)

theorem freeLaunch_hardwareOnly (s : State) (l : Nat) : HardwareOnly s (freeLaunch s l) :=
  ((freeRuns_hardwareOnly _ s).trans (.foldl (freeVaultRuns_hardwareOnly l) _ _)).trans rfl

/-! ## Charges (R53, R133) -/

/-- From `s` to `t` region control blocks changed, or writes of the device went on their way, and nothing else happened. -/
def ChargesOnly (s t : State) : Prop := t = { s with nodes := t.nodes, homeQ := t.homeQ, nextId := t.nextId }

theorem ChargesOnly.refl (s : State) : ChargesOnly s s := rfl

theorem ChargesOnly.trans {s t u : State} (h : ChargesOnly s t) (h' : ChargesOnly t u) : ChargesOnly s u := by
  unfold ChargesOnly at *
  calc u = _ := h'
    _ = _ := by rw [h]

theorem ChargesOnly.ctxs {s t : State} (h : ChargesOnly s t) : t.ctxs = s.ctxs := by rw [h]
theorem ChargesOnly.launches {s t : State} (h : ChargesOnly s t) : t.launches = s.launches := by rw [h]
theorem ChargesOnly.cores {s t : State} (h : ChargesOnly s t) : t.cores = s.cores := by rw [h]

theorem placeNode_chargesOnly (s : State) (n : Node) (i : Nat) (ws : List Word) : ChargesOnly s (placeNode s n i ws) := by
  unfold placeNode
  split
  · exact rfl
  · exact .refl s

theorem postNode_chargesOnly (s : State) (n : Node) (i : Nat) (ws : List Word) : ChargesOnly s (postNode s n i ws) := by
  unfold postNode
  split
  · exact rfl
  · exact placeNode_chargesOnly ..

theorem chargeNode_chargesOnly (s : State) (n : Node) : ChargesOnly s (chargeNode s n) := by
  unfold chargeNode
  dsimp only
  split
  · exact .refl s
  · refine ChargesOnly.trans ?_ (postNode_chargesOnly ..)
    exact rfl

theorem recharge_chargesOnly (s : State) : ChargesOnly s (recharge s) :=
  List.foldlRecOn s.nodes chargeNode (motive := ChargesOnly s) (.refl s) (fun t ht n _ => ht.trans (chargeNode_chargesOnly t n))

/-- The marks of the kill, of every region control block. -/
def nodeMarks (s : State) : List (Nat × Bool × BitVec 8 × Nat) := s.nodes.map (fun x => (x.addr, x.killed, x.kcode, x.klaunch))

theorem nodeMarks_map (s : State) {f : Node → Node}
    (hf : ∀ x, ((f x).addr, (f x).killed, (f x).kcode, (f x).klaunch) = (x.addr, x.killed, x.kcode, x.klaunch)) :
    nodeMarks { s with nodes := s.nodes.map f } = nodeMarks s := by
  simp only [nodeMarks, List.map_map]
  exact List.map_congr_left (fun x _ => hf x)

theorem nodeMarks_postNode (s : State) (n : Node) (i : Nat) (ws : List Word) : nodeMarks (postNode s n i ws) = nodeMarks s := by
  unfold postNode
  split
  · exact nodeMarks_map s (fun x => by split <;> rfl)
  · rw [placeNode_sendsOnly s n i ws]
    rfl

theorem nodeMarks_chargeNode (s : State) (n : Node) : nodeMarks (chargeNode s n) = nodeMarks s := by
  unfold chargeNode
  dsimp only
  split
  · rfl
  · exact (nodeMarks_postNode ..).trans (nodeMarks_map s (fun x => by split <;> rfl))

theorem nodeMarks_recharge (s : State) : nodeMarks (recharge s) = nodeMarks s :=
  List.foldlRecOn s.nodes chargeNode (motive := fun t => nodeMarks t = nodeMarks s) rfl (fun t ht n _ => (nodeMarks_chargeNode t n).trans ht)

/-- The marks of a block, from the list of all marks. -/
theorem getNode_marks (s : State) (a : Nat) : (getNode s a).map (fun x => (x.addr, x.killed, x.kcode, x.klaunch)) =
    (nodeMarks s).find? (fun y => y.1 == a) := by
  rw [nodeMarks, List.find?_map]
  rfl

/-! ## Launches by identity -/

theorem getLaunch_congr {s t : State} (h : t.launches = s.launches) (j : Nat) : getLaunch t j = getLaunch s j := by
  rw [getLaunch, h, getLaunch]

theorem getLaunch_setLaunch_same (s : State) (l : Launch) : getLaunch (setLaunch s l) l.id = (getLaunch s l.id).map (fun _ => l) := by
  rw [getLaunch_setLaunch]
  cases found : getLaunch s l.id with
  | none => rfl
  | some x => exact congrArg some (if_pos (getLaunch_id found))

theorem getLaunch_setLaunch_other (s : State) {l : Launch} {j : Nat} (h : j ≠ l.id) : getLaunch (setLaunch s l) j = getLaunch s j := by
  rw [getLaunch_setLaunch]
  cases found : getLaunch s j with
  | none => rfl
  | some x => exact congrArg some (if_neg (fun same => h ((getLaunch_id found).symm.trans same)))

theorem getLaunch_dropLaunch_same (s : State) (j : Nat) : getLaunch (dropLaunch s j) j = none := by
  refine List.find?_eq_none.2 (fun x hx => ?_)
  have gone := (List.mem_filter.1 hx).2
  simpa using gone

theorem getLaunch_dropLaunch_other (s : State) {i j : Nat} (h : j ≠ i) : getLaunch (dropLaunch s i) j = getLaunch s j := by
  unfold getLaunch dropLaunch
  rw [List.find?_filter]
  congr 1
  funext x
  by_cases hx : x.id = j
  · simp [hx, h]
  · simp [hx]

end Sys2Proof.Proofs.ExecutionModel

end

section
/-! PROOFS. Placement, tokens, notifications and the tolerance (R28, R155, R355, R357, R358, R360). -/

open Sys2Proof Sys2Proof.Machine

namespace Sys2Proof.Proofs.ExecutionModel

/-! ## The order of R357 -/

theorem heldBack_iff (s : State) (wants : Launch → Bool) (x : Launch) : heldBack s wants x = true ↔
    ∃ y ∈ s.launches, y.id ≠ x.id ∧ wants y = true ∧ comesFirst s wants y x = true := by
  simp only [heldBack, List.any_eq_true, Bool.and_eq_true, decide_eq_true_eq, and_assoc]

theorem heldBack_false {s : State} {wants : Launch → Bool} {x : Launch}
    (h : ¬ ∃ y ∈ s.launches, y.id ≠ x.id ∧ wants y = true ∧ comesFirst s wants y x = true) : heldBack s wants x = false := by
  rw [← Bool.not_eq_true, heldBack_iff]
  exact h

/-! ## The turn of a placement -/

/-- What a placement does once the launch may be considered. -/
def placementOf (s : State) (x : Launch) : Host.Outcome State Fault Refusal :=
  match fits s x with
  | none => if (fits (emptied s) x).isNone then .next (setLaunch s { x with stage := .closing 3 0 0 0, tokens := 0 }) else .next s
  | some n =>
    if x.tokens < n then .next s
    else if x.taskMode then
      let ks := planTasks s x
      if ks.all (fun k => (getCore s k.1).issueReady 1) then .next (placeTasks s x ks) else .next (skimStall s)
    else
      match planGrid s x with
      | some p => if gensReady s x p then .next (placeGrid s { x with tokens := n } p) else .next (skimStall s)
      | none => .next s

section
variable {s : State} {x : Launch} (found : getLaunch s x.id = some x) (power : powered s = true) (waits : x.stage = .waiting)
include found power waits

theorem exec_placement : exec (.placement x.id) s =
    if s.selftest.isSome || heldBack s (able s) x then .next s else placementOf s x := by
  show execPlacement x.id s = _
  rw [execPlacement, found]
  dsimp only
  rw [power, waits]
  rfl

theorem exec_placement_stays (h : (∃ y ∈ s.launches, y.id ≠ x.id ∧ able s y = true ∧ comesFirst s (able s) y x = true) ∨ s.selftest ≠ none) :
    exec (.placement x.id) s = .next s := by
  rw [exec_placement found power waits, if_pos]
  rcases h with first | test
  · rw [(heldBack_iff s (able s) x).2 first, Bool.or_true]
  · rw [Option.isSome_iff_ne_none.2 test, Bool.true_or]

theorem exec_placement_goes (no_test : s.selftest = none)
    (first : ¬ ∃ y ∈ s.launches, y.id ≠ x.id ∧ able s y = true ∧ comesFirst s (able s) y x = true) :
    exec (.placement x.id) s = placementOf s x := by
  rw [exec_placement found power waits, no_test, heldBack_false first]
  rfl

end

theorem placementOf_none {s : State} {x : Launch} (h : fits s x = none) : placementOf s x =
    if (fits (emptied s) x).isNone then .next (setLaunch s { x with stage := .closing 3 0 0 0, tokens := 0 }) else .next s := by
  rw [placementOf, h]

theorem placementOf_short {s : State} {x : Launch} {n : Nat} (h : fits s x = some n) (short : x.tokens < n) : placementOf s x = .next s := by
  rw [placementOf, h]
  exact if_pos short

theorem placementOf_tasks {s : State} {x : Launch} {n : Nat} (h : fits s x = some n) (enough : n ≤ x.tokens) (tasks : x.taskMode = true)
    (gens : ∀ k ∈ planTasks s x, (getCore s k.1).issueReady 1 = true) : placementOf s x = .next (placeTasks s x (planTasks s x)) := by
  rw [placementOf, h]
  dsimp only
  rw [if_neg (Nat.not_lt.2 enough), if_pos tasks, if_pos (List.all_eq_true.2 gens)]

theorem placementOf_grid {s : State} {x : Launch} {n : Nat} {p : Plan} (h : fits s x = some n) (enough : n ≤ x.tokens)
    (blocks : x.taskMode = false) (plan : planGrid s x = some p) (gens : gensReady s x p = true) :
    placementOf s x = .next (placeGrid s { x with tokens := n } p) := by
  rw [placementOf, h]
  dsimp only
  rw [if_neg (Nat.not_lt.2 enough), blocks, plan]
  dsimp only
  rw [gens]
  rfl

/-! ## What a placement makes -/

theorem recharge_ctxs (s : State) : (recharge s).ctxs = s.ctxs := (recharge_chargesOnly s).ctxs

theorem getLaunch_recharge (s : State) (j : Nat) : getLaunch (recharge s) j = getLaunch s j := getLaunch_congr (recharge_chargesOnly s).launches j

/-- A task grid is one context more, and its launch is placed with a count of 1. -/
theorem placeTasks_makes {s : State} {x : Launch} (found : getLaunch s x.id = some x) (ks : List (Nat × Nat)) :
    ∃ g l, (placeTasks s x ks).ctxs = s.ctxs ++ [g] ∧ g.level = 4 ∧ g.launch = x.id ∧ g.parent = none ∧
      getLaunch (placeTasks s x ks) x.id = some l ∧ l.stage = .placed ∧ l.tasks = 1 := by
  generalize made : placeTasks s x ks = t
  unfold placeTasks at made
  extract_lets l base root s1 die seed grid at made
  have frame : HardwareOnly s s1 := .foldl (fun t k =>
    ((setCore_hardwareOnly t k.1 _).trans (loadImage_hardwareOnly ..)).trans (rowsTaken_sendsOnly ..).hardwareOnly) ks s
  refine ⟨grid, { l with stage := .placed, moved := base, cores := ks.map Prod.fst, tasks := 1, late := false }, ?_, rfl, rfl, rfl, ?_, rfl, rfl⟩
  · rw [← made, recharge_ctxs]
    exact congrArg (· ++ [grid]) frame.ctxs
  · rw [← made, getLaunch_recharge]
    have kept : getLaunch s1 x.id = some x := (getLaunch_congr frame.launches x.id).trans found
    exact (getLaunch_setLaunch_same _ { l with stage := .placed, moved := base, cores := ks.map Prod.fst, tasks := 1, late := false }).trans
      (congrArg (Option.map _) kept)

theorem foldl_addGroup_length (base : Nat) (gs cs : List Ctx) : (gs.foldl (addGroup base) cs).length = cs.length + gs.length := by
  induction gs generalizing cs with
  | nil => rfl
  | cons g r ih =>
    rw [List.foldl_cons, ih, addGroup, List.length_append, List.length_singleton, List.length_cons]
    omega

/-- A block grid has a context for the grid and for each cluster, block and group, and its launch is placed. -/
theorem placeGrid_makes {s : State} {x : Launch} (found : getLaunch s x.id = some x) (n : Nat) (p : Plan) :
    (placeGrid s { x with tokens := n } p).ctxs.length =
        s.ctxs.length + 1 + p.held.length + p.blocks.length + (p.blocks.map (fun b => b.groups.length)).sum ∧
      ∃ l, getLaunch (placeGrid s { x with tokens := n } p) x.id = some l ∧ l.stage = .placed ∧ l.tokens = n := by
  generalize made : placeGrid s { x with tokens := n } p = t
  unfold placeGrid at made
  extract_lets l base clusters cores alloc g s1 s2 vruns cix die seed grid clusterCtx first blockCtx groupCtx seqs groups s3 s4 s5 at made
  have rows : HardwareOnly s s1 := .foldl (fun t a => setCore_hardwareOnly t a.1 a.2.1) alloc s
  have units : HardwareOnly s1 s2 := by
    show HardwareOnly s1 (if l.vunits = 0 then s1 else _)
    split
    · exact .refl s1
    · exact .foldl (fun t h => setVault_hardwareOnly ..) p.held s1
  have images : HardwareOnly s3 s4 := .foldl (fun t b => .foldl (fun u c => loadImage_hardwareOnly ..) b.cores t) p.blocks s3
  have grants : HardwareOnly s4 s5 := .foldl (fun t b => setCluster_hardwareOnly ..) p.blocks s4
  have taken : HardwareOnly s5 (cores.foldl rowsTaken s5) := .foldl (fun t k => (rowsTaken_sendsOnly t k).hardwareOnly) cores s5
  have before : HardwareOnly s s2 := rows.trans units
  have after : HardwareOnly s3 (cores.foldl rowsTaken s5) := (images.trans grants).trans taken
  generalize cores.foldl rowsTaken s5 = u at made after
  have contexts : u.ctxs = groups.foldl (addGroup base) (s.ctxs ++ seqs) := by
    rw [after.ctxs, ← before.ctxs]
  have launches : u.launches = s.launches := after.launches.trans before.launches
  refine ⟨?_, { l with stage := .placed, moved := base, cores := cores, vruns := vruns, late := false }, ?_, rfl, rfl⟩
  · rw [← made, recharge_ctxs]
    show u.ctxs.length = _
    rw [contexts, foldl_addGroup_length]
    simp [seqs, groups, clusters, List.length_flatMap]
    omega
  · rw [← made, getLaunch_recharge]
    have kept : getLaunch u x.id = some x := (getLaunch_congr launches x.id).trans found
    exact (getLaunch_setLaunch_same u { l with stage := .placed, moved := base, cores := cores, vruns := vruns, late := false }).trans
      (congrArg (Option.map _) kept)

/-! ## Tokens -/

theorem exec_tokenGrant {s : State} {x : Launch} (found : getLaunch s x.id = some x) (power : powered s = true)
    (first : heldBack s (fun y => tokensWanted s y ≠ 0) x = false) : exec (.tokenGrant x.id) s =
    let n := nextTokens x.tokens (tokenBlocks s x) 0
    if n = 0 ∨ tokensFree s < n then .next s else .next (setLaunch s { x with tokens := x.tokens + n }) := by
  show execTokenGrant x.id s = _
  rw [execTokenGrant, found]
  dsimp only
  rw [power, first]
  simp only [Bool.not_true, Bool.or_false, Bool.or_eq_true, decide_eq_true_eq]

/-- The next block's tokens, where those of the blocks before it are held. -/
theorem nextTokens_from (bs : List Nat) (i sum : Nat) (positive : ∀ b ∈ bs, 0 < b) (hi : i < bs.length) :
    nextTokens (sum + (bs.take i).sum) bs sum = bs.getD i 0 := by
  induction bs generalizing i sum with
  | nil => exact absurd hi (Nat.not_lt_zero i)
  | cons b r ih =>
    cases i with
    | zero =>
      have hb := positive b (List.mem_cons_self ..)
      rw [nextTokens, if_pos (by simpa using hb)]
      simp
    | succ i =>
      rw [nextTokens, List.take_succ_cons, List.sum_cons, if_neg (by omega), ← Nat.add_assoc]
      exact ih i (sum + b) (fun y hy => positive y (List.mem_cons_of_mem b hy)) (Nat.lt_of_succ_lt_succ hi)

theorem nextTokens_block (bs : List Nat) (i : Nat) (positive : ∀ b ∈ bs, 0 < b) (hi : i < bs.length) :
    nextTokens ((bs.take i).sum) bs 0 = bs.getD i 0 := by
  have := nextTokens_from bs i 0 positive hi
  rwa [Nat.zero_add] at this

/-! ## Notifications and the tolerance -/

theorem exec_depNotification {s : State} {x : Launch} {r : List Nat} (found : getLaunch s x.id = some x) (notes : s.notes = x.id :: r)
    (depends : x.stage = .depend) : exec .depNotification s =
    .next (setLaunch { s with notes := r } { x with stage := .waiting, since := s.time0 }) := by
  show execDepNotification s = _
  rw [execDepNotification, notes]
  dsimp only
  rw [found]
  dsimp only
  rw [depends]
  rfl

theorem exec_lattolExpiry {s : State} {x : Launch} (found : getLaunch s x.id = some x) (power : powered s = true) (waits : x.stage = .waiting) :
    exec (.lattolExpiry x.id) s =
      .next (if x.since + effLattol (chainOf s x) * 1000 < s.time0 then setLaunch s { x with late := true } else s) := by
  show execLattolExpiry x.id s = _
  rw [execLattolExpiry, found]
  dsimp only
  rw [power, waits]
  by_cases late : x.since + effLattol (chainOf s x) * 1000 < s.time0
  · rw [if_pos late, decide_eq_true late]
    rfl
  · rw [if_neg late, decide_eq_false late]
    rfl

end Sys2Proof.Proofs.ExecutionModel

end

section
/-! PROOFS. The kill of a fault domain (R53, R136, R341). -/

open Sys2Proof Sys2Proof.Machine

namespace Sys2Proof.Proofs.ExecutionModel

/-! ## What a killed launch leaves -/

/-- A context, launch or queue of operations goes with a killed launch: the state before its frees. -/
theorem killLaunch_shape (s : State) (l : Launch) (code node fault : Nat) :
    ∃ u, u.ctxs = s.ctxs.filter (fun c => c.launch ≠ l.id) ∧ u.launches = s.launches ∧ u.nodes = s.nodes ∧ killLaunch s l code node fault =
      if recorded s l.id then dropLaunch u l.id
      else setLaunch u { l with stage := .closing 2 code node fault, tokens := 0, vruns := [], tasks := 0 } := by
  generalize made : killLaunch s l code node fault = t
  unfold killLaunch at made
  extract_lets cs mine owns s1 s2 s3 at made
  have quiet : HardwareOnly s s1 :=
    ((HardwareOnly.foldl dropWait_hardwareOnly cs s).trans (.foldl (fun t c => unpin_hardwareOnly t _ c) cs _)).trans (discardDirty_hardwareOnly ..)
  have freed : HardwareOnly s2 s3 := (freeRuns_hardwareOnly _ s2).trans (freeLaunch_hardwareOnly _ l.id)
  refine ⟨s3, ?_, ?_, ?_, made.symm⟩
  · rw [freed.ctxs, ← quiet.ctxs]
  · rw [freed.launches, ← quiet.launches]
  · rw [freed.nodes, ← quiet.nodes]

/-- The contexts of a launch. -/
def ctxsOf (s : State) (j : Nat) : List Ctx := s.ctxs.filter (fun c => c.launch = j)

theorem ctxsOf_nil_iff (s : State) (j : Nat) : ctxsOf s j = [] ↔ ∀ c ∈ s.ctxs, c.launch ≠ j := by
  simp [ctxsOf, List.filter_eq_nil_iff]

/-- Whether a launch's record has been written rests on its contexts alone. -/
theorem recorded_congr {s t : State} {j : Nat} (h : ctxsOf t j = ctxsOf s j) : recorded t j = recorded s j := by
  have grid (u : State) : gridOf u j = (ctxsOf u j).find? (fun c => c.level == 4) := by
    rw [gridOf, ctxsOf, List.find?_filter]
    congr 1
    funext c
    rw [Bool.eq_iff_iff]
    simp
  rw [recorded, grid, h, ← grid, recorded]

theorem recorded_nil {s : State} {j : Nat} (h : ctxsOf s j = []) : recorded s j = false := by
  have grid : gridOf s j = none := List.find?_eq_none.2 (fun c hc => by simp [(ctxsOf_nil_iff s j).1 h c hc])
  rw [recorded, grid]
  rfl

/-- What is left of a launch `j` whose kill has acted: no context, and it closes with status 2 or, its record written, is gone. -/
structure Killed (code node fault : Nat) (gone : Bool) (j : Nat) (t : State) : Prop where
  ctxs : ctxsOf t j = []
  absent : gone = true → getLaunch t j = none
  closes : gone = false → ∀ z, getLaunch t j = some z → z.stage = .closing 2 code node fault

section
variable (code node fault : Nat)

theorem killLaunch_self (s : State) (l : Launch) : Killed code node fault (recorded s l.id) l.id (killLaunch s l code node fault) := by
  obtain ⟨u, ctxs, -, -, shape⟩ := killLaunch_shape s l code node fault
  have none_left : ctxsOf u l.id = [] := by
    rw [ctxsOf_nil_iff, ctxs]
    exact fun c hc => of_decide_eq_true (List.mem_filter.1 hc).2
  rw [shape]
  cases recorded s l.id with
  | true => exact ⟨none_left, fun _ => getLaunch_dropLaunch_same u l.id, (fun h => nomatch h)⟩
  | false =>
    refine ⟨none_left, (fun h => nomatch h), fun _ z hz => ?_⟩
    have closed := (getLaunch_setLaunch_same u { l with stage := .closing 2 code node fault, tokens := 0, vruns := [], tasks := 0 }).symm.trans hz
    obtain ⟨x, -, rfl⟩ := Option.map_eq_some_iff.1 closed
    rfl

theorem killLaunch_other (s : State) {l : Launch} {j : Nat} (h : j ≠ l.id) : ctxsOf (killLaunch s l code node fault) j = ctxsOf s j ∧
    getLaunch (killLaunch s l code node fault) j = getLaunch s j := by
  obtain ⟨u, ctxs, launches, -, shape⟩ := killLaunch_shape s l code node fault
  have contexts : ctxsOf u j = ctxsOf s j := by
    rw [ctxsOf, ctxs, List.filter_filter, ctxsOf]
    refine List.filter_congr (fun c _ => ?_)
    by_cases hc : c.launch = j <;> simp [hc, h]
  have launch := getLaunch_congr launches j
  rw [shape]
  split
  · exact ⟨contexts, (getLaunch_dropLaunch_other u h).trans launch⟩
  · exact ⟨contexts, (getLaunch_setLaunch_other u (l := { l with stage := .closing 2 code node fault, tokens := 0, vruns := [], tasks := 0 }) h).trans launch⟩

theorem killLaunch_present (s : State) {l : Launch} (kept : recorded s l.id = false) (j : Nat) :
    (getLaunch (killLaunch s l code node fault) j).isSome = (getLaunch s j).isSome := by
  obtain ⟨u, -, launches, -, shape⟩ := killLaunch_shape s l code node fault
  rw [shape, kept]
  exact (congrArg Option.isSome (getLaunch_setLaunch u _ j)).trans (by rw [Option.isSome_map, getLaunch_congr launches])

theorem killLaunch_nodes (s : State) (l : Launch) : (killLaunch s l code node fault).nodes = s.nodes := by
  obtain ⟨u, -, -, nodes, shape⟩ := killLaunch_shape s l code node fault
  rw [shape]
  split <;> exact nodes

/-- A later kill, of another launch or of the same again, leaves a killed launch as it is. -/
theorem Killed.killLaunch {gone : Bool} {j : Nat} {s : State} (h : Killed code node fault gone j s) (l : Launch) :
    Killed code node fault gone j (killLaunch s l code node fault) := by
  by_cases same : j = l.id
  · have again := killLaunch_self code node fault s l
    rw [← same, recorded_nil h.ctxs] at again
    refine ⟨again.ctxs, fun g => ?_, fun _ => again.closes rfl⟩
    have present := killLaunch_present code node fault s (l := l) (same ▸ recorded_nil h.ctxs) j
    rw [h.absent g] at present
    exact Option.isSome_eq_false_iff.1 present |> Option.isNone_iff_eq_none.1
  · obtain ⟨ctxs, launch⟩ := killLaunch_other code node fault s same
    exact ⟨ctxs.trans h.ctxs, fun g => launch.trans (h.absent g), fun g z hz => h.closes g z (launch.symm.trans hz)⟩

/-- The kills of a list of launches, one after the other. -/
def killAll (s : State) (ls : List Launch) : State := ls.foldl (fun s l => killLaunch s l code node fault) s

theorem Killed.killAll {gone : Bool} {j : Nat} {s : State} (h : Killed code node fault gone j s) (ls : List Launch) :
    Killed code node fault gone j (killAll code node fault s ls) :=
  List.foldlRecOn ls _ (motive := Killed code node fault gone j) h (fun _ ht l _ => ht.killLaunch code node fault l)

theorem killAll_killed (ls : List Launch) (s : State) {y : Launch} (hy : y ∈ ls) :
    Killed code node fault (recorded s y.id) y.id (killAll code node fault s ls) := by
  induction ls generalizing s with
  | nil => exact nomatch hy
  | cons l r ih =>
    by_cases same : y.id = l.id
    · rw [same]
      exact (killLaunch_self code node fault s l).killAll code node fault r
    · have later : y ∈ r := (List.mem_cons.1 hy).resolve_left (fun e => same (congrArg Launch.id e))
      rw [← recorded_congr (killLaunch_other code node fault s same).1]
      exact ih _ later

theorem killAll_present (ls : List Launch) (s : State) {j : Nat} (kept : recorded s j = false) (found : (getLaunch s j).isSome = true) :
    (getLaunch (killAll code node fault s ls) j).isSome = true := by
  induction ls generalizing s with
  | nil => exact found
  | cons l r ih =>
    by_cases same : j = l.id
    · refine ih _ (recorded_nil ?_) ?_
      · rw [same]
        exact (killLaunch_self code node fault s l).ctxs
      · rw [killLaunch_present code node fault s (same ▸ kept)]
        exact found
    · obtain ⟨ctxs, launch⟩ := killLaunch_other code node fault s same
      exact ih _ ((recorded_congr ctxs).trans kept) (launch ▸ found)

theorem killAll_nodes (ls : List Launch) (s : State) : (killAll code node fault s ls).nodes = s.nodes :=
  List.foldlRecOn ls _ (motive := fun t => t.nodes = s.nodes) rfl (fun t ht l _ => (killLaunch_nodes code node fault t l).trans ht)

end

/-! ## The killed node -/

/-- The launch is closing. -/
def Launch.closes (l : Launch) : Bool :=
  match l.stage with
  | .closing _ _ _ _ => true
  | _ => false

theorem closes_iff (l : Launch) : Launch.closes l = true ↔ ∃ a b c d, l.stage = .closing a b c d := by
  unfold Launch.closes
  cases l.stage <;> simp

/-- The mark that a kill leaves on a block. -/
def markKilled (addr : Nat) (code : BitVec 8) (fault : Nat) (x : Node) : Node :=
  if x.addr = addr then { x with killed := true, kcode := code, klaunch := fault } else x

theorem getNode_markKilled {s : State} {n : Node} (found : getNode s n.addr = some n) (code : BitVec 8) (fault : Nat) :
    getNode { s with nodes := s.nodes.map (markKilled n.addr code fault) } n.addr = some (markKilled n.addr code fault n) := by
  show (s.nodes.map (markKilled n.addr code fault)).find? _ = _
  rw [List.find?_map]
  have same : ((fun x => x.addr == n.addr) ∘ markKilled n.addr code fault : Node → Bool) = fun x => x.addr == n.addr := by
    funext x
    unfold markKilled
    simp only [Function.comp]
    split <;> rfl
  rw [same]
  exact congrArg (Option.map _) found

/-- The launches of a kill are those beneath the node that are not closing. -/
def killSet (s : State) (n : Node) : List Launch := (beneath s n).filter (fun l => !Launch.closes l)

theorem killNode_frame (s : State) (n : Node) (code : BitVec 8) (fault : Nat) :
    let u := killAll code.toNat n.addr fault s (killSet s n)
    let v := { u with nodes := u.nodes.map (markKilled n.addr code fault) }
    (killNode s n code fault).ctxs = u.ctxs ∧ (killNode s n code fault).launches = u.launches ∧ nodeMarks (killNode s n code fault) = nodeMarks v := by
  intro u v
  generalize made : killNode s n code fault = t
  unfold killNode at made
  extract_lets closing ls s1 s2 s3 at made
  have all : s1 = u := rfl
  have mark : s2 = v := rfl
  have post : ChargesOnly s2 s3 := postNode_chargesOnly ..
  refine ⟨?_, ?_, ?_⟩
  · rw [← made, (recharge_chargesOnly _).ctxs]
    exact post.ctxs
  · rw [← made, (recharge_chargesOnly _).launches]
    exact post.launches
  · rw [← made, nodeMarks_recharge]
    exact nodeMarks_postNode ..

/-- A kill of the oldest fatal fault acts on its launch's fault domain (R341). -/
theorem kill_acts (s : State) (k : Kill) (r : List Kill) (l : Launch) (n : Node) (kills : s.kills = k :: r) (power : powered s = true)
    (found : getLaunch s k.launch = some l) (domain : faultDomain (chainOf s l) = some n) (node : getNode s n.addr = some n) :
    ∃ t m, exec .kill s = .next t ∧ getNode t n.addr = some m ∧ m.killed = true ∧ m.kcode = k.code ∧ m.klaunch = l.addr ∧
      ∀ y ∈ beneath s n, (¬ ∃ a b c d, y.stage = .closing a b c d) → (∀ c ∈ t.ctxs, c.launch ≠ y.id) ∧
        (getLaunch s y.id = some y →
          (recorded s y.id = false → ∃ z, getLaunch t y.id = some z ∧ z.stage = .closing 2 k.code.toNat n.addr l.addr) ∧
          (recorded s y.id = true → getLaunch t y.id = none)) := by
  have runs : exec .kill s = .next (killNode { s with kills := r } n k.code l.addr) := by
    show execKill s = _
    rw [execKill, power, kills]
    dsimp only
    rw [found]
    dsimp only
    rw [domain]
    rfl
  obtain ⟨ctxs, launches, marks⟩ := killNode_frame { s with kills := r } n k.code l.addr
  generalize killNode { s with kills := r } n k.code l.addr = t at runs ctxs launches marks
  have kept : getNode (killAll k.code.toNat n.addr l.addr { s with kills := r } (killSet { s with kills := r } n)) n.addr = some n := by
    rw [getNode, killAll_nodes]
    exact node
  have mark := getNode_marks t n.addr
  rw [marks, ← getNode_marks, getNode_markKilled kept] at mark
  obtain ⟨m, hm, eq⟩ := Option.map_eq_some_iff.1 mark
  have marked : markKilled n.addr k.code l.addr n = { n with killed := true, kcode := k.code, klaunch := l.addr } := if_pos rfl
  rw [marked] at eq
  simp only [Prod.mk.injEq] at eq
  obtain ⟨-, killed, code, fault⟩ := eq
  refine ⟨t, m, runs, hm, killed, code, fault, fun y hy open_ => ?_⟩
  have member : y ∈ killSet { s with kills := r } n := by
    refine List.mem_filter.2 ⟨hy, ?_⟩
    rw [Bool.not_eq_true', ← Bool.not_eq_true, closes_iff]
    exact open_
  have left := killAll_killed k.code.toNat n.addr l.addr _ { s with kills := r } member
  have present := killAll_present k.code.toNat n.addr l.addr (killSet { s with kills := r } n) { s with kills := r } (j := y.id)
  generalize killAll k.code.toNat n.addr l.addr { s with kills := r } (killSet { s with kills := r } n) = u at ctxs launches left present
  refine ⟨fun c hc => (ctxsOf_nil_iff u y.id).1 left.ctxs c (ctxs ▸ hc), fun hl => ⟨fun unrecorded => ?_, fun gone => ?_⟩⟩
  · obtain ⟨z, hz⟩ := Option.isSome_iff_exists.1 (present unrecorded (Option.isSome_iff_exists.2 ⟨y, hl⟩))
    exact ⟨z, (getLaunch_congr launches y.id).trans hz, left.closes unrecorded z hz⟩
  · exact (getLaunch_congr launches y.id).trans (left.absent gone)

/-- With no kill due, a closing launch alone on the device gets its completion record. -/
theorem kill_closes (s : State) (l : Launch) (a b c d : Nat) (s1 : State) (kills : s.kills = []) (power : powered s = true)
    (alone : s.launches = [l]) (closing : l.stage = .closing a b c d) (writes : writeCompletion s l 0 a b c d = some s1) :
    exec .kill s = .next (recharge (dropLaunch s1 l.id)) := by
  show execKill s = _
  rw [execKill, power, kills]
  dsimp only
  rw [alone]
  show Host.Outcome.next (closeLaunch s l) = _
  rw [closeLaunch, closing]
  dsimp only
  rw [writes]
  rfl

end Sys2Proof.Proofs.ExecutionModel

end

section
/-! PROOFS. The ends of contexts, the retirement of a grid, and the settlement of O52 (R33, R50, R136, R155, R208, R226). -/

open Sys2Proof Sys2Proof.Machine

namespace Sys2Proof.Proofs.ExecutionModel

/-! ## Ends of contexts -/

section
variable {s : State} {x : Ctx} (own : getCtx s x.id = some x) (ends : x.mode = .ending) (childless : children s x = []) (power : powered s = true)
include own ends childless power

theorem exec_contextEnd : exec (.contextEnd x.id) s =
    if x.isGroup then endLanes s x
    else if x.level = 2 then (if matrixDone s x then .next (endBlock s x) else .next s)
    else if x.level = 3 then .next (dropCtx s x)
    else
      match getLaunch s x.launch with
      | some l => if taskMode s x then .next s else .next (retireGrid s x l)
      | none => .next s := by
  show execContextEnd x.id s = _
  rw [execContextEnd, own]
  dsimp only
  rw [ends, childless, power]
  rfl

theorem cluster_ends (group : x.isGroup = false) (level : x.level = 3) : exec (.contextEnd x.id) s = .next (dropCtx s x) := by
  rw [exec_contextEnd own ends childless power, group, level]
  rfl

theorem block_ends (group : x.isGroup = false) (level : x.level = 2) (mmas : matrixDone s x = true) :
    exec (.contextEnd x.id) s = .next (endBlock s x) := by
  rw [exec_contextEnd own ends childless power, group, level, mmas]
  rfl

theorem grid_ends (group : x.isGroup = false) (level : x.level = 4) {l : Launch} (found : getLaunch s x.launch = some l)
    (blocks : taskMode s x = false) : exec (.contextEnd x.id) s = .next (retireGrid s x l) := by
  rw [exec_contextEnd own ends childless power, group, level, found, blocks]
  rfl

theorem group_ends (group : x.isGroup = true) : exec (.contextEnd x.id) s = endLanes s x := by
  rw [exec_contextEnd own ends childless power, if_pos group]

end

/-- What a group's or task's end does once its stores and write-backs are done. -/
def afterRelease (s : State) (c x : Ctx) : Host.Outcome State Fault Refusal :=
  if !c.task then .next (endGroup s x)
  else if x.join = 0 then .next (modCtx s c.id (atPhase 1))
  else joinEnd s x

section
variable (s : State) {c x : Ctx}

theorem afterRelease_group (x : Ctx) (group : c.task = false) : afterRelease s c x = .next (endGroup s x) := by
  rw [afterRelease, group]
  rfl

theorem afterRelease_unlinked (task : c.task = true) (unlinked : x.join = 0) : afterRelease s c x = .next (modCtx s c.id (atPhase 1)) := by
  rw [afterRelease, task, if_neg (by decide), if_pos unlinked]

theorem afterRelease_linked (task : c.task = true) (linked : x.join ≠ 0) : afterRelease s c x = joinEnd s x := by
  rw [afterRelease, task, if_neg (by decide), if_neg linked]

end

/-- The state after the write-backs of a group's end, which an end that has sent its decrement does not repeat. -/
def afterSend (s : State) (x c : Ctx) : State := if scalarSent s x then s else released s c 4

theorem endLanes_release {s s1 : State} {x c1 c2 : Ctx} (idle : x.laneIdle = true) (phase : x.phase ≠ 1)
    (commits : commit s x = (s1, true)) (own1 : getCtx s1 x.id = some c1) (done : scalarSent s1 x = true ∨ ReleaseDone s1 c1 4)
    (own2 : getCtx (afterSend s1 x c1) x.id = some c2) : endLanes s x = afterRelease (afterSend s1 x c1) x c2 := by
  have steps : (if scalarSent s1 x then (s1, true) else releaseSteps s1 c1 4) = (afterSend s1 x c1, true) := by
    unfold afterSend
    by_cases sent : scalarSent s1 x = true
    · rw [if_pos sent, if_pos sent]
    · have self : getCtx s1 c1.id = some c1 := by rw [getCtx_id own1, own1]
      rw [if_neg sent, if_neg sent, ← releaseSteps_state]
      exact Prod.ext rfl ((releaseSteps_done self 4).2 (done.resolve_left sent))
  rw [endLanes, idle, commits]
  dsimp only
  rw [if_neg (by decide), if_neg phase, own1, Option.getD_some, steps]
  dsimp only
  rw [own2]
  rfl

theorem endLanes_counted {s : State} {x : Ctx} (own : getCtx s x.id = some x) (idle : x.laneIdle = true) (phase : x.phase = 1)
    (pushed : x.pushing = none) : endLanes s x = .next (addTask (endGroup s x) x.launch (· - 1)) := by
  rw [endLanes, idle, phase, pushHeld, pushed]
  dsimp only
  rw [own]
  rfl

theorem joinEnd_counts {s s1 : State} {c : Ctx} {p : Place} {pin : Bool} {push : Option (List Word)} (owing : c.owing = none)
    (place : joinPlace s c c.join = .ok p true pin) (steady : s.changing.contains ((getLaunch s c.launch).elim 0 Launch.asid) = false)
    (counts : joinDecrement s c c.join = .ok (s1, push)) :
    joinEnd s c = .next (modCtx s1 c.id (fun y => { y with phase := 1, pushing := push })) := by
  rw [joinEnd, owing]
  dsimp only
  rw [steady, place, counts]
  rfl

/-- The clauses of contexts that wait in their END. -/
theorem contexts_end (s : State) (x : Ctx) (own : getCtx s x.id = some x) (ends : x.mode = .ending) (childless : children s x = [])
    (power : powered s = true) :
    (x.isGroup = false → x.level = 3 → exec (.contextEnd x.id) s = .next (dropCtx s x)) ∧
      (x.isGroup = false → x.level = 2 → matrixDone s x = true → exec (.contextEnd x.id) s = .next (endBlock s x)) ∧
      (x.isGroup = false → x.level = 4 → ∀ l, getLaunch s x.launch = some l → taskMode s x = false →
        exec (.contextEnd x.id) s = .next (retireGrid s x l)) ∧
      (x.isGroup = true → x.laneIdle = true → x.phase ≠ 1 → ∀ s1 c1 c2, commit s x = (s1, true) → getCtx s1 x.id = some c1 →
        let s2 := if scalarSent s1 x then s1 else released s1 c1 4
        scalarSent s1 x = true ∨ ReleaseDone s1 c1 4 → getCtx s2 x.id = some c2 →
        (x.task = false → exec (.contextEnd x.id) s = .next (endGroup s2 c2)) ∧
        (x.task = true → c2.join = 0 → exec (.contextEnd x.id) s = .next (modCtx s2 x.id (fun y => { y with phase := 1 }))) ∧
        (x.task = true → c2.join ≠ 0 → c2.owing = none → ∀ p pin s3 push, joinPlace s2 c2 c2.join = .ok p true pin →
          s2.changing.contains ((getLaunch s2 c2.launch).elim 0 Launch.asid) = false → joinDecrement s2 c2 c2.join = .ok (s3, push) →
          exec (.contextEnd x.id) s = .next (modCtx s3 x.id (fun y => { y with phase := 1, pushing := push })))) ∧
      (x.isGroup = true → x.laneIdle = true → x.phase = 1 → x.pushing = none →
        exec (.contextEnd x.id) s = .next (addTask (endGroup s x) x.launch (· - 1))) := by
  refine ⟨cluster_ends own ends childless power, block_ends own ends childless power,
    fun group level l found => grid_ends own ends childless power group level found, ?_, ?_⟩
  · intro group idle phase s1 c1 c2 commits own1
    show scalarSent s1 x = true ∨ ReleaseDone s1 c1 4 → getCtx (afterSend s1 x c1) x.id = some c2 → _
    intro done own2
    rw [group_ends own ends childless power group, endLanes_release idle phase commits own1 done own2]
    refine ⟨afterRelease_group _ _, afterRelease_unlinked _, fun task linked owing p pin s3 push place steady counts => ?_⟩
    rw [afterRelease_linked _ task linked, ← getCtx_id own2]
    exact joinEnd_counts owing place steady counts
  · intro group idle phase pushed
    rw [group_ends own ends childless power group, endLanes_counted own idle phase pushed]

/-! ## Task grids -/

theorem taskGrid_retires (s : State) (l : Launch) (g : Ctx) (found : getLaunch s l.id = some l) (grid : gridOf s l.id = some g)
    (power : powered s = true) (tasks : taskMode s g = true) (ends : g.mode = .ending) (reached : l.gridEnd = true) :
    (l.tasks = 0 → exec (.gridRetire l.id) s = .next (retireGrid s g l)) ∧ (l.tasks ≠ 0 → exec (.gridRetire l.id) s = .next s) := by
  have runs : exec (.gridRetire l.id) s = if l.tasks = 0 then .next (retireGrid s g l) else .next s := by
    show execGridRetire l.id s = _
    rw [execGridRetire, found, grid]
    dsimp only
    rw [reached, tasks, ends, power]
    by_cases h : l.tasks = 0 <;> simp [h]
  exact ⟨fun h => runs.trans (if_pos h), fun h => runs.trans (if_neg h)⟩

/-! ## Retirement -/

/-- The number of successors of a launch. -/
def successors (l : Launch) : Nat := bits (l.words.getD 41 0) 3 0

section
variable {s : State} {g : Ctx} {l : Launch} (free : g.owing = none)
include free

theorem retireGrid_record (phase : g.phase = 0) {s1 : State} (writes : writeCompletion s l g.die 1 0 0 0 = some s1) :
    retireGrid s g l = modCtx s1 g.id (fun y => { y with phase := 1 }) := by
  rw [retireGrid, free, if_neg (by decide), if_pos phase, writes]
  rfl

theorem retireGrid_successor (begun : 0 < g.phase) (more : g.phase ≤ 2 * successors l) : retireGrid s g l = depStep s g l := by
  rw [retireGrid, free, if_neg (by decide), if_neg (Nat.ne_of_gt begun)]
  exact if_pos more

theorem retireGrid_frees (last : 2 * successors l < g.phase) :
    retireGrid s g l = recharge (dropLaunch (dropCtx (freeLaunch s l.id) g) l.id) := by
  rw [retireGrid, free, if_neg (by decide), if_neg (Nat.ne_of_gt (Nat.zero_lt_of_lt last))]
  exact if_neg (Nat.not_le.2 last)

end

theorem depStep_reads {s s1 : State} {g : Ctx} {l : Launch} {a : Nat} (steady : s.changing.contains l.asid = false) (odd : g.phase % 2 = 1)
    (reads : depAddress s g l ((g.phase - 1) / 2) = .done (a, s1)) :
    depStep s g l = modCtx s1 g.id (fun y => { y with join := a, phase := g.phase + 1 }) := by
  rw [depStep, steady]
  dsimp only
  rw [Bool.false_and, if_neg (by decide), if_pos odd, reads]
  rfl

theorem depStep_adds {s s1 : State} {g : Ctx} {l : Launch} (steady : s.changing.contains l.asid = false) (even : g.phase % 2 = 0)
    (adds : depAdd s g l.asid g.join = .done s1) : depStep s g l = modCtx s1 g.id (fun y => { y with phase := g.phase + 1 }) := by
  rw [depStep, steady]
  dsimp only
  rw [Bool.false_and, if_neg (by decide), if_neg (by omega), adds]
  rfl

/-! ### A successor's counter -/

theorem depAfter_mem (s : State) (place : Xlat) (addr : Nat) (v : Word) (die : BitVec 1) : (depAfter s place addr v die).mem = s.mem := by
  unfold depAfter
  dsimp only
  split
  · split <;> rfl
  · split
    · exact (pushError_sendsOnly ..).mem
    · rfl

theorem cacheRoom_mem (s : State) (v l : Nat) : (cacheRoom s v l).mem = s.mem := by
  unfold cacheRoom
  dsimp only
  split <;> rfl

theorem cacheTouch_mem (s : State) (l : Nat) (dirty : Bool) : (cacheTouch s l dirty).mem = s.mem := by
  unfold cacheTouch
  dsimp only
  split
  · rfl
  · exact cacheRoom_mem ..

theorem markWritten_mem (s : State) (p : Place) : (markWritten s p).mem = s.mem := by
  unfold markWritten
  split <;> rfl

/-- The counter at its home in this device or the host is one less. -/
theorem depAdd_counts {s : State} (g : Ctx) {asid : BitVec 16} {addr k : Nat} {w pin : Bool} (place : walk s asid addr = .ok (.here k) w pin)
    (home : lineReady s none (k / 128) = true) (hs : s.canonical) :
    ∃ t, depAdd s g asid addr = .done t ∧ readWord t k = readWord s k - 1 := by
  rw [depAdd, place]
  dsimp only
  rw [home]
  refine ⟨_, rfl, ?_⟩
  refine (readWord_congr (s := writeWord s k (readWord s k - 1)) (fun i _ => ?_)).trans (readWord_writeWord_same hs k _)
  rw [depAfter_mem, markWritten_mem, cacheTouch_mem]

/-! ### The frees -/

theorem clearTags_cores (n k : Nat) (s : State) : (clearTags s k n).cores = s.cores := by
  induction n generalizing k s with
  | zero => rfl
  | succ n ih => exact ih (k + 64) (setTag s k 0)

theorem foldl_clearTags_cores (key count : Run → Nat) (rs : List Run) (s : State) :
    (rs.foldl (fun s r => clearTags s (key r) (count r)) s).cores = s.cores :=
  List.foldlRecOn rs _ (motive := fun t : State => t.cores = s.cores) rfl (fun _ ht _ _ => (clearTags_cores ..).trans ht)

/-- No row of core `k` is one that `p` names. -/
def RowsFreed (p : Run → Bool) (s : State) (k : Nat) : Prop := ∀ r ∈ (getCore s k).rows, p r = false

theorem freeCoreRuns_cores (p : Run → Bool) (s : State) (k : Nat) : ∃ c, c.rows = (getCore s k).rows.filter (fun r => !p r) ∧
    (freeCoreRuns p s k).cores = s.cores.set k c := by
  generalize made : freeCoreRuns p s k = t
  unfold freeCoreRuns at made
  extract_lets c began rows s1 at made
  have same : s1.cores = s.cores := foldl_clearTags_cores (fun r => tileKey k r.first 0) (fun r => 32 * r.count) _ s
  simp only [setCore, same] at made
  rw [← made]
  refine ⟨_, ?_, rfl⟩
  rfl

theorem getCore_set (s : State) {t : State} {k : Nat} {c : Core} (h : t.cores = s.cores.set k c) (j : Nat) :
    getCore t j = if j = k ∧ k < s.cores.length then c else getCore s j := by
  rw [getCore, h]
  by_cases hj : j = k
  · subst hj
    by_cases inside : j < s.cores.length <;> simp [getCore, List.getD, inside]
  · simp [getCore, List.getD, hj, Ne.symm hj]

theorem freeCoreRuns_frees (p : Run → Bool) (s : State) {k : Nat} (hk : k < s.cores.length) : RowsFreed p (freeCoreRuns p s k) k := by
  obtain ⟨c, rows, cores⟩ := freeCoreRuns_cores p s k
  unfold RowsFreed
  rw [getCore_set s cores, if_pos ⟨rfl, hk⟩, rows]
  intro r hr
  simpa using (List.mem_filter.1 hr).2

theorem RowsFreed.freeCoreRuns {p : Run → Bool} {s : State} {j : Nat} (h : RowsFreed p s j) (k : Nat) : RowsFreed p (freeCoreRuns p s k) j := by
  obtain ⟨c, rows, cores⟩ := freeCoreRuns_cores p s k
  unfold RowsFreed
  rw [getCore_set s cores]
  split
  · next same =>
    intro r hr
    rw [rows, ← same.1] at hr
    exact h r (List.mem_filter.1 hr).1
  · exact h

theorem freeCoreRuns_length (p : Run → Bool) (s : State) (k : Nat) : (freeCoreRuns p s k).cores.length = s.cores.length := by
  obtain ⟨c, -, cores⟩ := freeCoreRuns_cores p s k
  rw [cores, List.length_set]

theorem freeCores_frees (p : Run → Bool) (ks : List Nat) (s : State) {k : Nat} (hk : k < s.cores.length) (named : k ∈ ks) :
    RowsFreed p (ks.foldl (freeCoreRuns p) s) k := by
  induction ks generalizing s with
  | nil => exact nomatch named
  | cons j r ih =>
    rw [List.foldl_cons]
    rcases List.mem_cons.1 named with rfl | later
    · exact List.foldlRecOn r _ (motive := fun t => RowsFreed p t k) (freeCoreRuns_frees p s hk) (fun t ht i _ => ht.freeCoreRuns i)
    · exact ih _ (freeCoreRuns_length p s j ▸ hk) later

theorem freeCores_length (p : Run → Bool) (ks : List Nat) (s : State) : (ks.foldl (freeCoreRuns p) s).cores.length = s.cores.length :=
  List.foldlRecOn ks _ (motive := fun t : State => t.cores.length = s.cores.length) rfl (fun t ht k _ => (freeCoreRuns_length p t k).trans ht)

theorem freeRuns_frees (p : Run → Bool) (s : State) {k : Nat} (hk : k < (freeRuns p s).cores.length) : RowsFreed p (freeRuns p s) k := by
  have inside : k < s.cores.length := freeCores_length p _ s ▸ hk
  exact freeCores_frees p _ s inside (List.mem_range.2 inside)

theorem freeVaultRuns_cores (l : Nat) (s : State) (v : Nat) : (freeVaultRuns l s v).cores = s.cores :=
  foldl_clearTags_cores (fun r => vaultKey v (r.first * 65536)) (fun r => 1024 * r.count) _ s

/-- A core that leaves its grid keeps its rows. -/
def leavesGrid (l : Nat) (c : Core) : Core := if c.grid = some l then c.leaveGrid else c

theorem leavesGrid_rows (l : Nat) (c : Core) : (leavesGrid l c).rows = c.rows := by
  unfold leavesGrid
  split <;> rfl

theorem freeLaunch_cores (s : State) (l : Nat) : (freeLaunch s l).cores = (freeRuns (fun r => r.owner = l) s).cores.map (leavesGrid l) :=
  congrArg (List.map (leavesGrid l)) (List.foldlRecOn _ _ (motive := fun t : State => t.cores = (freeRuns (fun r => r.owner = l) s).cores) rfl
    (fun t ht v _ => (freeVaultRuns_cores l t v).trans ht))

theorem freeLaunch_frees (s : State) (l : Nat) {k : Nat} (hk : k < (freeLaunch s l).cores.length) :
    ∀ r ∈ (getCore (freeLaunch s l) k).rows, r.owner ≠ l := by
  have cores := freeLaunch_cores s l
  have inside : k < (freeRuns (fun r => r.owner = l) s).cores.length := by rwa [cores, List.length_map] at hk
  have core : getCore (freeLaunch s l) k = leavesGrid l (getCore (freeRuns (fun r => r.owner = l) s) k) := by
    rw [getCore, cores, getCore]
    simp [List.getD, inside]
  rw [core, leavesGrid_rows]
  exact fun r hr => of_decide_eq_false (freeRuns_frees (fun r => r.owner = l) s inside r hr)

theorem dropCtx_cores (s : State) (c : Ctx) : (dropCtx s c).cores = s.cores := by
  unfold dropCtx
  cases c.parent with
  | none => rfl
  | some p => exact modCtx_cores s p _

theorem getCtx_dropCtx_self (s : State) (c : Ctx) : getCtx (dropCtx s c) c.id = none := by
  refine List.find?_eq_none.2 (fun x hx => ?_)
  have gone := (List.mem_filter.1 hx).2
  simpa using gone

/-- After its last step a grid, its launch and every row that the launch owned are gone. -/
theorem retireGrid_leaves {s : State} {g : Ctx} {l : Launch} (free : g.owing = none) (last : 2 * successors l < g.phase) :
    ∃ t, retireGrid s g l = t ∧ getLaunch t l.id = none ∧ getCtx t g.id = none ∧
      ∀ k, k < t.cores.length → ∀ r ∈ (getCore t k).rows, r.owner ≠ l.id := by
  rw [retireGrid_frees free last]
  have charges := recharge_chargesOnly (dropLaunch (dropCtx (freeLaunch s l.id) g) l.id)
  have cores : (recharge (dropLaunch (dropCtx (freeLaunch s l.id) g) l.id)).cores = (freeLaunch s l.id).cores :=
    charges.cores.trans (dropCtx_cores (freeLaunch s l.id) g)
  refine ⟨_, rfl, (getLaunch_recharge ..).trans (getLaunch_dropLaunch_same ..), ?_, fun k hk r hr => ?_⟩
  · rw [getCtx, charges.ctxs]
    exact getCtx_dropCtx_self ..
  · rw [cores] at hk
    rw [getCore, cores] at hr
    exact freeLaunch_frees s l.id hk r hr

/-- The steps of a grid's retirement. -/
theorem retirement (s : State) (g : Ctx) (l : Launch) (free : g.owing = none) : let n := bits (l.words.getD 41 0) 3 0
    (g.phase = 0 → ∀ s1, writeCompletion s l g.die 1 0 0 0 = some s1 → retireGrid s g l = modCtx s1 g.id (fun y => { y with phase := 1 })) ∧
      (0 < g.phase → g.phase ≤ 2 * n → s.changing.contains l.asid = false →
        (g.phase % 2 = 1 → ∀ a s1, depAddress s g l ((g.phase - 1) / 2) = .done (a, s1) →
          retireGrid s g l = modCtx s1 g.id (fun y => { y with join := a, phase := g.phase + 1 })) ∧
        (g.phase % 2 = 0 → ∀ s1, depAdd s g l.asid g.join = .done s1 →
          retireGrid s g l = modCtx s1 g.id (fun y => { y with phase := g.phase + 1 }))) ∧
      (∀ addr k w pin, walk s l.asid addr = .ok (.here k) w pin → lineReady s none (k / 128) = true → s.canonical →
        ∃ t, depAdd s g l.asid addr = .done t ∧ readWord t k = readWord s k - 1) ∧
      (2 * n < g.phase → ∃ t, retireGrid s g l = t ∧ getLaunch t l.id = none ∧ getCtx t g.id = none ∧
        ∀ k, k < t.cores.length → ∀ r ∈ (getCore t k).rows, r.owner ≠ l.id) := by
  refine ⟨fun phase s1 writes => retireGrid_record free phase writes, fun begun more steady => ⟨fun odd a s1 reads => ?_, fun even s1 adds => ?_⟩,
    fun addr k w pin place home hs => depAdd_counts g place home hs, retireGrid_leaves free⟩
  · exact (retireGrid_successor free begun more).trans (depStep_reads steady odd reads)
  · exact (retireGrid_successor free begun more).trans (depStep_adds steady even adds)

/-- Settles O52, clause by clause: placement, the ends of contexts and grids, and the kill. -/
theorem launchLife : Obligations.LaunchLife := by
  refine ⟨fun s x found power => ?_, nextTokens_block, ⟨contexts_end, taskGrid_retires, retirement⟩, kill_acts, kill_closes⟩
  refine ⟨exec_placement_stays found power, fun waits no_test first => ?_, fun first => ?_, fun r notes depends => ?_, exec_lattolExpiry found power⟩
  · rw [exec_placement_goes found power waits no_test first]
    refine ⟨fun none_fits unplaceable => ?_, fun none_fits later => ?_, fun n fit => placementOf_short fit, fun n fit enough tasks gens => ?_,
      fun n p fit enough blocks plan gens => ?_⟩
    · rw [placementOf_none none_fits, unplaceable]
      rfl
    · rw [placementOf_none none_fits, if_neg (fun none_empty => later (Option.isNone_iff_eq_none.1 none_empty))]
    · exact ⟨placementOf_tasks fit enough tasks gens, placeTasks_makes found _⟩
    · exact ⟨placementOf_grid fit enough blocks plan gens, placeGrid_makes found n p⟩
  · have runs := exec_tokenGrant found power (heldBack_false first)
    exact ⟨fun some_wanted room => runs.trans (if_neg (by rintro (none_wanted | short) <;> omega)), fun none_ => runs.trans (if_pos none_)⟩
  · exact exec_depNotification found notes depends

end Sys2Proof.Proofs.ExecutionModel

end

section
/-! PROOFS. The scalar register file and the step of a context with one path (O10). -/

open Sys2Proof Sys2Proof.Machine

namespace Sys2Proof.Proofs.Registers

/-! ## Writing and reading a scalar (R57, R59, R347) -/

theorem sreg_lower (c : Ctx) {n : Nat} (h : n < 252) : c.sreg n = sget 0 c.sregs n := if_pos h
theorem sreg_path (c : Ctx) {n : Nat} (h : ¬ n < 252) : c.sreg n = c.path.priv.getD (n - 252) 0 := if_neg h

theorem setSreg_lower (c : Ctx) {d : Nat} (h : d < 252) (v : Word) :
    c.setSreg d v = { c with sregs := sput 0 c.sregs d v, sregBad := c.sregBad.filter (· ≠ c.sregKey d) } := if_pos h

theorem setSreg_path (c : Ctx) {d : Nat} (h : ¬ d < 252) (v : Word) : c.setSreg d v =
    { c.setPath { c.path with priv := c.path.priv.set (d - 252) v } with sregBad := c.sregBad.filter (· ≠ c.sregKey d) } := if_neg h

theorem path_setPath {c : Ctx} (h : c.run < c.paths.length) (p : PathEntry) : (c.setPath p).path = p := by
  simp [Ctx.path, Ctx.setPath, h]

theorem getD_setPath_other {c : Ctx} {j : Nat} (h : j ≠ c.run) (p : PathEntry) :
    (c.setPath p).paths.getD j defaultPath = c.paths.getD j defaultPath := by
  simp [Ctx.setPath, List.getD, h.symm]

theorem sreg_setSreg {c : Ctx} {d n : Nat} (hd : d < 256) (runs : c.run < c.paths.length) (four : c.path.priv.length = 4)
    (wf : sparseWf 0 c.sregs = true) (v : Word) : (c.setSreg d v).sreg n = if n = d then v else c.sreg n := by
  by_cases lower : d < 252
  · rw [setSreg_lower c lower]
    by_cases hn : n < 252
    · rw [sreg_lower _ hn, sreg_lower _ hn]
      split
      · next e => rw [e, sget_sput_same 0 _ _ _ wf]
      · next e => rw [sget_sput_other 0 _ _ _ _ wf e]
    · rw [if_neg (by omega), sreg_path _ hn, sreg_path _ hn]
      rfl
  · rw [setSreg_path c lower]
    by_cases hn : n < 252
    · rw [if_neg (by omega), sreg_lower _ hn, sreg_lower _ hn]
      rfl
    · rw [sreg_path _ hn, sreg_path _ hn]
      show (c.setPath _).path.priv.getD (n - 252) 0 = _
      rw [path_setPath runs]
      split
      · next e => simp [List.getD, e, show d - 252 < c.path.priv.length by omega]
      · next e => simp [List.getD, show d - 252 ≠ n - 252 by omega]

theorem sregUe_setSreg (c : Ctx) (d : Nat) (v : Word) : (c.setSreg d v).sregUe d = false := by
  have marks : (c.setSreg d v).sregBad = c.sregBad.filter (· ≠ c.sregKey d) := by
    by_cases lower : d < 252
    · rw [setSreg_lower c lower]
    · rw [setSreg_path c lower]
  have key : (c.setSreg d v).sregKey d = c.sregKey d := by simp [Ctx.sregKey]
  simp [Ctx.sregUe, marks, key]

theorem sparseWf_setSreg {c : Ctx} (wf : sparseWf 0 c.sregs = true) (d : Nat) (v : Word) : sparseWf 0 (c.setSreg d v).sregs = true := by
  by_cases lower : d < 252
  · rw [setSreg_lower c lower]
    exact sparseWf_sput 0 _ _ _ wf
  · rw [setSreg_path c lower]
    exact wf

theorem setSreg_otherPath {c : Ctx} {j : Nat} (h : j ≠ c.run) (d : Nat) (v : Word) :
    (c.setSreg d v).paths.getD j defaultPath = c.paths.getD j defaultPath := by
  by_cases lower : d < 252
  · rw [setSreg_lower c lower]
  · rw [setSreg_path c lower]
    exact getD_setPath_other h _

/-! ## One path and no meeting point: nothing but the pc moves (R44, R48, R157) -/

theorem onePath_getD {c : Ctx} (h : c.onePath) (j : Nat) : (c.paths.getD j defaultPath).state = 0 ∨ j = c.run := by
  obtain ⟨_, _, free⟩ := h
  by_cases hj : j < c.paths.length
  · by_cases hr : j = c.run
    · exact .inr hr
    · exact .inl (free j hj hr)
  · left
    rw [List.getD_eq_default _ _ (by omega)]
    rfl

theorem onePath_state {c : Ctx} (h : c.onePath) (j : Nat) :
    (c.paths.getD j defaultPath).state = 0 ∨ (c.paths.getD j defaultPath).state = 1 := by
  obtain free | rfl := onePath_getD h j
  · exact .inl free
  · exact .inr h.1

theorem ageOthers_onePath {c : Ctx} (h : c.onePath) : c.ageOthers = c := by
  have same : c.ageOthers.paths = c.paths := by
    refine List.ext_getElem (by simp [Ctx.ageOthers]) fun j hj hj' => ?_
    obtain free | rfl := onePath_getD h j
    · simp_all [Ctx.ageOthers, List.getD]
    · simp [Ctx.ageOthers, List.getD, hj']
  exact congrArg (fun ps => { c with paths := ps }) same

theorem poolReady_onePath {c : Ctx} (h : c.onePath) (i : Nat) : c.poolReady i = false := by
  have waits : (c.paths.getD i defaultPath).state ≠ 3 := by
    obtain e | e := onePath_state h i <;> rw [e] <;> decide
  unfold Ctx.poolReady
  simp only [waits, decide_false, Bool.false_and]
  split <;> rfl

theorem mergeAll_onePath {c : Ctx} (h : c.onePath) (n : Nat) : c.mergeAll n = c := by
  cases n with
  | zero => rfl
  | succ n =>
    have none_ready : (List.range c.paths.length).find? (fun i => c.poolReady i) = none :=
      List.find?_eq_none.2 fun i _ => by simp [poolReady_onePath h]
    rw [Ctx.mergeAll, none_ready]

theorem arrive_noMeets {c : Ctx} (h : c.path.meets = []) : c.arrive = c := by simp [Ctx.arrive, h]

theorem ageSwitch_onePath {c : Ctx} (h : c.onePath) : c.ageSwitch = c := by
  have ready : c.paths.any (fun p => p.state = 2 && c.agelim.toNat ≤ p.age.toNat) = false := by
    refine List.any_eq_false.2 fun p hp => ?_
    obtain ⟨j, hj, rfl⟩ := List.getElem_of_mem hp
    have state := onePath_state h j
    rw [List.getD_eq_getElem _ _ hj] at state
    obtain e | e := state <;> simp [e]
  rw [Ctx.ageSwitch, ready, Bool.and_false, if_neg Bool.false_ne_true]

theorem reschedule_onePath {c : Ctx} (h : c.onePath) (ageing : Bool) : c.reschedule ageing = c := by
  simp only [Ctx.reschedule, arrive_noMeets h.2.1, mergeAll_onePath h, h.1, if_true, ageSwitch_onePath h, ite_self]

theorem countIssue_onePath {c : Ctx} (h : c.onePath) (group : c.isGroup = true) {sp : CtrlSpec} (counted : sp.counted = false) :
    c.countIssue sp = { c with regionLen := c.regionLen + (if sp.sp.isNone then 1 else 0), issues := c.issues + 1 } := by
  simp [Ctx.countIssue, group, counted, ageOthers_onePath h]

theorem setPc_onePath {c : Ctx} (h : c.onePath) (runs : c.run < c.paths.length) (pc : Pc) : (c.setPc pc).onePath := by
  obtain ⟨state, meets, free⟩ := h
  refine ⟨?_, ?_, fun j hj hr => ?_⟩
  · rw [Ctx.setPc, path_setPath runs]
    exact state
  · rw [Ctx.setPc, path_setPath runs]
    exact meets
  · rw [Ctx.setPc, getD_setPath_other (c := c) hr]
    exact free j (by simpa [Ctx.setPc, Ctx.setPath] using hj) hr

/-- After a control instruction without S the running path stands at its pc, and a group's region is one word longer. -/
theorem advance_onePath {c : Ctx} {sp : CtrlSpec} (h : c.onePath) (runs : c.run < c.paths.length) (live : sp.sp = none)
    (counted : sp.counted = false) (pc : Pc) (k : Nat) :
    (c.advance sp pc k).path = { c.path with pc := pc } ∧ (c.advance sp pc k).run = c.run ∧
      (c.advance sp pc k).regionLen = c.regionLen + (if c.isGroup then 1 else 0) := by
  have moved : (c.setPc pc).path = { c.path with pc := pc } := path_setPath runs _
  cases group : c.isGroup with
  | false =>
    simp only [Ctx.advance, group, Bool.false_eq_true, if_false]
    exact ⟨moved, rfl, rfl⟩
  | true =>
    have one : ({ c.setPc pc with phase := 0 } : Ctx).onePath := setPc_onePath h runs pc
    have step : c.advance sp pc k = { c.setPc pc with phase := 0, regionLen := c.regionLen + 1, issues := c.issues + 1 } := by
      simp only [Ctx.advance, group, if_true, live]
      rw [countIssue_onePath one group counted, live]
      exact reschedule_onePath (c := { c.setPc pc with phase := 0, regionLen := c.regionLen + 1, issues := c.issues + 1 }) one _
    rw [step]
    exact ⟨moved, rfl, rfl⟩

/-- Settles O10. -/
theorem scalarRegisterFile : Obligations.ScalarRegisterFile := by
  refine ⟨fun c d n v hd _ runs four wf => ⟨sreg_setSreg hd runs four wf v, sregUe_setSreg c d v, sparseWf_setSreg wf d v,
    fun _ _ _ _ _ _ _ => rfl, fun j hj => setSreg_otherPath hj d v⟩, fun c sp pc k one runs live counted => ?_⟩
  exact advance_onePath one runs live counted pc k

end Sys2Proof.Proofs.Registers

end

section
/-! PROOFS. System registers, and the instructions that trap or check (O24, O25, O26). -/

open Sys2Proof Sys2Proof.Machine
open Sys2Proof.Proofs.ExecutionModel (runCtrl_executes finishCtrl_done finishCtrl_wait finishCtrl_fault finishCtrl_suspend_setCtx
  executes_id)

namespace Sys2Proof.Proofs.Registers

section
variable {sp : Option Word} {s s1 : State} {c c1 : Ctx}

/-! ## GETSR (R69 to R72, R232) -/

theorem exec_getsr {d : Reg} (m : BitVec 16) (h : Executes (scalarSpec sp false d) s c s1 c1) :
    exec (.getsr sp d m) s = .next (completed (scalarSpec sp false d) c
      (setCtx s1 ((latchHigh s1 c1 m.toNat).setSreg d.toNat (sysRead s1 c1 m.toNat))) none) := by
  show execGetsr sp d m s = _
  rw [execGetsr, runCtrl_executes h rfl rfl, finishCtrl_done]

/-- No register but TIMELO and WCTLO latches anything (R71). -/
theorem latchHigh_other (s : State) (c : Ctx) {m : BitVec 16} (timelo : m ≠ 0x00C) (wctlo : m ≠ 0x00E) : latchHigh s c m.toNat = c := by
  have t : m.toNat ≠ 0x00C := fun e => timelo (BitVec.eq_of_toNat_eq e)
  have w : m.toNat ≠ 0x00E := fun e => wctlo (BitVec.eq_of_toNat_eq e)
  rw [latchHigh, if_neg t, if_neg w]

/-- LOOPIX reads the top entry of the loop stack (R72). -/
theorem sysRead_loopix (s : State) {c : Ctx} {ls : List (Word × Pc)} {n : Word} {top : Pc} (h : c.loops = ls ++ [(n, top)]) :
    sysRead s c 0x014 = n := by simp [sysRead, h]

theorem sysRead_loopix_none (s : State) {c : Ctx} (h : c.loops = []) : sysRead s c 0x014 = 0 := by simp [sysRead, h]

theorem sysRead_sigreg (s : State) {c : Ctx} (h : c.isGroup = true) : sysRead s c 0x030 = c.path.sig := by simp [sysRead, h]

/-! ## SETSR (R70, R77, R78, R81, R232) -/

/-- What SETSR does once none of the checks of R189 stops it. -/
def setsrEffect (d : Reg) (m : BitVec 16) (s : State) (c : Ctx) : Act :=
  let v := c.sreg d.toNat
  if c.isGroup && [0x020, 0x024, 0x030].contains m.toNat && !c.laneIdle then .wait s
  else if c.isGroup && m.toNat = 0x020 && (v.setWidth 2 = (0 : BitVec 2) || v.setWidth 2 = (3 : BitVec 2)) then
    .fault s ILLEGAL 0
  else .done (sysWrite s c m.toNat v) none

theorem exec_setsr (m : BitVec 16) (d : Reg) (h : Executes (plainSpec sp allLevels) s c s1 c1) :
    exec (.setsr sp d m) s = finishCtrl c.id (plainSpec sp allLevels) c.pc c.pc.toNat (setsrEffect d m s1 c1) :=
  runCtrl_executes h (illegal := fun _ _ => false) rfl rfl (setsrEffect d m)

/-- The registers whose write in a group waits for the lane stream: NBV, STALEPOL and SIGREG (R232). -/
def waitsForLanes (m : BitVec 16) : Prop := m = 0x020 ∨ m = 0x024 ∨ m = 0x030

theorem waitsForLanes_iff (m : BitVec 16) : waitsForLanes m ↔ [0x020, 0x024, 0x030].contains m.toNat = true := by
  simp [waitsForLanes, BitVec.toNat_eq]

theorem exec_setsr_waits {m : BitVec 16} (d : Reg) (h : Executes (plainSpec sp allLevels) s c s1 c1) (group : c1.isGroup = true)
    (waits : waitsForLanes m) (busy : c1.laneIdle = false) : exec (.setsr sp d m) s = .next s1 := by
  rw [exec_setsr m d h, setsrEffect]
  simp only [group, (waitsForLanes_iff m).1 waits, busy, Bool.and_self, Bool.not_false, if_true, finishCtrl_wait]

/-- NBV has the values 1 and 2 (R77). -/
def badNbv (v : Word) : Bool := v.setWidth 2 = (0 : BitVec 2) || v.setWidth 2 = (3 : BitVec 2)

/-- Where the lane stream is idle as far as the register asks for it, and NBV takes a value that it has, the write is made. -/
theorem exec_setsr_done {m : BitVec 16} {d : Reg} (h : Executes (plainSpec sp allLevels) s c s1 c1)
    (ready : c1.isGroup = false ∨ ¬ waitsForLanes m ∨ c1.laneIdle = true)
    (legal : c1.isGroup = false ∨ m ≠ 0x020 ∨ badNbv (c1.sreg d.toNat) = false) :
    exec (.setsr sp d m) s = .next (completed (plainSpec sp allLevels) c (sysWrite s1 c1 m.toNat (c1.sreg d.toNat)) none) := by
  rw [exec_setsr m d h, setsrEffect]
  have stays : (c1.isGroup && [0x020, 0x024, 0x030].contains m.toNat && !c1.laneIdle) = false := by
    rw [waitsForLanes_iff] at ready
    obtain e | e | e := ready
    · rw [e]; rfl
    · rw [Bool.not_eq_true] at e; rw [e, Bool.and_false, Bool.false_and]
    · rw [e, Bool.not_true, Bool.and_false]
  have faults : (c1.isGroup && decide (m.toNat = 0x020) && badNbv (c1.sreg d.toNat)) = false := by
    obtain e | e | e := legal
    · rw [e]; rfl
    · rw [decide_eq_false (fun n : m.toNat = 0x020 => e (BitVec.eq_of_toNat_eq n)), Bool.and_false, Bool.false_and]
    · rw [e, Bool.and_false]
  rw [badNbv] at faults
  simp only [stays, faults, Bool.false_eq_true, if_false, finishCtrl_done]

theorem exec_setsr_illegal {d : Reg} (h : Executes (plainSpec sp allLevels) s c s1 c1) (group : c1.isGroup = true)
    (idle : c1.laneIdle = true) (bad : badNbv (c1.sreg d.toNat) = true) :
    exec (.setsr sp d 0x020) s = .next (takeFault s1 c1 ILLEGAL none false c.pc.toNat 0) := by
  rw [exec_setsr _ d h, setsrEffect]
  have faults : (c1.isGroup && decide ((0x020 : BitVec 16).toNat = 0x020) && badNbv (c1.sreg d.toNat)) = true := by
    rw [group, bad]; rfl
  rw [badNbv] at faults
  simp only [idle, Bool.not_true, Bool.and_false, Bool.false_eq_true, faults, if_false, if_true]
  exact finishCtrl_fault h.own _ _ _

/-- The other registers are read-only (R70). -/
theorem sysWrite_readOnly (s : State) (c : Ctx) {m : BitVec 16} (nbv : m ≠ 0x020) (agelim : m ≠ 0x021) (stalepol : m ≠ 0x024)
    (sigreg : m ≠ 0x030) (v : Word) : sysWrite s c m.toNat v = s := by
  unfold sysWrite
  split
  · next e => exact absurd (BitVec.eq_of_toNat_eq e) nbv
  · next e => exact absurd (BitVec.eq_of_toNat_eq e) agelim
  · next e => exact absurd (BitVec.eq_of_toNat_eq e) stalepol
  · next e => exact absurd (BitVec.eq_of_toNat_eq e) sigreg
  · rfl

theorem sysWrite_sequencer (s : State) {c : Ctx} (h : c.isGroup = false) {m : BitVec 16} (hm : m = 0x020 ∨ m = 0x021 ∨ m = 0x030)
    (v : Word) : sysWrite s c m.toNat v = s := by
  obtain rfl | rfl | rfl := hm <;> simp [sysWrite, h]

theorem sysWrite_stalepol_group (s : State) {c : Ctx} (h : c.isGroup = true) (v : Word) : sysWrite s c 0x024 v =
    setPolicy (setCtx s { c with polReg := v.getLsbD 0 }) c.id [1] (v.getLsbD 0) := by simp [sysWrite, h]

theorem isGroup_of_level {c : Ctx} {l : BitVec 3} (h : c.level = l) (other : (l == 1) = false) : c.isGroup = false := by
  rw [Ctx.isGroup, h, other]

/-- NBV is sound where it is 1 or 2, and not where it is 0 or 3. -/
theorem badNbv_values (v : Word) : (v.setWidth 2 = (1 : BitVec 2) ∨ v.setWidth 2 = (2 : BitVec 2) → badNbv v = false) ∧
    (v.setWidth 2 = (0 : BitVec 2) ∨ v.setWidth 2 = (3 : BitVec 2) → badNbv v = true) := by
  constructor <;> rintro (e | e) <;> rw [badNbv, e] <;> rfl

/-! ## TRAP, BRK and SIGCHK (R233, R234) -/

theorem exec_trap (m : BitVec 16) (h : Executes (groupSpec sp false []) s c s1 c1) :
    exec (.trap sp m) s = .next (takeFault s1 c1 TRAP none false c.pc.toNat (m.setWidth 32)) := by
  show execTrap sp m s = _
  rw [execTrap, runCtrl_executes h rfl rfl, finishCtrl_fault h.own]

theorem exec_brk_faults (m : BitVec 16) (h : Executes (groupSpec sp false []) s c s1 c1) (free : c1.haltOnBreak = false) :
    exec (.brk sp m) s = .next (takeFault s1 c1 BRK none false c.pc.toNat (m.setWidth 32)) := by
  show execBrk sp m s = _
  rw [execBrk, runCtrl_executes h rfl rfl]
  simp only [free, Bool.false_eq_true, if_false]
  exact finishCtrl_fault h.own _ _ _

theorem exec_brk_halts (m : BitVec 16) (h : Executes (groupSpec sp false []) s c s1 c1) (held : c1.haltOnBreak = true) :
    exec (.brk sp m) s = .next (setCtx s1
      (({ c1 with mode := .halted (wordsOf false sp) } : Ctx).countIssue (groupSpec sp false []))) := by
  show execBrk sp m s = _
  rw [execBrk, runCtrl_executes h rfl rfl]
  rw [if_pos held, finishCtrl_suspend_setCtx h.own]
  show c1.id = c.id
  exact executes_id h

theorem exec_debugResume_replays {t : State} {x : Ctx} {len : Nat} (found : getCtx t x.id = some x) (halted : x.mode = .halted len)
    (cancelled : x.cancelled = true) : exec (.debugResume x.id) t = .next (setCtx t { x with mode := .page 0 }) := by
  show execDebugResume x.id t = _
  simp only [execDebugResume, found, halted, cancelled, if_true]

theorem exec_debugResume_goes {t : State} {x : Ctx} {len : Nat} (found : getCtx t x.id = some x) (halted : x.mode = .halted len)
    (cancelled : x.cancelled = false) : exec (.debugResume x.id) t = .next (setCtx t (({ x with mode := .run } : Ctx).advance
      { len := len, sp := if 1 < len then x.live else none, levels := groupLevels, counted := true }
      (x.pc + BitVec.ofNat 24 len) t.nextId)) := by
  show execDebugResume x.id t = _
  simp only [execDebugResume, found, halted, cancelled, Bool.false_eq_true, if_false]

theorem exec_sigchk_equal {lit : Word} (h : Executes (groupSpec sp true []) s c s1 c1) (same : c1.path.sig = lit) :
    exec (.sigchk sp lit) s = .next (completed (groupSpec sp true []) c
      (setCtx s1 (c1.setPath { c1.path with sig := 0xFFFFFFFF })) none) := by
  show execSigchk sp lit s = _
  rw [execSigchk, runCtrl_executes h rfl rfl]
  simp only [same, if_true, finishCtrl_done]

theorem exec_sigchk_differs {lit : Word} (h : Executes (groupSpec sp true []) s c s1 c1) (differs : c1.path.sig ≠ lit) :
    exec (.sigchk sp lit) s = .next (takeFault s1 c1 SIG none false c.pc.toNat 0) := by
  show execSigchk sp lit s = _
  rw [execSigchk, runCtrl_executes h rfl rfl]
  simp only [differs, if_false]
  exact finishCtrl_fault h.own _ _ _

end

/-- Settles O24. -/
theorem systemRegisterReads : Obligations.SystemRegisterReads := by
  intro sp d m s c s1 c1 h
  exact ⟨exec_getsr m h, rfl, rfl, rfl, rfl, fun ls n top e => sysRead_loopix s1 e, sysRead_loopix_none s1, sysRead_sigreg s1, rfl, rfl,
    rfl, rfl, rfl, latchHigh_other s1 c1⟩

/-- Settles O25. -/
theorem systemRegisterWrites : Obligations.SystemRegisterWrites := by
  refine ⟨fun sp d m s c s1 c1 h => ⟨exec_setsr_waits d h, ?_, ?_, ?_, ?_, ?_⟩, fun sp d s c s1 c1 h => ⟨?_, ?_, ?_, ?_⟩⟩
  · rintro group idle rfl
    refine ⟨fun ok => ?_, fun bad => exec_setsr_illegal h group idle ((badNbv_values _).2 bad)⟩
    rw [exec_setsr_done h (.inr (.inr idle)) (.inr (.inr ((badNbv_values _).1 ok)))]
    simp [sysWrite, group]
  · rintro group rfl
    rw [exec_setsr_done h (.inr (.inl (by simp [waitsForLanes]))) (.inr (.inl (by decide)))]
    simp [sysWrite, group, bits]
  · rintro group idle rfl
    rw [exec_setsr_done h (.inr (.inr idle)) (.inr (.inl (by decide)))]
    simp [sysWrite, group]
  · rintro sequencer hm
    rw [exec_setsr_done h (.inl sequencer) (.inl sequencer), sysWrite_sequencer s1 sequencer hm]
  · rintro nbv agelim stalepol sigreg
    rw [exec_setsr_done h (.inr (.inl ?_)) (.inr (.inl nbv)), sysWrite_readOnly s1 c1 nbv agelim stalepol sigreg]
    rintro (e | e | e)
    exacts [nbv e, stalepol e, sigreg e]
  · intro group idle
    rw [exec_setsr_done h (.inr (.inr idle)) (.inr (.inl (by decide)))]
    exact congrArg (fun t => Host.Outcome.next (completed _ c t none)) (sysWrite_stalepol_group s1 group _)
  · intro block
    have sequencer := isGroup_of_level block rfl
    rw [exec_setsr_done h (.inl sequencer) (.inl sequencer)]
    simp [sysWrite, sequencer, block]
  · intro grid
    have sequencer := isGroup_of_level grid rfl
    rw [exec_setsr_done h (.inl sequencer) (.inl sequencer)]
    simp [sysWrite, sequencer, grid, setVaultPolicy]
  · intro cluster
    have sequencer := isGroup_of_level cluster rfl
    rw [exec_setsr_done h (.inl sequencer) (.inl sequencer)]
    simp [sysWrite, sequencer, cluster]

/-- Settles O26. -/
theorem softwareTraps : Obligations.SoftwareTraps := by
  refine ⟨fun sp m s c s1 c1 h => ⟨exec_trap m h, exec_brk_faults m h, exec_brk_halts m h⟩, fun t x len found halted =>
    ⟨exec_debugResume_replays found halted, exec_debugResume_goes found halted⟩, fun sp lit s c s1 c1 h =>
    ⟨exec_sigchk_equal h, exec_sigchk_differs h⟩⟩

end Sys2Proof.Proofs.Registers

end

section
/-! PROOFS. Taking a fault, and the entry to the trap segment (O27). -/

open Sys2Proof Sys2Proof.Machine
open Sys2Proof.Proofs.ExecutionModel (getCtx_setCtx_same pushError_sendsOnly)

namespace Sys2Proof.Proofs.Registers

/-! ## What the suspension's end and the record leave (R221, R339) -/

/-- A suspension's end writes its object alone. -/
theorem dropWait_mem (s : State) (c : Ctx) : dropWait s c = { s with mem := (dropWait s c).mem } := by
  unfold dropWait modWaiters
  split
  · dsimp only
    split <;> rfl
  · rfl

theorem getCtx_dropWait (s : State) (c : Ctx) (j : Nat) : getCtx (dropWait s c) j = getCtx s j := by rw [dropWait_mem]; rfl
theorem dropWait_kills (s : State) (c : Ctx) : (dropWait s c).kills = s.kills := by rw [dropWait_mem]

theorem pushError_kills (s : State) (r : List Word) : (pushError s r).kills = s.kills := by rw [pushError_sendsOnly s r]

/-! ## Fatal faults (R335, R339) -/

theorem fatal_kills (s : State) (c : Ctx) (code : Nat) (lane : Option Nat) (pc : Word) :
    (fatal s c code lane pc).kills = s.kills ++ [⟨c.launch, BitVec.ofNat 8 code⟩] := by
  show (ctxError _ c 3 code lane 0 pc 0).kills ++ _ = _
  rw [ctxError, pushError_kills, setCtx_kills, dropWait_kills]

theorem getCtx_fatal {s : State} {c c0 : Ctx} (found : getCtx s c.id = some c0) (code : Nat) (lane : Option Nat) (pc : Word) :
    getCtx (fatal s c code lane pc) c.id = some { c with mode := .faulted } := by
  show (ctxError _ c 3 code lane 0 pc 0).ctxs.find? _ = _
  rw [ctxError, (pushError_sendsOnly _ _).ctxs]
  exact getCtx_setCtx_same (c := { c with mode := .faulted }) ((getCtx_dropWait s c c.id).trans found)

/-! ## Which way a fault goes (R335, R337, R338) -/

/-- A fault that stops the scalar stream of `c` for its trap segment. -/
structure Traps (s : State) (c : Ctx) (code : Nat) : Prop where
  group : c.isGroup = true
  eligible : handlerEligible code = true
  segment : trapSegOf s c ≠ 0xFFFF
  committed : c.armed = false
  free : c.mode ≠ .trap

theorem handlerEligible_iff (code : Nat) :
    handlerEligible code = true ↔ code = 0x08 ∨ code = 0x09 ∨ code = 0x15 ∨ code = 0x16 := by
  simp [handlerEligible, BOUNDS, STALE, TRAP, BRK]

section
variable {s : State} {c : Ctx} {code : Nat} (lane : Option Nat) (lst : Bool) (off : Nat) (addr : Word)

theorem takeFault_traps (h : Traps s c code) : takeFault s c code lane lst off addr =
    setCtx (dropWait s c) ((c.recordFault code lane (trapPcOf lst off) addr).stopForTrap lst) := by
  obtain ⟨group, eligible, segment, committed, free⟩ := h
  simp [takeFault, group, eligible, segment, committed, free]

theorem takeFault_group (group : c.isGroup = true) (h : ¬ Traps s c code) : takeFault s c code lane lst off addr =
    fatal s (c.recordFault code lane (trapPcOf lst off) addr) code lane (trapPcOf lst off) := by
  have stays : ¬ (handlerEligible code && trapSegOf s c ≠ 0xFFFF && !c.armed && c.mode ≠ .trap) = true := by
    intro goes
    simp only [Bool.and_eq_true, decide_eq_true_eq, Bool.not_eq_true'] at goes
    obtain ⟨⟨⟨eligible, segment⟩, committed⟩, free⟩ := goes
    exact h ⟨group, eligible, segment, committed, free⟩
  simp only [takeFault, group, if_true, if_neg stays]

theorem takeFault_sequencer (h : c.isGroup = false) :
    takeFault s c code lane lst off addr = fatal s c code lane (trapPcOf lst off) := by
  simp only [takeFault, h, Bool.false_eq_true, if_false]

theorem getCtx_takeFault_traps (found : getCtx s c.id = some c) (h : Traps s c code) :
    getCtx (takeFault s c code lane lst off addr) c.id = some ((c.recordFault code lane (trapPcOf lst off) addr).stopForTrap lst) := by
  rw [takeFault_traps lane lst off addr h]
  exact getCtx_setCtx_same (c := (c.recordFault code lane (trapPcOf lst off) addr).stopForTrap lst) ((getCtx_dropWait s c c.id).trans found)

theorem getCtx_takeFault_fatal (found : getCtx s c.id = some c) (group : c.isGroup = true) (h : ¬ Traps s c code) :
    getCtx (takeFault s c code lane lst off addr) c.id =
      some { c.recordFault code lane (trapPcOf lst off) addr with mode := .faulted } := by
  rw [takeFault_group lane lst off addr group h]
  exact getCtx_fatal (c := c.recordFault code lane (trapPcOf lst off) addr) found code lane _

theorem getCtx_takeFault_sequencer (found : getCtx s c.id = some c) (h : c.isGroup = false) :
    getCtx (takeFault s c code lane lst off addr) c.id = some { c with mode := .faulted } := by
  rw [takeFault_sequencer lane lst off addr h]
  exact getCtx_fatal found code lane _

theorem takeFault_kills (h : ¬ Traps s c code) :
    (takeFault s c code lane lst off addr).kills = s.kills ++ [⟨c.launch, BitVec.ofNat 8 code⟩] := by
  cases group : c.isGroup with
  | true =>
    rw [takeFault_group lane lst off addr group h]
    exact fatal_kills s (c.recordFault code lane (trapPcOf lst off) addr) code lane _
  | false =>
    rw [takeFault_sequencer lane lst off addr group]
    exact fatal_kills ..

end

/-! ## The fields of TRAPCAUSE (R82) -/

/-- COUNT is one higher and saturates. -/
theorem trapCauseOf_toNat (old : Word) (lane : Option Nat) {code : Nat} (hcode : code < 0x40) (hlane : ∀ l, lane = some l → l < 64) :
    (trapCauseOf old lane code).toNat = min 0xFFFF (bits old 31 16 + 1) * 2 ^ 16 + lane.elim 0 (fun l => 2 ^ 15 + l * 256) + code := by
  have small : bits old 31 16 < 2 ^ 16 := Nat.mod_lt _ (by decide)
  have count : (if bits old 31 16 = 0xFFFF then bits old 31 16 else bits old 31 16 + 1) = min 0xFFFF (bits old 31 16 + 1) := by
    split <;> omega
  have low : lane.elim 0 (fun l => 2 ^ 15 + l * 256) < 2 ^ 16 - 0x40 := by
    cases lane with
    | none => decide
    | some l =>
      have := hlane l rfl
      simp only [Option.elim]
      omega
  rw [trapCauseOf, count, BitVec.toNat_ofNat, Nat.mod_eq_of_lt (by omega)]

theorem trapCauseOf_fields (old : Word) (lane : Option Nat) {code : Nat} (hcode : code < 0x40) (hlane : ∀ l, lane = some l → l < 64) :
    bits (trapCauseOf old lane code) 7 0 = code ∧
    bits (trapCauseOf old lane code) 31 16 = min 0xFFFF (bits old 31 16 + 1) ∧
    bits (trapCauseOf old lane code) 15 15 = (if lane.isSome then 1 else 0) ∧
    ∀ l, lane = some l → bits (trapCauseOf old lane code) 13 8 = l := by
  have value := trapCauseOf_toNat old lane hcode hlane
  have count : min 0xFFFF (bits old 31 16 + 1) < 2 ^ 16 := by omega
  generalize min 0xFFFF (bits old 31 16 + 1) = n at value count ⊢
  cases lane with
  | none =>
    simp only [Option.elim] at value
    simp only [bits, value, Option.isSome_none, Bool.false_eq_true, if_false, reduceCtorEq, false_implies, implies_true, and_true]
    omega
  | some l =>
    have := hlane l rfl
    simp only [Option.elim] at value
    simp only [bits, value, Option.isSome_some, if_true, Option.some.injEq, forall_eq']
    omega

/-! ## The entry to the trap segment (R330, R337) -/

theorem beginTrap_waits {s : State} {c : Ctx} (h : c.flights ≠ [] ∨ c.clauses ≠ []) : beginTrap s c = s := by
  rw [beginTrap, if_neg]
  simp only [Bool.and_eq_true, List.isEmpty_iff]
  tauto

theorem beginTrap_enters {s : State} {c : Ctx} (flights : c.flights = []) (clauses : c.clauses = []) : beginTrap s c =
    { setCtx s (c.enterTrap (BitVec.ofNat 24 (trapSegOf s c)) s.nextId) with nextId := s.nextId + 1 } := by
  simp [beginTrap, flights, clauses]

/-- The turn of a context on its way into its segment. -/
theorem turnStep_trap {s : State} {c : Ctx} (turn : s.turn = .ctrl c.id) (found : getCtx s c.id = some c) (power : powered s = true)
    (mode : c.mode = .trap) : turnStep s = .next (agePending c.id s (beginTrap s c)) := by
  simp [turnStep, turn, streamTurn, ctrlTurn, found, power, mode]

/-- A turn that uses no issue slot of its context ages no other one (R156). -/
theorem agePending_idle {s t : State} {c x : Ctx} (found : getCtx s c.id = some c) (after : getCtx t c.id = some x)
    (same : x.issues = c.issues) : agePending c.id s t = t := by
  simp [agePending, found, after, same]

theorem enterTrap_otherPaths (c : Ctx) (seg : Pc) (k : Nat) {j : Nat} (h : 0 < j) :
    (c.enterTrap seg k).paths.getD j defaultPath = defaultPath := by
  obtain ⟨i, rfl⟩ : ∃ i, j = i + 1 := ⟨j - 1, by omega⟩
  show (List.replicate (c.paths.length - 1) defaultPath).getD i defaultPath = defaultPath
  simp only [List.getD, List.getElem?_replicate]
  split <;> rfl

/-- Settles O27. -/
theorem takingAFault : Obligations.TakingAFault := by
  refine ⟨fun s c code lane lst off addr found => ?_, fun s c turn found power mode => ⟨fun busy => ?_, fun flights clauses => ?_⟩⟩
  · intro eligible
    cases group : c.isGroup with
    | false =>
      refine ⟨_, getCtx_takeFault_sequencer lane lst off addr found group, nofun, nofun, nofun, fun _ => ⟨rfl, ?_⟩, fun _ => rfl⟩
      exact takeFault_kills lane lst off addr fun h => absurd h.group (by rw [group]; exact Bool.false_ne_true)
    | true =>
      by_cases h : Traps s c code
      · refine ⟨_, getCtx_takeFault_traps lane lst off addr found h, fun _ => ⟨rfl, rfl, rfl⟩,
          fun _ hcode hlane => trapCauseOf_fields c.trapCause lane hcode hlane, fun _ _ _ _ _ => ⟨rfl, ?_, ?_, rfl, rfl⟩, ?_, nofun⟩
        · rintro rfl
          exact ⟨rfl, rfl, rfl⟩
        · rintro rfl
          exact ⟨rfl, rfl, rfl⟩
        · obtain ⟨_, code_ok, segment, committed, free⟩ := h
          rintro (e | e | e | e | e)
          · cases e
          · exact absurd ((handlerEligible_iff code).1 code_ok) e
          · exact absurd e segment
          · rw [committed] at e; cases e
          · exact absurd e free
      · refine ⟨_, getCtx_takeFault_fatal lane lst off addr found group h, fun _ => ⟨rfl, rfl, rfl⟩,
          fun _ hcode hlane => trapCauseOf_fields c.trapCause lane hcode hlane, fun _ code_ok segment committed free => ?_,
          fun _ => ⟨rfl, takeFault_kills lane lst off addr h⟩, nofun⟩
        exact absurd ⟨group, (handlerEligible_iff code).2 code_ok, segment, committed, free⟩ h
  · rw [turnStep_trap turn found power mode, beginTrap_waits busy, agePending_idle found found rfl]
  · have after : getCtx (beginTrap s c) c.id = some (c.enterTrap (BitVec.ofNat 24 (trapSegOf s c)) s.nextId) := by
      rw [beginTrap_enters flights clauses]
      exact getCtx_setCtx_same (c := c.enterTrap (BitVec.ofNat 24 (trapSegOf s c)) s.nextId) found
    refine ⟨beginTrap s c, _, ?_, after, ?_, rfl, rfl, rfl, rfl, rfl, rfl, fun j hj => ?_, rfl, rfl, rfl, rfl, rfl, rfl, rfl, rfl⟩
    · rw [turnStep_trap turn found power mode, agePending_idle found after rfl]
    · rw [beginTrap_enters flights clauses]
      rfl
    · rw [enterTrap_otherPaths c _ _ hj]
      rfl

end Sys2Proof.Proofs.Registers

end

section
/-! PROOFS. What the operations of a home leave unchanged (R67, R88, R91, R92, R98, R311, R312). -/

open Sys2Proof Sys2Proof.Machine
open Sys2Proof.Proofs.ExecutionModel (SendsOnly setCore_sendsOnly trimLines_sendsOnly getCtx_modCtx_same modCtx_eq modCtx_eq_self
  modCtx_onlyCtxs leBytes_length readBytes_eq leWord_wordBytes)

namespace Sys2Proof.Proofs.Registers

/-! ## Words of memory -/

theorem wordBytes_length (w : Word) : (wordBytes w).length = 4 := leBytes_length ..

theorem readWord_of_mem {s t : State} (h : t.mem = s.mem) (k : Nat) : readWord t k = readWord s k := by
  simp only [readWord, readBytes, h]

theorem readWord_writeWord_wf {s : State} (wf : Memory.wf s.mem = true) (k : Nat) (w : Word) : readWord (writeWord s k w) k = w := by
  have written : readBytes (writeWord s k w) k 4 = wordBytes w := readBytes_eq _ 4 k _ (wordBytes_length w) fun i hi =>
    memRead_memWriteList_at _ _ _ _ wf (by rw [wordBytes_length]; exact hi)
  rw [readWord, written, leWord_wordBytes]

theorem memRead_writeWord_wf {s : State} (wf : Memory.wf s.mem = true) {k x : Nat} (w : Word) (h : x < k ∨ k + 4 ≤ x) :
    memRead (writeWord s k w).mem x = memRead s.mem x :=
  memRead_memWriteList_other _ _ _ _ wf (by rw [wordBytes_length]; exact h)

/-! ## Frames -/

theorem getCtx_of_ctxs {s t : State} (h : t.ctxs = s.ctxs) (id : Nat) : getCtx t id = getCtx s id := by rw [getCtx, getCtx, h]

theorem cacheRoom_onlyCache (s : State) (v l : Nat) : cacheRoom s v l = { s with dcache := (cacheRoom s v l).dcache } := by
  unfold cacheRoom
  dsimp only
  split <;> rfl

theorem cacheTouch_onlyCache (s : State) (l : Nat) (dirty : Bool) : cacheTouch s l dirty = { s with dcache := (cacheTouch s l dirty).dcache } := by
  unfold cacheTouch
  dsimp only
  split
  · rfl
  · rw [cacheRoom_onlyCache]

theorem markWritten_onlyAccess (s : State) (p : Place) : markWritten s p = { s with access := (markWritten s p).access } := by
  unfold markWritten
  split <;> rfl

theorem countAccess_onlyAccess (s : State) (p : Place) (counted : Bool) :
    countAccess s p counted = { s with access := (countAccess s p counted).access } := by
  unfold countAccess
  split <;> rfl

theorem clearCovered_onlyPoison (s : State) (ks : List Nat) : clearCovered s ks = { s with poison := (clearCovered s ks).poison } := by
  unfold clearCovered
  split <;> rfl

theorem raiseWct_onlyCtxs (s : State) (ctx : Option Nat) (t : Nat) : raiseWct s ctx t = { s with ctxs := (raiseWct s ctx t).ctxs } := by
  unfold raiseWct
  split
  · exact modCtx_onlyCtxs ..
  · rfl

theorem getCtx_raiseWct {s : State} {id : Nat} {c : Ctx} (h : getCtx s id = some c) (t : Nat) :
    getCtx (raiseWct s (some id) t) id = some { c with wct := max c.wct t } := getCtx_modCtx_same h rfl

theorem fillLine_sendsOnly (s : State) (k : Nat) (asid mg : BitVec 16) (line : Place) (home : Sparse Byte) (bad : BitVec 2) (leaseEnd : Nat) :
    SendsOnly s (fillLine s k asid mg line home bad leaseEnd) := (setCore_sendsOnly ..).trans (trimLines_sendsOnly ..)

theorem l1Fill_keeps (s : State) (k : Nat) (die : BitVec 1) (lease : Nat) (asid mg : BitVec 16) (l : Nat) :
    (l1Fill s k die lease asid mg l).mem = s.mem ∧ (l1Fill s k die lease asid mg l).ctxs = s.ctxs := by
  unfold l1Fill
  dsimp only
  rw [cacheTouch_onlyCache]
  exact ⟨(fillLine_sendsOnly ..).mem, (fillLine_sendsOnly ..).ctxs⟩

theorem l1Refresh_keeps (s : State) (k : Nat) (die : BitVec 1) (lease : Nat) (asid mg : BitVec 16) (l : Nat) :
    (l1Refresh s k die lease asid mg l).mem = s.mem ∧ (l1Refresh s k die lease asid mg l).ctxs = s.ctxs := by
  unfold l1Refresh
  split
  · exact ⟨rfl, rfl⟩
  · split
    · exact ⟨(fillLine_sendsOnly ..).mem, (fillLine_sendsOnly ..).ctxs⟩
    · exact l1Fill_keeps ..

end Sys2Proof.Proofs.Registers

end

section
/-! PROOFS. SATOM (O33). -/

open Sys2Proof Sys2Proof.Machine
open Sys2Proof.Proofs.ExecutionModel (runCtrl_executes finishCtrl_done finishCtrl_wait finishCtrl_fault executes_id getCtx_setCtx_same
  released_sendsOnly releaseSteps_state releaseSteps_done wMin_least wMax_greatest wMinu_least wMaxu_greatest)

namespace Sys2Proof.Proofs.Registers

/-! ## The shape of the instruction (R200) -/

/-- SATOM's release steps are still to be made: its order has a release, and it has not been sent to its home. -/
def satomReleases (lit : Word) (s : State) (c : Ctx) : Prop := (bits lit 9 8 = 2 ∨ bits lit 9 8 = 3) ∧ scalarSent s c = false

/-- The state in which SATOM looks for its element: after the write-backs of its release steps, where it makes them. -/
def satomReleased (lit : Word) (s : State) (c : Ctx) : State :=
  if (bits lit 9 8 = 2 ∨ bits lit 9 8 = 3) ∧ scalarSent s c = false then released s c (bits lit 6 4) else s

/-- SATOM from the look at its element on. -/
def satomElement (d a : Reg) (b : BitVec 7) (lit : Word) (s : State) (c : Ctx) : Act :=
  match scalarElement s c a b true .home true with
  | .stop act => act
  | .oob trap => outOfBounds (setCtx s (c.setSreg d.toNat 0)) trap
  | .at p _ g _ r => satomAt s c d lit p g r

/-- What SATOM does once none of the checks of R189 stops it. -/
def satomEffect (d a : Reg) (b : BitVec 7) (lit : Word) (s : State) (c : Ctx) : Act :=
  let (s1, ok) := if 2 ≤ bits lit 9 8 && !scalarSent s c then releaseSteps s c (bits lit 6 4) else (s, true)
  if !ok || c.loadsHeld then .wait s1 else satomElement d a b lit s1 ((getCtx s1 c.id).getD c)

theorem exec_satom {sp : Option Word} {s s1 : State} {c c1 : Ctx} {d : Reg} {lit : Word} (a : Reg) (b : BitVec 7)
    (h : Executes { groupSpec sp true [d.toNat] with must := true } s c s1 c1) (legal : satomIllegal lit = false) :
    exec (.satom sp d a b lit) s =
      finishCtrl c.id { groupSpec sp true [d.toNat] with must := true } c.pc c.pc.toNat (satomEffect d a b lit s1 c1) :=
  runCtrl_executes h (illegal := fun _ _ => satomIllegal lit) legal rfl (satomEffect d a b lit)

theorem satomReleases_iff (lit : Word) (s : State) (c : Ctx) :
    (2 ≤ bits lit 9 8 && !scalarSent s c) = true ↔ satomReleases lit s c := by
  have small : bits lit 9 8 < 4 := Nat.mod_lt _ (by decide)
  rw [satomReleases, Bool.and_eq_true, decide_eq_true_iff, Bool.not_eq_true']
  constructor <;> rintro ⟨order, sent⟩ <;> exact ⟨by omega, sent⟩

section
variable {s : State} {c : Ctx} {lit : Word} (d a : Reg) (b : BitVec 7)

theorem getCtx_satomReleased (own : getCtx s c.id = some c) (lit : Word) : getCtx (satomReleased lit s c) c.id = some c := by
  unfold satomReleased
  split
  · rw [(released_sendsOnly ..).getCtx, own]
  · exact own

theorem satomEffect_waits (own : getCtx s c.id = some c)
    (held : satomReleases lit s c ∧ ¬ ReleaseDone s c (bits lit 6 4) ∨ c.loadsHeld = true) :
    satomEffect d a b lit s c = .wait (satomReleased lit s c) := by
  by_cases rel : satomReleases lit s c
  · have state : satomReleased lit s c = (releaseSteps s c (bits lit 6 4)).1 := (if_pos rel).trans (releaseSteps_state ..).symm
    have stays : (!(releaseSteps s c (bits lit 6 4)).2 || c.loadsHeld) = true := by
      obtain ⟨-, more⟩ | loads := held
      · rw [Bool.not_eq_true _ |>.mp (fun done => more ((releaseSteps_done own _).1 done))]
        rfl
      · rw [loads, Bool.or_true]
    simp only [satomEffect, if_pos ((satomReleases_iff lit s c).2 rel), stays, if_true, state]
  · have loads : c.loadsHeld = true := held.resolve_left fun h => rel h.1
    have state : satomReleased lit s c = s := if_neg rel
    simp only [satomEffect, if_neg (mt (satomReleases_iff lit s c).1 rel), loads, Bool.or_true, if_true, state]

theorem satomEffect_goes (own : getCtx s c.id = some c) (done : ¬ satomReleases lit s c ∨ ReleaseDone s c (bits lit 6 4))
    (free : c.loadsHeld = false) : satomEffect d a b lit s c = satomElement d a b lit (satomReleased lit s c) c := by
  by_cases rel : satomReleases lit s c
  · have state : satomReleased lit s c = (releaseSteps s c (bits lit 6 4)).1 := (if_pos rel).trans (releaseSteps_state ..).symm
    have complete : (releaseSteps s c (bits lit 6 4)).2 = true := (releaseSteps_done own _).2 (done.resolve_left (fun h => h rel))
    have keeps : getCtx (releaseSteps s c (bits lit 6 4)).1 c.id = some c := by rw [← state, getCtx_satomReleased own]
    simp only [satomEffect, if_pos ((satomReleases_iff lit s c).2 rel), complete, free, Bool.not_true, Bool.or_self,
      Bool.false_eq_true, if_false, keeps, Option.getD_some, state]
  · have state : satomReleased lit s c = s := if_neg rel
    simp only [satomEffect, if_neg (mt (satomReleases_iff lit s c).1 rel), free, Bool.not_true, Bool.or_self, Bool.false_eq_true,
      if_false, own, Option.getD_some, state]

/-- SATOM at an element of this device or the host whose home answers (R200, R322). -/
theorem satomAt_answers {k : Nat} {g : BitVec 12} {r : Rec} {old : Word} {put : Word → State}
    (answer : atHome s c (.scalar c.id c.pc) r.asid (r.generation s) g k = .old old put) :
    let t := modCtx (put (atomOp (bits lit 3 0) (c.nbv = 1) old (c.sreg (bits lit 23 16)) (c.sreg (bits lit 31 24)))) c.id
      (fun x => x.setSreg d.toNat old)
    satomAt s c d lit (.here k) g r = .done (if bits lit 9 8 % 2 = 1 ∧ bits lit 6 4 = 5 then retireClean t c.core else t) none := by
  simp only [satomAt, answer, Bool.and_eq_true, decide_eq_true_eq]

theorem satomAt_later {k : Nat} {g : BitVec 12} {r : Rec} {t : State}
    (answer : atHome s c (.scalar c.id c.pc) r.asid (r.generation s) g k = .later t) :
    satomAt s c d lit (.here k) g r = .wait t := by simp only [satomAt, answer]

end

/-! ## The homes (R257, R311) -/

section
variable {s : State} {c : Ctx} {h : Holder} {asid mg : BitVec 16} {g : BitVec 12} {k : Nat}

/-- A vault answers once nothing waits at its bank and the word is sound. -/
theorem atHome_vault {v off : Nat} (space : spaceOf k = .vault v off) (free : homeHeld s c (.here (k / 128)) = false)
    (sound : poisoned s k 4 g [] = false) : atHome s c h asid mg g k = .old (leWord (readAs s k 4 g)) (fun w =>
      if lateAt s (k / 128) (some g) then vaultWrite s v off g (wordBytes w)
      else raiseWct (vaultWrite s v off g (wordBytes w)) (some c.id) (dieTime s (clusterDie v))) := by
  simp only [atHome, space, free, sound, Bool.false_eq_true, if_false]

/-- A read-modify-write of a word of HBM or host memory: behind the core's own dirty bytes, and in the turn of R311. -/
def globalHome (s : State) (c : Ctx) (h : Holder) (asid mg : BitVec 16) (k : Nat) : Home :=
  match ownDirty s c asid mg (.here k) 4, homeTurn s (k / 128) h c.core (some asid) with
  | some x, _ => .later (writeBackLine s c.core x (some c.id))
  | none, .error s1 => .later s1
  | none, .ok s2 =>
    if poisonAt s2 k then .ue
    else .old (readWord s2 k) (fun w =>
      l1Refresh (markWritten (raiseWct (cacheTouch (writeWord s2 k w) (k / 128) true) (some c.id) (lineTime s2 (.here (k / 128)))) (.here k))
        c.core c.die (leaseOf s2 c) asid mg (k / 128))

theorem atHome_global (space : spaceOf k = .hbm ∨ spaceOf k = .host) : atHome s c h asid mg g k = globalHome s c h asid mg k := by
  obtain e | e := space <;> rw [atHome, e] <;> rfl

/-- Where a home's turn has come, only the queue differs. -/
theorem homeTurn_ok {l core : Nat} {space : Option (BitVec 16)} {t : State} (ok : homeTurn s l h core space = .ok t) :
    t = { s with homeQ := t.homeQ } := by
  unfold homeTurn at ok
  split at ok
  · split at ok <;> cases ok
    rfl
  · split at ok
    · cases ok
    · split at ok <;> cases ok
      rfl

/-- What a global home's answer is made of. -/
theorem atHome_global_old {old : Word} {put : Word → State} (space : spaceOf k = .hbm ∨ spaceOf k = .host)
    (answer : atHome s c h asid mg g k = .old old put) : ∃ q : List HomeWrite, old = readWord s k ∧ ∀ w,
      put w = l1Refresh (markWritten (raiseWct (cacheTouch (writeWord { s with homeQ := q } k w) (k / 128) true) (some c.id)
        (lineTime s (.here (k / 128)))) (.here k)) c.core c.die (leaseOf s c) asid mg (k / 128) := by
  rw [atHome_global space, globalHome] at answer
  split at answer
  · cases answer
  · cases answer
  · next t _ ok =>
    have only := homeTurn_ok ok
    split at answer
    · cases answer
    · cases answer
      rw [only]
      exact ⟨t.homeQ, rfl, fun w => rfl⟩

/-- A global home's answer: the old word, and the new one in its place, with the time of the answer in WCT (R67, R200). -/
theorem atHome_global_performs {y : Ctx} {old : Word} {put : Word → State} (space : spaceOf k = .hbm ∨ spaceOf k = .host)
    (own : getCtx s c.id = some y) (wf : Memory.wf s.mem = true) (answer : atHome s c h asid mg g k = .old old put) :
    old = readWord s k ∧ ∀ w, (getCtx (put w) c.id).map Ctx.wct = some (max y.wct (lineTime s (.here (k / 128)))) ∧
      readWord (put w) k = w ∧ ∀ x, x < k ∨ k + 4 ≤ x → memRead (put w).mem x = memRead s.mem x := by
  obtain ⟨q, rfl, puts⟩ := atHome_global_old space answer
  refine ⟨rfl, fun w => ?_⟩
  have mem : (put w).mem = (writeWord { s with homeQ := q } k w).mem := by
    rw [puts, (l1Refresh_keeps ..).1, markWritten_onlyAccess, raiseWct_onlyCtxs, cacheTouch_onlyCache]
  have found : getCtx (cacheTouch (writeWord { s with homeQ := q } k w) (k / 128) true) c.id = some y := by
    rw [cacheTouch_onlyCache]
    exact own
  have after : getCtx (put w) c.id = some { y with wct := max y.wct (lineTime s (.here (k / 128))) } := by
    rw [puts, getCtx_of_ctxs (l1Refresh_keeps ..).2, markWritten_onlyAccess]
    exact getCtx_raiseWct found _
  refine ⟨by rw [after]; rfl, ?_, fun x hx => ?_⟩
  · exact (readWord_of_mem mem k).trans (readWord_writeWord_wf (s := { s with homeQ := q }) wf k w)
  · rw [mem]
    exact memRead_writeWord_wf (s := { s with homeQ := q }) wf w hx

theorem spaceOf_line_hbm (hbm : spaceOf k = .hbm) : spaceOf (k / 128 * 128) = .hbm := by
  have below : k < 2 ^ 52 := by
    unfold spaceOf at hbm
    split_ifs at hbm with below
    exact below
  rw [spaceOf, if_pos (by omega)]

/-- The turn of a read-modify-write that finds nothing before it, on a line whose horizon is passed. -/
theorem homeTurn_free {l core : Nat} (space : Option (BitVec 16)) (free : readHeld s (some core) (.here l) = false)
    (fresh : ∀ w ∈ s.homeQ, w.hold ≠ some h) (passed : dueTime s (.here l) ≤ lineTime s (.here l)) (device : spaceOf (l * 128) ≠ .host) :
    homeTurn s l h core space = .ok s := by
  have no_place : s.homeQ.findIdx? (fun w => w.hold = some h && w.line = .here l) = none := by
    rw [List.findIdx?_eq_none_iff]
    intro w hw
    simp [fresh w hw]
  obtain ⟨busy, way⟩ : homeBusy s (.here l) = false ∧ onWay s (some core) (.here l) = false := by
    simpa [readHeld] using free
  simp [homeTurn, no_place, busy, way, passed, device]

/-- An HBM controller answers where nothing waits there and the word is sound. -/
theorem atHome_hbm_answers (hbm : spaceOf k = .hbm) (clean : ownDirty s c asid mg (.here k) 4 = none)
    (free : homeHeld s c (.here (k / 128)) = false) (fresh : ∀ w ∈ s.homeQ, w.hold ≠ some h)
    (passed : dueTime s (.here (k / 128)) ≤ lineTime s (.here (k / 128))) (sound : poisonAt s k = false) :
    ∃ put, atHome s c h asid mg g k = .old (readWord s k) put := by
  have turn := homeTurn_free (h := h) (some asid) free fresh passed (by rw [spaceOf_line_hbm hbm]; nofun)
  rw [atHome_global (.inl hbm), globalHome, clean, turn]
  simp only [sound, Bool.false_eq_true, if_false]
  exact ⟨_, rfl⟩

end

/-! ## The operators (R200) -/

theorem eq_min_of_least {x y m : Int} (one : m = x ∨ m = y) (le_x : m ≤ x) (le_y : m ≤ y) : m = min x y := by omega

theorem wMin_toInt (x y : Word) : (wMin x y).toInt = min x.toInt y.toInt := by
  obtain ⟨one, le_x, le_y⟩ := wMin_least x y
  exact eq_min_of_least (one.imp (congrArg _) (congrArg _)) le_x le_y

theorem wMax_toInt (x y : Word) : (wMax x y).toInt = max x.toInt y.toInt := by
  obtain ⟨one, ge_x, ge_y⟩ := wMax_greatest x y
  have one := one.imp (congrArg BitVec.toInt) (congrArg BitVec.toInt)
  omega

theorem wMinu_toNat (x y : Word) : (wMinu x y).toNat = min x.toNat y.toNat := by
  rw [wMinu, BitVec.ult_eq_decide]
  split
  · next below => simp at below; omega
  · next above => simp at above; omega

theorem wMaxu_toNat (x y : Word) : (wMaxu x y).toNat = max x.toNat y.toNat := by
  rw [wMaxu, BitVec.ult_eq_decide]
  split
  · next below => simp at below; omega
  · next above => simp at above; omega

/-- Settles O33. -/
theorem scalarAtomic : Obligations.ScalarAtomic := by
  refine ⟨fun sp d a b lit s c s1 c1 => ?_, fun v1 o x cmp => ⟨BitVec.eq_of_toNat_eq (by simp [atomOp]), wMin_toInt o x, wMax_toInt o x,
    wMinu_toNat o x, wMaxu_toNat o x, rfl, rfl, rfl, rfl, rfl, rfl⟩⟩
  intro spec rel u zero h legal
  have hid : c1.id = c.id := executes_id h
  have own : getCtx s1 c1.id = some c1 := by rw [hid]; exact h.own
  have own_u : getCtx u c1.id = some c1 := getCtx_satomReleased own lit
  refine ⟨fun held => ?_, fun done free => ⟨fun out => ?_, fun x out => ?_, fun k va g cnt r found => ⟨fun old put answer => ?_,
    fun t later => ?_, fun v off vault idle sound => atHome_vault vault idle sound⟩⟩, fun k va g cnt r y found space own_y wf =>
    ⟨fun old put answer => atHome_global_performs space own_y wf answer, fun hbm clean idle fresh passed sound =>
    atHome_hbm_answers hbm clean idle fresh passed sound⟩⟩
  · rw [exec_satom a b h legal, satomEffect_waits d a b own held, finishCtrl_wait]
    rfl
  all_goals rw [exec_satom a b h legal, satomEffect_goes d a b own done free]
  · rw [satomElement, show satomReleased lit s1 c1 = u from rfl, out]
    exact finishCtrl_done ..
  · rw [satomElement, show satomReleased lit s1 c1 = u from rfl, out]
    have own_zero : getCtx (setCtx u zero) zero.id = some zero := getCtx_setCtx_same (by rw [Ctx.setSreg_id]; exact own_u)
    rw [Ctx.setSreg_id, hid] at own_zero
    exact finishCtrl_fault own_zero _ _ _
  · rw [satomElement, show satomReleased lit s1 c1 = u from rfl, found]
    dsimp only
    rw [satomAt_answers d answer]
    exact finishCtrl_done ..
  · rw [satomElement, show satomReleased lit s1 c1 = u from rfl, found]
    dsimp only
    rw [satomAt_later d later]
    exact finishCtrl_wait ..

end Sys2Proof.Proofs.Registers

end

section
/-! PROOFS. A write of every present lane's bit of a predicate clears its mark of uncorrectable data (O43). -/

open Sys2Proof Sys2Proof.Machine

namespace Sys2Proof.Proofs.Registers

/-- PLOG p1 := p0 and p0, with no flag. -/
def plogForm : LaneForm := ⟨1, 0, 0, 0, 0, false, 0, 0, 0, 0, 0, 0⟩

/-- A clause of that one instruction for two lanes, at the head and started. -/
def plogClause : Clause := ⟨3, 0, [0, 0, 0, 0], 3, 2, 0, 0, none, 240, true, 0x0000FF00, 0, 1, false⟩

/-- A group of two lanes that is about to issue it; an upset has struck p1. -/
def struckGroup : Ctx := { newCtx 1 1 9 (some 2) 0 2 1 with clauses := [plogClause], sregBad := [513] }

/-- The device with that group alone, its lane stream's turn. -/
def struckState : State := { State.reset with turn := .lane 1, ctxs := [struckGroup] }

theorem plog_executes_struck : LaneExecutes (predSpec 0x1A plogForm []) struckState struckGroup plogClause where
  turn := ⟨rfl, by decide, by decide, by decide, by decide, rfl, by decide, by decide⟩
  passes := ⟨by decide, by decide, by decide, by decide, by decide, by decide⟩

/-- The marks that the group has after an outcome. -/
def groupMarks (o : Host.Outcome State Fault Refusal) : Option (List Nat) :=
  match o with
  | .next t => (getCtx t 1).map Ctx.sregBad
  | _ => none

/-- The write covers both present lanes, so p1 is sound again (R347). -/
theorem plog_clears_mark : groupMarks (exec (.plog plogForm) struckState) = some [] := by decide

/-- Whatever the predicates become, the completion itself keeps the mark. -/
theorem laneDone_keeps_mark (ps : List LaneMask) : groupMarks (.next (laneDone (predSpec 0x1A plogForm []) plogClause struckGroup.id
    (setCtx struckState { struckGroup with preds := ps }))) = some [513] := rfl

/-- Refutes O43: a write of every present lane's bit of a predicate replaces its uncorrectable data (R347), and the statement
leaves the group's marks as they were. With p1 marked, PLOG of both lanes of `struckGroup` clears the mark. -/
theorem not_lanesTogether : ¬ Obligations.LanesTogether := by
  intro ⟨⟨_, _, plog, _⟩, _⟩
  obtain ⟨x, runs, written⟩ := plog plogForm struckState struckGroup plogClause (by decide) (by decide) plog_executes_struck
  have marks := plog_clears_mark
  rw [runs, written.1, laneDone_keeps_mark] at marks
  exact absurd marks (by decide)

end Sys2Proof.Proofs.Registers

end

section
/-! PROOFS. A home performs its writes in arrival order, and lines, tags, skims and counters change as told (R62, R67, R88, R90 to
R92, R98, R104, R122, R310, R311, R347). -/

open Sys2Proof Sys2Proof.Machine
open Sys2Proof.Proofs.ExecutionModel (SendsOnly writeBackLine_sendsOnly writeBackLine_cores getCore_setCore_same getCore_set spaceOf_ranges
  coreStoreEnd_lt recharge_chargesOnly ChargesOnly)

namespace Sys2Proof.Proofs.Registers

/-! ## Queued writes (R122, R311) -/

theorem memRead_foldl_memWrite_other (base k : Nat) (bytes : Sparse Byte) (m : List Host.Cell) (wf : Memory.wf m = true)
    (other : ∀ b ∈ bytes, k ≠ base + b.1) : memRead (bytes.foldl (fun m b => memWrite m (base + b.1) b.2) m) k = memRead m k := by
  induction bytes generalizing m with
  | nil => rfl
  | cons b r ih =>
    rw [List.foldl_cons, ih _ (memWrite_wf _ _ _ wf) (fun x hx => other x (List.mem_cons_of_mem _ hx)),
      memRead_memWrite_other _ _ _ _ wf (other b (List.mem_cons_self ..))]

theorem memRead_foldl_memWrite_at (base : Nat) (bytes : Sparse Byte) (m : List Host.Cell) (wf : Memory.wf m = true)
    (nodup : (bytes.map Prod.fst).Nodup) {b : Nat × Byte} (hb : b ∈ bytes) :
    memRead (bytes.foldl (fun m b => memWrite m (base + b.1) b.2) m) (base + b.1) = b.2 := by
  induction bytes generalizing m with
  | nil => cases hb
  | cons a r ih =>
    obtain ⟨first, rest⟩ := List.nodup_cons.1 nodup
    rw [List.foldl_cons]
    rcases List.mem_cons.1 hb with rfl | hb
    · rw [memRead_foldl_memWrite_other base _ r _ (memWrite_wf _ _ _ wf), memRead_memWrite_same _ _ _ wf]
      exact fun x hx same => first (List.mem_map.2 ⟨x, hx, by omega⟩)
    · exact ih _ (memWrite_wf _ _ _ wf) rest hb

section
variable {s : State} {i : Nat} {w : HomeWrite} {l : Nat}

theorem execHomeWrite_held (found : s.homeQ[i]? = some w) (waits : arrives s w = false) (ready : writeReady s i w = false) :
    exec (.homeWrite i) s = .next s := by
  show execHomeWrite i s = _
  simp only [execHomeWrite, found, waits, ready, Bool.false_eq_true, if_false]

theorem execHomeWrite_arrives (found : s.homeQ[i]? = some w) (h : arrives s w = true) : exec (.homeWrite i) s = .next (arriveWrite s w) := by
  show execHomeWrite i s = _
  simp only [execHomeWrite, found, h, if_true]

theorem afterHome_noOps (op : w.op = none) (ops : s.ops = []) : afterHome s w = s := by
  simp only [afterHome, op, settleAll, ops, List.map_nil, List.foldl_nil]

theorem arrives_of_arrived (h : w.arrived = true) : arrives s w = false := by simp [arrives, h]

theorem arrives_iff (way : w.arrived = false) (up : memoryUp s = true) :
    arrives s w = true ↔ ∀ x ∈ s.homeQ, x.id < w.id → x.arrived = false → sameLane x w = false := by
  simp [arrives, way, up]

theorem writeReady_of_onWay (way : w.arrived = false) : writeReady s i w = false := by
  unfold writeReady
  split
  · simp [way]
  · rfl

theorem writeReady_iff (line : w.line = .here l) (there : w.arrived = true) (free : w.hold = none) (up : memoryUp s = true) :
    writeReady s i w = true ↔ (∀ x ∈ s.homeQ.take i, x.line = w.line → x.arrived = false) ∧ w.due ≤ lineTime s (.here l) := by
  simp [writeReady, line, there, free, up]

theorem raiseWct_mem (s : State) (ctx : Option Nat) (t : Nat) : (raiseWct s ctx t).mem = s.mem := by rw [raiseWct_onlyCtxs]
theorem raiseWct_tags (s : State) (ctx : Option Nat) (t : Nat) : (raiseWct s ctx t).tags = s.tags := by rw [raiseWct_onlyCtxs]
theorem raiseWct_homeQ (s : State) (ctx : Option Nat) (t : Nat) : (raiseWct s ctx t).homeQ = s.homeQ := by rw [raiseWct_onlyCtxs]
theorem raiseWct_ops (s : State) (ctx : Option Nat) (t : Nat) : (raiseWct s ctx t).ops = s.ops := by rw [raiseWct_onlyCtxs]

/-- What a home changes when it performs a write that is bound to no generation. -/
theorem homePerform_global (line : w.line = .here l) (gen : w.gen = none) : ∃ p d a, homePerform s w =
    raiseWct { s with homeQ := s.homeQ.filter (fun x => x.id ≠ w.id), mem := w.bytes.foldl (fun m b => memWrite m (l * 128 + b.1) b.2) s.mem,
                      poison := p, dcache := d, access := a } w.ctx (completionTime s l w.due) := by
  generalize done : homePerform s w = t
  unfold homePerform at done
  simp only [line, gen, lateAt, landBytes, Bool.false_eq_true, if_false] at done
  rw [markWritten_onlyAccess, cacheTouch_onlyCache, clearCovered_onlyPoison] at done
  split at done <;> exact ⟨_, _, _, done.symm⟩

end

theorem exec_homeWrite (s : State) (i : Nat) (w : HomeWrite) (l : Nat) (hs : s.canonical) (found : s.homeQ[i]? = some w) (line : w.line = .here l)
    (up : memoryUp s = true) (free : w.hold = none) (op : w.op = none) (gen : w.gen = none) (nodup : (w.bytes.map Prod.fst).Nodup)
    (ops : s.ops = []) :
    let now := lineTime s (.here l)
    let horizon := sget 0 s.horizons l
    (w.arrived = false →
      ((∃ x ∈ s.homeQ, x.id < w.id ∧ x.arrived = false ∧ sameLane x w = true) → exec (.homeWrite i) s = .next s) ∧
      ((∀ x ∈ s.homeQ, x.id < w.id → x.arrived = false → sameLane x w = false) → exec (.homeWrite i) s = .next { s with
        homeQ := s.homeQ.filter (fun x => x.id ≠ w.id) ++
          [{ w with arrived := true, due := if horizon = 0 then now else max now (horizon + 8) }] })) ∧
    (w.arrived = true → (∃ x ∈ s.homeQ.take i, x.line = w.line ∧ x.arrived = true) ∨ now < w.due → exec (.homeWrite i) s = .next s) ∧
    (w.arrived = true → (∀ x ∈ s.homeQ.take i, x.line = w.line → x.arrived = false) → w.due ≤ now → ∃ t, exec (.homeWrite i) s = .next t ∧
      (∀ b ∈ w.bytes, memRead t.mem (l * 128 + b.1) = b.2) ∧
      (∀ k, (∀ b ∈ w.bytes, k ≠ l * 128 + b.1) → memRead t.mem k = memRead s.mem k) ∧
      t.homeQ = s.homeQ.filter (fun x => x.id ≠ w.id) ∧ t.tags = s.tags ∧
      ∀ c, w.ctx = some c.id → getCtx s c.id = some c → getCtx t c.id = some { c with
        wct := max c.wct (if spaceOf (l * 128) = .host then max w.due now else w.due) }) := by
  refine ⟨fun way => ⟨?_, fun lane => ?_⟩, fun there waits => ?_, fun there first due => ?_⟩
  · rintro ⟨x, hx, older, xway, lane⟩
    refine execHomeWrite_held found (Bool.eq_false_iff.2 fun h => ?_) (writeReady_of_onWay way)
    rw [(arrives_iff way up).1 h x hx older xway] at lane
    cases lane
  · rw [execHomeWrite_arrives found ((arrives_iff way up).2 lane), arriveWrite, line]
    rfl
  · refine execHomeWrite_held found (arrives_of_arrived there) (Bool.eq_false_iff.2 fun h => ?_)
    obtain ⟨first, due⟩ := (writeReady_iff line there free up).1 h
    rcases waits with ⟨x, hx, same, xthere⟩ | early
    · rw [first x hx same] at xthere
      cases xthere
    · exact Nat.not_le_of_lt early due
  · obtain ⟨p, d, a, performed⟩ := homePerform_global (s := s) line gen
    have ready := (writeReady_iff line there free up).2 ⟨first, due⟩
    have runs : exec (.homeWrite i) s = .next (homePerform s w) := by
      show execHomeWrite i s = _
      simp only [execHomeWrite, found, arrives_of_arrived there, ready, Bool.false_eq_true, if_false, if_true]
      rw [afterHome_noOps op (by rw [performed, raiseWct_ops]; exact ops)]
    refine ⟨_, runs, ?_⟩
    rw [performed, raiseWct_mem, raiseWct_homeQ, raiseWct_tags]
    refine ⟨fun b hb => memRead_foldl_memWrite_at _ _ _ hs.1 nodup hb, fun k other => memRead_foldl_memWrite_other _ k _ _ hs.1 other,
      rfl, rfl, fun c writer hc => ?_⟩
    rw [writer]
    refine getCtx_raiseWct ?_ _
    exact hc

/-! ## Lines (R88, R91, R92, R347) -/

theorem pushError_homeQ (s : State) (r : List Word) : (pushError s r).homeQ = s.homeQ := by
  unfold pushError
  split
  · cases s.errors.isEmpty <;> rfl
  · rfl

theorem ofBool_append_getLsbD : ∀ a b : Bool,
    (BitVec.ofBool a ++ BitVec.ofBool b).getLsbD 0 = b ∧ (BitVec.ofBool a ++ BitVec.ofBool b).getLsbD 1 = a := by decide

theorem Line.badDirty_getLsbD (x : Line) (upset : BitVec 2) {h : Nat} (hh : h < 2) : (x.badDirty upset).getLsbD h =
    ((x.bad.getLsbD h || upset.getLsbD h) && x.dirtyBytes.any (fun b => b.1 / 64 = h)) := by
  unfold Line.badDirty
  dsimp only
  rw [BitVec.getLsbD_and, BitVec.getLsbD_or]
  obtain rfl | rfl : h = 0 ∨ h = 1 := by omega
  · rw [(ofBool_append_getLsbD _ _).1]
  · rw [(ofBool_append_getLsbD _ _).2]

theorem Line.badDirty_eq_zero (x : Line) (upset : BitVec 2) :
    x.badDirty upset = 0 ↔ (x.badDirty upset).getLsbD 0 = false ∧ (x.badDirty upset).getLsbD 1 = false := by
  generalize x.badDirty upset = b
  revert b
  decide

/-- What a write-back of a dirty line sends and records. -/
theorem writeBackLine_sends (s : State) (k : Nat) {x : Line} (dirty : x.dirty ≠ 0) (ctx : Option Nat) (upset : BitVec 2) :
    (∃ w, (writeBackLine s k x ctx upset).homeQ = s.homeQ ++ [w] ∧ w.line = x.line ∧ w.bytes = x.dirtyBytes ∧ w.poison = x.badDirty upset) ∧
    (writeBackLine s k x ctx upset).errors = (if x.badDirty upset = 0 then s else poisonRecord s k x).errors := by
  have queue : (if x.badDirty upset = 0 then s else poisonRecord s k x).homeQ = s.homeQ := by
    split
    · rfl
    · exact pushError_homeQ ..
  unfold writeBackLine
  rw [if_neg dirty]
  refine ⟨⟨_, congrArg (· ++ [_]) queue, rfl, rfl, rfl⟩, rfl⟩

/-- The core no longer holds a line (R83, R88). -/
def dropLine (s : State) (k : Nat) (x : Line) : State :=
  setCore s k { getCore s k with
    lines := (getCore s k).lines.filter (fun y => !(y.line = x.line && y.asid = x.asid && y.mapgen = x.mapgen)) }

theorem findLine_dropLine {s : State} {k : Nat} (hk : k < s.cores.length) (x : Line) :
    findLine (getCore (dropLine s k x) k) x.asid x.mapgen x.line = none := by
  rw [dropLine, getCore_setCore_same hk, findLine, List.find?_eq_none]
  intro y hy key
  obtain ⟨-, other⟩ := List.mem_filter.1 hy
  rw [key] at other
  cases other

theorem execL1WriteBack_drops {s : State} {k line : Nat} {x : Line} (found : (getCore s k).lines[line]? = some x) (power : powered s = true)
    (free : x.pinned = false) (bad : Bool) :
    exec (.l1WriteBack k line bad) s = .next (dropLine (writeBackLine s k x none (if bad then 3 else 0)) k x) := by
  show execL1WriteBack k line bad s = _
  simp only [execL1WriteBack, found, free, power, Bool.not_true, Bool.or_self, Bool.false_eq_true, if_false]
  rfl

theorem exec_l1WriteBack (k line : Nat) (bad : Bool) (s : State) (x : Line) (found : (getCore s k).lines[line]? = some x)
    (power : powered s = true) (hk : k < s.cores.length) :
    (x.pinned = true → exec (.l1WriteBack k line bad) s = .next s) ∧
    (x.pinned = false → ∃ t, exec (.l1WriteBack k line bad) s = .next t ∧ t.mem = s.mem ∧
      findLine (getCore t k) x.asid x.mapgen x.line = none ∧ (x.dirty = 0 → t.homeQ = s.homeQ) ∧
      (x.dirty ≠ 0 →
        let half (h : Nat) : Bool := (x.bad.getLsbD h || bad) && x.dirtyBytes.any (fun b => b.1 / 64 = h)
        (∃ w, t.homeQ = s.homeQ ++ [w] ∧ w.line = x.line ∧ w.bytes = x.dirtyBytes ∧ ∀ h, h < 2 → w.poison.getLsbD h = half h) ∧
        t.errors = (if half 0 = false ∧ half 1 = false then s else poisonRecord s k x).errors)) := by
  refine ⟨fun pinned => ?_, fun free => ⟨_, execL1WriteBack_drops found power free bad, ?_⟩⟩
  · show execL1WriteBack k line bad s = _
    simp only [execL1WriteBack, found, pinned, Bool.true_or, if_true]
  · obtain ⟨upset, hupset⟩ : ∃ u : BitVec 2, u = if bad then 3 else 0 := ⟨_, rfl⟩
    rw [← hupset]
    have sends := writeBackLine_sendsOnly s k x none upset
    have length : k < (writeBackLine s k x none upset).cores.length := by
      rw [writeBackLine_cores]
      split <;> simpa using hk
    have half : ∀ h, h < 2 → (x.badDirty upset).getLsbD h = ((x.bad.getLsbD h || bad) && x.dirtyBytes.any (fun b => b.1 / 64 = h)) := by
      intro h hh
      have raised : upset.getLsbD h = bad := by
        obtain rfl | rfl : h = 0 ∨ h = 1 := by omega
        all_goals cases bad <;> rw [hupset] <;> rfl
      rw [Line.badDirty_getLsbD x upset hh, raised]
    refine ⟨sends.mem, findLine_dropLine length x, fun clean => ?_, fun dirty => ?_⟩
    · show (writeBackLine s k x none upset).homeQ = s.homeQ
      rw [writeBackLine, if_pos clean]
    · obtain ⟨⟨w, queue, wline, bytes, poison⟩, errors⟩ := writeBackLine_sends s k dirty none upset
      refine ⟨⟨w, queue, wline, bytes, fun h hh => ?_⟩, ?_⟩
      · rw [poison]
        exact half h hh
      · refine errors.trans ?_
        simp only [Line.badDirty_eq_zero, half 0 (by omega), half 1 (by omega)]

theorem exec_deviceCacheEviction (line : Nat) (s : State) : ∃ t, exec (.deviceCacheEviction line) s = .next t ∧ t = { s with dcache := t.dcache } ∧
    (sparseWf (0, false) s.dcache = true → ∀ l, sget (0, false) t.dcache l = if l = line then (0, false) else sget (0, false) s.dcache l) := by
  refine ⟨_, rfl, rfl, fun wf l => ?_⟩
  split
  · next same => rw [same]; exact sget_sput_same _ _ _ _ wf
  · next other => exact sget_sput_other _ _ _ _ _ wf other

/-! ## Tags (R62, R99, R104) -/

theorem tagAt_setTag {s : State} (hs : s.canonical) (k : Nat) (g : BitVec 12) (x : Nat) :
    tagAt (setTag s k g) x = if granule x = granule k then g else tagAt s x := by
  split
  · next same => rw [tagAt, same]; exact sget_sput_same _ _ _ _ hs.2
  · next other => exact sget_sput_other _ _ _ _ _ hs.2 other

theorem clearTags_onlyTags (n k : Nat) (s : State) : clearTags s k n = { s with tags := (clearTags s k n).tags } := by
  induction n generalizing k s with
  | zero => rfl
  | succ n ih =>
    rw [clearTags, ih]
    rfl

theorem tagAt_clearTags {s : State} (hs : s.canonical) (k n x : Nat) :
    tagAt (clearTags s k n) x = if granule k ≤ granule x ∧ granule x < granule k + n then 0 else tagAt s x := by
  induction n generalizing k s with
  | zero => rw [clearTags, if_neg (by omega)]
  | succ n ih =>
    have next : granule (k + 64) = granule k + 1 := by simp only [granule]; omega
    rw [clearTags, ih (setTag_canonical s k 0 hs), tagAt_setTag hs, next]
    by_cases first : granule x = granule k
    · rw [if_neg (by omega), if_pos first, if_pos (by omega)]
    · rw [if_neg first]
      exact if_congr (by omega) rfl rfl

theorem sget_filter {α : Type} [DecidableEq α] (d : α) (t : Sparse α) (wf : sparseWf d t = true) (p : Nat × α → Bool) (k : Nat) :
    sget d (t.filter p) k = if p (k, sget d t k) then sget d t k else d := by
  induction t with
  | nil => exact (ite_self d).symm
  | cons a r ih =>
    obtain ⟨k', v⟩ := a
    obtain ⟨-, wfr, above⟩ := (sparseWf_cons d k' v r).1 wf
    have absent : k ≤ k' → sget d (r.filter p) k = d := fun le =>
      sget_lt d _ k fun x hx => Nat.lt_of_le_of_lt le (above x (List.mem_filter.1 hx).1)
    by_cases same : k' = k
    · subst same
      by_cases keep : p (k', v) = true <;> simp [sget, keep, absent]
    · by_cases below : k < k'
      · by_cases keep : p (k', v) = true <;> simp [sget, keep, same, below, absent (Nat.le_of_lt below)]
      · by_cases keep : p (k', v) = true <;> simp [sget, keep, same, below, ih wfr]

/-- A skim of value `v` clears exactly the tags of value `v` that no live allocation of it holds. -/
theorem tagAt_skimTags {s : State} (hs : s.canonical) (v : BitVec 12) (gen : Nat → Option (BitVec 12)) {x : Nat} {g : BitVec 12}
    (owner : gen (granule x * 64) = some g) : tagAt (skimTags s v gen) x = if tagAt s x = v ∧ g ≠ v then 0 else tagAt s x := by
  refine (sget_filter 0 s.tags hs.2 _ (granule x)).trans ?_
  rw [owner]
  rw [← tagAt]
  by_cases tagged : tagAt s x = v <;> by_cases same : g = v <;> simp [tagged, same]

/-- The granules of core `k`'s row. -/
theorem granule_coreKey_row (k row x : Nat) :
    (granule (coreKey k (row * 256)) ≤ granule x ∧ granule x < granule (coreKey k (row * 256)) + 4) ↔
      ∃ off, off < 256 ∧ x = coreKey k (row * 256 + off) := by
  unfold granule coreKey
  constructor
  · intro h
    exact ⟨x - (2 ^ 66 + k * 2 ^ 21 + row * 256), by omega, by omega⟩
  · rintro ⟨off, hoff, rfl⟩
    omega

theorem exec_tagRewrite (k row : Nat) (s : State) (hs : s.canonical) (hk : k < s.cores.length) (power : powered s = true)
    (due : row ∈ (getCore s k).rewriting) :
    ∃ t, exec (.tagRewrite k row) s = .next t ∧ t.mem = s.mem ∧ row ∉ (getCore t k).rewriting ∧
      (∀ x, (∃ off, off < 256 ∧ x = coreKey k (row * 256 + off)) → tagAt t x = 0) ∧
      (∀ x, (∀ off, off < 256 → x ≠ coreKey k (row * 256 + off)) → tagAt t x = tagAt s x) := by
  have runs : exec (.tagRewrite k row) s = .next (setCore (clearTags s (coreKey k (row * 256)) 4) k
      { getCore s k with rewriting := (getCore s k).rewriting.filter (· ≠ row) }) := by
    show execTagRewrite k row s = _
    simp only [execTagRewrite, List.contains_iff_mem.2 due, power, Bool.and_self, if_true]
  have tags (x : Nat) := tagAt_clearTags hs (coreKey k (row * 256)) 4 x
  simp only [granule_coreKey_row] at tags
  refine ⟨_, runs, ?_, ?_, fun x inRow => ?_, fun x other => ?_⟩
  · rw [setCore_mem, clearTags_onlyTags]
  · rw [getCore_setCore_same (by rw [clearTags_onlyTags]; exact hk)]
    simp
  · exact (tags x).trans (if_pos inRow)
  · exact (tags x).trans (if_neg fun ⟨off, hoff, e⟩ => other off hoff e)

/-- A byte of core `g`'s rows lies in a granule of the generation that owns its row. -/
theorem coreGranuleGen_row (c : Core) {g off : Nat} (hg : g < 192) (hoff : off < 2 ^ 21) :
    coreGranuleGen c g (granule (coreKey g off) * 64) = some (ownerGen c.rows (off / 256)) := by
  obtain ⟨key, hkey⟩ : ∃ key, key = granule (coreKey g off) * 64 := ⟨_, rfl⟩
  rw [← hkey]
  unfold granule coreKey at hkey
  have core : (key - 2 ^ 66) / 2 ^ 21 = g := by omega
  have row : (key - 2 ^ 66) % 2 ^ 21 / 256 = off / 256 := by omega
  rw [coreGranuleGen, (spaceOf_ranges key).2.2.2.1 (by omega) (by omega)]
  dsimp only
  rw [if_pos core, row]

/-- A byte of a tile of core `g` lies in a granule of the generation that owns the tile. -/
theorem coreGranuleGen_tile (c : Core) {g x b : Nat} (hx : x < 256) (hb : b < 2048) :
    coreGranuleGen c g (granule (tileKey g x b) * 64) = some (ownerGen c.tileRuns x) := by
  obtain ⟨key, hkey⟩ : ∃ key, key = granule (tileKey g x b) * 64 := ⟨_, rfl⟩
  rw [← hkey]
  unfold granule tileKey at hkey
  have inCore : 2 ^ 67 + g * 2 ^ 19 + 0 * 2048 + 0 ≤ key ∧ key < 2 ^ 67 + (g + 1) * 2 ^ 19 + 0 * 2048 + 0 := by omega
  have tile : (key - (2 ^ 67 + g * 2 ^ 19 + 0 * 2048 + 0)) / 2048 = x := by omega
  rw [coreGranuleGen, (spaceOf_ranges key).2.2.2.2 (by omega)]
  simp only [tileKey, inCore.1, inCore.2, tile, decide_true, Bool.and_self, if_true]

/-- A byte of vault `v` lies in a granule of the generation that owns its unit. -/
theorem vaultGranuleGen_unit (c : Vault) {v off : Nat} (hv : v < 48) (hoff : off < 2 ^ 24) :
    vaultGranuleGen c v (granule (vaultKey v off) * 64) = some (ownerGen c.units (off / 65536)) := by
  obtain ⟨key, hkey⟩ : ∃ key, key = granule (vaultKey v off) * 64 := ⟨_, rfl⟩
  rw [← hkey]
  unfold granule vaultKey at hkey
  have vault : (key - 2 ^ 65) / 2 ^ 24 = v := by omega
  have unit : (key - 2 ^ 65) % 2 ^ 24 / 65536 = off / 65536 := by omega
  rw [vaultGranuleGen, (spaceOf_ranges key).2.2.1 (by omega) (by omega)]
  dsimp only
  rw [if_pos vault, unit]

theorem exec_skim_core (g : Nat) (s : State) (v : BitVec 12) (r : List (BitVec 12)) (hs : s.canonical) (hg : g < 192)
    (hk : g < s.cores.length) (power : powered s = true) (pending : (getCore s g).skim = v :: r) :
    ∃ t, exec (.skim g) s = .next t ∧ t.mem = s.mem ∧ (getCore t g).skim = r ∧
      (∀ off, off < coreStoreEnd → tagAt t (coreKey g off) =
        if tagAt s (coreKey g off) = v ∧ ownerGen (getCore s g).rows (off / 256) ≠ v then 0 else tagAt s (coreKey g off)) ∧
      ∀ x b, x < 256 → b < 2048 → tagAt t (tileKey g x b) =
        if tagAt s (tileKey g x b) = v ∧ ownerGen (getCore s g).tileRuns x ≠ v then 0 else tagAt s (tileKey g x b) := by
  refine ⟨setCore (skimTags s v (coreGranuleGen (getCore s g) g)) g { getCore s g with skim := r }, ?_, rfl, ?_, fun off hoff => ?_,
    fun x b hx hb => ?_⟩
  · show execSkim g s = _
    simp only [execSkim, power, Bool.not_true, Bool.false_eq_true, if_false, hg, if_true, pending]
  · rw [getCore_setCore_same]
    exact hk
  · exact tagAt_skimTags hs v _ (coreGranuleGen_row _ hg (Nat.lt_trans hoff coreStoreEnd_lt))
  · exact tagAt_skimTags hs v _ (coreGranuleGen_tile _ hx hb)

theorem getVault_setVault_same {s : State} {k : Nat} (h : k < s.vaults.length) (v : Vault) : getVault (setVault s k v) k = v := by
  simp [getVault, setVault, List.getD, h]

theorem exec_skim_vault (g : Nat) (s : State) (v : BitVec 12) (r : List (BitVec 12)) (hs : s.canonical) (hg : g < 48)
    (hk : g < s.vaults.length) (power : powered s = true) (pending : (getVault s g).skim = v :: r) :
    ∃ t, exec (.skim (192 + g)) s = .next t ∧ t.mem = s.mem ∧ (getVault t g).skim = r ∧
      ∀ off, off < 2 ^ 24 → tagAt t (vaultKey g off) =
        if tagAt s (vaultKey g off) = v ∧ ownerGen (getVault s g).units (off / 65536) ≠ v then 0 else tagAt s (vaultKey g off) := by
  refine ⟨setVault (skimTags s v (vaultGranuleGen (getVault s g) g)) g { getVault s g with skim := r }, ?_, rfl, ?_, fun off hoff => ?_⟩
  · show execSkim (192 + g) s = _
    simp only [execSkim, power, Bool.not_true, Bool.false_eq_true, if_false, Nat.not_lt.2 (Nat.le_add_right 192 g), Nat.add_sub_cancel_left,
      pending]
  · rw [getVault_setVault_same]
    exact hk
  · exact tagAt_skimTags hs v _ (vaultGranuleGen_unit _ hg hoff)

/-! ## Counters, cache shares and the units of a region (R90, R91, R98) -/

theorem halveAll_keys {x : Nat × BitVec 16 × Bool} (t : Sparse (BitVec 16 × Bool)) (hx : x ∈ halveAll t) : ∃ y ∈ t, y.1 = x.1 := by
  induction t with
  | nil => cases hx
  | cons a r ih =>
    obtain ⟨k, n, w⟩ := a
    unfold halveAll at hx
    split at hx
    · exact (ih hx).imp fun y hy => ⟨List.mem_cons_of_mem _ hy.1, hy.2⟩
    · rcases List.mem_cons.1 hx with rfl | hx
      · exact ⟨_, List.mem_cons_self .., rfl⟩
      · exact (ih hx).imp fun y hy => ⟨List.mem_cons_of_mem _ hy.1, hy.2⟩

theorem zero_half : (0 : BitVec 16) / 2 = 0 := by decide

theorem sget_halveAll (t : Sparse (BitVec 16 × Bool)) (wf : sparseWf (0, false) t = true) (k : Nat) :
    sget (0, false) (halveAll t) k = ((sget (0, false) t k).1 / 2, (sget (0, false) t k).2) := by
  induction t with
  | nil =>
    rw [halveAll, sget, zero_half]
  | cons a r ih =>
    obtain ⟨k', n, w⟩ := a
    obtain ⟨-, wfr, above⟩ := (sparseWf_cons _ _ _ r).1 wf
    have absent : k ≤ k' → sget (0, false) (halveAll r) k = (0, false) := fun le => sget_lt _ _ k fun x hx => by
      obtain ⟨y, hy, key⟩ := halveAll_keys r hx
      exact key ▸ Nat.lt_of_le_of_lt le (above y hy)
    by_cases dropped : (n / 2 = 0 && !w) = true
    · rw [halveAll, if_pos dropped]
      simp only [Bool.and_eq_true, decide_eq_true_eq, Bool.not_eq_true'] at dropped
      obtain ⟨half, mark⟩ := dropped
      by_cases same : k' = k
      · rw [absent (Nat.le_of_eq same.symm), sget, if_pos same, half, mark]
      · by_cases below : k < k'
        · rw [absent (Nat.le_of_lt below), sget, if_neg same, if_pos below, zero_half]
        · rw [ih wfr, sget, if_neg same, if_neg below]
    · rw [halveAll, if_neg dropped]
      by_cases same : k' = k
      · rw [sget, if_pos same, sget, if_pos same]
      · by_cases below : k < k'
        · rw [sget, if_neg same, if_pos below, sget, if_neg same, if_pos below, zero_half]
        · rw [sget, if_neg same, if_neg below, ih wfr, sget, if_neg same, if_neg below]

theorem exec_accessCounterHalve (s : State) : (s.time0 < s.halveAt → exec .accessCounterHalve s = .next s) ∧
    (s.halveAt ≤ s.time0 → ∃ t, exec .accessCounterHalve s = .next t ∧ t = { s with access := t.access, halveAt := s.halveAt + 1024000 } ∧
    (sparseWf (0, false) s.access = true → ∀ r, sget (0, false) t.access r =
      ((sget (0, false) s.access r).1 / 2, (sget (0, false) s.access r).2))) := by
  refine ⟨fun early => congrArg Host.Outcome.next (if_pos early), fun due => ⟨{ s with access := halveAll s.access, halveAt := s.halveAt + 1024000 },
    congrArg Host.Outcome.next (if_neg (Nat.not_lt.2 due)), rfl, fun wf r => ?_⟩⟩
  exact sget_halveAll s.access wf r

theorem exec_cacheShareChange (v share : Nat) (s : State) (hv : v < 48) (hk : v < s.vaults.length) (hshare : share ∈ [0, 4, 8, 12])
    (power : powered s = true) :
    ((∃ r ∈ (getVault s v).units, (16 - max (getVault s v).share share) * 16 < r.first + r.count) →
      exec (.cacheShareChange v share) s = .next s) ∧
    ((∀ r ∈ (getVault s v).units, r.first + r.count ≤ (16 - max (getVault s v).share share) * 16) →
      ∃ t, exec (.cacheShareChange v share) s = .next t ∧ t.mem = s.mem ∧ (getVault t v).share = share ∧
        (getVault t v).units = (getVault s v).units ∧ ∀ x ∈ t.dcache, x.2.1 ≠ v) := by
  have guard : (decide (48 ≤ v) || !([0, 4, 8, 12].contains share) || !powered s ||
      (getVault s v).units.any (fun r => (16 - max (getVault s v).share share) * 16 < r.first + r.count)) =
      (getVault s v).units.any (fun r => (16 - max (getVault s v).share share) * 16 < r.first + r.count) := by
    rw [List.contains_iff_mem.2 hshare, power, decide_eq_false (by omega)]
    rfl
  obtain ⟨tags, runs⟩ : ∃ g, exec (.cacheShareChange v share) s =
      if (getVault s v).units.any (fun r => (16 - max (getVault s v).share share) * 16 < r.first + r.count) then .next s
      else .next { setVault s v { getVault s v with share := share } with dcache := s.dcache.filter (fun l => l.2.1 ≠ v), tags := g } := by
    obtain ⟨o, made⟩ : ∃ o, execCacheShareChange v share s = o := ⟨_, rfl⟩
    have runs : exec (.cacheShareChange v share) s = o := made
    unfold execCacheShareChange at made
    dsimp only at made
    rw [guard] at made
    exact ⟨_, runs.trans made.symm⟩
  rw [runs]
  refine ⟨fun ⟨r, hr, held⟩ => if_pos (List.any_eq_true.2 ⟨r, hr, decide_eq_true held⟩), fun free => ?_⟩
  have vault : getVault (setVault s v { getVault s v with share := share }) v = { getVault s v with share := share } :=
    getVault_setVault_same hk _
  refine ⟨_, if_neg fun held => ?_, rfl, (congrArg Vault.share vault :), (congrArg Vault.units vault :), fun x hx => ?_⟩
  · obtain ⟨r, hr, held⟩ := List.any_eq_true.1 held
    exact Nat.not_lt.2 (free r hr) (of_decide_eq_true held)
  · exact of_decide_eq_true (List.mem_filter.1 hx).2

theorem getVault_recharge (s : State) (v : Nat) : getVault (recharge s) v = getVault s v := by
  rw [getVault, recharge_chargesOnly s]
  rfl

theorem foldl_clearTags_onlyTags (key count : Run → Nat) (rs : List Run) (s : State) :
    rs.foldl (fun s r => clearTags s (key r) (count r)) s =
      { s with tags := (rs.foldl (fun s r => clearTags s (key r) (count r)) s).tags } :=
  List.foldlRecOn rs _ (motive := fun t : State => t = { s with tags := t.tags }) rfl fun t ht r _ => by
    rw [clearTags_onlyTags, ht]

theorem getVault_freeVaultRuns {s : State} {v : Nat} (hv : v < s.vaults.length) (l : Nat) :
    getVault (freeVaultRuns l s v) v = { getVault s v with units := (getVault s v).units.filter (fun r => r.owner ≠ l) } := by
  unfold freeVaultRuns
  dsimp only
  rw [foldl_clearTags_onlyTags (fun r => vaultKey v (r.first * 65536)) (fun r => 1024 * r.count)]
  exact getVault_setVault_same hv _

theorem exec_regionVault (node v : Nat) (n : DWord) (s : State) (x : Node) (found : getNode s node = some x) (hv : v < 48)
    (hk : v < s.vaults.length) (stage : s.stage ≠ 0xFF) :
    (n.toNat = 0 → ∃ t, exec (.registerWrite (.regionVault node v) n) s = .next t ∧
      (getVault t v).units = (getVault s v).units.filter (fun r => r.owner ≠ regionOwner node)) ∧
    (n.toNat ≠ 0 → (getVault s v).issueReady 1 = true →
      (freeVault (getVault s v) n.toNat = none → exec (.registerWrite (.regionVault node v) n) s = .next s) ∧
      ∀ u, freeVault (getVault s v) n.toNat = some u → ∃ t, exec (.registerWrite (.regionVault node v) n) s = .next t ∧
        (getVault t v).units = (getVault s v).units ++ [⟨u, n.toNat, (getVault s v).issueGen.1, 2, false, regionOwner node⟩]) := by
  have taken : exec (.registerWrite (.regionVault node v) n) s = .next (regionVaultWrite s node v n.toNat) := if_neg stage
  have guard : (decide (48 ≤ v) || (getNode s node).isNone) = false := by
    rw [found, decide_eq_false (by omega)]
    rfl
  rw [taken]
  refine ⟨fun free => ⟨_, rfl, ?_⟩, fun some ready => ⟨fun full => ?_, fun u run => ⟨_, rfl, ?_⟩⟩⟩
  · simp only [regionVaultWrite, guard, Bool.false_eq_true, if_false, free, if_true, getVault_recharge, getVault_freeVaultRuns hk]
  · simp only [regionVaultWrite, guard, Bool.false_eq_true, if_false, some, ready, Bool.not_true, full]
  · simp only [regionVaultWrite, guard, Bool.false_eq_true, if_false, some, ready, Bool.not_true, run, getVault_recharge,
      getVault_setVault_same hk]
    rfl

/-! ## The obligation -/

/-- Settles O50: each of its clauses is an equation above. -/
theorem homesPerformWrites : Obligations.HomesPerformWrites := by
  unfold Obligations.HomesPerformWrites
  refine ⟨⟨exec_homeWrite, exec_l1WriteBack, exec_deviceCacheEviction⟩,
    ⟨fun k row s hs _ => exec_tagRewrite k row s hs, exec_skim_core, exec_skim_vault, exec_accessCounterHalve, exec_cacheShareChange⟩,
    exec_regionVault⟩

end Sys2Proof.Proofs.Registers

end

section
/-! PROOFS. What the host does to the device: its writes, and a snoop of its lines (R321, R323). -/

open Sys2Proof Sys2Proof.Machine
open Sys2Proof.Proofs.ExecutionModel (SendsOnly writeBackLine_sendsOnly writeBackLine_cores getCore_writeBackLine_other
  foldl_writeBackLine_dirty getCore_set spaceOf_ranges)

namespace Sys2Proof.Proofs.Registers

/-! ## Writes of the host (R92, R321) -/

theorem touchLines_onlyCache (s : State) (k n : Nat) (dirty : Bool) :
    touchLines s k n dirty = { s with dcache := (touchLines s k n dirty).dcache } :=
  List.foldlRecOn _ _ (motive := fun t : State => t = { s with dcache := t.dcache }) rfl fun t ht i _ => by
    dsimp only
    split
    · rw [cacheTouch_onlyCache, ht]
    · exact ht

theorem exec_hostWrite (addr : Nat) (d : List Byte) (s : State) (hs : s.canonical)
    (range : addr + d.length ≤ hbmBytes ∨ hostKey 0 ≤ addr ∧ addr + d.length ≤ hostKey (2 ^ 64)) (power : powered s = true) :
    ∃ t, exec (.hostWrite addr d) s = .next t ∧ t = { s with mem := t.mem, poison := t.poison, dcache := t.dcache } ∧
      (∀ i, i < d.length → memRead t.mem (addr + i) = d.getD i 0) ∧
      ∀ k, k < addr ∨ addr + d.length ≤ k → memRead t.mem k = memRead s.mem k := by
  obtain ⟨c, runs⟩ : ∃ c, exec (.hostWrite addr d) s = .next { directWrite s addr d with dcache := c } := by
    show ∃ c, execHostWrite addr d s = _
    by_cases hbm : addr + d.length ≤ hbmBytes
    · rw [execHostWrite, if_pos hbm, if_pos power, touchLines_onlyCache]
      exact ⟨_, rfl⟩
    · rw [execHostWrite, if_neg hbm, if_pos (by simpa using range.resolve_left hbm)]
      exact ⟨s.dcache, rfl⟩
  exact ⟨_, runs, rfl, fun i hi => memRead_memWriteList_at d _ _ _ hs.1 hi, fun k out => memRead_memWriteList_other d _ _ _ hs.1 out⟩

/-! ## A line in a core's table (R88) -/

theorem find?_filter_agree {α : Type} {p q : α → Bool} (h : ∀ x, q x = true → p x = true) (xs : List α) :
    (xs.filter p).find? q = xs.find? q := by
  rw [List.find?_filter]
  congr 1
  funext x
  cases hq : q x <;> simp [h, hq]

/-- A line that enters a core's table takes the place of the one of its space and generation, and of no other. -/
theorem findLine_putLine (c : Core) (x : Line) (a m : BitVec 16) (p : Place) :
    findLine (putLine c x) a m p = if x.line = p ∧ x.asid = a ∧ x.mapgen = m then some x else findLine c a m p := by
  unfold findLine putLine
  rw [List.find?_cons]
  by_cases key : x.line = p ∧ x.asid = a ∧ x.mapgen = m
  · obtain ⟨rfl, rfl, rfl⟩ := key
    simp
  · rw [if_neg key, show (decide (x.line = p) && decide (x.asid = a) && decide (x.mapgen = m)) = false by simpa using key]
    refine find?_filter_agree (fun y hy => ?_) c.lines
    simp only [Bool.and_eq_true, decide_eq_true_eq] at hy
    obtain ⟨⟨rfl, rfl⟩, rfl⟩ := hy
    rw [Bool.not_eq_true', Bool.eq_false_iff]
    intro same
    simp only [Bool.and_eq_true, decide_eq_true_eq] at same
    obtain ⟨⟨line, asid⟩, gen⟩ := same
    exact key ⟨line.symm, asid.symm, gen.symm⟩

/-- The identity of a line in a core's table. -/
def lineKey (x : Line) : Place × BitVec 16 × BitVec 16 := (x.line, x.asid, x.mapgen)

theorem findLine_of_mem {c : Core} (nodup : (c.lines.map lineKey).Nodup) {x : Line} (hx : x ∈ c.lines) :
    findLine c x.asid x.mapgen x.line = some x := by
  unfold findLine
  generalize c.lines = ls at nodup hx
  induction ls with
  | nil => cases hx
  | cons y r ih =>
    obtain ⟨fresh, rest⟩ := List.nodup_cons.1 nodup
    rw [List.find?_cons]
    rcases List.mem_cons.1 hx with rfl | hx
    · simp
    · split
      · next same =>
        simp only [Bool.and_eq_true, decide_eq_true_eq] at same
        obtain ⟨⟨line, asid⟩, gen⟩ := same
        exact absurd (List.mem_map.2 ⟨x, hx, by rw [lineKey, lineKey, line, asid, gen]⟩) fresh
      · exact ih rest hx

/-! ## Snoops (R88, R323) -/

/-- When the lease of a core's copy of a line ends. -/
def leaseAt (s : State) (k : Nat) (a m : BitVec 16) (p : Place) : Option Nat := (findLine (getCore s k) a m p).map Line.leaseEnd

theorem leaseAt_writeBackLine (s : State) {k : Nat} (hk : k < s.cores.length) {x : Line} (ctx : Option Nat)
    (there : leaseAt s k x.asid x.mapgen x.line = some x.leaseEnd) (a m : BitVec 16) (p : Place) :
    leaseAt (writeBackLine s k x ctx) k a m p = leaseAt s k a m p := by
  unfold leaseAt
  by_cases clean : x.dirty = 0
  · rw [writeBackLine, if_pos clean]
  · have cores := writeBackLine_cores s k x ctx 0
    rw [if_neg clean] at cores
    rw [getCore_set s cores k, if_pos ⟨rfl, hk⟩, findLine_putLine]
    split
    · next key =>
      obtain ⟨rfl, rfl, rfl⟩ := key
      exact there.symm
    · rfl

/-- What write-backs of lines of core `k` at one place send and leave. -/
theorem foldl_writeBackLine_snoops (k line : Nat) (xs : List Line) (s : State) (hk : k < s.cores.length) (place : ∀ x ∈ xs, x.line = .here line)
    (there : ∀ x ∈ xs, leaseAt s k x.asid x.mapgen x.line = some x.leaseEnd) :
    let t := xs.foldl (fun s x => writeBackLine s k x none) s
    SendsOnly s t ∧ (∃ ws, t.homeQ = s.homeQ ++ ws ∧ ∀ w ∈ ws, w.line = .here line) ∧ ∀ a m p, leaseAt t k a m p = leaseAt s k a m p := by
  induction xs generalizing s with
  | nil => exact ⟨.refl s, ⟨[], (List.append_nil _).symm, nofun⟩, fun _ _ _ => rfl⟩
  | cons x r ih =>
    have kept := leaseAt_writeBackLine s hk none (there x (List.mem_cons_self ..))
    have length : (writeBackLine s k x none).cores.length = s.cores.length := by
      rw [writeBackLine_cores]
      split <;> simp
    have sent : ∃ ws, (writeBackLine s k x none).homeQ = s.homeQ ++ ws ∧ ∀ w ∈ ws, w.line = .here line := by
      by_cases clean : x.dirty = 0
      · exact ⟨[], by rw [writeBackLine, if_pos clean, List.append_nil], nofun⟩
      · obtain ⟨⟨w, queue, wline, -, -⟩, -⟩ := writeBackLine_sends s k clean none 0
        exact ⟨[w], queue, fun v hv => by rw [List.mem_singleton.1 hv, wline, place x (List.mem_cons_self ..)]⟩
    obtain ⟨sends, ⟨ws, queue, lines⟩, leases⟩ := ih (writeBackLine s k x none) (by rw [length]; exact hk)
      (fun y hy => place y (List.mem_cons_of_mem _ hy)) (fun y hy => by rw [kept]; exact there y (List.mem_cons_of_mem _ hy))
    obtain ⟨ws0, queue0, lines0⟩ := sent
    refine ⟨(writeBackLine_sendsOnly ..).trans sends, ⟨ws0 ++ ws, ?_, fun w hw => ?_⟩, fun a m p => (leases a m p).trans (kept a m p)⟩
    · rw [List.foldl_cons, queue, queue0, List.append_assoc]
    · exact (List.mem_append.1 hw).elim (lines0 w) (lines w)

/-- Core `k` writes back its lines of a place. -/
def snoopCore (line : Nat) (s : State) (k : Nat) : State :=
  ((getCore s k).lines.filter (fun x => x.line = .here line)).foldl (fun s x => writeBackLine s k x none) s

/-- The cores below `n` have been snooped for a line. -/
structure Snooped (line n : Nat) (s t : State) : Prop where
  sends : SendsOnly s t
  queue : ∃ ws, t.homeQ = s.homeQ ++ ws ∧ ∀ w ∈ ws, w.line = .here line
  length : t.cores.length = s.cores.length
  clean : ∀ k, k < n → ∀ x ∈ (getCore t k).lines, x.line = .here line → x.dirty = 0
  rest : ∀ k, n ≤ k → getCore t k = getCore s k
  leases : ∀ k a m p, leaseAt t k a m p = leaseAt s k a m p

theorem Snooped.succ {line n : Nat} {s t : State} (h : Snooped line n s t) (hn : n < s.cores.length)
    (nodup : ((getCore s n).lines.map lineKey).Nodup) : Snooped line (n + 1) s (snoopCore line t n) := by
  obtain ⟨sends, ⟨ws, queue, lines⟩, length, clean, rest, leases⟩ := h
  have hk : n < t.cores.length := by rw [length]; exact hn
  have same := rest n (Nat.le_refl n)
  have place : ∀ x ∈ (getCore t n).lines.filter (fun x => x.line = .here line), x.line = .here line := fun x hx =>
    of_decide_eq_true (List.mem_filter.1 hx).2
  have there : ∀ x ∈ (getCore t n).lines.filter (fun x => x.line = .here line), leaseAt t n x.asid x.mapgen x.line = some x.leaseEnd := by
    intro x hx
    rw [leaseAt, findLine_of_mem (by rw [same]; exact nodup) (List.mem_filter.1 hx).1]
    rfl
  obtain ⟨sends', ⟨ws', queue', lines'⟩, leases'⟩ := foldl_writeBackLine_snoops n line _ t hk place there
  obtain ⟨length', others, left⟩ := foldl_writeBackLine_dirty n none ((getCore t n).lines.filter (fun x => x.line = .here line)) t hk
  refine ⟨sends.trans sends', ⟨ws ++ ws', ?_, fun w hw => (List.mem_append.1 hw).elim (lines w) (lines' w)⟩, length'.trans length,
    fun k hkn x hx line => ?_, fun k hkn => ?_, fun k a m p => ?_⟩
  · rw [snoopCore, queue', queue, List.append_assoc]
  · by_cases last : k = n
    · subst last
      by_contra dirty
      obtain ⟨before, notin⟩ := left x hx dirty
      exact notin (List.mem_filter.2 ⟨before, decide_eq_true line⟩)
    · exact clean k (by omega) x (by rw [← others k last]; exact hx) line
  · exact (others k (by omega)).trans (rest k (by omega))
  · by_cases last : k = n
    · subst last
      exact (leases' a m p).trans (leases k a m p)
    · rw [leaseAt, snoopCore, others k last]
      exact leases k a m p

theorem Snooped.foldl {line : Nat} {s : State} (nodup : ∀ k, k < s.cores.length → ((getCore s k).lines.map lineKey).Nodup) (n : Nat)
    (hn : n ≤ s.cores.length) : Snooped line n s ((List.range n).foldl (snoopCore line) s) := by
  induction n with
  | zero => exact ⟨.refl s, ⟨[], (List.append_nil _).symm, nofun⟩, rfl, nofun, fun _ _ => rfl, fun _ _ _ _ => rfl⟩
  | succ n ih =>
    rw [List.range_succ, List.foldl_append]
    exact (ih (by omega)).succ (by omega) (nodup n (by omega))

theorem exec_hostSnoop (line : Nat) (s : State) (low : hostKey 0 ≤ line * 128) (high : line * 128 < hostKey (2 ^ 64)) (power : powered s = true)
    (nodup : ∀ k, k < s.cores.length → ((getCore s k).lines.map (fun x => (x.line, x.asid, x.mapgen))).Nodup) :
    ∃ t ws, exec (.hostSnoop line) s = .next t ∧ t.mem = s.mem ∧ t.ctxs = s.ctxs ∧ t.homeQ = s.homeQ ++ ws ∧
      (∀ w ∈ ws, w.line = .here line) ∧ (∀ k x, k < s.cores.length → x ∈ (getCore t k).lines → x.line = .here line → x.dirty = 0) ∧
      ∀ k a m p, k < s.cores.length →
        (findLine (getCore t k) a m p).map Line.leaseEnd = (findLine (getCore s k) a m p).map Line.leaseEnd := by
  have host : spaceOf (line * 128) = .host := by
    generalize line * 128 = key at low high
    unfold hostKey at low high
    exact (spaceOf_ranges key).2.1 (by omega) (by omega)
  have runs : exec (.hostSnoop line) s = .next ((List.range s.cores.length).foldl (snoopCore line) s) := by
    show execHostSnoop line s = _
    simp only [execHostSnoop, host, power, ne_eq, not_true_eq_false, decide_false, Bool.not_true, Bool.or_self, Bool.false_eq_true, if_false]
    rfl
  obtain ⟨sends, ⟨ws, queue, lines⟩, -, clean, -, leases⟩ := Snooped.foldl (line := line) nodup s.cores.length (Nat.le_refl _)
  exact ⟨_, ws, runs, sends.mem, sends.ctxs, queue, lines, fun k x hk => clean k hk x, fun k a m p _ => leases k a m p⟩

end Sys2Proof.Proofs.Registers

end

section
/-! PROOFS. A peer's access of one line is performed here, or its fault is served here (R118, R321, R347, R352). -/

open Sys2Proof Sys2Proof.Machine
open Sys2Proof.Proofs.ExecutionModel (SendsOnly pushError_sendsOnly pushError_room writeWords_onlyMem readWord_congr)

namespace Sys2Proof.Proofs.Registers

/-! ## A waiting access (R118) -/

theorem inboundOwed_iff (s : State) (r : PeerAccess) : inboundOwed s r = true ↔ ⟨r, none⟩ ∈ s.inbound := by
  rw [inboundOwed, List.any_eq_true]
  constructor
  · rintro ⟨⟨a, b⟩, hx, waits⟩
    simp only [Bool.and_eq_true, decide_eq_true_eq, Option.isNone_iff_eq_none] at waits
    obtain ⟨rfl, rfl⟩ := waits
    exact hx
  · intro h
    exact ⟨_, h, by simp⟩

theorem inbound_others (s : State) (r : PeerAccess) :
    s.inbound.filter (fun x => !(x.access = r && x.batch.isNone)) = s.inbound.filter (fun x => x ≠ ⟨r, none⟩) := by
  refine List.filter_congr fun x _ => ?_
  obtain ⟨a, b⟩ := x
  cases b <;> simp

theorem inboundError_sendsOnly (s : State) (r : PeerAccess) (code : Nat) : SendsOnly s (inboundError s r code) := pushError_sendsOnly ..

theorem fqWrite_frame (rs : List (List Word)) (s : State) (seq : Word) :
    fqWrite s seq rs = { s with mem := (fqWrite s seq rs).mem, fqProduced := (fqWrite s seq rs).fqProduced } := by
  induction rs generalizing s with
  | nil => rfl
  | cons r rest ih =>
    unfold fqWrite
    dsimp only
    rw [ih, writeWords_onlyMem]

theorem fqBatch_errors (s : State) (rs : List (List Word)) : (fqBatch s rs).2.errors = s.errors := by
  show (fqWrite s s.fqSeq rs).errors = s.errors
  rw [fqWrite_frame]

theorem fqBatch_fqBatches (s : State) (rs : List (List Word)) : (fqBatch s rs).2.fqBatches = s.fqBatches ++ [(rs.length, (fqBatch s rs).1)] := by
  show (fqWrite s s.fqSeq rs).fqBatches ++ _ = _
  rw [fqWrite_frame]
  rfl

theorem inboundError_inbound (s : State) (r : PeerAccess) (code : Nat) : (inboundError s r code).inbound = s.inbound := by
  rw [inboundError_sendsOnly s r code]

theorem inboundError_fqBatches (s : State) (r : PeerAccess) (code : Nat) : (inboundError s r code).fqBatches = s.fqBatches := by
  rw [inboundError_sendsOnly s r code]

theorem inboundError_errors {s : State} (room : s.errors.length < 1024) (r : PeerAccess) (code : Nat) :
    (inboundError s r code).errors.length = s.errors.length + 1 := by
  rw [inboundError, portError, linkError, pushError_room room, List.length_append]
  rfl

/-- A fault record with room is written as a batch of its own, and the access waits for it. -/
theorem inboundPage_room {s : State} {r : PeerAccess} (room : fqRoom s 1 = true ∨ fqServes s (.inbound r) 1 = true) : ∃ b,
    (inboundPage s r).inbound = s.inbound.filter (fun x => x ≠ ⟨r, none⟩) ++ [⟨r, some b⟩] ∧
    (inboundPage s r).fqBatches = s.fqBatches ++ [(1, b)] ∧
    (s.errors.length < 1024 → (inboundPage s r).errors.length = s.errors.length + 1) := by
  have batches := fqBatch_fqBatches s [inboundRecord s r]
  have errors := fqBatch_errors s [inboundRecord s r]
  refine ⟨(fqBatch s [inboundRecord s r]).1, ?_⟩
  unfold inboundPage
  rw [if_pos (Bool.or_eq_true_iff.2 room), inbound_others]
  generalize fqBatch s [inboundRecord s r] = z at batches errors
  obtain ⟨b, t⟩ := z
  dsimp only at batches errors ⊢
  rw [inboundError_inbound, inboundError_fqBatches]
  exact ⟨rfl, batches, fun short => (inboundError_errors (by rw [errors]; exact short) r PAGE).trans (by rw [errors])⟩

/-- One without room joins the line. -/
theorem inboundPage_line {s : State} {r : PeerAccess} (room : fqRoom s 1 = false) (serves : fqServes s (.inbound r) 1 = false) :
    inboundPage s r = { s with inbound := (inboundPage s r).inbound, fqLine := (inboundPage s r).fqLine } ∧
    .inbound r ∈ (inboundPage s r).fqLine ∧ (inboundPage s r).inbound = s.inbound.filter (fun x => x ≠ ⟨r, none⟩) ++ [⟨r, none⟩] := by
  have line : inboundPage s r = fqJoin { s with inbound := s.inbound.filter (fun x => x ≠ ⟨r, none⟩) ++ [⟨r, none⟩] } (.inbound r) := by
    simp only [inboundPage, room, serves, Bool.or_self, Bool.false_eq_true, if_false, inbound_others]
  rw [line, fqJoin]
  split
  · next there => exact ⟨rfl, (List.mem_filter.1 (List.contains_iff_mem.1 there)).1, rfl⟩
  · exact ⟨rfl, List.mem_append_right _ (List.mem_singleton.2 rfl), rfl⟩

/-! ## The access performed (R92, R129, R310, R321, R347) -/

section
variable {s : State} {r : PeerAccess} {k : Nat}

/-- No byte that the access reads is uncorrectable. -/
def SoundAt (s : State) (k n : Nat) : Prop := ∀ i, i < n → poisonAt s (k + i) = false

theorem soundAt_iff (s : State) (k n : Nat) : (List.range n).any (fun i => poisonAt s (k + i)) = false ↔ SoundAt s k n := by
  simp [SoundAt]

theorem inboundPerform_poisoned (reads : r.data = none ∨ r.rmw ≠ none) (bad : ¬ SoundAt s k r.size) :
    inboundPerform s r k = inboundError s r UE := by
  rw [← soundAt_iff, Bool.not_eq_false] at bad
  unfold inboundPerform
  rcases hrmw : r.rmw with - | ⟨v1, op, x, cmp⟩
  · rw [reads.resolve_right (fun h => h hrmw)]
    exact if_pos bad
  · exact if_pos bad

theorem inboundPerform_read (data : r.data = none) (rmw : r.rmw = none) (sound : SoundAt s k r.size) :
    inboundPerform s r k = { s with dcache := (inboundPerform s r k).dcache } := by
  have good := (soundAt_iff ..).2 sound
  have read : inboundPerform s r k = touchLines s k r.size false := by
    unfold inboundPerform
    rw [rmw, data]
    exact if_neg (by rw [good]; decide)
  rw [read]
  exact touchLines_onlyCache ..

/-- The home after an access that writes. -/
theorem touched_frame (t : State) (k n : Nat) : ∃ d a, markWritten (touchLines t k n true) (.here k) = { t with dcache := d, access := a } := by
  rw [markWritten_onlyAccess, touchLines_onlyCache]
  exact ⟨_, _, rfl⟩

theorem inboundPerform_write {d : List Byte} (rmw : r.rmw = none) (data : r.data = some d) (size : d.length = r.size) : ∃ p c a,
    inboundPerform s r k = { s with mem := memWriteList s.mem k d, poison := p, dcache := c, access := a } := by
  have bytes : (d ++ List.replicate r.size 0).take r.size = d := by rw [← size, List.take_left]
  obtain ⟨c, a, after⟩ := touched_frame (directWrite s k d) k r.size
  refine ⟨_, c, a, Eq.trans ?_ after⟩
  unfold inboundPerform
  rw [rmw, data]
  dsimp only
  rw [bytes]

/-- The words of a read-modify-write at its home. -/
def rmwWritten (s : State) (v1 : Bool) (op : Nat) (x cmp : Word) (k : Nat) : State :=
  let v := rmwWord v1 op (readWord s k) x cmp
  let st := readWord s (k + 4)
  if op = joinDown && joinFires v st then writeWord (writeWord s k v) (k + 4) (firedWord st) else writeWord s k v

theorem rmwWritten_onlyMem (s : State) (v1 : Bool) (op : Nat) (x cmp : Word) (k : Nat) :
    rmwWritten s v1 op x cmp k = { s with mem := (rmwWritten s v1 op x cmp k).mem } := by
  unfold rmwWritten
  dsimp only
  split <;> rfl

theorem inboundPerform_rmw {v1 : Bool} {op : Nat} {x cmp : Word} (rmw : r.rmw = some (v1, op, x, cmp)) (sound : SoundAt s k r.size) : ∃ c a,
    inboundPerform s r k = { s with mem := (rmwWritten s v1 op x cmp k).mem, dcache := c, access := a } := by
  obtain ⟨c, a, after⟩ := touched_frame (rmwWritten s v1 op x cmp k) k 4
  have good := (soundAt_iff ..).2 sound
  rw [rmwWritten_onlyMem] at after
  refine ⟨c, a, Eq.trans ?_ after⟩
  unfold inboundPerform
  rw [rmw, ← rmwWritten_onlyMem]
  exact if_neg (by rw [good]; decide)

theorem readWord_writeWord_apart (wf : Memory.wf s.mem = true) {k j : Nat} (w : Word) (apart : j + 4 ≤ k ∨ k + 4 ≤ j) :
    readWord (writeWord s k w) j = readWord s j :=
  readWord_congr fun i hi => memRead_writeWord_wf wf w (by omega)

theorem joinFires_iff (old st : Word) : joinFires (old - 1) st = true ↔ old = 1 ∧ bits st 1 0 < 2 := by
  simp only [joinFires, Bool.and_eq_true, decide_eq_true_eq]
  exact and_congr_left' sub_eq_zero

section
variable (wf : Memory.wf s.mem = true) (v1 : Bool) (x cmp : Word) (k : Nat)
include wf

theorem rmwWritten_apart (op : Nat) {y : Nat} (apart : y < k ∨ (if op = 16 then k + 8 else k + 4) ≤ y) :
    memRead (rmwWritten s v1 op x cmp k).mem y = memRead s.mem y := by
  unfold rmwWritten
  dsimp only
  split
  · next fires =>
    rw [Bool.and_eq_true] at fires
    rw [if_pos (show op = 16 from of_decide_eq_true fires.1)] at apart
    exact (memRead_writeWord_wf (memWriteList_wf _ _ _ wf) _ (by omega)).trans (memRead_writeWord_wf wf _ (by omega))
  · exact memRead_writeWord_wf wf _ (by split at apart <;> omega)

theorem rmwWritten_atomic {op : Nat} (atomic : op < 16) :
    readWord (rmwWritten s v1 op x cmp k) k = atomOp op v1 (readWord s k) x cmp := by
  unfold rmwWritten rmwWord joinDown joinOpen
  simp only [show op ≠ 16 by omega, show op ≠ 17 by omega, decide_false, Bool.false_and, Bool.false_eq_true, if_false]
  exact readWord_writeWord_wf wf k _

theorem rmwWritten_open : readWord (rmwWritten s v1 17 x cmp k) k = (readWord s k &&& 0xFFFFFFFC) ||| 1 :=
  readWord_writeWord_wf wf k _

theorem rmwWritten_down : readWord (rmwWritten s v1 16 x cmp k) k = readWord s k - 1 ∧ readWord (rmwWritten s v1 16 x cmp k) (k + 4) =
    if readWord s k = 1 ∧ bits (readWord s (k + 4)) 1 0 < 2 then (readWord s (k + 4) &&& 0xFFFFFFFC) ||| 2 else readWord s (k + 4) := by
  have after : rmwWritten s v1 16 x cmp k = if joinFires (readWord s k - 1) (readWord s (k + 4)) = true
      then writeWord (writeWord s k (readWord s k - 1)) (k + 4) (firedWord (readWord s (k + 4))) else writeWord s k (readWord s k - 1) := rfl
  have wf' : Memory.wf (writeWord s k (readWord s k - 1)).mem = true := memWriteList_wf _ _ _ wf
  rw [after]
  simp only [joinFires_iff]
  split
  · exact ⟨(readWord_writeWord_apart wf' _ (by omega)).trans (readWord_writeWord_wf wf k _), readWord_writeWord_wf wf' _ _⟩
  · exact ⟨readWord_writeWord_wf wf k _, readWord_writeWord_apart wf _ (by omega)⟩

end

end

/-! ## Which way an access goes (R118, R137, R321, R352) -/

/-- The device answers the access: it runs, a port to the peer is up, the space is not changing, and the access lies in one line,
a read-modify-write on one word. -/
structure Answers (s : State) (r : PeerAccess) : Prop where
  power : powered s = true
  link : linkUp s r.peer = true
  space : r.asid ∉ s.changing
  line : r.va.toNat % 128 + r.size ≤ 128
  word : r.rmw = none ∨ r.size = 4 ∧ r.va.toNat % 4 = 0

section
variable {s : State} {r : PeerAccess}

/-- The access names a map generation that its space no longer has. -/
def StaleAccess (s : State) (r : PeerAccess) : Prop := r.mapgen ≠ 0 ∧ r.mapgen ≠ astGen s r.asid

/-- The access lies in the address space. -/
def InSpace (r : PeerAccess) : Prop := r.va.toNat < 2 ^ 52 ∧ r.va.toNat + r.size ≤ 2 ^ 52

theorem writes_iff (r : PeerAccess) : (r.data.isSome || r.rmw.isSome) = true ↔ r.data ≠ none ∨ r.rmw ≠ none := by
  cases r.data <;> cases r.rmw <;> simp

theorem stale_iff (s : State) (r : PeerAccess) : (r.mapgen ≠ 0 && r.mapgen ≠ astGen s r.asid) = true ↔ StaleAccess s r := by
  simp [StaleAccess]

theorem inbound_allowed {w : Bool} (allowed : ¬ (r.data ≠ none ∨ r.rmw ≠ none) ∨ w = true) :
    ¬ ((r.data.isSome || r.rmw.isSome) && !w) = true := by
  rw [Bool.and_eq_true, writes_iff, Bool.not_eq_true']
  rintro ⟨write, locked⟩
  rcases allowed with reads | opened
  · exact reads write
  · rw [locked] at opened
    cases opened

/-- An access in the space once its address has been looked up. -/
def inboundWalked (s : State) (r : PeerAccess) : Xlat → Host.Outcome State Fault Refusal
  | .hole a => .fault (.noFrame a)
  | .absent => if r.mapgen ≠ 0 && r.mapgen ≠ astGen s r.asid then .next (inboundError s r MAPGEN) else .next (inboundPage s r)
  | .ok p w _ =>
    if (r.data.isSome || r.rmw.isSome) && !w then .next (inboundError s r PERM)
    else if r.mapgen ≠ 0 && r.mapgen ≠ astGen s r.asid then .next (inboundError s r MAPGEN)
    else match p with
      | .peer _ _ => .next s
      | .here k => .next (inboundPerform s r k)

variable (h : Answers s r)
include h

theorem Answers.guard : (!powered s || !linkUp s r.peer || s.changing.contains r.asid || decide (128 < r.va.toNat % 128 + r.size) ||
    (r.rmw.isSome && (decide (r.size ≠ 4) || decide (r.va.toNat % 4 ≠ 0)))) = false := by
  obtain ⟨power, link, space, line, word⟩ := h
  have free : s.changing.contains r.asid = false := by simpa using space
  have single : (r.rmw.isSome && (decide (r.size ≠ 4) || decide (r.va.toNat % 4 ≠ 0))) = false := by
    rcases word with none | ⟨size, aligned⟩
    · rw [none]
      rfl
    · simp [size, aligned]
  rw [power, link, free, single, decide_eq_false (by omega)]
  rfl

theorem inbound_outside (outside : ¬ InSpace r) : exec (.inboundPeerAccess r) s = .next (inboundError s r BOUNDS) := by
  have past : (decide (2 ^ 52 < r.va.toNat + r.size) || decide (2 ^ 52 ≤ r.va.toNat)) = true := by
    unfold InSpace at outside
    rw [Bool.or_eq_true, decide_eq_true_eq, decide_eq_true_eq]
    omega
  show execInboundPeerAccess r s = _
  unfold execInboundPeerAccess
  dsimp only
  rw [h.guard, if_neg (by decide), if_pos past]

theorem inbound_inside (inside : InSpace r) :
    exec (.inboundPeerAccess r) s = if inboundOwed s r then .next (inboundPage s r) else inboundWalked s r (walk s r.asid r.va.toNat) := by
  have past : (decide (2 ^ 52 < r.va.toNat + r.size) || decide (2 ^ 52 ≤ r.va.toNat)) = false := by
    unfold InSpace at inside
    rw [Bool.or_eq_false_iff, decide_eq_false_iff_not, decide_eq_false_iff_not]
    omega
  show execInboundPeerAccess r s = _
  unfold execInboundPeerAccess
  dsimp only
  rw [h.guard, if_neg (by decide), past, if_neg (by decide)]
  rfl

theorem inbound_absent (inside : InSpace r) (here : ⟨r, none⟩ ∈ s.inbound ∨ walk s r.asid r.va.toNat = .absent) :
    (⟨r, none⟩ ∉ s.inbound → StaleAccess s r → exec (.inboundPeerAccess r) s = .next (inboundError s r MAPGEN)) ∧
    (⟨r, none⟩ ∈ s.inbound ∨ ¬ StaleAccess s r → exec (.inboundPeerAccess r) s = .next (inboundPage s r)) := by
  rw [inbound_inside h inside, ← inboundOwed_iff, ← stale_iff]
  rw [← inboundOwed_iff] at here
  refine ⟨fun fresh stale => ?_, fun waits => ?_⟩
  · rw [if_neg fresh, here.resolve_left fresh]
    exact if_pos stale
  · split
    · rfl
    · next fresh =>
      rw [here.resolve_left fresh]
      exact if_neg (waits.resolve_left fresh)

section
variable {p : Place} {w pin : Bool} (inside : InSpace r) (fresh : ⟨r, none⟩ ∉ s.inbound) (found : walk s r.asid r.va.toNat = .ok p w pin)
include inside fresh found

theorem inbound_translated : exec (.inboundPeerAccess r) s = inboundWalked s r (.ok p w pin) := by
  rw [← inboundOwed_iff] at fresh
  rw [inbound_inside h inside, if_neg fresh, found]

theorem inbound_perm (write : r.data ≠ none ∨ r.rmw ≠ none) (locked : w = false) :
    exec (.inboundPeerAccess r) s = .next (inboundError s r PERM) := by
  rw [inbound_translated h inside fresh found]
  refine if_pos ?_
  rw [(writes_iff r).2 write, locked]
  rfl

theorem inbound_mapgen (allowed : ¬ (r.data ≠ none ∨ r.rmw ≠ none) ∨ w = true) (stale : StaleAccess s r) :
    exec (.inboundPeerAccess r) s = .next (inboundError s r MAPGEN) := by
  rw [inbound_translated h inside fresh found]
  exact (if_neg (inbound_allowed allowed)).trans (if_pos ((stale_iff s r).2 stale))

theorem inbound_here {k : Nat} (allowed : ¬ (r.data ≠ none ∨ r.rmw ≠ none) ∨ w = true) (current : ¬ StaleAccess s r) (place : p = .here k) :
    exec (.inboundPeerAccess r) s = .next (inboundPerform s r k) := by
  rw [inbound_translated h inside fresh found, place]
  exact (if_neg (inbound_allowed allowed)).trans (if_neg (mt (stale_iff s r).1 current))

end

end

theorem exec_inboundPeerAccess (r : PeerAccess) (s : State) (power : powered s = true) (link : linkUp s r.peer = true) (space : r.asid ∉ s.changing)
    (line : r.va.toNat % 128 + r.size ≤ 128) (word : r.rmw = none ∨ r.size = 4 ∧ r.va.toNat % 4 = 0) :
    let stale := r.mapgen ≠ 0 ∧ r.mapgen ≠ astGen s r.asid
    let write := r.data ≠ none ∨ r.rmw ≠ none
    let inside := r.va.toNat < 2 ^ 52 ∧ r.va.toNat + r.size ≤ 2 ^ 52
    let run (t : State) : Prop := exec (.inboundPeerAccess r) s = .next t
    (¬ inside → run (inboundError s r BOUNDS)) ∧
    let owed := ⟨r, none⟩ ∈ s.inbound
    (inside → owed ∨ walk s r.asid r.va.toNat = .absent → (¬ owed → stale → run (inboundError s r MAPGEN)) ∧
      (owed ∨ ¬ stale → fqRoom s 1 = true ∨ fqServes s (.inbound r) 1 = true → ∃ t b, run t ∧
        t.inbound = s.inbound.filter (fun x => x ≠ ⟨r, none⟩) ++ [⟨r, some b⟩] ∧ t.fqBatches = s.fqBatches ++ [(1, b)] ∧
        (s.errors.length < 1024 → t.errors.length = s.errors.length + 1)) ∧
      (owed ∨ ¬ stale → fqRoom s 1 = false → fqServes s (.inbound r) 1 = false → ∃ t, run t ∧
        t = { s with inbound := t.inbound, fqLine := t.fqLine } ∧ .inbound r ∈ t.fqLine ∧
        t.inbound = s.inbound.filter (fun x => x ≠ ⟨r, none⟩) ++ [⟨r, none⟩])) ∧
    ∀ p w pin, inside → ¬ owed → walk s r.asid r.va.toNat = .ok p w pin →
      (write → w = false → run (inboundError s r PERM)) ∧
      (¬ write ∨ w = true → stale → run (inboundError s r MAPGEN)) ∧
      (¬ stale → ¬ write ∨ w = true → ∀ k, p = .here k →
        let sound := ∀ i, i < r.size → poisonAt s (k + i) = false
        (r.data = none ∨ r.rmw ≠ none → ¬ sound → run (inboundError s r UE)) ∧
        (¬ write → sound → ∃ t, run t ∧ t = { s with dcache := t.dcache }) ∧
        (∀ v1 op x cmp, r.rmw = some (v1, op, x, cmp) → sound → s.canonical → ∃ t, run t ∧
          t = { s with mem := t.mem, poison := t.poison, dcache := t.dcache, access := t.access } ∧
          (∀ y, y < k ∨ (if op = 16 then k + 8 else k + 4) ≤ y → memRead t.mem y = memRead s.mem y) ∧
          (op < 16 → readWord t k = atomOp op v1 (readWord s k) x cmp) ∧
          (op = 16 → readWord t k = readWord s k - 1 ∧ readWord t (k + 4) =
            if readWord s k = 1 ∧ bits (readWord s (k + 4)) 1 0 < 2 then (readWord s (k + 4) &&& 0xFFFFFFFC) ||| 2 else readWord s (k + 4)) ∧
          (op = 17 → readWord t k = (readWord s k &&& 0xFFFFFFFC) ||| 1)) ∧
        (∀ d, r.rmw = none → r.data = some d → d.length = r.size → s.canonical → ∃ t, run t ∧
          t = { s with mem := t.mem, poison := t.poison, dcache := t.dcache, access := t.access } ∧
          (∀ i, i < d.length → memRead t.mem (k + i) = d.getD i 0) ∧
          ∀ x, x < k ∨ k + d.length ≤ x → memRead t.mem x = memRead s.mem x)) := by
  have h : Answers s r := ⟨power, link, space, line, word⟩
  refine ⟨inbound_outside h, fun inside here => ?_, fun p w pin inside fresh found => ?_⟩
  · obtain ⟨stales, pages⟩ := inbound_absent h inside here
    refine ⟨stales, fun waits room => ?_, fun waits room serves => ?_⟩
    · obtain ⟨b, after⟩ := inboundPage_room room
      exact ⟨_, b, pages waits, after⟩
    · exact ⟨_, pages waits, inboundPage_line room serves⟩
  · refine ⟨inbound_perm h inside fresh found, inbound_mapgen h inside fresh found, fun current allowed k place => ?_⟩
    have runs := inbound_here h inside fresh found allowed current place
    refine ⟨fun reads bad => ?_, fun reads sound => ⟨_, runs, ?_⟩, fun v1 op x cmp rmw sound hs => ⟨_, runs, ?_⟩,
      fun d rmw data size hs => ⟨_, runs, ?_⟩⟩
    · rw [inboundPerform_poisoned reads bad] at runs
      exact runs
    · rw [not_or, not_not, not_not] at reads
      exact inboundPerform_read reads.1 reads.2 sound
    · obtain ⟨c, a, after⟩ := inboundPerform_rmw rmw sound
      rw [after]
      refine ⟨?_, fun y apart => rmwWritten_apart hs.1 v1 x cmp k op apart, fun atomic => ?_, fun down => ?_, fun up => ?_⟩
      · exact rfl
      · exact rmwWritten_atomic hs.1 v1 x cmp k atomic
      · subst down
        exact rmwWritten_down hs.1 v1 x cmp k
      · subst up
        exact rmwWritten_open hs.1 v1 x cmp k
    · obtain ⟨p, c, a, after⟩ := inboundPerform_write rmw data size
      rw [after]
      exact ⟨rfl, fun i hi => memRead_memWriteList_at d _ _ _ hs.1 hi, fun x apart => memRead_memWriteList_other d _ _ _ hs.1 apart⟩

end Sys2Proof.Proofs.Registers

end

section
/-! PROOFS. Requests of this device to its peers and writes to the host: answers, retries, failures, timeouts and notices (R98, R320,
R332, R352). -/

open Sys2Proof Sys2Proof.Machine
open Sys2Proof.Proofs.ExecutionModel (SendsOnly pushError_sendsOnly setCore_sendsOnly getCtx_id getCtx_setCtx_same getCtx_modCtx_same
  modCtx_eq setCtx_self)

namespace Sys2Proof.Proofs.Registers

/-! ## Records and the queue of requests -/

theorem linkError_sendsOnly (s : State) (peer : BitVec 12) (code : Nat) (lane : Option Nat) (scope : Nat) (w3 pc : Word) (die : BitVec 1) :
    SendsOnly s (linkError s peer code lane scope w3 pc die) := pushError_sendsOnly ..

theorem requestError_sendsOnly (s : State) (r : Request) (code : Nat) : SendsOnly s (requestError s r code) := by
  unfold requestError
  split
  · exact linkError_sendsOnly ..
  · exact linkError_sendsOnly ..

theorem requestError_requests (s : State) (r : Request) (code : Nat) : (requestError s r code).requests = s.requests := by
  rw [requestError_sendsOnly s r code]

theorem requestError_kills (s : State) (r : Request) (code : Nat) : (requestError s r code).kills = s.kills := by
  rw [requestError_sendsOnly s r code]

/-- A request that is set stands in the place of the one of its identity. -/
theorem find?_setRequest {s : State} {id : Nat} {r x : Request} (found : s.requests.find? (fun x => x.id == id) = some r) (hx : x.id = id) :
    (setRequest s x).requests.find? (fun y => y.id == id) = some x := by
  unfold setRequest
  dsimp only
  rw [List.find?_map]
  have same : ((fun y : Request => y.id == id) ∘ fun y => if y.id = x.id then x else y) = fun y => y.id == id := by
    funext y
    by_cases h : y.id = x.id
    · simp [h]
    · simp [h]
  rw [same, found]
  have hr : r.id = id := by simpa using List.find?_some found
  simp [hr, hx]

/-! ## Fatal faults of a context (R82, R335, R339) -/

theorem dropWait_requests (s : State) (c : Ctx) : (dropWait s c).requests = s.requests := by rw [dropWait_mem]
theorem dropWait_homeQ (s : State) (c : Ctx) : (dropWait s c).homeQ = s.homeQ := by rw [dropWait_mem]
theorem pushError_requests (s : State) (r : List Word) : (pushError s r).requests = s.requests := by rw [pushError_sendsOnly s r]

theorem fatal_requests (s : State) (c : Ctx) (code : Nat) (lane : Option Nat) (pc : Word) : (fatal s c code lane pc).requests = s.requests := by
  show (ctxError _ c 3 code lane 0 pc 0).requests = _
  rw [ctxError, pushError_requests, setCtx_requests, dropWait_requests]

theorem fatal_homeQ (s : State) (c : Ctx) (code : Nat) (lane : Option Nat) (pc : Word) : (fatal s c code lane pc).homeQ = s.homeQ := by
  show (ctxError _ c 3 code lane 0 pc 0).homeQ = _
  rw [ctxError, pushError_homeQ, setCtx_homeQ, dropWait_homeQ]

theorem bits_trapCauseOf (old : Word) (lane : Option Nat) {code : Nat} (hcode : code < 256) : bits (trapCauseOf old lane code) 7 0 = code := by
  unfold trapCauseOf bits
  dsimp only
  rw [BitVec.toNat_ofNat]
  generalize (if old.toNat / 2 ^ 16 % 2 ^ (31 + 1 - 16) = 0xFFFF then _ else _) = n
  cases lane <;> simp only [Option.elim] <;> omega

section
variable {s : State} {c : Ctx} {code : Nat} (lane : Option Nat) (lst : Bool) (off : Nat) (addr : Word)

/-- The registers of R82 of a context that a fault ends. -/
def faultRecorded (c : Ctx) (code : Nat) (lane : Option Nat) (lst : Bool) (off : Nat) (addr : Word) : Ctx :=
  if c.isGroup then c.recordFault code lane (trapPcOf lst off) addr else c

theorem takeFault_ineligible (h : handlerEligible code = false) : takeFault s c code lane lst off addr =
    fatal s (faultRecorded c code lane lst off addr) code lane (trapPcOf lst off) := by
  have stays : ¬ Traps s c code := fun traps => by
    rw [traps.eligible] at h
    cases h
  unfold faultRecorded
  cases group : c.isGroup with
  | true => exact takeFault_group lane lst off addr group stays
  | false => exact takeFault_sequencer lane lst off addr group

theorem faultRecorded_id : (faultRecorded c code lane lst off addr).id = c.id := by
  unfold faultRecorded
  split <;> rfl

theorem faultRecorded_launch : (faultRecorded c code lane lst off addr).launch = c.launch := by
  unfold faultRecorded
  split <;> rfl

theorem faultRecorded_wct : (faultRecorded c code lane lst off addr).wct = c.wct := by
  unfold faultRecorded
  split <;> rfl

theorem getCtx_takeFault_ineligible (found : getCtx s c.id = some c) (h : handlerEligible code = false) :
    getCtx (takeFault s c code lane lst off addr) c.id = some { faultRecorded c code lane lst off addr with mode := .faulted } := by
  have same := faultRecorded_id (c := c) (code := code) lane lst off addr
  rw [takeFault_ineligible lane lst off addr h, ← same]
  exact getCtx_fatal (by rw [same]; exact found) code lane _

end

/-! ## A request that fails (R231, R335, R352) -/

/-- What a failed request of context `c` does, that no engine made. -/
theorem failRequest_ends {s : State} {r : Request} {c : Ctx} {code : Nat} (found : getCtx s r.ctx = some c) (alive : c.alive = true)
    (engine : r.engine = none) (fatalCode : handlerEligible code = false) (small : code < 256) :
    ∃ y, getCtx (failRequest s r code) r.ctx = some y ∧ y.mode = .faulted ∧
      (failRequest s r code).kills = s.kills ++ [⟨c.launch, BitVec.ofNat 8 code⟩] ∧ (∀ x ∈ (failRequest s r code).requests, x.id ≠ r.id) ∧
      (c.isGroup = true → bits y.trapCause 7 0 = code) := by
  have hid := getCtx_id found
  obtain ⟨u, hu⟩ : ∃ u, u = dropRequest (requestError s r code) r.id := ⟨_, rfl⟩
  have there : getCtx u c.id = some c := by
    rw [hu, hid, ← found]
    exact (requestError_sendsOnly s r code).getCtx r.ctx
  have fails : failRequest s r code = takeFault u c code r.lane (r.pc.getLsbD 31) (bits r.pc 23 0) 0 := by
    simp only [failRequest, engine, found, alive, if_true, hu]
  rw [fails, ← hid]
  refine ⟨_, getCtx_takeFault_ineligible _ _ _ _ there fatalCode, rfl, ?_, ?_, fun group => ?_⟩
  · rw [takeFault_ineligible _ _ _ _ fatalCode, fatal_kills, faultRecorded_launch, hu]
    exact congrArg (· ++ _) (requestError_kills s r code)
  · rw [takeFault_ineligible _ _ _ _ fatalCode, fatal_requests, hu]
    intro x hx
    exact of_decide_eq_true (List.mem_filter.1 hx).2
  · rw [faultRecorded, if_pos group]
    exact bits_trapCauseOf _ _ small

/-- What only asks keeps the verdict. -/
theorem asked_keeps {s : State} {r x : Request} (found : s.requests.find? (fun x => x.id == r.id) = some r) (code : Nat) (hx : x.id = r.id) :
    (setRequest (requestError s r code) x).ctxs = s.ctxs ∧ (setRequest (requestError s r code) x).kills = s.kills ∧
    (setRequest (requestError s r code) x).requests.find? (fun y => y.id == r.id) = some x := by
  refine ⟨(requestError_sendsOnly s r code).ctxs, requestError_kills s r code, find?_setRequest (r := r) ?_ hx⟩
  rw [requestError_requests]
  exact found

/-! ## A request that is performed (R67, R98, R253, R312, R320) -/

theorem pinLine_keeps (s : State) (c : Ctx) (asid mg : BitVec 16) (pin : Bool) (line : Place) :
    (pinLine s c asid mg pin line).mem = s.mem ∧ (pinLine s c asid mg pin line).requests = s.requests ∧
    ∀ x, getCtx s c.id = some x → ∃ y, getCtx (pinLine s c asid mg pin line) c.id = some y ∧ y = { x with pins := y.pins } := by
  unfold pinLine
  split
  · split
    · refine ⟨modCtx_mem .., modCtx_requests .., fun x hx => ⟨_, getCtx_modCtx_same (c := x) hx rfl, rfl⟩⟩
    · exact ⟨rfl, rfl, fun x hx => ⟨x, hx, rfl⟩⟩
  · exact ⟨rfl, rfl, fun x hx => ⟨x, hx, rfl⟩⟩

section
variable (s : State) (r : Request) (bs : List Byte) (time : Nat)

/-- An answer fills its line, or fills it and pins it for a BPF, or touches no line. -/
theorem answerLine_cases : SendsOnly s (answerLine s r bs time) ∨ ∃ c pin u, r.ask = .prefetch pin ∧ getCtx s r.ctx = some c ∧ SendsOnly s u ∧
    answerLine s r bs time = pinLine u c r.space r.mapgen pin (.peer r.peer (r.addr / 128)) := by
  unfold answerLine
  dsimp only
  split
  · exact .inl (.refl s)
  · next c found =>
    split
    · exact .inl (.refl s)
    · split
      · split
        · exact .inl (fillLine_sendsOnly ..)
        · exact .inl (.refl s)
      · next pin ask => exact .inr ⟨c, pin, _, ask, found, fillLine_sendsOnly .., rfl⟩
      · split
        · exact .inl (fillLine_sendsOnly ..)
        · exact .inl (.refl s)
      · exact .inl (.refl s)
      · exact .inl (.refl s)

theorem answerLine_keeps : (answerLine s r bs time).mem = s.mem ∧ (answerLine s r bs time).requests = s.requests := by
  rcases answerLine_cases s r bs time with sends | ⟨c, pin, u, -, -, sends, pinned⟩
  · exact ⟨sends.mem, by rw [sends]⟩
  · obtain ⟨mem, requests, -⟩ := pinLine_keeps u c r.space r.mapgen pin (.peer r.peer (r.addr / 128))
    rw [pinned]
    exact ⟨mem.trans sends.mem, requests.trans (by rw [sends])⟩

theorem answerLine_ctxs (fetches : r.prefetches = false) : (answerLine s r bs time).ctxs = s.ctxs := by
  rcases answerLine_cases s r bs time with sends | ⟨c, pin, u, ask, -⟩
  · exact sends.ctxs
  · rw [Request.prefetches, ask] at fetches
    cases fetches

theorem answerLine_pins {c : Ctx} (found : getCtx s r.ctx = some c) :
    ∃ y, getCtx (answerLine s r bs time) r.ctx = some y ∧ y = { c with pins := y.pins } := by
  rcases answerLine_cases s r bs time with sends | ⟨c', pin, u, -, same, sends, pinned⟩
  · exact ⟨c, (sends.getCtx r.ctx).trans found, rfl⟩
  · obtain rfl : c = c' := Option.some.inj (found.symm.trans same)
    obtain ⟨-, -, pins⟩ := pinLine_keeps u c r.space r.mapgen pin (.peer r.peer (r.addr / 128))
    rw [pinned]
    rw [getCtx_id found] at pins
    exact pins c ((sends.getCtx r.ctx).trans found)

end

section
variable {s : State} {r : Request}

/-- A performed request before its completion time enters WCT. -/
def requestFilled (s : State) (r : Request) (d : List Byte) (time : Nat) : State :=
  answerLine (countAccess (setRequest s { r with answer := some (answerBytes r d) }) (.peer r.peer r.addr) r.counted) r (answerBytes r d) time

theorem requestFilled_keeps (d : List Byte) (time : Nat) : (requestFilled s r d time).mem = s.mem ∧
    (requestFilled s r d time).requests = (setRequest s { r with answer := some (answerBytes r d) }).requests := by
  obtain ⟨mem, requests⟩ := answerLine_keeps
    (countAccess (setRequest s { r with answer := some (answerBytes r d) }) (.peer r.peer r.addr) r.counted) r (answerBytes r d) time
  unfold requestFilled
  rw [mem, requests, countAccess_onlyAccess]
  exact ⟨rfl, rfl⟩

theorem completeRequest_rmw (ask : ∃ v1 op steps, r.ask = .rmw v1 op steps) (d : List Byte) (time : Nat) :
    completeRequest s r d time = markWritten (raiseWct (requestFilled s r d time) (some r.ctx) time) (.peer r.peer r.addr) := by
  unfold completeRequest
  dsimp only
  split
  · rfl
  · next other =>
    obtain ⟨v1, op, steps, ask⟩ := ask
    exact absurd ask (other v1 op steps)

theorem completeRequest_other (ask : ¬ ∃ v1 op steps, r.ask = .rmw v1 op steps) (d : List Byte) (time : Nat) :
    completeRequest s r d time = requestFilled s r d time := by
  unfold completeRequest
  dsimp only
  split
  · next v1 op steps h => exact absurd ⟨v1, op, steps, h⟩ ask
  · rfl

theorem completeRequest_keeps (d : List Byte) (time : Nat) : (completeRequest s r d time).mem = s.mem ∧
    (completeRequest s r d time).requests = (setRequest s { r with answer := some (answerBytes r d) }).requests := by
  obtain ⟨mem, requests⟩ := requestFilled_keeps (s := s) (r := r) d time
  by_cases ask : ∃ v1 op steps, r.ask = .rmw v1 op steps
  · rw [completeRequest_rmw ask, markWritten_onlyAccess, raiseWct_onlyCtxs]
    exact ⟨mem, requests⟩
  · rw [completeRequest_other ask]
    exact ⟨mem, requests⟩

theorem requestFilled_ctxs (fetches : r.prefetches = false) (d : List Byte) (time : Nat) : (requestFilled s r d time).ctxs = s.ctxs := by
  rw [requestFilled, answerLine_ctxs _ _ _ _ fetches, countAccess_onlyAccess]
  rfl

theorem completeRequest_pins {c : Ctx} (fetches : r.prefetches = true) (found : getCtx s r.ctx = some c) (d : List Byte) (time : Nat) :
    ∃ y, getCtx (completeRequest s r d time) r.ctx = some y ∧ y = { c with pins := y.pins } := by
  have ask : ¬ ∃ v1 op steps, r.ask = .rmw v1 op steps := by
    rintro ⟨v1, op, steps, ask⟩
    rw [Request.prefetches, ask] at fetches
    cases fetches
  rw [completeRequest_other ask]
  refine answerLine_pins _ _ _ _ ?_
  rw [countAccess_onlyAccess]
  exact found

theorem completeRequest_wct {c : Ctx} (rmw : ∃ v1 op steps, r.ask = .rmw v1 op steps) (found : getCtx s r.ctx = some c) (d : List Byte) (time : Nat) :
    getCtx (completeRequest s r d time) r.ctx = some { c with wct := max c.wct time } := by
  have fetches : r.prefetches = false := by
    obtain ⟨v1, op, steps, ask⟩ := rmw
    rw [Request.prefetches, ask]
  rw [completeRequest_rmw rmw, markWritten_onlyAccess]
  refine getCtx_raiseWct ?_ time
  rw [getCtx_of_ctxs (requestFilled_ctxs fetches d time)]
  exact found

end

end Sys2Proof.Proofs.Registers

end

section
/-! PROOFS. The answers of peers and their notices, and what is left without an answer (R320, R332, R333, R352). -/

open Sys2Proof Sys2Proof.Machine
open Sys2Proof.Proofs.ExecutionModel (SendsOnly pushError_sendsOnly getCtx_id getCtx_setCtx_same setCtx_self)

namespace Sys2Proof.Proofs.Registers

/-! ## Retry (R332, R333, R352) -/

theorem Ctx.completeFlight_id (c : Ctx) (f : Flight) : (c.completeFlight f).id = c.id := by
  unfold Ctx.completeFlight Ctx.lowerFlag
  cases f.flag <;> rfl

theorem getCtx_rolledBack {s : State} {c z : Ctx} (there : getCtx s c.id = some c) (same : z.id = c.id) :
    getCtx (setCtx (dropWait s c) z) c.id = some z := by
  rw [← same]
  exact getCtx_setCtx_same (x := c) (by rw [getCtx_dropWait, same]; exact there)

theorem rolledBack_requests (s : State) (c z : Ctx) : (setCtx (dropWait s c) z).requests = s.requests := by
  rw [setCtx_requests, dropWait_requests]

/-- What only asks, a fetch and an engine's access keep the verdict. -/
theorem retryRequest_waits {s : State} {r : Request} (free : atomicAccess s r = false)
    (waits : r.asks = true ∨ r.ask = .fetch ∨ r.engine ≠ none) :
    retryRequest s r = setRequest (requestError s r REMOTE) { r with retry := true } := by
  have kept : (r.asks || r.ask == .fetch || r.engine.isSome) = true := by
    simpa [or_assoc, Option.isSome_iff_ne_none] using waits
  simp only [retryRequest, free, kept, Bool.false_eq_true, if_false, if_true]

section
variable {s : State} {r : Request} {c : Ctx} (found : s.requests.find? (fun x => x.id == r.id) = some r) (free : atomicAccess s r = false)
variable (owner : getCtx s r.ctx = some c) (alive : c.alive = true) (asks : r.asks = false) (ask : r.ask ≠ .fetch) (engine : r.engine = none)
include found free owner alive asks ask engine

theorem retryRequest_held (holds : c.holdsRequest r = true) : ∃ x, getCtx (retryRequest s r) r.ctx =
      some (if c.isGroup then c.recordFault REMOTE r.lane r.pc 0 else c) ∧
    (retryRequest s r).requests.find? (fun z => z.id == r.id) = some x ∧ x.retry = true := by
  have moves : (r.asks || r.ask == .fetch || r.engine.isSome) = false := by
    rw [asks, engine]
    simpa using ask
  obtain ⟨u, hu⟩ : ∃ u, u = setRequest (requestError s r REMOTE) { r with retry := true } := ⟨_, rfl⟩
  obtain ⟨ctxs, -, kept⟩ := asked_keeps (x := { r with retry := true }) found REMOTE rfl
  rw [← hu] at ctxs kept
  have there : getCtx u r.ctx = some c := (getCtx_of_ctxs ctxs _).trans owner
  have after : retryRequest s r = setCtx u (if c.isGroup then c.recordFault REMOTE r.lane r.pc 0 else c) := by
    simp only [retryRequest, free, moves, Bool.false_eq_true, if_false, ← hu, there, alive, Bool.not_true, holds, if_true]
  have same : (if c.isGroup then c.recordFault REMOTE r.lane r.pc 0 else c).id = r.ctx := by
    rw [← getCtx_id owner]
    split <;> rfl
  rw [after]
  refine ⟨_, ?_, kept, rfl⟩
  have set := getCtx_setCtx_same (s := u) (c := if c.isGroup then c.recordFault REMOTE r.lane r.pc 0 else c) (x := c) (by rw [same]; exact there)
  rwa [same] at set

theorem retryRequest_rollsBack (holds : c.holdsRequest r = false) : ∃ x y, getCtx (retryRequest s r) r.ctx = some y ∧
    y.mode = .notice r.id ∧ y.rsb = [] ∧ (retryRequest s r).requests.find? (fun z => z.id == r.id) = some x ∧ x.retry = true := by
  have moves : (r.asks || r.ask == .fetch || r.engine.isSome) = false := by
    rw [asks, engine]
    simpa using ask
  obtain ⟨u, hu⟩ : ∃ u, u = setRequest (requestError s r REMOTE) { r with retry := true } := ⟨_, rfl⟩
  obtain ⟨ctxs, -, kept⟩ := asked_keeps (x := { r with retry := true }) found REMOTE rfl
  rw [← hu] at ctxs kept
  have there : getCtx u r.ctx = some c := (getCtx_of_ctxs ctxs _).trans owner
  have same := getCtx_id owner
  have there' : getCtx u c.id = some c := by rw [same]; exact there
  unfold retryRequest
  simp only [free, moves, Bool.false_eq_true, if_false, ← hu, there, alive, Bool.not_true, holds]
  split
  · next f _ =>
    refine ⟨{ r with retry := true }, { ((c.recordFault REMOTE r.lane r.pc 0).completeFlight f).stopRegion with mode := .notice r.id }, ?_,
      rfl, rfl, ?_, rfl⟩
    · rw [← same]
      exact getCtx_rolledBack (s := { u with requests := _ }) there' (Ctx.completeFlight_id (c.recordFault REMOTE r.lane r.pc 0) f)
    · rw [rolledBack_requests]
      refine (find?_filter_agree (fun x hx => ?_) u.requests).trans kept
      rw [beq_iff_eq] at hx
      rw [hx, decide_eq_true rfl, Bool.true_or]
  · refine ⟨{ r with retry := true }, { (c.recordFault REMOTE r.lane r.pc 0).stopRegion with mode := .notice r.id }, ?_, rfl, rfl, ?_, rfl⟩
    · rw [← same]
      exact getCtx_rolledBack there' rfl
    · rw [rolledBack_requests]
      exact kept

end

/-! ## The answer of a peer (R122, R320, R352) -/

section
variable {s : State} {r : Request} (found : s.requests.find? (fun x => x.id == r.id) = some r) (power : powered s = true)
  (open_ : r.answered = false)
include found power open_

theorem remoteAnswer_held (out : ¬ (linkUp s r.peer = true ∧ laneAhead s r.id r.peer r.addr = false)) (ans : PeerAnswer) :
    exec (.remoteAnswer r.id ans) s = .next s := by
  have held : (r.answered || !linkUp s r.peer || laneAhead s r.id r.peer r.addr) = true := by
    rw [open_]
    cases up : linkUp s r.peer <;> cases ahead : laneAhead s r.id r.peer r.addr <;> simp_all
  show execRemoteAnswer r.id ans s = _
  simp only [execRemoteAnswer, power, found, held, Bool.not_true, Bool.false_eq_true, if_false, if_true]

variable (inOrder : linkUp s r.peer = true ∧ laneAhead s r.id r.peer r.addr = false)
include inOrder

theorem remoteAnswer_done (d : List Byte) (time : DWord) :
    exec (.remoteAnswer r.id (.done d time)) s = .next (completeRequest s r d time.toNat) := by
  show execRemoteAnswer r.id (.done d time) s = _
  simp only [execRemoteAnswer, power, found, open_, inOrder.1, inOrder.2, Bool.not_true, Bool.or_self, Bool.false_eq_true, if_false]

theorem remoteAnswer_retry : exec (.remoteAnswer r.id .retry) s = .next (retryRequest s r) := by
  show execRemoteAnswer r.id .retry s = _
  simp only [execRemoteAnswer, power, found, open_, inOrder.1, inOrder.2, Bool.not_true, Bool.or_self, Bool.false_eq_true, if_false]

theorem remoteAnswer_failure (code : BitVec 8) : exec (.remoteAnswer r.id (.failure code)) s = .next (refuseRequest s r) := by
  show execRemoteAnswer r.id (.failure code) s = _
  simp only [execRemoteAnswer, power, found, open_, inOrder.1, inOrder.2, Bool.not_true, Bool.or_self, Bool.false_eq_true, if_false]

end

section
variable {s : State} {r : Request} {c : Ctx} (found : s.requests.find? (fun x => x.id == r.id) = some r) (power : powered s = true)
  (open_ : r.answered = false) (owner : getCtx s r.ctx = some c)
include found power open_ owner

theorem rtimeout_request : exec (.rtimeout r.id) s = .next (if r.issued + 200000000 ≤ dieTime s c.die then
    if r.prefetches then setRequest (requestError s r RTIMEOUT) { r with failed := true } else failRequest s r RTIMEOUT else s) := by
  simp only [Request.answered, Bool.or_eq_false_iff] at open_
  obtain ⟨⟨answer, -⟩, failed⟩ := open_
  have unanswered : r.answer.isNone = true := by simpa using answer
  show execRtimeout r.id s = _
  simp only [execRtimeout, power, found, unanswered, failed, owner, linkTimeout, Option.elim, Bool.not_true, Bool.not_false, Bool.and_self,
    Bool.true_and, Bool.false_eq_true, if_false, decide_eq_true_eq]
  split <;> rfl

end

theorem exec_remoteAnswer (s : State) (r : Request) (found : s.requests.find? (fun x => x.id == r.id) = some r) (power : powered s = true)
    (open_ : r.answered = false) :
    let asks := r.asks = true
    let rmw := ∃ v1 op steps, r.ask = .rmw v1 op steps
    let inOrder := linkUp s r.peer = true ∧ laneAhead s r.id r.peer r.addr = false
    (¬ inOrder → ∀ ans, exec (.remoteAnswer r.id ans) s = .next s) ∧
    (inOrder →
      (∀ d time, ∃ t x, exec (.remoteAnswer r.id (.done d time)) s = .next t ∧ t.mem = s.mem ∧
        t.requests.find? (fun y => y.id == r.id) = some x ∧ x.answer = some (answerBytes r d) ∧
        (¬ rmw → r.prefetches = false → t.ctxs = s.ctxs) ∧
        (∀ c, r.prefetches = true → getCtx s r.ctx = some c → ∃ y, getCtx t r.ctx = some y ∧ y = { c with pins := y.pins }) ∧ (∀ c, rmw → getCtx s r.ctx = some c →
          getCtx t r.ctx = some { c with wct := max c.wct time.toNat })) ∧
      (∀ code, asks → ∃ t x, exec (.remoteAnswer r.id (.failure code)) s = .next t ∧ t.ctxs = s.ctxs ∧
        t.requests.find? (fun y => y.id == r.id) = some x ∧ x.failed = true) ∧
      (atomicAccess s r = true → exec (.remoteAnswer r.id .retry) s = .next s) ∧
      (atomicAccess s r = false → asks ∨ r.ask = .fetch ∨ r.engine ≠ none → ∃ t x, exec (.remoteAnswer r.id .retry) s = .next t ∧ t.ctxs = s.ctxs ∧
        t.requests.find? (fun y => y.id == r.id) = some x ∧ x.retry = true)) ∧
    (∀ c, getCtx s r.ctx = some c → c.alive = true → r.engine = none →
      let ends (i : Instr) (code : Nat) : Prop := ∃ t y, exec i s = .next t ∧ getCtx t r.ctx = some y ∧ y.mode = .faulted ∧
        t.kills = s.kills ++ [⟨c.launch, BitVec.ofNat 8 code⟩] ∧ (∀ x ∈ t.requests, x.id ≠ r.id) ∧
        (c.isGroup = true → bits y.trapCause 7 0 = code)
      (inOrder → ¬ asks → ∀ code, ends (.remoteAnswer r.id (.failure code)) REMOTE) ∧
      (r.issued + 200000000 ≤ dieTime s c.die → (r.prefetches = false → ends (.rtimeout r.id) RTIMEOUT) ∧
        (r.prefetches = true → ∃ t x, exec (.rtimeout r.id) s = .next t ∧ t.ctxs = s.ctxs ∧ t.kills = s.kills ∧
          t.requests.find? (fun y => y.id == r.id) = some x ∧ x.failed = true)) ∧
      (dieTime s c.die < r.issued + 200000000 → exec (.rtimeout r.id) s = .next s) ∧
      (inOrder → ¬ asks → r.ask ≠ .fetch → c.holdsRequest r = false → atomicAccess s r = false →
        ∃ t x y, exec (.remoteAnswer r.id .retry) s = .next t ∧ getCtx t r.ctx = some y ∧
          y.mode = .notice r.id ∧ y.rsb = [] ∧ t.requests.find? (fun z => z.id == r.id) = some x ∧ x.retry = true) ∧
      (inOrder → ¬ asks → r.ask ≠ .fetch → c.holdsRequest r = true → atomicAccess s r = false → ∃ t x,
        exec (.remoteAnswer r.id .retry) s = .next t ∧
          getCtx t r.ctx = some (if c.isGroup then c.recordFault REMOTE r.lane r.pc 0 else c) ∧
          t.requests.find? (fun z => z.id == r.id) = some x ∧ x.retry = true)) := by
  refine ⟨remoteAnswer_held found power open_, fun inOrder => ⟨fun d time => ?_, fun code asks => ?_, fun atomic => ?_, fun free waits => ?_⟩,
    fun c owner alive engine => ⟨fun inOrder asks code => ?_, fun late => ⟨fun fetches => ?_, fun fetches => ?_⟩, fun early => ?_,
      fun inOrder asks ask holds free => ?_, fun inOrder asks ask holds free => ?_⟩⟩
  · obtain ⟨mem, requests⟩ := completeRequest_keeps (s := s) (r := r) d time.toNat
    refine ⟨_, { r with answer := some (answerBytes r d) }, remoteAnswer_done found power open_ inOrder d time, mem, ?_, rfl,
      fun rmw fetches => ?_, fun c fetches owner => completeRequest_pins fetches owner d _, fun c rmw owner => completeRequest_wct rmw owner d _⟩
    · rw [requests]
      exact find?_setRequest found rfl
    · rw [completeRequest_other rmw, requestFilled_ctxs fetches]
  · obtain ⟨ctxs, -, kept⟩ := asked_keeps (x := { r with failed := true }) found REMOTE rfl
    refine ⟨_, _, (remoteAnswer_failure found power open_ inOrder code).trans ?_, ctxs, kept, rfl⟩
    rw [refuseRequest, if_pos asks]
  · rw [remoteAnswer_retry found power open_ inOrder, retryRequest, if_pos atomic]
  · obtain ⟨ctxs, -, kept⟩ := asked_keeps (x := { r with retry := true }) found REMOTE rfl
    refine ⟨_, _, (remoteAnswer_retry found power open_ inOrder).trans ?_, ctxs, kept, rfl⟩
    rw [retryRequest_waits free waits]
  · obtain ⟨y, after⟩ := failRequest_ends (code := REMOTE) owner alive engine (by decide) (by decide)
    refine ⟨_, y, (remoteAnswer_failure found power open_ inOrder code).trans ?_, after⟩
    rw [refuseRequest, if_neg asks]
  · obtain ⟨y, after⟩ := failRequest_ends (code := RTIMEOUT) owner alive engine (by decide) (by decide)
    refine ⟨_, y, (rtimeout_request found power open_ owner).trans ?_, after⟩
    rw [if_pos late, fetches, if_neg (by decide)]
  · obtain ⟨ctxs, kills, kept⟩ := asked_keeps (x := { r with failed := true }) found RTIMEOUT rfl
    refine ⟨_, _, (rtimeout_request found power open_ owner).trans ?_, ctxs, kills, kept, rfl⟩
    rw [if_pos late, if_pos fetches]
  · rw [rtimeout_request found power open_ owner, if_neg (Nat.not_le.2 early)]
  · obtain ⟨x, y, after⟩ := retryRequest_rollsBack found free owner alive (Bool.eq_false_iff.2 asks) ask engine holds
    exact ⟨_, x, y, remoteAnswer_retry found power open_ inOrder, after⟩
  · obtain ⟨x, after⟩ := retryRequest_held found free owner alive (Bool.eq_false_iff.2 asks) ask engine holds
    exact ⟨_, x, remoteAnswer_retry found power open_ inOrder, after⟩

/-! ## Notices (R352) -/

theorem exec_remoteResolutionNotice (s : State) (r : Request) (found : s.requests.find? (fun x => x.id == r.id) = some r) (power : powered s = true) :
    let others := s.requests.filter (fun x => x.id ≠ r.id)
    let again := r.asks = false ∧ (r.ask = .fetch ∨ r.engine ≠ none ∨
      ∃ c, getCtx s r.ctx = some c ∧ (c.laneMode = .notice r.id ∨ c.holdsRequest r = true))
    (r.retry = false ∨ linkUp s r.peer = false → exec (.remoteResolutionNotice r.id) s = .next s) ∧
    (r.retry = true → linkUp s r.peer = true → again → ∃ now, exec (.remoteResolutionNotice r.id) s = .next { s with
      requests := others ++ [{ r with id := s.nextId, retry := false, issued := now }], nextId := s.nextId + 1 } ∧
      ∀ c, getCtx s r.ctx = some c → now = dieTime s c.die) ∧
    (r.retry = true → linkUp s r.peer = true → ¬ again → exec (.remoteResolutionNotice r.id) s = .next { s with requests := others }) := by
  obtain ⟨sent, hsent⟩ : ∃ b, b = (!r.asks && (r.ask == .fetch || r.engine.isSome ||
    (getCtx s r.ctx).any (fun c => c.laneMode == .notice r.id || c.holdsRequest r))) := ⟨_, rfl⟩
  have sends : sent = true ↔ r.asks = false ∧ (r.ask = .fetch ∨ r.engine ≠ none ∨
      ∃ c, getCtx s r.ctx = some c ∧ (c.laneMode = .notice r.id ∨ c.holdsRequest r = true)) := by
    rw [hsent]
    simp [or_assoc, Option.isSome_iff_ne_none, Option.any_eq_true]
  obtain ⟨now, hnow⟩ : ∃ n, n = (getCtx s r.ctx).elim s.time0 (fun c => dieTime s c.die) := ⟨_, rfl⟩
  have runs : exec (.remoteResolutionNotice r.id) s = if !r.retry || !linkUp s r.peer then .next s
      else if sent then .next (sendRequest (dropRequest s r.id) { r with id := s.nextId, retry := false, issued := now })
      else .next (dropRequest s r.id) := by
    show execRemoteResolutionNotice r.id s = _
    simp only [execRemoteResolutionNotice, found, power, Bool.not_true, Bool.or_false, ← hsent, ← hnow]
  rw [runs]
  have goes (retry : r.retry = true) (link : linkUp s r.peer = true) : ¬ (!r.retry || !linkUp s r.peer) = true := by
    rw [retry, link]
    decide
  refine ⟨fun waits => if_pos (by simpa using waits), fun retry link again => ⟨now, ?_, fun c owner => ?_⟩, fun retry link once => ?_⟩
  · exact (if_neg (goes retry link)).trans (if_pos (sends.2 again))
  · rw [hnow, owner]
    rfl
  · exact (if_neg (goes retry link)).trans (if_neg (mt sends.1 once))

/-! ## Writes without a completion (R320, R352) -/

section
variable {s : State} {c : Ctx} {w : HomeWrite} (owner : getCtx s c.id = some c)
include owner

/-- A context's own write, or a place that its scalar stream holds, is the context's. -/
theorem writeOwner_ctx (mine : w.hold = none ∧ w.op = none ∧ w.ctx = some c.id ∨ ∃ n, w.hold = some (.scalar c.id n)) :
    ∃ place, writeOwner s w = (some c, none, none, place) := by
  unfold writeOwner
  rcases mine with ⟨hold, op, ctx⟩ | ⟨n, hold⟩
  · rw [hold, op, ctx]
    simp only [Option.bind_some, owner, Option.map_none]
    exact ⟨_, rfl⟩
  · rw [hold]
    simp only [Option.bind_some, owner]
    exact ⟨_, rfl⟩

theorem failWrite_host (mine : w.hold = none ∧ w.op = none ∧ w.ctx = some c.id ∨ ∃ n, w.hold = some (.scalar c.id n)) (alive : c.alive = true)
    (code : Nat) : ∃ record lst off, failWrite s w none code = takeFault (dropWrite (pushError s record) w.id) c code none lst off 0 := by
  obtain ⟨place, mine⟩ := writeOwner_ctx owner mine
  unfold failWrite
  rw [mine]
  exact ⟨_, _, _, if_pos alive⟩

end

theorem exec_rtimeout_host (s : State) (c : Ctx) (w : HomeWrite) (noRequest : ∀ r ∈ s.requests, r.id ≠ w.id) (posted : postedWrite s w.id = none)
    (found : hostWrite s w.id = some w) (power : powered s = true)
    (mine : w.hold = none ∧ w.op = none ∧ w.ctx = some c.id ∨ ∃ n, w.hold = some (.scalar c.id n)) (owner : getCtx s c.id = some c)
    (alive : c.alive = true) :
    (s.time0 < w.due + 200000000 → exec (.rtimeout w.id) s = .next s) ∧
    (w.due + 200000000 ≤ s.time0 → ∃ t y, exec (.rtimeout w.id) s = .next t ∧ getCtx t c.id = some y ∧ y.mode = .faulted ∧
      y.wct = c.wct ∧ t.homeQ = s.homeQ.filter (fun x => x.id ≠ w.id)) := by
  have none_there : s.requests.find? (fun r => r.id == w.id) = none := by simpa using noRequest
  have runs : exec (.rtimeout w.id) s = if w.due + 200000000 ≤ s.time0 then .next (failWrite s w none RTIMEOUT) else .next s := by
    show execRtimeout w.id s = _
    simp only [execRtimeout, none_there, posted, found, power, Bool.not_true, Bool.false_eq_true, if_false]
    rfl
  obtain ⟨record, lst, off, fails⟩ := failWrite_host owner mine alive RTIMEOUT
  have there : getCtx (dropWrite (pushError s record) w.id) c.id = some c := ((pushError_sendsOnly s record).getCtx c.id).trans owner
  rw [runs]
  refine ⟨fun early => if_neg (Nat.not_le.2 early), fun late => ⟨_, { faultRecorded c RTIMEOUT none lst off 0 with mode := .faulted },
    if_pos late, ?_, rfl, faultRecorded_wct none lst off 0, ?_⟩⟩
  · rw [fails]
    exact getCtx_takeFault_ineligible none lst off 0 there (by decide)
  · rw [fails, takeFault_ineligible none lst off 0 (by decide), fatal_homeQ]
    show (pushError s record).homeQ.filter _ = _
    rw [pushError_homeQ]

/-! ## Posted writes to peers (R67, R320, R352) -/

theorem exec_remoteAnswer_posted (s : State) (w : HomeWrite) (peer : BitVec 12) (l : Nat) (d : List Byte) (time : DWord)
    (noRequest : ∀ r ∈ s.requests, r.id ≠ w.id) (found : s.homeQ.find? (fun x => x.id == w.id) = some w) (line : w.line = .peer peer l)
    (power : powered s = true) (ops : s.ops = []) (op : w.op = none) (sent : w.retry = false) :
    (linkUp s peer = false ∨ laneAhead s w.id peer (l * 128) = true → exec (.remoteAnswer w.id (.done d time)) s = .next s) ∧
    (linkUp s peer = true → laneAhead s w.id peer (l * 128) = false →
      (∃ t, exec (.remoteAnswer w.id (.done d time)) s = .next t ∧ t.homeQ = s.homeQ.filter (fun x => x.id ≠ w.id) ∧
        t.mem = s.mem ∧ ∀ c, w.ctx = some c.id → getCtx s c.id = some c → getCtx t c.id = some { c with wct := max c.wct time.toNat }) ∧
      ∃ t, exec (.remoteAnswer w.id .retry) s = .next t ∧ t.ctxs = s.ctxs ∧
        t.homeQ = s.homeQ.map (fun x => if x.id = w.id then { x with retry := true } else x)) := by
  have none_there : s.requests.find? (fun r => r.id == w.id) = none := by simpa using noRequest
  have posted : postedWrite s w.id = some (w, peer, l) := by simp only [postedWrite, found, Option.bind_some, line]
  refine ⟨fun waits => ?_, fun link first => ⟨?_, ⟨retryWrite s w peer, ?_, (linkError_sendsOnly ..).ctxs, ?_⟩⟩⟩
  · have held : (w.retry || !linkUp s peer || laneAhead s w.id peer (l * 128)) = true := by
      rcases waits with down | ahead
      · simp [down]
      · simp [ahead]
    show execRemoteAnswer w.id (.done d time) s = _
    simp only [execRemoteAnswer, none_there, posted, power, held, Bool.not_true, Bool.false_eq_true, if_false, if_true]
  · obtain ⟨a, runs⟩ : ∃ a, exec (.remoteAnswer w.id (.done d time)) s =
        .next { raiseWct (dropWrite s w.id) w.ctx time.toNat with access := a } := by
      refine ⟨(markWritten (raiseWct (dropWrite s w.id) w.ctx time.toNat) (.peer peer (l * 128))).access, ?_⟩
      show execRemoteAnswer w.id (.done d time) s = _
      simp only [execRemoteAnswer, none_there, posted, power, sent, link, first, Bool.not_true, Bool.or_self, Bool.false_eq_true, if_false]
      rw [← markWritten_onlyAccess, afterHome_noOps op]
      rw [markWritten_onlyAccess]
      exact (raiseWct_ops ..).trans ops
    refine ⟨_, runs, raiseWct_homeQ .., raiseWct_mem .., fun c writer owner => ?_⟩
    rw [writer]
    exact getCtx_raiseWct (s := dropWrite s w.id) owner time.toNat
  · show execRemoteAnswer w.id .retry s = _
    simp only [execRemoteAnswer, none_there, posted, power, sent, link, first, Bool.not_true, Bool.or_self, Bool.false_eq_true, if_false]
  · exact pushError_homeQ ..

end Sys2Proof.Proofs.Registers

end

section
/-! PROOFS. Ports, the host port and the debug port (R75, R105, R349, R390 to R392, R399). -/

open Sys2Proof Sys2Proof.Machine
open Sys2Proof.Proofs.ExecutionModel (SendsOnly pushError_sendsOnly pushError_room pushError_frame modCtx_eq getCore_setCore_same
  getCore_setCore_other spaceOf_ranges)

namespace Sys2Proof.Proofs.Registers

/-! ## Links (R349, R390 to R392) -/

theorem modPort_same {s : State} {p : Nat} (hp : p < s.ports.length) (f : Port → Port) :
    (modPort s p f).ports.getD p Port.reset = f (s.ports.getD p Port.reset) := by
  simp [modPort, List.getD, hp]

theorem modPort_other (s : State) {p j : Nat} (h : j ≠ p) (f : Port → Port) :
    (modPort s p f).ports.getD j Port.reset = s.ports.getD j Port.reset := by
  simp [modPort, List.getD, h.symm]

theorem laneError_sendsOnly (s : State) (p : Nat) (failed : BitVec 8) : SendsOnly s (laneError s p failed) := by
  unfold laneError
  split
  · exact .refl s
  · exact pushError_sendsOnly ..

theorem laneError_ports (s : State) (p : Nat) (failed : BitVec 8) : (laneError s p failed).ports = s.ports := by
  rw [laneError_sendsOnly s p failed]

theorem laneError_errors {s : State} (room : s.errors.length < 1024) (p : Nat) {failed : BitVec 8} (some : failed ≠ 0) :
    (laneError s p failed).errors.length = s.errors.length + 1 := by
  rw [laneError, if_neg some, pushError_room room, List.length_append]
  rfl

theorem exec_flitReplay (p count : Nat) (s : State) (hp : p < 18) (there : p < s.ports.length) (power : powered s = true)
    (up : (s.ports.getD p Port.reset).state ≠ 0) :
    (count < 16 → exec (.flitReplay p count) s = .next s) ∧
    (16 ≤ count → ∃ t, exec (.flitReplay p count) s = .next t ∧ t = { s with ports := t.ports } ∧
      t.ports.getD p Port.reset = { s.ports.getD p Port.reset with state := 3 }) := by
  have runs : exec (.flitReplay p count) s = if count < 16 then .next s else .next (modPort s p fun x => { x with state := 3 }) := by
    show execFlitReplay p count s = _
    simp only [execFlitReplay, Nat.not_le.2 hp, power, up, decide_false, Bool.not_true, Bool.or_false, Bool.false_or, decide_eq_true_eq]
  rw [runs]
  exact ⟨fun few => if_pos few, fun many => ⟨_, if_neg (Nat.not_lt.2 many), rfl, modPort_same there _⟩⟩

theorem retrains_toNat (x : Port) (failed : BitVec 8) (up : x.state ≠ 0) :
    (x.retrained failed).retrains.toNat = min 255 (x.retrains.toNat + 1) := by
  show (if x.retrains = 255 || x.state = 0 then x.retrains else x.retrains + 1).toNat = _
  simp only [up, decide_false, Bool.or_false, decide_eq_true_eq]
  split
  · next full => rw [full]; decide
  · bv_omega

/-- The width and the state of a port after its retraining, by the halves of its lanes that have failed. -/
theorem retrained_width (x : Port) (failed : BitVec 8) :
    let low := (x.failed ||| failed) &&& 0x0F ≠ 0
    let high := (x.failed ||| failed) &&& 0xF0 ≠ 0
    (low ∧ high → (x.retrained failed).state = 0) ∧
    (¬ (low ∧ high) → (x.retrained failed).state = 2 ∧ ((x.retrained failed).half = true ↔ low ∨ high)) := by
  intro low high
  have state : (x.retrained failed).state = if low && high then 0 else 2 := rfl
  have half : (x.retrained failed).half = (decide low != decide high) := rfl
  rw [state, half]
  by_cases hl : low <;> by_cases hh : high <;> simp [hl, hh]

theorem exec_retrain (p : Nat) (failed : BitVec 8) (peer : BitVec 12) (s : State) (hp : p < 18) (there : p < s.ports.length)
    (power : powered s = true) (room : s.errors.length < 1024) :
    let x := s.ports.getD p Port.reset
    let f := x.failed ||| failed
    let low := f &&& 0x0F ≠ 0
    let high := f &&& 0xF0 ≠ 0
    (x.state = 2 → (failed = 0 → exec (.retrain p failed peer) s = .next s) ∧
      (failed ≠ 0 → ∃ t, exec (.retrain p failed peer) s = .next t ∧ t.ports.getD p Port.reset = { x with failed := f, state := 3 } ∧
        (∀ j, j ≠ p → t.ports.getD j Port.reset = s.ports.getD j Port.reset) ∧ t.errors.length = s.errors.length + 1 ∧
        t.ctxs = s.ctxs ∧ t.mem = s.mem)) ∧
    (x.state ≠ 2 → ∃ t y, exec (.retrain p failed peer) s = .next t ∧ t.ports.getD p Port.reset = y ∧ y.failed = f ∧ y.peer = peer ∧
      y.window = (if y.half then 1 else 2) ∧ y.weight = (if y.half then 1 else 2) ∧ y.cost = (if y.half then 2 else 1) ∧
      (x.state ≠ 0 → y.retrains.toNat = min 255 (x.retrains.toNat + 1)) ∧
      (low ∧ high → y.state = 0) ∧ (¬ (low ∧ high) → y.state = 2 ∧ (y.half = true ↔ low ∨ high)) ∧
      (∀ j, j ≠ p → t.ports.getD j Port.reset = s.ports.getD j Port.reset) ∧
      (failed = 0 → t.errors = s.errors) ∧ (failed ≠ 0 → t.errors.length = s.errors.length + 1) ∧ t.ctxs = s.ctxs ∧ t.mem = s.mem) := by
  intro x f low high
  have sends (g : Port → Port) := laneError_sendsOnly (modPort s p g) p failed
  have here (g : Port → Port) : (laneError (modPort s p g) p failed).ports.getD p Port.reset = g x := by
    rw [laneError_ports]
    exact modPort_same there g
  have others (g : Port → Port) (j : Nat) (hj : j ≠ p) :
      (laneError (modPort s p g) p failed).ports.getD j Port.reset = s.ports.getD j Port.reset := by
    rw [laneError_ports]
    exact modPort_other s hj g
  have logged (g : Port → Port) (broken : failed ≠ 0) : (laneError (modPort s p g) p failed).errors.length = s.errors.length + 1 :=
    laneError_errors (s := modPort s p g) room p broken
  have guard : (decide (18 ≤ p) || !powered s) = false := by
    rw [power, decide_eq_false (by omega)]
    rfl
  refine ⟨fun up => ⟨fun fine => ?_, fun broken => ?_⟩, fun down => ?_⟩
  · show execRetrain p failed peer s = _
    rw [execRetrain, guard, if_neg (by decide), if_pos up, if_pos fine]
  · refine ⟨laneError (modPort s p fun x => { x with failed := x.failed ||| failed, state := 3 }) p failed, ?_, here _, others _,
      logged _ broken, (sends _).ctxs, (sends _).mem⟩
    show execRetrain p failed peer s = _
    rw [execRetrain, guard, if_neg (by decide), if_pos up, if_neg broken]
  · obtain ⟨both, some⟩ := retrained_width x failed
    refine ⟨laneError (modPort s p fun x => { x.retrained failed with peer := peer }) p failed, { x.retrained failed with peer := peer }, ?_,
      here _, rfl, rfl, rfl, rfl, rfl, retrains_toNat x failed, both, some, others _, fun fine => ?_, logged _, (sends _).ctxs, (sends _).mem⟩
    · show execRetrain p failed peer s = _
      rw [execRetrain, guard, if_neg (by decide), if_neg down]
    · rw [laneError, if_pos fine]
      rfl

theorem exec_pcieRecovery (s : State) : exec (.pcieRecovery true) s = .next s ∧ (s.errors.length < 1024 → ∃ t r,
    exec (.pcieRecovery false) s = .next t ∧ t = { s with errors := t.errors, vectors := t.vectors } ∧ t.errors = s.errors ++ [r] ∧
    bits (r.getD 0 0) 31 24 = 7) := by
  refine ⟨rfl, fun room => ⟨pushError s (errorRecord s 7 0 none 0 0xFF 0 0 0 0), _, rfl, ?_, pushError_room room _, ?_⟩⟩
  · unfold pushError
    rw [if_pos room]
    cases s.errors.isEmpty <;> rfl
  · show bits (BitVec.ofNat 32 (7 * 2 ^ 24 + 0 * 2 ^ 16 + 0 + 0)) 31 24 = 7
    decide

end Sys2Proof.Proofs.Registers

end

section
/-! PROOFS. The debug port (R75, R101, R105, R399). -/

open Sys2Proof Sys2Proof.Machine
open Sys2Proof.Proofs.ExecutionModel (modCtx_eq getCore_setCore_same getCore_setCore_other spaceOf_ranges)

namespace Sys2Proof.Proofs.Registers

/-! ## Writes of one granule under a generation (R101) -/

theorem tagAt_congr {s t : State} {k j : Nat} (tags : t.tags = s.tags) (h : granule j = granule k) : tagAt t j = tagAt s k := by
  rw [tagAt, tagAt, tags, h]

/-- Bytes of one granule that the generation holds already. -/
theorem writeTagged_tagged (g : BitVec 12) (bs : List Byte) (s : State) (k : Nat) (tag : tagAt s k = g) (one : k % 64 + bs.length ≤ 64) :
    writeTagged s k g bs = { s with mem := memWriteList s.mem k bs } := by
  induction bs generalizing s k with
  | nil => rfl
  | cons b r ih =>
    rw [List.length_cons] at one
    rw [writeTagged, writeTagged1, if_pos tag]
    by_cases last : r = []
    · rw [last]
      rfl
    · have more : 0 < r.length := List.length_pos_iff.2 last
      have same : granule (k + 1) = granule k := by simp only [granule]; omega
      exact ih { s with mem := memWrite s.mem k b } (k + 1) ((tagAt_congr rfl same).trans tag) (by omega)

/-- The granule of `k` under generation `g`: it stands, or becomes zero. -/
def granuleUnder (s : State) (k : Nat) (g : BitVec 12) : State := if tagAt s k = g then s else zeroGranule s k g

theorem granuleUnder_canonical {s : State} (hs : s.canonical) (k : Nat) (g : BitVec 12) : (granuleUnder s k g).canonical := by
  unfold granuleUnder
  split
  · exact hs
  · exact zeroGranule_canonical s k g hs

theorem tagAt_zeroGranule {s : State} (hs : s.canonical) (k : Nat) (g : BitVec 12) (x : Nat) :
    tagAt (zeroGranule s k g) x = if granule x = granule k then g else tagAt s x := by
  unfold zeroGranule
  generalize List.replicate 64 (0 : Byte) = zeros
  exact tagAt_setTag (writeBytes_canonical s _ zeros hs) k g x

theorem memRead_zeroGranule {s : State} (hs : s.canonical) (k : Nat) (g : BitVec 12) (x : Nat) :
    memRead (zeroGranule s k g).mem x = if granule x = granule k then 0 else memRead s.mem x := by
  have length : (List.replicate 64 (0 : Byte)).length = 64 := List.length_replicate
  have zero : ∀ i, (List.replicate 64 (0 : Byte)).getD i 0 = 0 := fun i => List.getElem?_getD_replicate_default_eq ..
  unfold zeroGranule
  generalize List.replicate 64 (0 : Byte) = zeros at length zero
  change memRead (memWriteList s.mem (granule k * 64) zeros) x = _
  split
  · next there =>
    have inside : granule k * 64 + x % 64 = x := by
      rw [← there, granule]
      omega
    calc _ = memRead (memWriteList s.mem (granule k * 64) zeros) (granule k * 64 + x % 64) := by rw [inside]
      _ = zeros.getD (x % 64) 0 := memRead_memWriteList_at _ _ _ _ hs.1 (by rw [length]; omega)
      _ = 0 := zero _
  · next apart =>
    refine memRead_memWriteList_other _ _ _ _ hs.1 ?_
    rw [length]
    simp only [granule] at apart ⊢
    omega

theorem tagAt_granuleUnder {s : State} (hs : s.canonical) (k : Nat) (g : BitVec 12) (x : Nat) :
    tagAt (granuleUnder s k g) x = if granule x = granule k then g else tagAt s x := by
  unfold granuleUnder
  split
  · next tag =>
    split
    · next same => exact (tagAt_congr rfl same).trans tag
    · rfl
  · exact tagAt_zeroGranule hs k g x

theorem memRead_granuleUnder {s : State} (hs : s.canonical) (k : Nat) (g : BitVec 12) (x : Nat) :
    memRead (granuleUnder s k g).mem x = if granule x = granule k ∧ tagAt s k ≠ g then 0 else memRead s.mem x := by
  unfold granuleUnder
  split
  · next tag => rw [if_neg (fun h => h.2 tag)]
  · next tag =>
    rw [memRead_zeroGranule hs]
    exact if_congr ⟨fun h => ⟨h, tag⟩, And.left⟩ rfl rfl

theorem granuleUnder_ctxs (s : State) (k : Nat) (g : BitVec 12) : (granuleUnder s k g).ctxs = s.ctxs := by
  unfold granuleUnder
  split
  · rfl
  · unfold zeroGranule
    generalize List.replicate 64 (0 : Byte) = zeros
    rfl

theorem writeTagged_granule (g : BitVec 12) {bs : List Byte} (some : bs ≠ []) {s : State} (hs : s.canonical) {k : Nat}
    (one : k % 64 + bs.length ≤ 64) :
    writeTagged s k g bs = { granuleUnder s k g with mem := memWriteList (granuleUnder s k g).mem k bs } := by
  have tag : tagAt (granuleUnder s k g) k = g := by rw [tagAt_granuleUnder hs, if_pos rfl]
  obtain ⟨b, r, rfl⟩ := List.exists_cons_of_ne_nil some
  rw [← writeTagged_tagged g _ _ k tag one, writeTagged, writeTagged]
  congr 1
  rw [writeTagged1, writeTagged1, if_pos tag]
  rfl

/-! ## The writes of the port (R75, R101, R124, R233) -/

theorem coreKey_of_space {key k off : Nat} (h : spaceOf key = .core k off) : key = coreKey k off ∧ coreKey k (key - coreKey k 0) = key := by
  have core : 2 ^ 66 ≤ key ∧ (key - 2 ^ 66) / 2 ^ 21 = k ∧ (key - 2 ^ 66) % 2 ^ 21 = off := by
    unfold spaceOf at h
    split at h
    · cases h
    · split at h
      · cases h
      · split at h
        · cases h
        · split at h
          · next low _ =>
            injection h with core offset
            exact ⟨by omega, core, offset⟩
          · cases h
  obtain ⟨low, core, offset⟩ := core
  unfold coreKey
  omega

/-- The run of a core's row that the port names. -/
theorem debugRun_core {s : State} {ctx kind g k : Nat} {run : Run} (found : debugRun s ctx kind g = some (k, run)) :
    ∃ off, spaceOf (g * 64) = .core k off := by
  unfold debugRun at found
  split at found
  · next k' off space =>
    obtain ⟨r, -, same⟩ := Option.map_eq_some_iff.1 found
    exact ⟨off, by rw [space, (Prod.mk.inj same).1]⟩
  · cases found

/-- A run that is no record table is written in one place. -/
theorem debugCopies_single {s : State} {k g : Nat} {run : Run} (plain : ∀ r ∈ (getCore s k).rows, r.kind = 2 → r.gen ≠ run.gen)
    {off : Nat} (space : spaceOf (g * 64) = .core k off) : debugCopies s k run g = [(g * 64, run.gen)] := by
  have single : tableCopies s k (g * 64 - coreKey k 0) run.gen = [(k, g * 64 - coreKey k 0, run.gen)] := by
    unfold tableCopies
    split
    · next r table =>
      have kind : r.kind = 2 := by
        have := List.find?_some table
        simp only [Bool.and_eq_true, decide_eq_true_eq] at this
        exact this.1.1
      have other : ¬ (r.gen = run.gen && (getCtx s r.owner).isSome) = true := fun h =>
        plain r (List.mem_of_find?_eq_some table) kind (of_decide_eq_true (Bool.and_eq_true_iff.1 h).1)
      exact if_neg other
    · rfl
  rw [debugCopies, single, List.map_singleton, (coreKey_of_space space).2]

theorem exec_debugWrite_owner (ctx kind g k : Nat) (d : List Byte) (run : Run) (s : State) (hs : s.canonical)
    (found : debugRun s ctx kind g = some (k, run)) (plain : ∀ r ∈ (getCore s k).rows, r.kind = 2 → r.gen ≠ run.gen) (size : d.length ≤ 64)
    (some : d ≠ []) : ∃ t, exec (.debugWrite (.asOwner ctx kind g d)) s = .next t ∧ tagAt t (g * 64) = run.gen ∧
      (∀ i, i < 64 → memRead t.mem (g * 64 + i) =
        if i < d.length then d.getD i 0 else if tagAt s (g * 64) = run.gen then memRead s.mem (g * 64 + i) else 0) ∧
      (∀ x, x / 64 ≠ g → memRead t.mem x = memRead s.mem x ∧ tagAt t x = tagAt s x) ∧ t.ctxs = s.ctxs := by
  obtain ⟨off, space⟩ := debugRun_core found
  obtain ⟨p, runs⟩ : ∃ p, exec (.debugWrite (.asOwner ctx kind g d)) s = .next { writeTagged s (g * 64) run.gen d with poison := p } := by
    show ∃ p, execDebugWrite (.asOwner ctx kind g d) s = _
    simp only [execDebugWrite, debugWrite, found, debugCopies_single plain space, List.foldl_cons, List.foldl_nil, List.take_of_length_le size]
    split <;> exact ⟨_, rfl⟩
  have at_ : granule (g * 64) = g := by simp [granule]
  have under := granuleUnder_canonical hs (g * 64) run.gen
  have mem := memRead_granuleUnder hs (g * 64) run.gen
  have tag := tagAt_granuleUnder hs (g * 64) run.gen
  have ctxs := granuleUnder_ctxs s (g * 64) run.gen
  rw [writeTagged_granule run.gen some hs (by omega)] at runs
  rw [at_] at mem tag
  generalize granuleUnder s (g * 64) run.gen = u at under mem tag ctxs runs
  refine ⟨_, runs, ?_, fun i hi => ?_, fun x away => ⟨?_, ?_⟩, ctxs⟩
  · exact (tag (g * 64)).trans (if_pos at_)
  · have here : granule (g * 64 + i) = g := by simp only [granule]; omega
    by_cases written : i < d.length
    · rw [if_pos written]
      exact memRead_memWriteList_at d _ _ _ under.1 written
    · rw [if_neg written]
      refine (memRead_memWriteList_other d _ _ _ under.1 (.inr (by omega))).trans ((mem _).trans ?_)
      by_cases same : tagAt s (g * 64) = run.gen
      · rw [if_neg (fun h => h.2 same), if_pos same]
      · rw [if_pos ⟨here, same⟩, if_neg same]
  · exact (memRead_memWriteList_other d _ _ _ under.1 (by omega)).trans ((mem x).trans (if_neg (fun h => away h.1)))
  · exact (tag x).trans (if_neg away)

theorem exec_debugWrite_others (ctx kind g k : Nat) (d : List Byte) (on : Bool) (s : State) :
    (debugRun s ctx kind g = none → debugOther s ctx kind g = none → exec (.debugWrite (.asOwner ctx kind g d)) s = .next s) ∧
    exec (.debugWrite (.raw ctx g)) s = .next s ∧ exec (.debugWrite (.context ctx)) s = .next s ∧
    (∀ r, exec (.debugWrite (.register r)) s = .next s) ∧
    (∀ c, getCtx s ctx = some c → exec (.debugWrite (.haltOnBreak ctx on)) s = .next (setCtx s { c with haltOnBreak := on })) ∧
    (k < s.cores.length → ∃ t, exec (.debugWrite (.clearEcnt k)) s = .next t ∧
      t = { s with cores := t.cores } ∧ getCore t k = { getCore s k with ce := 0, late := 0 } ∧ ∀ j, j ≠ k → getCore t j = getCore s j) := by
  refine ⟨fun run other => ?_, rfl, rfl, fun _ => rfl, fun c found => ?_, fun hk => ⟨_, rfl, rfl, getCore_setCore_same hk _,
    fun j hj => getCore_setCore_other s hj _⟩⟩
  · show execDebugWrite (.asOwner ctx kind g d) s = _
    simp only [execDebugWrite, debugWrite, run, other]
  · exact congrArg Host.Outcome.next (modCtx_eq found fun c => { c with haltOnBreak := on })

/-! ## The answers of the port (R105, R399) -/

theorem debugAnswer_shows (ctx kind g : Nat) (d : List Byte) (s : State) :
    let refused : Option DebugData := some ⟨true, 0, List.replicate 64 0⟩
    (∀ k run, debugRun s ctx kind g = some (k, run) →
      debugAnswer s (.asOwner ctx kind g d) = some ⟨false, tagAt s (g * 64), readTagged s (g * 64) run.gen 64⟩) ∧
    (debugRun s ctx kind g = none → debugOther s ctx kind g = none → debugAnswer s (.asOwner ctx kind g d) = refused) ∧
    (∀ c l, getCtx s ctx = some c → getLaunch s c.launch = some l →
      let mine := tagAt s (g * 64) ≠ 0 ∧ tagAt s (g * 64) ∈ debugGens s ctx g
      (l.rawdbg = true → mine → debugAnswer s (.raw ctx g) = some ⟨false, tagAt s (g * 64), readBytes s (g * 64) 64⟩) ∧
      (l.rawdbg = false ∨ ¬ mine → debugAnswer s (.raw ctx g) = refused)) ∧
    (∀ c, getCtx s ctx = some c → debugAnswer s (.ages ctx) =
      some ⟨false, 0, (c.pendAge.toNat :: c.regionLen :: c.paths.map (fun p => p.age.toNat)).flatMap (leBytes 8)⟩) ∧
    ∀ k off, let shown (w : Word) : Option DebugData := some ⟨false, 0, wordBytes w⟩
      debugAnswer s (.register (.slicectl k)) = shown (getCore s k).slice ∧ debugAnswer s (.register .tokpool) = shown (tokpool s) ∧
      debugAnswer s (.register .pwrslope) = shown (pwrslope s) ∧ debugAnswer s (.register (.ecnt k)) = shown ((getCore s k).ce ++ (getCore s k).late) ∧
      debugAnswer s (.register (.bar0 0)) = shown (devstat s) ∧
      (off < 18 → debugAnswer s (.register (.bar0 (0x4000 + 4 * off))) = shown (portstat (s.ports.getD off Port.reset))) ∧
      (0 < off → off < 0x4000 → debugAnswer s (.register (.bar0 off)) = shown 0) := by
  intro refused
  refine ⟨fun k run found => ?_, fun run other => ?_, fun c l found launch => ?_, fun c found => ?_, fun k off => ⟨rfl, rfl, rfl, rfl, rfl,
    fun port => ?_, fun low high => ?_⟩⟩
  · simp only [debugAnswer, found, ownerGranule]
  · simp only [debugAnswer, run, other, refusedData]
    rfl
  · have flag : ((getCtx s ctx).bind (fun c => getLaunch s c.launch)).elim false Launch.rawdbg = l.rawdbg := by
      rw [found, Option.bind_some, launch, Option.elim]
    have mine : (tagAt s (g * 64) ≠ 0 && (debugGens s ctx g).contains (tagAt s (g * 64))) = true ↔
        tagAt s (g * 64) ≠ 0 ∧ tagAt s (g * 64) ∈ debugGens s ctx g := by simp
    have answer : debugAnswer s (.raw ctx g) = some (if l.rawdbg && (tagAt s (g * 64) ≠ 0 && (debugGens s ctx g).contains (tagAt s (g * 64)))
        then rawGranule s g else refusedData) := by
      unfold debugAnswer
      dsimp only
      rw [flag, Bool.and_assoc]
      rfl
    rw [answer]
    refine ⟨fun raw own => congrArg some (if_pos ?_), fun not => congrArg some (if_neg ?_)⟩
    · rw [raw, Bool.true_and]
      exact mine.2 own
    · rw [Bool.and_eq_true, mine]
      rintro ⟨raw, own⟩
      rcases not with closed | other
      · rw [raw] at closed
        cases closed
      · exact other own
  · simp only [debugAnswer, stateView, found, Option.map_some, shownData, Option.elim, quads]
  · have value : bar0Value s (0x4000 + 4 * off) = portstat (s.ports.getD off Port.reset) := by
      have inside : (decide (0x4000 ≤ 0x4000 + 4 * off) && decide (0x4000 + 4 * off < 0x4048) && decide ((0x4000 + 4 * off) % 4 = 0)) = true := by
        simp only [Bool.and_eq_true, decide_eq_true_eq]
        omega
      have number : (0x4000 + 4 * off - 0x4000) / 4 = off := by omega
      rw [bar0Value, if_neg (by omega), if_pos inside, number]
    exact congrArg (fun w => some (⟨false, 0, wordBytes w⟩ : DebugData)) value
  · have value : bar0Value s off = 0 := by
      have outside : (decide (0x4000 ≤ off) && decide (off < 0x4048) && decide (off % 4 = 0)) = false := by
        rw [decide_eq_false (by omega)]
        rfl
      rw [bar0Value, if_neg (by omega), outside, if_neg (by decide)]
    exact congrArg (fun w => some (⟨false, 0, wordBytes w⟩ : DebugData)) value

/-- What the host does through its window is the access itself, where the tenant's policy allows it. -/
theorem debug_window (r : DebugAccess) (s : State) :
    let allowed := s.stage ≠ 0xFF ∧ ∃ l t, debugLaunch s r = some l ∧ tenantOf s l = some t ∧ t ∈ s.hostDebug
    (allowed → debugAnswer s (.window r) = debugAnswer s r ∧ exec (.debugWrite (.window r)) s = exec (.debugWrite r) s) ∧
    (¬ allowed → debugAnswer s (.window r) = some ⟨true, 0, List.replicate 64 0⟩ ∧ exec (.debugWrite (.window r)) s = .next s) := by
  have policy : windowAllows s r = true ↔ s.stage ≠ 0xFF ∧ ∃ l t, debugLaunch s r = some l ∧ tenantOf s l = some t ∧ t ∈ s.hostDebug := by
    rw [windowAllows, Bool.and_eq_true, decide_eq_true_eq, Option.any_eq_true]
    simp only [Option.bind_eq_some_iff, List.contains_iff_mem]
    constructor
    · rintro ⟨stage, t, ⟨l, launch, tenant⟩, listed⟩
      exact ⟨stage, l, t, launch, tenant, listed⟩
    · rintro ⟨stage, l, t, launch, tenant, listed⟩
      exact ⟨stage, t, ⟨l, launch, tenant⟩, listed⟩
  intro allowed
  exact ⟨fun h => ⟨if_pos (policy.2 h), congrArg Host.Outcome.next (if_pos (policy.2 h))⟩,
    fun h => ⟨if_neg (mt policy.1 h), congrArg Host.Outcome.next (if_neg (mt policy.1 h))⟩⟩

/-! ## The obligation -/

/-- Settles O60: each of its clauses is a lemma about one event of the outside world. -/
theorem outsideWorld : Obligations.OutsideWorld := by
  unfold Obligations.OutsideWorld
  refine ⟨⟨exec_hostWrite, exec_hostSnoop, exec_inboundPeerAccess⟩,
    ⟨exec_remoteAnswer, exec_remoteResolutionNotice, exec_rtimeout_host, exec_remoteAnswer_posted⟩,
    exec_flitReplay, exec_retrain, exec_pcieRecovery, fun _ _ => rfl, debugAnswer_shows, debug_window, exec_debugWrite_owner, exec_debugWrite_others⟩

end Sys2Proof.Proofs.Registers

end

section
/-! PROOFS. Every step keeps memory and tags in canonical form (O56): what a result keeps, and the changes of homes, L1 lines and
    queues. -/

open Sys2Proof Sys2Proof.Machine

namespace Sys2Proof.Machine

theorem State.canonical.of_fst {β : Type} {p : State × β} {t : State} {b : β} (h : p.1.canonical) (e : p = (t, b)) : t.canonical := by
  rw [e] at h; exact h

theorem State.canonical.of_snd {β : Type} {p : β × State} {t : State} {b : β} (h : p.2.canonical) (e : p = (b, t)) : t.canonical := by
  rw [e] at h; exact h

end Sys2Proof.Machine

namespace Sys2Proof.Proofs.Memories

/-! ## The states in a result -/

/-- The next state of an outcome, where there is one, is in canonical form. -/
def Kept : Host.Outcome State Fault Refusal → Prop
  | .next s => s.canonical
  | _ => True

/-- What an option holds has a property. -/
def KeptOption {α : Type} (P : α → Prop) : Option α → Prop
  | some x => P x
  | none => True

/-- Both sides of a result have their property. -/
def KeptExcept {ε α : Type} (P : ε → Prop) (Q : α → Prop) : Except ε α → Prop
  | .error x => P x
  | .ok x => Q x

/-- What a place reached yields has a property, and the state that waits for it is in canonical form. -/
def KeptReach {α : Type} (P : α → Prop) : Reach α → Prop
  | .done x => P x
  | .later s => s.canonical
  | .absent _ => True

/-- The state of a control instruction's effect is in canonical form. -/
def KeptAct : Act → Prop
  | .done s _ | .wait s | .suspend s | .fault s _ _ | .page s _ | .ue s _ => s.canonical
  | .hole _ => True

/-- The state of a lane instruction's effect is in canonical form. -/
def KeptLAct : LAct → Prop
  | .done s | .fly s _ | .wait s | .fault s _ _ _ | .page s _ _ | .remote s _ _ => s.canonical
  | .hole _ => True

/-- The state of a read is in canonical form. -/
def KeptGot : Got → Prop
  | .bytes _ s | .ue s | .later s => s.canonical

variable {s : State}

theorem KeptOption.of_eq {α : Type} {P : α → Prop} {o : Option α} {x : α} (h : KeptOption P o) (e : o = some x) : P x := by
  rw [e] at h; exact h
theorem KeptExcept.of_eq {ε α : Type} {P : ε → Prop} {Q : α → Prop} {r r' : Except ε α} (h : KeptExcept P Q r) (e : r = r') :
    KeptExcept P Q r' := e ▸ h
theorem KeptReach.of_eq {α : Type} {P : α → Prop} {r r' : Reach α} (h : KeptReach P r) (e : r = r') : KeptReach P r' := e ▸ h
theorem KeptAct.of_eq {a a' : Act} (h : KeptAct a) (e : a = a') : KeptAct a' := e ▸ h
theorem KeptLAct.of_eq {a a' : LAct} (h : KeptLAct a) (e : a = a') : KeptLAct a' := e ▸ h
theorem KeptGot.of_eq {a a' : Got} (h : KeptGot a) (e : a = a') : KeptGot a' := e ▸ h
theorem Kept.of_eq {a a' : Host.Outcome State Fault Refusal} (h : Kept a) (e : a = a') : Kept a' := e ▸ h

theorem ite_canonical {c : Prop} [Decidable c] {a b : State} (ha : a.canonical) (hb : b.canonical) :
    (if c then a else b).canonical := by
  split
  · exact ha
  · exact hb

theorem foldl_canonical {α : Type} {f : State → α → State} (hf : ∀ s x, s.canonical → (f s x).canonical) {l : List α} {s : State}
    (hs : s.canonical) : (l.foldl f s).canonical := by
  induction l generalizing s with
  | nil => exact hs
  | cons x l ih => exact ih (hf s x hs)

theorem keptOption_bind {α β : Type} {P : α → Prop} {o : Option β} {f : β → Option α} (h : ∀ x, KeptOption P (f x)) :
    KeptOption P (o.bind f) := by
  cases o with
  | none => trivial
  | some x => exact h x

theorem keptOption_map {α β : Type} {P : α → Prop} {o : Option β} {f : β → α} (h : ∀ x, P (f x)) : KeptOption P (o.map f) := by
  cases o with
  | none => trivial
  | some x => exact h x

theorem KeptOption.getD {α : Type} {P : α → Prop} {o : Option α} {d : α} (h : KeptOption P o) (hd : P d) : P (o.getD d) := by
  cases o with
  | none => exact hd
  | some x => exact h

theorem elim_canonical {β : Type} {o : Option β} {d : State} {f : β → State} (hd : d.canonical) (hf : ∀ x, (f x).canonical) :
    (o.elim d f).canonical := by
  cases o with
  | none => exact hd
  | some x => exact hf x

theorem coreWrite_canonical {k off : Nat} {g : BitVec 12} {bs : List Byte} (hs : s.canonical) : (coreWrite s k off g bs).canonical :=
  coreWriteAt_canonical _ _ _ _ _ hs

theorem vaultWrite_canonical {v off : Nat} {g : BitVec 12} {bs : List Byte} (hs : s.canonical) : (vaultWrite s v off g bs).canonical :=
  vaultWriteAt_canonical _ _ _ _ _ hs

theorem pushError_canonical {r : List Word} (hs : s.canonical) : (pushError s r).canonical := ite_canonical (ite_canonical hs hs) hs

theorem ctxError_canonical {c : Ctx} {kind code : Nat} {lane : Option Nat} {addr : Nat} {pc w7 : Word} (hs : s.canonical) :
    (ctxError s c kind code lane addr pc w7).canonical :=
  pushError_canonical hs

theorem fqJoin_canonical {w : Waiter} (hs : s.canonical) : (fqJoin s w).canonical := ite_canonical hs hs

theorem fqWrite_canonical {seq : Word} {l : List (List Word)} (hs : s.canonical) : (fqWrite s seq l).canonical := by
  induction l generalizing s with
  | nil => exact hs
  | cons r l ih => exact ih (writeWords_canonical _ _ _ hs)

theorem fqBatch_canonical {rs : List (List Word)} (hs : s.canonical) : (fqBatch s rs).2.canonical := fqWrite_canonical hs

theorem modWaiters_canonical {k : Nat} {ring : Bool} {f : Nat → Nat} (hs : s.canonical) : (modWaiters s k ring f).canonical :=
  writeBytes_canonical _ _ _ hs

theorem dropWait_canonical {c : Ctx} (hs : s.canonical) : (dropWait s c).canonical := by
  unfold dropWait
  split
  · exact ite_canonical (modWaiters_canonical hs) hs
  · exact hs

theorem fatal_canonical {c : Ctx} {code : Nat} {lane : Option Nat} {pc : Word} (hs : s.canonical) :
    (fatal s c code lane pc).canonical :=
  ctxError_canonical (dropWait_canonical hs)

theorem takeFault_canonical {c : Ctx} {code : Nat} {lane : Option Nat} {lst : Bool} {off : Nat} {addr : Word} (hs : s.canonical) :
    (takeFault s c code lane lst off addr).canonical := by
  unfold takeFault
  extract_lets -underBinder pc
  split
  · exact ite_canonical (dropWait_canonical hs) (fatal_canonical hs)
  · exact fatal_canonical hs

theorem cancelRegion_canonical {c : Ctx} (hs : s.canonical) : (cancelRegion s c).canonical := by
  unfold cancelRegion
  split
  · exact hs
  · exact hs
  · exact hs
  · exact hs
  · exact dropWait_canonical hs

theorem replayCancelled_canonical {launch : Nat} (hs : s.canonical) : (replayCancelled s launch).canonical :=
  foldl_canonical (fun _ _ hs => (cancelRegion_canonical hs)) hs

theorem takePage_canonical {c : Ctx} {lane : Option Nat} {lst : Bool} {off : Nat} {recs : List (List Word)} (hs : s.canonical) :
    (takePage s c lane lst off recs).canonical := by
  unfold takePage
  extract_lets -underBinder c1
  split
  · exact fqBatch_canonical (dropWait_canonical hs)
  · exact fqJoin_canonical (dropWait_canonical hs)

theorem homeTurn_canonical {l : Nat} {h : Holder} {core : Nat} {space : Option (BitVec 16)} (hs : s.canonical) :
    KeptExcept State.canonical State.canonical (homeTurn s l h core space) := by
  unfold homeTurn
  split
  · split
    · exact hs
    · exact hs
  · split
    · exact hs
    · split
      · exact hs
      · exact hs

theorem raiseWct_canonical {ctx : Option Nat} {t : Nat} (hs : s.canonical) : (raiseWct s ctx t).canonical := by
  unfold raiseWct
  split
  · exact modCtx_canonical _ _ _ hs
  · exact hs

theorem cacheRoom_canonical {v l : Nat} (hs : s.canonical) : (cacheRoom s v l).canonical := ite_canonical hs hs

theorem cacheTouch_canonical {l : Nat} {dirty : Bool} (hs : s.canonical) : (cacheTouch s l dirty).canonical :=
  ite_canonical hs (cacheRoom_canonical hs)

theorem countAccess_canonical {p : Place} {counted : Bool} (hs : s.canonical) : (countAccess s p counted).canonical := by
  unfold countAccess
  split
  · exact hs
  · exact hs

theorem markWritten_canonical {p : Place} (hs : s.canonical) : (markWritten s p).canonical := by
  unfold markWritten
  split
  · exact hs
  · exact hs

theorem homePerform_canonical {w : HomeWrite} (hs : s.canonical) : (homePerform s w).canonical := by
  unfold homePerform
  extract_lets -underBinder s1
  have hs1 : s1.canonical := hs
  split
  · extract_lets -underBinder s2 hit s3 s4
    have hs2 : s2.canonical := landBytes_canonical _ _ _ _ hs1
    have hs3 : s3.canonical := ite_canonical hs2 hs2
    have hs4 : s4.canonical := markWritten_canonical (cacheTouch_canonical hs3)
    exact ite_canonical hs4 (raiseWct_canonical hs4)
  · exact hs1

theorem poisonRecord_canonical {k : Nat} {x : Line} (hs : s.canonical) : (poisonRecord s k x).canonical := pushError_canonical hs

theorem writeBackLine_canonical {k : Nat} {x : Line} {ctx : Option Nat} {upset : BitVec 2} (hs : s.canonical) :
    (writeBackLine s k x ctx upset).canonical :=
  ite_canonical hs (ite_canonical hs (poisonRecord_canonical hs))

theorem evictLine_canonical {k : Nat} {x : Line} (hs : s.canonical) : (evictLine s k x).canonical := writeBackLine_canonical hs

theorem trimLines_canonical {k n : Nat} (hs : s.canonical) : (trimLines s k n).canonical := by
  induction n generalizing s with
  | zero => exact hs
  | succ n ih =>
    rw [trimLines]
    split
    · exact hs
    · split
      · exact ih (evictLine_canonical hs)
      · exact hs

theorem rowsTaken_canonical {k : Nat} (hs : s.canonical) : (rowsTaken s k).canonical := trimLines_canonical hs

theorem writeBackAll_canonical {k : Nat} {ctx : Option Nat} (hs : s.canonical) : (writeBackAll s k ctx).canonical :=
  foldl_canonical (fun _ _ hs => (writeBackLine_canonical hs)) hs

theorem l1Store_canonical {k : Nat} {asid mg : BitVec 16} {line : Place} {sc : BitVec 3} {owner : BitVec 12} {bytes : Sparse Byte}
    (hs : s.canonical) : (l1Store s k asid mg line sc owner bytes).canonical :=
  trimLines_canonical (ite_canonical (writeBackLine_canonical hs) hs)

theorem l1Update_canonical {k : Nat} {asid mg : BitVec 16} {line : Place} {bytes : Sparse Byte} (hs : s.canonical) :
    (l1Update s k asid mg line bytes).canonical := by
  unfold l1Update
  split
  · exact hs
  · exact hs

theorem fillLine_canonical {k : Nat} {asid mg : BitVec 16} {line : Place} {home : Sparse Byte} {bad : BitVec 2} {leaseEnd : Nat}
    (hs : s.canonical) : (fillLine s k asid mg line home bad leaseEnd).canonical :=
  trimLines_canonical hs

theorem l1Fill_canonical {k : Nat} {die : BitVec 1} {lease : Nat} {asid mg : BitVec 16} {l : Nat} (hs : s.canonical) :
    (l1Fill s k die lease asid mg l).canonical :=
  cacheTouch_canonical (fillLine_canonical hs)

theorem l1Refresh_canonical {k : Nat} {die : BitVec 1} {lease : Nat} {asid mg : BitVec 16} {l : Nat} (hs : s.canonical) :
    (l1Refresh s k die lease asid mg l).canonical := by
  unfold l1Refresh
  split
  · exact hs
  · exact ite_canonical (fillLine_canonical hs) (l1Fill_canonical hs)

theorem pinLine_canonical {c : Ctx} {asid mg : BitVec 16} {pin : Bool} {line : Place} (hs : s.canonical) :
    (pinLine s c asid mg pin line).canonical := by
  unfold pinLine
  split
  · exact ite_canonical (modCtx_canonical _ _ _ hs) hs
  · exact hs

theorem copyBytes_canonical {x : Line} {p : Place} {n : Nat} {own : List (Option Byte)} (hs : s.canonical) :
    KeptGot (copyBytes x p n own s) := by
  unfold copyBytes
  split
  · exact hs
  · exact hs

theorem l1Load_canonical {c : Ctx} {asid mg : BitVec 16} {key n : Nat} {own : List (Option Byte)} (hs : s.canonical) :
    KeptGot (l1Load s c asid mg key n own) := by
  unfold l1Load
  extract_lets -underBinder l
  split
  · exact copyBytes_canonical hs
  · split
    · exact hs
    · exact copyBytes_canonical (l1Fill_canonical hs)

theorem homeRead_canonical {c : Ctx} {asid mg : BitVec 16} {key n : Nat} (hs : s.canonical) : KeptGot (homeRead s c asid mg key n) := by
  unfold homeRead
  extract_lets -underBinder l
  split
  · exact hs
  · next s1 _ =>
      have hs1 : s1.canonical := l1Refresh_canonical hs
      split
      · exact hs1
      · exact hs1

theorem vaultRead_canonical {c : Ctx} {k n : Nat} {g : BitVec 12} {own : List (Option Byte)} (hs : s.canonical) :
    KeptGot (vaultRead s c k n g own) := by
  unfold vaultRead
  split
  · exact hs
  · split
    · exact hs
    · exact hs

theorem releaseSteps_canonical {c : Ctx} {scope : Nat} (hs : s.canonical) : (releaseSteps s c scope).1.canonical := by
  unfold releaseSteps
  split
  · exact hs
  · exact writeBackAll_canonical hs

/-- The release steps that a releasing instruction takes before its own effect. -/
theorem releaseIf_canonical {b : Bool} {c : Ctx} {scope : Nat} (hs : s.canonical) :
    (if b then releaseSteps s c scope else (s, true)).1.canonical := by
  split
  · exact releaseSteps_canonical hs
  · exact hs

theorem landCore_canonical {k off : Nat} {g : BitVec 12} {bytes : Sparse Byte} (hs : s.canonical) :
    (landCore s k off g bytes).canonical :=
  foldl_canonical (fun _ _ hs => (coreWriteAt_canonical _ _ _ _ _ hs)) hs

theorem releaseEntry_canonical {c : Ctx} {e : BufEntry} (hs : s.canonical) : (releaseEntry s c e).canonical := by
  unfold releaseEntry
  extract_lets -underBinder send global
  have hglobal : global.canonical := ite_canonical (l1Store_canonical hs) (l1Update_canonical hs)
  split
  · exact hglobal
  · split
    · exact landCore_canonical hs
    · exact hs
    · exact hglobal

theorem commitEntries_canonical {c : Ctx} {l : List BufEntry} (hs : s.canonical) : (commitEntries s c l).1.canonical := by
  induction l generalizing s with
  | nil => exact hs
  | cons e l ih =>
    unfold commitEntries
    split
    · exact hs
    · split
      next s1 ok heq =>
      have hs1 := (releaseIf_canonical hs).of_fst heq
      split
      · exact ih (releaseEntry_canonical hs1)
      · exact hs1

theorem commit_canonical {c : Ctx} (hs : s.canonical) : (commit s c).1.canonical := modCtx_canonical _ _ _ (commitEntries_canonical hs)

end Sys2Proof.Proofs.Memories

end

section
/-! PROOFS. Every step keeps memory and tags in canonical form (O56): the scalar and control instructions. -/

open Sys2Proof Sys2Proof.Machine

namespace Sys2Proof.Proofs.Memories

variable {s : State}

theorem scalarUe_canonical {c : Ctx} {off addr : Nat} (hs : s.canonical) : (scalarUe s c off addr).canonical :=
  ite_canonical (ctxError_canonical hs) (fatal_canonical hs)

theorem stallFetch_canonical {c : Ctx} {va : Nat} {pc : Word} (hs : s.canonical) : (stallFetch s c va pc).canonical := by
  unfold stallFetch
  extract_lets asid r
  split
  · split
    next b s1 heq =>
    have hs1 : s1.canonical := (fqBatch_canonical hs).of_snd heq
    exact hs1
  · exact fqJoin_canonical hs

theorem askFetch_canonical {c : Ctx} {d : BitVec 12} {a : Nat} {pc : Word} (hs : s.canonical) : (askFetch s c d a pc).canonical :=
  ite_canonical hs hs

theorem finishCtrl_canonical {id : Nat} {sp : CtrlSpec} {pc : Pc} {off : Nat} {act : Act} (hact : KeptAct (act)) :
    Kept (finishCtrl id sp pc off act) := by
  unfold finishCtrl
  split
  · exact modCtx_canonical _ _ _ hact
  · exact hact
  · exact modCtx_canonical _ _ _ hact
  · split
    · exact takeFault_canonical hact
    · exact hact
  · split
    · exact takePage_canonical hact
    · exact hact
  · split
    · exact scalarUe_canonical hact
    · exact hact
  · trivial

theorem runCtrl_canonical {sp : CtrlSpec} {illegal : State → Ctx → Bool} {body : State → Ctx → Act}
    (hbody : ∀ s c, s.canonical → KeptAct (body s c)) (hs : s.canonical) : Kept (runCtrl sp illegal body s) := by
  unfold runCtrl
  split
  · split
    · exact hs
    · split
      · exact hs
      · split
        · exact takeFault_canonical hs
        · exact scalarUe_canonical hs
  · split
    · exact hs
    · split
      · exact hs
      · next off _ =>
          split
          · exact takeFault_canonical hs
          · split
            · split
              · split
                · exact hs
                · split
                  · next t7 heq =>
                      have ht7 : t7.canonical := (commit_canonical hs).of_fst heq
                      exact ht7
                  · next t7 heq =>
                      have ht7 : t7.canonical := (commit_canonical hs).of_fst heq
                      exact finishCtrl_canonical (hbody _ _ (modCtx_canonical _ _ _ ht7))
              · exact finishCtrl_canonical (hbody _ _ hs)
            · exact finishCtrl_canonical (hbody _ _ hs)
  · exact hs

theorem pureCtrl_canonical {sp : CtrlSpec} {f : Ctx → Ctx} (hs : s.canonical) : Kept (pureCtrl sp f s) :=
  runCtrl_canonical (fun _ _ hs => hs) hs

theorem scalarCR_canonical {f : Word → Word → Word} {sp : Option Word} {d a b : Reg} (hs : s.canonical) :
    Kept (scalarCR f sp d a b s) :=
  pureCtrl_canonical hs

theorem scalarCI_canonical {f : Word → Word} {sp : Option Word} {d a : Reg} (hs : s.canonical) : Kept (scalarCI f sp d a s) :=
  pureCtrl_canonical hs

theorem scalarCW_canonical {f : Word → Word} {sp : Option Word} {lit : Bool} {d : Reg} (hs : s.canonical) :
    Kept (scalarCW f sp lit d s) :=
  pureCtrl_canonical hs

theorem branchOn_canonical {cond : Ctx → Bool} {sp : Option Word} {sc : BitVec 3} {off : BitVec 13} (hs : s.canonical) :
    Kept (branchOn cond sp sc off s) :=
  runCtrl_canonical (fun _ _ hs => hs) hs

theorem execBuni_canonical {sp : Option Word} {sc n : BitVec 3} {off : BitVec 13} (hs : s.canonical) :
    Kept (execBuni sp sc n off s) := by
  unfold execBuni
  refine runCtrl_canonical (fun s c hs => ?_) hs
  · split
    · exact hs
    · extract_lets -underBinder m t
      split
      · exact hs
      · split
        · exact hs
        · exact hs

theorem execCall_canonical {sp : Option Word} {sc : BitVec 3} {off : BitVec 13} (hs : s.canonical) : Kept (execCall sp sc off s) := by
  unfold execCall
  refine runCtrl_canonical (fun s c hs => ?_) hs
  · split
    · exact hs
    · exact hs

theorem execRet_canonical {sp : Option Word} {sc : BitVec 3} (hs : s.canonical) : Kept (execRet sp sc s) := by
  unfold execRet
  refine runCtrl_canonical (fun s c hs => ?_) hs
  · split
    · exact hs
    · exact hs

theorem execLoop_canonical {sp : Option Word} {sc : BitVec 3} {a : Reg} {off : BitVec 12} (hs : s.canonical) :
    Kept (execLoop sp sc a off s) := by
  unfold execLoop
  refine runCtrl_canonical (fun s c hs => ?_) hs
  · extract_lets -underBinder n
    split
    · exact hs
    · split
      · exact hs
      · exact hs

theorem execLoopNext_canonical {sp : Option Word} {sc : BitVec 3} (hs : s.canonical) : Kept (execLoopNext sp sc s) := by
  unfold execLoopNext
  refine runCtrl_canonical (fun s c hs => ?_) hs
  · split
    · exact hs
    · split
      · exact hs
      · exact hs

theorem execLoopLeave_canonical {sp : Option Word} {sc : BitVec 3} (hs : s.canonical) : Kept (execLoopLeave sp sc s) := by
  unfold execLoopLeave
  refine runCtrl_canonical (fun s c hs => ?_) hs
  · split
    · exact hs
    · exact hs

theorem leaveParent_canonical {c : Ctx} (hs : s.canonical) : (leaveParent s c).canonical := by
  unfold leaveParent
  split
  · exact modCtx_canonical _ _ _ hs
  · exact hs

theorem endLane_canonical {c : Ctx} {sp : Option Word} (hs : s.canonical) : KeptAct (endLane s c sp) := by
  unfold endLane
  extract_lets -underBinder c1
  split
  · exact leaveParent_canonical hs
  · exact hs

theorem endContext_canonical {c : Ctx} (hs : s.canonical) : KeptAct (endContext s c) := by
  unfold endContext
  split
  · exact hs
  · extract_lets -underBinder s1 s2
    have hs1 : s1.canonical := hs
    have hs2 : s2.canonical := by
      unfold s2
      split
      · split
        · exact hs1
        · exact hs1
      · exact hs1
    exact leaveParent_canonical hs2

theorem execEndc_canonical {sp : Option Word} {sc : BitVec 3} (hs : s.canonical) : Kept (execEndc sp sc s) := by
  unfold execEndc
  refine runCtrl_canonical (fun s c hs => ?_) hs
  · split
    · exact endLane_canonical hs
    · exact endContext_canonical hs

theorem execBrl_canonical {sp : Option Word} {sc n : BitVec 3} {off : BitVec 13} (hs : s.canonical) : Kept (execBrl sp sc n off s) := by
  unfold execBrl
  refine runCtrl_canonical (fun s c hs => ?_) hs
  · split
    · exact hs
    · extract_lets -underBinder t old
      split
      · exact hs
      · split
        · exact hs
        · split
          · exact hs
          · exact hs

theorem execMeet_canonical {sp : Option Word} {sc : BitVec 3} {off : BitVec 13} (hs : s.canonical) : Kept (execMeet sp sc off s) := by
  unfold execMeet
  refine runCtrl_canonical (fun s c hs => ?_) hs
  · split
    · exact hs
    · exact hs

theorem fetchAct_canonical {c : Ctx} {pc : Word} {x : Fetch} (hs : s.canonical) : KeptAct (fetchAct s c pc x) := by
  unfold fetchAct
  split
  · exact hs
  · exact hs
  · exact stallFetch_canonical hs
  · exact askFetch_canonical hs
  · exact hs
  · trivial
  · exact hs

theorem laneBlocked_canonical {sp : Option Word} {m : BitVec 16} (hs : s.canonical) : KeptOption Kept (laneBlocked sp m s) := by
  unfold laneBlocked
  split
  · refine keptOption_bind (fun c => ?_)
    split
    · trivial
    · exact keptOption_map (fun _ => finishCtrl_canonical (fetchAct_canonical hs))
  · refine keptOption_bind (fun c => ?_)
    split
    · trivial
    · exact keptOption_map (fun _ => finishCtrl_canonical (fetchAct_canonical hs))
  · trivial

theorem execLane_canonical {sp : Option Word} {d : Reg} {m : BitVec 16} (hs : s.canonical) : Kept (execLane sp d m s) := by
  unfold execLane
  refine (laneBlocked_canonical hs).getD (runCtrl_canonical (fun s c hs => ?_) hs)
  split
  · exact fetchAct_canonical hs
  · split
    · exact hs
    · exact hs

theorem execLsync_canonical {sp : Option Word} (hs : s.canonical) : Kept (execLsync sp s) := by
  unfold execLsync
  refine runCtrl_canonical (fun s c hs => ?_) hs
  · split
    · exact hs
    · exact hs

theorem execPtos_canonical {sp : Option Word} {d : Reg} {n : BitVec 3} (hs : s.canonical) : Kept (execPtos sp d n s) := by
  unfold execPtos
  refine runCtrl_canonical (fun s c hs => ?_) hs
  · split
    · exact hs
    · split
      · exact hs
      · exact hs

theorem vtosRead_canonical {c : Ctx} {d : Nat} {regs : List Nat} {l : Nat} (hs : s.canonical) : KeptAct (vtosRead s c d regs l) := by
  unfold vtosRead
  extract_lets -underBinder dead key
  split
  · exact hs
  · split
    · exact hs
    · split
      · exact hs
      · split
        · exact hs
        · exact hs

theorem execVtos_canonical {sp : Option Word} {d a : Reg} {l : BitVec 6} (hs : s.canonical) : Kept (execVtos sp d a l s) := by
  unfold execVtos
  refine runCtrl_canonical (fun s c hs => ?_) hs
  · split
    · exact vtosRead_canonical hs
    · exact hs

theorem execVtosPair_canonical {sp : Option Word} {d a : Reg} {l : BitVec 6} (hs : s.canonical) : Kept (execVtosPair sp d a l s) := by
  unfold execVtosPair
  refine runCtrl_canonical (fun s c hs => ?_) hs
  · split
    · exact vtosRead_canonical hs
    · exact hs

theorem execVtosFirst_canonical {sp : Option Word} {d a : Reg} (hs : s.canonical) : Kept (execVtosFirst sp d a s) := by
  unfold execVtosFirst
  refine runCtrl_canonical (fun s c hs => ?_) hs
  · split
    · exact hs
    · split
      · exact hs
      · split
        · exact hs
        · exact vtosRead_canonical hs

theorem execDown_canonical {sp : Option Word} {d : Reg} {m : BitVec 16} (hs : s.canonical) : Kept (execDown sp d m s) := by
  unfold execDown
  refine runCtrl_canonical (fun s c hs => ?_) hs
  split
  · exact hs
  · extract_lets args
    split
    · exact hs
    · exact hs

theorem execDescentUnstall_canonical {c : Nat} (hs : s.canonical) : Kept (execDescentUnstall c s) := by
  unfold execDescentUnstall
  split
  · split
    · split
      · exact hs
      · exact modCtx_canonical _ _ _ hs
    · exact hs
  · exact hs

theorem execSegmentStart_canonical {c : Nat} (hs : s.canonical) : Kept (execSegmentStart c s) := by
  unfold execSegmentStart
  split
  · split
    · split
      · exact hs
      · split
        · split
          · exact hs
          · split
            · next t5 heq =>
                have ht5 : t5.canonical := (commit_canonical hs).of_fst heq
                exact ht5
            · next t5 heq =>
                have ht5 : t5.canonical := (commit_canonical hs).of_fst heq
                exact ht5
        · exact hs
    · exact hs
  · exact hs

theorem markEnd_canonical {x : Ctx} {rest : List Descent} (hs : s.canonical) : (markEnd s x rest).canonical := leaveParent_canonical hs

theorem execEndMarker_canonical {c : Nat} (hs : s.canonical) : Kept (execEndMarker c s) := by
  unfold execEndMarker
  split
  · split
    · split
      · exact hs
      · split
        · split
          · exact hs
          · split
            · next t5 heq =>
                have ht5 : t5.canonical := (commit_canonical hs).of_fst heq
                exact ht5
            · next t5 heq =>
                have ht5 : t5.canonical := (commit_canonical hs).of_fst heq
                exact markEnd_canonical ht5
        · exact markEnd_canonical hs
    · exact hs
  · exact hs

theorem execUp_canonical {sp : Option Word} {a : Reg} {op : BitVec 3} (hs : s.canonical) : Kept (execUp sp a op s) := by
  unfold execUp
  refine runCtrl_canonical (fun s c hs => ?_) hs
  · split
    · exact hs
    · split
      · exact hs
      · exact hs

theorem execGather_canonical {sp : Option Word} {d : Reg} {op : BitVec 3} (hs : s.canonical) : Kept (execGather sp d op s) := by
  unfold execGather
  refine runCtrl_canonical (fun s c hs => ?_) hs
  · split
    · exact hs
    · extract_lets -underBinder rs vs
      split
      · exact hs
      · split
        · exact hs
        · exact hs

theorem arriveAt_canonical {i : Instr} {len owner n scope : Nat} {c : Ctx} (hs : s.canonical) :
    KeptAct (arriveAt i len owner n scope s c) := by
  unfold arriveAt
  split
  · next t0 heq =>
      have ht0 : t0.canonical := (releaseSteps_canonical hs).of_fst heq
      exact ht0
  · next t0 heq =>
      have ht0 : t0.canonical := (releaseSteps_canonical hs).of_fst heq
      exact modCtx_canonical _ _ _ ht0

theorem execBar_canonical {sp : Option Word} {n : BitVec 4} (hs : s.canonical) : Kept (execBar sp n s) := by
  unfold execBar
  refine runCtrl_canonical (fun s c hs => ?_) hs
  · split
    · exact hs
    · exact arriveAt_canonical hs

theorem execBarrierOpen_canonical {owner n : Nat} (hs : s.canonical) : Kept (execBarrierOpen owner n s) := by
  unfold execBarrierOpen
  extract_lets -underBinder arrived
  split
  · exact hs
  · exact hs

theorem execReelWave_canonical {cl : Nat} (hs : s.canonical) : Kept (execReelWave cl s) := by
  unfold execReelWave
  extract_lets -underBinder k now
  split
  · exact hs
  · extract_lets -underBinder r
    split
    · exact hs
    · split
      · exact hs
      · exact hs

theorem execWaitf_canonical {sp : Option Word} {m : BitVec 12} (hs : s.canonical) : Kept (execWaitf sp m s) := by
  unfold execWaitf
  refine runCtrl_canonical (fun s c hs => ?_) hs
  · split
    · exact hs
    · exact hs

theorem execWaite_canonical {sp : Option Word} {cls : BitVec 2} {t : BitVec 6} (hs : s.canonical) : Kept (execWaite sp cls t s) := by
  unfold execWaite
  refine runCtrl_canonical (fun s c hs => ?_) hs
  · split
    · exact hs
    · exact hs

theorem acquireSteps_canonical {c : Ctx} {scope : Nat} (hs : s.canonical) : (acquireSteps s c scope).canonical :=
  ite_canonical (modCtx_canonical _ _ _ hs) (modCtx_canonical _ _ _ hs)

theorem execFence_canonical {sp : Option Word} {kind : BitVec 2} {sc : BitVec 3} (hs : s.canonical) :
    Kept (execFence sp kind sc s) := by
  unfold execFence
  refine runCtrl_canonical (fun s c hs => ?_) hs
  have steps : (if kind = 0 then (s, true) else releaseSteps s c sc.toNat).1.canonical := by
    split
    · exact hs
    · exact releaseSteps_canonical hs
  split
  next s1 ok heq =>
  have hs1 := steps.of_fst heq
  split
  · exact hs1
  · split
    · exact hs1
    · exact acquireSteps_canonical hs1

theorem sysWrite_canonical {c : Ctx} {n : Nat} {v : Word} (hs : s.canonical) : (sysWrite s c n v).canonical := by
  unfold sysWrite
  split
  · exact ite_canonical hs hs
  · exact ite_canonical hs hs
  · exact ite_canonical hs (ite_canonical hs (ite_canonical hs hs))
  · exact ite_canonical hs hs
  · exact hs

theorem execSetsr_canonical {sp : Option Word} {d : Reg} {m : BitVec 16} (hs : s.canonical) : Kept (execSetsr sp d m s) := by
  unfold execSetsr
  refine runCtrl_canonical (fun s c hs => ?_) hs
  · extract_lets -underBinder v
    split
    · exact hs
    · split
      · exact hs
      · exact sysWrite_canonical hs

theorem execBrk_canonical {sp : Option Word} {m : BitVec 16} (hs : s.canonical) : Kept (execBrk sp m s) := by
  unfold execBrk
  refine runCtrl_canonical (fun s c hs => ?_) hs
  · split
    · exact hs
    · exact hs

theorem execDebugResume_canonical {c : Nat} (hs : s.canonical) : Kept (execDebugResume c s) := by
  unfold execDebugResume
  split
  · split
    · split
      · exact hs
      · exact hs
    · exact hs
  · exact hs

theorem execSigchk_canonical {sp : Option Word} {lit : Word} (hs : s.canonical) : Kept (execSigchk sp lit s) := by
  unfold execSigchk
  refine runCtrl_canonical (fun s c hs => ?_) hs
  · split
    · exact hs
    · exact hs

end Sys2Proof.Proofs.Memories

end

section
/-! PROOFS. Every step keeps memory and tags in canonical form (O56): the lanes, accesses, loads and stores. -/

open Sys2Proof Sys2Proof.Machine

namespace Sys2Proof.Proofs.Memories

variable {s : State}

theorem killForUe_canonical {id : Nat} {pc : Word} {l : List Nat} (hs : s.canonical) : (killForUe s id pc l).canonical := by
  induction l generalizing s with
  | nil => exact hs
  | cons l r ih =>
    unfold killForUe
    split
    · exact hs
    · exact ih (ctxError_canonical hs)

theorem takeAtomicPage_canonical {c : Ctx} {lane off : Nat} {recs : List (List Word)} (hs : s.canonical) :
    (takeAtomicPage s c lane off recs).canonical :=
  ite_canonical (fqBatch_canonical hs) (fqJoin_canonical hs)

theorem takeRemote_canonical {c : Ctx} {atomic : Bool} {lane : Option Nat} {off req : Nat} (hs : s.canonical) :
    (takeRemote s c atomic lane off req).canonical :=
  ite_canonical hs (dropWait_canonical hs)

theorem finishLane_canonical {id : Nat} {q : Clause} {spec : LaneSpec} {a : LAct} (ha : KeptLAct (a)) :
    Kept (finishLane id q spec a) := by
  unfold finishLane
  extract_lets -underBinder flag
  split
  · split
    · exact ha
    · exact ha
  · split
    · exact ha
    · exact ha
  · exact ha
  · split
    · exact ha
    · exact takeFault_canonical ha
  · split
    · exact ha
    · exact ite_canonical (takeAtomicPage_canonical ha) (takePage_canonical ha)
  · split
    · exact ha
    · exact takeRemote_canonical ha
  · trivial

theorem runLane_canonical {spec : LaneSpec} {body : State → Ctx → Clause → LaneMask → LAct}
    (hbody : ∀ s c q m, s.canonical → KeptLAct (body s c q m)) (hs : s.canonical) : Kept (runLane spec body s) := by
  unfold runLane
  split
  · split
    · exact hs
    · split
      · exact hs
      · split
        · exact hs
        · split
          · exact hs
          · split
            · exact hs
            · extract_lets -underBinder m regs
              split
              · exact finishLane_canonical hs
              · split
                · exact finishLane_canonical (hbody _ _ _ _ hs)
                · split
                  · exact finishLane_canonical hs
                  · split
                    · exact hs
                    · split
                      · exact finishLane_canonical hs
                      · extract_lets -underBinder src
                        split
                        · exact finishLane_canonical hs
                        · extract_lets -underBinder bad s1
                          have hs1 : s1.canonical := killForUe_canonical hs
                          split
                          · exact hs1
                          · exact finishLane_canonical (hbody _ _ _ _ hs1)
  · exact hs

theorem mapLane_canonical {op : Nat} {f : LaneForm} {g : State → Ctx → Clause → Nat → Word} {reads : List Nat} (hs : s.canonical) :
    Kept (mapLane op f g reads s) :=
  runLane_canonical (fun _ _ _ _ hs => (writeLanes_canonical _ _ _ _ hs)) hs

theorem lane1_canonical {op : Nat} {f : LaneForm} {g : Clause → Word → Word} (hs : s.canonical) : Kept (lane1 op f g s) :=
  mapLane_canonical hs

theorem lane2_canonical {op : Nat} {f : LaneForm} {g : Clause → Word → Word → Word} (hs : s.canonical) : Kept (lane2 op f g s) :=
  mapLane_canonical hs

theorem lane3_canonical {op : Nat} {f : LaneForm} {g : Clause → Word → Word → Word → Word} (hs : s.canonical) : Kept (lane3 op f g s) :=
  mapLane_canonical hs

theorem laneChecks_canonical {c : Ctx} {q : Clause} {write : Bool} {asid mg : BitVec 16} {hits : List (Nat × Hit)}
    (hs : s.canonical) : KeptOption KeptLAct (laneChecks s c q write asid mg hits) := by
  unfold laneChecks
  split
  · exact hs
  · exact hs
  · exact keptOption_map (fun _ => trivial)

theorem shflLane_canonical {op : Nat} {xor : Bool} {f : LaneForm} (hs : s.canonical) : Kept (shflLane op xor f s) :=
  runLane_canonical (fun _ _ _ _ hs => (killForUe_canonical (writeLanes_canonical _ _ _ _ hs))) hs

theorem writeRun_canonical {c : Ctx} {ls : List Nat} {n : Nat} {l : List Word} (hs : s.canonical) :
    (writeRun s c ls n l).canonical := by
  induction l generalizing s n with
  | nil => exact hs
  | cons w l ih => exact ih (writeLanes_canonical _ _ _ _ hs)

theorem execCvt_canonical {f : LaneForm} (hs : s.canonical) : Kept (execCvt f s) := by
  unfold execCvt
  refine runLane_canonical (fun s c q m hs => ?_) hs
  extract_lets write
  split
  · split
    · exact hs
    · exact writeLanes_canonical _ _ _ _ hs
  · exact writeLanes_canonical _ _ _ _ hs

theorem execQuant_canonical {f : LaneForm} (hs : s.canonical) : Kept (execQuant f s) := by
  unfold execQuant
  refine runLane_canonical (fun s c q m hs => ?_) hs
  · split
    · exact hs
    · exact writeLanes_canonical _ _ _ _ hs

theorem stallLane_canonical {c : Ctx} {off va : Nat} (hs : s.canonical) : (stallLane s c off va).canonical := by
  unfold stallLane
  extract_lets asid r
  split
  · split
    next b s1 heq =>
    have hs1 : s1.canonical := (fqBatch_canonical hs).of_snd heq
    exact hs1
  · exact fqJoin_canonical hs

theorem laneFetchStop_canonical {c : Ctx} {off : Nat} {x : Fetch} (hs : s.canonical) : Kept (laneFetchStop s c off x) := by
  unfold laneFetchStop
  split
  · exact hs
  · exact hs
  · exact stallLane_canonical hs
  · exact askFetch_canonical hs
  · exact takeFault_canonical hs
  · trivial
  · exact ctxError_canonical (dropWait_canonical hs)

theorem execClauseHead_canonical {c : Nat} (hs : s.canonical) : Kept (execClauseHead c s) := by
  unfold execClauseHead
  split
  · exact hs
  · split
    · exact hs
    · extract_lets -underBinder off
      split
      · exact hs
      · split
        · exact laneFetchStop_canonical hs
        · extract_lets -underBinder h n
          split
          · exact takeFault_canonical hs
          · split
            · exact laneFetchStop_canonical hs
            · split
              · exact takeFault_canonical hs
              · exact hs

theorem askLines_canonical {c : Ctx} {pc : Word} {ask : Ask} {asid mg : BitVec 16} {l : List (Nat × BitVec 12 × Nat)}
    (hs : s.canonical) : (askLines s c pc ask asid mg l).canonical := by
  induction l generalizing s with
  | nil => exact hs
  | cons x l ih => exact ih (ite_canonical hs hs)

theorem remoteCheck_canonical {c : Ctx} {q : Clause} {write : Bool} {n : Nat} {asid mg : BitVec 16} {hits : List (Nat × Hit)}
    (hs : s.canonical) : KeptExcept KeptLAct State.canonical (remoteCheck s c q write n asid mg hits) := by
  unfold remoteCheck
  extract_lets pc ask far ls rs
  split
  · exact askLines_canonical hs
  · next stop kept s1 _ =>
    clear_value stop
    split
    · exact hs
    · split
      · exact hs
      · exact hs

theorem putOwn_canonical {c : Ctx} {l : List (Place × List Byte)} (hs : s.canonical) : (putOwn s c l).canonical := by
  induction l generalizing s with
  | nil => exact hs
  | cons w l ih =>
    obtain ⟨p, bs⟩ := w
    cases p with
    | here k => exact ih (coreWrite_canonical hs)
    | peer d a => exact ih hs

theorem writeOwn_canonical {c : Ctx} {ws : List (Place × List Byte)} (hs : s.canonical) : (writeOwn s c ws).canonical :=
  clearCovered_canonical _ _ (putOwn_canonical hs)

theorem storeAct_canonical {c : Ctx} {f : LaneForm} {asid mg : BitVec 16} {hits : List (Nat × Hit)} (hs : s.canonical) :
    KeptLAct (storeAct s c f asid mg hits) := by
  unfold storeAct
  extract_lets acc own buf
  split
  · exact hs
  · split
    · exact hs
    · split
      · exact hs
      · split
        next s1 ok heq =>
        have hs1 := (releaseIf_canonical hs).of_fst heq
        split
        · exact hs1
        · exact writeOwn_canonical (modCtx_canonical _ _ _ hs1)

theorem bufferSpecCheck_canonical {c : Ctx} {q : Clause} {f : LaneForm} {size4 write : Bool} {n : Nat} (hs : s.canonical) :
    KeptExcept KeptLAct (fun _ => True) (bufferSpecCheck s c q f size4 write n) := by
  unfold bufferSpecCheck
  split
  · exact hs
  · split
    · exact hs
    · split
      · exact hs
      · split
        · exact hs
        · trivial

theorem bufferAct_canonical {c : Ctx} {q : Clause} {f : LaneForm} {m : LaneMask} {size4 write : Bool} {read : Reading} {n : Nat}
    {access : State → BitVec 16 → BitVec 16 → List (Nat × Hit) → LAct} (hs : s.canonical)
    (haccess : ∀ s asid mg hits, s.canonical → KeptLAct (access s asid mg hits)) :
    KeptLAct (bufferAct s c q f m size4 write read n access) := by
  unfold bufferAct
  split
  · next a heq => exact (bufferSpecCheck_canonical hs).of_eq heq
  · extract_lets mg hits
    split
    · next a heq => exact (laneChecks_canonical hs).of_eq heq
    · split
      · next a heq => exact (remoteCheck_canonical hs).of_eq heq
      · next s1 heq =>
        have hs1 : s1.canonical := (remoteCheck_canonical hs).of_eq heq
        exact haccess _ _ _ _ hs1

theorem execBld_canonical {f : LaneForm} (hs : s.canonical) : Kept (execBld f s) := by
  unfold execBld
  exact runLane_canonical (fun _ _ _ _ hs => bufferAct_canonical hs (fun _ _ _ _ hs => hs)) hs

theorem atomicAct_canonical {spec : LaneSpec} {c : Ctx} {q : Clause} {m : LaneMask} {asid mg : BitVec 16} {hits : List (Nat × Hit)}
    (hs : s.canonical) : KeptLAct (atomicAct spec s c q m asid mg hits) := by
  unfold atomicAct
  extract_lets f
  split
  next s1 ok heq =>
  have hs1 := (releaseIf_canonical hs).of_fst heq
  split
  · exact hs1
  · exact hs1

theorem execBatom_canonical {f : LaneForm} (hs : s.canonical) : Kept (execBatom f s) := by
  unfold execBatom
  exact runLane_canonical (fun _ _ _ _ hs => bufferAct_canonical hs (fun _ _ _ _ hs => atomicAct_canonical hs)) hs

theorem prefetchLine_canonical {c : Ctx} {asid mg : BitVec 16} {pin : Bool} {line : Place} (hs : s.canonical) :
    (prefetchLine s c asid mg pin line).canonical := by
  unfold prefetchLine
  split
  · exact pinLine_canonical (l1Fill_canonical (countAccess_canonical hs))
  · exact hs

theorem prefetchLines_canonical {id : Nat} {asid mg : BitVec 16} {pin : Bool} {l : List Place} (hs : s.canonical) :
    (prefetchLines s id asid mg pin l).canonical := by
  induction l generalizing s with
  | nil => exact hs
  | cons x l ih =>
    unfold prefetchLines
    split
    · exact ih (prefetchLine_canonical hs)
    · exact hs

theorem execBpf_canonical {f : LaneForm} (hs : s.canonical) : Kept (execBpf f s) := by
  unfold execBpf
  refine runLane_canonical (fun s c q m hs => ?_) hs
  split
  · next a heq => exact (bufferSpecCheck_canonical hs).of_eq heq
  · split
    · exact hs
    · extract_lets mg hits pc far pin rs s1
      split
      · exact hs
      · split
        · exact askLines_canonical hs
        · exact prefetchLines_canonical hs

theorem localLoad_canonical {op : Nat} {run : Bool} {f : LaneForm} (hs : s.canonical) : Kept (localLoad op run f s) := by
  unfold localLoad
  refine runLane_canonical (fun s c q m hs => ?_) hs
  extract_lets hits
  split
  · next a heq => exact (laneChecks_canonical hs).of_eq heq
  · exact hs

theorem localStore_canonical {op : Nat} {run : Bool} {f : LaneForm} (hs : s.canonical) : Kept (localStore op run f s) := by
  unfold localStore
  refine runLane_canonical (fun s c q m hs => ?_) hs
  extract_lets hits
  split
  · next a heq => exact (laneChecks_canonical hs).of_eq heq
  · exact storeAct_canonical hs

theorem execLatom_canonical {f : LaneForm} (hs : s.canonical) : Kept (execLatom f s) := by
  unfold execLatom
  refine runLane_canonical (fun s c q m hs => ?_) hs
  extract_lets hits
  split
  · next a heq => exact (laneChecks_canonical hs).of_eq heq
  · exact atomicAct_canonical hs

theorem execPld_canonical {f : LaneForm} (hs : s.canonical) : Kept (execPld f s) := by
  unfold execPld
  refine runLane_canonical (fun s c q m hs => ?_) hs
  extract_lets hits
  split
  · next a heq => exact (laneChecks_canonical hs).of_eq heq
  · exact hs

theorem execPst_canonical {f : LaneForm} (hs : s.canonical) : Kept (execPst f s) := by
  unfold execPst
  refine runLane_canonical (fun s c q m hs => ?_) hs
  extract_lets hits
  split
  · next a heq => exact (laneChecks_canonical hs).of_eq heq
  · exact storeAct_canonical hs

theorem retireDue_canonical {c : Ctx} {fence : Nat} (hs : s.canonical) : (retireDue s c fence).canonical :=
  ite_canonical (modCtx_canonical _ _ _ hs) hs

theorem peerLoad_canonical {c : Ctx} {f : Flight} {a : LaneAcc} {d : BitVec 12} {ad : Nat} (hs : s.canonical) :
    KeptGot (peerLoad s c f a d ad) := by
  unfold peerLoad
  extract_lets -underBinder p
  split
  · split
    · exact hs
    · exact copyBytes_canonical (ite_canonical hs hs)
  · split
    · exact copyBytes_canonical hs
    · split
      · exact hs
      · exact hs

theorem loadElement_canonical {c : Ctx} {f : Flight} {a : LaneAcc} (hs : s.canonical) : KeptGot (loadElement s c f a) := by
  unfold loadElement
  extract_lets n got
  have hgot : KeptGot got := by
    unfold got
    split
    · exact hs
    · exact peerLoad_canonical hs
    · split
      · split
        · exact hs
        · exact hs
      · exact vaultRead_canonical hs
      · split
        · next s1 heq =>
          have hs1 : s1.canonical := (l1Load_canonical hs).of_eq heq
          exact countAccess_canonical hs1
        · exact l1Load_canonical hs
  clear_value got
  split
  · exact hgot
  · exact hgot

theorem landWords_canonical {c : Ctx} {n lane : Nat} {l : List Word} (hs : s.canonical) : (landWords s c n lane l).canonical := by
  induction l generalizing s n with
  | nil => exact hs
  | cons w l ih => exact ih (ite_canonical hs (vwrite_canonical _ _ _ _ _ hs))

theorem loadLane_canonical {id fid : Nat} {x : State × List Nat} {a : LaneAcc} (hx : (x).1.canonical) :
    (loadLane id fid x a).1.canonical := by
  unfold loadLane
  split
  · exact hx
  · extract_lets -underBinder gone
    split
    · exact hx
    · next t1 heq =>
        have ht1 : t1.canonical := (loadElement_canonical hx).of_eq heq
        exact modCtx_canonical _ _ _ ht1
    · next _ t1 heq =>
        have ht1 : t1.canonical := (loadElement_canonical hx).of_eq heq
        exact landWords_canonical (modCtx_canonical _ _ _ ht1)

theorem loadLanes_canonical {id fid : Nat} {pc : Word} {accs : List LaneAcc} (hs : s.canonical) :
    (loadLanes s id fid pc accs).canonical := by
  have lanes : (accs.foldl (loadLane id fid) (s, [])).1.canonical := by
    generalize ([] : List Nat) = bad
    induction accs generalizing s bad with
    | nil => exact hs
    | cons a accs ih => exact ih (loadLane_canonical (x := (s, bad)) hs) _
  exact killForUe_canonical lanes

theorem completeLoad_canonical {id fid lane : Nat} (hs : s.canonical) : (completeLoad s id fid lane).canonical := by
  unfold completeLoad
  split
  · exact hs
  · next c _ =>
    split
    · exact hs
    · next f _ =>
      split
      · exact hs
      · extract_lets accs
        split
        · exact hs
        · next s0 _ =>
          have hs0 : s0.canonical := retireDue_canonical hs
          split
          · next s1 heq =>
            obtain ⟨b, _, later⟩ := List.exists_of_findSome?_eq_some heq
            split at later
            · next s2 heq =>
              cases later
              exact (loadElement_canonical hs0).of_eq heq
            · cases later
          · exact loadLanes_canonical hs0

/-- The state that a place at a home leaves, and the one that takes each new word, are in canonical form. -/
def KeptHome : Home → Prop
  | .old _ put => ∀ w, (put w).canonical
  | .ue => True
  | .later s => s.canonical

theorem KeptHome.of_eq {r r' : Home} (h : KeptHome r) (e : r = r') : KeptHome r' := e ▸ h

theorem atHome_canonical {c : Ctx} {h : Holder} {asid mg : BitVec 16} {gen : BitVec 12} {k : Nat} (hs : s.canonical) :
    KeptHome (atHome s c h asid mg gen k) := by
  unfold atHome
  split
  · split
    · trivial
    · exact fun _ => coreWrite_canonical hs
  · split
    · exact hs
    · split
      · trivial
      · exact fun _ => ite_canonical (vaultWrite_canonical hs) (raiseWct_canonical (vaultWrite_canonical hs))
  · extract_lets l
    split
    · exact writeBackLine_canonical hs
    · next s1 _ heq => exact (homeTurn_canonical hs).of_eq heq
    · next s1 _ heq =>
      have hs1 : s1.canonical := (homeTurn_canonical hs).of_eq heq
      split
      · trivial
      · exact fun w => l1Refresh_canonical (markWritten_canonical (raiseWct_canonical
          (cacheTouch_canonical (writeWord_canonical _ _ _ hs1))))

theorem finishLanes_canonical {c : Ctx} {f : Flight} {outs : List (Nat × Word)} (hs : s.canonical) :
    (finishLanes s c f outs).canonical :=
  foldl_canonical (fun _ _ hs => (landWords_canonical hs)) (modCtx_canonical _ _ _ hs)

theorem peerAtomic_canonical {c : Ctx} {f : Flight} {a : LaneAcc} {d : BitVec 12} {ad : Nat} (hs : s.canonical) :
    (peerAtomic s c f a d ad).canonical := by
  unfold peerAtomic
  extract_lets -underBinder p
  split
  · split
    · exact finishLanes_canonical hs
    · exact hs
  · split
    · exact writeBackLine_canonical hs
    · exact ite_canonical hs hs

theorem completeElement_canonical {id fid lane : Nat} (hs : s.canonical) : (completeElement s id fid lane).canonical := by
  unfold completeElement
  split
  · exact hs
  · split
    · exact hs
    · split
      · exact hs
      · extract_lets same ls ops
        split
        · exact hs
        · split
          · exact finishLanes_canonical hs
          · exact peerAtomic_canonical hs
          · split
            · next s1 heq => exact (atHome_canonical hs).of_eq heq
            · exact killForUe_canonical (modCtx_canonical _ _ _ hs)
            · next w put heq => exact finishLanes_canonical ((atHome_canonical hs).of_eq heq _)

theorem endFlight_canonical {id fid : Nat} (hs : s.canonical) : (endFlight s id fid).canonical := by
  unfold endFlight
  split
  · exact hs
  · split
    · exact hs
    · exact ite_canonical hs (ite_canonical hs hs)

theorem orphanReturn_canonical {c op : Nat} (hs : s.canonical) : (orphanReturn s c op).canonical := by
  unfold orphanReturn
  split
  · exact ite_canonical hs hs
  · exact hs

theorem execLaneCompletion_canonical {c op : Nat} {lanes : LaneMask} (hs : s.canonical) : Kept (execLaneCompletion c op lanes s) := by
  unfold execLaneCompletion
  split
  · exact orphanReturn_canonical hs
  · split
    · exact hs
    · next step _ =>
        refine endFlight_canonical (s := List.foldl _ _ _) ?_
        refine foldl_canonical (fun s x hs => ?_) hs
        split
        · exact completeLoad_canonical hs
        · exact completeElement_canonical hs
        · exact hs

end Sys2Proof.Proofs.Memories

end

section
/-! PROOFS. Every step keeps memory and tags in canonical form (O56): waits, engines and the matrix unit. -/

open Sys2Proof Sys2Proof.Machine

namespace Sys2Proof.Proofs.Memories

variable {s : State}

theorem Hit_act_canonical {c : Ctx} {write : Bool} {r : Rec} {x : Hit} (hs : s.canonical) : KeptAct (Hit.act s c write r x) := by
  unfold Hit.act
  split
  · exact hs
  · exact hs
  · trivial
  · exact hs

theorem execLds_canonical {sp : Option Word} {d a : Reg} {i : BitVec 8} (hs : s.canonical) : Kept (execLds sp d a i s) := by
  unfold execLds
  refine runCtrl_canonical (fun s c hs => ?_) hs
  · split
    · extract_lets -underBinder own
      split
      · exact hs
      · split
        · exact hs
        · exact hs
    · exact Hit_act_canonical hs

theorem execSts_canonical {sp : Option Word} {d a : Reg} {i : BitVec 8} (hs : s.canonical) : Kept (execSts sp d a i s) := by
  unfold execSts
  refine runCtrl_canonical (fun s c hs => ?_) hs
  · split
    · extract_lets -underBinder bs
      split
      · exact writeOwn_canonical hs
      · split
        · exact hs
        · exact hs
    · exact Hit_act_canonical hs

theorem outOfBounds_canonical {x : Option Word} (hs : s.canonical) : KeptAct (Machine.outOfBounds s x) := by
  cases x with
  | some x => exact hs
  | none => exact hs

theorem scalarPeer_canonical {c : Ctx} {d : BitVec 12} {a : Nat} {ask : Ask} {asid mg : BitVec 16} {counted : Bool}
    (hs : s.canonical) : KeptExcept State.canonical (fun p => p.2.canonical) (scalarPeer s c d a ask asid mg counted) := by
  unfold scalarPeer
  split
  · split
    · exact hs
    · exact hs
  · split
    · exact hs
    · exact hs

theorem scalarPeerLoad_canonical {c : Ctx} {d : BitVec 12} {a n : Nat} {asid mg : BitVec 16} {counted : Bool} (hs : s.canonical) :
    KeptExcept State.canonical (fun p => p.2.canonical) (scalarPeerLoad s c d a n asid mg counted) := by
  unfold scalarPeerLoad
  extract_lets -underBinder x
  split
  · exact hs
  · have answer := scalarPeer_canonical (c := c) (d := d) (a := a) (ask := .read true) (asid := asid) (mg := mg) (counted := counted) hs
    revert answer
    cases scalarPeer s c d a (.read true) asid mg counted with
    | error t => exact id
    | ok p => exact id

/-- Where the checks of a scalar access stop it, the state is in canonical form. -/
def KeptElement : Element → Prop
  | .stop a => KeptAct a
  | _ => True

theorem KeptElement.of_eq {r r' : Element} (h : KeptElement r) (e : r = r') : KeptElement r' := e ▸ h

theorem scalarElement_canonical {c : Ctx} {a : Reg} {b : BitVec 7} {write : Bool} {read : Reading} {size4 : Bool} (hs : s.canonical) :
    KeptElement (scalarElement s c a b write read size4) := by
  unfold scalarElement
  extract_lets pols
  split
  · exact hs
  · split
    · exact hs
    · split
      · exact hs
      · split
        · trivial
        · split
          · exact hs
          · split
            · trivial
            · exact Hit_act_canonical hs

theorem execSbld_canonical {sp : Option Word} {d a : Reg} {b : BitVec 7} (hs : s.canonical) : Kept (execSbld sp d a b s) := by
  unfold execSbld
  refine runCtrl_canonical (fun s c hs => ?_) hs
  · split
    · next act heq => exact (scalarElement_canonical hs).of_eq heq
    · exact outOfBounds_canonical hs
    · extract_lets -underBinder n own result
      split
      · exact hs
      · next s _ =>
          have hs : s.canonical := retireDue_canonical hs
          split
          · split
            · next t4 heq =>
                have ht4 : t4.canonical := (scalarPeerLoad_canonical hs).of_eq heq
                exact ht4
            · next _ t4 heq =>
                have ht4 : t4.canonical := (scalarPeerLoad_canonical hs).of_eq heq
                exact modCtx_canonical _ _ _ ht4
          · split
            · split
              · next t5 heq =>
                  have ht5 : t5.canonical := (vaultRead_canonical hs).of_eq heq
                  exact ht5
              · next t5 heq =>
                  have ht5 : t5.canonical := (vaultRead_canonical hs).of_eq heq
                  exact ht5
              · next _ t5 heq =>
                  have ht5 : t5.canonical := (vaultRead_canonical hs).of_eq heq
                  exact modCtx_canonical _ _ _ ht5
            · split
              · next t5 heq =>
                  have ht5 : t5.canonical := (l1Load_canonical hs).of_eq heq
                  exact ht5
              · next t5 heq =>
                  have ht5 : t5.canonical := (l1Load_canonical hs).of_eq heq
                  exact ht5
              · next _ t5 heq =>
                  have ht5 : t5.canonical := (l1Load_canonical hs).of_eq heq
                  exact modCtx_canonical _ _ _ (countAccess_canonical ht5)

theorem execSbst_canonical {sp : Option Word} {d a : Reg} {b : BitVec 7} (hs : s.canonical) : Kept (execSbst sp d a b s) := by
  unfold execSbst
  refine runCtrl_canonical (fun s c hs => ?_) hs
  · split
    · next act heq => exact (scalarElement_canonical hs).of_eq heq
    · exact outOfBounds_canonical hs
    · extract_lets -underBinder bs
      split
      · exact hs
      · exact hs

theorem satomAt_canonical {c : Ctx} {d : Reg} {lit : Word} {p : Place} {g : BitVec 12} {r : Rec} (hs : s.canonical) :
    KeptAct (satomAt s c d lit p g r) := by
  unfold satomAt
  extract_lets -underBinder op x cmp finish
  split
  · split
    · exact writeBackLine_canonical hs
    · split
      · next t2 heq =>
          have ht2 : t2.canonical := (scalarPeer_canonical hs).of_eq heq
          exact ht2
      · next _ t2 heq =>
          have ht2 : t2.canonical := (scalarPeer_canonical hs).of_eq heq
          exact ite_canonical (modCtx_canonical _ _ _ ht2) (modCtx_canonical _ _ _ ht2)
  · split
    · next s1 heq => exact (atHome_canonical hs).of_eq heq
    · exact hs
    · next w put heq =>
      have hput := (atHome_canonical hs).of_eq heq (atomOp op (c.nbv = 1) w x cmp)
      exact ite_canonical (modCtx_canonical _ _ _ hput) (modCtx_canonical _ _ _ hput)

theorem execSatom_canonical {sp : Option Word} {d a : Reg} {b : BitVec 7} {lit : Word} (hs : s.canonical) :
    Kept (execSatom sp d a b lit s) := by
  unfold execSatom
  refine runCtrl_canonical (fun s c hs => ?_) hs
  split
  next s1 ok heq =>
  have hs1 : s1.canonical := (releaseIf_canonical hs).of_fst heq
  split
  · exact hs1
  · extract_lets c1
    split
    · next act heq => exact (scalarElement_canonical hs1).of_eq heq
    · exact outOfBounds_canonical (setCtx_canonical _ _ hs1)
    · exact satomAt_canonical hs1

theorem copyGranules_canonical {src dst n : Nat} (hs : s.canonical) : (copyGranules s src dst n).canonical := by
  induction n generalizing s src dst with
  | zero => exact hs
  | succ n ih =>
    unfold copyGranules
    extract_lets s1 s2
    have hs1 : s1.canonical := clearPoison_canonical _ _ (setTag_canonical _ _ _ (writeBytes_canonical _ _ _ hs))
    clear_value s1
    have hs2 : s2.canonical := ite_canonical hs1 hs1
    exact ih hs2

theorem resumePast_canonical {id len : Nat} {sp : Option Word} (hs : s.canonical) : (resumePast s id len sp).canonical :=
  modCtx_canonical _ _ _ hs

/-- Where the test takes its object, the state is in canonical form. -/
def KeptWaita : Waita → Prop
  | .yes _ s => s.canonical
  | _ => True

theorem KeptWaita.of_eq {r r' : Waita} (h : KeptWaita r) (e : r = r') : KeptWaita r' := e ▸ h

theorem waitaTest_canonical {c : Ctx} {a b : Reg} {order : Nat} (hs : s.canonical) : KeptWaita (waitaTest s c a b order) := by
  unfold waitaTest
  extract_lets ring addr n k
  split
  · trivial
  · split
    · trivial
    · split
      · trivial
      · split
        · trivial
        · split
          · split
            · trivial
            · split
              · exact writeWord_canonical _ _ _ (writeWord_canonical _ _ _ hs)
              · trivial
          · split
            · exact hs
            · trivial

theorem execWaita_canonical {sp : Option Word} {d a b : Reg} (hs : s.canonical) : Kept (execWaita sp d a b s) := by
  unfold execWaita
  refine runCtrl_canonical (fun s c hs => ?_) hs
  split
  · exact hs
  · exact hs
  · next v s1 heq =>
    have hs1 : s1.canonical := (waitaTest_canonical hs).of_eq heq
    exact modCtx_canonical _ _ _ hs1
  · exact modCtx_canonical _ _ _ (modWaiters_canonical hs)

theorem execWaitaWake_canonical {c : Nat} (hs : s.canonical) : Kept (execWaitaWake c s) := by
  unfold execWaitaWake
  split
  · exact hs
  · split
    · split
      · exact hs
      · next leave _ =>
          split
          · exact hs
          · exact takeFault_canonical (modWaiters_canonical hs)
          · exact scalarUe_canonical (modWaiters_canonical hs)
          · next v s1 heq =>
            have hs1 : s1.canonical := (waitaTest_canonical hs).of_eq heq
            exact resumePast_canonical (modCtx_canonical _ _ _ (modWaiters_canonical hs1))
    · exact hs

theorem trywTest_canonical {c : Ctx} {sp : Option Word} {d a : Reg} {b : BitVec 7} {lit : Word} {t0 : Nat} (hs : s.canonical) :
    KeptAct (trywTest s c sp d a b lit t0) := by
  unfold trywTest
  split
  · next act heq => exact (scalarElement_canonical hs).of_eq heq
  · exact outOfBounds_canonical hs
  · extract_lets -underBinder test
    have tested (w : Word) {s1 : State} (hs1 : s1.canonical) : KeptAct (test w s1) := by
      unfold test
      split
      · exact modCtx_canonical _ _ _ hs1
      · split
        · exact modCtx_canonical _ _ _ hs1
        · exact modCtx_canonical _ _ _ hs1
    split
    · exact hs
    · split
      · split
        · next s1 heq => exact (scalarPeer_canonical hs).of_eq heq
        · next bs s1 heq => exact tested _ ((scalarPeer_canonical hs).of_eq heq)
      · split
        · split
          · next s1 heq => exact (vaultRead_canonical hs).of_eq heq
          · next s1 heq => exact (vaultRead_canonical hs).of_eq heq
          · next bs s1 heq => exact tested _ ((vaultRead_canonical hs).of_eq heq)
        · split
          · next s1 heq => exact (homeRead_canonical hs).of_eq heq
          · next s1 heq => exact (homeRead_canonical hs).of_eq heq
          · next bs s1 heq =>
            have hs1 : s1.canonical := (homeRead_canonical hs).of_eq heq
            exact tested _ (countAccess_canonical hs1)

theorem trywAgain_canonical {c : Nat} {timedOut : Bool} (hs : s.canonical) : Kept (trywAgain c timedOut s) := by
  unfold trywAgain
  split
  · exact hs
  · next x _ =>
    split
    · next sp d a b lit len t0 _ =>
      split
      · exact hs
      · extract_lets y spec
        have hact := trywTest_canonical (c := y) (sp := sp) (d := d) (a := a) (b := b) (lit := lit) (t0 := t0) (setCtx_canonical s y hs)
        clear_value y spec
        revert hact
        generalize trywTest (setCtx s y) y sp d a b lit t0 = act
        intro hact
        split
        · exact modCtx_canonical _ _ _ hact
        · exact finishCtrl_canonical hact
    · exact hs

theorem retireOps_canonical {id : Nat} {cls : BitVec 2} {n : Nat} (hs : s.canonical) : (retireOps s id cls n).canonical := by
  induction n generalizing s with
  | zero => exact hs
  | succ n ih =>
    unfold retireOps
    split
    · exact hs
    · split
      · exact ih (modCtx_canonical _ _ _ hs)
      · exact hs

theorem issueOp_canonical {k : EngKind} {sp : Option Word} {d a b : Reg} (hs : s.canonical) : Kept (issueOp k sp d a b s) := by
  unfold issueOp
  refine runCtrl_canonical (fun s c hs => ?_) hs
  · split
    · exact hs
    · split
      · exact hs
      · exact retireOps_canonical (ite_canonical hs hs)

theorem engineFault_canonical {o : EngOp} {code : Nat} (hs : s.canonical) : (engineFault s o code).canonical := by
  unfold engineFault
  extract_lets -underBinder raised s1 kill
  have hs1 : s1.canonical := hs
  split
  · exact ite_canonical hs1 (ctxError_canonical (dropWait_canonical hs1))
  · exact pushError_canonical hs1

theorem objWrite_canonical {o : EngOp} {addr : Nat} {ws : List Word} (hs : s.canonical) : (objWrite s o addr ws).canonical :=
  coreWrite_canonical hs

theorem arrivalUpdate_canonical {o : EngOp} {n : Nat} (hs : s.canonical) : (arrivalUpdate s o n).canonical := by
  unfold arrivalUpdate
  extract_lets -underBinder d
  split
  · exact hs
  · split
    · exact engineFault_canonical hs
    · exact ite_canonical (objWrite_canonical hs) (objWrite_canonical hs)

theorem execEngineOpStart_canonical {k cls : Nat} (hs : s.canonical) : Kept (execEngineOpStart k cls s) := by
  unfold execEngineOpStart
  split
  · exact hs
  · split
    · exact hs
    · split
      · split
        · exact engineFault_canonical hs
        · exact hs
      · exact hs

theorem execRingSlotTake_canonical {op : Nat} (hs : s.canonical) : Kept (execRingSlotTake op s) := by
  unfold execRingSlotTake
  split
  · exact hs
  · split
    · exact hs
    · extract_lets w slots head next s1 s2
      have hs1 : s1.canonical := objWrite_canonical hs
      have hs2 : s2.canonical := objWrite_canonical hs1
      clear_value s2
      split
      · exact hs
      · exact hs2

/-- The state of an engine's read is in canonical form. -/
def KeptERead : ERead → Prop
  | .bytes _ s | .wait s => s.canonical
  | _ => True

theorem KeptERead.of_eq {r r' : ERead} (h : KeptERead r) (e : r = r') : KeptERead r' := e ▸ h

theorem enginePeer_canonical {o : EngOp} {d : BitVec 12} {a n : Nat} {counted : Bool} {asid : BitVec 16} (hs : s.canonical) :
    KeptERead (enginePeer s o d a n counted asid) := by
  unfold enginePeer
  split
  · split
    · exact hs
    · exact hs
  · exact hs

theorem engineRead_canonical {o : EngOp} {e : Nat} (hs : s.canonical) : KeptERead (engineRead s o e) := by
  unfold engineRead
  extract_lets n r held
  split
  · extract_lets g owned
    split
    · exact hs
    · split
      · trivial
      · split
        · trivial
        · split
          · exact hs
          · exact hs
  · split
    · trivial
    · split
      · trivial
      · trivial
    · split
      · trivial
      · split
        · split
          · exact hs
          · split
            · trivial
            · exact cacheTouch_canonical hs
        · exact enginePeer_canonical hs
  · trivial
  · exact hs

theorem engineReads_canonical {o : EngOp} {l : List Nat} (hs : s.canonical) :
    KeptExcept (fun _ => True) (fun p => p.2.canonical) (engineReads s o l) := by
  induction l generalizing s with
  | nil => exact hs
  | cons e l ih =>
    unfold engineReads
    split
    · next bs s1 heq =>
      have hs1 : s1.canonical := (engineRead_canonical hs).of_eq heq
      have rest := ih hs1
      revert rest
      cases engineReads s1 o l with
      | error r => exact id
      | ok p => exact id
    · trivial

theorem countLines_canonical {o : EngOp} {es : List Nat} (hs : s.canonical) : (countLines s o es).canonical :=
  foldl_canonical (fun _ _ hs => (countAccess_canonical hs)) hs

theorem foldl_memWrite_wf {t : Sparse Byte} {k : Nat} {m : List Host.Cell} (h : Memory.wf m = true) :
    Memory.wf (t.foldl (fun m b => memWrite m (k + b.1) b.2) m) = true := by
  induction t generalizing m with
  | nil => exact h
  | cons b t ih => exact ih (memWrite_wf m _ _ h)

theorem landBlock_canonical {o : EngOp} {k : Nat} {t : Sparse Byte} (hs : s.canonical) : (landBlock s o k t).1.canonical := by
  unfold landBlock
  extract_lets -underBinder g
  split
  · split
    · exact raiseWct_canonical (coreWriteAt_canonical _ _ _ _ _ hs)
    · exact coreWriteAt_canonical _ _ _ _ _ hs
  · split
    · exact raiseWct_canonical (vaultWriteAt_canonical _ _ _ _ _ hs)
    · exact vaultWriteAt_canonical _ _ _ _ _ hs
  · split
    · exact clearCovered_canonical _ _ ⟨foldl_memWrite_wf hs.1, hs.2⟩
    · exact hs

theorem validate_canonical {o : EngOp} {landed : List Nat} (hs : s.canonical) : (validate s o landed).canonical := ite_canonical hs hs

theorem settle_canonical {id : Nat} (hs : s.canonical) : (settle s id).canonical := by
  unfold settle
  split
  · exact hs
  · extract_lets -underBinder d older
    split
    · exact hs
    · next s1 _ =>
        have hs1 : s1.canonical := ite_canonical (objWrite_canonical hs) hs
        exact ite_canonical hs1 hs1

theorem settleAll_canonical (hs : s.canonical) : (settleAll s).canonical := foldl_canonical (fun _ _ hs => (settle_canonical hs)) hs

theorem afterPiece_canonical {o : EngOp} {landed : List Nat} (hs : s.canonical) : (afterPiece s o landed).canonical := by
  unfold afterPiece
  extract_lets -underBinder full kept s1
  have hs1 : s1.canonical := validate_canonical hs
  split
  · exact hs1
  · exact settleAll_canonical hs1

theorem engineStop_canonical {o : EngOp} {x : ERead} (hs : s.canonical) : Kept (engineStop s o x) := by
  unfold engineStop
  split
  · exact hs
  · exact hs
  · exact engineFault_canonical hs
  · exact hs
  · trivial

theorem reduceAsk_canonical {o : EngOp} {e : Nat} {d : BitVec 12} {a : Nat} {src : Word} (hs : s.canonical) :
    (reduceAsk s o e d a src).canonical :=
  ite_canonical hs hs

theorem reduceAt_canonical {o : EngOp} {k : Nat} {src : Word} (hs : s.canonical) : KeptERead (reduceAt s o k src) := by
  unfold reduceAt
  extract_lets f g
  split
  · split
    · trivial
    · exact landBlock_canonical hs
  · split
    · trivial
    · exact landBlock_canonical hs
  · split
    · next s1 heq => exact (homeTurn_canonical hs).of_eq heq
    · next s1 heq =>
      have hs1 : s1.canonical := (homeTurn_canonical hs).of_eq heq
      split
      · trivial
      · exact markWritten_canonical (raiseWct_canonical (cacheTouch_canonical (writeWord_canonical _ _ _ hs1)))

theorem landReduce_canonical {o : EngOp} {e : Nat} {landed : List Nat} {count : State → State} (hs : s.canonical)
    (hcount : ∀ s, s.canonical → (count s).canonical) : Kept (landReduce s o e landed count) := by
  unfold landReduce
  split
  · split
    · exact afterPiece_canonical (hcount _ hs)
    · exact hs
  · split
    · exact engineStop_canonical hs
    · exact engineStop_canonical hs
    · next _ _ _ t1 _ heq =>
        have ht1 : t1.canonical := (engineReads_canonical hs).of_eq heq
        exact reduceAsk_canonical (countLines_canonical ht1)
    · next _ _ t1 _ heq =>
        have ht1 : t1.canonical := (engineReads_canonical hs).of_eq heq
        split
        · next late s2 heq =>
          have hs2 : s2.canonical := (reduceAt_canonical ht1).of_eq heq
          exact afterPiece_canonical (ite_canonical (hcount _ (countLines_canonical hs2)) hs2)
        · exact engineStop_canonical ht1

theorem landPiece_canonical {o0 : EngOp} {i : Nat} {es : List Nat} (hs : s.canonical) : Kept (landPiece s o0 i es) := by
  unfold landPiece
  extract_lets -underBinder o landed b n count
  split
  · exact landReduce_canonical hs (fun _ hs => (ite_canonical hs (arrivalUpdate_canonical hs)))
  · split
    · exact engineStop_canonical hs
    · exact engineStop_canonical hs
    · next _ _ t1 _ heq =>
        have ht1 : t1.canonical := (engineReads_canonical hs).of_eq heq
        extract_lets -underBinder s1
        have hs1 : s1.canonical := countLines_canonical ht1
        split
        · exact afterPiece_canonical hs1
        · extract_lets -underBinder lands
          have hlands : (lands).1.canonical := by
            unfold lands
            split
            · exact landBlock_canonical hs1
            · exact hs1
          exact afterPiece_canonical (ite_canonical (ite_canonical hlands (arrivalUpdate_canonical hlands)) hlands)

theorem execLanding_canonical {op blk : Nat} (hs : s.canonical) : Kept (execLanding op blk s) := by
  unfold execLanding
  split
  · exact hs
  · extract_lets -underBinder fresh
    split
    · exact hs
    · next recs _ =>
        split
        · split
          · exact fqBatch_canonical hs
          · exact fqJoin_canonical hs
        · next ps _ =>
            split
            · exact afterPiece_canonical hs
            · split
              · exact hs
              · split
                · exact hs
                · exact landPiece_canonical hs

theorem execEngineResume_canonical {op : Nat} (hs : s.canonical) : Kept (execEngineResume op s) := by
  unfold execEngineResume
  split
  · exact hs
  · split
    · split
      · exact hs
      · exact hs
    · split
      · exact hs
      · split
        · exact fqBatch_canonical hs
        · exact fqJoin_canonical hs
    · exact hs

theorem growTo_canonical {c : Ctx} {n : Nat} (hs : s.canonical) : KeptOption State.canonical (growTo s c n) := by
  unfold growTo
  extract_lets -underBinder k more
  split
  · exact hs
  · split
    · exact rowsTaken_canonical hs
    · split
      · exact keptOption_map (fun _ => rowsTaken_canonical (copyGranules_canonical hs))
      · trivial

theorem execGrow_canonical {sp : Option Word} {m : BitVec 16} (hs : s.canonical) : Kept (execGrow sp m s) := by
  unfold execGrow
  refine runCtrl_canonical (fun s c hs => ?_) hs
  · split
    · exact hs
    · split
      · exact hs
      · split
        · exact hs
        · split
          · next t4 heq =>
              have ht4 : t4.canonical := (growTo_canonical hs).of_eq heq
              exact ht4
          · exact hs

theorem execGrowGrant_canonical {c : Nat} (hs : s.canonical) : Kept (execGrowGrant c s) := by
  unfold execGrowGrant
  split
  · exact hs
  · split
    · exact hs
    · split
      · exact hs
      · split
        · next t3 heq =>
            have ht3 : t3.canonical := (growTo_canonical hs).of_eq heq
            exact resumePast_canonical ht3
        · exact hs

theorem mmaEnter_canonical {c : Ctx} {q : Clause} {f : LaneForm} {m : LaneMask} {p : List Byte} (hs : s.canonical) :
    KeptLAct (mmaEnter s c q f m p) := by
  unfold mmaEnter
  extract_lets -underBinder a b k n regs scales
  split
  · exact hs
  · exact hs
  · extract_lets -underBinder src
    split
    · exact hs
    · split
      · exact hs
      · extract_lets -underBinder dead s1 c1 live per rowScales tile ver
        have hs1 : s1.canonical := killForUe_canonical hs
        split
        · extract_lets -underBinder os op ops c3 s2
          have hs2 : s2.canonical := hs1
          split
          · exact retireOps_canonical hs2
          · exact hs2

theorem execMma_canonical {f : LaneForm} (hs : s.canonical) : Kept (execMma f s) := by
  unfold execMma
  refine runLane_canonical (fun s c q m hs => ?_) hs
  · split
    · exact hs
    · extract_lets -underBinder n last slots
      split
      · exact hs
      · split
        · exact hs
        · split
          · exact hs
          · split
            · exact hs
            · exact mmaEnter_canonical hs

theorem accEnter_canonical {c : Ctx} {q : Clause} {spec : LaneSpec} {first reg : Nat} {m : LaneMask} (hs : s.canonical) :
    KeptLAct (accEnter s c q spec first reg m) := by
  unfold accEnter
  extract_lets -underBinder f
  split
  · exact hs
  · split
    · exact hs
    · split
      · extract_lets -underBinder os ops s1
        have hs1 : s1.canonical := hs
        split
        · exact hs1
        · exact hs1

theorem execAccrd_canonical {f : LaneForm} (hs : s.canonical) : Kept (execAccrd f s) := by
  unfold execAccrd
  exact runLane_canonical (fun _ _ _ _ hs => accEnter_canonical hs) hs

theorem execAccwr_canonical {f : LaneForm} (hs : s.canonical) : Kept (execAccwr f s) := by
  unfold execAccwr
  exact runLane_canonical (fun _ _ _ _ hs => accEnter_canonical hs) hs

theorem execAccz_canonical {f : LaneForm} (hs : s.canonical) : Kept (execAccz f s) := by
  unfold execAccz
  refine runLane_canonical (fun s c q m hs => ?_) hs
  extract_lets n
  split
  · exact hs
  · split
    · exact hs
    · split
      · exact hs
      · split
        split
        · exact hs
        · exact hs

theorem writeGranule_canonical {k : Nat} {op : MatOp} {g : Nat} {ws : List Word} (hs : s.canonical) :
    (writeGranule s k op g ws).canonical :=
  setTag_canonical _ _ _ (writeBytes_canonical _ _ _ hs)

theorem writeTile_canonical {k : Nat} {op : MatOp} {f : Nat → Nat → Word} (hs : s.canonical) : (writeTile s k op f).canonical :=
  foldl_canonical (fun _ _ hs => (writeGranule_canonical hs)) hs

theorem execWeightDelivery_canonical {k i : Nat} (hs : s.canonical) : Kept (execWeightDelivery k i s) := by
  unfold execWeightDelivery
  extract_lets -underBinder c needs
  split
  · exact hs
  · split
    · exact hs
    · exact hs

theorem endMatrix_canonical {k id parent : Nat} (hs : s.canonical) : (endMatrix s k id parent).canonical := by
  unfold endMatrix
  split
  · exact hs
  · extract_lets -underBinder s1
    have hs1 : s1.canonical := by
      unfold s1
      split
      · exact hs
      · exact hs
    split
    · exact hs1
    · split
      · exact retireOps_canonical hs1
      · exact retireOps_canonical hs1

theorem matrixFault_canonical {k : Nat} {op : MatOp} {code : Nat} {lane : Option Nat} {addr : Word} (hs : s.canonical) :
    (matrixFault s k op code lane addr).canonical := by
  unfold matrixFault
  extract_lets -underBinder c s1
  have hs1 : s1.canonical := hs
  split
  · exact hs1
  · exact ite_canonical hs1 (takeFault_canonical hs1)

theorem startRead_canonical {k : Nat} {op : MatOp} (hs : s.canonical) : (startRead s k op).canonical := by
  unfold startRead
  extract_lets -underBinder stale
  split
  · exact matrixFault_canonical hs
  · exact killForUe_canonical hs

theorem execOctetStart_canonical {k i : Nat} (hs : s.canonical) : Kept (execOctetStart k i s) := by
  unfold execOctetStart
  extract_lets -underBinder q
  split
  · exact hs
  · extract_lets -underBinder older
    split
    · exact hs
    · split
      · split
        · exact matrixFault_canonical hs
        · exact hs
      · split
        · exact startRead_canonical hs
        · exact hs

theorem parityRecord_canonical {k : Nat} {op : MatOp} (hs : s.canonical) : (parityRecord s k op).canonical := by
  unfold parityRecord
  extract_lets -underBinder w7
  split
  · exact ctxError_canonical hs
  · exact pushError_canonical hs

theorem setTile_canonical {k t : Nat} {x : Tile} (hs : s.canonical) : (setTile s k t x).canonical := hs

theorem finishMma_canonical {k : Nat} {op : MatOp} (hs : s.canonical) : (finishMma s k op).canonical := by
  unfold finishMma
  extract_lets -underBinder t next
  split
  · exact hs
  · split
    · exact parityRecord_canonical (killForUe_canonical hs)
    · exact ite_canonical (setTile_canonical (writeTile_canonical hs)) (setTile_canonical (writeTile_canonical hs))

theorem finishRead_canonical {k : Nat} {op : MatOp} (hs : s.canonical) : (finishRead s k op).canonical := by
  unfold finishRead
  split
  · exact hs
  · exact foldl_canonical (fun _ _ hs => (landWords_canonical hs)) hs

theorem clearPend_canonical {op : MatOp} (hs : s.canonical) : (clearPend s op).canonical := modCtx_canonical _ _ _ hs

theorem finishWrite_canonical {k : Nat} {op : MatOp} (hs : s.canonical) : (finishWrite s k op).canonical :=
  ite_canonical hs (foldl_canonical (fun _ _ hs => (writeGranule_canonical hs)) hs)

theorem execOctetComplete_canonical {k i : Nat} (hs : s.canonical) : Kept (execOctetComplete k i s) := by
  unfold execOctetComplete
  extract_lets -underBinder q
  split
  · exact hs
  · extract_lets -underBinder holds
    split
    · exact hs
    · next s1 _ =>
        have hs1 : s1.canonical := by
          unfold s1
          split
          · exact finishMma_canonical hs
          · exact ite_canonical (clearPend_canonical (finishRead_canonical hs)) (finishWrite_canonical hs)
        exact endMatrix_canonical hs1

theorem execAcczPerform_canonical {k i : Nat} (hs : s.canonical) : Kept (execAcczPerform k i s) := by
  unfold execAcczPerform
  extract_lets -underBinder q
  split
  · exact hs
  · split
    · exact hs
    · exact endMatrix_canonical (ite_canonical (setTile_canonical (writeTile_canonical hs)) hs)

end Sys2Proof.Proofs.Memories

end

section
/-! PROOFS. Every step keeps memory and tags in canonical form (O56): tasks, homes and the fabric. -/

open Sys2Proof Sys2Proof.Machine

namespace Sys2Proof.Proofs.Memories

variable {s : State}

theorem writeFrames_canonical {l : List (Nat × List Word)} (hs : s.canonical) : (writeFrames s l).canonical := by
  induction l generalizing s with
  | nil => exact hs
  | cons x l ih => exact ih (writeWords_canonical _ _ _ hs)

theorem spillFrames_canonical {l : Launch} {k : Nat} (hs : s.canonical) : KeptOption State.canonical (spillFrames s l k) := by
  unfold spillFrames
  extract_lets -underBinder c
  split
  · trivial
  · split
    · trivial
    · exact writeFrames_canonical hs

theorem KeptOption.map {α β : Type} {P : α → Prop} {Q : β → Prop} {o : Option α} {f : α → β} (h : KeptOption P o)
    (hf : ∀ x, P x → Q (f x)) :
    KeptOption Q (o.map f) := by
  cases o with
  | none => trivial
  | some x => exact hf x h

theorem pushFrame_canonical {launch k : Nat} {f : List Word} (hs : s.canonical) :
    KeptOption State.canonical (pushFrame s launch k f) := by
  unfold pushFrame
  extract_lets -underBinder c put
  split
  · trivial
  · split
    · exact KeptOption.map (keptOption_bind fun _ => spillFrames_canonical hs) (fun _ h => h)
    · exact hs

theorem reloadFrames_canonical {l : Launch} {k : Nat} (hs : s.canonical) : KeptOption State.canonical (reloadFrames s l k) := by
  unfold reloadFrames
  extract_lets -underBinder c n
  split
  · trivial
  · split
    · trivial
    · exact hs

theorem addTask_canonical {launch : Nat} {f : Nat → Nat} (hs : s.canonical) : (addTask s launch f).canonical := by
  unfold addTask
  split
  · exact hs
  · exact hs

theorem joinAfter_canonical {c : Ctx} {addr : Nat} {v st : Word} {cont : List Word} {fire : State → State} (hs : s.canonical)
    (hfire : ∀ s, s.canonical → (fire s).canonical) : (joinAfter s c addr v st cont fire).1.canonical := by
  unfold joinAfter
  split
  · exact ctxError_canonical hs
  · split
    · exact hs
    · split
      · exact addTask_canonical (hfire _ hs)
      · exact hfire _ hs

theorem fireAt_canonical {c : Ctx} {asid mg : BitVec 16} {k : Nat} {st : Word} (hs : s.canonical) :
    (fireAt s c asid mg k st).canonical :=
  l1Update_canonical (writeWord_canonical _ _ _ hs)

/-- The state that waits for a decrement is in canonical form. -/
def KeptHalt : JoinHalt → Prop
  | .wait s => s.canonical
  | _ => True

theorem joinDecrement_canonical {c : Ctx} {addr : Nat} (hs : s.canonical) :
    KeptExcept KeptHalt (fun p => p.1.canonical) (joinDecrement s c addr) := by
  unfold joinDecrement
  extract_lets -underBinder asid
  split
  · split
    · next w put heq =>
        have hp := (atHome_canonical hs).of_eq heq
        exact joinAfter_canonical (hp _) (fun _ hs => fireAt_canonical hs)
    · next s1 heq => exact (atHome_canonical hs).of_eq heq
    · trivial
  · split
    · next s1 heq => exact (scalarPeer_canonical hs).of_eq heq
    · next bs s1 heq => exact joinAfter_canonical ((scalarPeer_canonical hs).of_eq heq) (fun _ hs => hs)
  · trivial

theorem joinStop_canonical {c : Ctx} {addr : Nat} {x : Xlat} (hs : s.canonical) : KeptAct (joinStop s c addr x) := by
  unfold joinStop
  extract_lets -underBinder asid
  split
  · exact hs
  · trivial
  · split
    · exact hs
    · exact hs

theorem waitOwed_canonical {c : Ctx} {recs : List (List Word)} (hs : s.canonical) : (waitOwed s c recs).canonical :=
  ite_canonical (fqBatch_canonical hs) (fqJoin_canonical hs)

theorem pageWait_canonical {c : Ctx} {asid : BitVec 16} {va : Nat} (hs : s.canonical) : (pageWait s c asid va).canonical := by
  unfold pageWait
  extract_lets -underBinder pc
  split
  · exact ite_canonical hs hs
  · extract_lets recs c1
    split
    · split
      next b s1 heq =>
        have hs1 : s1.canonical := (fqBatch_canonical hs).of_snd heq
        exact hs1
    · exact fqJoin_canonical hs

theorem spawnPush_canonical {c : Ctx} {f : List Word} (hs : s.canonical) : KeptAct (spawnPush s c f) := by
  unfold spawnPush
  split
  · next t0 heq =>
      have ht0 : t0.canonical := (releaseSteps_canonical hs).of_fst heq
      exact ht0
  · next t0 heq =>
      have ht0 : t0.canonical := (releaseSteps_canonical hs).of_fst heq
      split
      · exact ht0
      · next t1 heq =>
          have ht1 : t1.canonical := (pushFrame_canonical ht0).of_eq heq
          exact addTask_canonical ht1

theorem spawnPeer_canonical {c : Ctx} {d : BitVec 12} {a : Nat} {asid mg : BitVec 16} (hs : s.canonical) :
    KeptAct (spawnPeer s c d a asid mg) := by
  unfold spawnPeer
  extract_lets -underBinder line pc
  split
  · split
    · exact hs
    · exact hs
  · extract_lets -underBinder s1
    have hs1 : s1.canonical := hs
    split
    · exact hs
    · split
      · exact modCtx_canonical _ _ _ hs1
      · exact hs1
    · extract_lets -underBinder w
      split
      · exact hs1
      · exact hs1

theorem execSpawn_canonical {sp : Option Word} {d : Reg} (hs : s.canonical) : Kept (execSpawn sp d s) := by
  unfold execSpawn
  refine runCtrl_canonical (fun s c hs => ?_) hs
  · extract_lets -underBinder f0 f asid
    split
    · exact spawnPush_canonical hs
    · split
      · exact hs
      · split
        · exact hs
        · split
          · exact spawnPush_canonical hs
          · split
            · exact hs
            · split
              · split
                · next s1 heq => exact (atHome_canonical hs).of_eq heq
                · exact hs
                · next w put heq =>
                  split
                  · exact hs
                  · exact modCtx_canonical _ _ _ ((atHome_canonical hs).of_eq heq _)
              · exact spawnPeer_canonical hs
              · exact joinStop_canonical hs

theorem pushHeld_canonical {c : Ctx} (hs : s.canonical) : KeptOption State.canonical (pushHeld s c) := by
  unfold pushHeld
  split
  · exact hs
  · exact (pushFrame_canonical hs).map (fun _ h => modCtx_canonical _ _ _ h)

theorem releaseOnce_canonical {c d : Ctx} (hs : s.canonical) :
    ((if scalarSent s c then (s, true) else releaseSteps s d 4) : State × Bool).1.canonical := by
  split
  · exact hs
  · exact releaseSteps_canonical hs

theorem joincDecrement_canonical {c : Ctx} {addr : Nat} (hs : s.canonical) : KeptAct (joincDecrement s c addr) := by
  unfold joincDecrement
  extract_lets -underBinder asid
  split
  · exact waitOwed_canonical hs
  · split
    · exact hs
    · split
      · next s1 heq => exact (releaseOnce_canonical hs).of_fst heq
      · next s1 heq =>
          have hs1 : s1.canonical := (releaseOnce_canonical hs).of_fst heq
          split
          · next s2 heq2 => exact (joinDecrement_canonical hs1).of_eq heq2
          · exact hs1
          · trivial
          · exact pageWait_canonical hs1
          · next s2 push heq2 =>
              have hs2 : s2.canonical := (joinDecrement_canonical hs1).of_eq heq2
              exact modCtx_canonical _ _ _ hs2

theorem execJoinc_canonical {sp : Option Word} {d a b : Reg} {lit : Word} (hs : s.canonical) : Kept (execJoinc sp d a b lit s) := by
  unfold execJoinc
  refine runCtrl_canonical (fun s c hs => ?_) hs
  · extract_lets -underBinder f0 entry addr asid linked cont write
    split
    · split
      · exact hs
      · next t2 heq =>
          have ht2 : t2.canonical := (pushHeld_canonical hs).of_eq heq
          exact ht2
    · split
      · exact joincDecrement_canonical hs
      · split
        · exact hs
        · split
          · exact hs
          · split
            · exact modCtx_canonical _ _ _ hs
            · split
              · next t6 heq =>
                  have ht6 : t6.canonical := (scalarPeer_canonical hs).of_eq heq
                  exact ht6
              · next _ t6 heq =>
                  have ht6 : t6.canonical := (scalarPeer_canonical hs).of_eq heq
                  exact modCtx_canonical _ _ _ ht6
            · exact joinStop_canonical hs

theorem settleActive_canonical (hs : s.canonical) : (settleActive s).canonical := ite_canonical hs hs

theorem startTask_canonical {k launch : Nat} {f : List Word} (hs : s.canonical) :
    KeptOption State.canonical (startTask s k launch f) := by
  unfold startTask
  split
  · extract_lets -underBinder c0 v n t
    split
    · split
      · split
        · next _ t3 heq =>
            have ht3 : t3.canonical := hs.of_snd heq
            split
            · split
              · split
                · trivial
                · exact rowsTaken_canonical ht3
      · trivial
    · trivial
  · trivial

theorem execOwnerPop_canonical {k : Nat} (hs : s.canonical) : Kept (execOwnerPop k s) := by
  unfold execOwnerPop
  extract_lets -underBinder c
  split
  · exact hs
  · split
    · exact hs
    · extract_lets -underBinder s1
      have hs1 : KeptOption State.canonical s1 := by
        unfold s1
        split
        · exact reloadFrames_canonical hs
        · exact hs
      clear_value s1
      split
      · exact hs
      · extract_lets -underBinder c1
        split
        · exact hs
        · split
          · exact hs1
          · exact hs1

theorem stealFrom_canonical {l : Launch} {k v : Nat} {f : List Word} {t : State} (hs : s.canonical)
    (h : stealFrom s l k v = .frame f t) : t.canonical := by
  unfold stealFrom at h
  extract_lets c at h
  split at h
  · cases h
  · split at h
    · split at h
      · split at h
        · cases h
        · cases h; exact hs
      · cases h
    · split at h
      · cases h; exact hs
      · cases h

theorem stealPass_canonical {l : Launch} {k : Nat} {vs : List Nat} (hs : s.canonical) :
    KeptOption State.canonical (stealPass s l k vs) := by
  induction vs with
  | nil => exact hs
  | cons v vs ih =>
    unfold stealPass
    split
    · next f s1 heq =>
        have hs1 : s1.canonical := stealFrom_canonical hs heq
        exact hs1
    · trivial
    · exact ih

theorem steal_canonical {k : Nat} (hs : s.canonical) : Kept (steal k s) := by
  unfold steal
  split
  · exact hs
  · exact (stealPass_canonical hs).getD hs

theorem execSteal_canonical {k : Nat} (hs : s.canonical) : Kept (execSteal k s) := by
  unfold execSteal
  split
  · exact steal_canonical hs
  · exact hs

theorem execStealRetry_canonical {k : Nat} (hs : s.canonical) : Kept (execStealRetry k s) := by
  unfold execStealRetry
  split
  · exact hs
  · split
    · exact hs
    · split
      · exact steal_canonical hs
      · exact hs

theorem taskStall_canonical {k : Nat} {f : List Word} (hs : s.canonical) : (taskStall s k f).canonical := ite_canonical hs hs

theorem execTaskStart_canonical {k : Nat} (hs : s.canonical) : Kept (execTaskStart k s) := by
  unfold execTaskStart
  extract_lets -underBinder c
  split
  · exact hs
  · split
    · next l _ _ _ => exact KeptOption.getD (P := State.canonical) (startTask_canonical hs) (taskStall_canonical hs)
    · next l _ _ _ => exact KeptOption.getD (P := State.canonical) (startTask_canonical hs) (taskStall_canonical hs)
    · exact hs

theorem afterHome_canonical {w : HomeWrite} (hs : s.canonical) : (afterHome s w).canonical := by
  unfold afterHome
  extract_lets -underBinder counted
  have hcounted : counted.canonical := by
    unfold counted
    split
    · split
      · exact hs
      · exact elim_canonical hs (fun _ => arrivalUpdate_canonical hs)
    · exact hs
  exact settleAll_canonical hcounted

theorem execHomeWrite_canonical {i : Nat} (hs : s.canonical) : Kept (execHomeWrite i s) := by
  unfold execHomeWrite
  split
  · exact hs
  · split
    · exact hs
    · split
      · exact afterHome_canonical (homePerform_canonical hs)
      · exact hs

theorem execL1WriteBack_canonical {k line : Nat} {bad : Bool} (hs : s.canonical) : Kept (execL1WriteBack k line bad s) := by
  unfold execL1WriteBack
  split
  · exact hs
  · split
    · exact hs
    · exact writeBackLine_canonical hs

theorem clearTags_canonical {k n : Nat} (hs : s.canonical) : (clearTags s k n).canonical := by
  induction n generalizing s k with
  | zero => exact hs
  | succ n ih => exact ih (setTag_canonical _ _ _ hs)

theorem execTagRewrite_canonical {k row : Nat} (hs : s.canonical) : Kept (execTagRewrite k row s) := by
  unfold execTagRewrite
  extract_lets -underBinder c
  split
  · exact clearTags_canonical hs
  · exact hs

theorem skimTags_canonical {g : BitVec 12} {gen : Nat → Option (BitVec 12)} (hs : s.canonical) : (skimTags s g gen).canonical := by
  exact ⟨hs.1, ExecutionModel.sparseWf_filter _ _ hs.2 _⟩

theorem execSkim_canonical {g : Nat} (hs : s.canonical) : Kept (execSkim g s) := by
  unfold execSkim
  split
  · exact hs
  · split
    · extract_lets -underBinder c
      split
      · exact hs
      · exact skimTags_canonical hs
    · extract_lets -underBinder c
      split
      · exact hs
      · exact skimTags_canonical hs

theorem renewTable_canonical {k : Nat} {run : Run} {asid old new : BitVec 16} (hs : s.canonical) :
    (renewTable s k run asid old new).canonical :=
  foldl_canonical (fun _ _ hs => (ite_canonical (writeWord_canonical _ _ _ hs) hs)) hs

theorem renewTables_canonical {asid old new : BitVec 16} (hs : s.canonical) : (renewTables s asid old new).canonical :=
  foldl_canonical (fun _ _ hs => (foldl_canonical (fun _ _ hs => (renewTable_canonical hs)) hs)) hs

theorem cancelRegions_canonical {asid : BitVec 16} (hs : s.canonical) : (cancelRegions s asid).canonical :=
  foldl_canonical (fun _ _ hs => (cancelRegion_canonical hs)) hs

theorem writeSpace_canonical {asid : BitVec 16} {table : Nat} {gen : BitVec 16} (hs : s.canonical) :
    (writeSpace s asid table gen).canonical :=
  writeWords_canonical _ _ _ hs

theorem placeNode_canonical {n : Node} {i : Nat} {ws : List Word} (hs : s.canonical) : (placeNode s n i ws).canonical := by
  unfold placeNode
  split
  · exact hs
  · exact hs

theorem postNode_canonical {n : Node} {i : Nat} {ws : List Word} (hs : s.canonical) : (postNode s n i ws).canonical :=
  ite_canonical hs (placeNode_canonical hs)

theorem postOwed_canonical {asid : BitVec 16} (hs : s.canonical) : (postOwed s asid).canonical :=
  foldl_canonical (fun _ _ hs => (foldl_canonical (fun _ _ hs => (placeNode_canonical hs)) hs)) hs

theorem finishChange_canonical {asid : BitVec 16} {table : Nat} (hs : s.canonical) : (finishChange s asid table).canonical := by
  unfold finishChange
  extract_lets old new s1 s2 s3 s4
  have hs2 : s2.canonical := renewTables_canonical (cancelRegions_canonical (writeSpace_canonical hs))
  clear_value s2
  have hs4 : s4.canonical := hs2
  clear_value s4
  exact postOwed_canonical hs4

theorem changeSpace_canonical {asid : BitVec 16} {table : Nat} {change : State → State} (hs : s.canonical)
    (hchange : ∀ s, s.canonical → (change s).canonical) : (changeSpace s asid table change).canonical := by
  unfold changeSpace
  split
  · exact hs
  · split
    · exact hs
    · split
      · exact hs
      · split
        · exact finishChange_canonical (hchange _ hs)
        · exact foldl_canonical (fun _ _ hs => (writeBackLine_canonical hs)) hs

theorem writeEntries_canonical {l : List (Nat × DWord)} (hs : s.canonical) : (writeEntries s l).canonical := by
  induction l generalizing s with
  | nil => exact hs
  | cons x l ih => exact ih (ite_canonical (writeBytes_canonical _ _ _ hs) hs)

theorem drawPage_canonical {dst n : Nat} (hs : s.canonical) : (drawPage s dst n).canonical := by
  induction n generalizing s dst with
  | zero => exact hs
  | succ n ih =>
    unfold drawPage
    exact ih (writeWord_canonical _ _ _ hs)

theorem fetchPage_canonical {dst : Nat} {x : Place} (hs : s.canonical) : (fetchPage s dst x).canonical := by
  unfold fetchPage
  split
  · exact copyGranules_canonical hs
  · exact drawPage_canonical hs

theorem movePages_canonical {frame : Nat} {replica : Bool} {l : List (Nat × Nat × DWord × Place)} (hs : s.canonical) :
    (movePages s frame replica l).canonical := by
  induction l generalizing s with
  | nil => exact hs
  | cons x l ih => exact ih (writeBytes_canonical _ _ _ (fetchPage_canonical hs))

theorem splitLeaf_canonical {asid : BitVec 16} {va table : Nat} (hs : s.canonical) : (splitLeaf s asid va table).canonical := by
  unfold splitLeaf
  split
  · exact hs
  · exact writeBytes_canonical _ _ _ (writeBytes_canonical _ _ _ hs)

theorem kept_ite {c : Prop} [Decidable c] {a b : Host.Outcome State Fault Refusal} (ha : Kept a) (hb : Kept b) :
    Kept (if c then a else b) := by
  split
  · exact ha
  · exact hb

theorem execRegionMigrate_canonical {asid region frame free : Nat} {full : Bool} (hs : s.canonical) :
    Kept (execRegionMigrate asid region frame free full s) := by
  unfold execRegionMigrate
  extract_lets -underBinder a va leaf frames
  split
  · exact hs
  · next r _ =>
    split
    next n wrote _ =>
      extract_lets -underBinder room rep
      refine kept_ite hs (kept_ite (changeSpace_canonical hs fun s hs => ?_) hs)
      have hs1 : (splitLeaf s a va (frame + 32)).canonical := splitLeaf_canonical hs
      exact movePages_canonical hs1

theorem execCacheShareChange_canonical {v share : Nat} (hs : s.canonical) : Kept (execCacheShareChange v share s) := by
  unfold execCacheShareChange
  extract_lets -underBinder x top
  split
  · exact hs
  · exact ⟨hs.1, ExecutionModel.sparseWf_filter _ _ hs.2 _⟩

theorem directWrite_canonical {k : Nat} {bs : List Byte} (hs : s.canonical) : (directWrite s k bs).canonical :=
  writeBytes_canonical _ _ _ hs

theorem touchLines_canonical {k n : Nat} {dirty : Bool} (hs : s.canonical) : (touchLines s k n dirty).canonical :=
  foldl_canonical (fun _ _ hs => (ite_canonical (cacheTouch_canonical hs) hs)) hs

theorem execHostWrite_canonical {addr : Nat} {d : List Byte} (hs : s.canonical) : Kept (execHostWrite addr d s) := by
  unfold execHostWrite
  split
  · split
    · exact touchLines_canonical (directWrite_canonical hs)
    · exact hs
  · split
    · exact directWrite_canonical hs
    · exact hs

theorem execHostSnoop_canonical {line : Nat} (hs : s.canonical) : Kept (execHostSnoop line s) := by
  unfold execHostSnoop
  split
  · exact hs
  · exact foldl_canonical (fun _ _ hs => (foldl_canonical (fun _ _ hs => (writeBackLine_canonical hs)) hs)) hs

theorem linkError_canonical {peer : BitVec 12} {code : Nat} {lane : Option Nat} {scope : Nat} {w3 pc : Word} {die : BitVec 1}
    (hs : s.canonical) : (linkError s peer code lane scope w3 pc die).canonical :=
  pushError_canonical hs

theorem portError_canonical {peer : BitVec 12} {code : Nat} (hs : s.canonical) : (portError s peer code).canonical :=
  linkError_canonical hs

theorem requestError_canonical {r : Request} {code : Nat} (hs : s.canonical) : (requestError s r code).canonical := by
  unfold requestError
  split
  · exact linkError_canonical hs
  · exact portError_canonical hs

theorem failRequest_canonical {r : Request} {code : Nat} (hs : s.canonical) : (failRequest s r code).canonical := by
  unfold failRequest
  extract_lets -underBinder s1
  have hs1 : s1.canonical := requestError_canonical hs
  split
  · exact elim_canonical hs1 (fun _ => engineFault_canonical hs1)
  · split
    · exact hs1
    · exact ite_canonical (takeFault_canonical hs1) hs1

theorem refuseRequest_canonical {r : Request} (hs : s.canonical) : (refuseRequest s r).canonical :=
  ite_canonical (requestError_canonical hs) (failRequest_canonical hs)

theorem retryRequest_canonical {r : Request} (hs : s.canonical) : (retryRequest s r).canonical := by
  unfold retryRequest
  extract_lets -underBinder s1
  have hs1 : s1.canonical := requestError_canonical hs
  split
  · exact hs
  · split
    · exact hs1
    · split
      · exact hs1
      · split
        · exact hs1
        · split
          · exact hs1
          · next c1 _ =>
              split
              · exact dropWait_canonical hs1
              · exact dropWait_canonical hs1

theorem answerLine_canonical {r : Request} {bs : List Byte} {time : Nat} (hs : s.canonical) : (answerLine s r bs time).canonical := by
  unfold answerLine
  extract_lets -underBinder line
  split
  · exact hs
  · extract_lets -underBinder fill present
    split
    · exact hs
    · split
      · exact ite_canonical (fillLine_canonical hs) hs
      · exact pinLine_canonical (fillLine_canonical hs)
      · exact ite_canonical (fillLine_canonical hs) hs
      · exact hs
      · exact hs

theorem completeRequest_canonical {r : Request} {d : List Byte} {time : Nat} (hs : s.canonical) :
    (completeRequest s r d time).canonical := by
  unfold completeRequest
  extract_lets -underBinder bs s1
  have hs1 : s1.canonical := answerLine_canonical (countAccess_canonical hs)
  split
  · exact markWritten_canonical (raiseWct_canonical hs1)
  · exact hs1

theorem failWrite_canonical {w : HomeWrite} {peer : Option (BitVec 12)} {code : Nat} (hs : s.canonical) :
    (failWrite s w peer code).canonical := by
  unfold failWrite
  split
  next c op lane place heq =>
    extract_lets -underBinder record s1
    have hrecord (scope : Nat) (w3 pc : Word) (die : BitVec 1) : (record scope w3 pc die).canonical := by
      unfold record
      split
      · exact linkError_canonical hs
      · exact pushError_canonical hs
    have hs1 : s1.canonical := by
      unfold s1
      refine (?_ : State.canonical (dropWrite _ _))
      clear_value record
      split
      · exact hrecord _ _ _ _
      · exact hrecord _ _ _ _
    clear_value s1
    split
    · exact engineFault_canonical hs1
    · exact ite_canonical (takeFault_canonical hs1) hs1
    · exact hs1

theorem retryWrite_canonical {w : HomeWrite} {peer : BitVec 12} (hs : s.canonical) : (retryWrite s w peer).canonical :=
  portError_canonical hs

theorem execRemoteAnswer_canonical {id : Nat} {ans : PeerAnswer} (hs : s.canonical) : Kept (execRemoteAnswer id ans s) := by
  unfold execRemoteAnswer
  split
  · exact hs
  · split
    · split
      · exact hs
      · split
        · exact completeRequest_canonical hs
        · exact retryRequest_canonical hs
        · exact refuseRequest_canonical hs
    · split
      · exact hs
      · split
        · exact afterHome_canonical (markWritten_canonical (raiseWct_canonical hs))
        · exact retryWrite_canonical hs
        · exact failWrite_canonical hs
    · exact hs

theorem execRemoteResolutionNotice_canonical {id : Nat} (hs : s.canonical) : Kept (execRemoteResolutionNotice id s) := by
  unfold execRemoteResolutionNotice
  split
  · split
    · exact hs
    · extract_lets -underBinder held now
      split
      · exact hs
      · exact hs
  · split
    · exact hs
    · exact hs
  · exact hs

theorem execRtimeout_canonical {id : Nat} (hs : s.canonical) : Kept (execRtimeout id s) := by
  unfold execRtimeout
  split
  · exact hs
  · split
    · split
      · exact ite_canonical (requestError_canonical hs) (failRequest_canonical hs)
      · exact hs
    · split
      · exact failWrite_canonical hs
      · exact hs
    · split
      · exact failWrite_canonical hs
      · exact hs
    · exact hs

theorem inboundError_canonical {r : PeerAccess} {code : Nat} (hs : s.canonical) : (inboundError s r code).canonical :=
  portError_canonical hs

theorem inboundPerform_canonical {r : PeerAccess} {k : Nat} (hs : s.canonical) : (inboundPerform s r k).canonical := by
  unfold inboundPerform
  extract_lets -underBinder read
  split
  · extract_lets -underBinder st v s1 s2
    have hs1 : s1.canonical := writeWord_canonical _ _ _ hs
    have hs2 : s2.canonical := ite_canonical (writeWord_canonical _ _ _ hs1) hs1
    exact ite_canonical (inboundError_canonical hs) (markWritten_canonical (touchLines_canonical hs2))
  · exact markWritten_canonical (touchLines_canonical (directWrite_canonical hs))
  · exact ite_canonical (inboundError_canonical hs) (touchLines_canonical hs)

theorem inboundPage_canonical {r : PeerAccess} (hs : s.canonical) : (inboundPage s r).canonical := by
  unfold inboundPage
  extract_lets -underBinder rest
  split
  · split
    next b s1 heq =>
      have hs1 : s1.canonical := (fqBatch_canonical hs).of_snd heq
      exact inboundError_canonical hs1
  · exact fqJoin_canonical hs

theorem execInboundPeerAccess_canonical {r : PeerAccess} (hs : s.canonical) : Kept (execInboundPeerAccess r s) := by
  unfold execInboundPeerAccess
  extract_lets -underBinder va gen stale write
  split
  · exact hs
  · split
    · exact inboundError_canonical hs
    · split
      · exact inboundPage_canonical hs
      · split
        · trivial
        · split
          · exact inboundError_canonical hs
          · exact inboundPage_canonical hs
        · split
          · exact inboundError_canonical hs
          · split
            · exact inboundError_canonical hs
            · split
              · exact hs
              · exact inboundPerform_canonical hs

theorem execFlitReplay_canonical {p count : Nat} (hs : s.canonical) : Kept (execFlitReplay p count s) := by
  unfold execFlitReplay
  extract_lets -underBinder pause
  split
  · exact hs
  · exact hs

theorem laneError_canonical {p : Nat} {failed : BitVec 8} (hs : s.canonical) : (laneError s p failed).canonical :=
  ite_canonical hs (pushError_canonical hs)

theorem execRetrain_canonical {p : Nat} {failed : BitVec 8} {peer : BitVec 12} (hs : s.canonical) :
    Kept (execRetrain p failed peer s) := by
  unfold execRetrain
  split
  · exact hs
  · split
    · exact ite_canonical hs (laneError_canonical hs)
    · exact laneError_canonical hs

theorem execPcieRecovery_canonical {ok : Bool} (hs : s.canonical) : Kept (execPcieRecovery ok s) := by
  unfold execPcieRecovery
  split
  · exact hs
  · exact pushError_canonical hs

theorem execFaultBatchServed_canonical (hs : s.canonical) : Kept (execFaultBatchServed s) := by
  unfold execFaultBatchServed
  split
  · exact hs
  · split
    · exact hs
    · exact hs

theorem execPageReplay_canonical {c : Nat} (hs : s.canonical) : Kept (execPageReplay c s) := by
  unfold execPageReplay
  split
  · exact hs
  · split
    · exact hs
    · exact hs

theorem execAtomicReissue_canonical {c : Nat} (hs : s.canonical) : Kept (execAtomicReissue c s) := by
  unfold execAtomicReissue
  split
  · exact hs
  · extract_lets -underBinder due
    split
    · exact hs
    · exact hs

theorem execFetchRetry_canonical {c : Nat} (hs : s.canonical) : Kept (execFetchRetry c s) := by
  unfold execFetchRetry
  split
  · exact hs
  · split
    · exact hs
    · exact hs

end Sys2Proof.Proofs.Memories

end

section
/-! PROOFS. Every step keeps memory and tags in canonical form (O56): regions, placement, saves and restores. -/

open Sys2Proof Sys2Proof.Machine

namespace Sys2Proof.Proofs.Memories

variable {s : State}

theorem acceptNode_canonical {asid : BitVec 16} {addr : Nat} {ws : List Word} (hs : s.canonical) :
    (acceptNode s asid addr ws).canonical := by
  unfold acceptNode
  split
  · exact hs
  · exact hs

theorem deviceWrite_canonical {asid : BitVec 16} {va : Nat} {ws : List Word} (hs : s.canonical) :
    KeptOption State.canonical (deviceWrite s asid va ws) := by
  unfold deviceWrite
  split
  · trivial
  · split
    · split
      · exact markWritten_canonical (cacheTouch_canonical (writeWords_canonical _ _ _ hs))
      · trivial
    · exact hs
    · trivial

theorem chargeNode_canonical {n : Node} (hs : s.canonical) : (chargeNode s n).canonical := ite_canonical hs (postNode_canonical hs)

theorem recharge_canonical (hs : s.canonical) : (recharge s).canonical := foldl_canonical (fun _ _ hs => (chargeNode_canonical hs)) hs

theorem freeCoreRuns_canonical {p : Run → Bool} {k : Nat} (hs : s.canonical) : (freeCoreRuns p s k).canonical :=
  foldl_canonical (fun _ _ hs => (clearTags_canonical hs)) hs

theorem freeRuns_canonical {p : Run → Bool} (hs : s.canonical) : (freeRuns p s).canonical :=
  foldl_canonical (fun _ _ hs => (freeCoreRuns_canonical hs)) hs

theorem freeVaultRuns_canonical {l v : Nat} (hs : s.canonical) : (freeVaultRuns l s v).canonical :=
  foldl_canonical (fun _ _ hs => (clearTags_canonical hs)) hs

theorem freeLaunch_canonical {l : Nat} (hs : s.canonical) : (freeLaunch s l).canonical :=
  foldl_canonical (fun _ _ hs => (freeVaultRuns_canonical hs)) (freeRuns_canonical hs)

theorem unpin_canonical {stays : Nat → Bool} {c : Ctx} (hs : s.canonical) : (unpin s stays c).canonical := ite_canonical hs hs

theorem dropCtx_canonical {c : Ctx} (hs : s.canonical) : (dropCtx s c).canonical := by
  unfold dropCtx
  extract_lets -underBinder left s1
  have hs1 : s1.canonical := by
    unfold s1
    split
    · exact modCtx_canonical _ _ _ hs
    · exact hs
  exact hs1

theorem KeptOption.bind {α β : Type} {P : α → Prop} {Q : β → Prop} {o : Option α} {f : α → Option β} (h : KeptOption P o)
    (hf : ∀ x, P x → KeptOption Q (f x)) : KeptOption Q (o.bind f) := by
  cases o with
  | none => trivial
  | some x => exact hf x h

theorem keptOption_findSome {α β : Type} {Q : β → Prop} {l : List α} {f : α → Option β} (h : ∀ x, KeptOption Q (f x)) :
    KeptOption Q (l.findSome? f) := by
  induction l with
  | nil => trivial
  | cons x l ih =>
    rw [List.findSome?_cons]
    split
    · next b heq => exact (h x).of_eq heq
    · exact ih

theorem keptOption_ite {α : Type} {P : α → Prop} {c : Prop} [Decidable c] {a b : Option α} (ha : KeptOption P a) (hb : KeptOption P b) :
    KeptOption P (if c then a else b) := by
  split
  · exact ha
  · exact hb

theorem writeCompletion_canonical {l : Launch} {die : BitVec 1} {status code node fault : Nat} (hs : s.canonical) :
    KeptOption State.canonical (writeCompletion s l die status code node fault) := by
  exact (deviceWrite_canonical hs).map (fun _ h => h)

theorem closeLaunch_canonical {l : Launch} (hs : s.canonical) : (closeLaunch s l).canonical := by
  unfold closeLaunch
  split
  · cases heq : writeCompletion s l 0 _ _ _ _ with
    | none => exact hs
    | some s1 =>
      have hs1 : s1.canonical := (writeCompletion_canonical hs).of_eq heq
      exact recharge_canonical (s := dropLaunch s1 l.id) hs1
  · exact hs

theorem counterError_canonical {addr : Nat} {die : BitVec 1} (hs : s.canonical) : (counterError s addr die).canonical :=
  pushError_canonical hs

theorem depAfter_canonical {place : Xlat} {addr : Nat} {v : Word} {die : BitVec 1} (hs : s.canonical) :
    (depAfter s place addr v die).canonical :=
  ite_canonical (ite_canonical hs hs) (ite_canonical (counterError_canonical hs) hs)

theorem depAdd_canonical {g : Ctx} {asid : BitVec 16} {addr : Nat} (hs : s.canonical) :
    KeptReach State.canonical (depAdd s g asid addr) := by
  unfold depAdd
  extract_lets -underBinder place
  clear_value place
  split
  · split
    · exact hs
    · exact depAfter_canonical (markWritten_canonical (cacheTouch_canonical (writeWord_canonical _ _ _ hs)))
  · split
    · next t1 heq =>
        have ht1 : t1.canonical := (scalarPeer_canonical hs).of_eq heq
        exact ht1
    · next _ t1 heq =>
        have ht1 : t1.canonical := (scalarPeer_canonical hs).of_eq heq
        exact depAfter_canonical ht1
  · trivial
  · exact hs

theorem depAddress_canonical {g : Ctx} {l : Launch} {i : Nat} (hs : s.canonical) :
    KeptReach (fun p => p.2.canonical) (depAddress s g l i) := by
  unfold depAddress
  extract_lets -underBinder va
  split
  · split
    · exact hs
    · exact hs
  · split
    · next s1 heq => exact (scalarPeer_canonical hs).of_eq heq
    · next bs s1 heq => exact (scalarPeer_canonical hs).of_eq heq
  · trivial
  · exact hs

theorem depStep_canonical {g : Ctx} {l : Launch} (hs : s.canonical) : (depStep s g l).canonical := by
  unfold depStep
  extract_lets -underBinder phase
  split
  · exact hs
  · split
    · split
      · next _ t2 heq =>
          have ht2 : t2.canonical := (depAddress_canonical hs).of_eq heq
          exact modCtx_canonical _ _ _ ht2
      · next t2 heq =>
          have ht2 : t2.canonical := (depAddress_canonical hs).of_eq heq
          exact ht2
      · exact pageWait_canonical hs
    · split
      · next t2 heq =>
          have ht2 : t2.canonical := (depAdd_canonical hs).of_eq heq
          exact modCtx_canonical _ _ _ ht2
      · next t2 heq =>
          have ht2 : t2.canonical := (depAdd_canonical hs).of_eq heq
          exact ht2
      · exact pageWait_canonical hs

theorem retireGrid_canonical {g : Ctx} {l : Launch} (hs : s.canonical) : (retireGrid s g l).canonical := by
  unfold retireGrid
  split
  · exact waitOwed_canonical hs
  · split
    · split
      · next t2 heq =>
          have ht2 : t2.canonical := (writeCompletion_canonical hs).of_eq heq
          exact modCtx_canonical _ _ _ ht2
      · exact ite_canonical (pageWait_canonical hs) hs
    · split
      · exact depStep_canonical hs
      · exact recharge_canonical (dropCtx_canonical (freeLaunch_canonical hs))

theorem endBlock_canonical {b : Ctx} (hs : s.canonical) : (endBlock s b).canonical := by
  unfold endBlock
  extract_lets -underBinder s1 s2
  have hs1 : s1.canonical := dropCtx_canonical (freeRuns_canonical hs)
  have hs2 : s2.canonical := by
    unfold s2
    split
    · exact hs1
    · exact hs1
  exact recharge_canonical hs2

theorem endGroup_canonical {c : Ctx} (hs : s.canonical) : (endGroup s c).canonical :=
  recharge_canonical (dropCtx_canonical (freeRuns_canonical (unpin_canonical hs)))

theorem joinEnd_canonical {c : Ctx} (hs : s.canonical) : Kept (joinEnd s c) := by
  unfold joinEnd
  extract_lets -underBinder asid
  split
  · exact waitOwed_canonical hs
  · split
    · exact hs
    · split
      · trivial
      · exact pageWait_canonical hs
      · split
        · exact takeFault_canonical hs
        · split
          · exact scalarUe_canonical hs
          · next t4 heq =>
              have ht4 : t4.canonical := (joinDecrement_canonical hs).of_eq heq
              exact ht4
          · exact hs
          · next t4 _ heq =>
              have ht4 : t4.canonical := (joinDecrement_canonical hs).of_eq heq
              exact modCtx_canonical _ _ _ ht4

theorem endLanes_canonical {c : Ctx} (hs : s.canonical) : Kept (endLanes s c) := by
  unfold endLanes
  split
  · exact hs
  · split
    · split
      · exact hs
      · next t2 heq =>
          have ht2 : t2.canonical := (pushHeld_canonical hs).of_eq heq
          exact addTask_canonical (endGroup_canonical ht2)
    · split
      · next t2 heq =>
          have ht2 : t2.canonical := (commit_canonical hs).of_fst heq
          exact ht2
      · next s1 heq =>
        have hs1 : s1.canonical := (commit_canonical hs).of_fst heq
        split
        · next s2 heq2 => exact (releaseOnce_canonical hs1).of_fst heq2
        · next s2 heq2 =>
          have hs2 : s2.canonical := (releaseOnce_canonical hs1).of_fst heq2
          extract_lets -underBinder x
          split
          · exact endGroup_canonical hs2
          · split
            · exact modCtx_canonical _ _ _ hs2
            · exact joinEnd_canonical hs2

theorem execContextEnd_canonical {c : Nat} (hs : s.canonical) : Kept (execContextEnd c s) := by
  unfold execContextEnd
  split
  · exact hs
  · split
    · exact hs
    · split
      · exact endLanes_canonical hs
      · split
        · split
          · exact endBlock_canonical hs
          · exact hs
        · split
          · exact dropCtx_canonical hs
          · split
            · split
              · exact hs
              · exact retireGrid_canonical hs
            · exact hs

theorem execGridRetire_canonical {l : Nat} (hs : s.canonical) : Kept (execGridRetire l s) := by
  unfold execGridRetire
  split
  · split
    · exact retireGrid_canonical hs
    · exact hs
  · exact hs

theorem killLaunch_canonical {l : Launch} {code node fault : Nat} (hs : s.canonical) : (killLaunch s l code node fault).canonical := by
  unfold killLaunch
  extract_lets cs mine owns s1 s2 s3
  have hs1 : s1.canonical := foldl_canonical (fun _ _ hs => unpin_canonical hs)
      (foldl_canonical (fun _ _ hs => dropWait_canonical hs) hs)
  clear_value s1
  have hs2 : s2.canonical := hs1
  clear_value s2
  have hs3 : s3.canonical := freeLaunch_canonical (freeRuns_canonical hs2)
  exact ite_canonical hs3 hs3

theorem killNode_canonical {n : Node} {code : BitVec 8} {fault : Nat} (hs : s.canonical) : (killNode s n code fault).canonical :=
  recharge_canonical (postNode_canonical (foldl_canonical (fun _ _ hs => (killLaunch_canonical hs)) hs))

theorem execKill_canonical (hs : s.canonical) : Kept (execKill s) := by
  unfold execKill
  split
  · exact hs
  · split
    · split
      · exact hs
      · split
        · exact hs
        · exact killNode_canonical hs
    · exact foldl_canonical (fun _ _ hs => (closeLaunch_canonical hs)) hs

theorem loadImage_canonical {l : Launch} {k row : Nat} {g : BitVec 12} (hs : s.canonical) : (loadImage s l k row g).canonical :=
  writeTagged_canonical _ _ _ _ hs

theorem placeGrid_canonical {l0 : Launch} {p : Plan} (hs : s.canonical) : (placeGrid s l0 p).canonical := by
  unfold placeGrid
  extract_lets -underBinder l base clusters cores alloc g s1 s2 vruns cix die src grid clusterCtx first blockCtx groupCtx seqs
      groups s3 s4 s5
  have hs1 : s1.canonical := by
    unfold s1
    refine foldl_canonical (fun s x hs => ?_) hs
    exact hs
  have hs2 : s2.canonical := by
    unfold s2
    split
    · exact hs1
    · refine foldl_canonical (fun s x hs => ?_) hs1
      exact hs
  have hs3 : s3.canonical := hs2
  have hs4 : s4.canonical := foldl_canonical (fun _ _ hs => (foldl_canonical (fun _ _ hs => (loadImage_canonical hs)) hs)) hs3
  have hs5 : s5.canonical := by
    unfold s5
    refine foldl_canonical (fun s x hs => ?_) hs4
    exact hs
  clear_value s5
  exact recharge_canonical (s := setLaunch _ _) (foldl_canonical (fun _ _ hs => rowsTaken_canonical hs) hs5)

theorem placeTasks_canonical {l0 : Launch} {ks : List (Nat × Nat)} (hs : s.canonical) : (placeTasks s l0 ks).canonical := by
  unfold placeTasks
  extract_lets -underBinder l base root s1 die grid
  have hs1 : s1.canonical := by
    unfold s1
    refine foldl_canonical (fun s x hs => ?_) hs
    exact rowsTaken_canonical (loadImage_canonical hs)
  clear_value s1
  exact recharge_canonical hs1

theorem execTokenGrant_canonical {l : Nat} (hs : s.canonical) : Kept (execTokenGrant l s) := by
  unfold execTokenGrant
  split
  · exact hs
  · extract_lets -underBinder n
    split
    · exact hs
    · exact hs

theorem execDepNotification_canonical (hs : s.canonical) : Kept (execDepNotification s) := by
  unfold execDepNotification
  split
  · exact hs
  · extract_lets -underBinder s1
    have hs1 : s1.canonical := hs
    split
    · split
      · exact hs1
      · exact hs1
    · exact hs1

theorem execLattolExpiry_canonical {l : Nat} (hs : s.canonical) : Kept (execLattolExpiry l s) := by
  unfold execLattolExpiry
  split
  · exact hs
  · split
    · exact hs
    · exact hs

theorem poisoned_canonical {c : Prop} [Decidable c] {l : List Nat} (hs : s.canonical) :
    (if c then { s with poison := l } else s).canonical := ite_canonical hs hs

theorem loadRun_canonical {key n : Nat} {g : BitVec 12} {r : SavedRun} (hs : s.canonical) : (loadRun s key n g r).canonical := by
  unfold loadRun
  refine foldl_canonical (fun s x hs => ?_) hs
  refine ite_canonical ?_ (setTag_canonical _ _ _ hs)
  exact poisoned_canonical (s := clearPoison _ _) (clearPoison_canonical _ _ (setTag_canonical _ _ _ (writeBytes_canonical _ _ _ hs)))

theorem drawMasks_canonical {n : Nat} (hs : s.canonical) : (drawMasks s n).2.canonical := by
  induction n generalizing s with
  | zero => exact hs
  | succ n ih =>
    have h : (drawFree (drawFree s).2).2.canonical := hs
    exact ih h

theorem compactCtx_canonical {c : Ctx} (hs : s.canonical) : (compactCtx s c).2.canonical := by
  unfold compactCtx
  extract_lets -underBinder x live mode y
  split
  · exact hs
  · exact drawMasks_canonical hs

theorem compacted_canonical {c : Ctx} {full : Bool} (hs : s.canonical) : (if full then (c, s) else compactCtx s c).2.canonical := by
  split
  · exact hs
  · exact compactCtx_canonical hs

theorem saveCtx_canonical {c : Ctx} (hs : s.canonical) : (saveCtx s c).2.canonical := by
  unfold saveCtx
  extract_lets -underBinder none0
  split
  · exact hs
  · split
    · exact compacted_canonical hs
    · exact hs

theorem saveCtxs_canonical {l : List Ctx} (hs : s.canonical) : (saveCtxs s l).2.canonical := by
  induction l generalizing s with
  | nil => exact hs
  | cons c l ih =>
    unfold saveCtxs
    exact ih (saveCtx_canonical hs)

theorem writeBackOwned_canonical {p : Nat → BitVec 12 → Bool} (hs : s.canonical) : (writeBackOwned s p).canonical :=
  foldl_canonical (fun _ _ hs => (foldl_canonical (fun _ _ hs => (writeBackLine_canonical hs)) hs)) hs

theorem vacate_canonical {l : Launch} (hs : s.canonical) : (vacate s l).canonical := freeRuns_canonical hs

theorem preempt_canonical {l : Launch} (hs : s.canonical) : (preempt s l).canonical :=
  recharge_canonical (vacate_canonical (foldl_canonical (fun _ _ hs => (unpin_canonical hs))
      (writeBackOwned_canonical (saveCtxs_canonical hs))))

theorem execPreemption_canonical {l : Nat} (hs : s.canonical) : Kept (execPreemption l s) := by
  unfold execPreemption
  split
  · exact hs
  · extract_lets -underBinder wanted
    split
    · exact preempt_canonical hs
    · exact hs

theorem loadStore_canonical {k : Nat} {x : SavedStore} (hs : s.canonical) : (loadStore s k x).canonical := by
  unfold loadStore
  extract_lets -underBinder s1 s2
  have hs1 : s1.canonical := elim_canonical hs (fun r => loadRun_canonical (loadRun_canonical hs))
  have hs2 : s2.canonical := by
    refine elim_canonical hs1 (fun r => foldl_canonical (fun s i hs => ?_) hs1)
    split
    · exact setTile_canonical (loadRun_canonical hs)
    · exact hs
  refine elim_canonical hs2 (fun r => foldl_canonical (fun s i hs => ?_) hs2)
  split
  · extract_lets s3 c
    have hs3 : s3.canonical := loadRun_canonical hs
    exact hs3
  · exact hs

theorem restoreGroup_canonical {k : Nat} {p : Saved} (hs : s.canonical) : KeptOption State.canonical (restoreGroup s k p) := by
  unfold restoreGroup
  refine keptOption_bind (fun slot => keptOption_map (fun b => ?_))
  exact loadRun_canonical hs

theorem restoreGroups_canonical {f : Nat → Nat} {l : List Saved} (hs : s.canonical) :
    KeptOption State.canonical (restoreGroups f l s) := by
  induction l generalizing s with
  | nil => exact hs
  | cons p l ih => exact (restoreGroup_canonical hs).bind (fun _ h => ih h)

theorem restoreBlock_canonical {l : Launch} {cl : Nat} {b : Saved} {gs : List Saved} {pick : List Nat} (hs : s.canonical) :
    KeptOption State.canonical (restoreBlock s l cl b gs pick) := by
  unfold restoreBlock
  extract_lets -underBinder olds f okAt s1 grants k s2 x
  refine keptOption_ite trivial ?_
  have hs1 : s1.canonical := by
    refine foldl_canonical (fun s x hs => ?_) hs
    extract_lets -underBinder k
    split
    · exact loadStore_canonical hs
    · exact hs
  have hs2 : s2.canonical := hs1
  clear_value s2
  exact keptOption_ite trivial (restoreGroups_canonical hs2)

theorem restoreBlockOn_canonical {l : Launch} {cl : Nat} {parts : List Saved} {b : Saved} (hs : s.canonical) :
    KeptOption State.canonical (restoreBlockOn l cl parts s b) := by
  unfold restoreBlockOn
  exact keptOption_findSome (fun _ => restoreBlock_canonical hs)

theorem restoreBlocks_canonical {l : Launch} {cl : Nat} {parts bs : List Saved} (hs : s.canonical) :
    KeptOption State.canonical (restoreBlocks l cl parts bs s) := by
  induction bs generalizing s with
  | nil => exact hs
  | cons b bs ih => exact (restoreBlockOn_canonical hs).bind (fun _ h => ih h)

theorem restoreCluster_canonical {l : Launch} {parts : List Saved} {c : Saved} (hs : s.canonical) :
    KeptOption State.canonical (restoreCluster l parts s c) := by
  unfold restoreCluster
  refine keptOption_findSome (fun cl => ?_)
  split
  · trivial
  · exact restoreBlocks_canonical hs

theorem restoreClusters_canonical {l : Launch} {parts cs : List Saved} (hs : s.canonical) :
    KeptOption State.canonical (restoreClusters l parts cs s) := by
  induction cs generalizing s with
  | nil => exact hs
  | cons c cs ih => exact (restoreCluster_canonical hs).bind (fun _ h => ih h)

theorem returnLatch_canonical {l : Launch} {f : Nat → Nat} {d : SavedDeque} (hs : s.canonical) :
    KeptOption State.canonical (returnLatch l f s d) := by
  unfold returnLatch
  split
  · extract_lets -underBinder k put c
    split
    · exact (spillFrames_canonical hs).map (fun _ h => h)
    · exact hs
  · exact hs

theorem returnLatches_canonical {l : Launch} {f : Nat → Nat} {ds : List SavedDeque} (hs : s.canonical) :
    KeptOption State.canonical (returnLatches l f ds s) := by
  induction ds generalizing s with
  | nil => exact hs
  | cons d ds ih => exact (returnLatch_canonical hs).bind (fun _ h => ih h)

theorem restoreTasks_canonical {l : Launch} {x : SavedLaunch} (hs : s.canonical) :
    KeptOption (fun p => p.1.canonical) (restoreTasks s l x) := by
  unfold restoreTasks
  refine keptOption_bind (fun ms => ?_)
  extract_lets -underBinder f s1 tasks s2
  have hs1 : s1.canonical := by
    refine foldl_canonical (fun s m hs => ?_) hs
    exact elim_canonical hs (fun r => loadRun_canonical hs)
  have hs2 : s2.canonical := by
    refine foldl_canonical (fun s p hs => ?_) hs1
    extract_lets k
    refine foldl_canonical (fun s st hs => ?_) hs
    exact loadStore_canonical hs
  exact ((restoreGroups_canonical hs2).bind (fun _ h => returnLatches_canonical h)).map (fun _ h => h)

theorem restoreLaunch_canonical {l : Launch} {x : SavedLaunch} (hs : s.canonical) :
    KeptOption State.canonical (restoreLaunch s l x) := by
  unfold restoreLaunch
  extract_lets -underBinder grid clusters placed
  have hplaced : KeptOption (fun p => p.1.canonical) placed := by
    unfold placed
    split
    · exact restoreTasks_canonical hs
    · exact (restoreClusters_canonical hs).map (fun _ h => h)
  clear_value placed
  refine hplaced.bind (fun r hr => ?_)
  extract_lets -underBinder first die gs s1
  refine keptOption_ite trivial ?_
  have hs1 : s1.canonical := foldl_canonical (fun _ _ hs => rowsTaken_canonical hs) (replayCancelled_canonical hr)
  clear_value s1
  exact recharge_canonical hs1

theorem restorable_canonical {l : Launch} (hs : s.canonical) : KeptOption State.canonical (restorable s l) := by
  unfold restorable
  split
  · exact keptOption_bind (fun _ => restoreLaunch_canonical hs)
  · trivial

theorem execPlacement_canonical {l : Nat} (hs : s.canonical) : Kept (execPlacement l s) := by
  unfold execPlacement
  split
  · exact hs
  · split
    · exact hs
    · split
      · exact closeLaunch_canonical hs
      · split
        · exact hs
        · split
          · split
            · exact hs
            · exact hs
          · split
            · exact hs
            · split
              · extract_lets -underBinder ks
                split
                · exact placeTasks_canonical hs
                · exact hs
              · split
                · split
                  · exact placeGrid_canonical hs
                  · exact hs
                · exact hs

theorem execGrowDeadlock_canonical {k : Nat} (hs : s.canonical) : Kept (execGrowDeadlock k s) := by
  unfold execGrowDeadlock
  split
  · exact hs
  · split
    · exact hs
    · exact saveCtx_canonical hs

theorem restoreEvicted_canonical {c : Ctx} {p : Saved} (hs : s.canonical) : KeptOption State.canonical (restoreEvicted s c p) := by
  unfold restoreEvicted
  extract_lets -underBinder k older
  split
  · trivial
  · refine keptOption_map (fun b => ?_)
    extract_lets run s1 s2
    have hs2 : s2.canonical := loadRun_canonical hs
    clear_value s2
    exact rowsTaken_canonical hs2

theorem execRestore_canonical {l : Nat} (hs : s.canonical) : Kept (execRestore l s) := by
  unfold execRestore
  split
  · exact hs
  · split
    · split
      · exact hs
      · exact (restorable_canonical hs).getD hs
    · split
      · split
        · exact (restoreEvicted_canonical hs).getD hs
        · exact hs
      · exact hs
    · exact hs

theorem enterActive_canonical {id : Nat} (hs : s.canonical) : (enterActive s id).canonical := modCtx_canonical _ _ _ hs

theorem leaveActive_canonical {id : Nat} (hs : s.canonical) : (leaveActive s id).canonical := modCtx_canonical _ _ _ hs

theorem execActiveSetSwap_canonical {c : Nat} (hs : s.canonical) : Kept (execActiveSetSwap c s) := by
  unfold execActiveSetSwap
  split
  · exact hs
  · split
    · exact hs
    · split
      · exact hs
      · split
        · exact enterActive_canonical hs
        · split
          · exact enterActive_canonical (leaveActive_canonical hs)
          · exact hs

theorem execAgelimSwap_canonical {c : Nat} (hs : s.canonical) : Kept (execAgelimSwap c s) := by
  unfold execAgelimSwap
  split
  · exact hs
  · extract_lets -underBinder eldest
    split
    · exact hs
    · split
      · exact enterActive_canonical (leaveActive_canonical hs)
      · exact hs

end Sys2Proof.Proofs.Memories

end

section
/-! PROOFS. Every step keeps memory and tags in canonical form (O56): the queues, the power sequences, the instructions together and
    a step. -/

open Sys2Proof Sys2Proof.Machine

namespace Sys2Proof.Proofs.Memories

variable {s : State}

theorem raiseVector_canonical {n : Nat} (hs : s.canonical) : (raiseVector s n).canonical := hs

theorem descWrite_canonical {desc i : Nat} {ws : List Word} (hs : s.canonical) : (descWrite s desc i ws).canonical :=
  writeWords_canonical _ _ _ hs

theorem descStatus_canonical {desc status : Nat} {qid : Option Nat} (hs : s.canonical) : (descStatus s desc status qid).canonical :=
  descWrite_canonical hs

theorem queueError_canonical {q : HostQueue} {cause : BitVec 8} (hs : s.canonical) : (queueError s q cause).canonical :=
  descWrite_canonical (descStatus_canonical hs)

theorem execDoorbell_canonical {v : DWord} (hs : s.canonical) : Kept (execDoorbell v s) := by
  unfold execDoorbell
  extract_lets -underBinder wptr
  split
  · exact hs
  · split
    · exact hs
    · extract_lets -underBinder q1
      split
      · exact queueError_canonical hs
      · next bells q2 _ =>
          split
          · exact hs
          · split
            · exact hs
            · exact hs

theorem newQid_canonical (hs : s.canonical) : (newQid s).2.canonical := by
  unfold newQid
  extract_lets -underBinder r n
  have hr : (r).2.canonical := hs
  split
  · exact hr
  · exact hr

theorem execQueueCreate_canonical {v : DWord} (hs : s.canonical) : Kept (execQueueCreate v s) := by
  unfold execQueueCreate
  extract_lets -underBinder desc ws w
  split
  · exact hs
  · split
    · exact descStatus_canonical hs
    · split
      · next _ t2 heq =>
          have ht2 : t2.canonical := (newQid_canonical hs).of_snd heq
          split
          · exact hs
          · exact descWrite_canonical (descStatus_canonical ht2)

theorem execQueueDestroy_canonical {v : DWord} (hs : s.canonical) : Kept (execQueueDestroy v s) := by
  unfold execQueueDestroy
  extract_lets -underBinder desc
  split
  · exact hs
  · exact descStatus_canonical hs

theorem execQueueSlotTake_canonical {q : Nat} (hs : s.canonical) : Kept (execQueueSlotTake q s) := by
  unfold execQueueSlotTake
  split
  · exact hs
  · split
    · exact hs
    · split
      · exact hs
      · split
        · split
          · exact hs
          · exact hs
        · exact hs

theorem execQueueWake_canonical (hs : s.canonical) : Kept (execQueueWake s) := by
  unfold execQueueWake
  extract_lets -underBinder due wake
  split
  · exact hs
  · exact hs

theorem parkQueue_canonical {q : HostQueue} {va : Nat} (hs : s.canonical) : (parkQueue s q va).canonical := by
  unfold parkQueue
  split
  · split
    next b s1 heq =>
      have hs1 : s1.canonical := (fqBatch_canonical hs).of_snd heq
      exact hs1
  · exact fqJoin_canonical hs

theorem execQueueUnpark_canonical {q : Nat} (hs : s.canonical) : Kept (execQueueUnpark q s) := by
  unfold execQueueUnpark
  split
  · exact hs
  · split
    · exact hs
    · split
      · exact parkQueue_canonical hs
      · split
        · exact hs
        · exact hs

/-- The state of a parser's read is in canonical form. -/
def KeptRead : PRead → Prop
  | .words _ s => s.canonical
  | _ => True

theorem KeptRead.of_eq {r r' : PRead} (h : KeptRead r) (e : r = r') : KeptRead r' := e ▸ h

theorem drawWords_canonical {n : Nat} (hs : s.canonical) : (drawWords s n).2.canonical := by
  induction n generalizing s with
  | zero => exact hs
  | succ n ih =>
    have h : (drawFree s).2.canonical := hs
    exact ih h

theorem leaseLine_canonical {asid : BitVec 16} {l : Nat} (hs : s.canonical) : (leaseLine s asid l).canonical := hs

theorem parserReadAt_canonical {keep : Bool} {asid : BitVec 16} {va n : Nat} (hs : s.canonical) :
    KeptRead (parserReadAt s keep asid va n) := by
  unfold parserReadAt
  split
  · trivial
  · split
    · trivial
    · trivial
    · exact drawWords_canonical hs
    · extract_lets lines s1
      have hs1 : s1.canonical := touchLines_canonical hs
      split
      · trivial
      · exact ite_canonical (foldl_canonical (fun _ _ hs => leaseLine_canonical hs) hs1) hs1

theorem parserRead_canonical {asid : BitVec 16} {va n : Nat} (hs : s.canonical) : KeptRead (parserRead s asid va n) :=
  parserReadAt_canonical hs

theorem parserRecords_canonical {asid : BitVec 16} {va n : Nat} (hs : s.canonical) : KeptRead (parserRecords asid va n s) := by
  induction n generalizing s va with
  | zero => exact hs
  | succ n ih =>
    unfold parserRecords
    split
    · next ws s1 heq =>
        have hs1 : s1.canonical := (parserRead_canonical hs).of_eq heq
        split
        · next rest s2 heq2 =>
            have hs2 : s2.canonical := (ih hs1).of_eq heq2
            exact hs2
        · exact ih hs1
    · exact parserRead_canonical hs

theorem afterRead_canonical {r : PRead} {f : List Word → State → Host.Outcome State Fault Refusal} (hs : s.canonical) (hr : KeptRead r)
    (hf : ∀ ws s1, s1.canonical → Kept (f ws s1)) : Kept (afterRead s r f) := by
  unfold afterRead
  split
  · exact hf _ _ hr
  · exact hs
  · exact hs
  · trivial

theorem takePacket_canonical {q : HostQueue} (hs : s.canonical) : (takePacket s q).canonical := descWrite_canonical hs

theorem servePacket_canonical {is : Nat → Bool} {f : HostQueue → List Word → State → Host.Outcome State Fault Refusal} {q : Nat}
    (hf : ∀ x ws s1, s1.canonical → Kept (f x ws s1)) (hs : s.canonical) : Kept (servePacket is f q s) := by
  unfold servePacket
  split
  · exact hs
  · split
    · exact hs
    · refine afterRead_canonical hs (parserRead_canonical hs) (fun ws s1 hs1 => ?_)
      split
      · exact hs
      · split
        · exact queueError_canonical hs1
        · exact hf _ _ _ hs1

theorem execWaitPacket_canonical {q : Nat} (hs : s.canonical) : Kept (execWaitPacket q s) := by
  unfold execWaitPacket
  refine servePacket_canonical (fun x ws s1 hs1 => ?_) hs
  split
  · exact parkQueue_canonical hs
  · refine afterRead_canonical hs (parserRead_canonical hs1) (fun vs s2 hs2 => ?_)
    split
    · exact takePacket_canonical hs2
    · exact hs

theorem parserAdd_canonical {s0 : State} {q : Nat} {asid : BitVec 16} {d : BitVec 12} {a : Nat} {x : Word} (hs0 : s0.canonical)
    (hs : s.canonical) : KeptReach (fun p => p.2.canonical) (parserAdd s0 s q asid d a x) := by
  unfold parserAdd
  split
  · split
    · exact hs
    · exact hs0
  · exact hs0

/-- A write that may have to wait, as how far the parser has got. -/
theorem written_canonical {s0 : State} {o : Option State} {f : State → State} (hs0 : s0.canonical) (h : KeptOption State.canonical o)
    (hf : ∀ s, s.canonical → (f s).canonical) : KeptReach State.canonical (o.elim (.later s0) (fun s => .done (f s))) := by
  cases o with
  | none => exact hs0
  | some s1 => exact hf s1 h

theorem signalWrite_canonical {s0 : State} {q : HostQueue} {ws : List Word} (hs0 : s0.canonical) (hs : s.canonical) :
    KeptReach State.canonical (signalWrite s0 s q ws) := by
  unfold signalWrite
  extract_lets va v
  split
  · exact written_canonical hs0 (deviceWrite_canonical hs) (fun _ h => h)
  · split
    · split
      · next r heq =>
          have hr : r.2.canonical := (parserAdd_canonical hs0 hs).of_eq heq
          exact hr
      · next s1 heq =>
          have hs1 : s1.canonical := (parserAdd_canonical hs0 hs).of_eq heq
          exact hs1
      · trivial
    · split
      · next vs s1 heq =>
          have hs1 : s1.canonical := (parserReadAt_canonical hs).of_eq heq
          exact written_canonical hs0 (deviceWrite_canonical hs1) (fun _ h => h)
      · exact hs0

theorem execSignalPacket_canonical {q : Nat} (hs : s.canonical) : Kept (execSignalPacket q s) := by
  unfold execSignalPacket
  refine servePacket_canonical (fun x ws s1 hs1 => ?_) hs
  split
  · exact hs
  · split
    · next s2 heq =>
        have hs2 : s2.canonical := (signalWrite_canonical hs hs1).of_eq heq
        exact ite_canonical (takePacket_canonical hs2) (takePacket_canonical hs2)
    · next s2 heq =>
        have hs2 : s2.canonical := (signalWrite_canonical hs hs1).of_eq heq
        exact hs2
    · exact hs

theorem execRegionPacket_canonical {q : Nat} (hs : s.canonical) : Kept (execRegionPacket q s) := by
  unfold execRegionPacket
  refine servePacket_canonical (fun x ws s1 hs1 => ?_) hs
  refine afterRead_canonical hs (parserRead_canonical hs1) (fun bs s2 hs2 => ?_)
  split
  · have h : (drawFree s2).2.canonical := hs2
    exact queueError_canonical h
  · exact takePacket_canonical (recharge_canonical (acceptNode_canonical hs2))

theorem publish_canonical {s0 : State} {l : Launch} (hs0 : s0.canonical) (hs : s.canonical) :
    KeptReach State.canonical (publish s0 s l) := by
  unfold publish
  extract_lets addr go
  have hgo (s : State) (v : Word) (hs : s.canonical) : (go s v).canonical :=
    ite_canonical hs (ite_canonical (counterError_canonical hs) hs)
  clear_value go
  split
  · split
    · next v s1 heq =>
        have hs1 : s1.canonical := (parserAdd_canonical hs0 hs).of_eq heq
        exact hgo _ _ hs1
    · next s1 heq =>
        have hs1 : s1.canonical := (parserAdd_canonical hs0 hs).of_eq heq
        exact hs1
    · trivial
  · split
    · next vs s1 heq =>
        have hs1 : s1.canonical := (parserReadAt_canonical hs).of_eq heq
        exact written_canonical hs0 (deviceWrite_canonical hs1) (fun s h => hgo s _ h)
    · exact hs0

theorem execLaunchPacket_canonical {q : Nat} (hs : s.canonical) : Kept (execLaunchPacket q s) := by
  unfold execLaunchPacket
  refine servePacket_canonical (fun x pk s0 hs0 => ?_) hs
  refine afterRead_canonical hs (parserRead_canonical hs0) (fun ws s1 hs1 => ?_)
  refine kept_ite (takePacket_canonical hs1) ?_
  refine afterRead_canonical hs (parserRead_canonical hs1) (fun bs s2 hs2 => ?_)
  refine kept_ite (takePacket_canonical hs2) ?_
  refine afterRead_canonical hs (parserRecords_canonical hs2) (fun image s3 hs3 => ?_)
  extract_lets s4 l1
  have hs4 : s4.canonical := acceptNode_canonical hs3
  refine kept_ite ?_ (takePacket_canonical hs4)
  split
  · next s5 heq =>
      have hs5 : s5.canonical := (publish_canonical hs hs4).of_eq heq
      exact takePacket_canonical hs5
  · next s5 heq =>
      have hs5 : s5.canonical := (publish_canonical hs hs4).of_eq heq
      exact hs5
  · exact hs

theorem regionVaultWrite_canonical {node v n : Nat} (hs : s.canonical) : (regionVaultWrite s node v n).canonical := by
  unfold regionVaultWrite
  extract_lets -underBinder x
  split
  · exact hs
  · split
    · exact recharge_canonical (freeVaultRuns_canonical hs)
    · split
      · exact hs
      · split
        · exact hs
        · exact recharge_canonical hs

theorem regionFramesWrite_canonical {node n : Nat} (hs : s.canonical) : (regionFramesWrite s node n).canonical := recharge_canonical hs

theorem execRegisterWrite_canonical {t : RegTarget} {v : DWord} (hs : s.canonical) : Kept (execRegisterWrite t v s) := by
  unfold execRegisterWrite
  extract_lets -underBinder n excl
  split
  · exact hs
  · split
    · exact hs
    · exact hs
    · exact hs
    · exact hs
    · exact hs
    · exact hs
    · exact hs
    · exact regionVaultWrite_canonical hs
    · exact regionFramesWrite_canonical hs
    · exact ite_canonical hs hs
    · exact hs

theorem testRecord_canonical {t addr status parts : Nat} {results : List Word} (hs : s.canonical) :
    (testRecord s t addr status parts results).canonical :=
  writeWords_canonical _ _ _ hs

theorem execSelfTest_canonical {v : DWord} (hs : s.canonical) : Kept (execSelfTest v s) := by
  unfold execSelfTest
  extract_lets -underBinder parts addr run
  split
  · exact hs
  · split
    · exact testRecord_canonical hs
    · split
      · exact hs
      · exact hs

theorem zeroDevice_canonical (hs : s.canonical) : (zeroDevice s).canonical := by
  exact ⟨ExecutionModel.sparseWf_filter _ _ hs.1 _, rfl⟩

theorem execSelfTestEnd_canonical {r : List Word} (hs : s.canonical) : Kept (execSelfTestEnd r s) := by
  unfold execSelfTestEnd
  split
  · exact hs
  · refine kept_ite hs ?_
    extract_lets results failed fresh idle s1 s2
    have hs2 : s2.canonical := zeroDevice_canonical hs
    clear_value s2
    exact raiseVector_canonical (testRecord_canonical hs2)

theorem setJunction_canonical {t : DieTemp} (hs : s.canonical) : (setJunction s t).canonical := ite_canonical hs hs

theorem stepDown_canonical (hs : s.canonical) : (stepDown s).canonical := ite_canonical hs hs

theorem stepUp_canonical (hs : s.canonical) : (stepUp s).canonical := ite_canonical hs (ite_canonical hs hs)

theorem execPowerCheck_canonical {draw : Nat} (hs : s.canonical) : Kept (execPowerCheck draw s) := by
  unfold execPowerCheck
  split
  · exact hs
  · split
    · exact stepDown_canonical hs
    · split
      · exact stepUp_canonical hs
      · exact hs

theorem stopChurn_canonical (hs : s.canonical) : (stopChurn s).canonical := by
  unfold stopChurn
  split
  · exact hs
  · exact hs

theorem churnStep_canonical {c : Churn} (hs : s.canonical) : (churnStep s c).canonical := ite_canonical (stopChurn_canonical hs) hs

theorem execChurn_canonical {on : Bool} (hs : s.canonical) : Kept (execChurn on s) := by
  unfold execChurn
  split
  · exact stopChurn_canonical hs
  · split
    · exact hs
    · split
      · exact hs
      · exact churnStep_canonical hs

theorem execThermalThrottle_canonical {t : DieTemp} (hs : s.canonical) : Kept (execThermalThrottle t s) := by
  unfold execThermalThrottle
  extract_lets -underBinder s1
  have hs1 : s1.canonical := setJunction_canonical hs
  split
  · exact stepDown_canonical hs1
  · exact hs1

theorem settled_canonical {r : Host.Outcome State Fault Refusal} (hs : s.canonical) (hr : Kept r) : (settled s r).canonical := by
  unfold settled
  split
  · exact hr
  · exact hs

theorem finishOctets_canonical {k n : Nat} (hs : s.canonical) : (finishOctets k n s).canonical := by
  induction n generalizing s with
  | zero => exact hs
  | succ n ih =>
    unfold finishOctets
    split
    · exact hs
    · exact ih (settled_canonical hs (execOctetComplete_canonical hs))

theorem finishAllOctets_canonical (hs : s.canonical) : (finishAllOctets s).canonical :=
  foldl_canonical (fun _ _ hs => (finishOctets_canonical hs)) hs

theorem finishKills_canonical (hs : s.canonical) : (finishKills s).canonical :=
  foldl_canonical (fun _ _ hs => (closeLaunch_canonical hs)) (foldl_canonical
      (fun _ _ hs => (settled_canonical hs (execKill_canonical hs))) hs)

theorem flushLines_canonical (hs : s.canonical) : (flushLines s).canonical :=
  foldl_canonical (fun _ _ hs => (writeBackAll_canonical hs)) hs

theorem whileLosing_canonical {f : State → State} (hf : ∀ s, s.canonical → (f s).canonical) (hs : s.canonical) :
    (whileLosing f s).canonical :=
  hf _ hs

theorem lossAct_canonical {n : Nat} (hs : s.canonical) : (lossAct n s).canonical := by
  unfold lossAct
  split
  · exact flushLines_canonical (whileLosing_canonical (fun _ hs => (finishAllOctets_canonical (finishKills_canonical hs))) hs)
  · exact ite_canonical hs hs

theorem lossStep_canonical {n t : Nat} {m : Marker} {hold : Bool} (hs : s.canonical) : (lossStep n t m hold s).canonical := by
  unfold lossStep
  split
  · exact hs
  · split
    · exact ite_canonical (whileLosing_canonical (fun _ hs => (finishKills_canonical hs)) hs) hs
    · exact ite_canonical (lossAct_canonical hs) hs

theorem startLoss_canonical {t : Nat} {hold : Bool} (hs : s.canonical) : (startLoss s t hold).canonical := stopChurn_canonical hs

theorem execSupplyLoss_canonical {die : BitVec 1} (hs : s.canonical) : Kept (execSupplyLoss die s) := by
  unfold execSupplyLoss
  split
  · exact startLoss_canonical hs
  · exact lossStep_canonical hs
  · exact hs

theorem execThermalShutdown_canonical {t : DieTemp} (hs : s.canonical) : Kept (execThermalShutdown t s) := by
  unfold execThermalShutdown
  extract_lets -underBinder s1
  have hs1 : s1.canonical := setJunction_canonical hs
  split
  · exact startLoss_canonical hs1
  · exact hs1

theorem execThermalHoldRelease_canonical {v : DWord} {t : DieTemp} (hs : s.canonical) : Kept (execThermalHoldRelease v t s) := by
  unfold execThermalHoldRelease
  extract_lets -underBinder s1
  have hs1 : s1.canonical := setJunction_canonical hs
  split
  · exact hs1
  · split
    · exact hs1
    · exact hs1

theorem execThermalHoldTemperatureFall_canonical {t : DieTemp} (hs : s.canonical) : Kept (execThermalHoldTemperatureFall t s) := by
  unfold execThermalHoldTemperatureFall
  extract_lets -underBinder s1
  have hs1 : s1.canonical := setJunction_canonical hs
  split
  · exact hs1
  · exact hs1

theorem execPartnerRetention_canonical {p : Nat} (hs : s.canonical) : Kept (execPartnerRetention p s) := by
  unfold execPartnerRetention
  extract_lets -underBinder pause
  split
  · exact hs
  · exact hs

theorem killForLoss_canonical {id : Nat} (hs : s.canonical) : (killForLoss s id).canonical := by
  unfold killForLoss
  split
  · exact hs
  · split
    · exact hs
    · exact elim_canonical hs (fun _ => killNode_canonical hs)

theorem wipeCluster_canonical {cl : Nat} (hs : s.canonical) : (wipeCluster s cl).canonical := by
  unfold wipeCluster
  extract_lets lost wipe s1
  have hs1 : s1.canonical := ⟨ExecutionModel.sparseWf_filter _ _ hs.1 _, ExecutionModel.sparseWf_filter _ _ hs.2 _⟩
  clear_value s1
  refine foldl_canonical (fun s j hs => ?_) hs1
  exact hs

theorem loseCluster_canonical {cl : Nat} (hs : s.canonical) : (loseCluster s cl).canonical :=
  wipeCluster_canonical (pushError_canonical (foldl_canonical (fun _ _ hs => (killForLoss_canonical hs)) hs))

theorem abandonTest_canonical (hs : s.canonical) : (abandonTest s).canonical := by
  unfold abandonTest
  split
  · next parts addr t _ =>
      have h : ({ s with abandoned := none, stfail := false } : State).canonical := hs
      exact raiseVector_canonical (testRecord_canonical h)
  · exact hs

theorem execSupplyResume_canonical {lost : BitVec 48} (hs : s.canonical) : Kept (execSupplyResume lost s) := by
  unfold execSupplyResume
  split
  · exact hs
  · exact abandonTest_canonical (foldl_canonical (fun _ _ hs => (loseCluster_canonical hs)) hs)

theorem coldReset_canonical (hs : s.canonical) : (coldReset s).canonical := by
  exact ⟨ExecutionModel.sparseWf_filter _ _ hs.1 _, rfl⟩

theorem execAuxiliaryRailFailure_canonical (hs : s.canonical) : Kept (execAuxiliaryRailFailure s) := by
  unfold execAuxiliaryRailFailure
  split
  · exact coldReset_canonical hs
  · exact hs

theorem execBoot_canonical {img : BootImage} (hs : s.canonical) : Kept (execBoot img s) := by
  unfold execBoot
  split
  · exact hs
  · split
    · exact hs
    · split
      · split
        · exact hs
        · exact hs
      · split
        · exact hs
        · split
          · exact hs
          · exact hs

theorem execMailboxSend_canonical {src dst taken : Nat} {d : List Word} (hs : s.canonical) :
    Kept (execMailboxSend src dst taken d s) := by
  unfold execMailboxSend
  split
  · exact hs
  · exact hs

theorem debugWrite_canonical {x : DebugAccess} (hs : s.canonical) : (debugWrite s x).canonical := by
  induction x with
  | asOwner ctx kind g d =>
    unfold debugWrite
    extract_lets bs whole
    have hwhole (s : State) (k : Nat) (hs : s.canonical) : (whole s k).canonical := ite_canonical hs hs
    clear_value whole
    split
    · exact foldl_canonical (fun _ _ hs => hwhole _ _ (writeTagged_canonical _ _ _ _ hs)) hs
    · exact hwhole _ _ (writeTagged_canonical _ _ _ _ hs)
    · exact hs
  | haltOnBreak c on => exact modCtx_canonical _ _ _ hs
  | window r ih => exact ite_canonical ih hs
  | _ => exact hs

theorem exec_canonical {i : Instr} (hs : s.canonical) : Kept (exec i s) := by
  unfold exec
  cases i with
  | add | sub | mul | mulh | mulhu | andr | orr | xorr | shl | shr | sar | minr | maxr | minu | maxu | slt | sltu | seq
  | divu | remu | bfx => exact scalarCR_canonical hs
  | clz | popc | addi | andi | ori | xori | shli | shri | sari | slti => exact scalarCI_canonical hs
  | movi | movhi | movl | addiw => exact scalarCW_canonical hs
  | lds => exact execLds_canonical hs
  | sts => exact execSts_canonical hs
  | sbld => exact execSbld_canonical hs
  | sbst => exact execSbst_canonical hs
  | satom => exact execSatom_canonical hs
  | grow => exact execGrow_canonical hs
  | br | bz | bnz | bltz | bgez => exact branchOn_canonical hs
  | buni => exact execBuni_canonical hs
  | call => exact execCall_canonical hs
  | ret => exact execRet_canonical hs
  | loop => exact execLoop_canonical hs
  | loopNext => exact execLoopNext_canonical hs
  | loopLeave => exact execLoopLeave_canonical hs
  | endc => exact execEndc_canonical hs
  | brl => exact execBrl_canonical hs
  | meet => exact execMeet_canonical hs
  | lane => exact execLane_canonical hs
  | lsync => exact execLsync_canonical hs
  | ptos => exact execPtos_canonical hs
  | vtos => exact execVtos_canonical hs
  | vtosPair => exact execVtosPair_canonical hs
  | vtosFirst => exact execVtosFirst_canonical hs
  | exmr | exmw => exact pureCtrl_canonical hs
  | down => exact execDown_canonical hs
  | segend | getsr | trap | nop => exact runCtrl_canonical (fun _ _ hs => hs) hs
  | up => exact execUp_canonical hs
  | gather => exact execGather_canonical hs
  | bar => exact execBar_canonical hs
  | barc => exact runCtrl_canonical (fun _ _ hs => (arriveAt_canonical hs)) hs
  | waitf => exact execWaitf_canonical hs
  | waite => exact execWaite_canonical hs
  | waita => exact execWaita_canonical hs
  | tryw => exact runCtrl_canonical (fun _ _ hs => (trywTest_canonical hs)) hs
  | fence => exact execFence_canonical hs
  | spawn => exact execSpawn_canonical hs
  | joinc => exact execJoinc_canonical hs
  | tcopy | gcopy | wbload | rcopy => exact issueOp_canonical hs
  | setsr => exact execSetsr_canonical hs
  | sigchk => exact execSigchk_canonical hs
  | brk => exact execBrk_canonical hs
  | vadd | vsub | vmul | vmulh | vmulhu | vand | vor | vxor | vshl | vshr | vsar | vmin | vmax | vminu | vmaxu | vbfx
  | vadds | fadd | fsub | fmul | fmin | fmax | fcmp | fldexp | hadd2 | hmul2 | packb => exact lane2_canonical hs
  | vmad | vbfi | ffma | hfma2 => exact lane3_canonical hs
  | vabs | vclz | vpopc | vmov | frcp | frsq | fsqrt | fexp | flog | frint | fexpx | fclass | unpkb => exact lane1_canonical hs
  | vsel => exact mapLane_canonical hs
  | vcmp | plog | lnop => exact runLane_canonical (fun _ _ _ _ hs => hs) hs
  | cvt => exact execCvt_canonical hs
  | quant => exact execQuant_canonical hs
  | shfl | shflx => exact shflLane_canonical hs
  | vote => exact runLane_canonical (fun _ _ _ _ hs => (writeRun_canonical hs)) hs
  | redux | scan => exact runLane_canonical (fun _ _ _ _ hs => (writeLanes_canonical _ _ _ _ hs)) hs
  | bld => exact execBld_canonical hs
  | bst => exact runLane_canonical (fun _ _ _ _ hs => (bufferAct_canonical hs (fun _ _ _ _ hs => (storeAct_canonical hs)))) hs
  | batom => exact execBatom_canonical hs
  | bpf => exact execBpf_canonical hs
  | lld | vld => exact localLoad_canonical hs
  | lst | vst => exact localStore_canonical hs
  | latom => exact execLatom_canonical hs
  | pld => exact execPld_canonical hs
  | pst => exact execPst_canonical hs
  | mma => exact execMma_canonical hs
  | accrd => exact execAccrd_canonical hs
  | accwr => exact execAccwr_canonical hs
  | accz => exact execAccz_canonical hs
  | clauseHead => exact execClauseHead_canonical hs
  | laneCompletion => exact execLaneCompletion_canonical hs
  | segmentStart => exact execSegmentStart_canonical hs
  | endMarker => exact execEndMarker_canonical hs
  | contextEnd => exact execContextEnd_canonical hs
  | gridRetire => exact execGridRetire_canonical hs
  | descentUnstall => exact execDescentUnstall_canonical hs
  | barrierOpen => exact execBarrierOpen_canonical hs
  | reelWave => exact execReelWave_canonical hs
  | waitaWake => exact execWaitaWake_canonical hs
  | trywWake | trywTimeout => exact trywAgain_canonical hs
  | growGrant => exact execGrowGrant_canonical hs
  | ownerPop => exact execOwnerPop_canonical hs
  | steal => exact execSteal_canonical hs
  | stealRetry => exact execStealRetry_canonical hs
  | taskStart => exact execTaskStart_canonical hs
  | engineOpStart => exact execEngineOpStart_canonical hs
  | ringSlotTake => exact execRingSlotTake_canonical hs
  | landing => exact execLanding_canonical hs
  | engineRetire => exact retireOps_canonical hs
  | engineResume => exact execEngineResume_canonical hs
  | weightDelivery => exact execWeightDelivery_canonical hs
  | octetStart => exact execOctetStart_canonical hs
  | octetComplete => exact execOctetComplete_canonical hs
  | acczPerform => exact execAcczPerform_canonical hs
  | homeWrite => exact execHomeWrite_canonical hs
  | l1WriteBack => exact execL1WriteBack_canonical hs
  | deviceCacheEviction | devstatRead | slopeWrite | tokpoolWrite | slicectlWrite | droop | getMeasurements | debugRead => exact hs
  | tagRewrite => exact execTagRewrite_canonical hs
  | skim => exact execSkim_canonical hs
  | accessCounterHalve => exact ite_canonical hs hs
  | regionMigrate => exact execRegionMigrate_canonical hs
  | mapChange => exact changeSpace_canonical hs (fun _ hs => (writeEntries_canonical hs))
  | faultBatchServed => exact execFaultBatchServed_canonical hs
  | pageReplay => exact execPageReplay_canonical hs
  | atomicReissue => exact execAtomicReissue_canonical hs
  | fetchRetry => exact execFetchRetry_canonical hs
  | kill => exact execKill_canonical hs
  | preemption => exact execPreemption_canonical hs
  | restore => exact execRestore_canonical hs
  | growDeadlock => exact execGrowDeadlock_canonical hs
  | lattolExpiry => exact execLattolExpiry_canonical hs
  | placement => exact execPlacement_canonical hs
  | tokenGrant => exact execTokenGrant_canonical hs
  | depNotification => exact execDepNotification_canonical hs
  | activeSetSwap => exact execActiveSetSwap_canonical hs
  | agelimSwap => exact execAgelimSwap_canonical hs
  | doorbell => exact execDoorbell_canonical hs
  | queueCreate => exact execQueueCreate_canonical hs
  | queueDestroy => exact execQueueDestroy_canonical hs
  | thermalHoldRelease => exact execThermalHoldRelease_canonical hs
  | queueSlotTake => exact execQueueSlotTake_canonical hs
  | queueWake => exact execQueueWake_canonical hs
  | nopPacket => exact servePacket_canonical (fun _ _ _ hs => (takePacket_canonical hs)) hs
  | launchPacket => exact execLaunchPacket_canonical hs
  | waitPacket => exact execWaitPacket_canonical hs
  | signalPacket => exact execSignalPacket_canonical hs
  | regionPacket => exact execRegionPacket_canonical hs
  | unknownPacket => exact servePacket_canonical (fun _ _ _ hs => hs) hs
  | queueUnpark => exact execQueueUnpark_canonical hs
  | selfTest => exact execSelfTest_canonical hs
  | selfTestEnd => exact execSelfTestEnd_canonical hs
  | registerWrite => exact execRegisterWrite_canonical hs
  | powerCheck => exact execPowerCheck_canonical hs
  | churn => exact execChurn_canonical hs
  | thermalThrottle => exact execThermalThrottle_canonical hs
  | thermalShutdown => exact execThermalShutdown_canonical hs
  | supplyLoss => exact execSupplyLoss_canonical hs
  | supplyResume => exact execSupplyResume_canonical hs
  | coldReset => exact coldReset_canonical hs
  | boot => exact execBoot_canonical hs
  | mailboxSend => exact execMailboxSend_canonical hs
  | flitReplay => exact execFlitReplay_canonical hs
  | retrain => exact execRetrain_canonical hs
  | inboundPeerAccess => exact execInboundPeerAccess_canonical hs
  | remoteResolutionNotice => exact execRemoteResolutionNotice_canonical hs
  | rtimeout => exact execRtimeout_canonical hs
  | hostWrite => exact execHostWrite_canonical hs
  | hostSnoop => exact execHostSnoop_canonical hs
  | debugWrite => exact debugWrite_canonical hs
  | debugResume => exact execDebugResume_canonical hs
  | auxiliaryRailFailure => exact execAuxiliaryRailFailure_canonical hs
  | thermalHoldTemperatureFall => exact execThermalHoldTemperatureFall_canonical hs
  | partnerRetention => exact execPartnerRetention_canonical hs
  | cacheShareChange => exact execCacheShareChange_canonical hs
  | remoteAnswer => exact execRemoteAnswer_canonical hs
  | pcieRecovery => exact execPcieRecovery_canonical hs

theorem ctrlFetchStop_canonical {c : Ctx} {x : Fetch} (hs : s.canonical) : Kept (ctrlFetchStop s c x) := by
  unfold ctrlFetchStop
  split
  · exact hs
  · exact hs
  · exact stallFetch_canonical hs
  · exact askFetch_canonical hs
  · exact takeFault_canonical hs
  · trivial
  · exact scalarUe_canonical hs

theorem retryBatch_canonical {c : Ctx} {recs : List (List Word)} {isFetch : Bool} (hs : s.canonical) :
    (retryBatch s c recs isFetch).canonical := by
  unfold retryBatch
  split
  · have h := fqBatch_canonical (rs := recs) hs
    exact h
  · exact fqJoin_canonical hs

theorem retryLaneBatch_canonical {c : Ctx} {recs : List (List Word)} {isFetch : Bool} (hs : s.canonical) :
    (retryLaneBatch s c recs isFetch).canonical := by
  unfold retryLaneBatch
  split
  · have h := fqBatch_canonical (rs := recs) hs
    exact h
  · exact fqJoin_canonical hs

theorem beginTrap_canonical {c : Ctx} (hs : s.canonical) : (beginTrap s c).canonical := ite_canonical hs hs

theorem ctrlTurn_canonical {id : Nat} (hs : s.canonical) : Kept (ctrlTurn id s) := by
  unfold ctrlTurn
  split
  · exact hs
  · split
    · exact hs
    · split
      · exact retryBatch_canonical hs
      · exact beginTrap_canonical hs
      · split
        · exact hs
        · split
          · exact ctrlFetchStop_canonical hs
          · split
            · exact exec_canonical (ite_canonical hs hs)
            · exact takeFault_canonical hs

theorem laneTurn_canonical {id : Nat} (hs : s.canonical) : Kept (laneTurn id s) := by
  unfold laneTurn
  split
  · exact hs
  · split
    · exact hs
    · split
      · exact retryLaneBatch_canonical hs
      · split
        · exact hs
        · split
          · exact hs
          · split
            · exact laneFetchStop_canonical hs
            · split
              · exact hs
              · split
                · exact exec_canonical hs
                · exact takeFault_canonical hs

theorem agePending_canonical {id : Nat} {t : State} (ht : t.canonical) : (agePending id s t).canonical := by
  unfold agePending
  split
  · exact ht
  · exact ite_canonical ht ht

theorem streamTurn_canonical {id : Nat} {r : Host.Outcome State Fault Refusal} (hr : Kept r) : Kept (streamTurn id s r) := by
  unfold streamTurn
  split
  · exact agePending_canonical hr
  · exact hr

theorem turnStep_canonical (hs : s.canonical) : Kept (turnStep s) := by
  unfold turnStep
  split
  · exact streamTurn_canonical (ctrlTurn_canonical hs)
  · exact streamTurn_canonical (laneTurn_canonical hs)
  · exact exec_canonical hs
  · exact hs

theorem countCorrected_canonical {k : Nat} (hs : s.canonical) : (countCorrected s k).canonical := ite_canonical hs hs

theorem tick_canonical (hs : s.canonical) : (tick s).canonical :=
  foldl_canonical (fun _ _ hs => (countCorrected_canonical hs)) (settleActive_canonical hs)

theorem afterTurn_canonical {r : Host.Outcome State Fault Refusal} (hr : Kept r) : Kept (afterTurn r) := by
  unfold afterTurn
  split
  · exact tick_canonical hr
  · exact hr

theorem step_canonical (hs : s.canonical) : Kept (step s) := afterTurn_canonical (turnStep_canonical hs)

/-- Settles O56: the turn of an agent keeps the form, whichever instruction or event it is, and so does what every step adds. -/
theorem memoryStaysCanonical : Obligations.MemoryStaysCanonical := by
  unfold Obligations.MemoryStaysCanonical
  intro s t hs h
  exact (step_canonical hs).of_eq h

end Sys2Proof.Proofs.Memories

end

section
/-! PROOFS. Writes of a core store under a generation (O28). -/

open Sys2Proof Sys2Proof.Machine
open Sys2Proof.Proofs.ExecutionModel (getCore_setCore_same)
open Sys2Proof.Proofs.Registers (granuleUnder tagAt_granuleUnder memRead_granuleUnder granuleUnder_canonical)

namespace Sys2Proof.Proofs.Memories

variable {s : State}

/-! ## One byte, then consecutive bytes -/

theorem tagAt_writeTagged1 (hs : s.canonical) (k : Nat) (g : BitVec 12) (b : Byte) (x : Nat) :
    tagAt (writeTagged1 s k g b) x = if granule x = granule k then g else tagAt s x := tagAt_granuleUnder hs k g x

theorem memRead_writeTagged1_same (hs : s.canonical) (k : Nat) (g : BitVec 12) (b : Byte) :
    memRead (writeTagged1 s k g b).mem k = b := memRead_memWrite_same _ _ _ (granuleUnder_canonical hs k g).1

theorem memRead_writeTagged1_other (hs : s.canonical) {k x : Nat} (g : BitVec 12) (b : Byte) (other : x ≠ k) :
    memRead (writeTagged1 s k g b).mem x = if granule x = granule k ∧ tagAt s k ≠ g then 0 else memRead s.mem x :=
  (memRead_memWrite_other _ _ _ _ (granuleUnder_canonical hs k g).1 other).trans (memRead_granuleUnder hs k g x)

/-- Byte `x` lies in a granule of one of the `n` bytes from `k`. -/
def touches (k n x : Nat) : Prop := ∃ i, i < n ∧ granule (k + i) = granule x

theorem touches_succ (k n x : Nat) : touches k (n + 1) x ↔ granule x = granule k ∨ touches (k + 1) n x := by
  constructor
  · rintro ⟨i, hi, e⟩
    cases i with
    | zero => exact .inl e.symm
    | succ i => exact .inr ⟨i, by omega, by rw [← e]; congr 1; omega⟩
  · rintro (e | ⟨i, hi, e⟩)
    · exact ⟨0, by omega, e.symm⟩
    · exact ⟨i + 1, by omega, by rw [← e]; congr 1; omega⟩

/-- The granules that the bytes touch bear the generation's tag, and the others keep theirs. -/
theorem tagAt_writeTagged (g : BitVec 12) (bs : List Byte) (hs : s.canonical) (k x : Nat) :
    (touches k bs.length x → tagAt (writeTagged s k g bs) x = g) ∧
    (¬ touches k bs.length x → tagAt (writeTagged s k g bs) x = tagAt s x) := by
  induction bs generalizing s k with
  | nil => exact ⟨fun ⟨i, hi, _⟩ => absurd hi (by simp), fun _ => rfl⟩
  | cons b r ih =>
    have rest := ih (writeTagged1_canonical s k g b hs) (k + 1)
    have first := tagAt_writeTagged1 hs k g b x
    rw [List.length_cons, touches_succ]
    by_cases again : touches (k + 1) r.length x
    · exact ⟨fun _ => rest.1 again, fun h => absurd (.inr again) h⟩
    · have tag : tagAt (writeTagged s k g (b :: r)) x = _ := (rest.2 again).trans first
      exact ⟨fun h => tag.trans (if_pos (h.resolve_right again)), fun h => tag.trans (if_neg fun e => h (.inl e))⟩

/-- A byte that is not written keeps its value, but reads zero where its granule is touched and bore another tag. -/
theorem memRead_writeTagged_other (g : BitVec 12) (bs : List Byte) (hs : s.canonical) (k x : Nat)
    (other : ∀ i, i < bs.length → x ≠ k + i) :
    (touches k bs.length x → memRead (writeTagged s k g bs).mem x = if tagAt s x = g then memRead s.mem x else 0) ∧
    (¬ touches k bs.length x → memRead (writeTagged s k g bs).mem x = memRead s.mem x) := by
  induction bs generalizing s k with
  | nil => exact ⟨fun ⟨i, hi, _⟩ => absurd hi (by simp), fun _ => rfl⟩
  | cons b r ih =>
    have ⟨inRest, outRest⟩ := ih (writeTagged1_canonical s k g b hs) (k + 1) fun i hi => by
      have := other (i + 1) (Nat.succ_lt_succ hi)
      omega
    have byte := memRead_writeTagged1_other hs (k := k) (x := x) g b (other 0 (Nat.succ_pos _))
    have tag := tagAt_writeTagged1 hs k g b x
    rw [List.length_cons, touches_succ]
    by_cases here : granule x = granule k
    · rw [if_pos here] at tag
      have whole : memRead (writeTagged s k g (b :: r)).mem x = memRead (writeTagged1 s k g b).mem x := by
        by_cases again : touches (k + 1) r.length x
        · exact (inRest again).trans (if_pos tag)
        · exact outRest again
      refine ⟨fun _ => (whole.trans byte).trans ?_, fun h => absurd (.inl here) h⟩
      rw [show tagAt s k = tagAt s x by rw [tagAt, tagAt, here], if_congr (and_iff_right here) rfl rfl, ite_not]
    · rw [if_neg here] at tag
      rw [if_neg fun h => here h.1] at byte
      rw [tag, byte] at inRest
      exact ⟨fun h => inRest (h.resolve_left here), fun h => (outRest fun t => h (.inr t)).trans byte⟩

theorem memRead_writeTagged_at (g : BitVec 12) (bs : List Byte) (hs : s.canonical) (k i : Nat) (hi : i < bs.length) :
    memRead (writeTagged s k g bs).mem (k + i) = bs.getD i 0 := by
  induction bs generalizing s k i with
  | nil => exact absurd hi (by simp)
  | cons b r ih =>
    have hs1 := writeTagged1_canonical s k g b hs
    cases i with
    | zero =>
      have tag : tagAt (writeTagged1 s k g b) k = g := (tagAt_writeTagged1 hs k g b k).trans (if_pos rfl)
      have kept := memRead_writeTagged_other g r hs1 (k + 1) k fun i _ => by omega
      have byte : memRead (writeTagged1 s k g b).mem k = b := memRead_writeTagged1_same hs k g b
      by_cases again : touches (k + 1) r.length k
      · exact ((kept.1 again).trans (if_pos tag)).trans byte
      · exact (kept.2 again).trans byte
    | succ i =>
      rw [show k + (i + 1) = k + 1 + i by omega]
      exact ih hs1 (k + 1) i (Nat.lt_of_succ_lt_succ hi)

/-! ## `coreWrite` -/

theorem foldl_writeTagged1 (g : BitVec 12) (bs : List Byte) (s : State) (k i : Nat) :
    ((List.range' i bs.length).zip bs).foldl (fun s b => writeTagged1 s (k + b.1) g b.2) s = writeTagged s (k + i) g bs := by
  induction bs generalizing s i with
  | nil => rfl
  | cons b r ih =>
    rw [List.length_cons, List.range'_succ, List.zip_cons_cons, List.foldl_cons, ih, writeTagged]
    rfl

/-- A write whose generation owns its row is the write of its bytes; only errors may be cleared besides. -/
theorem coreWrite_owned {k off : Nat} {g : BitVec 12} (bs : List Byte) (own : ownerGen (getCore s k).rows (off / 256) = g) :
    (coreWrite s k off g bs).mem = (writeTagged s (coreKey k off) g bs).mem ∧
    (coreWrite s k off g bs).tags = (writeTagged s (coreKey k off) g bs).tags := by
  have bytes := foldl_writeTagged1 g bs s (coreKey k off) 0
  rw [← List.range_eq_range', Nat.add_zero] at bytes
  rw [coreWrite, coreWriteAt, if_pos own, writeAll, offsets, bytes, clearCovered]
  split
  · exact ⟨rfl, rfl⟩
  · exact ⟨rfl, rfl⟩

theorem coreWrite_late {k off : Nat} {g : BitVec 12} (bs : List Byte) (late : ownerGen (getCore s k).rows (off / 256) ≠ g) :
    coreWrite s k off g bs = countLate s k := if_neg late

theorem coreKey_add (k off i : Nat) : coreKey k (off + i) = coreKey k off + i := (Nat.add_assoc ..).symm

theorem late_countLate {k : Nat} (hk : k < s.cores.length) :
    (getCore (countLate s k) k).late.toNat = min 0xFFFF ((getCore s k).late.toNat + 1) := by
  rw [countLate, getCore_setCore_same hk]
  generalize (getCore s k).late = v
  split
  · next full => rw [full]; rfl
  · next more =>
    have room : v.toNat ≠ 0xFFFF := fun e => more (BitVec.eq_of_toNat_eq e)
    have : v.toNat < 2 ^ 16 := v.isLt
    rw [BitVec.toNat_add]
    show (v.toNat + 1) % 2 ^ 16 = _
    omega

/-- Settles O28: the write of an owner is the byte after byte write of `writeTagged`; a late one is `countLate`. -/
theorem taggedWrites : Obligations.TaggedWrites := by
  unfold Obligations.TaggedWrites
  intro s k off g bs hk _ hs t touched
  have touched_iff (x : Nat) : touched x ↔ touches (coreKey k off) bs.length x := by
    simp only [touched, touches, coreKey_add]
  refine ⟨fun own => ?_, fun late => ?_⟩
  · obtain ⟨mem, tags⟩ := coreWrite_owned bs own
    have tag (x : Nat) : tagAt t x = tagAt (writeTagged s (coreKey k off) g bs) x := congrArg (sget 0 · (granule x)) tags
    rw [show t.mem = _ from mem]
    refine ⟨fun i hi => ?_, fun x hx other => ?_, fun x hx => ?_⟩
    · rw [tag, coreKey_add]
      exact ⟨memRead_writeTagged_at g bs hs _ i hi, (tagAt_writeTagged g bs hs _ _).1 ⟨i, hi, rfl⟩⟩
    · simp only [coreKey_add] at other
      exact (memRead_writeTagged_other g bs hs _ x other).1 ((touched_iff x).1 hx)
    · have apart := mt (touched_iff x).2 hx
      rw [tag]
      exact ⟨(memRead_writeTagged_other g bs hs _ x fun i hi e => apart ⟨i, hi, by rw [e]⟩).2 apart,
          (tagAt_writeTagged g bs hs _ x).2 apart⟩
  · rw [show t = countLate s k from coreWrite_late bs late]
    exact ⟨rfl, rfl, rfl, late_countLate hk⟩

end Sys2Proof.Proofs.Memories

end

section
/-! PROOFS. The words of the group's own core: LDS and STS (O29). -/

open Sys2Proof Sys2Proof.Machine
open Sys2Proof.Proofs.ExecutionModel (runCtrl_executes executes_id finishCtrl_done finishCtrl_fault getCtx_setCtx_other)

namespace Sys2Proof.Proofs.Memories

/-! ## Addresses and checks -/

theorem ldsAddr_eq (c : Ctx) (a : Reg) (i : BitVec 8) : ldsAddr c a i = ((c.sreg a.toNat).toNat + 4 * i.toNat) % 2 ^ 32 := by
  unfold ldsAddr
  have : i.toNat < 2 ^ 8 := i.isLt
  generalize c.sreg a.toNat = w
  rw [BitVec.toNat_add, BitVec.toNat_mul, BitVec.toNat_setWidth]
  show (w.toNat + i.toNat % 2 ^ 32 * 4 % 2 ^ 32) % 2 ^ 32 = _
  omega

section
variable {s : State} {c : Ctx} {pols : BitVec 4} {read : Reading} {n addr : Nat} {al : Alloc}

theorem localHit_perm (none : allocOf c pols addr n = none) : localHit s c pols read n addr = .bad 0 PERM 0 := by
  rw [localHit, none]

theorem localHit_align (found : allocOf c pols addr n = some al) (off : addr % n ≠ 0) :
    localHit s c pols read n addr = .bad 1 ALIGN 0 := by
  rw [localHit, found]
  exact if_pos off

theorem localHit_ok (found : allocOf c pols addr n = some al) (aligned : addr % n = 0)
    (fresh : read = .none ∨ al.policy = false ∨ staleGranule s c (coreKey c.core addr) n al.gen true read = none) :
    localHit s c pols read n addr = .ok (.here (coreKey c.core addr)) 0 al.gen false := by
  have passes : (if (al.policy && decide (read ≠ .none)) = true then staleGranule s c (coreKey c.core addr) n al.gen true read else
      none) = none := by
    obtain rfl | plain | none := fresh
    · simp
    · simp [plain]
    · rw [none, ite_self]
  rw [localHit, found]
  dsimp only
  rw [if_neg (not_not.2 aligned), passes]

end

theorem length_readTagged (s : State) (g : BitVec 12) (n k : Nat) : (readTagged s k g n).length = n := by
  induction n generalizing k with
  | zero => rfl
  | succ n ih => rw [readTagged, List.length_cons, ih]

theorem length_readBytes (s : State) (n k : Nat) : (readBytes s k n).length = n := by
  induction n generalizing k with
  | zero => rfl
  | succ n ih => rw [readBytes, List.length_cons, ih]

theorem length_readAs (s : State) (k n : Nat) (g : BitVec 12) : (readAs s k n g).length = n := by
  unfold readAs
  split
  · split
    · exact length_readTagged s g n k
    · exact List.length_replicate
  · split
    · exact length_readTagged s g n k
    · exact List.length_replicate
  · exact length_readBytes s n k

/-- The group's own buffered bytes over those of a read. -/
theorem overlayOwn_rsbBytes (c : Ctx) (p : Place) {n : Nat} {bs : List Byte} (length : bs.length = n) :
    overlayOwn bs (rsbBytes c p n) = (List.range n).map (fun i => (rsbByte c (p.plus i)).getD (bs.getD i 0)) := by
  rw [overlayOwn, length]
  refine List.map_congr_left fun i hi => ?_
  have own : (rsbBytes c p n).getD i none = rsbByte c (p.plus i) := by
    simp [rsbBytes, List.mem_range.1 hi]
  rw [own]

/-- Replacing a context changes nothing but that context. -/
theorem onlyContext_setCtx {s : State} {id : Nat} {c : Ctx} (same : c.id = id) : onlyContext id s (setCtx s c) :=
  ⟨rfl, fun _ hj => getCtx_setCtx_other (by rw [same]; exact hj), fun _ => rfl⟩

theorem bufferStore_id {c c2 : Ctx} {sc : BitVec 3} {rel : Bool} {asid mg : BitVec 16} {bs : List StoreByte}
    (room : bufferStore c sc rel asid mg bs = some c2) : c2.id = c.id := by
  unfold bufferStore at room
  extract_lets es at room
  split at room
  · rw [← Option.some.inj room]
  · cases room

/-! ## LDS -/

section
variable {sp : Option Word} {a d : Reg} {i : BitVec 8} {s s1 : State} {c c1 : Ctx} {al : Alloc}

/-- LDS ends as what its address leaves. -/
theorem exec_lds (h : Executes (groupSpec sp false [d.toNat]) s c s1 c1) {hit : Hit}
    (found : localHit s1 c1 (effPols s1 c1) .load 4 (ldsAddr c1 a i) = hit) :
    (∀ x code addr, hit = .bad x code addr → exec (.lds sp d a i) s = .next (takeFault s1 c1 code none false c.pc.toNat addr)) ∧
    (∀ k g, hit = .ok (.here k) 0 g false → c1.loadsHeld = false → poisoned s1 k 4 g (rsbBytes c1 (.here k) 4) = false →
      exec (.lds sp d a i) s = .next (completed (groupSpec sp false [d.toNat]) c
        (setCtx s1 (c1.setSreg d.toNat (leWord (overlayOwn (readAs s1 k 4 g) (rsbBytes c1 (.here k) 4))))) none)) := by
  refine ⟨fun x code addr e => ?_, fun k g e free sound => ?_⟩
  · show execLds sp d a i s = _
    rw [execLds, runCtrl_executes h rfl rfl, found, e]
    exact finishCtrl_fault h.own _ _ _
  · show execLds sp d a i s = _
    rw [execLds, runCtrl_executes h rfl rfl, found, e]
    simp only [free, sound, Bool.false_eq_true, if_false]
    rfl

/-- STS ends as what its address leaves. -/
theorem exec_sts (h : Executes (groupSpec sp false []) s c s1 c1) {hit : Hit}
    (found : localHit s1 c1 (effPols s1 c1) .none 4 (ldsAddr c1 a i) = hit) :
    (∀ x code addr, hit = .bad x code addr → exec (.sts sp d a i) s = .next (takeFault s1 c1 code none false c.pc.toNat addr)) ∧
    (∀ k g, hit = .ok (.here k) 0 g false →
      let bs := wordBytes (c1.sreg d.toNat)
      let buffered := bufferStore c1 0 false 0 0 (elementBytes (.here k) 0 (some g) bs)
      (ownRow c1 (.here k) = true →
        exec (.sts sp d a i) s = .next (completed (groupSpec sp false []) c (writeOwn s1 c1 [(.here k, bs)]) none)) ∧
      (ownRow c1 (.here k) = false → ∀ c2, buffered = some c2 →
        exec (.sts sp d a i) s = .next (completed (groupSpec sp false []) c (setCtx s1 c2) none)) ∧
      (ownRow c1 (.here k) = false → buffered = none →
        exec (.sts sp d a i) s = .next (takeFault s1 c1 REGION none false c.pc.toNat 0))) := by
  have runs : execSts sp d a i s = exec (.sts sp d a i) s := rfl
  rw [execSts, runCtrl_executes h rfl rfl, found] at runs
  refine ⟨fun x code addr e => ?_, fun k g e => ⟨fun own => ?_, fun other c2 room => ?_, fun other full => ?_⟩⟩
  · rw [← runs, e]
    exact finishCtrl_fault h.own _ _ _
  · rw [← runs, e]
    simp only [own, if_true]
    rfl
  · rw [← runs, e]
    simp only [other, Bool.false_eq_true, if_false, room]
    rfl
  · rw [← runs, e]
    simp only [other, Bool.false_eq_true, if_false, full]
    exact finishCtrl_fault h.own _ _ _

end

/-- Settles O29: both instructions by what `localHit` says of their address. -/
theorem coreStoreAccess : Obligations.CoreStoreAccess := by
  unfold Obligations.CoreStoreAccess
  refine ⟨fun sp d a i s c s1 c1 h => ?_, fun sp d a i s c s1 c1 h => ?_⟩
  · intro addr k
    rw [show addr = ldsAddr c1 a i from (ldsAddr_eq c1 a i).symm]
    refine ⟨fun none => (exec_lds h (localHit_perm none)).1 _ _ _ rfl, fun al found =>
        ⟨fun off => ?_, fun aligned fresh free sound => ?_⟩⟩
    · exact (exec_lds h (localHit_align found off)).1 _ _ _ rfl
    · have key : k = coreKey c1.core (ldsAddr c1 a i) := congrArg (coreKey c1.core) (ldsAddr_eq c1 a i).symm
      rw [key] at fresh sound ⊢
      rw [(exec_lds h (localHit_ok found aligned (.inr fresh))).2 _ _ rfl free sound, overlayOwn_rsbBytes _ _ (length_readAs ..)]
      rfl
  · intro addr k
    have key : k = coreKey c1.core (ldsAddr c1 a i) := congrArg (coreKey c1.core) (ldsAddr_eq c1 a i).symm
    rw [show addr = ldsAddr c1 a i from (ldsAddr_eq c1 a i).symm, key]
    refine ⟨fun none => (exec_sts h (localHit_perm none)).1 _ _ _ rfl, fun al found => ?_⟩
    intro buffered
    refine ⟨fun off => (exec_sts h (localHit_align found off)).1 _ _ _ rfl, fun aligned => ?_⟩
    obtain ⟨own, buffers, full⟩ := (exec_sts (d := d) h (localHit_ok found aligned (.inl rfl))).2 _ _ rfl
    exact ⟨own, fun other c2 room => ⟨buffers other c2 room, onlyContext_setCtx ((bufferStore_id room).trans (executes_id h))⟩, full⟩

end Sys2Proof.Proofs.Memories

end

section
/-! PROOFS. GROW and the grant of its rows (O34). -/

open Sys2Proof Sys2Proof.Machine
open Sys2Proof.Proofs.ExecutionModel (runCtrl_executes executes_id finishCtrl_done finishCtrl_wait finishCtrl_fault finishCtrl_suspend
  modCtx_eq getCtx_setCtx_same)

namespace Sys2Proof.Proofs.Memories

/-- GROW as the checks of R189 see it (R202). -/
def growSpec (sp : Option Word) : CtrlSpec := { groupSpec sp false [] with must := true, single := true }

/-- A context that waits in its GROW. -/
def growing (c : Ctx) (sp : Option Word) (m : BitVec 16) : Ctx := { c with mode := .grow (.grow sp m) (wordsOf false sp) }

/-- GROW's own effect. -/
def growEffect (sp : Option Word) (m : BitVec 16) (s : State) (c : Ctx) : Act :=
  if !c.laneIdle then .wait s
  else if grownV c m < 1 || 240 < grownV c m then .fault s GROWMAX 0
  else if m = 0 then .done s none
  else (growTo s c (grownV c m).toNat).elim (.suspend (growBegins (setCtx s (growing c sp m)) c.core)) (fun s1 => .done s1 none)

theorem execGrow_eq (sp : Option Word) (m : BitVec 16) :
    execGrow sp m = runCtrl (growSpec sp) (fun _ _ => false) (growEffect sp m) := by
  have effect (s : State) (c : Ctx) : (match growTo s c (grownV c m).toNat with
      | some s1 => Act.done s1 none
      | none => .suspend (growBegins (setCtx s (growing c sp m)) c.core)) =
      (growTo s c (grownV c m).toNat).elim (.suspend (growBegins (setCtx s (growing c sp m)) c.core)) (fun s1 => .done s1 none) := by
    cases growTo s c (grownV c m).toNat <;> rfl
  unfold growEffect
  simp only [← effect]
  rfl

section
variable {sp : Option Word} {m : BitVec 16} {s s1 : State} {c c1 : Ctx}

theorem exec_grow (h : Executes (growSpec sp) s c s1 c1) :
    exec (.grow sp m) s = finishCtrl c.id (growSpec sp) c.pc c.pc.toNat (growEffect sp m s1 c1) := by
  show execGrow sp m s = _
  rw [execGrow_eq, runCtrl_executes h rfl rfl]

theorem exec_grow_busy (h : Executes (growSpec sp) s c s1 c1) (busy : c1.laneIdle = false) : exec (.grow sp m) s = .next s1 := by
  rw [exec_grow h, growEffect, busy]
  rfl

theorem exec_grow_past (h : Executes (growSpec sp) s c s1 c1) (idle : c1.laneIdle = true) (past : grownV c1 m < 1 ∨ 240 < grownV c1 m) :
    exec (.grow sp m) s = .next (takeFault s1 c1 GROWMAX none false c.pc.toNat 0) := by
  rw [exec_grow h, growEffect, idle, if_neg (by decide), if_pos (by simpa using past)]
  exact finishCtrl_fault h.own _ _ _

/-- GROW to a V within the bounds. -/
theorem growEffect_within (idle : c1.laneIdle = true) (low : 1 ≤ grownV c1 m) (high : grownV c1 m ≤ 240) :
    growEffect sp m s1 c1 = if m = 0 then .done s1 none
      else (growTo s1 c1 (grownV c1 m).toNat).elim (.suspend (growBegins (setCtx s1 (growing c1 sp m)) c1.core))
          (fun s2 => .done s2 none) := by
  have inside : ¬ (decide (grownV c1 m < 1) || decide (240 < grownV c1 m)) = true := by
    simp only [Bool.or_eq_true, decide_eq_true_eq]
    omega
  rw [growEffect, idle, if_neg (by decide), if_neg inside]

/-- The wait of a group that cannot be granted its V now. -/
theorem finishCtrl_growBegins (h : Executes (growSpec sp) s c s1 c1) :
    finishCtrl c.id (growSpec sp) c.pc c.pc.toNat (.suspend (growBegins (setCtx s1 (growing c1 sp m)) c1.core)) =
      .next (setCtx (growBegins (setCtx s1 (growing c1 sp m)) c1.core) ((growing c1 sp m).countIssue (growSpec sp))) := by
  have same : (growing c1 sp m).id = c.id := (executes_id h : c1.id = c.id)
  have own : getCtx s1 (growing c1 sp m).id = some c1 := by rw [same]; exact h.own
  have waits : getCtx (growBegins (setCtx s1 (growing c1 sp m)) c1.core) c.id = some (growing c1 sp m) := by
    rw [← same]
    exact getCtx_setCtx_same own
  rw [finishCtrl_suspend, modCtx_eq waits]

end

/-- Rows are given back at once; no byte, no tag and nothing else of the context changes. -/
theorem growTo_shrink {s : State} {c : Ctx} {n : Nat} (less : n ≤ c.vregs) (found : getCtx s c.id = some c) :
    ∃ t, growTo s c n = some t ∧ t.mem = s.mem ∧ t.tags = s.tags ∧ getCtx t c.id = some { c with vregs := n, liveRegs := n } := by
  have grown : c.grown n = { c with vregs := n, liveRegs := n } := by rw [Ctx.grown, Nat.min_eq_right less]
  have own (k : Core) : getCtx (setCtx (setCore s c.core k) (c.grown n)) c.id = some (c.grown n) :=
    getCtx_setCtx_same (c := c.grown n) (x := c) found
  rw [growTo, if_pos less]
  refine ⟨_, rfl, rfl, rfl, ?_⟩
  rw [own, grown]

section
variable {s : State} {x : Ctx} {sp : Option Word} {n len : Nat}

theorem exec_growGrant_older (found : getCtx s x.id = some x) (waits : x.growWaits = some (sp, n, len)) (older : olderGrow s x = true) :
    exec (.growGrant x.id) s = .next s := by
  show execGrowGrant x.id s = _
  simp only [execGrowGrant, found, waits, older, Bool.true_or, if_true]

theorem exec_growGrant {t : State} (found : getCtx s x.id = some x) (waits : x.growWaits = some (sp, n, len)) (power : powered s = true)
    (first : olderGrow s x = false) (rows : growTo s x n = some t) :
    exec (.growGrant x.id) s = .next (resumePast (setCore t x.core { getCore t x.core with growCheck := false }) x.id len sp) := by
  show execGrowGrant x.id s = _
  simp only [execGrowGrant, found, waits, first, power, rows, Bool.not_true, Bool.or_self, Bool.false_eq_true, if_false]

end

/-- Settles O34: GROW by how its V stands, the shrink, and the grant. -/
theorem registerGrowth : Obligations.RegisterGrowth := by
  unfold Obligations.RegisterGrowth
  refine ⟨fun sp m s c s1 c1 => ?_, fun s c n less found => growTo_shrink less found, fun s x sp n len found waits power =>
    ⟨exec_growGrant_older found waits, fun t first rows => exec_growGrant found waits power first rows⟩⟩
  intro spec v h
  refine ⟨exec_grow_busy h, fun idle => ⟨exec_grow_past h idle, fun low high none => ?_, fun low high some =>
      ⟨fun s2 rows => ?_, fun rows => ?_⟩⟩⟩
  · rw [exec_grow h, growEffect_within idle low high, if_pos none]
    rfl
  · rw [exec_grow h, growEffect_within idle low high, if_neg some, show growTo s1 c1 (grownV c1 m).toNat = _ from rows]
    rfl
  · rw [exec_grow h, growEffect_within idle low high, if_neg some, show growTo s1 c1 (grownV c1 m).toNat = _ from rows]
    exact finishCtrl_growBegins h

end Sys2Proof.Proofs.Memories

end

section
/-! PROOFS. One element through a record: SBLD and SBST (O31). -/

open Sys2Proof Sys2Proof.Machine
open Sys2Proof.Proofs.ExecutionModel (runCtrl_executes executes_id finishCtrl_fault getCtx_setCtx_same)

namespace Sys2Proof.Proofs.Memories

section
variable {sp : Option Word} {d a : Reg} {b : BitVec 7} {s s1 : State} {c c1 : Ctx}

/-! ## Out of bounds -/

theorem exec_sbld_oob (h : Executes (groupSpec sp false [d.toNat]) s c s1 c1) {trap : Option Word}
    (out : scalarElement s1 c1 a b false .load false = .oob trap) :
    exec (.sbld sp d a b) s = finishCtrl c.id (groupSpec sp false [d.toNat]) c.pc c.pc.toNat
      (outOfBounds (setCtx s1 (c1.setSreg d.toNat 0)) trap) := by
  show execSbld sp d a b s = _
  rw [execSbld, runCtrl_executes h rfl rfl, out]

theorem exec_sbld_bounds (h : Executes (groupSpec sp false [d.toNat]) s c s1 c1) {x : Word}
    (out : scalarElement s1 c1 a b false .load false = .oob (some x)) :
    exec (.sbld sp d a b) s = .next (takeFault (setCtx s1 (c1.setSreg d.toNat 0)) (c1.setSreg d.toNat 0) BOUNDS none false
        c.pc.toNat x) := by
  have same : (c1.setSreg d.toNat 0).id = c.id := (Ctx.setSreg_id ..).trans (executes_id h)
  have own : getCtx s1 (c1.setSreg d.toNat 0).id = some c1 := by rw [same]; exact h.own
  have zero := getCtx_setCtx_same own
  rw [same] at zero
  rw [exec_sbld_oob h out]
  exact finishCtrl_fault zero _ _ _

theorem exec_sbst_oob (h : Executes (groupSpec sp false []) s c s1 c1) {trap : Option Word}
    (out : scalarElement s1 c1 a b true .none false = .oob trap) :
    exec (.sbst sp d a b) s = finishCtrl c.id (groupSpec sp false []) c.pc c.pc.toNat (outOfBounds s1 trap) := by
  show execSbst sp d a b s = _
  rw [execSbst, runCtrl_executes h rfl rfl, out]

/-! ## An element in bounds -/

section
variable {va n : Nat} {g : BitVec 12} {cnt : Bool} {r : Rec}

theorem exec_sbld_held {p : Place} (h : Executes (groupSpec sp false [d.toNat]) s c s1 c1) (held : c1.loadsHeld = true)
    (elem : scalarElement s1 c1 a b false .load false = .at p va g cnt r) : exec (.sbld sp d a b) s = .next s1 := by
  show execSbld sp d a b s = _
  rw [execSbld, runCtrl_executes h rfl rfl, elem]
  simp only [held, if_true]
  rfl

/-- What SBLD ends in once it has the bytes `bs` of its element. -/
def sbldDone (sp : Option Word) (d : Reg) (c c1 : Ctx) (own : List (Option Byte)) (bs : List Byte) (t : State) : State :=
  completed (groupSpec sp false [d.toNat]) c (modCtx t c1.id (fun x => x.setSreg d.toNat (leWord (overlayOwn bs own)))) none

theorem exec_sbld_vault {k : Nat} {bs : List Byte} {t : State} (h : Executes (groupSpec sp false [d.toNat]) s c s1 c1)
    (free : c1.loadsHeld = false) (elem : scalarElement s1 c1 a b false .load false = .at (.here k) va g cnt r)
    (vault : ∃ v off, spaceOf k = .vault v off)
    (read : vaultRead (retireDue s1 c1 c1.loadFence) c1 k (2 ^ r.log2) g (rsbBytes c1 (.here k) (2 ^ r.log2)) = .bytes bs t) :
    exec (.sbld sp d a b) s = .next (sbldDone sp d c c1 (rsbBytes c1 (.here k) (2 ^ r.log2)) bs t) := by
  obtain ⟨v, off, space⟩ := vault
  show execSbld sp d a b s = _
  rw [execSbld, runCtrl_executes h rfl rfl, elem]
  simp only [free, Bool.false_eq_true, if_false, space, read]
  rfl

theorem exec_sbld_l1 {k : Nat} {bs : List Byte} {t : State} (h : Executes (groupSpec sp false [d.toNat]) s c s1 c1)
    (free : c1.loadsHeld = false) (elem : scalarElement s1 c1 a b false .load false = .at (.here k) va g cnt r)
    (space : spaceOf k = .hbm ∨ spaceOf k = .host)
    (read : l1Load (retireDue s1 c1 c1.loadFence) c1 r.asid (r.generation (retireDue s1 c1 c1.loadFence)) k (2 ^ r.log2)
      (rsbBytes c1 (.here k) (2 ^ r.log2)) = .bytes bs t) :
    exec (.sbld sp d a b) s = .next (sbldDone sp d c c1 (rsbBytes c1 (.here k) (2 ^ r.log2)) bs
      (countAccess t (.here k) (cnt && !l1Hit (retireDue s1 c1 c1.loadFence) c1 r.asid (r.generation (retireDue s1 c1 c1.loadFence))
        (.here k) (2 ^ r.log2)))) := by
  show execSbld sp d a b s = _
  rw [execSbld, runCtrl_executes h rfl rfl, elem]
  obtain space | space := space <;>
  · simp only [free, Bool.false_eq_true, if_false, space, read]
    rfl

theorem exec_sbld_peer {dev : BitVec 12} {ad : Nat} (h : Executes (groupSpec sp false [d.toNat]) s c s1 c1)
    (free : c1.loadsHeld = false) (elem : scalarElement s1 c1 a b false .load false = .at (.peer dev ad) va g cnt r)
    {answer : Except State (List Byte × State)} (peer : scalarPeerLoad (retireDue s1 c1 c1.loadFence) c1 dev ad (2 ^ r.log2) r.asid
      (r.generation (retireDue s1 c1 c1.loadFence)) cnt = answer) :
    (∀ t, answer = .error t → exec (.sbld sp d a b) s = .next t) ∧
    (∀ bs t, answer = .ok (bs, t) → exec (.sbld sp d a b) s = .next (sbldDone sp d c c1 (rsbBytes c1 (.peer dev ad) (2 ^ r.log2)) bs
        t)) := by
  have runs : execSbld sp d a b s = exec (.sbld sp d a b) s := rfl
  rw [execSbld, runCtrl_executes h rfl rfl, elem] at runs
  simp only [free, Bool.false_eq_true, if_false, peer] at runs
  rw [← runs]
  refine ⟨fun t waits => ?_, fun bs t answered => ?_⟩
  · rw [waits]
    rfl
  · rw [answered]
    rfl

theorem exec_sbst_at {p : Place} (h : Executes (groupSpec sp false []) s c s1 c1)
    (elem : scalarElement s1 c1 a b true .none false = .at p va g cnt r) :
    exec (.sbst sp d a b) s = finishCtrl c.id (groupSpec sp false []) c.pc c.pc.toNat
      ((bufferStore c1 4 false r.asid (r.generation s1) (elementBytes p va (if g = 0 then none else some g)
        ((wordBytes (c1.sreg d.toNat)).take (2 ^ r.log2)))).elim (.fault s1 REGION 0) (fun c2 => .done (setCtx s1 c2) none)) := by
  show execSbst sp d a b s = _
  rw [execSbst, runCtrl_executes h rfl rfl, elem]
  dsimp only
  congr 1
  split
  · next full => rw [full]; rfl
  · next c2 room => rw [room]; rfl

end

end

/-- Settles O31: the element that the record and address checks leave, by its place. -/
theorem scalarBufferAccess : Obligations.ScalarBufferAccess := by
  unfold Obligations.ScalarBufferAccess
  intro sp d a b s c s1 c1 load store zero
  refine ⟨fun h => ⟨fun out => ?_, fun x out => exec_sbld_bounds h out, fun p va g cnt r elem => ?_⟩,
    fun h => ⟨fun out => ?_, fun x out => ?_, fun p va g cnt r elem => ?_⟩⟩
  · rw [exec_sbld_oob h out]
    rfl
  · intro n own u got
    refine ⟨fun held => exec_sbld_held h held elem, fun free => ⟨?_, ?_, ?_, ?_⟩⟩
    · rintro k bs t rfl vault read
      exact exec_sbld_vault h free elem vault read
    · rintro k bs t rfl space read
      exact exec_sbld_l1 h free elem space read
    · rintro dev ad bs t rfl answer
      exact (exec_sbld_peer h free elem answer).2 bs t rfl
    · rintro dev ad t rfl waits
      exact (exec_sbld_peer h free elem waits).1 t rfl
  · rw [exec_sbst_oob h out]
    rfl
  · rw [exec_sbst_oob h out]
    exact finishCtrl_fault h.own _ _ _
  · intro buffered
    refine ⟨fun c2 room => ⟨?_, onlyContext_setCtx ((bufferStore_id room).trans (executes_id h))⟩, fun full => ?_⟩
    · rw [exec_sbst_at h elem, show bufferStore _ _ _ _ _ _ = _ from room]
      rfl
    · rw [exec_sbst_at h elem, show bufferStore _ _ _ _ _ _ = _ from full]
      exact finishCtrl_fault h.own _ _ _

end Sys2Proof.Proofs.Memories

end

section
/-! PROOFS. Loads through the core's L1 (O32). -/

open Sys2Proof Sys2Proof.Machine
open Sys2Proof.Proofs.ExecutionModel (SendsOnly getCore_setCore_same)
open Sys2Proof.Proofs.Registers (findLine_putLine fillLine_sendsOnly l1Fill_keeps cacheTouch_onlyCache)

namespace Sys2Proof.Proofs.Memories

/-! ## The copy serves the load -/

theorem copyOf_found {s : State} {k : Nat} {asid mg : BitVec 16} {line : Place} {x : Line}
    (found : findLine (getCore s k) asid mg line = some x) : copyOf s k asid mg line = x := by rw [copyOf, found]; rfl

/-- A line without uncorrectable granules gives its bytes. -/
theorem copyBytes_sound {x : Line} (sound : x.bad = 0) (p : Place) (n : Nat) (own : List (Option Byte)) (s : State) :
    copyBytes x p n own s = .bytes (lineBytes x p.offset n) s := by
  rw [copyBytes, if_neg]
  simp [sound]

/-- What a load answers with comes in the state that it was given. -/
theorem copyBytes_state {x : Line} {p : Place} {n : Nat} {own : List (Option Byte)} {s t : State} {bs : List Byte}
    (h : copyBytes x p n own s = .bytes bs t) : t = s := by
  unfold copyBytes at h
  split at h
  · cases h
  · exact (Got.bytes.inj h).2.symm

theorem l1Hit_iff {s : State} {c : Ctx} {asid mg : BitVec 16} {k n : Nat} {x : Line}
    (found : findLine (getCore s c.core) asid mg (.here (lineOf k)) = some x) :
    l1Hit s c asid mg (.here k) n = true ↔ dieTime s c.die < x.leaseEnd ∨ ∀ i, i < n → x.dirty.getLsbD (k % 128 + i) = true := by
  have copy : copyOf s c.core asid mg (Place.here k).line = x := copyOf_found found
  rw [l1Hit, copy]
  simp only [Bool.or_eq_true, decide_eq_true_eq, List.all_eq_true, List.mem_range]
  rfl

theorem l1Load_hit {s : State} {c : Ctx} {asid mg : BitVec 16} {k n : Nat} (own : List (Option Byte)) {x : Line}
    (found : findLine (getCore s c.core) asid mg (.here (lineOf k)) = some x) (sound : x.bad = 0)
    (serves : dieTime s c.die < x.leaseEnd ∨ ∀ i, i < n → x.dirty.getLsbD (k % 128 + i) = true) :
    l1Load s c asid mg k n own = .bytes ((List.range n).map (fun i => sget 0 x.bytes (k % 128 + i))) s := by
  rw [l1Load, if_pos ((l1Hit_iff found).2 serves), copyOf_found found, copyBytes_sound sound]
  rfl

/-! ## The home serves the load -/

/-- A line whose home holds back no read of the core. -/
theorem homeHeld_false {s : State} {c : Ctx} {line : Place} (free : homeHeld s c line = false) :
    homeBusy s line = false ∧ ∀ w ∈ s.homeQ, w.line = line → w.arrived = false ∧ (w.core = some c.core → w.op ≠ none) := by
  obtain ⟨idle, way⟩ : homeBusy s line = false ∧ onWay s (some c.core) line = false := by
    simpa [homeHeld, readHeld] using free
  refine ⟨idle, fun w hw same => ?_⟩
  have arrived : w.arrived = false := by
    have := List.any_eq_false.1 idle w hw
    simpa [same] using this
  refine ⟨arrived, fun core none => ?_⟩
  have := List.any_eq_false.1 (Bool.or_eq_false_iff.1 way).1 w hw
  simp [arrived, same, core, none] at this

/-- A load that the copy does not serve and that answers came from the home, with a new lease. -/
theorem l1Load_miss {s t : State} {c : Ctx} {asid mg : BitVec 16} {k n : Nat} {own : List (Option Byte)} {bs : List Byte}
    (miss : l1Hit s c asid mg (.here k) n = false) (answers : l1Load s c asid mg k n own = .bytes bs t) :
    homeHeld s c (.here (lineOf k)) = false ∧ t = l1Fill s c.core c.die (leaseOf s c) asid mg (lineOf k) := by
  rw [l1Load, miss, if_neg (by decide)] at answers
  dsimp only at answers
  split at answers
  · cases answers
  · next free => exact ⟨by simpa using free, copyBytes_state answers⟩

/-! ### The fill -/

/-- With room for its lines a core drops none. -/
theorem trimLines_room {s : State} {k : Nat} (room : (getCore s k).lines.length ≤ 2 * l1Rows (getCore s k)) (n : Nat) :
    trimLines s k n = s := by
  cases n with
  | zero => rfl
  | succ n =>
    rw [trimLines]
    exact if_pos room

theorem length_putLine (c : Core) (x : Line) : (putLine c x).lines.length ≤ c.lines.length + 1 :=
  Nat.succ_le_succ (List.length_filter_le ..)

/-- The line of a space and generation, or an empty one. -/
theorem lineOrEmpty_key (c : Core) (asid mg : BitVec 16) (line : Place) :
    let x := (findLine c asid mg line).getD (emptyLine asid mg line)
    x.line = line ∧ x.asid = asid ∧ x.mapgen = mg := by
  cases found : findLine c asid mg line with
  | none => exact ⟨rfl, rfl, rfl⟩
  | some x =>
    have key := List.find?_some found
    simp only [Bool.and_eq_true, decide_eq_true_eq] at key
    exact ⟨key.1.1, key.1.2, key.2⟩

/-- The line that a fill puts has the key and the end of its lease; with room for one more it stays. -/
theorem fillLine_holds {s : State} {k : Nat} (hk : k < s.cores.length) (asid mg : BitVec 16) (line : Place) (home : Sparse Byte)
    (bad : BitVec 2) (leaseEnd : Nat) (room : (getCore s k).lines.length < 2 * l1Rows (getCore s k)) :
    ∃ y, findLine (getCore (fillLine s k asid mg line home bad leaseEnd) k) asid mg line = some y ∧ y.leaseEnd = leaseEnd := by
  obtain ⟨x, hx⟩ : ∃ x : Line, fillLine s k asid mg line home bad leaseEnd = trimLines (setCore s k (putLine (getCore s k) x)) k 1 ∧
      x.leaseEnd = leaseEnd ∧ x.line = line ∧ x.asid = asid ∧ x.mapgen = mg :=
    ⟨_, rfl, rfl, lineOrEmpty_key (getCore s k) asid mg line⟩
  obtain ⟨fills, lease, key⟩ := hx
  have put : getCore (setCore s k (putLine (getCore s k) x)) k = putLine (getCore s k) x := getCore_setCore_same hk _
  have fits : (putLine (getCore s k) x).lines.length ≤ 2 * l1Rows (putLine (getCore s k) x) :=
    (length_putLine (getCore s k) x).trans room
  rw [fills, trimLines_room (by rw [put]; exact fits), put]
  exact ⟨x, (findLine_putLine ..).trans (if_pos key), lease⟩

theorem sendsOnly_horizons {s t : State} (h : SendsOnly s t) : t.horizons = s.horizons := by rw [h]

theorem l1Fill_horizon {s : State} {k : Nat} {die : BitVec 1} {lease : Nat} {asid mg : BitVec 16} {l : Nat}
    (wf : sparseWf 0 s.horizons = true) :
    dieTime s die + 2 ^ lease ≤ sget 0 (l1Fill s k die lease asid mg l).horizons l := by
  have kept : sparseWf 0 (fillLine s k asid mg (.here l) (homeLine s l) (homeBad s l) (dieTime s die + 2 ^ lease)).horizons = true := by
    rw [sendsOnly_horizons (fillLine_sendsOnly ..)]
    exact wf
  unfold l1Fill
  dsimp only
  rw [cacheTouch_onlyCache]
  exact (Nat.le_max_left ..).trans (sget_sput_same _ _ _ _ kept).ge

theorem l1Fill_holds {s : State} {k : Nat} (hk : k < s.cores.length) (die : BitVec 1) (lease : Nat) (asid mg : BitVec 16) (l : Nat)
    (room : (getCore s k).lines.length < 2 * l1Rows (getCore s k)) :
    ∃ y, findLine (getCore (l1Fill s k die lease asid mg l) k) asid mg (.here l) = some y ∧ y.leaseEnd = dieTime s die + 2 ^ lease := by
  unfold l1Fill
  dsimp only
  rw [cacheTouch_onlyCache]
  exact fillLine_holds hk asid mg (.here l) _ _ _ room

/-- Settles O32: a hit by the copy, a miss by the fill at the home. -/
theorem loadsHitTheCopy : Obligations.LoadsHitTheCopy := by
  unfold Obligations.LoadsHitTheCopy
  refine fun s c asid mg k n own x => ⟨l1Load_hit own, fun bs t miss answers hk wf => ?_⟩
  obtain ⟨free, rfl⟩ := l1Load_miss miss answers
  obtain ⟨idle, way⟩ := homeHeld_false free
  exact ⟨idle, way, l1Fill_holds hk _ _ _ _ _, l1Fill_horizon wf, (l1Fill_keeps ..).1⟩

end Sys2Proof.Proofs.Memories

end

section
/-! PROOFS. The issue of the four engine instructions, and the retirement of their classes (O40). -/

open Sys2Proof Sys2Proof.Machine
open Sys2Proof.Proofs.ExecutionModel (runCtrl_executes finishCtrl_done finishCtrl_wait finishCtrl_fault modCtx_eq getCtx_setCtx_same
  setCtx_setCtx setCtx_self)

namespace Sys2Proof.Proofs.Memories

/-! ## The operation that an engine instruction forms -/

/-- What the checks of R228 leave of an operation that forms: the fields fixed at issue, the descriptor checks passed, and for a
WBLOAD a positive number of whole slots. -/
structure FormedOp (s : State) (c : Ctx) (k : EngKind) (o : EngOp) : Prop where
  id : o.id = s.nextId
  ctx : o.ctx = c.id
  core : o.core = c.core
  cls : o.cls = k.cls
  nbv : o.nbv = c.nbv
  gens : o.gens = ctxGens s c
  opcode : o.opcode = k.opcode
  desc : descBad k o.desc = false
  stage : o.stage = if (parseDesc o.desc).count = 0 then .complete else .queued
  slots : k = .wbload → (parseDesc o.desc).count * (parseDesc o.desc).size ≠ 0 ∧ (parseDesc o.desc).count * (parseDesc o.desc).size
      % 1024 = 0

theorem formOp_ok {s : State} {c : Ctx} {k : EngKind} {d a b : Reg} {o : EngOp} (h : formOp s c k d a b = .ok o) :
    FormedOp s c k o := by
  unfold formOp at h
  split at h
  · exact nomatch h
  next ws _ =>
    dsimp only at h
    split at h
    · exact nomatch h
    · split at h
      · exact nomatch h
      next passes =>
        split at h
        · exact nomatch h
        · split at h
          · exact nomatch h
          · split at h
            · exact nomatch h
            · exact nomatch h
            · obtain rfl := Except.ok.inj h
              simp only [Bool.or_eq_true, not_or, Bool.not_eq_true] at passes
              obtain ⟨⟨⟨desc, _⟩, _⟩, whole⟩ := passes
              exact ⟨rfl, rfl, rfl, rfl, rfl, rfl, rfl, desc, rfl, fun hk => by simpa [hk] using whole⟩

theorem FormedOp.complete_iff {s : State} {c : Ctx} {k : EngKind} {o : EngOp} (h : FormedOp s c k o) :
    o.stage = .complete ↔ (parseDesc o.desc).count = 0 := by
  rw [h.stage]
  split <;> simp_all

/-! ## Its issue -/

/-- An engine instruction as the checks of R189 see it (R228). -/
def engineSpec (sp : Option Word) : CtrlSpec := { groupSpec sp false [] with must := true, single := true }

/-- The weight slots that an operation loads. -/
def loadedSlots (o : EngOp) : List Nat := (List.range ((parseDesc o.desc).count * (parseDesc o.desc).size / 1024)).map (o.wslot + ·)

/-- The core's slots as an operation issues. -/
def slotsFreed (s : State) (c : Ctx) (k : EngKind) (o : EngOp) : State :=
  if k = .wbload then setCore s c.core (slotsNamed (getCore s c.core) (loadedSlots o)) else s

/-- The operation enters its class's queue and its context's counter. -/
def enterOp (s t : State) (c : Ctx) (k : EngKind) (o : EngOp) : State :=
  { setCtx t { c with engines := c.engines ++ [(k.cls, o.id)] } with ops := s.ops ++ [o], nextId := s.nextId + 1 }

/-- An operation that has formed cannot enter its class now. -/
def engineStalls (s : State) (c : Ctx) (k : EngKind) (o : EngOp) : Bool :=
  (opSpaces o).any (fun x => s.changing.contains x) || 63 ≤ c.engineCount k.cls || queueFull s c.core k.cls

theorem loadedSlots_isEmpty {s : State} {c : Ctx} {k : EngKind} {o : EngOp} (h : FormedOp s c k o) (hk : k = .wbload) :
    (loadedSlots o).isEmpty = false := by
  obtain ⟨some_, whole⟩ := h.slots hk
  have : (parseDesc o.desc).count * (parseDesc o.desc).size / 1024 ≠ 0 := by omega
  simpa [loadedSlots, List.isEmpty_eq_false_iff] using this

theorem engineStalls_iff (s : State) (c : Ctx) (k : EngKind) (o : EngOp) :
    engineStalls s c k o = true ↔ 63 ≤ c.engineCount k.cls ∨ (∃ x ∈ opSpaces o, x ∈ s.changing) ∨
      256 ≤ (s.ops.filter (fun x => x.core = c.core && x.cls = k.cls && x.stage = .queued)).length := by
  simp only [engineStalls, queueFull, Bool.or_eq_true, List.any_eq_true, List.contains_iff_mem, decide_eq_true_eq]
  exact ⟨fun h => h.elim (fun h => h.elim (fun h => .inr (.inl h)) .inl) fun h => .inr (.inr h),
    fun h => h.elim (fun h => .inl (.inr h)) fun h => h.elim (fun h => .inl (.inl h)) .inr⟩

/-- An engine instruction's own effect. -/
def issueEffect (k : EngKind) (d a b : Reg) (s : State) (c : Ctx) : Act :=
  match formOp s c k d a b with
  | .error (code, addr) => .fault s code addr
  | .ok o =>
    if engineStalls s c k o then .wait s else .done (retireOps (enterOp s (slotsFreed s c k o) c k o) c.id k.cls 63) none

theorem slotsFreed_eq {s : State} {c : Ctx} {k : EngKind} {o : EngOp} (h : FormedOp s c k o) :
    (if (if k = .wbload then loadedSlots o else []).isEmpty then s
      else setCore s c.core (slotsNamed (getCore s c.core) (if k = .wbload then loadedSlots o else []))) = slotsFreed s c k o := by
  by_cases hk : k = .wbload
  · rw [slotsFreed, if_pos hk, if_pos hk, loadedSlots_isEmpty h hk]
    rfl
  · rw [slotsFreed, if_neg hk, if_neg hk]
    rfl

theorem enterOp_eq {s t : State} {c : Ctx} {k : EngKind} {o : EngOp} (ht : t = slotsFreed s c k o) :
    ({ setCtx t { c with engines := c.engines ++ [(k.cls, o.id)] } with ops := t.ops ++ [o], nextId := t.nextId + 1 } : State) =
      enterOp s (slotsFreed s c k o) c k o := by
  rw [ht, slotsFreed]
  split <;> rfl

theorem exec_engineInstr (k : EngKind) (sp : Option Word) (d a b : Reg) (s : State) :
    exec (engineInstr k sp d a b) s = runCtrl (engineSpec sp) (fun _ _ => false) (issueEffect k d a b) s := by
  have runs : exec (engineInstr k sp d a b) s = issueOp k sp d a b s := by cases k <;> rfl
  rw [runs, issueOp]
  congr 1
  funext s c
  rw [issueEffect]
  cases forms : formOp s c k d a b with
  | error f => rfl
  | ok o =>
    refine ite_congr rfl (fun _ => rfl) fun _ => ?_
    rw [← enterOp_eq (slotsFreed_eq (formOp_ok forms))]
    rfl

section
variable {k : EngKind} {sp : Option Word} {d a b : Reg} {s s1 : State} {c c1 : Ctx} {o : EngOp}

theorem exec_engineInstr_executes (h : Executes (engineSpec sp) s c s1 c1) :
    exec (engineInstr k sp d a b) s = finishCtrl c.id (engineSpec sp) c.pc c.pc.toNat (issueEffect k d a b s1 c1) := by
  rw [exec_engineInstr, runCtrl_executes h rfl rfl]

theorem exec_engineInstr_fault (h : Executes (engineSpec sp) s c s1 c1) {code : Nat} {addr : Word}
    (bad : formOp s1 c1 k d a b = .error (code, addr)) :
    exec (engineInstr k sp d a b) s = .next (takeFault s1 c1 code none false c.pc.toNat addr) := by
  rw [exec_engineInstr_executes h, issueEffect, bad]
  exact finishCtrl_fault h.own _ _ _

theorem exec_engineInstr_stalls (h : Executes (engineSpec sp) s c s1 c1) (forms : formOp s1 c1 k d a b = .ok o)
    (stalls : engineStalls s1 c1 k o = true) :
    exec (engineInstr k sp d a b) s = .next s1 := by
  rw [exec_engineInstr_executes h, issueEffect, forms]
  exact congrArg _ (if_pos stalls)

theorem exec_engineInstr_enters (h : Executes (engineSpec sp) s c s1 c1) (forms : formOp s1 c1 k d a b = .ok o)
    (room : ¬ engineStalls s1 c1 k o = true) :
    exec (engineInstr k sp d a b) s =
      .next (completed (engineSpec sp) c (retireOps (enterOp s1 (slotsFreed s1 c1 k o) c1 k o) c1.id k.cls 63) none) := by
  rw [exec_engineInstr_executes h, issueEffect, forms]
  exact congrArg _ (if_neg room)

end

/-! ## Retirement (R144) -/

/-- An operation of the class counter that is complete, or has gone. -/
def opDone (s : State) (o : Nat) : Bool := (getOp s o).elim true (fun x => x.stage = .complete)

/-- The operations of a class, in issue order. -/
def classOps (c : Ctx) (cls : BitVec 2) : List Nat := (c.engines.filter (fun e => e.1 = cls)).map Prod.snd

section
variable {s : State} {c : Ctx} {cls : BitVec 2}

/-- The context without the operations of a set. -/
def Ctx.forgets (c : Ctx) (gone : List Nat) : Ctx := { c with engines := c.engines.filter (fun e => !gone.contains e.2) }

/-- The state in which a set of operations has left the context and the operations of the chip. -/
def withoutOps (s : State) (c : Ctx) (gone : List Nat) : State :=
  { setCtx s (Ctx.forgets c gone) with ops := s.ops.filter (fun o => !gone.contains o.id) }

theorem getCtx_withoutOps (h : getCtx s c.id = some c) (gone : List Nat) :
    getCtx (withoutOps s c gone) c.id = some (Ctx.forgets c gone) :=
  getCtx_setCtx_same (c := Ctx.forgets c gone) h

theorem getOp_withoutOps {gone : List Nat} {o : Nat} (stays : o ∉ gone) : getOp (withoutOps s c gone) o = getOp s o := by
  simp only [getOp, withoutOps, List.find?_filter]
  congr 1
  funext x
  by_cases hx : x.id = o
  · simp [hx, stays]
  · simp [hx]

theorem opDone_withoutOps {gone : List Nat} {o : Nat} (stays : o ∉ gone) : opDone (withoutOps s c gone) o = opDone s o := by
  rw [opDone, getOp_withoutOps stays, opDone]

theorem withoutOps_congr {g g' : List Nat} (same : ∀ x, x ∈ g ↔ x ∈ g') : withoutOps s c g = withoutOps s c g' := by
  have tests (x : Nat) : g.contains x = g'.contains x := by
    rw [Bool.eq_iff_iff, List.contains_iff_mem, List.contains_iff_mem, same]
  simp only [withoutOps, Ctx.forgets, tests]

theorem withoutOps_nil (h : getCtx s c.id = some c) : withoutOps s c [] = s := by
  have own : Ctx.forgets c [] = c := by simp [Ctx.forgets]
  have ops : s.ops.filter (fun o => !([] : List Nat).contains o.id) = s.ops := by simp
  rw [withoutOps, own, setCtx_self h, ops]

theorem withoutOps_withoutOps (o : Nat) (gone : List Nat) :
    withoutOps (withoutOps s c [o]) (Ctx.forgets c [o]) gone = withoutOps s c (o :: gone) := by
  have tests (x : Nat) : (!gone.contains x && !([o].contains x)) = !(o :: gone).contains x := by
    rw [List.contains_cons, List.contains_cons, List.contains_nil, Bool.or_false, Bool.not_or, Bool.and_comm]
  have twice : Ctx.forgets (Ctx.forgets c [o]) gone = Ctx.forgets c (o :: gone) := by
    simp only [Ctx.forgets, List.filter_filter, tests]
  have ops : (s.ops.filter (fun x => !([o].contains x.id))).filter (fun x => !gone.contains x.id) =
      s.ops.filter (fun x => !(o :: gone).contains x.id) := by
    simp only [List.filter_filter, tests]
  have ctxs := setCtx_setCtx s (c := Ctx.forgets c [o]) (d := Ctx.forgets c (o :: gone)) rfl
  rw [withoutOps, withoutOps, twice, withoutOps, ← ops, ← ctxs]
  rfl

theorem classOps_forgets (gone : List Nat) :
    classOps (Ctx.forgets c gone) cls = (classOps c cls).filter (fun o => !gone.contains o) := by
  simp [classOps, Ctx.forgets, List.filter_map, List.filter_filter, Bool.and_comm, Function.comp_def]

/-- The oldest operation of a class, where it is complete, leaves; where the class has none, or that one is not complete, nothing
changes. -/
theorem retireOps_succ (h : getCtx s c.id = some c) (n : Nat) :
    retireOps s c.id cls (n + 1) = match classOps c cls with
      | [] => s
      | o :: _ => if opDone s o then retireOps (withoutOps s c [o]) c.id cls n else s := by
  have drops (o : Nat) : dropOp (setCtx s { c with engines := c.engines.filter (fun e => e.2 ≠ o) }) o = withoutOps s c [o] := by
    have test (x : Nat) : (!([o].contains x)) = decide (x ≠ o) := by simp
    simp only [withoutOps, Ctx.forgets, test]
    rfl
  have head : (c.engines.find? (fun e => e.1 = cls)).map Prod.snd = (classOps c cls).head? := by
    simp [classOps]
  rw [retireOps, h, Option.bind_some]
  cases ids : classOps c cls with
  | nil =>
    rw [ids, List.head?_nil, Option.map_eq_none_iff] at head
    rw [head]
  | cons o os =>
    rw [ids, List.head?_cons, Option.map_eq_some_iff] at head
    obtain ⟨e, first, rfl⟩ := head
    rw [first]
    exact ite_congr rfl (fun _ => congrArg (retireOps · c.id cls n) ((congrArg (dropOp · e.2) (modCtx_eq h _)).trans (drops e.2)))
        fun _ => rfl

theorem takeWhile_congr_mem {p q : Nat → Bool} {os : List Nat} (same : ∀ x ∈ os, p x = q x) : os.takeWhile p = os.takeWhile q := by
  induction os with
  | nil => rfl
  | cons a r ih =>
    rw [List.takeWhile_cons, List.takeWhile_cons, same a List.mem_cons_self, ih fun x hx => same x (List.mem_cons_of_mem a hx)]

theorem mem_takeWhile_filter_ne {p : Nat → Bool} {o : Nat} (ho : p o = true) (os : List Nat) (x : Nat) :
    x ∈ o :: (os.filter (· ≠ o)).takeWhile p ↔ x ∈ o :: os.takeWhile p := by
  induction os with
  | nil => rfl
  | cons a r ih =>
    by_cases ha : a = o
    · subst ha
      simpa [ho] using ih
    · by_cases hp : p a = true
      · simp only [List.mem_cons, ne_eq] at ih
        simp only [List.filter_cons, decide_true, ne_eq, ha, not_false_eq_true, if_true, List.takeWhile_cons, hp, List.mem_cons]
        tauto
      · simp [ha, hp]

theorem retireOps_eq (n : Nat) (h : getCtx s c.id = some c) (few : (classOps c cls).length ≤ n) :
    retireOps s c.id cls n = withoutOps s c ((classOps c cls).takeWhile (opDone s)) := by
  induction n generalizing s c with
  | zero =>
    rw [List.length_eq_zero_iff.mp (Nat.le_zero.mp few)]
    exact (withoutOps_nil h).symm
  | succ n ih =>
    rw [retireOps_succ h]
    cases ids : classOps c cls with
    | nil => exact (withoutOps_nil h).symm
    | cons o os =>
      by_cases complete : opDone s o = true
      · have rest : classOps (Ctx.forgets c [o]) cls = os.filter (· ≠ o) := by
          rw [classOps_forgets, ids]
          simp
        have shorter : (classOps (Ctx.forgets c [o]) cls).length ≤ n := by
          rw [ids, List.length_cons] at few
          rw [rest]
          exact (List.length_filter_le _ _).trans (Nat.le_of_succ_le_succ few)
        have alike : (os.filter (· ≠ o)).takeWhile (opDone (withoutOps s c [o])) = (os.filter (· ≠ o)).takeWhile (opDone s) :=
          takeWhile_congr_mem fun x hx => opDone_withoutOps (by simpa using (List.mem_filter.mp hx).2)
        dsimp only
        rw [if_pos complete, List.takeWhile_cons_of_pos complete]
        calc retireOps (withoutOps s c [o]) c.id cls n
            = withoutOps (withoutOps s c [o]) (Ctx.forgets c [o]) ((classOps (Ctx.forgets c [o]) cls).takeWhile
                (opDone (withoutOps s c [o]))) :=
              ih (getCtx_withoutOps h [o]) shorter
          _ = withoutOps s c (o :: (os.filter (· ≠ o)).takeWhile (opDone s)) := by rw [withoutOps_withoutOps, rest, alike]
          _ = withoutOps s c (o :: os.takeWhile (opDone s)) := withoutOps_congr (mem_takeWhile_filter_ne complete os)
      · dsimp only
        rw [if_neg complete, List.takeWhile_cons_of_neg complete, withoutOps_nil h]

end

/-- Settles O40: an instruction's effect is decided by what forms, and a retirement is the leading complete run of its class. -/
theorem engineIssue : Obligations.EngineIssue := by
  unfold Obligations.EngineIssue
  refine ⟨?_, ?_, ?_⟩
  · intro k sp d a b s c s1 c1 spec h
    refine ⟨fun code addr bad => exec_engineInstr_fault h bad, fun o forms => ?_⟩
    refine ⟨fun stalls => exec_engineInstr_stalls h forms ((engineStalls_iff s1 c1 k o).mpr stalls), fun room => ?_⟩
    exact exec_engineInstr_enters h forms fun stalls => room ((engineStalls_iff s1 c1 k o).mp stalls)
  · intro s c k d a b o forms
    have formed := formOp_ok forms
    exact ⟨formed.id, formed.ctx, formed.core, formed.cls, formed.nbv, formed.gens, formed.opcode, formed.desc, formed.complete_iff⟩
  · intro s c cls h few
    have short : (classOps c (BitVec.ofNat 2 cls)).length ≤ 63 := by
      rw [classOps, List.length_map]
      exact few
    have runs : exec (.engineRetire c.id cls) s = .next _ := congrArg Host.Outcome.next (retireOps_eq 63 h short)
    exact ⟨_, runs, rfl, rfl, getCtx_withoutOps h _, fun o stays => getOp_withoutOps stays⟩

end Sys2Proof.Proofs.Memories
end

section
/-! PROOFS. A change of an address space cancels the first of two contexts of one identity (O51). -/

open Sys2Proof Sys2Proof.Machine

namespace Sys2Proof.Proofs.Memories

/-- A group that has buffered the byte 1 at address 0 of space 0. -/
def bufferingGroup : Ctx := { newCtx 1 1 9 (some 2) 0 2 1 with rsb := [⟨.here 0, 0, [(0, 1)], 4, false, 0, 1, none, 0⟩] }

/-- Two contexts of identity 9 that are that group, with space 0 marked as changing; the cores take no part, and are left out. -/
def sharedIdentity : State := { State.reset with ctxs := [bufferingGroup, bufferingGroup], changing := [0], cores := [] }

/-- The change of space 0 in it takes effect. -/
def sharedChanged : State := finishChange (writeEntries sharedIdentity []) 0 0

/-- Nothing translated under the space's generation is under way, and no line is dirty, so the change is due. -/
theorem sharedIdentity_due : powered sharedIdentity = true ∧ 0 ∈ sharedIdentity.changing ∧ spaceQuiet sharedIdentity 0 = true ∧
    dirtyLines sharedIdentity 0 = [] := by decide

/-- The second context is not cancelled: each cancellation replaces the first context of the identity. -/
theorem sharedChanged_buffers : sharedChanged.ctxs.any (fun c => c.buffers 0 && c.mode = .run) = true := by decide

/-- Refutes O51: a state may hold two contexts of one identity. In `sharedIdentity` both hold a store of space 0; the change cancels
the first of them twice, and the second runs on with its store. -/
theorem not_spacesAndReplays : ¬ Obligations.SpacesAndReplays := by
  intro ⟨⟨change, _⟩, _⟩
  obtain ⟨power, marked, quiet, clean⟩ := sharedIdentity_due
  obtain ⟨_, _, cancelled, _⟩ := (change 0 0 [] sharedIdentity power).2.2.2 marked quiet clean sharedChanged rfl
  obtain ⟨c, mem, runs⟩ := List.any_eq_true.mp sharedChanged_buffers
  obtain ⟨buffers, running⟩ := Bool.and_eq_true_iff.mp runs
  rcases cancelled c mem with clear | mode | mode | mode
  · exact absurd (buffers.symm.trans clear) (by decide)
  all_goals exact absurd (mode.symm.trans (of_decide_eq_true running)) (by decide)

end Sys2Proof.Proofs.Memories
end

section
/-! PROOFS. Integer mode of the matrix array is exact: the channel sums of the residues determine a sum of products (O49). -/

open Sys2Proof Sys2Proof.Machine

namespace Sys2Proof.Proofs.Memories

/-! ## Bounds of the products (R265, R297, R298) -/

theorem abs_rnsVal_le (b : Byte) : |rnsVal b| ≤ 127 := by
  have low := BitVec.le_toInt b
  have high := BitVec.toInt_lt (x := b)
  unfold rnsVal
  split
  · decide
  next ne =>
    have : b.toInt ≠ -128 := fun h => ne (BitVec.eq_of_toInt_eq h)
    rw [abs_le]
    omega

theorem abs_nibbleAt_le (bs : List Byte) (base h : Nat) : |nibbleAt bs base h| ≤ 8 := by
  have small : (bs.getD (base + h / 2) 0).toNat < 256 := (bs.getD (base + h / 2) 0).isLt
  have bound (n : Nat) (hn : n < 16) : |signedOf 4 n| ≤ 8 := by
    rw [abs_le, signedOf]
    split <;> omega
  exact bound _ (by split <;> omega)

theorem abs_nibble_shift_le (bs : List Byte) (base h : Nat) (b : Byte) : |nibbleAt bs base h * shiftOf b| ≤ 128 := by
  have shift : |shiftOf b| ≤ 16 := by
    have : (2 : Int) ^ min 4 (b.toNat % 8) ≤ 2 ^ 4 := pow_le_pow_right₀ (by decide) (Nat.min_le_left _ _)
    rw [shiftOf, abs_of_nonneg (by positivity)]
    exact this
  rw [abs_mul]
  exact mul_le_mul (abs_nibbleAt_le bs base h) shift (abs_nonneg _) (by decide)

theorem abs_sparseAt_le {m : Int} (hm : 0 ≤ m) (idx k : Nat) {v : Nat → Nat → Int} (hv : ∀ g t, |v g t| ≤ m) :
    |sparseAt idx k v| ≤ m := by
  unfold sparseAt
  dsimp only
  split
  · exact hv _ _
  · split
    · exact hv _ _
    · simpa using hm

theorem abs_bRns_le (comp : Nat) (bs : List Byte) (k c : Nat) : |bRns comp bs k c| ≤ 128 := by
  have dense (b : Byte) : |rnsVal b| ≤ 128 := (abs_rnsVal_le b).trans (by decide)
  unfold bRns
  split
  · exact dense _
  · exact abs_sparseAt_le (by decide) _ _ fun _ _ => dense _
  · exact abs_nibble_shift_le _ _ _ _
  · exact abs_sparseAt_le (by decide) _ _ fun _ _ => abs_nibble_shift_le _ _ _ _

theorem abs_rnsSum_le (row : List Byte) (comp : Nat) (b : List Byte) (c n : Nat) : |rnsSum row comp b c 0 n| ≤ n * 16256 := by
  unfold rnsSum
  induction n with
  | zero => simp
  | succ n ih =>
    rw [List.range_succ, List.foldl_append, List.foldl_cons, List.foldl_nil]
    have product : |rnsVal (row.getD (0 + n) 0) * bRns comp b (0 + n) c| ≤ 127 * 128 := by
      rw [abs_mul]
      exact mul_le_mul (abs_rnsVal_le _) (abs_bRns_le _ _ _ _) (abs_nonneg _) (by decide)
    have split : ((n + 1 : Nat) : Int) * 16256 = n * 16256 + 127 * 128 := by
      push_cast
      ring
    rw [split]
    exact (abs_add_le _ _).trans (add_le_add ih product)

/-- The exact sum of an operation's products for an element. -/
def exactSum (op : MatOp) (r c : Nat) : Int := rnsSum (op.arows.getD r []) (pairB op.pair).comp op.bbytes c 0 64

theorem exactSum_bounds (op : MatOp) (r c : Nat) : -1040384 ≤ exactSum op r c ∧ exactSum op r c ≤ 1040384 :=
  abs_le.mp (abs_rnsSum_le _ _ _ _ 64)

/-! ## Residues (R271, R272) -/

/-- The channel sums of two residue triples. -/
def channelSum (x y : Nat × Nat × Nat) : Nat × Nat × Nat := ((x.1 + y.1) % 255, (x.2.1 + y.2.1) % 256, (x.2.2 + y.2.2) % 257)

theorem channelSum_residues (z w : Int) : channelSum (residues z) (residues w) = residues (z + w) := by
  simp only [channelSum, residues, Prod.mk.injEq]
  refine ⟨?_, ?_, ?_⟩ <;> omega

/-- The combination of three channels is congruent to their number modulo the product of the moduli. -/
theorem crt_sum_mod (z : Int) :
    (z % 255 * 65792 * 128 + z % 256 * 65535 * 255 + z % 257 * 65280 * 129) % 16776960 = z % 16776960 := by
  omega

/-- The three channels determine an integer of less than half their product in size. -/
theorem crt_residues {z : Int} (low : -8388480 ≤ z) (high : z < 8388480) : crt (residues z) = z := by
  have combined : (((z % 255).toNat * 65792 * 128 + (z % 256).toNat * 65535 * 255 + (z % 257).toNat * 65280 * 129) % 16776960 : Nat) =
      z % 16776960 := by
    rw [← crt_sum_mod z]
    push_cast
    rw [Int.toNat_of_nonneg (by omega), Int.toNat_of_nonneg (by omega), Int.toNat_of_nonneg (by omega)]
  unfold crt residues
  dsimp only
  generalize ((z % 255).toNat * 65792 * 128 + (z % 256).toNat * 65535 * 255 + (z % 257).toNat * 65280 * 129) %
    16776960 = x at combined ⊢
  split <;> omega

theorem readResidues_residueWord_of_lt {a b c : Nat} (ha : a < 255) (hb : b < 256) (hc : c < 257) :
    readResidues (residueWord (a, b, c)) = (a, b, c) := by
  have word : (BitVec.ofNat 32 (c * 2 ^ 16 + a * 2 ^ 8 + b)).toNat = c * 65536 + a * 256 + b := by
    rw [BitVec.toNat_ofNat]
    omega
  simp only [readResidues, residueWord, bits, word, Prod.mk.injEq]
  refine ⟨?_, ?_, ?_⟩ <;> omega

theorem readResidues_residueWord (z : Int) : readResidues (residueWord (residues z)) = residues z :=
  readResidues_residueWord_of_lt (by omega) (by omega) (by omega)

/-! ## A step of an element (R275) -/

theorem integerStep_eq (op : MatOp) (opened : Bool) (r c : Nat) (old : Word) :
    integerStep op opened r c old =
      let sum := channelSum (residues (exactSum op r c)) (if opened then readResidues old else residues 0)
      if !op.close then residueWord sum
      else if opened then BitVec.ofInt 32 (crt sum)
      else BitVec.ofInt 32 (clampInt (-2 ^ 31) (2 ^ 31 - 1) (old.toInt + crt sum)) := rfl

theorem integerStep_opening (op : MatOp) (r c : Nat) (old : Word) (opening : op.close = false) :
    integerStep op false r c old = residueWord (residues (exactSum op r c)) := by
  simp [integerStep_eq, channelSum_residues, opening]

theorem integerStep_closing_closed (op : MatOp) (r c : Nat) (old : Word) (closing : op.close = true) :
    integerStep op false r c old = BitVec.ofInt 32 (max (-2 ^ 31) (min (2 ^ 31 - 1) (old.toInt + exactSum op r c))) := by
  obtain ⟨low, high⟩ := exactSum_bounds op r c
  simp [integerStep_eq, channelSum_residues, closing, clampInt, crt_residues (by omega : -8388480 ≤ exactSum op r c) (by omega)]

/-- An opening operation's word holds its sum's residues, and the closing operation's sum joins them. -/
theorem integerStep_closing_opened (x y : MatOp) (r c : Nat) (old : Word) (opening : x.close = false) (closing : y.close = true) :
    (integerStep y true r c (integerStep x false r c old)).toInt = exactSum x r c + exactSum y r c := by
  obtain ⟨xlow, xhigh⟩ := exactSum_bounds x r c
  obtain ⟨ylow, yhigh⟩ := exactSum_bounds y r c
  rw [integerStep_opening x r c old opening, integerStep_eq]
  simp only [closing, Bool.not_true, Bool.false_eq_true, if_false, if_true, readResidues_residueWord, channelSum_residues]
  rw [crt_residues (by omega) (by omega), BitVec.toInt_ofInt_eq_self (by decide) (by omega) (by omega), add_comm]

end Sys2Proof.Proofs.Memories
end

section
/-! PROOFS. The granules of an accumulator tile, and what an MMA's octet does to its tile (O49). -/

open Sys2Proof Sys2Proof.Machine
open Sys2Proof.Proofs.ExecutionModel (getCore_setCore_same leWord_wordBytes)
open Sys2Proof.Proofs.Registers (tagAt_setTag wordBytes_length)

namespace Sys2Proof.Proofs.Memories

/-! ## Granules written whole -/

theorem getD_flatMap_wordBytes (ws : List Word) (i j : Nat) (hj : j < 4) :
    (ws.flatMap wordBytes).getD (4 * i + j) 0 = (wordBytes (ws.getD i 0)).getD j 0 := by
  induction ws generalizing i with
  | nil =>
    have zero : ∀ j < 4, (0 : Byte) = (wordBytes 0).getD j 0 := by decide
    exact zero j hj
  | cons w r ih =>
    have length := wordBytes_length w
    rw [List.flatMap_cons]
    cases i with
    | zero =>
      rw [Nat.mul_zero, Nat.zero_add]
      exact List.getD_append _ _ _ _ (by omega)
    | succ i =>
      rw [List.getD_append_right _ _ _ _ (by omega), length, show 4 * (i + 1) + j - 4 = 4 * i + j by omega]
      exact ih i

section
variable {s : State} (k : Nat) (op : MatOp)

theorem granule_tileKey (t off : Nat) : granule (tileKey k t off) = granule (tileKey k t 0) + off / 64 := by
  simp only [granule, tileKey]
  omega

theorem tagAt_writeGranule (hs : s.canonical) (g : Nat) (ws : List Word) (y : Nat) :
    tagAt (writeGranule s k op g ws) (tileKey k op.tile y) = if y / 64 = g then op.gen else tagAt s (tileKey k op.tile y) := by
  have tag := tagAt_setTag (writeBytes_canonical s (tileKey k op.tile (g * 64)) (ws.flatMap wordBytes) hs)
      (tileKey k op.tile (g * 64)) op.gen
    (tileKey k op.tile y)
  have same : granule (tileKey k op.tile y) = granule (tileKey k op.tile (g * 64)) ↔ y / 64 = g := by
    rw [granule_tileKey k _ y, granule_tileKey k _ (g * 64)]
    omega
  exact tag.trans (if_congr same rfl rfl)

theorem memRead_writeGranule (hs : s.canonical) (g : Nat) {ws : List Word} (hw : (ws.flatMap wordBytes).length = 64) (y : Nat) :
    memRead (writeGranule s k op g ws).mem (tileKey k op.tile y) =
      if y / 64 = g then (ws.flatMap wordBytes).getD (y % 64) 0 else memRead s.mem (tileKey k op.tile y) := by
  change memRead (memWriteList s.mem (tileKey k op.tile (g * 64)) (ws.flatMap wordBytes)) _ = _
  split
  · next here =>
    have place : tileKey k op.tile y = tileKey k op.tile (g * 64) + y % 64 := by
      simp only [tileKey]
      omega
    rw [place]
    exact memRead_memWriteList_at _ _ _ _ hs.1 (by rw [hw]; omega)
  · next apart =>
    refine memRead_memWriteList_other _ _ _ _ hs.1 ?_
    rw [hw]
    simp only [tileKey]
    omega

theorem writeGranule_cores (g : Nat) (ws : List Word) : (writeGranule s k op g ws).cores = s.cores := rfl

/-- The words of granule `g` of a tile whose elements are `f`. -/
def granuleWords (f : Nat → Nat → Word) (g : Nat) : List Word := (List.range 16).map (fun i => f (g / 4) (g % 4 * 16 + i))

theorem granuleWords_length (f : Nat → Nat → Word) (g : Nat) : ((granuleWords f g).flatMap wordBytes).length = 64 := by
  simp [granuleWords, List.length_flatMap, Function.comp_def, wordBytes_length]

theorem granuleWords_byte (f : Nat → Nat → Word) (y : Nat) :
    ((granuleWords f (y / 64)).flatMap wordBytes).getD (y % 64) 0 = (wordBytes (f (y / 256) (y % 256 / 4))).getD (y % 4) 0 := by
  have place : y % 64 = 4 * (y % 64 / 4) + y % 4 := by omega
  have inside : y % 64 / 4 < 16 := by omega
  have row : y / 64 / 4 = y / 256 := by omega
  have column : y / 64 % 4 * 16 + y % 64 / 4 = y % 256 / 4 := by omega
  rw [place, getD_flatMap_wordBytes _ _ _ (by omega), granuleWords]
  simp [List.getD, inside, row, column]

/-- The first `n` granules of a tile are written. -/
def writeGranules (s : State) (k : Nat) (op : MatOp) (f : Nat → Nat → Word) (n : Nat) : State :=
  (List.range n).foldl (fun s g => writeGranule s k op g (granuleWords f g)) s

theorem writeGranules_succ (f : Nat → Nat → Word) (n : Nat) :
    writeGranules s k op f (n + 1) = writeGranule (writeGranules s k op f n) k op n (granuleWords f n) := by
  rw [writeGranules, List.range_succ, List.foldl_append]
  rfl

theorem writeGranules_spec (hs : s.canonical) (f : Nat → Nat → Word) (n y : Nat) :
    (writeGranules s k op f n).canonical ∧ (writeGranules s k op f n).cores = s.cores ∧ (y / 64 < n →
      tagAt (writeGranules s k op f n) (tileKey k op.tile y) = op.gen ∧
      memRead (writeGranules s k op f n).mem (tileKey k op.tile y) = (wordBytes (f (y / 256) (y % 256 / 4))).getD (y % 4) 0) := by
  induction n with
  | zero => exact ⟨hs, rfl, fun h => absurd h (Nat.not_lt_zero _)⟩
  | succ n ih =>
    obtain ⟨canonical, cores, written⟩ := ih
    rw [writeGranules_succ, tagAt_writeGranule k op canonical, memRead_writeGranule k op canonical n (granuleWords_length f n)]
    refine ⟨writeGranule_canonical canonical, (writeGranule_cores _ _ _ _).trans cores, fun hy => ?_⟩
    by_cases last : y / 64 = n
    · rw [if_pos last, if_pos last, ← last]
      exact ⟨rfl, granuleWords_byte f y⟩
    · rw [if_neg last, if_neg last]
      exact written (by omega)

theorem writeTile_eq (f : Nat → Nat → Word) : writeTile s k op f = writeGranules s k op f 32 := rfl

theorem writeTile_cores (hs : s.canonical) (f : Nat → Nat → Word) : (writeTile s k op f).cores = s.cores :=
  (writeGranules_spec k op hs f 32 0).2.1

/-- Each element of a written tile is the word written there. -/
theorem tileWord_writeTile (hs : s.canonical) (f : Nat → Nat → Word) {r c : Nat} (hr : r < 8) (hc : c < 64) :
    tileWord (writeTile s k op f) k op r c = f r c := by
  have byte (j : Nat) (hj : j < 4) : (if tagAt (writeTile s k op f) (tileKey k op.tile (r * 256 + c * 4) + j) = op.gen
      then memRead (writeTile s k op f).mem (tileKey k op.tile (r * 256 + c * 4) + j) else 0) = (wordBytes (f r c)).getD j 0 := by
    have place : tileKey k op.tile (r * 256 + c * 4) + j = tileKey k op.tile (r * 256 + c * 4 + j) := Nat.add_assoc ..
    obtain ⟨tag, value⟩ := (writeGranules_spec k op hs f 32 (r * 256 + c * 4 + j)).2.2 (by omega)
    have row : (r * 256 + c * 4 + j) / 256 = r := by omega
    have column : (r * 256 + c * 4 + j) % 256 / 4 = c := by omega
    have low : (r * 256 + c * 4 + j) % 4 = j := by omega
    rw [place, writeTile_eq, tag, if_pos rfl, value, row, column, low]
  have bytes : readTagged (writeTile s k op f) (tileKey k op.tile (r * 256 + c * 4)) op.gen 4 =
      [(wordBytes (f r c)).getD 0 0, (wordBytes (f r c)).getD 1 0, (wordBytes (f r c)).getD 2 0, (wordBytes (f r c)).getD 3 0] := by
    rw [← byte 0 (by decide), ← byte 1 (by decide), ← byte 2 (by decide), ← byte 3 (by decide)]
    rfl
  rw [tileWord, bytes]
  exact leWord_wordBytes (f r c)

end

/-! ## The state of a tile -/

theorem tileWord_setTile (s : State) (k t : Nat) (x : Tile) (op : MatOp) (r c : Nat) :
    tileWord (setTile s k t x) k op r c = tileWord s k op r c := by
  have bytes (n a : Nat) : readTagged (setTile s k t x) a op.gen n = readTagged s a op.gen n := by
    induction n generalizing a with
    | zero => rfl
    | succ n ih => exact congrArg (_ :: ·) (ih (a + 1))
  rw [tileWord, bytes, tileWord]

theorem tileOf_setTile {s : State} {k : Nat} (hk : k < s.cores.length) (wf : sparseWf ⟨0, false, 0⟩ (getCore s k).tileState = true)
    (t : Nat) (x : Tile) :
    tileOf (setTile s k t x) k t = x := by
  rw [tileOf, setTile, getCore_setCore_same hk]
  exact sget_sput_same _ _ _ _ wf

end Sys2Proof.Proofs.Memories
end

section
/-! PROOFS. An MMA's octet is performed on its tile (O49). -/

open Sys2Proof Sys2Proof.Machine

namespace Sys2Proof.Proofs.Memories

variable (s : State) (k : Nat) (op : MatOp)

/-! ## Records and kills change no memory and no core -/

theorem pushError_keeps (r : List Word) :
    (pushError s r).mem = s.mem ∧ (pushError s r).tags = s.tags ∧ (pushError s r).cores = s.cores := by
  unfold pushError
  split
  · dsimp only
    split <;> exact ⟨rfl, rfl, rfl⟩
  · exact ⟨rfl, rfl, rfl⟩

theorem killForUe_keeps (id : Nat) (pc : Word) (ls : List Nat) :
    (killForUe s id pc ls).mem = s.mem ∧ (killForUe s id pc ls).tags = s.tags ∧ (killForUe s id pc ls).cores = s.cores := by
  induction ls generalizing s with
  | nil => exact ⟨rfl, rfl, rfl⟩
  | cons l r ih =>
    rw [killForUe]
    split
    · exact ⟨rfl, rfl, rfl⟩
    next c _ =>
      obtain ⟨mem, tags, cores⟩ := ih (ctxError (setCtx s (c.killLanes (BitVec.twoPow 64 l))) c 1 0 (some l) 0 pc 0)
      obtain ⟨mem1, tags1, cores1⟩ := pushError_keeps (setCtx s (c.killLanes (BitVec.twoPow 64 l))) _
      exact ⟨mem.trans mem1, tags.trans tags1, cores.trans cores1⟩

/-- Word 7 of a parity error's record: the first slot that had one, or with none the first slot, and the tile (R340). -/
def parityWord (op : MatOp) : Word := BitVec.ofNat 32 (op.bad.getD op.slot * 256 + op.tile)

theorem parityRecord_eq : ∃ r, parityRecord s k op = pushError s r ∧ bits (r.getD 0 0) 31 24 = 4 ∧ r.getD 7 0 = parityWord op := by
  unfold parityRecord
  dsimp only
  split
  next c _ =>
    refine ⟨_, rfl, ?_, rfl⟩
    have small : c.level.toNat < 8 := c.level.isLt
    show bits (BitVec.ofNat 32 (4 * 2 ^ 24 + 0 * 2 ^ 16 + 0 + c.level.toNat)) 31 24 = 4
    rw [bits, BitVec.toNat_ofNat]
    omega
  · refine ⟨_, rfl, ?_, rfl⟩
    show bits (BitVec.ofNat 32 (4 * 2 ^ 24 + 0 * 2 ^ 16 + 0 + 0) ||| 0x8000) 31 24 = 4
    decide

/-! ## The cases of an octet (R275, R295, R296) -/

/-- No slot of B and no granule of the tile that the operation reads bears an error. -/
def SoundMma : Prop := op.bad = none ∧ ∀ g, g < 32 → tilePoison s k op g = false

theorem not_soundMma_iff : ¬ SoundMma s k op ↔ (op.bad.isSome || (List.range 32).any (fun g => tilePoison s k op g)) = true := by
  rw [SoundMma, Bool.or_eq_true, Option.isSome_iff_ne_none, List.any_eq_true, not_and_or]
  simp only [List.mem_range, not_forall, Bool.not_eq_false, exists_prop, ne_eq]

/-- The tile's state after an operation of integer mode. -/
def integerTile (t : Tile) (op : MatOp) : Tile := if op.close then ⟨op.ver + 1, false, 0⟩ else
    ⟨op.ver + 1, true, (if t.opened then t.count else 0) + 1⟩

/-- The tile counts the operation without its effect: uncorrectable data (R296). -/
def countVersion (s : State) (k : Nat) (op : MatOp) : State := setTile s k op.tile { tileOf s k op.tile with version := op.ver + 1 }

variable {s k op}

theorem finishMma_late (late : tileHeld s k op = false) : finishMma s k op = countLate s k := by
  rw [finishMma, late]
  rfl

theorem finishMma_integer (held : tileHeld s k op = true) (sound : SoundMma s k op) (noscale : (pairA op.pair).noscale = true)
    (fmt : (pairA op.pair).fmt = 9) : finishMma s k op =
      setTile (writeTile s k op (fun r c => integerStep op (tileOf s k op.tile).opened r c (tileWord s k op r c))) k op.tile
        (integerTile (tileOf s k op.tile) op) := by
  have mode : ((pairA op.pair).noscale && decide ((pairA op.pair).fmt = 9)) = true := by simp [noscale, fmt]
  unfold finishMma
  dsimp only
  rw [held, if_neg (by decide), if_neg (fun struck => (not_soundMma_iff s k op).mpr struck sound), if_pos mode]
  rfl

theorem finishMma_floating (held : tileHeld s k op = true) (sound : SoundMma s k op)
    (floating : (pairA op.pair).noscale = false ∨ (pairA op.pair).fmt ≠ 9) : finishMma s k op =
      setTile (writeTile s k op (fun r c => accumulate op r c (tileWord s k op r c))) k op.tile
        { tileOf s k op.tile with version := op.ver + 1 } := by
  have mode : ¬ ((pairA op.pair).noscale && decide ((pairA op.pair).fmt = 9)) = true := by
    rcases floating with h | h <;> simp [h]
  unfold finishMma
  dsimp only
  rw [held, if_neg (by decide), if_neg (fun struck => (not_soundMma_iff s k op).mpr struck sound), if_neg mode]

theorem finishMma_struck (held : tileHeld s k op = true) (struck : ¬ SoundMma s k op) : ∃ ls, finishMma s k op =
    parityRecord (killForUe (countVersion s k op) op.ctx op.pc ls) k op := by
  unfold finishMma
  dsimp only
  rw [held, if_neg (by decide), if_pos ((not_soundMma_iff s k op).mp struck)]
  exact ⟨_, rfl⟩

/-! ## What the octet leaves -/

section
variable (wf : sparseWf ⟨0, false, 0⟩ (getCore s k).tileState = true) (hk : k < s.cores.length)
include wf hk

theorem tileOf_setTile_writeTile (hs : s.canonical) (f : Nat → Nat → Word) (x : Tile) :
    tileOf (setTile (writeTile s k op f) k op.tile x) k op.tile = x := by
  have cores := writeTile_cores k op hs f
  exact tileOf_setTile (by rw [cores]; exact hk) (by rw [getCore, cores]; exact wf) op.tile x

theorem finishMma_struck_spec (held : tileHeld s k op = true) (struck : ¬ SoundMma s k op) :
    (finishMma s k op).mem = s.mem ∧ (finishMma s k op).tags = s.tags ∧
      tileOf (finishMma s k op) k op.tile = { tileOf s k op.tile with version := op.ver + 1 } ∧
      ∃ u r, finishMma s k op = pushError u r ∧ bits (r.getD 0 0) 31 24 = 4 ∧ r.getD 7 0 = parityWord op := by
  obtain ⟨ls, effect⟩ := finishMma_struck held struck
  obtain ⟨r, record, kind, word⟩ := parityRecord_eq (killForUe (countVersion s k op) op.ctx op.pc ls) k op
  obtain ⟨mem, tags, cores⟩ := pushError_keeps (killForUe (countVersion s k op) op.ctx op.pc ls) r
  obtain ⟨mem1, tags1, cores1⟩ := killForUe_keeps (countVersion s k op) op.ctx op.pc ls
  rw [effect, record]
  refine ⟨mem.trans mem1, tags.trans tags1, ?_, _, r, rfl, kind, word⟩
  rw [tileOf, getCore, cores.trans cores1]
  exact tileOf_setTile hk wf op.tile _

end

end Sys2Proof.Proofs.Memories
end

section
/-! PROOFS. The MATRIX queue delivers, starts and performs its operations (O49). -/

open Sys2Proof Sys2Proof.Machine

namespace Sys2Proof.Proofs.Memories

/-! ## Which operation may start (R148, R302, R364) -/

/-- The first of the first `i` elements with `p` has not `f`. -/
theorem any_find?_take_eq_false {α : Type} (p f : α → Bool) (q : List α) (i : Nat) :
    ((q.take i).find? p).any f = false ↔
      ∀ j x, j < i → q[j]? = some x → p x = true → (∀ y ∈ q.take j, p y = false) → f x = false := by
  induction q generalizing i with
  | nil => simp
  | cons a r ih =>
    cases i with
    | zero => simp
    | succ i =>
      rw [List.take_succ_cons, List.find?_cons]
      cases ha : p a with
      | true =>
        constructor
        · intro h j x _ hx _ earlier
          cases j with
          | zero =>
            obtain rfl := Option.some.inj hx
            exact h
          | succ j => exact absurd ha (by simp [earlier a (by simp)])
        · intro h
          exact h 0 a (Nat.succ_pos i) rfl ha (by simp)
      | false =>
        refine (ih i).trans ⟨fun h j x hj hx px earlier => ?_, fun h j x hj hx px earlier => ?_⟩
        · cases j with
          | zero =>
            obtain rfl := Option.some.inj hx
            exact absurd px (by simp [ha])
          | succ j => exact h j x (Nat.lt_of_succ_lt_succ hj) hx px fun y hy => earlier y (by simp [hy])
        · refine h (j + 1) x (Nat.succ_lt_succ hj) hx px fun y hy => ?_
          rw [List.take_succ_cons, List.mem_cons] at hy
          rcases hy with rfl | hy
          · exact ha
          · exact earlier y hy

theorem mayStart_iff (s : State) (k i : Nat) (op : MatOp) : mayStart s k i op = true ↔
    op.started = false ∧ op.opcode ≠ 0x63 ∧ versionMet s k op = true ∧
      (∀ x ∈ (getCore s k).matq, x.tile = op.tile → x.started = true → x.opcode = 0x61) ∧
      (∀ x ∈ (getCore s k).matq.take i, x.tile = op.tile → x.started = false → x.ver = op.ver → x.opcode = 0x63) ∧
      (∀ j x, j < i → (getCore s k).matq[j]? = some x → x.tile = op.tile →
        (∀ y ∈ (getCore s k).matq.take j, y.tile ≠ op.tile) → x.opcode ≠ 0x63) ∧
      (op.opcode = 0x60 → op.delivery ≠ none ∧ loadCovers s k op = false ∧
        ∀ x ∈ (getCore s k).matq.take i, x.opcode = 0x60 → x.delivery = op.delivery → x.started = true) := by
  have first := any_find?_take_eq_false (fun x => decide (x.tile = op.tile)) (fun x => decide (x.opcode = 0x63)) (getCore s k).matq i
  simp only [decide_eq_true_eq, decide_eq_false_iff_not] at first
  rw [← first]
  have changes (x : MatOp) : ¬ (x.tile = op.tile ∧ x.started = true ∧ x.opcode ≠ 0x61) ↔
      (x.tile = op.tile → x.started = true → x.opcode = 0x61) := by
    rw [not_and, not_and, not_not]
  have waits (x : MatOp) : ¬ (x.tile = op.tile ∧ x.opcode ≠ 0x63 ∧ x.started = false ∧ x.ver = op.ver) ↔
      (x.tile = op.tile → x.started = false → x.ver = op.ver → x.opcode = 0x63) := by tauto
  have follows (x : MatOp) : ¬ (x.opcode = 0x60 ∧ x.started = false ∧ x.delivery = op.delivery) ↔
      (x.opcode = 0x60 → x.delivery = op.delivery → x.started = true) := by
    cases x.started <;> simp
  simp only [mayStart, Bool.and_eq_true, Bool.or_eq_true, Bool.not_eq_true', List.any_eq_false, decide_eq_true_eq,
    Option.isSome_iff_ne_none, changes, waits, follows, and_assoc, or_iff_not_imp_left, not_not]

/-! ## The events of the queue -/

section
variable {s : State} {k i : Nat} {op : MatOp} (at_ : (getCore s k).matq[i]? = some op) (power : powered s = true)
include at_ power

/-- An MMA operation that has its version and no delivery. -/
def needsTile (s : State) (k : Nat) (x : MatOp) : Bool := x.opcode = 0x60 && x.delivery.isNone && versionMet s k x

theorem exec_weightDelivery (needs : needsTile s k op = true) (oldest : ∀ x ∈ (getCore s k).matq.take i, needsTile s k x = false) :
    exec (.weightDelivery k i) s = .next (setCore s k { getCore s k with
      matq := (getCore s k).matq.map (fun x => if needsTile s k x && fuses op x then { x with delivery := some op.id } else x) }) := by
  have waiting : ((!needsTile s k op) || ((getCore s k).matq.take i).any (needsTile s k) || !powered s) = false := by
    rw [needs, power, List.any_eq_false.mpr fun x hx => by rw [oldest x hx]; decide]
    rfl
  show execWeightDelivery k i s = _
  unfold execWeightDelivery
  dsimp only
  rw [at_]
  exact if_neg (Bool.eq_false_iff.mp waiting)

/-- An older MMA operation of the queue may start. -/
def olderStarts (s : State) (k i : Nat) : Bool :=
  (List.range i).any (fun j => ((getCore s k).matq[j]?).any (fun x => x.opcode = 0x60 && mayStart s k j x))

theorem exec_octetStart (may : mayStart s k i op = true) (oldest : op.opcode = 0x60 → olderStarts s k i = false) :
    exec (.octetStart k i) s =
      if op.opcode = 0x60 then
        if openBad (tileOf s k op.tile) op then .next (matrixFault s k op FORMAT none 0)
        else .next (leaveChurn (setMat s k { op with started := true, bbytes := bBytes s k op, bad := slotPoison s k op }) k)
      else if op.opcode = 0x61 then .next (leaveChurn (startRead s k op) k)
      else .next (leaveChurn (setMat s k { op with started := true }) k) := by
  have older : (decide (op.opcode = 0x60) && olderStarts s k i) = false := by
    by_cases mma : op.opcode = 0x60
    · simp [oldest mma]
    · simp [mma]
  have due : ((!mayStart s k i op) || (decide (op.opcode = 0x60) && olderStarts s k i) || !powered s) = false := by
    rw [may, older, power]
    rfl
  show execOctetStart k i s = _
  unfold execOctetStart
  dsimp only
  rw [at_]
  exact if_neg (Bool.eq_false_iff.mp due)

theorem exec_octetComplete (started : op.started = true)
    (read : op.opcode = 0x61 → op.policy = false ∨ ∀ x ∈ (getCore s k).matq, x.parent = op.parent → x.started = true) :
    exec (.octetComplete k i) s = .next (endMatrix (dropMat (if op.opcode = 0x60 then finishMma s k op
      else if op.opcode = 0x61 then clearPend (finishRead s k op) op else finishWrite s k op) k op.id) k op.ctx op.parent) := by
  have free : (decide (op.opcode = 0x61) && op.policy && (getCore s k).matq.any (fun x => x.parent = op.parent && !x.started)) =
      false := by
    by_cases accrd : op.opcode = 0x61
    · rcases read accrd with policy | all
      · simp [policy]
      · simpa using fun _ _ => all
    · simp [accrd]
  show execOctetComplete k i s = _
  unfold execOctetComplete
  dsimp only
  rw [at_]
  exact if_neg (by rw [started, power]; simpa using free)

theorem exec_acczPerform (accz : op.opcode = 0x63) (first : ∀ x ∈ (getCore s k).matq.take i, x.tile ≠ op.tile) :
    exec (.acczPerform k i) s = .next (endMatrix (dropMat (if tileHeld s k op then
      setTile (writeTile s k op (fun _ _ => 0)) k op.tile ⟨op.ver, false, 0⟩ else countLate s k) k op.id) k op.ctx op.parent) := by
  have free : ((getCore s k).matq.take i).any (fun x => x.tile = op.tile) = false := by simpa using first
  show execAcczPerform k i s = _
  unfold execAcczPerform
  dsimp only
  rw [at_]
  exact if_neg (by rw [free, power]; simp [accz])

end

theorem olderStarts_eq_false {s : State} {k i : Nat}
    (none_starts : ∀ j x, j < i → (getCore s k).matq[j]? = some x → x.opcode = 0x60 → mayStart s k j x = false) : olderStarts s k i
        = false := by
  rw [olderStarts, List.any_eq_false]
  intro j hj
  cases hx : (getCore s k).matq[j]? with
  | none => exact Bool.false_ne_true
  | some x => simpa using none_starts j x (List.mem_range.mp hj) hx

/-- An octet of ACCRD under ZERO whose granules are sound reads them, and no lane dies (R300). -/
theorem startRead_sound {s : State} {k : Nat} {op : MatOp} (zero : op.policy = false)
    (sound : ∀ l ∈ octetLanes op, tilePoison s k op (4 * (l % 8) + op.slice) = false) :
    startRead s k op = setMat s k { op with started := true, arows := (List.range 8).map (fun r =>
      (List.range 16).flatMap (fun h => wordBytes (tileWord s k op r (16 * op.slice + h)))) } := by
  have dead : (octetLanes op).filter (fun l => tilePoison s k op (4 * (l % 8) + op.slice)) = [] :=
    List.filter_eq_nil_iff.mpr fun l hl => by rw [sound l hl]; decide
  unfold startRead
  dsimp only
  rw [zero, if_neg (by decide), dead]
  dsimp only
  cases getCtx s op.ctx <;> rfl

/-! ## The obligation -/

/-- Settles O49: which operation may start is a condition on the queue, an octet's effect goes by its case, and the channel sums of the
residues are exact. -/
theorem matrixUnit : Obligations.MatrixUnit := by
  unfold Obligations.MatrixUnit
  refine ⟨fun k i s op at_ power => ⟨fun needs oldest => exec_weightDelivery at_ power needs oldest, mayStart_iff s k i op,
    fun may mma first => ?_, fun may accwr => ?_, fun may accrd zero sound => ?_, fun started =>
        ⟨fun mma => ?_, fun accwr => ?_, fun accrd read => ?_⟩,
    fun accz first => exec_acczPerform at_ power accz first⟩,
    fun s k op hs wf hk => ⟨fun held sound => ⟨fun noscale fmt => ?_, fun floating => ?_⟩, fun held struck => ?_, finishMma_late⟩,
    integerStep_closing_closed, integerStep_closing_opened⟩
  · have starts := exec_octetStart at_ power may fun _ => olderStarts_eq_false first
    rw [starts, if_pos mma]
    exact ⟨fun bad => if_pos bad, fun good => if_neg (Bool.eq_false_iff.mp good)⟩
  · rw [exec_octetStart at_ power may fun mma => by omega, if_neg (by omega), if_neg (by omega)]
  · rw [exec_octetStart at_ power may fun mma => by omega, if_neg (by omega), if_pos accrd, startRead_sound zero sound]
  · rw [exec_octetComplete at_ power started fun accrd => by omega, if_pos mma]
  · rw [exec_octetComplete at_ power started fun accrd => by omega, if_neg (by omega), if_neg (by omega)]
  · rw [exec_octetComplete at_ power started fun _ => read, if_neg (by omega), if_pos accrd]
  · rw [finishMma_integer held sound noscale fmt]
    exact ⟨fun r c hr hc => (tileWord_setTile ..).trans (tileWord_writeTile k op hs _ hr hc), tileOf_setTile_writeTile wf hk hs _ _⟩
  · rw [finishMma_floating held sound floating]
    exact ⟨fun r c hr hc => (tileWord_setTile ..).trans (tileWord_writeTile k op hs _ hr hc), tileOf_setTile_writeTile wf hk hs _ _⟩
  · exact finishMma_struck_spec wf hk held struck

end Sys2Proof.Proofs.Memories
end

section
/-! PROOFS. An arrival object past the end of the core store (O41). -/

open Sys2Proof Sys2Proof.Machine

namespace Sys2Proof.Proofs.Queues

/-- A device whose core 1 holds its row 0 under generation 1, and whose core 0 holds none; the other cores take no part, and are
left out. -/
def secondCoreHolds : State :=
  { State.reset with cores := [Core.reset, { Core.reset with rows := [⟨0, 1, 1, 1, false, 0⟩] }] }

/-- A copy of core 0 with an arrival object at 0x200000, past the end of the core's store (R83), and no allocation there. -/
def farArrival : EngOp := { (default : EngOp) with desc := [0, 0, 0, 0x80200000] }

theorem farArrival_arrival : (parseDesc farArrival.desc).av = true ∧ (parseDesc farArrival.desc).arrival = 0x200000 := by decide

theorem secondCoreHolds_canonical : secondCoreHolds.canonical := ⟨rfl, rfl⟩

/-- No row stands at the object and no generation was taken for it, so the two agree. -/
theorem objectHeld_farArrival : objectHeld secondCoreHolds farArrival (parseDesc farArrival.desc).arrival 3 := by
  rw [farArrival_arrival.2]
  unfold objectHeld
  decide

/-- The byte's key is that of the first byte of core 1, whose row another generation holds: the object reads zero after the landing. -/
theorem objRead_farArrival :
    objRead (arrivalUpdate secondCoreHolds farArrival 1) farArrival (parseDesc farArrival.desc).arrival 3 = [0, 0, 0] ∧
      objRead secondCoreHolds farArrival (parseDesc farArrival.desc).arrival 3 = [0, 0, 0] := by decide

/-- Refutes O41: `objectHeld` sets no bound on the object's address. In `secondCoreHolds` the arrival object of `farArrival` stands
at 0x200000, whose key is that of core 1's first byte. The landing is written, for no row of core 0 has an owner there, and is read
as zero, for core 1's row has another; so PHASE is not seen to rise. -/
theorem not_engineProgress : ¬ Obligations.EngineProgress := by
  unfold Obligations.EngineProgress
  intro ⟨_, _, landing, _⟩
  have counted := landing secondCoreHolds farArrival 1 farArrival_arrival.1 secondCoreHolds_canonical objectHeld_farArrival (by decide)
  dsimp only at counted
  rw [objRead_farArrival.1, objRead_farArrival.2] at counted
  exact absurd counted (by decide)

end Sys2Proof.Proofs.Queues
end

section
/-! PROOFS. The region store buffer: what a byte reads, and when a store is not taken (O30). -/

open Sys2Proof Sys2Proof.Machine

namespace Sys2Proof.Proofs.Queues

/-! ## Places and byte tables -/

theorem place_eq_of_line_offset {p q : Place} (line : p.line = q.line) (offset : p.offset = q.offset) : p = q := by
  cases p <;> cases q <;> simp_all only [Place.line, Place.offset, Place.here.injEq, Place.peer.injEq, reduceCtorEq]
  · omega
  · exact ⟨trivial, by omega⟩

theorem find_putByte (t : Sparse Byte) (k n : Nat) (v : Byte) :
    (putByte t k v).find? (fun b => b.1 = n) = if k = n then some (k, v) else t.find? (fun b => b.1 = n) := by
  induction t with
  | nil => by_cases h : k = n <;> simp [putByte, h]
  | cons x r ih =>
    rcases Nat.lt_trichotomy k x.1 with below | same | above
    · have step : putByte (x :: r) k v = (k, v) :: x :: r := if_pos below
      rw [step]
      by_cases h : k = n <;> simp [h]
    · have step : putByte (x :: r) k v = (k, v) :: r := (if_neg (by omega)).trans (if_pos same)
      rw [step]
      by_cases h : k = n <;> simp [h, ← same]
    · have step : putByte (x :: r) k v = x :: putByte r k v := (if_neg (by omega)).trans (if_neg (by omega))
      rw [step, List.find?_cons, ih, List.find?_cons]
      by_cases h : k = n
      · simp [h, show x.1 ≠ n by omega]
      · simp [h]

theorem mem_keys_putByte {t : Sparse Byte} {k n : Nat} {v : Byte} (h : n ∈ (putByte t k v).map Prod.fst) :
    n = k ∨ n ∈ t.map Prod.fst := by
  induction t with
  | nil => simpa [putByte] using h
  | cons x r ih =>
    unfold putByte at h
    split at h
    · simpa using h
    · split at h
      · simp only [List.map_cons, List.mem_cons] at h ⊢
        exact h.imp_right .inr
      · simp only [List.map_cons, List.mem_cons] at h ⊢
        rcases h with h | h
        · exact .inr (.inl h)
        · exact (ih h).imp_right .inr

/-- A byte put into a table of rising keys leaves them rising. -/
theorem rising_putByte {t : Sparse Byte} (rising : (t.map Prod.fst).Pairwise (· < ·)) (k : Nat) (v : Byte) :
    ((putByte t k v).map Prod.fst).Pairwise (· < ·) := by
  induction t with
  | nil => simp [putByte]
  | cons x r ih =>
    obtain ⟨first, rest⟩ := List.pairwise_cons.mp rising
    unfold putByte
    split
    next below => exact List.pairwise_cons.mpr ⟨List.forall_mem_cons.mpr ⟨below, fun n hn => below.trans (first n hn)⟩, rising⟩
    next notBelow =>
      split
      next same => exact List.pairwise_cons.mpr ⟨fun n hn => same ▸ first n hn, rest⟩
      next differs =>
        refine List.pairwise_cons.mpr ⟨fun n hn => ?_, ih rest⟩
        rcases mem_keys_putByte hn with rfl | old
        · exact show x.1 < n by omega
        · exact first n old

/-! ## The byte that an entry, and the buffer, holds for a place -/

/-- The byte that an entry holds for a place. -/
def entryByte (p : Place) (e : BufEntry) : Option Byte :=
  if e.line = p.line then (e.bytes.find? (fun b => b.1 = p.offset)).map Prod.snd else none

theorem rsbByte_eq_findSome (c : Ctx) (p : Place) : rsbByte c p = c.rsb.reverse.findSome? (entryByte p) := by
  unfold rsbByte
  induction c.rsb.reverse with
  | nil => rfl
  | cons e r ih =>
    by_cases line : e.line = p.line
    · cases found : e.bytes.find? (fun b => b.1 = p.offset) with
      | none =>
        have absent : e.bytes.any (fun b => b.1 = p.offset) = false := by simpa using found
        simpa [List.findSome?_cons, entryByte, line, found, absent] using ih
      | some b =>
        have present : e.bytes.any (fun b => b.1 = p.offset) = true :=
          List.any_eq_true.mpr ⟨b, List.mem_of_find?_eq_some found, by simpa using List.find?_some found⟩
        simp [entryByte, line, found, present]
    · simpa [List.findSome?_cons, entryByte, line] using ih

theorem entryByte_of_line_ne {p : Place} {e : BufEntry} (h : e.line ≠ p.line) : entryByte p e = none := if_neg h

/-- The entry after a byte has merged into it (R116, R252). -/
def withByte (off : Nat) (v : Byte) (sc : BitVec 3) (stamp : Nat) (e : BufEntry) : BufEntry :=
  { e with bytes := putByte e.bytes off v, scope := if e.scope.toNat < sc.toNat then sc else e.scope, stamp := stamp }

theorem entryByte_withByte (q p : Place) (v : Byte) (sc : BitVec 3) (stamp : Nat) {e : BufEntry} (line : e.line = q.line) :
    entryByte p (withByte q.offset v sc stamp e) = if p = q then some v else entryByte p e := by
  by_cases same : p = q
  · simp [same, entryByte, withByte, line, find_putByte]
  · by_cases lines : e.line = p.line
    · have offsets : q.offset ≠ p.offset := fun h => same (place_eq_of_line_offset (lines.symm.trans line) h.symm)
      simp [same, entryByte, withByte, lines, find_putByte, offsets]
    · simp [same, entryByte, withByte, lines]

/-! ## Merging into the newest entry of a line -/

section
variable {line : Place} {off : Nat} {v : Byte} {sc : BitVec 3} {stamp bound : Nat}

/-- A byte merges into the last entry of its line, and every other entry stays. -/
theorem mergeNewest_some {es es' : List BufEntry} (h : mergeNewest line off v sc stamp bound es = some es') :
    ∃ xs e ys, es = xs ++ e :: ys ∧ e.line = line ∧ (∀ y ∈ ys, y.line ≠ line) ∧ es' = xs ++ withByte off v sc stamp e :: ys := by
  induction es generalizing es' with
  | nil => simp [mergeNewest] at h
  | cons e r ih =>
    unfold mergeNewest at h
    split at h
    · obtain ⟨r', merged, rfl⟩ := Option.map_eq_some_iff.mp h
      obtain ⟨xs, x, ys, rfl, same, others, rfl⟩ := ih merged
      exact ⟨e :: xs, x, ys, rfl, same, others, rfl⟩
    next last =>
      split at h
      next here =>
        have same : e.line = line := by simpa using (Bool.and_eq_true_iff.mp here).1
        exact ⟨[], e, r, rfl, same, by simpa using last, (Option.some.inj h).symm⟩
      · cases h

/-- A byte opens a new entry where the newest entry of its line, if any, was last written before the bound. -/
theorem mergeNewest_eq_none_iff {es : List BufEntry} : mergeNewest line off v sc stamp bound es = none ↔
    ∀ e, es.reverse.find? (fun e => e.line = line) = some e → e.stamp < bound := by
  induction es with
  | nil => simp [mergeNewest]
  | cons e r ih =>
    unfold mergeNewest
    split
    next later =>
      obtain ⟨x, found⟩ : ∃ x, r.reverse.find? (fun e => e.line = line) = some x := by
        rw [← Option.isSome_iff_exists, List.find?_isSome]
        simpa using later
      rw [Option.map_eq_none_iff, ih]
      simp [List.find?_append, found]
    next last =>
      have absent : r.reverse.find? (fun e => e.line = line) = none := by
        rw [List.find?_eq_none]
        simpa using last
      by_cases same : e.line = line
      · simp [List.find?_append, absent, same]
      · simp [List.find?_append, absent, same]

end

/-! ## A store of one byte -/

section
variable (c : Ctx) (sc : BitVec 3) (rel : Bool) (asid mg : BitVec 16) (b : StoreByte)

/-- The entry that a byte opens (R116). -/
def openedEntry : BufEntry :=
  ⟨b.place.line, b.va / 128, [(b.place.offset, b.val)], sc, rel, asid, mg, b.gen, c.storeStamp⟩

/-- The buffer with the byte merged into the newest entry of its line, where it may be. -/
def mergedByte : Option (List BufEntry) :=
  if rel then none else mergeNewest b.place.line b.place.offset b.val sc c.storeStamp (c.atomicBound b.place.line) c.rsb

theorem bufferBytes_one :
    bufferBytes c sc rel asid mg [] c.rsb [b] = (mergedByte c sc rel b).getD (c.rsb ++ [openedEntry c sc rel asid mg b]) := by
  cases rel with
  | true => rfl
  | false =>
    simp only [bufferBytes, mergedByte, Bool.false_and, Bool.false_eq_true, if_false]
    cases mergeNewest b.place.line b.place.offset b.val sc c.storeStamp (c.atomicBound b.place.line) c.rsb <;> rfl

theorem mergedByte_eq_none_iff : mergedByte c sc rel b = none ↔ rel = true ∨
    ∀ e, c.rsb.reverse.find? (fun e => e.line = b.place.line) = some e → e.stamp < c.atomicBound b.place.line := by
  cases rel <;> simp [mergedByte, mergeNewest_eq_none_iff]

theorem mergedByte_some {es : List BufEntry} (h : mergedByte c sc rel b = some es) :
    ∃ xs e ys, c.rsb = xs ++ e :: ys ∧ e.line = b.place.line ∧ (∀ y ∈ ys, y.line ≠ b.place.line) ∧
      es = xs ++ withByte b.place.offset b.val sc c.storeStamp e :: ys := by
  cases rel with
  | true => cases h
  | false => exact mergeNewest_some h

/-- Reads of the buffer after the store, and the order of the bytes of its entries (R116, R249). -/
theorem bufferBytes_one_reads (p : Place) :
    rsbByte { c with rsb := bufferBytes c sc rel asid mg [] c.rsb [b] } p = if p = b.place then some b.val else rsbByte c p := by
  rw [bufferBytes_one, rsbByte_eq_findSome, rsbByte_eq_findSome]
  cases merged : mergedByte c sc rel b with
  | none =>
    by_cases same : p = b.place
    · simp [same, entryByte, openedEntry]
    · have none_here : entryByte p (openedEntry c sc rel asid mg b) = none := by
        by_cases line : b.place.line = p.line
        · have offsets : b.place.offset ≠ p.offset := fun h => same (place_eq_of_line_offset line h).symm
          simp [entryByte, openedEntry, offsets]
        · exact entryByte_of_line_ne line
      simp [same, none_here]
  | some es =>
    obtain ⟨xs, e, ys, before, line, others, rfl⟩ := mergedByte_some c sc rel b merged
    have here := entryByte_withByte b.place p b.val sc c.storeStamp line
    by_cases same : p = b.place
    · have later : ys.reverse.findSome? (entryByte p) = none := by
        rw [List.findSome?_eq_none_iff]
        exact fun y hy => entryByte_of_line_ne (by rw [same]; exact others y (List.mem_reverse.mp hy))
      rw [if_pos same] at here
      simp [same, List.findSome?_append, same ▸ later, same ▸ here]
    · simp [before, same, List.findSome?_append, List.findSome?_cons, here]

theorem bufferBytes_one_length : (bufferBytes c sc rel asid mg [] c.rsb [b]).length =
    if mergedByte c sc rel b = none then c.rsb.length + 1 else c.rsb.length := by
  rw [bufferBytes_one]
  cases merged : mergedByte c sc rel b with
  | none => simp
  | some es =>
    obtain ⟨xs, e, ys, before, -, -, rfl⟩ := mergedByte_some c sc rel b merged
    simp [before]

theorem bufferBytes_one_rising (rising : ∀ e ∈ c.rsb, (e.bytes.map Prod.fst).Pairwise (· < ·)) :
    ∀ e ∈ bufferBytes c sc rel asid mg [] c.rsb [b], (e.bytes.map Prod.fst).Pairwise (· < ·) := by
  rw [bufferBytes_one]
  cases merged : mergedByte c sc rel b with
  | none =>
    intro e mem
    rcases List.mem_append.mp mem with old | new
    · exact rising e old
    · rw [List.mem_singleton.mp new]
      exact List.pairwise_singleton _ _
  | some es =>
    obtain ⟨xs, e, ys, before, -, -, rfl⟩ := mergedByte_some c sc rel b merged
    rw [before] at rising
    intro x mem
    rcases List.mem_append.mp mem with old | new
    · exact rising x (List.mem_append_left _ old)
    · rcases List.mem_cons.mp new with rfl | old
      · exact rising_putByte (rising e (by simp)) _ _
      · exact rising x (by simp [old])

end

/-- Settles O30: the byte merges into the newest entry of its line or opens one, and reads follow from that. -/
theorem storeBuffer : Obligations.StoreBuffer := by
  unfold Obligations.StoreBuffer
  intro c sc rel asid mg b few rising
  have length := bufferBytes_one_length c sc rel asid mg b
  refine ⟨fun c2 taken => ?_, ?_⟩
  · obtain ⟨room, rfl⟩ : (bufferBytes c sc rel asid mg [] c.rsb [b]).length ≤ 32 ∧
        { c with rsb := bufferBytes c sc rel asid mg [] c.rsb [b] } = c2 := by
      simpa [bufferStore] using taken
    have reads := bufferBytes_one_reads c sc rel asid mg b
    exact ⟨(reads b.place).trans (if_pos rfl), fun p other => (reads p).trans (if_neg other), room, rfl,
      bufferBytes_one_rising c sc rel asid mg b rising⟩
  · rw [← mergedByte_eq_none_iff c sc rel b]
    unfold bufferStore
    dsimp only
    rw [length]
    by_cases merged : mergedByte c sc rel b = none
    · simp only [merged, if_true, and_true]
      split <;> simp <;> omega
    · simp [merged, few]

end Sys2Proof.Proofs.Queues
end

section
/-! PROOFS. SPAWN and a push onto the deque (O37). -/

open Sys2Proof Sys2Proof.Machine
open Sys2Proof.Proofs.ExecutionModel (releaseSteps_state releaseSteps_done runCtrl_executes executes_id finishCtrl_fault
  finishCtrl_done finishCtrl_wait getCore_setCore_same getCore_setCore_other)

namespace Sys2Proof.Proofs.Queues

/-! ## The release steps as a pair (R223) -/

theorem releaseSteps_complete {s : State} {c : Ctx} (own : getCtx s c.id = some c) {scope : Nat} (done : ReleaseDone s c scope) :
    releaseSteps s c scope = (released s c scope, true) :=
  Prod.ext (releaseSteps_state s c scope) ((releaseSteps_done own scope).mpr done)

theorem releaseSteps_incomplete {s : State} {c : Ctx} (own : getCtx s c.id = some c) {scope : Nat} (more : ¬ ReleaseDone s c scope) :
    releaseSteps s c scope = (released s c scope, false) :=
  Prod.ext (releaseSteps_state s c scope) (Bool.eq_false_iff.mpr (mt (releaseSteps_done own scope).mp more))

/-! ## SPAWN's last steps (R224) -/

theorem spawnPush_waits {s : State} {c : Ctx} (own : getCtx s c.id = some c) {f : List Word}
    (stays : ¬ ReleaseDone s c 4 ∨ pushFrame (released s c 4) c.launch c.core f = none) :
    spawnPush s c f = .wait (released s c 4) := by
  by_cases done : ReleaseDone s c 4
  · simp [spawnPush, releaseSteps_complete own done, stays.resolve_left (not_not_intro done)]
  · simp [spawnPush, releaseSteps_incomplete own done]

theorem spawnPush_done {s t : State} {c : Ctx} (own : getCtx s c.id = some c) {f : List Word} (done : ReleaseDone s c 4)
    (pushed : pushFrame (released s c 4) c.launch c.core f = some t) :
    spawnPush s c f = .done (addTask t c.launch (· + 1)) none := by
  simp [spawnPush, releaseSteps_complete own done, pushed]

/-- A push onto a deque with a free place (R110, R111). -/
theorem pushFrame_room (s : State) (launch k : Nat) (f : List Word) (room : (getCore s k).deque.length < 256) :
    pushFrame s launch k f = some (setCore s k { getCore s k with deque := (getCore s k).deque ++ [f] }) := by
  have fits : wouldSpill (getCore s k) = false := by simpa [wouldSpill] using room
  simp [pushFrame, ringFull, fits]

/-- Settles O37: SPAWN by how far it has got, and a push by the room in the deque. -/
theorem spawnRunsATask : Obligations.SpawnRunsATask := by
  unfold Obligations.SpawnRunsATask
  refine ⟨?_, fun s launch k f core room => ?_⟩
  · intro sp d s c s1 c1 spec f0 f asid bad h
    have own : getCtx s1 c1.id = some c1 := executes_id h ▸ h.own
    have run : exec (.spawn sp d) s = execSpawn sp d s := rfl
    unfold execSpawn at run
    replace run := run.trans (runCtrl_executes h (illegal := fun _ _ => false) rfl rfl _)
    have push : c1.phase = 1 ∨ (bad = false ∧ c1.depth ≠ 32 ∧ ringFull (getCore s1 c1.core) = false ∧ frameJoin f = 0) →
        exec (.spawn sp d) s = finishCtrl c.id spec c.pc c.pc.toNat (spawnPush s1 c1 f) := by
      rintro (counted | ⟨good, depth, ring, alone⟩)
      · rw [run, if_pos counted]
      · rw [run]
        by_cases counted : c1.phase = 1
        · rw [if_pos counted]
        · rw [if_neg counted, if_neg (by exact Bool.eq_false_iff.mp good), if_neg (by simp [depth, ring]), if_pos alone]
    refine ⟨fun fresh broken => ?_, fun fresh good full => ?_, fun ready => ⟨fun stays => ?_, fun t done pushed => ?_⟩, ?_⟩
    · rw [run, if_neg fresh, if_pos broken, finishCtrl_fault h.own]
    · rw [run, if_neg fresh, if_neg (Bool.eq_false_iff.mp good), if_pos (by simpa using full), finishCtrl_fault h.own]
    · rw [push ready, spawnPush_waits own stays, finishCtrl_wait]
    · rw [push ready, spawnPush_done own done pushed, finishCtrl_done]
    · intro k pin w put fresh good depth ring joined still place home
      have count : exec (.spawn sp d) s = finishCtrl c.id spec c.pc c.pc.toNat
          (if w = 0x7FFFFFFF then .fault s1 TASKOVF 0 else .wait (modCtx (put (w + 1)) c1.id (atPhase 1))) := by
        rw [run, if_neg fresh, if_neg (Bool.eq_false_iff.mp good), if_neg (by simp [depth, ring]), if_neg joined,
          if_neg (by rw [still]; simp)]
        simp only [f, f0, asid] at place home
        simp only [place, home]
      refine ⟨fun most => ?_, fun below => ?_⟩
      · rw [count, if_pos most, finishCtrl_fault h.own]
      · rw [count, if_neg below, finishCtrl_wait]
        rfl
  · refine ⟨_, pushFrame_room s launch k f room, ?_, rfl, fun j other => getCore_setCore_other s other _, ?_⟩
    · rw [getCore_setCore_same core]
    · rw [getCore_setCore_same core]

end Sys2Proof.Proofs.Queues
end

section
/-! PROOFS. Host queues: doorbells, slots, waking, parking, creation and destruction (O54). -/

open Sys2Proof Sys2Proof.Machine
open Sys2Proof.Proofs.ExecutionModel (writeWords_onlyMem)
open Sys2Proof.Proofs.Registers (fqWrite_frame)

namespace Sys2Proof.Proofs.Queues

/-! ## Queues by number -/

theorem getQueue_qid {s : State} {n : Nat} {q : HostQueue} (h : getQueue s n = some q) : q.qid = n := by
  simpa using List.find?_some h

theorem getQueue_congr {s t : State} (h : t.queues = s.queues) (n : Nat) : getQueue t n = getQueue s n := by
  rw [getQueue, h, getQueue]

theorem getQueue_setQueue_same {s : State} {q x : HostQueue} (h : getQueue s q.qid = some x) : getQueue (setQueue s q) q.qid = some q := by
  have number : ((fun y : HostQueue => y.qid == q.qid) ∘ fun y => if y.qid = q.qid then q else y) = fun y => y.qid == q.qid := by
    funext y
    by_cases same : y.qid = q.qid <;> simp [same]
  have found : s.queues.find? (fun y => y.qid == q.qid) = some x := h
  show (s.queues.map _).find? _ = _
  rw [List.find?_map, number, found, Option.map_some, if_pos (getQueue_qid h)]

/-! ## What leaves the queues as they are -/

@[simp] theorem descWrite_queues (s : State) (desc i : Nat) (ws : List Word) : (descWrite s desc i ws).queues = s.queues := by
  rw [descWrite, writeWords_onlyMem]

@[simp] theorem descWrite_launches (s : State) (desc i : Nat) (ws : List Word) : (descWrite s desc i ws).launches = s.launches := by
  rw [descWrite, writeWords_onlyMem]

@[simp] theorem descWrite_ctxs (s : State) (desc i : Nat) (ws : List Word) : (descWrite s desc i ws).ctxs = s.ctxs := by
  rw [descWrite, writeWords_onlyMem]

@[simp] theorem descStatus_queues (s : State) (desc status : Nat) (qid : Option Nat) :
    (descStatus s desc status qid).queues = s.queues := descWrite_queues ..

@[simp] theorem descStatus_launches (s : State) (desc status : Nat) (qid : Option Nat) :
    (descStatus s desc status qid).launches = s.launches := descWrite_launches ..

@[simp] theorem descStatus_ctxs (s : State) (desc status : Nat) (qid : Option Nat) :
    (descStatus s desc status qid).ctxs = s.ctxs := descWrite_ctxs ..

theorem queueError_queues (s : State) (q : HostQueue) (cause : BitVec 8) :
    (queueError s q cause).queues = (setQueue s { q with state := .error, slot := false }).queues := by
  show (descWrite (descStatus _ _ _ _) _ _ _).queues = _
  rw [descWrite_queues, descStatus_queues]

theorem fqBatch_queues (s : State) (rs : List (List Word)) : (fqBatch s rs).2.queues = s.queues := by
  show (fqWrite s s.fqSeq rs).queues = s.queues
  rw [fqWrite_frame]

/-! ## Doorbells (R354, R387) -/

section
variable {v : DWord} {s : State} {q : HostQueue} (found : getQueue s (v.toNat % 2 ^ 32) = some q) (reserved : v.extractLsb' 48 16 = 0)
  (active : q.state = .active)
include found reserved active

theorem exec_doorbell_overflow (tooMany : 2 ^ q.log2n < (v.extractLsb' 32 16 - q.rptr).toNat) :
    exec (.doorbell v) s = .next (queueError s q 4) := by
  show execDoorbell v s = _
  simp only [execDoorbell, found, reserved, active, ne_eq, not_true_eq_false, decide_false, Bool.or_self, Bool.false_eq_true, if_false]
  exact if_pos tooMany

/-- A doorbell that fits sets WPTR, wakes a sleeping queue without a tolerance, and sets the deadline of one that has a tolerance. -/
theorem exec_doorbell_fits (fits : (v.extractLsb' 32 16 - q.rptr).toNat ≤ 2 ^ q.log2n) : ∃ x, exec (.doorbell v) s = .next (setQueue s x) ∧
    x.wptr = v.extractLsb' 32 16 ∧ x.rptr = q.rptr ∧ x.state = .active ∧ x.slot = q.slot ∧
    (q.asleep = false ∨ (v.extractLsb' 32 16 - q.rptr).toNat = 0 → x.asleep = q.asleep ∧ x.deadline = q.deadline) ∧
    (q.asleep = true → (v.extractLsb' 32 16 - q.rptr).toNat ≠ 0 → queueTol s q = 0 → x.asleep = false) ∧
    (q.asleep = true → (v.extractLsb' 32 16 - q.rptr).toNat ≠ 0 → queueTol s q ≠ 0 →
      x.asleep = true ∧ x.deadline = some (s.time0 + queueTol s q)) := by
  have run : exec (.doorbell v) s = execDoorbell v s := rfl
  simp only [execDoorbell, found, reserved, active, ne_eq, not_true_eq_false, decide_false, Bool.or_self, Bool.false_eq_true,
    if_false, HostQueue.pending, Nat.not_lt.mpr fits] at run
  by_cases still : q.asleep = false ∨ (v.extractLsb' 32 16 - q.rptr).toNat = 0
  · rw [if_pos (by rcases still with h | h <;> simp [h])] at run
    refine ⟨_, run, rfl, rfl, rfl, rfl, fun _ => ⟨rfl, rfl⟩, fun asleep more => ?_, fun asleep more => ?_⟩ <;>
      exact absurd still (not_or.mpr ⟨by simp [asleep], more⟩)
  · obtain ⟨asleep, more⟩ := not_or.mp still
    rw [if_neg (by rw [Bool.or_eq_true, not_or]; exact ⟨by simp [asleep], fun h => more (of_decide_eq_true h)⟩)] at run
    by_cases tol : queueTol s q = 0
    · rw [if_pos tol] at run
      exact ⟨_, run, rfl, rfl, rfl, rfl, fun h => absurd h still, fun _ _ _ => rfl, fun _ _ h => absurd tol h⟩
    · rw [if_neg tol] at run
      exact ⟨_, run, rfl, rfl, rfl, rfl, fun h => absurd h still, fun _ _ h => absurd h tol, fun h _ _ => ⟨h, rfl⟩⟩

end

/-! ## Slots, waking and parking (R118, R120, R121, R354) -/

section
variable {s : State} {x : HostQueue} (found : getQueue s x.qid = some x) (power : powered s = true)
include found power

theorem exec_queueSlotTake (wants : x.wantsSlot = true) (first : ∀ y ∈ s.queues, y.wantsSlot = true → queueBefore s y x = false) :
    exec (.queueSlotTake x.qid) s = if (s.queues.filter (fun y => y.slot)).length < 128 then .next (setQueue s { x with slot := true })
      else (lowestHolder s).elim (.next s) fun y => if queuePrio s y < queuePrio s x then
        .next (setQueue (setQueue s { y with slot := false }) { x with slot := true }) else .next s := by
  have none_before : s.queues.any (fun y => y.wantsSlot && queueBefore s y x) = false := by simpa using first
  show execQueueSlotTake x.qid s = _
  simp only [execQueueSlotTake, found, wants, power, none_before, Bool.not_true, Bool.or_self, Bool.false_eq_true, if_false]
  cases lowestHolder s <;> rfl

theorem exec_queueUnpark_owing {va : Nat} (owes : x.owing = some va) : exec (.queueUnpark x.qid) s = .next (parkQueue s x va) := by
  show execQueueUnpark x.qid s = _
  simp only [execQueueUnpark, found, power, owes, Bool.not_true, Bool.false_eq_true, if_false]

theorem exec_queueUnpark_parked {b : Nat} (parked : x.parked = some b) (owes : x.owing = none) :
    exec (.queueUnpark x.qid) s = .next (if batchPassed s b then setQueue s { x with parked := none } else s) := by
  show execQueueUnpark x.qid s = _
  simp only [execQueueUnpark, found, power, owes, parked, Bool.not_true, Bool.false_eq_true, if_false, Option.any_some]
  split <;> rfl

end

theorem parkQueue_waits {s : State} {x : HostQueue} {va : Nat} (owes : x.owing = some va)
    (full : ¬ (fqRoom s 1 = true ∨ fqServes s (.queue x.qid) 1 = true)) :
    parkQueue s x va = fqJoin (setQueue s { x with slot := false }) (.queue x.qid) := by
  have same : ({ x with slot := false, owing := some va } : HostQueue) = { x with slot := false } := by rw [← owes]
  rw [parkQueue, if_neg (by simpa using full), same]

theorem parkQueue_writes {s : State} {x : HostQueue} (va : Nat) (room : fqRoom s 1 = true ∨ fqServes s (.queue x.qid) 1 = true) :
    ∃ t b, parkQueue s x va = setQueue t { x with slot := false, parked := some b, owing := none } ∧ t.queues = s.queues := by
  rw [parkQueue, if_pos (by simpa using room)]
  exact ⟨_, _, rfl, fqBatch_queues ..⟩

theorem exec_queueWake (s : State) (power : powered s = true) : exec .queueWake s =
    if s.queues.any (fun q => q.asleep && q.deadline.any (fun t => t ≤ s.time0)) then
      .next { s with queues := s.queues.map (fun q => if q.asleep && q.deadline.isSome then
        { q with asleep := false, deadline := none } else q) }
    else .next s := by
  show execQueueWake s = _
  simp only [execQueueWake, power, Bool.and_true]

/-- A sleeping queue's deadline has come. -/
theorem deadlineCome_iff (s : State) : s.queues.any (fun q => q.asleep && q.deadline.any (fun t => t ≤ s.time0)) = true ↔
    ∃ q ∈ s.queues, q.asleep = true ∧ ∃ t, q.deadline = some t ∧ t ≤ s.time0 := by
  simp [Option.any_eq_true]

/-! ## Creation and destruction (R385, R386) -/

/-- A number is free while the queues and the launches are fewer than the numbers. -/
theorem exists_qidFree {s : State} (few : s.queues.length + s.launches.length < 65536) : ∃ n, n < 65536 ∧ qidFree s n = true := by
  by_contra taken
  have used : List.range 65536 ⊆ s.queues.map HostQueue.qid ++ s.launches.map Launch.queue := by
    intro n hn
    have busy : ¬ qidFree s n = true := fun free => taken ⟨n, List.mem_range.mp hn, free⟩
    simp only [qidFree, Bool.and_eq_true, not_and_or, Option.isNone_iff_eq_none, getQueue, List.find?_eq_none, Bool.not_eq_true',
      List.any_eq_false] at busy
    rw [List.mem_append]
    rcases busy with queue | launch
    · push Not at queue
      obtain ⟨q, mem, same⟩ := queue
      exact .inl (List.mem_map.mpr ⟨q, mem, by simpa using same⟩)
    · push Not at launch
      obtain ⟨l, mem, same⟩ := launch
      exact .inr (List.mem_map.mpr ⟨l, mem, by simpa using same⟩)
  have most := (List.subperm_of_subset List.nodup_range used).length_le
  simp only [List.length_range, List.length_append, List.length_map] at most
  omega

/-- The number of a new queue is free, and drawing it takes one free value alone (log entry 16). -/
theorem newQid_spec {s : State} (few : s.queues.length + s.launches.length < 65536) :
    (newQid s).1 < 65536 ∧ qidFree s (newQid s).1 = true ∧ (newQid s).2 = (drawFree s).2 := by
  unfold newQid
  dsimp only
  split
  next drawn => exact ⟨Nat.mod_lt _ (by decide), drawn, rfl⟩
  next busy =>
    obtain ⟨n, below, free⟩ := exists_qidFree few
    obtain ⟨m, found⟩ : ∃ m, (List.range 65536).find? (qidFree s) = some m := by
      rw [← Option.isSome_iff_exists, List.find?_isSome]
      exact ⟨n, List.mem_range.mpr below, free⟩
    rw [found]
    exact ⟨List.mem_range.mp (List.mem_of_find?_eq_some found), List.find?_some found, rfl⟩

/-- The queue that a descriptor describes, as it is created (R386). -/
def describedQueue (qid desc : Nat) (ws : List Word) : HostQueue :=
  { qid := qid, desc := desc, asid := BitVec.ofNat 16 (bits (ws.getD 1 0) 31 16), log2n := bits (ws.getD 1 0) 4 0
    token := (ws.getD 0 0).getLsbD 3, ring := pair64 (ws.getD 2 0) (ws.getD 3 0), region := pair64 (ws.getD 4 0) (ws.getD 5 0)
    lattol := (ws.getD 6 0).toNat, rptr := 0, wptr := 0, state := .active, asleep := true, deadline := none, bells := []
    slot := false, parked := none, owing := none }

section
variable {v : DWord} {s : State} (op : v.toNat % 64 = 1) (ready : s.ready = true) (cool : s.supply ≠ .retention true)
  (on : s.supply ≠ .off)
include op ready cool on

theorem exec_queueCreate_bad (bad : descriptorBad (readWords s (hostKey (v.toNat / 64 * 64)) 16) = true) :
    exec (.queueCreate v) s = .next (descStatus s (v.toNat / 64 * 64) 4 none) := by
  show execQueueCreate v s = _
  simp [execQueueCreate, qctlIs, readyBit, thermalHold, op, ready, cool, on, bad]

theorem exec_queueCreate_good (good : descriptorBad (readWords s (hostKey (v.toNat / 64 * 64)) 16) = false)
    (few : s.queues.length + s.launches.length < 65536) : exec (.queueCreate v) s =
      .next (descWrite (descStatus { (drawFree s).2 with queues := s.queues ++
        [describedQueue (newQid s).1 (v.toNat / 64 * 64) (readWords s (hostKey (v.toNat / 64 * 64)) 16)] }
        (v.toNat / 64 * 64) 1 (some (newQid s).1)) (v.toNat / 64 * 64) 7 [0, 0]) := by
  obtain ⟨below, -, drawn⟩ := newQid_spec few
  show execQueueCreate v s = _
  simp only [execQueueCreate, qctlIs, readyBit, thermalHold, op, ready, good, decide_true, Bool.not_true, Bool.and_true, Bool.or_self,
    Bool.false_eq_true, if_false, Nat.ne_of_lt below, beq_eq_false_iff_ne.mpr cool, beq_eq_false_iff_ne.mpr on, Bool.not_false, drawn]
  rfl

end

theorem exec_queueDestroy {v : DWord} {s : State} (op : v.toNat % 64 = 2) (on : s.supply ≠ .off) (boot : s.stage ≠ 0xFF)
    (known : ∃ q ∈ s.queues, q.desc = v.toNat / 64 * 64) : ∃ t, exec (.queueDestroy v) s = .next t ∧
      t.queues = s.queues.filter (fun q => q.desc ≠ v.toNat / 64 * 64) ∧ t.launches = s.launches ∧ t.ctxs = s.ctxs := by
  have any : s.queues.any (fun q => q.desc = v.toNat / 64 * 64) = true := by simpa using known
  have run : exec (.queueDestroy v) s = execQueueDestroy v s := rfl
  simp only [execQueueDestroy, qctlIs, op, boot, any, decide_true, decide_false, Bool.not_true, Bool.or_self, Bool.false_eq_true,
    if_false, beq_eq_false_iff_ne.mpr on] at run
  exact ⟨_, run, descStatus_queues .., descStatus_launches .., descStatus_ctxs ..⟩

/-- Settles O54, event by event. -/
theorem hostQueues : Obligations.HostQueues := by
  unfold Obligations.HostQueues
  refine ⟨⟨?_, ?_, ?_, ?_⟩, ?_, fun v s op on boot known => exec_queueDestroy op on boot known⟩
  · intro v s q found reserved active w n
    refine ⟨fun tooMany => ⟨exec_doorbell_overflow found reserved active tooMany, { q with state := .error, slot := false }, ?_, rfl, rfl⟩,
      fun fits => exec_doorbell_fits found reserved active fits⟩
    rw [getQueue_congr (queueError_queues s q 4)]
    exact getQueue_setQueue_same (q := { q with state := .error, slot := false }) (by rwa [getQueue_qid found])
  · intro s x found power wants first
    rw [exec_queueSlotTake found power wants first]
    refine ⟨fun free => if_pos free, fun full y lowest => ?_⟩
    rw [if_neg (Nat.not_lt.mpr full), lowest]
    exact ⟨fun outranks => if_pos outranks, fun ranks => if_neg (Nat.not_lt.mpr ranks)⟩
  · intro s power
    rw [exec_queueWake s power]
    refine ⟨fun come => if_pos ((deadlineCome_iff s).mpr come), fun later => if_neg fun come => ?_⟩
    obtain ⟨q, mem, asleep, t, deadline, due⟩ := (deadlineCome_iff s).mp come
    exact absurd due (Nat.not_le.mpr (later q mem asleep t deadline))
  · intro s x found power
    refine ⟨fun b parked owes => exec_queueUnpark_parked found power parked owes, fun va owes => ?_⟩
    rw [exec_queueUnpark_owing found power owes]
    refine ⟨fun full => by rw [parkQueue_waits owes full], fun room => ?_⟩
    obtain ⟨t, b, parks, same⟩ := parkQueue_writes (x := x) va room
    exact ⟨t, b, by rw [parks], same⟩
  · intro v s op ready cool on desc ws
    refine ⟨fun bad => exec_queueCreate_bad op ready cool on bad, fun good few => ?_⟩
    obtain ⟨below, free, -⟩ := newQid_spec few
    obtain ⟨number, launches⟩ : getQueue s (newQid s).1 = none ∧ ∀ l ∈ s.launches, l.queue ≠ (newQid s).1 := by
      simpa [qidFree, Option.isNone_iff_eq_none] using free
    refine ⟨_, _, exec_queueCreate_good op ready cool on good few, (descWrite_queues ..).trans (descStatus_queues ..), number, launches,
      below, rfl, rfl, rfl, rfl, rfl, rfl, rfl, rfl, rfl, Nat.mod_eq_of_lt (Nat.mod_lt _ (by decide))⟩

end Sys2Proof.Proofs.Queues
end

section
/-! PROOFS. The parser's packets (O55). -/

open Sys2Proof Sys2Proof.Machine

namespace Sys2Proof.Proofs.Queues

/-! ## The parser at a queue's next packet (R353, R387, R388) -/

/-- The parser may take the next packet of queue `x`, and has read its words `ws`, which leaves `s1`. -/
structure Parses (s : State) (x : HostQueue) (ws : List Word) (s1 : State) : Prop where
  found : getQueue s x.qid = some x
  serves : servable s x = true
  first : servedFirst s x = true
  power : powered s = true
  ready : s.ready = true
  idle : s.selftest = none
  read : parserRead s x.asid x.packetVa 16 = .words ws s1

section
variable {s s1 : State} {x : HostQueue} {ws : List Word} (h : Parses s x ws s1)
  {is : Nat → Bool} {f : HostQueue → List Word → State → Host.Outcome State Fault Refusal} (type : is (packetType ws) = true)
include h type

theorem servePacket_eq : servePacket is f x.qid s =
    if packetCause ws ≠ 0 then .next (queueError s1 x (BitVec.ofNat 8 (packetCause ws))) else f x ws s1 := by
  obtain ⟨found, serves, first, power, ready, idle, read⟩ := h
  simp only [servePacket, found, serves, first, power, ready, idle, read, type, afterRead, Bool.not_true, Option.isSome_none,
    Bool.or_self, Bool.false_eq_true, if_false]

theorem servePacket_bad (bad : packetCause ws ≠ 0) :
    servePacket is f x.qid s = .next (queueError s1 x (BitVec.ofNat 8 (packetCause ws))) := (servePacket_eq h type).trans (if_pos bad)

theorem servePacket_good (good : packetCause ws = 0) : servePacket is f x.qid s = f x ws s1 :=
  (servePacket_eq h type).trans (if_neg (not_not_intro good))

end

theorem signalHeld_iff (s : State) (x : HostQueue) :
    signalHeld s x = true ↔ ∃ l ∈ s.launches, l.queue = x.qid ∧ recorded s l.id = false := by
  simp [signalHeld]

/-- Of a packet of a known type, an error comes before what the type says. -/
theorem exec_packet_bad {s s1 : State} {x : HostQueue} {ws : List Word} (h : Parses s x ws s1) (bad : packetCause ws ≠ 0) :
    let e : Host.Outcome State Fault Refusal := .next (queueError s1 x (BitVec.ofNat 8 (packetCause ws)))
    (packetType ws = 0 → exec (.nopPacket x.qid) s = e) ∧ (packetType ws = 1 → exec (.launchPacket x.qid) s = e) ∧
      (packetType ws = 2 → exec (.waitPacket x.qid) s = e) ∧ (packetType ws = 3 → exec (.signalPacket x.qid) s = e) ∧
      (packetType ws = 4 → exec (.regionPacket x.qid) s = e) := by
  refine ⟨fun type => ?_, fun type => ?_, fun type => ?_, fun type => ?_, fun type => ?_⟩
  · show execNopPacket x.qid s = _
    exact servePacket_bad h (decide_eq_true type) bad
  · show execLaunchPacket x.qid s = _
    exact servePacket_bad h (decide_eq_true type) bad
  · show execWaitPacket x.qid s = _
    exact servePacket_bad h (decide_eq_true type) bad
  · show execSignalPacket x.qid s = _
    exact servePacket_bad h (decide_eq_true type) bad
  · show execRegionPacket x.qid s = _
    exact servePacket_bad h (decide_eq_true type) bad

/-! ## Packets by type, with no cause of an error -/

theorem newLaunch_asid (s : State) (q : HostQueue) (ws : List Word) (addr : Nat) (image : List Word) (stage : LaunchStage) :
    (newLaunch s q ws addr image stage).asid = BitVec.ofNat 16 (bits (ws.getD 0 0) 31 16) := rfl

theorem newLaunch_sink (s : State) (q : HostQueue) (ws : List Word) (addr : Nat) (image : List Word) (stage : LaunchStage) :
    (newLaunch s q ws addr image stage).sink = (ws.getD 0 0).getLsbD 2 := rfl

section
variable {s s1 : State} {x : HostQueue} {ws : List Word} (h : Parses s x ws s1) (good : packetCause ws = 0)
include h good

theorem exec_nopPacket (type : packetType ws = 0) : exec (.nopPacket x.qid) s = .next (takePacket s1 x) := by
  show execNopPacket x.qid s = _
  exact servePacket_good h (decide_eq_true type) good

theorem exec_waitPacket_words (type : packetType ws = 2) {vs : List Word} {s2 : State}
    (word : parserRead s1 x.asid (packetAddr ws) 1 = .words vs s2) : exec (.waitPacket x.qid) s =
      if trywCond (packetArg ws) (vs.getD 0 0) (ws.getD 4 0) then .next (takePacket s2 x) else .next s := by
  show execWaitPacket x.qid s = _
  refine (servePacket_good h (decide_eq_true type) good).trans ?_
  simp only [word, afterRead]

theorem exec_waitPacket_absent (type : packetType ws = 2) (absent : parserRead s1 x.asid (packetAddr ws) 1 = .absent) :
    exec (.waitPacket x.qid) s = .next (parkQueue s x (packetAddr ws)) := by
  show execWaitPacket x.qid s = _
  refine (servePacket_good h (decide_eq_true type) good).trans ?_
  simp only [absent]

theorem exec_signalPacket_held (type : packetType ws = 3) (held : signalHeld s x = true) : exec (.signalPacket x.qid) s = .next s := by
  show execSignalPacket x.qid s = _
  exact (servePacket_good h (decide_eq_true type) good).trans (if_pos held)

theorem exec_signalPacket_done (type : packetType ws = 3) (free : signalHeld s x = false) {s2 : State}
    (written : signalWrite s s1 x ws = .done s2) : exec (.signalPacket x.qid) s =
      .next (if (ws.getD 0 0).getLsbD 12 then raiseVector (takePacket s2 x) 4 else takePacket s2 x) := by
  show execSignalPacket x.qid s = _
  refine (servePacket_good h (decide_eq_true type) good).trans ((if_neg (Bool.eq_false_iff.mp free)).trans ?_)
  simp only [written]

theorem exec_regionPacket (type : packetType ws = 4) {bs : List Word} {s2 : State}
    (block : parserRead s1 x.asid (packetAddr ws) 32 = .words bs s2) : exec (.regionPacket x.qid) s =
      if nodeBad s2 bs then .next (queueError (drawFree s2).2 x ((drawFree s2).1.extractLsb' 0 8))
      else .next (takePacket (recharge (acceptNode s2 x.asid (packetAddr ws) bs)) x) := by
  show execRegionPacket x.qid s = _
  refine (servePacket_good h (decide_eq_true type) good).trans ?_
  simp only [block, afterRead]

/-! LAUNCH (R135, R155) -/

/-- What a LAUNCH packet does with the launch record's words `rs`, read in `s2`. -/
theorem exec_launchPacket_record (type : packetType ws = 1) {rs : List Word} {s2 : State}
    (record : parserRead s1 x.asid (packetAddr ws) 64 = .words rs s2) (bad : recordBad rs = true) : exec (.launchPacket x.qid) s =
      .next (takePacket (addLaunch s2 (newLaunch s2 x rs (packetAddr ws) [] (.closing 4 0 0 0))) x) := by
  show execLaunchPacket x.qid s = _
  refine (servePacket_good h (decide_eq_true type) good).trans ?_
  simp only [record, afterRead]
  exact if_pos bad

section
variable (type : packetType ws = 1) {rs bs : List Word} {s2 s3 : State}
  (record : parserRead s1 x.asid (packetAddr ws) 64 = .words rs s2) (sound : recordBad rs = false)
  (block : parserRead s2 (BitVec.ofNat 16 (bits (rs.getD 0 0) 31 16)) (pair64 (rs.getD 34 0) (rs.getD 35 0)) 32 = .words bs s3)
include type record sound block

theorem exec_launchPacket_region (bad : regionGood s3 bs = false) : exec (.launchPacket x.qid) s =
    .next (takePacket (addLaunch s3 (newLaunch s2 x rs (packetAddr ws) [] (.closing 4 0 0 0))) x) := by
  show execLaunchPacket x.qid s = _
  refine (servePacket_good h (decide_eq_true type) good).trans ?_
  simp only [record, afterRead, sound, newLaunch_asid, block, bad, Bool.not_false, Bool.false_eq_true, if_false, if_true]

/-- With its image read, a sound launch waits, or is published where it is in sink mode. -/
theorem exec_launchPacket_image (region : regionGood s3 bs = true) {image : List Word} {s4 : State}
    (slots : parserRecords (BitVec.ofNat 16 (bits (rs.getD 0 0) 31 16)) (pair64 (rs.getD 32 0) (rs.getD 33 0))
      (bits (rs.getD 0 0) 15 8) s3 = .words image s4) : exec (.launchPacket x.qid) s =
    let t := acceptNode s4 (BitVec.ofNat 16 (bits (rs.getD 0 0) 31 16)) (pair64 (rs.getD 34 0) (rs.getD 35 0)) bs
    let l := newLaunch t x rs (packetAddr ws) image .waiting
    if (rs.getD 0 0).getLsbD 2 then
      match publish s t l with
      | .done u => .next (takePacket u x)
      | .later u => .next u
      | .absent _ => .next s
    else .next (takePacket (addLaunch t l) x) := by
  show execLaunchPacket x.qid s = _
  refine (servePacket_good h (decide_eq_true type) good).trans ?_
  simp only [record, afterRead, sound, newLaunch_asid, newLaunch_sink, block, region, slots, Bool.not_true, Bool.false_eq_true,
    if_false]
  rfl

end
end

/-! ## A taken packet -/

/-- A taken packet moves RPTR, and a queue with nothing pending sleeps without its slot. -/
theorem getQueue_takePacket {s : State} {x : HostQueue} (found : getQueue s x.qid = some x) :
    ∃ q, getQueue (takePacket s x) x.qid = some q ∧ q.rptr = x.rptr + 1 ∧ q.wptr = x.wptr ∧
      (x.wptr = x.rptr + 1 → q.asleep = true ∧ q.slot = false) ∧ (x.wptr ≠ x.rptr + 1 → q.asleep = x.asleep ∧ q.slot = x.slot) := by
  have drained : ({ x with rptr := x.rptr + 1 } : HostQueue).pending = 0 ↔ x.wptr = x.rptr + 1 := by
    rw [HostQueue.pending, ← BitVec.toNat_zero (w := 16), BitVec.toNat_inj]
    exact sub_eq_zero
  unfold takePacket
  dsimp only
  rw [getQueue_congr (descWrite_queues ..)]
  by_cases empty : x.wptr = x.rptr + 1
  · rw [if_pos (drained.mpr empty)]
    exact ⟨_, getQueue_setQueue_same found, rfl, rfl, fun _ => ⟨rfl, rfl⟩, fun more => absurd empty more⟩
  · rw [if_neg (mt drained.mp empty)]
    exact ⟨_, getQueue_setQueue_same found, rfl, rfl, fun drained => absurd drained empty, fun _ => ⟨rfl, rfl⟩⟩

theorem packetCause_unknown {ws : List Word} (unknown : 4 < packetType ws) : packetCause ws = 1 := if_pos unknown

/-- Settles O55, packet by packet. -/
theorem packets : Obligations.Packets := by
  unfold Obligations.Packets
  refine ⟨?_, ?_, fun s x found => getQueue_takePacket found⟩
  · intro s x ws s1 found serves first power ready idle read run ty bad
    have h : Parses s x ws s1 := ⟨found, serves, first, power, ready, idle, read⟩
    refine ⟨fun unknown => ?_, fun cause => ?_, fun good => ⟨?_, fun type => ?_, fun type => ?_, fun type bs s2 block => ?_⟩⟩
    · have cause := packetCause_unknown unknown
      refine ⟨cause, ?_⟩
      show execUnknownPacket x.qid s = _
      exact servePacket_bad h (decide_eq_true unknown) (by rw [cause]; decide)
    · exact exec_packet_bad h cause
    · exact exec_nopPacket h good
    · refine ⟨fun vs s2 word => ?_, exec_waitPacket_absent h good type⟩
      have runs := exec_waitPacket_words h good type word
      exact ⟨fun holds => runs.trans (if_pos holds), fun fails => runs.trans (if_neg (Bool.eq_false_iff.mp fails))⟩
    · refine ⟨fun held => exec_signalPacket_held h good type ((signalHeld_iff s x).mpr held), fun ended s2 written => ?_⟩
      have free : signalHeld s x = false := by simpa [signalHeld] using ended
      exact exec_signalPacket_done h good type free written
    · have runs := exec_regionPacket h good type block
      exact ⟨fun sound => runs.trans (if_neg (Bool.eq_false_iff.mp sound)), fun broken => ⟨_, _, runs.trans (if_pos broken), rfl⟩⟩
  · intro s x pk ws s0 s1 found serves first power ready idle read type good record bad node asid
    have h : Parses s x pk s0 := ⟨found, serves, first, power, ready, idle, read⟩
    refine ⟨exec_launchPacket_record h good type record, fun sound bs s2 block => ⟨exec_launchPacket_region h good type record sound block,
      fun region image s3 slots => ?_⟩⟩
    have runs := exec_launchPacket_image h good type record sound block region slots
    refine ⟨fun plain => runs.trans (if_neg (Bool.eq_false_iff.mp plain)), fun sink u => ⟨fun published => ?_, fun later => ?_⟩⟩
    · refine runs.trans ((if_pos sink).trans ?_)
      simp only [asid, node] at published
      simp only [published]
    · refine runs.trans ((if_pos sink).trans ?_)
      simp only [asid, node] at later
      simp only [later]

end Sys2Proof.Proofs.Queues
end

section
/-! PROOFS. What follows a lane instruction's own effect, and stores (O45). -/

open Sys2Proof Sys2Proof.Machine

namespace Sys2Proof.Proofs.Queues

/-! ## What follows a lane instruction's own effect (R140) -/

theorem runLane_executes {spec : LaneSpec} {s : State} {c : Ctx} {q : Clause} (h : LaneExecutes spec s c q)
    (own : spec.ownChecks = false) (body : State → Ctx → Clause → LaneMask → LAct) :
    runLane spec body s = finishLane c.id q spec (body s c q (activeLanes c q spec.f)) :=
  runLane_passes spec body s c q h.turn h.passes own

theorem finishLane_done (id : Nat) (q : Clause) (spec : LaneSpec) (t : State) :
    finishLane id q spec (.done t) = .next (laneDone spec q id t) := by
  simp only [finishLane, laneDone]
  cases getCtx t id <;> rfl

theorem finishLane_fly (id : Nat) (q : Clause) (spec : LaneSpec) (t : State) (fl : Flight) :
    finishLane id q spec (.fly t fl) = .next (laneFlies spec q id t fl) := by
  simp only [finishLane, laneFlies]
  cases getCtx t id <;> rfl

theorem finishLane_wait (id : Nat) (q : Clause) (spec : LaneSpec) (t : State) : finishLane id q spec (.wait t) = .next t := rfl

theorem finishLane_fault {t : State} {c : Ctx} (found : getCtx t c.id = some c) (q : Clause) (spec : LaneSpec) (code : Nat)
    (lane : Option Nat) (addr : Word) :
    finishLane c.id q spec (.fault t code lane addr) = .next (takeFault t c code lane true q.at addr) := by
  simp only [finishLane, found]

theorem laneDone_mem (spec : LaneSpec) (q : Clause) (id : Nat) (t : State) : (laneDone spec q id t).mem = t.mem := by
  unfold laneDone
  cases getCtx t id <;> rfl

/-! ## Accesses against which nothing stands (R247) -/

theorem laneChecks_clear {hs : List (Nat × Hit)} (clear : hitsClear hs) (s : State) (c : Ctx) (q : Clause) (write : Bool)
    (asid mg : BitVec 16) : laneChecks s c q write asid mg hs = none := by
  have ranks : hs.filterMap (fun h => h.2.rank) = [] := by
    rw [List.filterMap_eq_nil_iff]
    intro h mem
    rcases clear h mem with oob | ⟨p, va, g, n, ok⟩
    · rw [oob]; rfl
    · rw [ok]; rfl
  have holes : holeHit hs = none := by
    unfold holeHit
    rw [List.head?_eq_none_iff, List.filterMap_eq_nil_iff]
    intro h mem
    rcases clear h mem with oob | ⟨p, va, g, n, ok⟩
    · rw [oob]
    · rw [ok]
  have decided : decideHits hs = none := by simp [decideHits, ranks]
  simp [laneChecks, decided, holes]

/-- The peers' checks that pass take nothing but their own requests away. -/
theorem peersChecked_ok {i : Instr} {s s1 : State} {c : Ctx} {q : Clause} {asid mg : BitVec 16} {hs : List (Nat × Hit)}
    (asked : peersChecked i s c q asid mg hs = .ok s1) : s1 = { s with requests := s1.requests } := by
  have remote : ∀ write n, remoteCheck s c q write n asid mg hs = .ok s1 → s1 = { s with requests := s1.requests } := by
    intro write n passed
    unfold remoteCheck at passed
    dsimp only at passed
    split at passed
    · cases passed
    · split at passed
      · cases passed
        rfl
      · split at passed <;> cases passed
  unfold peersChecked at asked
  split at asked
  · exact remote _ _ asked
  · exact remote _ _ asked
  · exact remote _ _ asked
  · cases asked
    rfl

/-! ## Stores (R116, R249, R250, R254) -/

/-- The checks of a buffer form that pass, its peers' among them (R247). -/
theorem bufferAct_passes {s s1 : State} {c : Ctx} {q : Clause} {f : LaneForm} {m : LaneMask} {size4 write : Bool} {read : Reading} {n : Nat}
    {r : Rec} (record : bufferSpecCheck s c q f size4 write n = .ok r) (clear : hitsClear (bufferHits s c q f r write read n m))
    (asked : remoteCheck s c q write n r.asid (r.generation s) (bufferHits s c q f r write read n m) = .ok s1)
    (access : State → BitVec 16 → BitVec 16 → List (Nat × Hit) → LAct) : bufferAct s c q f m size4 write read n access =
      access s1 r.asid (r.generation s) (bufferHits s c q f r write read n m) := by
  simp only [bufferAct, record, laneChecks_clear clear, asked]

theorem localStore_passes {op : Nat} {run : Bool} {f : LaneForm} {s : State} {c : Ctx} {q : Clause}
    (h : LaneExecutes (storeSpec op f) s c q) (clear : hitsClear (localHits s c q f run .none (widthOf f) (activeLanes c q f))) :
    localStore op run f s = finishLane c.id q (storeSpec op f)
      (storeAct s c f 0 0 (localHits s c q f run .none (widthOf f) (activeLanes c q f))) := by
  refine (runLane_executes h rfl _).trans (congrArg (finishLane c.id q (storeSpec op f)) ?_)
  dsimp only
  rw [show (storeSpec op f).f = f from rfl, laneChecks_clear clear]

/-- A store whose accesses nothing stands against takes its own effect. -/
theorem exec_store {i : Instr} {op : Nat} {f : LaneForm} (form : storeForm i = some (op, f)) {s s1 : State} {c : Ctx} {q : Clause}
    {asid mg : BitVec 16} {hs : List (Nat × Hit)} (h : LaneExecutes (storeSpec op f) s c q)
    (hits : formHits i s c q (activeLanes c q f) = some (asid, mg, hs)) (clear : hitsClear hs)
    (asked : peersChecked i s c q asid mg hs = .ok s1) :
    exec i s = finishLane c.id q (storeSpec op f) (storeAct s1 c f asid mg hs) := by
  unfold storeForm at form
  split at form <;> cases form
  case h_1 =>
    cases record : bufferSpecCheck s c q f false true (widthOf f) with
    | error e => simp [formHits, record] at hits
    | ok r =>
      simp only [formHits, record, Option.some.injEq, Prod.mk.injEq] at hits
      obtain ⟨rfl, rfl, rfl⟩ := hits
      show execBst f s = _
      exact (runLane_executes h rfl _).trans (congrArg (finishLane c.id q (storeSpec 0x51 f)) (bufferAct_passes record clear asked _))
  case h_2 =>
    cases hits
    cases asked
    exact localStore_passes (run := false) h clear
  case h_3 =>
    cases hits
    cases asked
    show execPst f s = _
    refine (runLane_executes h rfl _).trans (congrArg (finishLane c.id q (storeSpec 0x58 f)) ?_)
    dsimp only
    rw [show (storeSpec 0x58 f).f = f from rfl, laneChecks_clear clear]
  case h_4 =>
    cases hits
    cases asked
    exact localStore_passes (run := true) h clear

/-- The bytes of a store for other places than own register rows, as they enter the buffer, in lane order. -/
def bufferedBytes (s : State) (c : Ctx) (f : LaneForm) (hs : List (Nat × Hit)) : List StoreByte :=
  (storedBytes s c f false hs).flatMap (fun a => elementBytes a.1 a.2.1 (if a.2.2.1 = 0 then none else some a.2.2.1) a.2.2.2)

section
variable {s : State} {c c1 : Ctx} {f : LaneForm} {asid mg : BitVec 16} {hs : List (Nat × Hit)}

/-- A store that has passed its checks, by what goes to own register rows and what goes to the buffer. -/
theorem storeAct_eq : storeAct s c f asid mg hs =
    (bufferStore c f.scope f.releases asid mg (bufferedBytes s c f hs)).elim (.fault s REGION none 0) fun c1 =>
      let own := storedBytes s c f true hs
      let steps := if f.releases then releaseSteps s c f.scope.toNat else (s, true)
      if own.isEmpty then .done (setCtx s c1)
      else if own.any (fun a => c.accessPending a.1 (widthOf f)) then .wait s
      else if !steps.2 then .wait steps.1
      else .done (writeOwn (modCtx steps.1 c.id (fun x => { x with rsb := c1.rsb })) c (own.map (fun a => (a.1, a.2.2.2)))) := by
  unfold storeAct bufferedBytes
  dsimp only
  generalize accs_eq : List.filterMap _ hs = accs
  have parts : ∀ (own : Bool) (p : Place × Nat × BitVec 12 × List Byte → Bool), (∀ a, p a = decide (ownRow c a.1 = own)) →
      accs.filter p = storedBytes s c f own hs := by
    intro own p decides
    rw [← accs_eq, List.filter_filterMap]
    refine List.filterMap_congr fun h _ => ?_
    obtain ⟨l, hit⟩ := h
    cases hit with
    | ok place va g cnt => simp [Option.filter, decides]
    | _ => rfl
  rw [parts true (fun a => ownRow c a.1) (by simp), parts false (fun a => !ownRow c a.1) (by simp)]
  cases bufferStore c f.scope f.releases asid mg _ <;> rfl

variable (taken : bufferStore c f.scope f.releases asid mg (bufferedBytes s c f hs) = some c1)

theorem storeAct_full (full : bufferStore c f.scope f.releases asid mg (bufferedBytes s c f hs) = none) :
    storeAct s c f asid mg hs = .fault s REGION none 0 := by
  rw [storeAct_eq, full]
  rfl

include taken

theorem storeAct_buffered (none_own : storedBytes s c f true hs = []) : storeAct s c f asid mg hs = .done (setCtx s c1) := by
  rw [storeAct_eq, taken, Option.elim_some, none_own]
  rfl

variable (some_own : storedBytes s c f true hs ≠ [])
include some_own

theorem storeAct_held (held : ∃ a ∈ storedBytes s c f true hs, c.accessPending a.1 (widthOf f) = true) :
    storeAct s c f asid mg hs = .wait s := by
  rw [storeAct_eq, taken, Option.elim_some]
  exact (if_neg (by simpa using some_own)).trans (if_pos (by simpa using held))

variable (own : getCtx s c.id = some c) (free : ¬ ∃ a ∈ storedBytes s c f true hs, c.accessPending a.1 (widthOf f) = true)
include own free

theorem storeAct_releases (release : f.releases = true) (more : ¬ ReleaseDone s c f.scope.toNat) :
    storeAct s c f asid mg hs = .wait (released s c f.scope.toNat) := by
  rw [storeAct_eq, taken, Option.elim_some]
  refine (if_neg (by simpa using some_own)).trans ((if_neg (by simpa using free)).trans ?_)
  rw [if_pos release, releaseSteps_incomplete own more]
  rfl

theorem storeAct_writes (done : f.releases = false ∨ ReleaseDone s c f.scope.toNat) : storeAct s c f asid mg hs =
    .done (writeOwn (modCtx (if f.releases then released s c f.scope.toNat else s) c.id (fun x => { x with rsb := c1.rsb })) c
      ((storedBytes s c f true hs).map (fun a => (a.1, a.2.2.2)))) := by
  rw [storeAct_eq, taken, Option.elim_some]
  refine (if_neg (by simpa using some_own)).trans ((if_neg (by simpa using free)).trans ?_)
  cases release : f.releases with
  | false => rfl
  | true =>
    rw [if_pos rfl, if_pos rfl, releaseSteps_complete own (done.resolve_left (by simp [release]))]
    rfl

end

/-- Settles O45: the store's own effect by whether the buffer takes it, and by its own register rows. -/
theorem laneStores : Obligations.LaneStores := by
  unfold Obligations.LaneStores
  intro i op f form s c q asid mg hs s1 spec h hits clear asked own buf u held
  have run := exec_store form h hits clear asked
  have sent := peersChecked_ok asked
  have found : getCtx s1 c.id = some c := by
    rw [sent]
    exact h.turn.found
  refine ⟨fun full => ?_, fun c1 taken => ⟨fun none_own => ⟨?_, ?_⟩, fun some_own pending => ?_, fun some_own free release more => ?_,
    fun some_own free done => ?_⟩⟩
  · rw [run, storeAct_full full, finishLane_fault found]
  · rw [run, storeAct_buffered taken none_own, finishLane_done]
  · rw [laneDone_mem, setCtx_mem, sent]
  · rw [run, storeAct_held taken some_own pending, finishLane_wait]
  · rw [run, storeAct_releases taken some_own found free release more, finishLane_wait]
    exact congrArg Host.Outcome.next (if_pos release).symm
  · rw [run, storeAct_writes taken some_own found free done, finishLane_done]

end Sys2Proof.Proofs.Queues
end

section
/-! PROOFS. The lane stream: clause heads, and a lane's completion (O47). -/

open Sys2Proof Sys2Proof.Machine
open Sys2Proof.Proofs.ExecutionModel (getCtx_modCtx_same)

namespace Sys2Proof.Proofs.Queues

/-! ## The head of the clause queue (R108, R141, R169) -/

section
variable {s : State} {c : Ctx} {q : Clause} {h w1 w2 : Word} (found : getCtx s c.id = some c) (head : c.headClause = some q)
  (waits : q.started = false) (runs : c.lanesRun = true) (power : powered s = true)
  (header : laneWords s c q.off.toNat [0, 1, 2] = .ok [h, w1, w2])
include found head waits runs power header

theorem exec_clauseHead_long (long : 65536 < q.off.toNat + 1 + (bits h 31 28 + 1)) :
    exec (.clauseHead c.id) s = .next (takeFault s c ILLEGAL none true q.off.toNat 0) := by
  show execClauseHead c.id s = _
  simp only [execClauseHead, found, head, waits, runs, power, header, List.getD_cons_zero, Bool.not_true, Bool.or_self,
    Bool.false_eq_true, if_false]
  exact if_pos long

theorem exec_clauseHead_words (fits : q.off.toNat + 1 + (bits h 31 28 + 1) ≤ 65536) {is : List Word}
    (words : clauseW1 s c (q.off.toNat + 1) (bits h 31 28 + 1) = .ok is) : exec (.clauseHead c.id) s =
      if headerIllegal q.off.toNat h w1 w2 is then .next (takeFault s c ILLEGAL none true q.off.toNat 0)
      else .next (setCtx s (c.setClause { q with started := true, head := h, count := bits h 31 28 + 1, next := 0 })) := by
  show execClauseHead c.id s = _
  simp only [execClauseHead, found, head, waits, runs, power, header, List.getD_cons_zero, List.getD_cons_succ, Bool.not_true,
    Bool.or_self, Bool.false_eq_true, if_false, Nat.not_lt.mpr fits, words]

end

/-! ## One lane's completion -/

theorem lanesOf_twoPow : ∀ l, l < 64 → lanesOf (BitVec.twoPow 64 l) = [l] := by decide

section
variable {s : State} {c : Ctx} {fl : Flight} (found : getCtx s c.id = some c)
  (flies : c.flights.find? (fun f => f.id == fl.id) = some fl)
include found flies

/-- The completion of one lane of a load is the lane's step, and the flight's end where that was its last. -/
theorem exec_laneCompletion_load {l : Nat} (lane : l < 64) (power : powered s = true) (kind : fl.kind = .load) :
    exec (.laneCompletion c.id fl.id (BitVec.twoPow 64 l)) s = .next (endFlight (completeLoad s c.id fl.id l) c.id fl.id) := by
  show execLaneCompletion c.id fl.id (BitVec.twoPow 64 l) s = _
  simp only [execLaneCompletion, found, Option.bind_some, flies, power, kind, lanesOf_twoPow l lane, Bool.not_true, Bool.false_eq_true,
    if_false, List.foldl_cons, List.foldl_nil]

/-- The same of an atomic. -/
theorem exec_laneCompletion_atomic {l : Nat} (lane : l < 64) (power : powered s = true) (kind : fl.kind = .atomic) :
    exec (.laneCompletion c.id fl.id (BitVec.twoPow 64 l)) s = .next (endFlight (completeElement s c.id fl.id l) c.id fl.id) := by
  show execLaneCompletion c.id fl.id (BitVec.twoPow 64 l) s = _
  simp only [execLaneCompletion, found, Option.bind_some, flies, power, kind, lanesOf_twoPow l lane, Bool.not_true, Bool.false_eq_true,
    if_false, List.foldl_cons, List.foldl_nil]

/-- A flight with accesses left stands. -/
theorem endFlight_stands (left : fl.accs ≠ []) : endFlight s c.id fl.id = s := by
  simp only [endFlight, found, flies]
  exact if_pos (by simp [left])

theorem endFlight_ends (empty : fl.accs = []) (kind : fl.kind ≠ .matrix) : endFlight s c.id fl.id =
    setCtx (if fl.acq = true ∧ fl.scope = 5 then retireClean s c.core else s) (c.completeFlight fl) := by
  simp only [endFlight, found, flies]
  refine (if_neg (by simp [empty, kind])).trans ?_
  simp only [Bool.and_eq_true, decide_eq_true_eq]

end

/-! ## The end of a flight -/

theorem completeFlight_flights (c : Ctx) (fl : Flight) :
    (c.completeFlight fl).flights = c.flights.filter (fun f => f.id ≠ fl.id) := by
  unfold Ctx.completeFlight Ctx.lowerFlag
  cases fl.flag <;> rfl

theorem completeFlight_flagCount {c : Ctx} (wf : sparseWf 0 c.flags = true) {fl : Flight} {n : Nat} (flag : fl.flag = some n) :
    (c.completeFlight fl).flagCount n = c.flagCount n - 1 := by
  unfold Ctx.completeFlight Ctx.lowerFlag
  rw [flag]
  exact sget_sput_same 0 c.flags n _ wf

/-! ## A load's lanes (R96, R245, R249, R322) -/

theorem mem_together (fl : Flight) (a b : LaneAcc) : b ∈ fl.together a ↔ b ∈ fl.accs ∧ (b.lane = a.lane ∨ fl.opcode = 0x50 ∧
    ∃ k k', a.place = some (.here k) ∧ b.place = some (.here k') ∧ k / 128 = k' / 128) := by
  unfold Flight.together
  rw [List.mem_filter, Bool.or_eq_true, Bool.and_eq_true, decide_eq_true_eq, decide_eq_true_eq]
  refine and_congr_right fun _ => or_congr_right (and_congr_right fun _ => ?_)
  split
  next k k' here here' => simp [here, here']
  next other => exact iff_of_false (by simp) fun ⟨k, k', here, here', _⟩ => other k k' here here'

theorem loadWords_byte (f : LaneForm) (b : Byte) :
    loadWords f [b] = [if f.sub.getLsbD 4 then BitVec.ofInt 32 b.toInt else BitVec.ofNat 32 b.toNat] := by
  simp only [loadWords, BitVec.ofNat_toNat]
  rfl

theorem loadWords_half (f : LaneForm) (b b' : Byte) :
    loadWords f [b, b'] = [if f.sub.getLsbD 4 then BitVec.ofInt 32 (b' ++ b).toInt else BitVec.ofNat 32 (b.toNat + 256 * b'.toNat)] := by
  have whole : (b' ++ b).toNat = b.toNat + 256 * b'.toNat := by
    rw [BitVec.toNat_append, ← Nat.shiftLeft_add_eq_or_of_lt b.isLt, Nat.shiftLeft_eq]
    omega
  simp only [loadWords, ← whole, BitVec.ofNat_toNat]
  rfl

theorem perform_lane (fl : Flight) (l : Nat) :
    fl.perform [l] = { fl with accs := fl.accs.filter (fun b => b.lane != l), pend := fl.pend &&& ~~~ BitVec.twoPow 64 l } := by
  have left (b : LaneAcc) : (!([l].contains b.lane)) = (b.lane != l) := by rw [List.contains_cons, List.contains_nil, Bool.or_false, bne]
  have gone : maskOf [l] = BitVec.twoPow 64 l := BitVec.zero_or
  simp only [Flight.perform, left, gone]

/-- The retirement that a fence left due changes nothing of the context that a load of it reads. -/
theorem getCtx_retireDue {s : State} {c : Ctx} (found : getCtx s c.id = some c) (fence : Nat) :
    ∃ r, getCtx (retireDue s c fence) c.id = some { c with retire := r } := by
  unfold retireDue
  split
  · exact ⟨_, getCtx_modCtx_same found rfl⟩
  · exact ⟨c.retire, found⟩

theorem loadElement_retire (s : State) (c : Ctx) (r : List Nat) (fl : Flight) (a : LaneAcc) :
    loadElement s { c with retire := r } fl a = loadElement s c fl a := rfl

theorem landWords_retire (c : Ctx) (r : List Nat) (lane : Nat) (ws : List Word) :
    ∀ (s : State) (n : Nat), landWords s { c with retire := r } n lane ws = landWords s c n lane ws := by
  induction ws with
  | nil => intro s n; rfl
  | cons w ws ih => intro s n; exact ih _ _

theorem loadLane_bytes {s s1 : State} {c : Ctx} {fl : Flight} {a : LaneAcc} {bs : List Byte} (bad : List Nat)
    (found : getCtx s c.id = some c) (flies : c.flights.find? (fun f => f.id == fl.id) = some fl)
    (got : loadElement s c fl a = .bytes bs s1) : loadLane c.id fl.id (s, bad) a =
      (landWords (modCtx s1 c.id (fun x => x.setFlight { fl with
        accs := fl.accs.filter (fun b => b.lane != a.lane), pend := fl.pend &&& ~~~ BitVec.twoPow 64 a.lane }))
        c fl.form.d.toNat a.lane (loadWords fl.form bs), bad) := by
  simp only [loadLane, found, Option.bind_some, flies, Option.map_some, got, perform_lane]

section
variable {s : State} {c : Ctx} {fl : Flight} {a : LaneAcc} {l : Nat} (found : getCtx s c.id = some c)
  (flies : c.flights.find? (fun f => f.id == fl.id) = some fl) (acc : fl.accs.find? (fun a => a.lane == l) = some a)
include found flies acc

theorem completeLoad_held (held : ∃ b ∈ fl.together a, mayAccess c fl b = false) : completeLoad s c.id fl.id l = s := by
  simp only [completeLoad, found, flies, acc]
  exact if_pos (by simpa using held)

/-- One request performs its lanes where each may access and has its bytes. -/
theorem completeLoad_performs (free : ∀ b ∈ fl.together a, mayAccess c fl b = true)
    (got : ∀ b ∈ fl.together a, ∃ bs s1, loadElement (retireDue s c fl.fence) c fl b = .bytes bs s1) :
    completeLoad s c.id fl.id l = loadLanes (retireDue s c fl.fence) c.id fl.id fl.pc (fl.together a) := by
  simp only [completeLoad, found, flies, acc]
  rw [if_neg (by simpa using free)]
  split
  next s1 waits =>
    obtain ⟨b, mem, later⟩ := List.exists_of_findSome?_eq_some waits
    obtain ⟨bs, t, bytes⟩ := got b mem
    simp [bytes] at later
  next => rfl

omit acc in
/-- A request of one lane lands the lane's words. -/
theorem loadLanes_lane {s1 : State} {bs : List Byte} (got : loadElement (retireDue s c fl.fence) c fl a = .bytes bs s1) :
    loadLanes (retireDue s c fl.fence) c.id fl.id fl.pc [a] =
      landWords (modCtx s1 c.id (fun x => x.setFlight { fl with
        accs := fl.accs.filter (fun b => b.lane != a.lane), pend := fl.pend &&& ~~~ BitVec.twoPow 64 a.lane }))
        c fl.form.d.toNat a.lane (loadWords fl.form bs) := by
  obtain ⟨r, own⟩ := getCtx_retireDue found fl.fence
  have landed := loadLane_bytes (c := { c with retire := r }) [] own flies ((loadElement_retire _ c r fl a).trans got)
  simp only [landWords_retire] at landed
  show killForUe (loadLane c.id fl.id _ a).1 c.id fl.pc (loadLane c.id fl.id _ a).2 = _
  rw [landed]
  rfl

end

/-! ## An atomic's lanes (R257) -/

theorem completeElement_old {s : State} {c : Ctx} {fl : Flight} {a : LaneAcc} {l k : Nat} {w : Word} {put : Word → State}
    (found : getCtx s c.id = some c) (flies : c.flights.find? (fun f => f.id == fl.id) = some fl)
    (acc : fl.accs.find? (fun a => a.lane == l) = some a) (free : mayAccess c fl a = true) (here : a.place = some (.here k))
    (home : atHome s c (.lane c.id fl.id l) fl.asid fl.mapgen a.gen k = .old w put) :
    let ls := (fl.accs.filter (fun b => b.place = a.place)).map LaneAcc.lane
    let r := atomicSteps fl.form.mod.toNat (decide (fl.nbv = 1)) w (fl.operands.filter (fun o => ls.contains o.1))
    completeElement s c.id fl.id l = finishLanes (put r.1) c fl r.2 := by
  simp only [completeElement, found, flies, acc, free, here, home, Bool.not_true, Bool.false_eq_true, if_false]

theorem atomicSteps_append (op : Nat) (v : Bool) (w : Word) (xs ys : List (Nat × Word × Word)) :
    atomicSteps op v w (xs ++ ys) = ((atomicSteps op v (atomicSteps op v w xs).1 ys).1,
      (atomicSteps op v w xs).2 ++ (atomicSteps op v (atomicSteps op v w xs).1 ys).2) := by
  induction xs generalizing w with
  | nil => rfl
  | cons x xs ih => simp only [List.cons_append, atomicSteps, ih]

theorem atomicSteps_length (op : Nat) (v : Bool) (w : Word) (xs : List (Nat × Word × Word)) :
    (atomicSteps op v w xs).2.length = xs.length := by
  induction xs generalizing w with
  | nil => rfl
  | cons x xs ih => simp only [atomicSteps, List.length_cons, ih]

/-- Settles O47: the clause head by its checks, a lane's completion by its flight's kind, a flight's end by the accesses it has left. -/
theorem laneStream : Obligations.LaneStream := by
  unfold Obligations.LaneStream
  refine ⟨?_, ⟨?_, mem_together, ?_, fun f b b' => ⟨loadWords_byte f b, loadWords_half f b b'⟩, ?_⟩, ?_, ?_⟩
  · intro s c q h w1 w2 is found head waits runs power header n
    refine ⟨exec_clauseHead_long found head waits runs power header, fun fits words => ⟨fun bad => ?_, fun good => ?_⟩⟩
    · rw [exec_clauseHead_words found head waits runs power header fits words, if_pos bad]
    · rw [exec_clauseHead_words found head waits runs power header fits words, if_neg (Bool.eq_false_iff.mp good)]
  · intro s c fl a l found mem flies acc lane kind power
    have run := exec_laneCompletion_load found flies lane power kind
    have lane_eq : a.lane = l := by simpa using List.find?_some acc
    refine ⟨fun held => ?_, fun free got => ?_, fun free alone bs s1 got => ?_⟩
    · rw [run, completeLoad_held found flies acc held,
        endFlight_stands found flies (List.ne_nil_of_mem (List.mem_of_find?_eq_some acc))]
    · rw [run, completeLoad_performs found flies acc free got]
    · rw [run, completeLoad_performs found flies acc free (by rw [alone]; simpa using ⟨bs, s1, got⟩), alone,
        loadLanes_lane found flies got, lane_eq]
  · intro s c fl a bad bs s1 found flies got
    exact loadLane_bytes bad found flies got
  · intro s c fl found flies
    refine ⟨endFlight_stands found flies, fun empty kind wf => ⟨c.completeFlight fl, endFlight_ends found flies empty kind,
      completeFlight_flights c fl, fun n flag => completeFlight_flagCount wf flag⟩⟩
  · intro s c fl a l k w put found flies acc lane kind power free here home ls r
    have run := exec_laneCompletion_atomic found flies lane power kind
    rw [run, completeElement_old found flies acc free here home]
    rfl
  · intro op v w xs ys l x cmp r before
    have split : r = _ := atomicSteps_append op v w xs ((l, x, cmp) :: ys)
    rw [split]
    refine ⟨?_, rfl⟩
    simp [atomicSteps, atomicSteps_length, before]

end Sys2Proof.Proofs.Queues
end

section
/-! PROOFS. The matrix instructions enter their queue (O48). -/

open Sys2Proof Sys2Proof.Machine
open Sys2Proof.Proofs.ExecutionModel (getCore_setCore_same)

namespace Sys2Proof.Proofs.Queues

/-! ## Octets (R293) -/

theorem mem_octets {m : LaneMask} {o : Nat} : o ∈ octets m ↔ o < 8 ∧ m.extractLsb' (8 * o) 8 ≠ 0 := by
  simp [octets]

/-- A mask with an active lane has an octet. -/
theorem octets_ne_nil {m : LaneMask} (active : m ≠ 0) : octets m ≠ [] := by
  intro empty
  refine active (BitVec.eq_of_getLsbD_eq fun l lane => ?_)
  have none_here : m.extractLsb' (8 * (l / 8)) 8 = 0 := by
    by_contra here
    have mem : l / 8 ∈ octets m := mem_octets.mpr ⟨by omega, here⟩
    simp [empty] at mem
  have bit := congrArg (fun b => b.getLsbD (l % 8)) none_here
  simp only [BitVec.getLsbD_extractLsb', Nat.mod_lt l (by decide : 8 > 0), decide_true, Bool.true_and, Nat.div_add_mod] at bit
  simpa using bit

/-- The last octet of a mask is its greatest. -/
theorem octets_getLast? {m : LaneMask} {o : Nat} (last : (octets m).getLast? = some o) :
    o ∈ octets m ∧ ∀ o' ∈ octets m, o' ≤ o := by
  have sorted : (octets m).Pairwise (· < ·) := List.pairwise_lt_range.filter _
  obtain ⟨init, split⟩ := List.getLast?_eq_some_iff.mp last
  rw [split] at sorted ⊢
  refine ⟨by simp, fun o' mem => ?_⟩
  rcases List.mem_append.mp mem with before | here
  · exact Nat.le_of_lt ((List.pairwise_append.mp sorted).2.2 o' before o (by simp))
  · exact Nat.le_of_eq (List.mem_singleton.mp here)

/-! ## The queue and the replay set (R117, R149, R303) -/

/-- Outside a replay every tile is accepted, and the context changes in its replay set alone. -/
theorem acceptTiles_fresh (s : State) (e : BitVec 8) (ts : List Nat) :
    ∀ c : Ctx, c.reissue = [] → ∃ r, acceptTiles s c e ts = ({ c with replay := r }, ts) := by
  induction ts with
  | nil => exact fun c _ => ⟨c.replay, rfl⟩
  | cons t ts ih =>
    intro c fresh
    obtain ⟨r, rest⟩ := ih (acceptTile s c t e).1 fresh
    refine ⟨r, ?_⟩
    have kept : (acceptTile s c t e).2 = false := by simp [acceptTile, fresh]
    simp only [acceptTiles, rest, kept]
    rfl

theorem enqueue_matq {s : State} {k : Nat} (core : k < s.cores.length) (ops : List MatOp) :
    (getCore (enqueue s k ops) k).matq = (getCore s k).matq ++ ops := by
  unfold enqueue
  rw [getCore_setCore_same core]

/-- What `entersMatrix` asks of the operations of a flight. -/
def queuedFor (spec : LaneSpec) (c : Ctx) (parent : Nat) (tiles : List Nat) (ok : MatOp → Prop) (ops : List MatOp) : Prop :=
  ops.map MatOp.tile = tiles ∧
    ∀ x ∈ ops, x.opcode = spec.op ∧ x.ctx = c.id ∧ x.parent = parent ∧ x.ver = spec.f.imm.extractLsb' 24 8 ∧ x.gen = c.tileGen ∧
      x.started = false ∧ ok x

/-- An instruction's own effect that flies with these operations behind those that stand. -/
def fliesWith (spec : LaneSpec) (s : State) (c : Ctx) (q : Clause) (tiles : List Nat) (ok : MatOp → Prop) (a : LAct) : Prop :=
  ∃ t fl ops n, a = .fly { enqueue t c.core ops with nextId := n } fl ∧ t.mem = s.mem ∧ t.tags = s.tags ∧ t.cores = s.cores ∧
    fl.kind = .matrix ∧ fl.flag = q.flagOf spec.f.flag ∧ queuedFor spec c fl.id tiles ok ops

theorem entersMatrix_of_flies {i : Instr} {spec : LaneSpec} {s : State} {c : Ctx} {q : Clause} {tiles : List Nat} {ok : MatOp → Prop}
    {a : LAct} (core : c.core < s.cores.length) (run : exec i s = finishLane c.id q spec a)
    (flies : fliesWith spec s c q tiles ok a) : entersMatrix i spec s c q tiles ok := by
  obtain ⟨t, fl, ops, n, rfl, mem, tags, cores, kind, flag, tile, each⟩ := flies
  have behind : (getCore (enqueue t c.core ops) c.core).matq = (getCore s c.core).matq ++ ops := by
    rw [enqueue_matq (by rw [cores]; exact core), getCore, getCore, cores]
  exact ⟨_, fl, ops, run.trans (finishLane_fly ..), kind, flag, mem, tags, behind, tile, each⟩

/-- A list by its indices. -/
theorem map_range_getD {α β : Type} (l : List α) (d : α) (g : α → β) : (List.range l.length).map (fun i => g (l.getD i d)) = l.map g := by
  refine List.ext_getElem (by simp) fun i h1 h2 => ?_
  simp only [List.length_map] at h2
  simp [h2]

theorem filter_contains_map (os : List Nat) (tile : Nat → Nat) : os.filter (fun o => (os.map tile).contains (tile o)) = os :=
  List.filter_eq_self.mpr fun _ mem => List.contains_iff_mem.mpr (List.mem_map_of_mem mem)

theorem octetBytes_active {s : State} {c : Ctx} {first n : Nat} {m : LaneMask} {o r : Nat} (row : r < 8)
    (active : m.getLsbD (8 * o + r) = true) : (octetBytes s c first n m o).getD r [] =
      (List.range n).flatMap (fun j => wordBytes (vread s c (first + j) (8 * o + r))) := by
  simp [octetBytes, row, active, laneBytes]

/-! ## ACCRD, ACCWR and ACCZ (R300, R301, R302) -/

section
variable {s : State} {c : Ctx} {q : Clause} {spec : LaneSpec} {first reg : Nat} {m : LaneMask}

theorem accEnter_past (past : ∃ o ∈ octets m, c.tiles ≤ first + o) : accEnter s c q spec first reg m = .fault s PERM none 0 := by
  unfold accEnter
  exact if_pos (by simpa using past)

variable (run : ∀ o ∈ octets m, first + o < c.tiles)
include run

theorem accEnter_full (full : matrixFull s c.core (octets m).length = true) : accEnter s c q spec first reg m = .wait s := by
  unfold accEnter
  exact (if_neg (by simpa using run)).trans (if_pos full)

theorem accEnter_flies (room : matrixFull s c.core (octets m).length = false) (active : m ≠ 0) (fresh : c.reissue = [])
    {ok : MatOp → Prop} (each : ∀ id o, ok (accOp s c q spec.f spec.op id first reg m o)) :
    fliesWith spec s c q ((octets m).map (fun o => c.tileBase + first + o)) ok (accEnter s c q spec first reg m) := by
  obtain ⟨r, accepted⟩ := acceptTiles_fresh s (spec.f.imm.extractLsb' 24 8) ((octets m).map (fun o => c.tileBase + first + o)) c fresh
  have within : (octets m).any (fun o => decide (c.tiles ≤ first + o)) = false := by simpa using run
  simp only [accEnter, within, room, accepted, filter_contains_map, List.isEmpty_eq_false_iff.mpr (octets_ne_nil active),
    Bool.false_eq_true, if_false]
  refine ⟨setCtx s { c with replay := r }, _, _, _, rfl, rfl, rfl, rfl, rfl, rfl, ?_, ?_⟩
  · rw [List.map_map]
    exact map_range_getD (octets m) 0 (fun o => c.tileBase + first + o)
  · simp only [List.mem_map]
    rintro x ⟨i, _, rfl⟩
    exact ⟨rfl, rfl, rfl, rfl, rfl, rfl, each _ _⟩

end

theorem exec_accrd_enters {f : LaneForm} {s : State} {c : Ctx} {q : Clause}
    (h : LaneExecutes { op := 0x61, f := f, reads := [], writes := regRun f.d 16 } s c q) :
    exec (.accrd f) s = finishLane c.id q { op := 0x61, f := f, reads := [], writes := regRun f.d 16 }
      (accEnter s c q { op := 0x61, f := f, reads := [], writes := regRun f.d 16 } f.a.toNat f.d.toNat (activeLanes c q f)) := by
  have runs : exec (.accrd f) s = execAccrd f s := rfl
  unfold execAccrd at runs
  exact runs.trans (runLane_executes h rfl _)

theorem exec_accwr_enters {f : LaneForm} {s : State} {c : Ctx} {q : Clause}
    (h : LaneExecutes { op := 0x62, f := f, reads := regRun f.a 16, writes := [] } s c q) :
    exec (.accwr f) s = finishLane c.id q { op := 0x62, f := f, reads := regRun f.a 16, writes := [] }
      (accEnter s c q { op := 0x62, f := f, reads := regRun f.a 16, writes := [] } f.d.toNat f.a.toNat (activeLanes c q f)) := by
  have runs : exec (.accwr f) s = execAccwr f s := rfl
  unfold execAccwr at runs
  exact runs.trans (runLane_executes h rfl _)

section
variable {f : LaneForm} {s : State} {c : Ctx} {q : Clause}
  (h : LaneExecutes { op := 0x63, f := f, reads := [], writes := [] } s c q)
include h

theorem exec_accz_past (past : c.tiles < f.d.toNat + (bits f.imm 7 0 + 1)) :
    exec (.accz f) s = .next (takeFault s c PERM none true q.at 0) := by
  show execAccz f s = _
  unfold execAccz
  rw [runLane_executes h rfl]
  refine (congrArg _ (if_pos past)).trans (finishLane_fault h.turn.found ..)

variable (run : f.d.toNat + (bits f.imm 7 0 + 1) ≤ c.tiles)
include run

theorem exec_accz_idle (idle : activeLanes c q f = 0) :
    exec (.accz f) s = .next (laneDone { op := 0x63, f := f, reads := [], writes := [] } q c.id s) := by
  show execAccz f s = _
  unfold execAccz
  rw [runLane_executes h rfl]
  exact (congrArg _ ((if_neg (Nat.not_lt.mpr run)).trans (if_pos idle))).trans (finishLane_done ..)

variable (active : activeLanes c q f ≠ 0)
include active

theorem exec_accz_full (full : matrixFull s c.core (bits f.imm 7 0 + 1) = true) : exec (.accz f) s = .next s := by
  show execAccz f s = _
  unfold execAccz
  rw [runLane_executes h rfl]
  exact congrArg _ ((if_neg (Nat.not_lt.mpr run)).trans ((if_neg active).trans (if_pos full)))

theorem exec_accz_enters (core : c.core < s.cores.length) (fresh : c.reissue = [])
    (room : matrixFull s c.core (bits f.imm 7 0 + 1) = false) :
    entersMatrix (.accz f) { op := 0x63, f := f, reads := [], writes := [] } s c q
      ((List.range (bits f.imm 7 0 + 1)).map (fun j => c.tileBase + f.d.toNat + j)) (fun _ => True) := by
  have runs : exec (.accz f) s = execAccz f s := rfl
  unfold execAccz at runs
  refine entersMatrix_of_flies core (runs.trans (runLane_executes h rfl _)) ?_
  obtain ⟨r, accepted⟩ := acceptTiles_fresh s (f.imm.extractLsb' 24 8)
    ((List.range (bits f.imm 7 0 + 1)).map (fun j => c.tileBase + f.d.toNat + j)) c fresh
  dsimp only
  have some_tile : ((List.range (bits f.imm 7 0 + 1)).map (fun j => c.tileBase + f.d.toNat + j)).isEmpty = false := by simp
  simp only [if_neg (Nat.not_lt.mpr run), if_neg active, room, accepted, some_tile, Bool.false_eq_true, if_false]
  refine ⟨setCtx s { c with replay := r }, _, _, _, rfl, rfl, rfl, rfl, rfl, rfl, ?_, ?_⟩
  · rw [List.map_map]
    exact (map_range_getD _ 0 id).trans (List.map_id _)
  · simp only [List.mem_map]
    rintro x ⟨i, _, rfl⟩
    exact ⟨rfl, rfl, rfl, rfl, rfl, rfl, trivial⟩

end

/-! ## MMA (R292 to R294) -/

/-- An instruction that makes its own register checks takes its own effect once its turn has come (R294). -/
theorem runLane_ownChecks {spec : LaneSpec} {s : State} {c : Ctx} {q : Clause} (h : LaneTurn s c q spec.f) (own : spec.ownChecks = true)
    (regs : c.noReg (spec.reads ++ spec.writes) = false) (body : State → Ctx → Clause → LaneMask → LAct) :
    runLane spec body s = finishLane c.id q spec (body s c q (activeLanes c q spec.f)) := by
  obtain ⟨turn, found, head, runs, power, started, waits, room⟩ := h
  unfold runLane
  rw [turn]
  simp only [found, head, runs, power, started, waits, room, regs, own, Bool.not_true, Bool.or_self, Bool.false_eq_true, if_false,
    if_true]

section
variable {f : LaneForm} {s : State} {c : Ctx} {q : Clause} (h : LaneTurn s c q f) (reg : f.a.toNat < c.vregs)
include h reg

theorem exec_mma_unreadable {code : Nat} {w : Word} (pair : readPair s c q f = .error (code, w)) :
    exec (.mma f) s = .next (takeFault s c code none true q.at w) := by
  have runs : exec (.mma f) s = execMma f s := rfl
  unfold execMma at runs
  rw [runs, runLane_ownChecks h rfl (by simpa [Ctx.noReg] using reg)]
  dsimp only
  rw [pair]
  exact finishLane_fault h.found ..

variable {p : List Byte} (pair : readPair s c q f = .ok p)
include pair

/-- MMA with a sound pair: its register run, its pending writes, its tiles and slots, and then it enters. -/
theorem exec_mma_pair : exec (.mma f) s = finishLane c.id q (mmaSpec f)
    (if 0xEF < f.a.toNat + familyRegs (family (pairA p).fmt) - 1 then .fault s ILLEGAL none 0
    else if c.vregs < f.a.toNat + familyRegs (family (pairA p).fmt) then .fault s PERM none 0
    else (c.unguarded (regRun f.a (familyRegs (family (pairA p).fmt))) (activeLanes c q f)).elim
      (if (octets (activeLanes c q f)).getLast?.any (fun o => c.tiles ≤ f.d.toNat + o ||
          ((blockOf s c).elim c.wslots Ctx.wslots) < bits f.imm 23 16 + bSlots (family (pairB p).fmt) (pairB p).comp)
        then .fault s PERM none 0 else mmaEnter s c q f (activeLanes c q f) p)
      (fun l => .fault s UNGUARD (some l) 0)) := by
  have runs : exec (.mma f) s = execMma f s := rfl
  unfold execMma at runs
  rw [runs, runLane_ownChecks h rfl (by simpa [Ctx.noReg] using reg)]
  dsimp only
  rw [pair]
  dsimp only
  cases c.unguarded (regRun f.a (familyRegs (family (pairA p).fmt))) (activeLanes c q f) <;> rfl

variable (encoded : f.a.toNat + familyRegs (family (pairA p).fmt) - 1 ≤ 0xEF)
include encoded

theorem exec_mma_past (past : c.vregs < f.a.toNat + familyRegs (family (pairA p).fmt)) :
    exec (.mma f) s = .next (takeFault s c PERM none true q.at 0) := by
  rw [exec_mma_pair h reg pair, if_neg (Nat.not_lt.mpr encoded), if_pos past, finishLane_fault h.found]

variable (within : f.a.toNat + familyRegs (family (pairA p).fmt) ≤ c.vregs)
include within

theorem exec_mma_unguarded {l : Nat}
    (pends : c.unguarded (regRun f.a (familyRegs (family (pairA p).fmt))) (activeLanes c q f) = some l) :
    exec (.mma f) s = .next (takeFault s c UNGUARD (some l) true q.at 0) := by
  rw [exec_mma_pair h reg pair, if_neg (Nat.not_lt.mpr encoded), if_neg (Nat.not_lt.mpr within), pends, Option.elim_some,
    finishLane_fault h.found]

variable (guarded : c.unguarded (regRun f.a (familyRegs (family (pairA p).fmt))) (activeLanes c q f) = none)
include guarded

/-- The last active octet's tile, or the last slot, is past its run. -/
theorem exec_mma_outside {o : Nat} (mem : o ∈ octets (activeLanes c q f)) (last : ∀ o' ∈ octets (activeLanes c q f), o' ≤ o)
    (outside : c.tiles ≤ f.d.toNat + o ∨
      (blockOf s c).elim c.wslots Ctx.wslots < bits f.imm 23 16 + bSlots (family (pairB p).fmt) (pairB p).comp) :
    exec (.mma f) s = .next (takeFault s c PERM none true q.at 0) := by
  have greatest : (octets (activeLanes c q f)).getLast? = some o := by
    obtain ⟨z, found⟩ := Option.isSome_iff_exists.mp (List.getLast?_isSome.mpr (List.ne_nil_of_mem mem))
    obtain ⟨there, above⟩ := octets_getLast? found
    rw [found, Nat.le_antisymm (last z there) (above o mem)]
  rw [exec_mma_pair h reg pair, if_neg (Nat.not_lt.mpr encoded), if_neg (Nat.not_lt.mpr within), guarded, Option.elim_none, greatest,
    if_pos (by simpa using outside), finishLane_fault h.found]

theorem exec_mma_enters (tiles : ∀ o ∈ octets (activeLanes c q f), f.d.toNat + o < c.tiles)
    (slots : bits f.imm 23 16 + bSlots (family (pairB p).fmt) (pairB p).comp ≤ (blockOf s c).elim c.wslots Ctx.wslots) :
    exec (.mma f) s = finishLane c.id q (mmaSpec f) (mmaEnter s c q f (activeLanes c q f) p) := by
  have inside : (octets (activeLanes c q f)).getLast?.any (fun o => c.tiles ≤ f.d.toNat + o ||
      ((blockOf s c).elim c.wslots Ctx.wslots) < bits f.imm 23 16 + bSlots (family (pairB p).fmt) (pairB p).comp) = false := by
    rw [Option.any_eq_false]
    intro o last
    simpa using ⟨tiles o (List.mem_of_getLast? last), slots⟩
  rw [exec_mma_pair h reg pair, if_neg (Nat.not_lt.mpr encoded), if_neg (Nat.not_lt.mpr within), guarded, Option.elim_none, inside,
    if_neg Bool.false_ne_true]

end

/-- The scale bytes of rows or columns as MMA reads them, none for a format without scales (R294). -/
def mmaScales (s : State) (c : Ctx) (q : Clause) (a fb : FBlock) (rows : List Nat) : Except (Nat × Word) (List Byte) :=
  if a.noscale then .ok [] else scaleBytes s c q.pols (scaleAddrs fb (familyK (family a.fmt)) rows)

/-- What MMA's octet operations hold beside what every queued operation does. -/
def mmaHolds (f : LaneForm) (s : State) (c : Ctx) (q : Clause) (m : LaneMask) (p : List Byte) (x : MatOp) : Prop :=
  x.rows = octetRows m x.octet ∧ x.slot = (slotRunOf s c).2 + bits f.imm 23 16 ∧ x.pair = p ∧ x.close = decide (f.mod = 1) ∧
    x.nbv = q.nbv ∧ x.tile = c.tileBase + f.d.toNat + x.octet ∧
    ∀ r, r < 8 → m.getLsbD (8 * x.octet + r) = true → x.arows.getD r [] =
      (List.range (familyRegs (family (pairA p).fmt))).flatMap (fun j => wordBytes (vread s c (f.a.toNat + j) (8 * x.octet + r)))

section
variable {f : LaneForm} {s : State} {c : Ctx} {q : Clause} {m : LaneMask} {p : List Byte} {as bs : List Byte}
  (scalesA : mmaScales s c q (pairA p) (pairA p) (lanesOf m) = .ok as)
  (scalesB : mmaScales s c q (pairA p) (pairB p) (List.range 64) = .ok bs)
  (current : ∀ l ∈ lanesOf m, ∀ r ∈ regRun f.a (familyRegs (family (pairA p).fmt)), vstale s c r l = false ∨ q.pols.getLsbD 0 = false)
include scalesA scalesB current

omit scalesA scalesB in
/-- No row granule that the MMA reads is stale under the TRAP policy. -/
theorem mma_noStaleRow : (if q.pols.getLsbD 0 = true then
    ((lanesOf m).flatMap (fun l => (regRun f.a (familyRegs (family (pairA p).fmt))).map (fun r => (r, l)))).find?
      (fun x => vstale s c x.1 x.2) else none) = none := by
  split
  next trap =>
    rw [List.find?_eq_none]
    intro x mem
    obtain ⟨l, lane, mem⟩ := List.mem_flatMap.mp mem
    obtain ⟨r, reg, rfl⟩ := List.mem_map.mp mem
    exact Bool.eq_false_iff.mp ((current l lane r reg).resolve_right (by simp [trap]))
  next => rfl

theorem mmaEnter_waits (full : 63 ≤ c.engineCount 1 ∨ matrixFull s c.core (octets m).length = true) :
    mmaEnter s c q f m p = .wait s := by
  unfold mmaScales at scalesA scalesB
  simp only [mmaEnter, scalesA, scalesB, mma_noStaleRow current]
  exact if_pos (by simpa using full)

/-- With a free place in the counter and the queue, MMA enters its octets' operations (R293, R294). -/
theorem mmaEnter_flies
    (sound : ∀ l ∈ lanesOf m, ∀ r ∈ regRun f.a (familyRegs (family (pairA p).fmt)),
      vstale s c r l = true ∨ poisonAt s (coreKey c.core (c.vregOff r l)) = false)
    (found : getCtx s c.id = some c) (active : m ≠ 0) (count : c.engineCount 1 < 63)
    (room : matrixFull s c.core (octets m).length = false) (fresh : c.reissue = []) :
    fliesWith (mmaSpec f) s c q ((octets m).map (fun o => c.tileBase + f.d.toNat + o)) (mmaHolds f s c q m p)
      (mmaEnter s c q f m p) := by
  obtain ⟨r, accepted⟩ := acceptTiles_fresh s (f.imm.extractLsb' 24 8) ((octets m).map (fun o => c.tileBase + f.d.toNat + o)) c fresh
  have none_dies : (lanesOf m).filter (fun l => (regRun f.a (familyRegs (family (pairA p).fmt))).any
      (fun r => !vstale s c r l && poisonAt s (coreKey c.core (c.vregOff r l)))) = [] := by
    rw [List.filter_eq_nil_iff]
    intro l lane dies
    obtain ⟨r, reg, bad⟩ := List.any_eq_true.mp dies
    rcases sound l lane r reg with stale | clean
    · simp [stale] at bad
    · simp [clean] at bad
  have all_live : m &&& ~~~ maskOf [] = m := BitVec.and_allOnes
  have free : (decide (63 ≤ c.engineCount 1) || matrixFull s c.core (octets m).length) = false := by simpa [room] using count
  unfold mmaScales at scalesA scalesB
  simp only [mmaEnter, scalesA, scalesB, mma_noStaleRow current, free, none_dies, killForUe, found, all_live, Option.getD_some, accepted,
    filter_contains_map, List.isEmpty_eq_false_iff.mpr (octets_ne_nil active), Bool.false_eq_true, if_false]
  refine ⟨{ setCtx s _ with ops := _ }, _, _, _, rfl, rfl, rfl, rfl, rfl, rfl, ?_, ?_⟩
  · rw [List.map_map]
    exact map_range_getD (octets m) 0 (fun o => c.tileBase + f.d.toNat + o)
  · simp only [List.mem_map]
    rintro x ⟨i, _, rfl⟩
    exact ⟨rfl, rfl, rfl, rfl, rfl, rfl, rfl, rfl, rfl, rfl, rfl, rfl, fun r row bit => octetBytes_active row bit⟩

end

/-- MMA's scale bytes can be read: a format without scales has none. -/
theorem mmaScales_ok {s : State} {c : Ctx} {q : Clause} {a b : FBlock} {rows cols : List Nat}
    (readable : a.noscale = true ∨ ∃ as bs, scaleBytes s c q.pols (scaleAddrs a (familyK (family a.fmt)) rows) = .ok as ∧
      scaleBytes s c q.pols (scaleAddrs b (familyK (family a.fmt)) cols) = .ok bs) :
    ∃ as bs, mmaScales s c q a a rows = .ok as ∧ mmaScales s c q a b cols = .ok bs := by
  unfold mmaScales
  by_cases none_here : a.noscale = true
  · exact ⟨[], [], if_pos none_here, if_pos none_here⟩
  · obtain ⟨as, bs, rowBytes, colBytes⟩ := readable.resolve_left none_here
    exact ⟨as, bs, (if_neg none_here).trans rowBytes, (if_neg none_here).trans colBytes⟩

/-- Settles O48: MMA check by check in R294's order, ACCRD and ACCWR by what they share, and ACCZ. -/
theorem matrixIssue : Obligations.MatrixIssue := by
  unfold Obligations.MatrixIssue
  refine ⟨?_, ?_, ?_, ?_⟩
  · intro f s c q h reg core m have'
    refine ⟨fun code w pair => exec_mma_unreadable h reg pair, fun p pair => ?_⟩
    intro n slots
    refine ⟨fun long => ?_, fun encoded past => exec_mma_past h reg pair encoded past, fun encoded within =>
      ⟨fun l pends => exec_mma_unguarded h reg pair encoded within pends, fun guarded =>
        ⟨fun o mem last outside => exec_mma_outside h reg pair encoded within guarded mem last outside, ?_⟩⟩⟩
    · rw [exec_mma_pair h reg pair, if_pos long, finishLane_fault h.found]
    · intro tiles inSlots active readable current sound
      have run := exec_mma_enters h reg pair encoded within guarded tiles inSlots
      obtain ⟨as, bs, scalesA, scalesB⟩ := mmaScales_ok readable
      refine ⟨fun full => ?_, fun count room fresh => ?_⟩
      · rw [run, mmaEnter_waits scalesA scalesB current full, finishLane_wait]
      · exact entersMatrix_of_flies core run (mmaEnter_flies scalesA scalesB current sound h.found active count room fresh)
  · intro f s c q core fresh spec m h
    have run := exec_accrd_enters h
    refine ⟨fun past => ?_, fun inside full => ?_, fun inside room active => ?_⟩
    · rw [run, accEnter_past past, finishLane_fault h.turn.found]
    · rw [run, accEnter_full inside full, finishLane_wait]
    · exact entersMatrix_of_flies core run (accEnter_flies inside room active fresh fun _ _ => ⟨rfl, rfl, rfl⟩)
  · intro f s c q core fresh spec m h
    have run := exec_accwr_enters h
    refine ⟨fun past => ?_, fun inside full => ?_, fun inside room active => ?_⟩
    · rw [run, accEnter_past past, finishLane_fault h.turn.found]
    · rw [run, accEnter_full inside full, finishLane_wait]
    · exact entersMatrix_of_flies core run
        (accEnter_flies inside room active fresh fun _ _ => ⟨rfl, rfl, fun r row bit => octetBytes_active row bit⟩)
  · intro f s c q core fresh spec n h
    exact ⟨fun past => exec_accz_past h past, fun inside idle => exec_accz_idle h inside idle,
      fun inside active full => exec_accz_full h inside active full,
      fun inside active room => exec_accz_enters h inside active core fresh room⟩

end Sys2Proof.Proofs.Queues
end

section
/-! PROOFS. JOINC and the decrement of a join record (O38). -/

open Sys2Proof Sys2Proof.Machine
open Sys2Proof.Proofs.ExecutionModel (runCtrl_executes executes_id finishCtrl_fault finishCtrl_done finishCtrl_wait finishCtrl_ue
  released_sendsOnly afterSend l1Update_sendsOnly)

namespace Sys2Proof.Proofs.Queues

/-! ## Words read in a row -/

@[simp] theorem length_readWords (s : State) (k n : Nat) : (readWords s k n).length = n := by
  induction n generalizing k with
  | zero => rfl
  | succ n ih => exact congrArg (· + 1) (ih (k + 4))

theorem getD_readWords (s : State) {k n i : Nat} (inside : i < n) : (readWords s k n).getD i 0 = readWord s (k + 4 * i) := by
  induction n generalizing k i with
  | zero => omega
  | succ n ih =>
    cases i with
    | zero => rfl
    | succ i =>
      calc (readWords s k (n + 1)).getD (i + 1) 0 = (readWords s (k + 4) n).getD i 0 := rfl
        _ = readWord s (k + 4 + 4 * i) := ih (by omega)
        _ = readWord s (k + 4 * (i + 1)) := by rw [Nat.add_assoc, Nat.mul_succ, Nat.add_comm 4]

/-! ## The count of a record (R129) -/

theorem count_stays_positive {w : Word} (more : 1 < w.toInt) : (w - 1).msb = false ∧ w - 1 ≠ 0 := by
  rw [BitVec.msb_eq_false_iff_two_mul_lt]
  rw [BitVec.toInt_eq_toNat_cond] at more
  split at more <;> constructor <;> bv_omega

theorem count_below_zero {w : Word} (least : w.toInt ≤ 0) (wraps : w ≠ 0x80000000) : (w - 1).msb = true := by
  rw [BitVec.msb_eq_true_iff_two_mul_ge]
  rw [BitVec.toInt_eq_toNat_cond] at least
  split at least <;> bv_omega

/-! ## The step of a record to state 2 (R129, R311, R312) -/

theorem fireAt_mem (s : State) (c : Ctx) (asid mg : BitVec 16) (k : Nat) (st : Word) :
    (fireAt s c asid mg k st).mem = (writeWord s k (firedWord st)).mem := (l1Update_sendsOnly ..).mem

theorem fireAt_frame (s : State) (c : Ctx) (asid mg : BitVec 16) (k : Nat) (st : Word) :
    fireAt s c asid mg k st = { s with mem := (fireAt s c asid mg k st).mem, cores := (fireAt s c asid mg k st).cores } := by
  unfold fireAt l1Update
  split <;> rfl

/-! ## What a decrement does (R129, R226) -/

section
variable {s : State} {c : Ctx} {addr : Nat} {v st : Word} {cont : List Word} {fire : State → State}

theorem joinAfter_error (bad : v.msb = true ∨ 2 ≤ bits st 1 0) :
    joinAfter s c addr v st cont fire = (ctxError s c 8 0 none addr (trapPcOf false c.pc.toNat) 0, none) :=
  if_pos (by simpa using bad)

theorem joinAfter_counts (positive : v.msb = false ∧ v ≠ 0) (open' : bits st 1 0 < 2) :
    joinAfter s c addr v st cont fire = (s, none) := by
  obtain ⟨sign, more⟩ := positive
  rw [joinAfter, if_neg (by simpa [sign] using open'), if_pos more]

theorem joinAfter_empty (empty : bits st 1 0 = 0) : joinAfter s c addr 0 st cont fire = (fire s, none) := by
  simp [joinAfter, empty]

theorem joinAfter_armed (armed : bits st 1 0 = 1) : joinAfter s c addr 0 st cont fire =
    (addTask (fire s) c.launch (· + 1), some ((frameWord cont 0 ||| 0x20000000) :: cont.tail)) := by
  simp [joinAfter, armed]

end

/-- A decrement at a home that has its turn (R310). -/
theorem joinDecrement_home {s : State} {c : Ctx} {addr k : Nat} {wr pin : Bool} {w : Word} {put : Word → State}
    (place : joinPlace s c addr = .ok (.here k) wr pin)
    (home : atHome s c (.scalar c.id c.pc) ((getLaunch s c.launch).elim 0 Launch.asid)
      (astGen s ((getLaunch s c.launch).elim 0 Launch.asid)) 0 k = .old w put) :
    joinDecrement s c addr = .ok (joinAfter (put (w - 1)) c addr (w - 1) (readWord (put (w - 1)) (k + 4))
      (readWords (put (w - 1)) (k + 64) 16) (fun t => fireAt t c ((getLaunch s c.launch).elim 0 Launch.asid)
        (astGen t ((getLaunch s c.launch).elim 0 Launch.asid)) (k + 4) (readWord (put (w - 1)) (k + 4)))) := by
  simp only [joinDecrement, place, home]

/-- The continuation that fires is the stored one with its mark, bit 29 of word 0 (R129). -/
theorem markedFrame_words (s : State) (k : Nat) :
    let f := (frameWord (readWords s k 16) 0 ||| 0x20000000) :: (readWords s k 16).tail
    f.length = 16 ∧ f.getD 0 0 = readWord s k ||| 0x20000000 ∧ ∀ i, i < 16 → i ≠ 0 → f.getD i 0 = readWord s (k + 4 * i) := by
  refine ⟨by simp, rfl, fun i inside first => ?_⟩
  obtain ⟨j, rfl⟩ := Nat.exists_eq_succ_of_ne_zero first
  exact getD_readWords s inside

/-! ## JOINC's second step: the release, then the decrement (R225) -/

theorem releaseOnce_complete {s : State} {c : Ctx} (own : getCtx s c.id = some c) (done : scalarSent s c = true ∨ ReleaseDone s c 4) :
    (if scalarSent s c then (s, true) else releaseSteps s c 4) = (afterSend s c c, true) := by
  unfold afterSend
  by_cases sent : scalarSent s c = true
  · rw [if_pos sent, if_pos sent]
  · rw [if_neg sent, if_neg sent, releaseSteps_complete own (done.resolve_left sent)]

/-- The release sends lines home, and no context changes. -/
theorem getCtx_afterSend (s : State) (x c : Ctx) (id : Nat) : getCtx (afterSend s x c) id = getCtx s id := by
  unfold afterSend
  split
  · rfl
  · exact (released_sendsOnly s c 4).getCtx id

section
variable {s : State} {c : Ctx} {addr : Nat} (own : getCtx s c.id = some c) (owing : c.owing = none)
  (steady : s.changing.contains ((getLaunch s c.launch).elim 0 Launch.asid) = false)
include own owing steady

theorem joincDecrement_waits (unsent : ¬ scalarSent s c = true) (more : ¬ ReleaseDone s c 4) :
    joincDecrement s c addr = .wait (released s c 4) := by
  simp only [joincDecrement, owing, steady, if_neg unsent, releaseSteps_incomplete own more]
  rfl

variable (done : scalarSent s c = true ∨ ReleaseDone s c 4)
include done

theorem joincDecrement_later {t : State} (later : joinDecrement (afterSend s c c) c addr = .error (.wait t)) :
    joincDecrement s c addr = .wait t := by
  simp only [joincDecrement, owing, steady, releaseOnce_complete own done, later]
  rfl

theorem joincDecrement_ue {k : Nat} (sick : joinDecrement (afterSend s c c) c addr = .error (.ue k)) :
    joincDecrement s c addr = .ue (afterSend s c c) k := by
  simp only [joincDecrement, owing, steady, releaseOnce_complete own done, sick]
  rfl

theorem joincDecrement_counts {t : State} {push : Option (List Word)} (counts : joinDecrement (afterSend s c c) c addr = .ok (t, push)) :
    joincDecrement s c addr = .wait (modCtx t c.id (fun x => { x with phase := 2, pushing := push })) := by
  simp only [joincDecrement, owing, steady, releaseOnce_complete own done, counts]
  rfl

end

/-! ## JOINC by its phase (R225) -/

/-- What R189 checks of JOINC. -/
abbrev joincCheck (sp : Option Word) : CtrlSpec := { len := wordsOf true sp, sp := sp, must := true, levels := [1], single := true }

/-- JOINC's frame, its entry or its record's address fails the checks of R224 and R225. -/
abbrev joincBad (s : State) (c : Ctx) (d a b : Reg) (lit : Word) : Prop :=
  frameBad (groupWords s c.launch) (c.sregRun d.toNat 16) (bits lit 23 0) false = true ∨ joincAddr c a b = 0 ∨ joincAddr c a b % 128 ≠ 0

section
variable {sp : Option Word} {d a b : Reg} {lit : Word} {s s1 : State} {c c1 : Ctx} (h : Executes (joincCheck sp) s c s1 c1)
  (legal : bits lit 31 24 = 0)
include h legal

theorem exec_joinc_frame (phase : c1.phase = 0) (bad : joincBad s1 c1 d a b lit) :
    exec (.joinc sp d a b lit) s = .next (takeFault s1 c1 FRAME none false c.pc.toNat 0) := by
  change execJoinc sp d a b lit s = _
  rw [execJoinc, runCtrl_executes h (by simpa using legal) rfl, if_neg (by simp [phase]), if_neg (by simp [phase]),
    if_pos (by simpa [joincBad, or_assoc] using bad), finishCtrl_fault h.own]

theorem exec_joinc_opens (phase : c1.phase = 0) (good : ¬ joincBad s1 c1 d a b lit)
    (steady : s1.changing.contains ((getLaunch s1 c1.launch).elim 0 Launch.asid) = false) {k : Nat} {pin : Bool}
    (place : joinPlace s1 c1 (joincAddr c1 a b) = .ok (.here k) true pin) :
    exec (.joinc sp d a b lit) s = .next (modCtx (homePush s1 (.here (k / 128))
      ((4, ((readWord s1 (k + 4)).setWidth 8 &&& 0xFC) ||| 1) :: (List.range 64).map (fun j =>
        (64 + j, ((contFrame c1 (c1.sregRun d.toNat 16) (bits lit 23 0)).flatMap wordBytes).getD j 0)))
      (some c1.id) (some c1.core) false none 0 none (some ((getLaunch s1 c1.launch).elim 0 Launch.asid))) c1.id
      (fun x => { x with phase := 1, join := 0 })) := by
  change execJoinc sp d a b lit s = _
  rw [execJoinc, runCtrl_executes h (by simpa using legal) rfl, if_neg (by simp [phase]), if_neg (by simp [phase]),
    if_neg (by simpa [joincBad, or_assoc] using good), if_neg (by rw [steady]; simp), place]
  rfl

theorem exec_joinc_decrement (phase : c1.phase = 1) :
    exec (.joinc sp d a b lit) s = finishCtrl c.id (joincCheck sp) c.pc c.pc.toNat (joincDecrement s1 c1 (joincAddr c1 a b)) := by
  change execJoinc sp d a b lit s = _
  rw [execJoinc, runCtrl_executes h (by simpa using legal) rfl, if_neg (by simp [phase]), if_pos phase]

theorem exec_joinc_held (phase : c1.phase = 2) (held : pushHeld s1 c1 = none) : exec (.joinc sp d a b lit) s = .next s1 := by
  change execJoinc sp d a b lit s = _
  rw [execJoinc, runCtrl_executes h (by simpa using legal) rfl, if_pos phase, held, finishCtrl_wait]

theorem exec_joinc_done (phase : c1.phase = 2) {t : State} (pushed : pushHeld s1 c1 = some t) :
    exec (.joinc sp d a b lit) s = .next (completed (joincCheck sp) c t none) := by
  change execJoinc sp d a b lit s = _
  rw [execJoinc, runCtrl_executes h (by simpa using legal) rfl, if_pos phase, pushed, finishCtrl_done]

end

/-! ## The obligation -/

/-- Settles O38: JOINC by its phase, and a decrement at the record's home by the count and state that it meets. -/
theorem joinContinuation : Obligations.JoinContinuation := by
  unfold Obligations.JoinContinuation
  refine ⟨?_, fun s c addr k wr pin w put => ⟨fireAt_mem .., fireAt_frame .., fun place home => ?_⟩⟩
  · intro sp d a b lit s c s1 c1 spec f0 addr asid bad i h legal
    have own : getCtx s1 c1.id = some c1 := executes_id h ▸ h.own
    refine ⟨exec_joinc_frame h legal, fun fresh good steady k pin => exec_joinc_opens h legal fresh good steady,
      fun written owing steady => ⟨fun unsent more => ?_, fun done =>
        ⟨fun t later => ?_, fun k sick => ?_, fun t push counts => ?_⟩⟩,
      fun counted => ⟨fun quiet => ?_, fun f fired => ⟨fun full => ?_, fun t pushed => ?_⟩⟩⟩
    · rw [exec_joinc_decrement h legal written, joincDecrement_waits own owing steady unsent more, finishCtrl_wait, if_neg unsent]
    · rw [exec_joinc_decrement h legal written, joincDecrement_later own owing steady done later, finishCtrl_wait]
    · have kept : getCtx (afterSend s1 c1 c1) c.id = some c1 := (getCtx_afterSend ..).trans h.own
      rw [exec_joinc_decrement h legal written, joincDecrement_ue own owing steady done sick, finishCtrl_ue kept]
      rfl
    · rw [exec_joinc_decrement h legal written, joincDecrement_counts own owing steady done counts, finishCtrl_wait]
    · exact exec_joinc_done h legal counted (by simp [pushHeld, quiet])
    · exact exec_joinc_held h legal counted (by simp [pushHeld, fired, full])
    · exact exec_joinc_done h legal counted (by simp [pushHeld, fired, pushed])
  · have run := joinDecrement_home place home
    refine ⟨fun more unfired => ?_, fun last empty => ?_, fun last armed => ?_, fun bad => ?_⟩
    · rw [run, joinAfter_counts (count_stays_positive more) unfired]
    · subst last
      exact run.trans (congrArg Except.ok (joinAfter_empty empty))
    · subst last
      exact ⟨_, run.trans (congrArg Except.ok (joinAfter_armed armed)), markedFrame_words ..⟩
    · rw [run, joinAfter_error (bad.imp_left fun ⟨least, wraps⟩ => count_below_zero least wraps)]

end Sys2Proof.Proofs.Queues
end

section
/-! PROOFS. Waits on the lane stream and the engines, and fences (O18). -/

open Sys2Proof Sys2Proof.Machine
open Sys2Proof.Proofs.ExecutionModel (runCtrl_executes executes_id finishCtrl_done finishCtrl_wait
  released_sendsOnly modCtx_eq getCore_setCore_same getCore_setCore_other)
open Sys2Proof.Proofs.Queues (releaseSteps_complete releaseSteps_incomplete)

namespace Sys2Proof.Proofs.Counters

/-! ## The conditions that are waited for -/

theorem laneIdle_iff (c : Ctx) : c.laneIdle = true ↔ c.clauses = [] ∧ c.flights = [] := by
  rw [Ctx.laneIdle, Bool.and_eq_true, List.isEmpty_iff, List.isEmpty_iff]

theorem allIssued_iff (c : Ctx) : allIssued c = true ↔ ∀ q ∈ c.clauses, q.started = true ∧ q.count ≤ q.next := by
  simp only [allIssued, List.all_eq_true, Bool.and_eq_true, decide_eq_true_eq]

/-- The flags that a mask names, bit by bit (R220). -/
theorem flagsClear_iff (c : Ctx) (m : BitVec 12) :
    c.flagsClear m.toNat = true ↔ ∀ n, n < 12 → m.getLsbD n = true → c.flagCount n = 0 := by
  simp only [Ctx.flagsClear, List.all_eq_true, List.mem_range, Bool.or_eq_true, decide_eq_true_eq]
  refine forall₂_congr fun n _ => ?_
  have bit : m.getLsbD n = true ↔ ¬ m.toNat / 2 ^ n % 2 = 0 := by
    rw [BitVec.getLsbD, Nat.testBit_eq_decide_div_mod_eq, decide_eq_true_eq, Nat.mod_two_not_eq_zero]
  rw [bit, or_iff_not_imp_left]

theorem waitfMet_iff (c : Ctx) (m : BitVec 12) : waitfMet c m.toNat = true ↔ m = 0 ∨
    ((∀ q ∈ c.clauses, q.started = true ∧ q.count ≤ q.next) ∧ ∀ n, n < 12 → m.getLsbD n = true → c.flagCount n = 0) := by
  have empty : m.toNat = 0 ↔ m = 0 := BitVec.toNat_inj (y := 0)
  rw [waitfMet, Bool.or_eq_true, Bool.and_eq_true, decide_eq_true_eq, empty, allIssued_iff, flagsClear_iff]

/-- No lane word that has not issued satisfies `p` or may: every one of them is known. -/
theorem mayStand_eq_false (s : State) (c : Ctx) (p : Word → Word → Bool) : mayStand s c p = false ↔
    ∀ q ∈ c.clauses, ∃ ws, clauseRest s c q = some ws ∧ ∀ w ∈ ws, ∃ x, w = some x ∧ p x.1 x.2 = false := by
  have word (w : Option (Word × Word)) : w.all (fun x => p x.1 x.2) = false ↔ ∃ x, w = some x ∧ p x.1 x.2 = false := by
    cases w <;> simp
  rw [mayStand, List.any_eq_false]
  refine forall₂_congr fun q _ => ?_
  cases clauseRest s c q with
  | none => simp
  | some ws => simp only [Option.all_some, Bool.not_eq_true, List.any_eq_false, word, Option.some.injEq, exists_eq_left']

theorem waiteMet_iff (s : State) (c : Ctx) (cls : BitVec 2) (th : Nat) : waiteMet s c cls th = true ↔
    c.engineCount cls ≤ th ∧ (cls = 1 → ∀ q ∈ c.clauses, ∃ ws, clauseRest s c q = some ws ∧
      ∀ w ∈ ws, ∃ x, w = some x ∧ bits x.1 31 24 ≠ 0x60) := by
  have unissued := mayStand_eq_false s c (fun w0 _ => bits w0 31 24 = 0x60)
  simp only [decide_eq_false_iff_not] at unissued
  rw [waiteMet, Bool.and_eq_true, decide_eq_true_eq, ← unissued, and_comm, Bool.not_eq_true',
    Bool.and_eq_false_imp, decide_eq_true_eq]

/-! ## Instructions that wait for a condition -/

section
variable {s s1 : State} {c c1 : Ctx}

/-- An instruction that waits at its word until its condition holds, and does nothing else. -/
theorem runCtrl_awaits {spec : CtrlSpec} (h : Executes spec s c s1 c1) (mode : (spec.blockMode && c.level == 4 && taskMode s c) = false)
    (met : State → Ctx → Bool) {done : Prop} (iff : met s1 c1 = true ↔ done) :
    (done → runCtrl spec (fun _ _ => false) (fun s c => if met s c then .done s none else .wait s) s =
      .next (completed spec c s1 none)) ∧
    (¬ done → runCtrl spec (fun _ _ => false) (fun s c => if met s c then .done s none else .wait s) s = .next s1) := by
  rw [runCtrl_executes h rfl mode]
  refine ⟨fun holds => ?_, fun fails => ?_⟩
  · rw [if_pos (iff.mpr holds), finishCtrl_done]
  · rw [if_neg (mt iff.mp fails), finishCtrl_wait]

theorem exec_nop {sp : Option Word} (h : Executes (plainSpec sp allLevels) s c s1 c1) :
    exec (.nop sp) s = .next (completed (plainSpec sp allLevels) c s1 none) :=
  runCtrl_executes h (illegal := fun _ _ => false) rfl rfl (fun s _ => .done s none)

end

/-! ## FENCE (R223, R322) -/

theorem acquireSteps_eq {t : State} {c : Ctx} (own : getCtx t c.id = some c) (sc : BitVec 3) :
    let busy := c.flights.any (fun f => !f.accs.isEmpty)
    let t1 := setCtx t { c with loadFence := t.nextId, retire := if sc = 5 ∧ busy = true then c.retire ++ [t.nextId] else c.retire }
    acquireSteps t c sc.toNat = if sc = 5 ∧ busy = false then retireClean t1 c.core else t1 := by
  have system : sc.toNat = 5 ↔ sc = 5 := BitVec.toNat_inj (y := 5)
  simp only [acquireSteps, modCtx_eq own, system, Bool.and_eq_true, Bool.not_eq_true', decide_eq_true_eq]

section
variable {sp : Option Word} {s s1 : State} {c c1 : Ctx} (h : Executes (groupSpec sp false []) s c s1 c1) (kind : BitVec 2) (sc : BitVec 3)
include h

/-- FENCE by what its release steps, where it has them, have come to. -/
theorem exec_fence {t : State} {ok : Bool} (steps : (if kind = 0 then (s1, true) else releaseSteps s1 c1 sc.toNat) = (t, ok)) :
    exec (.fence sp kind sc) s = if ok then
      .next (completed (groupSpec sp false []) c (if kind = 1 then t else acquireSteps t c1 sc.toNat) none) else .next t := by
  show execFence sp kind sc s = _
  rw [execFence, runCtrl_executes h rfl rfl, steps]
  cases ok <;> rfl

theorem exec_fence_acquire : exec (.fence sp 0 sc) s =
    .next (completed (groupSpec sp false []) c (acquireSteps s1 c1 sc.toNat) none) :=
  exec_fence h 0 sc rfl

end

/-! ## Retiring the clean lines (R322) -/

section
variable {s : State} {k : Nat} (inside : k < s.cores.length)
include inside

theorem retireClean_lines : (getCore (retireClean s k) k).lines =
    ((getCore s k).lines.filter (fun x => x.dirty ≠ 0 || x.pinned)).map (fun x => { x with leaseEnd := 0, bytes := x.dirtyBytes }) := by
  rw [retireClean, getCore_setCore_same inside]

theorem retireClean_line {x : Line} (left : x ∈ (getCore (retireClean s k) k).lines) :
    (x.dirty ≠ 0 ∨ x.pinned = true) ∧ x.leaseEnd = 0 ∧ ∀ b ∈ x.bytes, x.dirty.getLsbD b.1 = true := by
  rw [retireClean_lines inside, List.mem_map] at left
  obtain ⟨y, kept, rfl⟩ := left
  obtain ⟨_, stays⟩ := List.mem_filter.mp kept
  exact ⟨by simpa using stays, rfl, fun b dirty => (List.mem_filter.mp dirty).2⟩

theorem retireClean_dirty {x : Line} (mem : x ∈ (getCore s k).lines) (dirty : x.dirty ≠ 0) :
    ∃ y ∈ (getCore (retireClean s k) k).lines, y.line = x.line ∧ y.dirty = x.dirty ∧ y.bytes = x.dirtyBytes := by
  rw [retireClean_lines inside]
  exact ⟨_, List.mem_map_of_mem (List.mem_filter.mpr ⟨mem, by rw [decide_eq_true dirty, Bool.true_or]⟩), rfl, rfl, rfl⟩

end

/-- Settles O18: the waits by their conditions, FENCE by its release steps, and what retiring leaves of a core's lines. -/
theorem waitsComplete : Obligations.WaitsComplete := by
  unfold Obligations.WaitsComplete
  refine ⟨fun s c s1 c1 => ⟨fun sp h => ?_, fun sp m h => ?_, fun sp cls th h => ?_, fun sp h => exec_nop h⟩, ?_, fun s k inside => ?_⟩
  · exact runCtrl_awaits h rfl (fun _ c => c.laneIdle) (laneIdle_iff c1)
  · exact runCtrl_awaits h rfl (fun _ c => waitfMet c m.toNat) (waitfMet_iff c1 m)
  · exact runCtrl_awaits h rfl (fun s c => waiteMet s c cls th.toNat) (waiteMet_iff s1 c1 cls th.toNat)
  · intro sp kind sc s c s1 c1 h busy acquired
    have own : getCtx s1 c1.id = some c1 := executes_id h ▸ h.own
    have acquires {t : State} (kept : getCtx t c1.id = some c1) : acquireSteps t c1 sc.toNat = acquired t := acquireSteps_eq kept sc
    refine ⟨fun acquire => ?_, fun release => ⟨fun done => ?_, fun more => ?_⟩⟩
    · subst acquire
      rw [exec_fence_acquire h sc, acquires own]
    · rw [exec_fence h kind sc ((if_neg release).trans (releaseSteps_complete own done)), if_pos rfl,
        acquires (((released_sendsOnly s1 c1 sc.toNat).getCtx c1.id).trans own)]
    · rw [exec_fence h kind sc ((if_neg release).trans (releaseSteps_incomplete own more))]
      rfl
  · exact ⟨fun x left => retireClean_line inside left, fun x mem dirty => retireClean_dirty inside mem dirty,
      fun j other => getCore_setCore_other s other _, rfl⟩

end Sys2Proof.Proofs.Counters
end

section
/-! PROOFS. WAITA and its wake (O35). -/

open Sys2Proof Sys2Proof.Machine
open Sys2Proof.Proofs.ExecutionModel (runCtrl_executes runCtrl_illegal executes_id finishCtrl_fault
  getCtx_modCtx_same countIssue_id readWord_writeWord_same)
open Sys2Proof.Proofs.Registers (readWord_writeWord_apart)
open Sys2Proof.Proofs.Queues (getD_readWords)

namespace Sys2Proof.Proofs.Counters

/-! ## The test of an object (R151, R153, R221) -/

section
variable {s : State} {c : Ctx} {a : Reg} (b : Reg) (order : Nat) {al : Alloc}
  (fresh : tagAt s (coreKey c.core (waitaAddr c a)) = al.gen) (sound : poisonAt s (coreKey c.core (waitaAddr c a)) = false)
include fresh sound

/-- The test of an arrival object that stands. -/
theorem waitaTest_arrival (plain : waitaRing c a = false) (found : allocOf c (effPols s c) (waitaAddr c a) 16 = some al)
    (aligned : waitaAddr c a % 16 = 0) : waitaTest s c a b order =
      if readWord s (coreKey c.core (waitaAddr c a) + 4) ≠ c.sreg b.toNat then
        .yes (readWord s (coreKey c.core (waitaAddr c a) + 4)) s
      else .no := by
  simp only [waitaTest, plain, found, aligned, fresh, sound, getD_readWords, Bool.false_eq_true, if_false, ne_eq, not_true,
    Nat.reduceDiv, Nat.reduceLT, Nat.reduceMul]

/-- The test of a ring object that stands, with slots and a size that are valid. -/
theorem waitaTest_ring (ring : waitaRing c a = true) (found : allocOf c (effPols s c) (waitaAddr c a) 32 = some al)
    (aligned : waitaAddr c a % 32 = 0) {k : Nat} (key : coreKey c.core (waitaAddr c a) = k)
    (slots : bits (readWord s k) 15 0 ≠ 0) (size : readWord s (k + 4) ≠ 0) (lines : (readWord s (k + 4)).toNat % 64 = 0) :
    waitaTest s c a b order =
      if 0 < (readWord s (k + 12)).toInt && !ringAhead s c (waitaAddr c a) order then
        .yes (BitVec.ofNat 32 (bits (readWord s (k + 20)) 11 0))
          (writeWord (writeWord s (k + 12) (readWord s (k + 12) - 1)) (k + 20) ((readWord s (k + 20) &&& 0xFFFFF000) |||
            BitVec.ofNat 32 ((bits (readWord s (k + 20)) 11 0 + 1) % bits (readWord s k) 15 0 % 4096)))
      else .no := by
  subst key
  have good : ringBad (readWords s (coreKey c.core (waitaAddr c a)) 8) = false := by
    simp only [ringBad, getD_readWords, Nat.reduceLT, Nat.mul_zero, Nat.mul_one, Nat.add_zero, decide_eq_false slots, decide_eq_false size,
      decide_eq_false (not_not.mpr lines), Bool.or_false]
  simp only [waitaTest, good, ring, found, aligned, fresh, sound, getD_readWords, Bool.false_eq_true, if_false, if_true, ne_eq, not_true,
    Nat.reduceDiv, Nat.reduceLT, Nat.reduceMul, Nat.add_zero]

end

/-- The low twelve bits of a word whose others are kept. -/
theorem bits_low12 (w : Word) {n : Nat} (fits : n < 4096) : bits ((w &&& 0xFFFFF000) ||| BitVec.ofNat 32 n) 11 0 = n := by
  have low : (w &&& 0xFFFFF000).toNat % 2 ^ (11 + 1 - 0) = 0 := by
    rw [BitVec.toNat_and, Nat.and_mod_two_pow]
    exact Nat.and_zero _
  rw [bits, BitVec.toNat_or, Nat.pow_zero, Nat.div_one, Nat.or_mod_two_pow, low, Nat.zero_or, BitVec.toNat_ofNat]
  omega

/-! ## The object's waiters (R150, R152) -/

theorem getCtx_modWaiters (s : State) (k : Nat) (ring : Bool) (f : Nat → Nat) (id : Nat) :
    getCtx (modWaiters s k ring f) id = getCtx s id := rfl

/-- A group that has been suspended in its WAITA. -/
def waitaHeld (i : Instr) (len order : Nat) (c : Ctx) : Ctx := { c with mode := .waita i len order }

/-! ## WAITA by what its test finds (R221) -/

section
variable {sp : Option Word} {d a b : Reg} {s s1 : State} {c c1 : Ctx} (h : Executes (groupSpec sp false [d.toNat]) s c s1 c1)
include h

theorem exec_waita_illegal (ring : waitaRing c a = true) (named : b ≠ 0) :
    exec (.waita sp d a b) s = .next (takeFault s c ILLEGAL none false c.pc.toNat 0) := by
  show execWaita sp d a b s = _
  rw [execWaita]
  exact runCtrl_illegal h.turn (by rw [ring, Bool.true_and]; exact decide_eq_true named) _

variable (legal : ¬ (waitaRing c a = true ∧ b ≠ 0))
include legal

theorem exec_waita_returns {v : Word} {t : State} (found : waitaTest s1 c1 a b s1.nextId = .yes v t) : exec (.waita sp d a b) s =
    .next (completed (groupSpec sp false [d.toNat]) c (modCtx t c1.id (fun x => x.setSreg d.toNat v)) none) := by
  show execWaita sp d a b s = _
  rw [execWaita, runCtrl_executes h (by simpa using legal) rfl, found]
  rfl

theorem exec_waita_faults {code : Nat} (found : waitaTest s1 c1 a b s1.nextId = .fault code) :
    exec (.waita sp d a b) s = .next (takeFault s1 c1 code none false c.pc.toNat 0) := by
  show execWaita sp d a b s = _
  rw [execWaita, runCtrl_executes h (by simpa using legal) rfl, found]
  exact finishCtrl_fault h.own _ _ _

/-- The effect of a WAITA whose condition does not hold. -/
theorem exec_waita_counts (found : waitaTest s1 c1 a b s1.nextId = .no) : exec (.waita sp d a b) s = .next (modCtx
    { modCtx (modWaiters s1 (coreKey c1.core (waitaAddr c1 a)) (waitaRing c1 a) (· + 1)) c.id
        (waitaHeld (.waita sp d a b) (wordsOf false sp) s1.nextId) with nextId := s1.nextId + 1 }
    c.id (fun x => x.countIssue (groupSpec sp false [d.toNat]))) := by
  show execWaita sp d a b s = _
  rw [execWaita, runCtrl_executes h (by simpa using legal) rfl, found, ← executes_id h]
  rfl

/-- A group whose condition does not hold is counted in WAITERS and suspended. -/
theorem exec_waita_suspends (found : waitaTest s1 c1 a b s1.nextId = .no) : ∃ t, exec (.waita sp d a b) s = .next t ∧
    t.mem = (modWaiters s1 (coreKey c1.core (waitaAddr c1 a)) (waitaRing c1 a) (· + 1)).mem ∧
    getCtx t c.id = some (({ c1 with mode := .waita (.waita sp d a b) (wordsOf false sp) s1.nextId } : Ctx).countIssue
      (groupSpec sp false [d.toNat])) := by
  have counts := getCtx_modWaiters s1 (coreKey c1.core (waitaAddr c1 a)) (waitaRing c1 a) (· + 1) c.id
  refine ⟨_, exec_waita_counts h legal found, ?_, ?_⟩
  · rw [modCtx_mem]
    exact modCtx_mem ..
  · have held := getCtx_modCtx_same (f := waitaHeld (.waita sp d a b) (wordsOf false sp) s1.nextId) (counts.trans h.own) rfl
    exact getCtx_modCtx_same held (countIssue_id ..)

end

/-! ## The wake (R221) -/

section
variable {s : State} {x : Ctx} {sp : Option Word} {d a b : Reg} {len order : Nat} (found : getCtx s x.id = some x)
  (mode : x.mode = .waita (.waita sp d a b) len order) (power : powered s = true)
include found mode power

theorem exec_waitaWake_waits (test : waitaTest s x a b order = .no) : exec (.waitaWake x.id) s = .next s := by
  show execWaitaWake x.id s = _
  simp only [execWaitaWake, found, mode, power, test, Bool.not_true, Bool.false_eq_true, if_false]

theorem exec_waitaWake_returns {v : Word} {t : State} (test : waitaTest s x a b order = .yes v t) : exec (.waitaWake x.id) s =
    .next (resumePast (modCtx (modWaiters t (coreKey x.core (waitaAddr x a)) (waitaRing x a) (· - 1)) x.id
      (fun y => y.setSreg d.toNat v)) x.id len sp) := by
  show execWaitaWake x.id s = _
  simp only [execWaitaWake, found, mode, power, test, Bool.not_true, Bool.false_eq_true, if_false]

theorem exec_waitaWake_faults {code : Nat} (test : waitaTest s x a b order = .fault code) : exec (.waitaWake x.id) s =
    .next (takeFault (modWaiters s (coreKey x.core (waitaAddr x a)) (waitaRing x a) (· - 1)) { x with mode := .run } code none false
      x.pc.toNat 0) := by
  show execWaitaWake x.id s = _
  simp only [execWaitaWake, found, mode, power, test, Bool.not_true, Bool.false_eq_true, if_false]

end

/-- Settles O35: WAITA and its wake by what the test finds, and the test by the object's words. -/
theorem waitOnArrival : Obligations.WaitOnArrival := by
  unfold Obligations.WaitOnArrival
  refine ⟨⟨fun sp d a b s c s1 c1 h => ⟨fun ⟨ring, named⟩ => exec_waita_illegal h ring named, fun legal =>
    ⟨fun v t found => exec_waita_returns h legal found, exec_waita_suspends h legal, fun code found => exec_waita_faults h legal found⟩⟩,
    ?_⟩, ?_⟩
  · intro s x sp d a b len order found mode power left
    exact ⟨exec_waitaWake_waits found mode power, fun v t => exec_waitaWake_returns found mode power,
      fun code => exec_waitaWake_faults found mode power⟩
  intro s c a b order al k fresh sound
  refine ⟨fun plain found aligned => ?_, fun ring found aligned wf => ?_⟩
  · have test := waitaTest_arrival b order fresh sound plain found aligned
    exact ⟨fun differs => by rw [test, if_pos differs], fun same => by rw [test, if_neg (not_not.mpr same)]⟩
  · intro slots size filled tail some_slots some_size lines
    have test := waitaTest_ring b order fresh sound ring found aligned rfl some_slots some_size lines
    refine ⟨fun full first => ⟨_, test.trans (if_pos ?_), ?_, ?_⟩, fun waits => test.trans (if_neg fun both => ?_)⟩
    · exact Bool.and_eq_true_iff.mpr ⟨decide_eq_true full, by rw [first]; rfl⟩
    · have wf1 := writeWord_canonical s (k + 12) (filled - 1) wf
      rw [readWord_writeWord_apart wf1.1 _ (by omega), readWord_writeWord_same wf]
    · rw [readWord_writeWord_same (writeWord_canonical s _ _ wf)]
      exact bits_low12 _ (Nat.mod_lt _ (by decide))
    · obtain ⟨full, first⟩ := Bool.and_eq_true_iff.mp both
      rcases waits with empty | ahead
      · exact Int.not_lt.mpr empty (of_decide_eq_true full)
      · simp [ahead] at first

end Sys2Proof.Proofs.Counters
end

section
/-! PROOFS. Loads of the lane stream (O44). -/

open Sys2Proof Sys2Proof.Machine
open Sys2Proof.Proofs.Registers (getCtx_of_ctxs)
open Sys2Proof.Proofs.Memories (localHit_perm localHit_align localHit_ok)
open Sys2Proof.Proofs.Queues (runLane_executes finishLane_fly finishLane_wait finishLane_fault laneChecks_clear peersChecked_ok)

namespace Sys2Proof.Proofs.Counters

/-! ## The deciding fault (R247) -/

/-- A fault of the first class found, in its lowest lane, decides. -/
theorem decideHits_first {hs : List (Nat × Hit)} {l r code : Nat} {addr : Word} (mem : (l, Hit.bad r code addr) ∈ hs)
    (least : ∀ h ∈ hs, ∀ r', h.2.rank = some r' → r < r' ∨ (r = r' ∧ l ≤ h.1)) (sorted : (hs.map Prod.fst).Pairwise (· < ·)) :
    decideHits hs = some (l, .bad r code addr) := by
  have first : (hs.filterMap (fun h => h.2.rank)).min? = some r := by
    refine List.min?_eq_some_iff.mpr ⟨List.mem_filterMap.mpr ⟨_, mem, rfl⟩, fun r' found => ?_⟩
    obtain ⟨h, here, rank⟩ := List.mem_filterMap.mp found
    have := least h here r' rank
    omega
  rw [decideHits, first]
  obtain ⟨before, after, rfl⟩ := List.append_of_mem mem
  refine List.find?_eq_some_iff_append.mpr ⟨by simp [Hit.rank], before, after, rfl, fun h earlier => ?_⟩
  have lower : h.1 < l := by
    rw [List.map_append, List.pairwise_append] at sorted
    exact sorted.2.2 h.1 (List.mem_map_of_mem earlier) l (by simp)
  have other : h.2.rank ≠ some r := fun rank => by
    have := least h (by simp [earlier]) r rank
    omega
  simpa using other

theorem laneChecks_fault {hs : List (Nat × Hit)} {l r code : Nat} {addr : Word} (decides : decideHits hs = some (l, .bad r code addr))
    (s : State) (c : Ctx) (q : Clause) (write : Bool) (asid mg : BitVec 16) :
    laneChecks s c q write asid mg hs = some (.fault s code (some l) addr) := by
  rw [laneChecks, decides]

/-! ## The peers (R96, R247, R352) -/

section
variable {s : State} {c : Ctx} {q : Clause} {write : Bool} {n : Nat} {asid mg : BitVec 16} {hs : List (Nat × Hit)}

/-- Peers that have nothing against an instruction leave its checks forgotten. -/
theorem remoteCheck_requests {s1 : State} (passed : remoteCheck s c q write n asid mg hs = .ok s1) :
    s1.requests = s.requests.filter (fun r => !askedBy c (trapPcOf true q.at) (.check write) r) := by
  unfold remoteCheck at passed
  dsimp only at passed
  split at passed
  · cases passed
  · split at passed
    next none_stops =>
      cases passed
      simp [none_stops]
    next => split at passed <;> cases passed

/-- What stops an instruction at its peers changes no context. -/
theorem remoteCheck_stops {a : LAct} (stopped : remoteCheck s c q write n asid mg hs = .error a) :
    (∃ t, a = .wait t) ∨ ∃ t, ((∃ l, a = .fault t REMOTE l 0) ∨ ∃ l r, a = .remote t l r) ∧ t.ctxs = s.ctxs := by
  unfold remoteCheck at stopped
  dsimp only at stopped
  split at stopped
  · cases stopped
    exact .inl ⟨_, rfl⟩
  · split at stopped
    · cases stopped
    · split at stopped <;> cases stopped
      · exact .inr ⟨_, .inl ⟨_, rfl⟩, rfl⟩
      · exact .inr ⟨_, .inr ⟨_, _, rfl⟩, rfl⟩

end

section
variable {i : Instr} {op : Nat} {f : LaneForm} (form : loadForm i = some (op, f)) {s : State} {c : Ctx} {q : Clause}
  {asid mg : BitVec 16} {hs : List (Nat × Hit)}
include form

/-- Of the loads only BLD asks peers (R247, R250). -/
theorem peersChecked_load : (i = .bld f ∧ peersChecked i s c q asid mg hs = remoteCheck s c q false (widthOf f) asid mg hs) ∨
    ((∀ g, i ≠ .bld g) ∧ peersChecked i s c q asid mg hs = .ok s) := by
  unfold loadForm at form
  split at form <;> cases form
  case h_1 => exact .inl ⟨rfl, rfl⟩
  all_goals exact .inr ⟨fun g => nofun, rfl⟩

theorem peersChecked_requests {s1 : State} (passed : peersChecked i s c q asid mg hs = .ok s1) (r : Request) :
    r ∈ s1.requests ↔ r ∈ s.requests ∧ ((∀ g, i ≠ .bld g) ∨ askedBy c (trapPcOf true q.at) (.check false) r = false) := by
  rcases peersChecked_load form (s := s) (c := c) (q := q) (asid := asid) (mg := mg) (hs := hs) with ⟨rfl, asks⟩ | ⟨other, asks⟩
  · rw [remoteCheck_requests (asks.symm.trans passed), List.mem_filter]
    simp
  · cases asks.symm.trans passed
    exact (and_iff_left (.inl other)).symm

/-- A load that a peer's answer ends finds its context as it was. -/
theorem peersChecked_stops {t : State} {l : Option Nat} (stopped : peersChecked i s c q asid mg hs = .error (.fault t REMOTE l 0) ∨
    ∃ r, peersChecked i s c q asid mg hs = .error (.remote t l r)) : t.ctxs = s.ctxs := by
  rcases peersChecked_load form (s := s) (c := c) (q := q) (asid := asid) (mg := mg) (hs := hs) with ⟨-, asks⟩ | ⟨-, asks⟩
  all_goals rw [asks] at stopped
  · rcases stopped with fault | ⟨r, remote⟩
    · rcases remoteCheck_stops fault with ⟨u, e⟩ | ⟨u, ⟨l', e⟩ | ⟨l', r', e⟩, same⟩ <;> cases e
      exact same
    · rcases remoteCheck_stops remote with ⟨u, e⟩ | ⟨u, ⟨l', e⟩ | ⟨l', r', e⟩, same⟩ <;> cases e
      exact same
  · simp at stopped

end

/-! ## The accesses of a load (R249) -/

section
variable {c : Ctx} {n : Nat} {hs : List (Nat × Hit)}

theorem laneAccs_lanes (clear : hitsClear hs) : (laneAccs c n hs).map LaneAcc.lane = hs.map Prod.fst := by
  induction hs with
  | nil => rfl
  | cons h hs ih =>
    have rest := ih fun x mem => clear x (List.mem_cons_of_mem h mem)
    obtain ⟨l, hit⟩ := h
    rcases clear _ List.mem_cons_self with oob | ⟨p, va, g, k, ok⟩
    · cases oob
      exact congrArg (l :: ·) rest
    · cases ok
      exact congrArg (l :: ·) rest

theorem oob_mem_laneAccs {l : Nat} (mem : (l, Hit.oob) ∈ hs) : ⟨l, none, [], 0, false⟩ ∈ laneAccs c n hs :=
  List.mem_filterMap.mpr ⟨_, mem, rfl⟩

theorem ok_mem_laneAccs {l va : Nat} {p : Place} {g : BitVec 12} {counted : Bool} (mem : (l, Hit.ok p va g counted) ∈ hs) :
    ⟨l, some p, ownBytes c p n, g, counted⟩ ∈ laneAccs c n hs :=
  List.mem_filterMap.mpr ⟨_, mem, rfl⟩

/-- Each lane has its access, one that is out of bounds among them. -/
theorem laneAccs_covers (clear : hitsClear hs) {h : Nat × Hit} (mem : h ∈ hs) : ∃ a ∈ laneAccs c n hs, a.lane = h.1 ∧
    (h.2 = .oob → a.place = none) ∧ ∀ p va g k, h.2 = .ok p va g k → a.place = some p ∧ a.gen = g ∧
      a.own = (List.range n).map (fun i => if atomicSince c (p.plus i) then none else rsbByte c (p.plus i)) := by
  obtain ⟨l, hit⟩ := h
  rcases clear _ mem with oob | ⟨p, va, g, k, ok⟩
  · cases oob
    exact ⟨_, oob_mem_laneAccs mem, rfl, fun _ => rfl, nofun⟩
  · cases ok
    refine ⟨_, ok_mem_laneAccs mem, rfl, nofun, fun p' va' g' k' same => ?_⟩
    cases same
    exact ⟨rfl, rfl, rfl⟩

end

/-! ## A load's own effect -/

/-- What a load does: its checks' end, its peers' end, or its issue (R247, R250). -/
def loadEffect (checks : Option LAct) (asked : Except LAct State) (issue : State → LAct) : LAct :=
  match checks, asked with
  | some a, _ => a
  | none, .error a => a
  | none, .ok s => issue s

theorem finishLane_remote {t : State} {c : Ctx} (found : getCtx t c.id = some c) (q : Clause) (spec : LaneSpec) (lane : Option Nat)
    (req : Nat) : finishLane c.id q spec (.remote t lane req) = .next (takeRemote t c spec.atomic lane q.at req) := by
  simp only [finishLane, found]

/-- A load that asks no peers, by its checks. -/
theorem runLane_ownLoad {op : Nat} {f : LaneForm} {s : State} {c : Ctx} {q : Clause} (h : LaneExecutes (loadSpec op f) s c q)
    {body : State → Ctx → Clause → LaneMask → LAct} (hs : List (Nat × Hit))
    (acts : body s c q (activeLanes c q f) = match laneChecks s c q false 0 0 hs with
      | some a => a
      | none => loadAct (loadSpec op f) s c q (activeLanes c q f) 0 0 hs) :
    runLane (loadSpec op f) body s = finishLane c.id q (loadSpec op f) (loadEffect (laneChecks s c q false 0 0 hs) (.ok s)
      (fun s1 => loadAct (loadSpec op f) s1 c q (activeLanes c q f) 0 0 hs)) := by
  rw [runLane_executes h rfl, show (loadSpec op f).f = f from rfl, acts]
  cases laneChecks s c q false 0 0 hs <;> rfl

/-- A buffer load by its checks and its peers. -/
theorem bufferAct_loads {s : State} {c : Ctx} {q : Clause} {f : LaneForm} {m : LaneMask} {read : Reading} {n : Nat} {r : Rec}
    (record : bufferSpecCheck s c q f false false n = .ok r) (access : State → BitVec 16 → BitVec 16 → List (Nat × Hit) → LAct) :
    bufferAct s c q f m false false read n access =
      loadEffect (laneChecks s c q false r.asid (r.generation s) (bufferHits s c q f r false read n m))
        (remoteCheck s c q false n r.asid (r.generation s) (bufferHits s c q f r false read n m))
        (fun s1 => access s1 r.asid (r.generation s) (bufferHits s c q f r false read n m)) := by
  simp only [bufferAct, record]
  cases laneChecks s c q false r.asid (r.generation s) (bufferHits s c q f r false read n m) with
  | some a => rfl
  | none => cases remoteCheck s c q false n r.asid (r.generation s) (bufferHits s c q f r false read n m) <;> rfl

/-- Every form of a load by its checks and its peers. -/
theorem exec_load {i : Instr} {op : Nat} {f : LaneForm} (form : loadForm i = some (op, f)) {s : State} {c : Ctx} {q : Clause}
    {asid mg : BitVec 16} {hs : List (Nat × Hit)} (h : LaneExecutes (loadSpec op f) s c q)
    (hits : formHits i s c q (activeLanes c q f) = some (asid, mg, hs)) :
    exec i s = finishLane c.id q (loadSpec op f) (loadEffect (laneChecks s c q false asid mg hs) (peersChecked i s c q asid mg hs)
      (fun s1 => loadAct (loadSpec op f) s1 c q (activeLanes c q f) asid mg hs)) := by
  unfold loadForm at form
  split at form <;> cases form
  case h_1 =>
    cases record : bufferSpecCheck s c q f false false (widthOf f) with
    | error e => simp [formHits, record] at hits
    | ok r =>
      simp only [formHits, record, Option.some.injEq, Prod.mk.injEq] at hits
      obtain ⟨rfl, rfl, rfl⟩ := hits
      show execBld f s = _
      unfold execBld
      show runLane (loadSpec 0x50 f) _ s = _
      rw [runLane_executes h rfl, show (loadSpec 0x50 f).f = f from rfl, bufferAct_loads record]
      rfl
  case h_2 =>
    cases hits
    show execLld f s = _
    unfold execLld localLoad
    exact runLane_ownLoad h _ rfl
  case h_3 =>
    cases hits
    show execPld f s = _
    unfold execPld
    exact runLane_ownLoad h _ rfl
  case h_4 =>
    cases hits
    show execVld f s = _
    unfold execVld localLoad
    exact runLane_ownLoad h _ rfl

/-- Settles O44: a load by its lanes' checks and its peers' answers, and what a local access may find. -/
theorem laneLoads : Obligations.LaneLoads := by
  unfold Obligations.LaneLoads
  refine ⟨?_, fun s c pols read n addr => ⟨localHit_perm, fun al found =>
    ⟨localHit_align found, fun aligned plain => localHit_ok found aligned (plain.symm.imp_right .inl)⟩⟩⟩
  intro i op f form s c q asid mg hs spec h hits
  have run := exec_load form h hits
  have found : getCtx s c.id = some c := h.turn.found
  refine ⟨fun s1 clear asked => ?_, fun t clear asked => ?_, fun t l clear asked => ?_, fun t l r clear asked => ?_,
    fun l r code addr mem least sorted => ?_⟩
  · rw [laneChecks_clear clear, asked] at run
    have sent := peersChecked_ok asked
    have same : s1.nextId = s.nextId := by rw [sent]
    exact ⟨sent, peersChecked_requests form asked, _, run.trans (finishLane_fly ..), same, rfl, rfl, rfl, rfl, rfl, rfl, rfl, rfl, rfl,
      laneAccs_lanes clear, fun x mem => laneAccs_covers clear mem⟩
  · rw [run, laneChecks_clear clear, asked]
    exact finishLane_wait ..
  · rw [run, laneChecks_clear clear, asked]
    exact finishLane_fault ((getCtx_of_ctxs (peersChecked_stops form (.inl asked)) c.id).trans found) ..
  · have kept := (getCtx_of_ctxs (peersChecked_stops form (.inr ⟨r, asked⟩)) c.id).trans found
    rw [run, laneChecks_clear clear, asked]
    exact finishLane_remote kept ..
  · rw [run, laneChecks_fault (decideHits_first mem least sorted)]
    exact finishLane_fault found ..

end Sys2Proof.Proofs.Counters
end

section
/-! PROOFS. The words of an instruction decode to it (O1). -/

open Sys2Proof Sys2Proof.Machine Sys2Proof.Laws

namespace Sys2Proof.Proofs.Encoding

/-- The laws of the constructors together: whatever the instruction, its words decode to it. -/
theorem roundTrip (i : Instr) : RoundTrip.Statement i := by
  cases i with
  | add sp d a b => exact RoundTrip.add sp d a b
  | sub sp d a b => exact RoundTrip.sub sp d a b
  | mul sp d a b => exact RoundTrip.mul sp d a b
  | mulh sp d a b => exact RoundTrip.mulh sp d a b
  | mulhu sp d a b => exact RoundTrip.mulhu sp d a b
  | andr sp d a b => exact RoundTrip.andr sp d a b
  | orr sp d a b => exact RoundTrip.orr sp d a b
  | xorr sp d a b => exact RoundTrip.xorr sp d a b
  | shl sp d a b => exact RoundTrip.shl sp d a b
  | shr sp d a b => exact RoundTrip.shr sp d a b
  | sar sp d a b => exact RoundTrip.sar sp d a b
  | minr sp d a b => exact RoundTrip.minr sp d a b
  | maxr sp d a b => exact RoundTrip.maxr sp d a b
  | minu sp d a b => exact RoundTrip.minu sp d a b
  | maxu sp d a b => exact RoundTrip.maxu sp d a b
  | slt sp d a b => exact RoundTrip.slt sp d a b
  | sltu sp d a b => exact RoundTrip.sltu sp d a b
  | seq sp d a b => exact RoundTrip.seq sp d a b
  | clz sp d a => exact RoundTrip.clz sp d a
  | popc sp d a => exact RoundTrip.popc sp d a
  | divu sp d a b => exact RoundTrip.divu sp d a b
  | remu sp d a b => exact RoundTrip.remu sp d a b
  | bfx sp d a b => exact RoundTrip.bfx sp d a b
  | addi sp d a i => exact RoundTrip.addi sp d a i
  | andi sp d a i => exact RoundTrip.andi sp d a i
  | ori sp d a i => exact RoundTrip.ori sp d a i
  | xori sp d a i => exact RoundTrip.xori sp d a i
  | shli sp d a i => exact RoundTrip.shli sp d a i
  | shri sp d a i => exact RoundTrip.shri sp d a i
  | sari sp d a i => exact RoundTrip.sari sp d a i
  | slti sp d a i => exact RoundTrip.slti sp d a i
  | movi sp d m => exact RoundTrip.movi sp d m
  | movhi sp d m => exact RoundTrip.movhi sp d m
  | movl sp d lit => exact RoundTrip.movl sp d lit
  | addiw sp d m => exact RoundTrip.addiw sp d m
  | lds sp d a i => exact RoundTrip.lds sp d a i
  | sts sp d a i => exact RoundTrip.sts sp d a i
  | sbld sp d a b => exact RoundTrip.sbld sp d a b
  | sbst sp d a b => exact RoundTrip.sbst sp d a b
  | satom sp d a b lit => exact RoundTrip.satom sp d a b lit
  | grow sp m => exact RoundTrip.grow sp m
  | br sp sc off => exact RoundTrip.br sp sc off
  | bz sp sc a off => exact RoundTrip.bz sp sc a off
  | bnz sp sc a off => exact RoundTrip.bnz sp sc a off
  | bltz sp sc a off => exact RoundTrip.bltz sp sc a off
  | bgez sp sc a off => exact RoundTrip.bgez sp sc a off
  | buni sp sc n off => exact RoundTrip.buni sp sc n off
  | call sp sc off => exact RoundTrip.call sp sc off
  | ret sp sc => exact RoundTrip.ret sp sc
  | loop sp sc a off => exact RoundTrip.loop sp sc a off
  | loopNext sp sc => exact RoundTrip.loopNext sp sc
  | loopLeave sp sc => exact RoundTrip.loopLeave sp sc
  | endc sp sc => exact RoundTrip.endc sp sc
  | brl sp sc n off => exact RoundTrip.brl sp sc n off
  | meet sp sc off => exact RoundTrip.meet sp sc off
  | lane sp d m => exact RoundTrip.lane sp d m
  | lsync sp => exact RoundTrip.lsync sp
  | ptos sp d n => exact RoundTrip.ptos sp d n
  | vtos sp d a l => exact RoundTrip.vtos sp d a l
  | vtosPair sp d a l => exact RoundTrip.vtosPair sp d a l
  | vtosFirst sp d a => exact RoundTrip.vtosFirst sp d a
  | exmr sp d => exact RoundTrip.exmr sp d
  | exmw sp a => exact RoundTrip.exmw sp a
  | down sp d m => exact RoundTrip.down sp d m
  | segend sp => exact RoundTrip.segend sp
  | up sp a op => exact RoundTrip.up sp a op
  | gather sp d op => exact RoundTrip.gather sp d op
  | bar sp n => exact RoundTrip.bar sp n
  | barc sp n => exact RoundTrip.barc sp n
  | waitf sp m => exact RoundTrip.waitf sp m
  | waite sp cls t => exact RoundTrip.waite sp cls t
  | waita sp d a b => exact RoundTrip.waita sp d a b
  | tryw sp d a b lit => exact RoundTrip.tryw sp d a b lit
  | fence sp kind sc => exact RoundTrip.fence sp kind sc
  | spawn sp d => exact RoundTrip.spawn sp d
  | joinc sp d a b lit => exact RoundTrip.joinc sp d a b lit
  | tcopy sp d a b => exact RoundTrip.tcopy sp d a b
  | gcopy sp d a b => exact RoundTrip.gcopy sp d a b
  | wbload sp d a b => exact RoundTrip.wbload sp d a b
  | rcopy sp d a b => exact RoundTrip.rcopy sp d a b
  | getsr sp d m => exact RoundTrip.getsr sp d m
  | setsr sp d m => exact RoundTrip.setsr sp d m
  | trap sp m => exact RoundTrip.trap sp m
  | sigchk sp lit => exact RoundTrip.sigchk sp lit
  | brk sp m => exact RoundTrip.brk sp m
  | nop sp => exact RoundTrip.nop sp
  | vadd | vsub | vmul | vmulh | vmulhu | vmad | vand | vor | vxor | vshl | vshr | vsar | vmin | vmax | vminu | vmaxu
  | vabs | vclz | vpopc | vbfx | vbfi | vsel | vmov | vcmp | vadds | plog | fadd | fsub | fmul | ffma | fmin | fmax
  | fcmp | frcp | frsq | fsqrt | fexp | flog | frint | fldexp | fexpx | fclass | hadd2 | hmul2 | hfma2 | cvt | quant
  | packb | unpkb | shfl | shflx | vote | redux | scan | bld | bst | batom | bpf | lld | lst | latom | pld | pst
  | vld | vst | mma | accrd | accwr | accz | lnop => exact RoundTrip.of_lane rfl rfl rfl
  | _ => exact RoundTrip.of_event rfl rfl

theorem encode_of_ctrl {i : Instr} {ws : List Word} (h : encodeCtrl i = some ws) : encode i = ws := by
  rw [encode, h]

theorem encode_of_lane {i : Instr} {op : BitVec 8} {f : LaneForm} (hc : encodeCtrl i = none) (h : laneParts i = some (op, f)) :
    encode i = encLane op f := by
  rw [encode, hc, h]

/-- No instruction is both a control word and a lane word. -/
theorem encodeCtrl_of_lane {i : Instr} {op : BitVec 8} {f : LaneForm} (h : laneParts i = some (op, f)) : encodeCtrl i = none := by
  unfold laneParts at h
  split at h
  case h_71 => cases h
  all_goals rfl

/-- Settles O1: of the constructors' round trips, the control words' and the lane words' halves. -/
theorem encodeDecodeAgree : Obligations.EncodeDecodeAgree := by
  unfold Obligations.EncodeDecodeAgree
  intro i wf _
  obtain ⟨ctrl, lane⟩ := roundTrip i wf
  refine ⟨fun some rest => ?_, fun some => ?_⟩
  · obtain ⟨ws, words⟩ := Option.isSome_iff_exists.mp some
    rw [encode_of_ctrl words]
    exact ctrl ws words rest
  · obtain ⟨⟨op, f⟩, parts⟩ := Option.isSome_iff_exists.mp some
    rw [encode_of_lane (encodeCtrl_of_lane parts) parts]
    exact lane op f parts

end Sys2Proof.Proofs.Encoding
end

section
/-! PROOFS. A word that decodes is the encoding of what it decodes to (O2). -/

open Sys2Proof Sys2Proof.Machine Sys2Proof.Laws

namespace Sys2Proof.Proofs.Encoding

/-! ## A word is put together again from its fields (R159, R165) -/

theorem ofBool_getLsbD {n : Nat} (w : BitVec n) (k : Nat) : BitVec.ofBool (w.getLsbD k) = w.extractLsb' k 1 := by
  ext i hi
  obtain rfl : i = 0 := by omega
  simp

/-- Two fields that stand next to each other are one. -/
theorem append_fields {n : Nat} (w : BitVec n) {i j k m : Nat} (adjacent : i = j + m) :
    (w.extractLsb' i k).append (w.extractLsb' j m) = w.extractLsb' j (k + m) :=
  BitVec.extractLsb'_append_extractLsb'_eq_extractLsb' adjacent

theorem encCR_append (s : Bool) (op : BitVec 7) (d a b : Reg) :
    encCR s op d a b = ((((BitVec.ofBool s).append op).append d).append a).append b := rfl

theorem encCW_append (s : Bool) (op : BitVec 7) (d : Reg) (m : BitVec 16) :
    encCW s op d m = (((BitVec.ofBool s).append op).append d).append m := rfl

theorem encCB_append (s : Bool) (op : BitVec 7) (sc : BitVec 3) (a : Reg) (off : BitVec 13) :
    encCB s op sc a off = ((((BitVec.ofBool s).append op).append sc).append a).append off := rfl

theorem encLane_append (op : BitVec 8) (f : LaneForm) :
    encLane op f = [((op.append f.d).append f.a).append f.b,
      ((((((f.c.append f.guard).append (BitVec.ofBool f.neg)).append f.ty).append f.mod).append f.flag).append f.scope).append f.sub,
      f.imm] := rfl

theorem encCR_fields (w : Word) :
    encCR (ctrlS w) (w.extractLsb' 24 7) (w.extractLsb' 16 8) (w.extractLsb' 8 8) (w.extractLsb' 0 8) = w := by
  simp only [encCR_append, ctrlS, ofBool_getLsbD, append_fields, Nat.reduceAdd, field_all]

theorem encCW_fields (w : Word) : encCW (ctrlS w) (w.extractLsb' 24 7) (w.extractLsb' 16 8) (w.extractLsb' 0 16) = w := by
  simp only [encCW_append, ctrlS, ofBool_getLsbD, append_fields, Nat.reduceAdd, field_all]

theorem encCB_fields (w : Word) :
    encCB (ctrlS w) (w.extractLsb' 24 7) (w.extractLsb' 21 3) (w.extractLsb' 13 8) (w.extractLsb' 0 13) = w := by
  simp only [encCB_append, ctrlS, ofBool_getLsbD, append_fields, Nat.reduceAdd, field_all]

theorem encLane_fields (w0 w1 w2 : Word) : encLane (w0.extractLsb' 24 8) (laneFields w0 w1 w2) = [w0, w1, w2] := by
  simp only [encLane_append, laneFields, ofBool_getLsbD, append_fields, Nat.reduceAdd, field_all]

/-! ## Narrow operands -/

/-- A field that holds a small value is what its low bits widen to. -/
theorem widen_narrow {n m : Nat} {x : BitVec n} (small : x.toNat < 2 ^ m) : (x.setWidth m).setWidth n = x := by
  apply BitVec.eq_of_toNat_eq
  simp only [BitVec.toNat_setWidth]
  rw [Nat.mod_eq_of_lt small, Nat.mod_eq_of_lt x.isLt]

theorem toNat_lt_of_top {n : Nat} {x : BitVec (n + 1)} (top : x.getLsbD n = false) : x.toNat < 2 ^ n :=
  BitVec.toNat_lt_of_msb_false (by rw [BitVec.msb_eq_getLsbD_last]; exact top)


/-! ## What a control word that decodes is -/

/-- `i` is a well-formed instruction, and its words are the control word `w`, the literal where `w` has one, and `sp`. -/
def Reads (w lit : Word) (sp : Option Word) (i : Instr) : Prop :=
  i.wf = true ∧ encodeCtrl i = some (encWords w (if ctrlHasLiteral w then some lit else none) sp)

theorem need_ok_iff {c : Bool} {e : DecodeError} {r : Except DecodeError Instr} {i : Instr} :
    decodeNeed c e r = .ok i ↔ c = true ∧ r = .ok i := by
  cases c <;> simp [decodeNeed]

section reads
variable {w lit : Word} {sp : Option Word} {i : Instr} {n : Nat} {l : Option Word}

theorem wf_of_ctrlWf (ctrl : laneParts i = none) (fields : i.ctrlWf = true) : i.wf = true := by
  rw [Instr.wf, ctrl, fields]; rfl

theorem opcode_field (op : ctrlOpcode w = n) : w.extractLsb' 24 7 = BitVec.ofNat 7 n := by
  rw [← op, ctrlOpcode, BitVec.ofNat_toNat, BitVec.setWidth_eq]

/-- A word whose form is put together again from the instruction's fields is read as that instruction. -/
theorem reads_of_enc {v : Word} (op : ctrlOpcode w = n) (same : v = w) (enc : encodeCtrl i = some (encWords v l sp))
    (literal : l = if [0x22, 0x28, 0x53, 0x59, 0x73].contains n then some lit else none) (ctrl : laneParts i = none)
    (fields : i.ctrlWf = true) : Reads w lit sp i := by
  refine ⟨wf_of_ctrlWf ctrl fields, ?_⟩
  rw [enc, same, literal, ctrlHasLiteral, op]

variable (hs : ctrlS w = sp.isSome)
include hs

theorem reads_CR {d a b : Reg} (op : ctrlOpcode w = n)
    (enc : encodeCtrl i = some (encWords (encCR sp.isSome (BitVec.ofNat 7 n) d a b) l sp))
    (literal : l = if [0x22, 0x28, 0x53, 0x59, 0x73].contains n then some lit else none) (ctrl : laneParts i = none)
    (fields : i.ctrlWf = true) (hd : w.extractLsb' 16 8 = d) (ha : w.extractLsb' 8 8 = a) (hb : w.extractLsb' 0 8 = b) :
    Reads w lit sp i := by
  refine reads_of_enc op ?_ enc literal ctrl fields
  rw [← hs, ← opcode_field op, ← hd, ← ha, ← hb, encCR_fields]

theorem reads_CW {d : Reg} {m : BitVec 16} (op : ctrlOpcode w = n)
    (enc : encodeCtrl i = some (encWords (encCW sp.isSome (BitVec.ofNat 7 n) d m) l sp))
    (literal : l = if [0x22, 0x28, 0x53, 0x59, 0x73].contains n then some lit else none) (ctrl : laneParts i = none)
    (fields : i.ctrlWf = true) (hd : w.extractLsb' 16 8 = d) (hm : w.extractLsb' 0 16 = m) : Reads w lit sp i := by
  refine reads_of_enc op ?_ enc literal ctrl fields
  rw [← hs, ← opcode_field op, ← hd, ← hm, encCW_fields]

theorem reads_CB {sc : BitVec 3} {a : Reg} {off : BitVec 13} (op : ctrlOpcode w = n)
    (enc : encodeCtrl i = some (encWords (encCB sp.isSome (BitVec.ofNat 7 n) sc a off) l sp))
    (literal : l = if [0x22, 0x28, 0x53, 0x59, 0x73].contains n then some lit else none) (ctrl : laneParts i = none)
    (fields : i.ctrlWf = true) (hsc : w.extractLsb' 21 3 = sc) (ha : w.extractLsb' 13 8 = a) (hoff : w.extractLsb' 0 13 = off) :
    Reads w lit sp i := by
  refine reads_of_enc op ?_ enc literal ctrl fields
  rw [← hs, ← opcode_field op, ← hsc, ← ha, ← hoff, encCB_fields]

/-- Whatever opcode is listed, the checks of its row leave no bit of the word that the instruction does not give back (R160, R184). -/
theorem decodeCtrlFields_reads (scope : ctrlIsBranch (ctrlOpcode w) = true → (w.extractLsb' 21 3).toNat < 6)
    (h : decodeCtrlFields w lit sp = .ok i) : Reads w lit sp i := by
  unfold decodeCtrlFields at h
  extract_lets need d a b m sc a13 off at h
  have sc_lt {n : Nat} (op : ctrlOpcode w = n) (branch : ctrlIsBranch n = true) : decide (sc.toNat < 6) = true :=
    decide_eq_true (scope (op ▸ branch))
  split at h
  -- CR and CI, no field checked
  case h_1 op | h_2 op | h_3 op | h_4 op | h_5 op | h_6 op | h_7 op | h_8 op | h_9 op | h_10 op | h_11 op | h_12 op | h_13 op
      | h_14 op | h_15 op | h_16 op | h_17 op | h_18 op | h_21 op | h_22 op | h_23 op | h_24 op | h_25 op | h_26 op | h_27 op
      | h_31 op | h_36 op | h_37 op | h_68 op | h_73 op | h_74 op | h_75 op | h_76 op =>
    cases h
    exact reads_CR hs op rfl rfl rfl rfl rfl rfl rfl
  -- CW, no field checked
  case h_32 op | h_33 op | h_35 op =>
    cases h
    exact reads_CW hs op rfl rfl rfl rfl rfl rfl
  -- CB, no field checked
  case h_43 op | h_44 op | h_45 op | h_46 op =>
    cases h
    exact reads_CB hs op rfl rfl rfl (sc_lt op rfl) rfl rfl rfl
  case h_83 => cases h
  all_goals simp only [need, need_ok_iff, Bool.and_eq_true, beq_iff_eq, decide_eq_true_eq, Except.ok.injEq] at h
  -- CLZ, POPC: b is unused
  case h_19 op | h_20 op =>
    obtain ⟨zb, rfl⟩ := h
    exact reads_CR hs op rfl rfl rfl rfl rfl rfl zb
  -- shifts by an immediate
  case h_28 op | h_29 op | h_30 op =>
    obtain ⟨small, rfl⟩ := h
    exact reads_CR hs op rfl rfl rfl rfl rfl rfl (widen_narrow small).symm
  -- MOVL
  case h_34 op =>
    obtain ⟨zm, rfl⟩ := h
    exact reads_CW hs op rfl rfl rfl rfl rfl zm
  -- SBLD, SBST, SATOM, TRYW: the number of a buffer record
  case h_38 op | h_39 op | h_40 op | h_69 op =>
    obtain ⟨top, rfl⟩ := h
    exact reads_CR hs op rfl rfl rfl rfl rfl rfl (widen_narrow (toNat_lt_of_top top)).symm
  -- GROW, TRAP, BRK: d is unused
  case h_41 op | h_79 op | h_81 op =>
    obtain ⟨zd, rfl⟩ := h
    exact reads_CW hs op rfl rfl rfl rfl zd rfl
  -- B, CALL, MEET: a is unused
  case h_42 op | h_48 op | h_53 op =>
    obtain ⟨za, rfl⟩ := h
    exact reads_CB hs op rfl rfl rfl (sc_lt op rfl) rfl za rfl
  -- BUNI, BRL: the number of a predicate
  case h_47 op | h_52 op =>
    obtain ⟨small, rfl⟩ := h
    exact reads_CB hs op rfl rfl rfl (sc_lt op rfl) rfl (widen_narrow small).symm rfl
  -- RET, END
  case h_49 op | h_51 op =>
    obtain ⟨⟨za, zoff⟩, rfl⟩ := h
    exact reads_CB hs op rfl rfl rfl (sc_lt op rfl) rfl za zoff
  -- LOOP
  case h_50 op =>
    split at h
    · cases h
    · next top =>
      have wide : off = (off.setWidth 12).setWidth 13 :=
        (widen_narrow (toNat_lt_of_top (Bool.eq_false_of_not_eq_true top))).symm
      split at h
      · next ne =>
        cases h
        have kept : (off.setWidth 12 != 0) = true := bne_iff_ne.mpr fun zero => bne_iff_ne.mp ne (wide.trans (by rw [zero]; rfl))
        exact reads_CB hs op rfl rfl rfl (Bool.and_eq_true_iff.mpr ⟨sc_lt op rfl, kept⟩) rfl rfl wide
      · next eq =>
        have zoff : off = 0 := by simpa using eq
        split at h
        · next za =>
          cases h
          exact reads_CB hs op rfl rfl rfl (sc_lt op rfl) rfl za zoff
        · rw [need_ok_iff, beq_iff_eq] at h
          obtain ⟨one, h⟩ := h
          cases h
          exact reads_CB hs op rfl rfl rfl (sc_lt op rfl) rfl one zoff
  -- LANE, DOWN: a run of four scalars
  case h_54 op | h_60 op =>
    obtain ⟨run, rfl⟩ := h
    exact reads_CW hs op rfl rfl rfl (decide_eq_true run) rfl rfl
  -- LSYNC, SEGEND: no field is used
  case h_55 op | h_61 op =>
    obtain ⟨⟨⟨zd, za⟩, zb⟩, rfl⟩ := h
    exact reads_CR hs op rfl rfl rfl rfl zd za zb
  -- PTOS
  case h_56 op =>
    obtain ⟨⟨zb, small⟩, run, rfl⟩ := h
    exact reads_CR hs op rfl rfl rfl (decide_eq_true run) rfl (widen_narrow small).symm zb
  -- VTOS
  case h_57 op =>
    have low : ∀ b : Reg, b.extractLsb' 6 2 = 0 → b = (b.setWidth 6).setWidth 8 := by decide
    have pair : ∀ b : Reg, b.extractLsb' 6 2 = 1 → b = 0x40 ||| (b.setWidth 6).setWidth 8 := by decide
    split at h
    · cases h
    · next vector =>
      have va : decide (a.toNat < 0xF0) = true := decide_eq_true (Nat.lt_of_not_le vector)
      split at h
      · next top =>
        cases h
        exact reads_CR hs op rfl rfl rfl va rfl rfl (low b top)
      · split at h
        · next top =>
          rw [need_ok_iff, decide_eq_true_eq] at h
          obtain ⟨run, h⟩ := h
          cases h
          exact reads_CR hs op rfl rfl rfl (Bool.and_eq_true_iff.mpr ⟨va, decide_eq_true run⟩) rfl rfl (pair b top)
        · rw [need_ok_iff, beq_iff_eq] at h
          obtain ⟨first, h⟩ := h
          cases h
          exact reads_CR hs op rfl rfl rfl va rfl rfl first
  -- EXMR, SPAWN: a run of scalars
  case h_58 op | h_71 op =>
    obtain ⟨⟨za, zb⟩, run, rfl⟩ := h
    exact reads_CR hs op rfl rfl rfl (decide_eq_true run) rfl za zb
  -- EXMW
  case h_59 op =>
    obtain ⟨⟨zd, zb⟩, run, rfl⟩ := h
    exact reads_CR hs op rfl rfl rfl (decide_eq_true run) zd rfl zb
  -- UP
  case h_62 op =>
    obtain ⟨zd, small, rfl⟩ := h
    exact reads_CR hs op rfl rfl rfl rfl zd rfl (widen_narrow small).symm
  -- GATHER
  case h_63 op =>
    obtain ⟨za, small, rfl⟩ := h
    exact reads_CR hs op rfl rfl rfl rfl rfl za (widen_narrow small).symm
  -- BAR, BARC
  case h_64 op | h_65 op =>
    obtain ⟨⟨zd, za⟩, small, rfl⟩ := h
    exact reads_CR hs op rfl rfl rfl rfl zd za (widen_narrow small).symm
  -- WAITF
  case h_66 op =>
    obtain ⟨⟨zd, small⟩, rfl⟩ := h
    exact reads_CW hs op rfl rfl rfl rfl zd (widen_narrow small).symm
  -- WAITE
  case h_67 op =>
    obtain ⟨⟨zd, za⟩, rfl⟩ := h
    have join : ∀ b : Reg, b = b.extractLsb' 6 2 ++ b.setWidth 6 := by decide
    exact reads_CR hs op rfl rfl rfl rfl zd za (join b)
  -- FENCE
  case h_70 op =>
    obtain ⟨⟨⟨zd, za⟩, small⟩, ⟨kind, scope⟩, rfl⟩ := h
    have join : ∀ b : Reg, b.toNat < 32 → b = (0 : BitVec 3) ++ b.extractLsb' 3 2 ++ b.setWidth 3 := by decide
    exact reads_CR hs op rfl rfl rfl (Bool.and_eq_true_iff.mpr ⟨kind, decide_eq_true scope⟩) zd za (join b small)
  -- JOINC
  case h_72 op =>
    obtain ⟨run, rfl⟩ := h
    exact reads_CR hs op rfl rfl rfl (decide_eq_true run) rfl rfl rfl
  -- GETSR, SETSR: the number of a system register
  case h_77 op | h_78 op =>
    obtain ⟨listed, rfl⟩ := h
    exact reads_CW hs op rfl rfl rfl listed rfl rfl
  -- SIGCHK, NOP
  case h_80 op | h_82 op =>
    obtain ⟨⟨zd, zm⟩, rfl⟩ := h
    exact reads_CW hs op rfl rfl rfl rfl zd zm

end reads

/-- A control word that decodes is read as its instruction, with the live-mask word where S = 1 (R159 to R164). -/
theorem decodeCtrl_reads {w lit live : Word} {i : Instr} (h : decodeCtrl w lit live = .ok i) :
    Reads w lit (if ctrlS w then some live else none) i := by
  unfold decodeCtrl at h
  split at h
  · cases h
  · next legal =>
    refine decodeCtrlFields_reads (by cases ctrlS w <;> rfl) (fun branch => ?_) h
    simpa [branch] using legal

/-! ## What a lane word that decodes is -/

/-- The constructor of a lane opcode has that opcode and is no control instruction (R190). -/
theorem laneInstr_some {op : Nat} {f : LaneForm} {i : Instr} (h : laneInstr op f = some i) :
    laneParts i = some (BitVec.ofNat 8 op, f) ∧ encodeCtrl i = none ∧ i.ctrlWf = true := by
  unfold laneInstr at h
  split at h
  case h_71 => cases h
  all_goals
    cases h
    exact ⟨rfl, rfl, rfl⟩

/-- A lane word that decodes is a well-formed instruction whose words it is (R165, R191). -/
theorem decodeLane_encodes {w0 w1 w2 : Word} {i : Instr} (h : decodeLane w0 w1 w2 = .ok i) :
    i.wf = true ∧ encode i = [w0, w1, w2] := by
  unfold decodeLane at h
  extract_lets op f at h
  split at h
  · cases h
  · next j found =>
    split at h
    · next ok =>
      cases h
      obtain ⟨parts, ctrl, fields⟩ := laneInstr_some found
      have back : BitVec.ofNat 8 op = w0.extractLsb' 24 8 := by rw [BitVec.ofNat_toNat, BitVec.setWidth_eq]
      rw [back] at parts
      refine ⟨?_, ?_⟩
      · rw [Instr.wf, fields, parts]
        exact ok
      · rw [encode_of_lane ctrl parts, encLane_fields]
    · cases h

/-- Settles O2: a control word is read by its opcode's row, a lane word by its opcode and its fields. -/
theorem decodeIsEncoded : Obligations.DecodeIsEncoded := by
  unfold Obligations.DecodeIsEncoded
  refine ⟨fun w lit live i h => ?_, fun ws i h => ?_⟩
  · obtain ⟨wf, words⟩ := decodeCtrl_reads h
    refine ⟨wf, words.trans ?_⟩
    cases ctrlHasLiteral w <;> cases ctrlS w <;> rfl
  · unfold decodeLaneWords at h
    split at h
    · exact decodeLane_encodes h
    · cases h

end Sys2Proof.Proofs.Encoding
end

section
/-! PROOFS. Branches on a scalar, and BUNI (O11). -/

open Sys2Proof Sys2Proof.Machine
open Sys2Proof.Proofs.ExecutionModel (runCtrl_executes finishCtrl_done finishCtrl_wait finishCtrl_fault)

namespace Sys2Proof.Proofs.Encoding

/-! ## B, BZ, BNZ, BLTZ and BGEZ (R204) -/

theorem beq_zero_toNat (w : Word) : (w == 0) = decide (w.toNat = 0) :=
  Bool.eq_iff_iff.mpr (by rw [beq_iff_eq, decide_eq_true_eq]; exact BitVec.toNat_inj.symm)

theorem bne_zero_toNat (w : Word) : (w != 0) = decide (w.toNat ≠ 0) := by
  rw [bne, beq_zero_toNat, decide_not]

theorem not_msb_toInt (w : Word) : (!w.msb) = decide (0 ≤ w.toInt) := by
  rw [BitVec.msb_eq_toInt, ← decide_not]
  exact decide_eq_decide.mpr Int.not_lt

/-- The branches of R204 are one branch, each on its own condition. -/
theorem exec_branchResult {i : Instr} {sp : Option Word} {sc : BitVec 3} {off : BitVec 13} {taken : Ctx → Bool}
    (branch : branchResult i = some (sp, sc, off, taken)) (s : State) : exec i s = branchOn taken sp sc off s := by
  unfold branchResult at branch
  split at branch
  case h_6 => cases branch
  all_goals cases branch
  case h_1 => rfl
  case h_2 a =>
    show execBz sp sc a off s = _
    exact congrArg (branchOn · sp sc off s) (funext fun c => beq_zero_toNat (c.sreg a.toNat))
  case h_3 a =>
    show execBnz sp sc a off s = _
    exact congrArg (branchOn · sp sc off s) (funext fun c => bne_zero_toNat (c.sreg a.toNat))
  case h_4 a =>
    show execBltz sp sc a off s = _
    exact congrArg (branchOn · sp sc off s) (funext fun c => BitVec.msb_eq_toInt (x := c.sreg a.toNat))
  case h_5 a =>
    show execBgez sp sc a off s = _
    exact congrArg (branchOn · sp sc off s) (funext fun c => not_msb_toInt (c.sreg a.toNat))

theorem branchOn_executes {sp : Option Word} {sc : BitVec 3} {s s1 : State} {c c1 : Ctx} (h : Executes (branchSpec sp sc) s c s1 c1)
    (taken : Ctx → Bool) (off : BitVec 13) :
    branchOn taken sp sc off s = .next (completed (branchSpec sp sc) c s1 (if taken c1 then some (branchTarget c1 off) else none)) := by
  rw [branchOn, runCtrl_executes h rfl rfl, finishCtrl_done]

/-! ## BUNI (R49) -/

/-- The lanes over which BUNI goes, and those of them in which pN is set. -/
def buniLanes (c : Ctx) : LaneMask := c.path.mask &&& c.liveMask
def buniSet (c : Ctx) (n : BitVec 3) : LaneMask := c.pred n.toNat &&& buniLanes c

/-- BUNI's own effect once no instruction that writes pN is pending. -/
def buniAct (n : BitVec 3) (off : BitVec 13) (s : State) (c : Ctx) : Act :=
  if buniLanes c = 0 || buniSet c n = 0 then .done s none
  else if buniSet c n = buniLanes c then .done s (some (branchTarget c off))
  else .fault s NONUNI 0

theorem exec_buni (sp : Option Word) (sc n : BitVec 3) (off : BitVec 13) (s : State) :
    exec (.buni sp sc n off) s =
      runCtrl { flowSpec sp sc with levels := groupLevels, onlyScope := some 1, single := true } (fun _ _ => false)
        (fun s c => if predPending s c n.toNat then .wait s else buniAct n off s c) s := rfl

section
variable {c : Ctx} {n : BitVec 3} (off : BitVec 13) (s : State)

theorem buniAct_clear (clear : buniSet c n = 0) : buniAct n off s c = .done s none := by
  simp [buniAct, clear]

theorem buniAct_set (set : buniSet c n = buniLanes c) (active : buniLanes c ≠ 0) :
    buniAct n off s c = .done s (some (branchTarget c off)) := by
  simp only [buniAct, set, active, decide_false, Bool.or_self, Bool.false_eq_true, if_false, if_true]

/-- Where the lanes differ there is an active one, since with none pN is set in all of them. -/
theorem buniAct_differ (one : buniSet c n ≠ 0) (not_all : buniSet c n ≠ buniLanes c) : buniAct n off s c = .fault s NONUNI 0 := by
  have active : buniLanes c ≠ 0 := fun none => one (by rw [buniSet, none]; exact BitVec.and_zero)
  simp only [buniAct, one, not_all, active, decide_false, Bool.or_self, Bool.false_eq_true, if_false]

end

/-- Settles O11: the scalar branches are one branch on the conditions of R204, and BUNI goes by pN in the active lanes (R49). -/
theorem branchResults : Obligations.BranchResults := by
  unfold Obligations.BranchResults
  refine ⟨fun i sp sc off taken branch s c s1 c1 h => ?_, ?_⟩
  · rw [exec_branchResult branch, branchOn_executes h]
    rfl
  · intro sp sc n off s c s1 c1 spec m t h
    have run := (exec_buni sp sc n off s).trans (runCtrl_executes h rfl rfl _)
    refine ⟨fun pending => ?_, fun ready => ⟨fun clear => ?_, fun set active => ?_, fun one not_all => ?_⟩⟩
    · rw [run, if_pos pending, finishCtrl_wait]
    · rw [run, ready, if_neg (by decide), buniAct_clear off s1 clear, finishCtrl_done]
    · rw [run, ready, if_neg (by decide), buniAct_set off s1 set active, finishCtrl_done]
      rfl
    · rw [run, ready, if_neg (by decide), buniAct_differ off s1 one not_all, finishCtrl_fault h.own]

end Sys2Proof.Proofs.Encoding
end

section
/-! PROOFS. Every operation and event has a meaning (O8). -/

open Sys2Proof Sys2Proof.Machine
open Sys2Proof.Proofs.Memories (KeptOption keptOption_bind keptOption_map)

namespace Sys2Proof.Proofs.Encoding

/-- What the model may answer: a next state, or the one stop that it has. -/
inductive Answers : Host.Outcome State Fault Refusal → Prop
  | next (t : State) : Answers (.next t)
  | noFrame (addr : Nat) : Answers (.fault (.noFrame addr))

theorem Answers.next_or_noFrame {o : Host.Outcome State Fault Refusal} (h : Answers o) :
    (∃ t, o = .next t) ∨ ∃ a, o = .fault (.noFrame a) := by
  cases h with
  | next t => exact .inl ⟨t, rfl⟩
  | noFrame a => exact .inr ⟨a, rfl⟩

theorem answers_ite {p : Prop} [Decidable p] {a b : Host.Outcome State Fault Refusal} (ha : Answers a) (hb : Answers b) :
    Answers (if p then a else b) := by
  split
  · exact ha
  · exact hb

section
variable (s : State)

/-! ## Instructions: whatever the own effect, the shared part answers -/

theorem finishCtrl_answers (id : Nat) (sp : CtrlSpec) (pc : Pc) (off : Nat) (a : Act) : Answers (finishCtrl id sp pc off a) := by
  unfold finishCtrl
  split
  case h_4 | h_5 | h_6 => split <;> constructor
  all_goals constructor

theorem runCtrl_answers (sp : CtrlSpec) (illegal : State → Ctx → Bool) (body : State → Ctx → Act) :
    Answers (runCtrl sp illegal body s) := by
  unfold runCtrl
  split
  · split
    · exact .next _
    · refine answers_ite (.next _) ?_
      split <;> constructor
  · split
    · exact .next _
    · refine answers_ite (.next _) ?_
      split
      · exact .next _
      · split
        · refine answers_ite (answers_ite (.next _) ?_) (finishCtrl_answers ..)
          split
          · exact .next _
          · exact finishCtrl_answers ..
        · exact finishCtrl_answers ..
  · exact .next _

theorem pureCtrl_answers (sp : CtrlSpec) (f : Ctx → Ctx) : Answers (pureCtrl sp f s) := runCtrl_answers ..

theorem scalarCR_answers (f : Word → Word → Word) (sp : Option Word) (d a b : Reg) : Answers (scalarCR f sp d a b s) :=
  pureCtrl_answers ..

theorem scalarCI_answers (f : Word → Word) (sp : Option Word) (d a : Reg) : Answers (scalarCI f sp d a s) := pureCtrl_answers ..

theorem scalarCW_answers (f : Word → Word) (sp : Option Word) (lit : Bool) (d : Reg) : Answers (scalarCW f sp lit d s) :=
  pureCtrl_answers ..

theorem branchOn_answers (cond : Ctx → Bool) (sp : Option Word) (sc : BitVec 3) (off : BitVec 13) :
    Answers (branchOn cond sp sc off s) := runCtrl_answers ..

theorem issueOp_answers (k : EngKind) (sp : Option Word) (d a b : Reg) : Answers (issueOp k sp d a b s) := runCtrl_answers ..

theorem finishLane_answers (id : Nat) (q : Clause) (spec : LaneSpec) (a : LAct) : Answers (finishLane id q spec a) := by
  unfold finishLane
  split
  case h_3 | h_7 => constructor
  all_goals split <;> constructor

theorem runLane_answers (spec : LaneSpec) (body : State → Ctx → Clause → LaneMask → LAct) : Answers (runLane spec body s) := by
  unfold runLane
  split
  · split
    · exact .next _
    · split
      · exact .next _
      · refine answers_ite (.next _) (answers_ite (.next _) (answers_ite (.next _) ?_))
        refine answers_ite (finishLane_answers ..) (answers_ite (finishLane_answers ..) ?_)
        split
        · exact finishLane_answers ..
        · refine answers_ite (.next _) (answers_ite (finishLane_answers ..) ?_)
          extract_lets src
          split
          · exact finishLane_answers ..
          · split
            · exact .next _
            · exact finishLane_answers ..
  · exact .next _

theorem mapLane_answers (op : Nat) (f : LaneForm) (g : State → Ctx → Clause → Nat → Word) (reads : List Nat) :
    Answers (mapLane op f g reads s) := runLane_answers ..

theorem lane1_answers (op : Nat) (f : LaneForm) (g : Clause → Word → Word) : Answers (lane1 op f g s) := mapLane_answers ..

theorem lane2_answers (op : Nat) (f : LaneForm) (g : Clause → Word → Word → Word) : Answers (lane2 op f g s) :=
  mapLane_answers ..

theorem lane3_answers (op : Nat) (f : LaneForm) (g : Clause → Word → Word → Word → Word) : Answers (lane3 op f g s) :=
  mapLane_answers ..

theorem shflLane_answers (op : Nat) (xor : Bool) (f : LaneForm) : Answers (shflLane op xor f s) := by
  unfold shflLane
  exact runLane_answers ..

theorem localLoad_answers (op : Nat) (run : Bool) (f : LaneForm) : Answers (localLoad op run f s) := by
  unfold localLoad
  exact runLane_answers ..

theorem localStore_answers (op : Nat) (run : Bool) (f : LaneForm) : Answers (localStore op run f s) := runLane_answers ..

theorem laneBlocked_answers (sp : Option Word) (m : BitVec 16) : KeptOption Answers (laneBlocked sp m s) := by
  unfold laneBlocked
  split
  case h_3 => trivial
  all_goals
    refine keptOption_bind fun c => ?_
    split
    · trivial
    · exact keptOption_map fun _ => finishCtrl_answers ..

/-- A LANE that waits for its clause's words ends as any control instruction does. -/
theorem execLane_answers (sp : Option Word) (d : Reg) (m : BitVec 16) : Answers (execLane sp d m s) :=
  (laneBlocked_answers s sp m).getD (runCtrl_answers ..)

/-! ## Events whose outcome another function gives -/

theorem laneFetchStop_answers (c : Ctx) (off : Nat) (f : Fetch) : Answers (laneFetchStop s c off f) := by
  cases f <;> constructor

theorem execClauseHead_answers (c : Nat) : Answers (execClauseHead c s) := by
  unfold execClauseHead
  split
  · exact .next _
  · split
    · exact .next _
    · refine answers_ite (.next _) ?_
      split
      · exact laneFetchStop_answers ..
      · refine answers_ite (.next _) ?_
        split
        · exact laneFetchStop_answers ..
        · exact answers_ite (.next _) (.next _)

theorem trywAgain_answers (c : Nat) (timedOut : Bool) : Answers (trywAgain c timedOut s) := by
  unfold trywAgain
  split
  · exact .next _
  · split
    · refine answers_ite (.next _) ?_
      extract_lets y spec
      split
      · exact .next _
      · exact finishCtrl_answers ..
    · exact .next _

theorem steal_answers (k : Nat) : Answers (steal k s) := by
  unfold steal
  split <;> constructor

theorem execStealRetry_answers (k : Nat) : Answers (execStealRetry k s) := by
  unfold execStealRetry
  split
  · exact .next _
  · exact answers_ite (.next _) (answers_ite (steal_answers ..) (.next _))

theorem engineStop_answers (o : EngOp) (r : ERead) : Answers (engineStop s o r) := by
  cases r <;> constructor

theorem landReduce_answers (o : EngOp) (e : Nat) (landed : List Nat) (count : State → State) :
    Answers (landReduce s o e landed count) := by
  unfold landReduce
  split
  · exact answers_ite (.next _) (.next _)
  · split
    · exact engineStop_answers ..
    · exact engineStop_answers ..
    · exact .next _
    · split
      · exact .next _
      · exact engineStop_answers ..

theorem landPiece_answers (o : EngOp) (i : Nat) (es : List Nat) : Answers (landPiece s o i es) := by
  unfold landPiece
  extract_lets o1 landed b n count
  refine answers_ite (landReduce_answers ..) ?_
  split
  · exact engineStop_answers ..
  · exact engineStop_answers ..
  · split <;> constructor

theorem execLanding_answers (op blk : Nat) : Answers (execLanding op blk s) := by
  unfold execLanding
  split
  · exact .next _
  · refine answers_ite (.next _) ?_
    refine answers_ite (answers_ite (.next _) (.next _)) (answers_ite (.next _) (answers_ite (.next _) ?_))
    split
    · exact .next _
    · exact landPiece_answers ..

theorem joinEnd_answers (c : Ctx) : Answers (joinEnd s c) := by
  unfold joinEnd
  refine answers_ite (.next _) (answers_ite (.next _) ?_)
  split
  · exact .noFrame _
  · exact .next _
  · refine answers_ite (.next _) ?_
    split <;> constructor

theorem endLanes_answers (c : Ctx) : Answers (endLanes s c) := by
  unfold endLanes
  refine answers_ite (.next _) (answers_ite ?_ ?_)
  · split <;> constructor
  · split
    · exact .next _
    · split
      · exact .next _
      · exact answers_ite (.next _) (answers_ite (.next _) (joinEnd_answers ..))

theorem execContextEnd_answers (c : Nat) : Answers (execContextEnd c s) := by
  unfold execContextEnd
  split
  · exact .next _
  · refine answers_ite (.next _) (answers_ite (endLanes_answers ..) ?_)
    refine answers_ite (answers_ite (.next _) (.next _)) (answers_ite (.next _) ?_)
    split
    · exact answers_ite (.next _) (.next _)
    · exact .next _

theorem execInboundPeerAccess_answers (r : PeerAccess) : Answers (execInboundPeerAccess r s) := by
  unfold execInboundPeerAccess
  refine answers_ite (.next _) (answers_ite (.next _) (answers_ite (.next _) ?_))
  split
  · exact .noFrame _
  · exact answers_ite (.next _) (.next _)
  · refine answers_ite (.next _) (answers_ite (.next _) ?_)
    split <;> constructor

/-! ## Packets -/

theorem afterRead_answers (r : PRead) {f : List Word → State → Host.Outcome State Fault Refusal}
    (h : ∀ ws t, Answers (f ws t)) : Answers (afterRead s r f) := by
  cases r with
  | words ws t => exact h ws t
  | wait | absent | hole => constructor

theorem servePacket_answers (is : Nat → Bool) {f : HostQueue → List Word → State → Host.Outcome State Fault Refusal} (q : Nat)
    (h : ∀ x ws t, Answers (f x ws t)) : Answers (servePacket is f q s) := by
  unfold servePacket
  split
  · exact .next _
  · exact answers_ite (.next _) (afterRead_answers s _ fun ws t => answers_ite (.next _) (answers_ite (.next _) (h _ ws t)))

theorem execWaitPacket_answers (q : Nat) : Answers (execWaitPacket q s) := by
  refine servePacket_answers s _ q fun x ws t => ?_
  split
  · exact .next _
  · exact afterRead_answers s _ fun _ _ => answers_ite (.next _) (.next _)

theorem execSignalPacket_answers (q : Nat) : Answers (execSignalPacket q s) := by
  refine servePacket_answers s _ q fun x ws t => answers_ite (.next _) ?_
  split <;> constructor

theorem execRegionPacket_answers (q : Nat) : Answers (execRegionPacket q s) :=
  servePacket_answers s _ q fun _ _ _ => afterRead_answers s _ fun _ _ => answers_ite (.next _) (.next _)

theorem execLaunchPacket_answers (q : Nat) : Answers (execLaunchPacket q s) := by
  refine servePacket_answers s _ q fun x pk t => afterRead_answers s _ fun ws t1 => answers_ite (.next _) ?_
  refine afterRead_answers s _ fun bs t2 => answers_ite (.next _) (afterRead_answers s _ fun image t3 => answers_ite ?_ (.next _))
  split <;> constructor

/-! ## Events that decide by themselves: every leaf of the decision is a next state -/

theorem execSegmentStart_answers (c : Nat) : Answers (execSegmentStart c s) := by
  unfold execSegmentStart
  split
  · split
    · refine answers_ite (.next _) (answers_ite (answers_ite (.next _) ?_) (.next _))
      split <;> exact .next _
    · exact .next _
  · exact .next _

theorem execEndMarker_answers (c : Nat) : Answers (execEndMarker c s) := by
  unfold execEndMarker
  split
  · split
    · refine answers_ite (.next _) (answers_ite (answers_ite (.next _) ?_) (.next _))
      split <;> exact .next _
    · exact .next _
  · exact .next _

theorem execDescentUnstall_answers (c : Nat) : Answers (execDescentUnstall c s) := by
  unfold execDescentUnstall
  split
  · split
    · exact answers_ite (.next _) (.next _)
    · exact .next _
  · exact .next _

theorem execDebugResume_answers (c : Nat) : Answers (execDebugResume c s) := by
  unfold execDebugResume
  split
  · split
    · exact answers_ite (.next _) (.next _)
    · exact .next _
  · exact .next _

theorem execGridRetire_answers (l : Nat) : Answers (execGridRetire l s) := by
  unfold execGridRetire
  split
  · exact answers_ite (.next _) (.next _)
  · exact .next _

theorem execReelWave_answers (cl : Nat) : Answers (execReelWave cl s) := by
  unfold execReelWave
  extract_lets
  split
  · exact .next _
  · refine answers_ite (.next _) ?_
    split <;> exact .next _

theorem execWaitaWake_answers (c : Nat) : Answers (execWaitaWake c s) := by
  unfold execWaitaWake
  split
  · exact .next _
  · split
    · refine answers_ite (.next _) ?_
      extract_lets leave
      split <;> exact .next _
    · exact .next _

theorem execGrowGrant_answers (c : Nat) : Answers (execGrowGrant c s) := by
  unfold execGrowGrant
  split
  · exact .next _
  · split
    · exact .next _
    · refine answers_ite (.next _) ?_
      split <;> exact .next _

theorem execOwnerPop_answers (k : Nat) : Answers (execOwnerPop k s) := by
  unfold execOwnerPop
  extract_lets
  split
  · exact .next _
  · refine answers_ite (.next _) ?_
    extract_lets s1
    clear_value s1
    split
    · exact .next _
    · extract_lets
      split
      · exact .next _
      · exact answers_ite (.next _) (.next _)

theorem execTaskStart_answers (k : Nat) : Answers (execTaskStart k s) := by
  unfold execTaskStart
  extract_lets
  refine answers_ite (.next _) ?_
  split <;> exact .next _

theorem execEngineOpStart_answers (k cls : Nat) : Answers (execEngineOpStart k cls s) := by
  unfold execEngineOpStart
  split
  · exact .next _
  · refine answers_ite (.next _) (answers_ite ?_ (.next _))
    split <;> exact .next _

theorem execEngineResume_answers (op : Nat) : Answers (execEngineResume op s) := by
  unfold execEngineResume
  split
  · exact .next _
  · split
    · exact answers_ite (.next _) (.next _)
    · exact answers_ite (.next _) (answers_ite (.next _) (.next _))
    · exact .next _

theorem execOctetStart_answers (k i : Nat) : Answers (execOctetStart k i s) := by
  unfold execOctetStart
  extract_lets
  split
  · exact .next _
  · exact answers_ite (.next _) (answers_ite (answers_ite (.next _) (.next _)) (answers_ite (.next _) (.next _)))

theorem execSkim_answers (g : Nat) : Answers (execSkim g s) := by
  unfold execSkim
  refine answers_ite (.next _) (answers_ite ?_ ?_)
  · extract_lets
    split <;> exact .next _
  · extract_lets
    split <;> exact .next _

theorem execKill_answers : Answers (execKill s) := by
  unfold execKill
  refine answers_ite (.next _) ?_
  split
  · split
    · exact .next _
    · split <;> exact .next _
  · exact .next _

theorem execRestore_answers (l : Nat) : Answers (execRestore l s) := by
  unfold execRestore
  refine answers_ite (.next _) ?_
  split
  · exact answers_ite (.next _) (.next _)
  · split
    · split <;> exact .next _
    · exact .next _
  · exact .next _

theorem execPlacement_answers (l : Nat) : Answers (execPlacement l s) := by
  unfold execPlacement
  split
  · exact .next _
  · refine answers_ite (.next _) (answers_ite (.next _) (answers_ite (.next _) ?_))
    split
    · exact answers_ite (.next _) (.next _)
    · refine answers_ite (.next _) (answers_ite (answers_ite (.next _) (.next _)) ?_)
      split
      · exact answers_ite (.next _) (.next _)
      · exact .next _

theorem execDepNotification_answers : Answers (execDepNotification s) := by
  unfold execDepNotification
  split
  · exact .next _
  · extract_lets
    split
    · exact answers_ite (.next _) (.next _)
    · exact .next _

theorem execActiveSetSwap_answers (c : Nat) : Answers (execActiveSetSwap c s) := by
  unfold execActiveSetSwap
  split
  · exact .next _
  · refine answers_ite (.next _) ?_
    split
    · exact .next _
    · exact answers_ite (.next _) (answers_ite (.next _) (.next _))

theorem execAgelimSwap_answers (c : Nat) : Answers (execAgelimSwap c s) := by
  unfold execAgelimSwap
  split
  · exact .next _
  · refine answers_ite (.next _) ?_
    split <;> exact .next _

theorem execDoorbell_answers (v : DWord) : Answers (execDoorbell v s) := by
  unfold execDoorbell
  extract_lets
  split
  · exact .next _
  · refine answers_ite (.next _) (answers_ite (.next _) ?_)
    exact answers_ite (.next _) (answers_ite (.next _) (.next _))

theorem execQueueCreate_answers (v : DWord) : Answers (execQueueCreate v s) := by
  unfold execQueueCreate
  exact answers_ite (.next _) (answers_ite (.next _) (answers_ite (.next _) (.next _)))

theorem execQueueSlotTake_answers (q : Nat) : Answers (execQueueSlotTake q s) := by
  unfold execQueueSlotTake
  split
  · exact .next _
  · refine answers_ite (.next _) (answers_ite (.next _) ?_)
    split
    · exact answers_ite (.next _) (.next _)
    · exact .next _

theorem execQueueUnpark_answers (q : Nat) : Answers (execQueueUnpark q s) := by
  unfold execQueueUnpark
  split
  · exact .next _
  · refine answers_ite (.next _) ?_
    split
    · exact .next _
    · exact answers_ite (.next _) (.next _)

theorem execRegisterWrite_answers (t : RegTarget) (v : DWord) : Answers (execRegisterWrite t v s) := by
  unfold execRegisterWrite
  refine answers_ite (.next _) ?_
  cases t <;> exact .next _

theorem execChurn_answers (on : Bool) : Answers (execChurn on s) := by
  unfold execChurn
  refine answers_ite (.next _) ?_
  split
  · exact .next _
  · exact answers_ite (.next _) (.next _)

theorem execBoot_answers (img : BootImage) : Answers (execBoot img s) := by
  unfold execBoot
  refine answers_ite (.next _) (answers_ite (.next _) (answers_ite ?_ (answers_ite (.next _) (answers_ite (.next _) (.next _)))))
  split <;> exact .next _

theorem execRemoteResolutionNotice_answers (id : Nat) : Answers (execRemoteResolutionNotice id s) := by
  unfold execRemoteResolutionNotice
  split
  · exact answers_ite (.next _) (answers_ite (.next _) (.next _))
  · exact answers_ite (.next _) (.next _)
  · exact .next _

theorem execRtimeout_answers (id : Nat) : Answers (execRtimeout id s) := by
  unfold execRtimeout
  refine answers_ite (.next _) ?_
  split
  · exact answers_ite (.next _) (.next _)
  · exact answers_ite (.next _) (.next _)
  · exact answers_ite (.next _) (.next _)
  · exact .next _

theorem execRemoteAnswer_answers (id : Nat) (ans : PeerAnswer) : Answers (execRemoteAnswer id ans s) := by
  unfold execRemoteAnswer
  refine answers_ite (.next _) ?_
  split
  · refine answers_ite (.next _) ?_
    cases ans <;> exact .next _
  · refine answers_ite (.next _) ?_
    cases ans <;> exact .next _
  · exact .next _

/-- Whichever operation or event it is, in whatever state (R160, R188). -/
theorem exec_answers (i : Instr) : Answers (exec i s) := by
  unfold exec
  cases i with
  | add | sub | mul | mulh | mulhu | andr | orr | xorr | shl | shr | sar | minr | maxr | minu | maxu | slt | sltu | seq
  | divu | remu | bfx => exact scalarCR_answers ..
  | clz | popc | addi | andi | ori | xori | shli | shri | sari | slti => exact scalarCI_answers ..
  | movi | movhi | movl | addiw => exact scalarCW_answers ..
  | br | bz | bnz | bltz | bgez => exact branchOn_answers ..
  | exmr | exmw => exact pureCtrl_answers ..
  | tcopy | gcopy | wbload | rcopy => exact issueOp_answers ..
  | lane => exact execLane_answers ..
  | lds | sts | sbld | sbst | satom | grow | buni | call | ret | loop | loopNext | loopLeave | endc | brl | meet | lsync | ptos
  | vtos | vtosPair | vtosFirst | segend | up | gather | bar | barc | waitf | waite | waita | tryw | fence | spawn | joinc
  | getsr | setsr | trap | sigchk | brk | nop => exact runCtrl_answers ..
  | down =>
    unfold execDown
    exact runCtrl_answers ..
  | vadd | vsub | vmul | vmulh | vmulhu | vand | vor | vxor | vshl | vshr | vsar | vmin | vmax | vminu | vmaxu | vbfx
  | vadds | fadd | fsub | fmul | fmin | fmax | fcmp | fldexp | hadd2 | hmul2 | packb => exact lane2_answers ..
  | vmad | vbfi | ffma | hfma2 => exact lane3_answers ..
  | vabs | vclz | vpopc | vmov | frcp | frsq | fsqrt | fexp | flog | frint | fexpx | fclass | unpkb => exact lane1_answers ..
  | vsel => exact mapLane_answers ..
  | shfl | shflx => exact shflLane_answers ..
  | lld | vld => exact localLoad_answers ..
  | lst | vst => exact localStore_answers ..
  | vcmp | plog | quant | vote | redux | scan | bst | bpf | pst | mma | lnop => exact runLane_answers ..
  | cvt | bld | batom | latom | pld | accrd | accwr | accz =>
    dsimp only [execCvt, execBld, execBatom, execLatom, execPld, execAccrd, execAccwr, execAccz]
    exact runLane_answers ..
  | clauseHead c => exact execClauseHead_answers s c
  | trywWake c | trywTimeout c => exact trywAgain_answers s c _
  | steal k => exact answers_ite (steal_answers s k) (.next _)
  | stealRetry k => exact execStealRetry_answers s k
  | landing op blk => exact execLanding_answers s op blk
  | contextEnd c => exact execContextEnd_answers s c
  | inboundPeerAccess r => exact execInboundPeerAccess_answers s r
  | nopPacket q | unknownPacket q => exact servePacket_answers s _ q fun _ _ _ => .next _
  | waitPacket q => exact execWaitPacket_answers s q
  | signalPacket q => exact execSignalPacket_answers s q
  | regionPacket q => exact execRegionPacket_answers s q
  | launchPacket q => exact execLaunchPacket_answers s q
  | deviceCacheEviction | devstatRead | slopeWrite | tokpoolWrite | slicectlWrite | droop | getMeasurements | debugRead | debugWrite
  | accessCounterHalve | mapChange | engineRetire | coldReset => exact .next _
  | segmentStart => exact execSegmentStart_answers ..
  | endMarker => exact execEndMarker_answers ..
  | gridRetire => exact execGridRetire_answers ..
  | descentUnstall => exact execDescentUnstall_answers ..
  | reelWave => exact execReelWave_answers ..
  | waitaWake => exact execWaitaWake_answers ..
  | growGrant => exact execGrowGrant_answers ..
  | ownerPop => exact execOwnerPop_answers ..
  | taskStart => exact execTaskStart_answers ..
  | engineOpStart => exact execEngineOpStart_answers ..
  | engineResume => exact execEngineResume_answers ..
  | octetStart => exact execOctetStart_answers ..
  | skim => exact execSkim_answers ..
  | kill => exact execKill_answers ..
  | restore => exact execRestore_answers ..
  | placement => exact execPlacement_answers ..
  | depNotification => exact execDepNotification_answers ..
  | activeSetSwap => exact execActiveSetSwap_answers ..
  | agelimSwap => exact execAgelimSwap_answers ..
  | doorbell => exact execDoorbell_answers ..
  | queueCreate => exact execQueueCreate_answers ..
  | queueSlotTake => exact execQueueSlotTake_answers ..
  | queueUnpark => exact execQueueUnpark_answers ..
  | registerWrite => exact execRegisterWrite_answers ..
  | churn => exact execChurn_answers ..
  | boot => exact execBoot_answers ..
  | remoteResolutionNotice => exact execRemoteResolutionNotice_answers ..
  | rtimeout => exact execRtimeout_answers ..
  | debugResume => exact execDebugResume_answers ..
  | remoteAnswer => exact execRemoteAnswer_answers ..
  | laneCompletion | weightDelivery | octetComplete | acczPerform | l1WriteBack | pageReplay | atomicReissue | fetchRetry
  | preemption | lattolExpiry | tokenGrant | growDeadlock | selfTestEnd | faultBatchServed =>
    dsimp only [execLaneCompletion, execWeightDelivery, execOctetComplete, execAcczPerform, execL1WriteBack, execPageReplay,
      execAtomicReissue, execFetchRetry, execPreemption, execLattolExpiry, execTokenGrant, execGrowDeadlock,
      execSelfTestEnd, execFaultBatchServed]
    split
    · exact .next _
    · exact answers_ite (.next _) (.next _)
  | ringSlotTake | homeWrite | regionMigrate =>
    dsimp only [execRingSlotTake, execHomeWrite, execRegionMigrate]
    split
    · exact .next _
    · exact answers_ite (.next _) (answers_ite (.next _) (.next _))
  | supplyLoss | auxiliaryRailFailure =>
    dsimp only [execSupplyLoss, execAuxiliaryRailFailure]
    split <;> exact .next _
  | barrierOpen | tagRewrite | cacheShareChange | hostSnoop | flitReplay | pcieRecovery | queueDestroy | queueWake
  | thermalThrottle | thermalShutdown | thermalHoldTemperatureFall | partnerRetention | supplyResume | mailboxSend =>
    exact answers_ite (.next _) (.next _)
  | retrain | thermalHoldRelease => exact answers_ite (.next _) (answers_ite (.next _) (.next _))
  | hostWrite => exact answers_ite (answers_ite (.next _) (.next _)) (answers_ite (.next _) (.next _))
  | selfTest | powerCheck => exact answers_ite (.next _) (answers_ite (.next _) (answers_ite (.next _) (.next _)))

end

/-- Settles O8: no arm of `exec` refuses, and the only fault that one raises is `noFrame`. -/
theorem nothingIsRefused : Obligations.NothingIsRefused := by
  unfold Obligations.NothingIsRefused
  exact fun i s => (exec_answers s i).next_or_noFrame

end Sys2Proof.Proofs.Encoding
end
